-- ==== Sys2Proof/Word.lean ====
section
/-! DEFINITION. Words, byte lists, and the sorted key and value tables in which the model keeps sparse data.

A `Tbl` is a list of (key, value) pairs. A `Cells` table has a default value: a key that is not listed reads as the
default, and writing the default removes the entry, so equal contents are equal lists (the form `Cells.wf`). -/

namespace Sys2Proof

abbrev Byte := BitVec 8
abbrev Half := BitVec 16
abbrev Word := BitVec 32
abbrev Dword := BitVec 64
/-- A mask of the 96 lanes of a wave; bit l is lane l. -/
abbrev Mask := BitVec 96

/-- A table: a list of (key, value) pairs, kept with strictly rising keys. -/
abbrev Tbl (α : Type) := List (Nat × α)

/-- The value listed for key `k`. -/
def Tbl.find? {α : Type} : Tbl α → Nat → Option α
  | [], _ => none
  | (j, v) :: r, k => if k = j then some v else Tbl.find? r k

/-- The table with `v` listed for `k`, in the place that keeps the keys rising. -/
def Tbl.put {α : Type} : Tbl α → Nat → α → Tbl α
  | [], k, v => [(k, v)]
  | (j, w) :: r, k, v =>
    if k < j then (k, v) :: (j, w) :: r
    else if k = j then (k, v) :: r
    else (j, w) :: Tbl.put r k v

/-- The table without key `k`. -/
def Tbl.del {α : Type} : Tbl α → Nat → Tbl α
  | [], _ => []
  | (j, w) :: r, k => if k = j then Tbl.del r k else (j, w) :: Tbl.del r k

/-- The table with `f` applied to the value listed for `k`, if there is one. -/
def Tbl.modify {α : Type} : Tbl α → Nat → (α → α) → Tbl α
  | [], _, _ => []
  | (j, w) :: r, k, f => if k = j then (j, f w) :: r else (j, w) :: Tbl.modify r k f

/-- Every key of the table is above `b` and the keys rise strictly. -/
def Tbl.above {α : Type} (b : Nat) : Tbl α → Bool
  | [] => true
  | (j, _) :: r => decide (b < j) && Tbl.above j r

/-- The keys rise strictly. -/
def Tbl.sorted {α : Type} : Tbl α → Bool
  | [] => true
  | (j, _) :: r => Tbl.above j r

/-- A table whose unlisted keys read as a default value. -/
abbrev Cells (α : Type) := List (Nat × α)

/-- Read key `k`; an unlisted key reads as `d`. -/
def Cells.get {α : Type} (d : α) (m : Cells α) (k : Nat) : α := (Tbl.find? m k).getD d

/-- Write `v` at key `k`; writing the default removes the entry. -/
def Cells.set {α : Type} [DecidableEq α] (d : α) (m : Cells α) (k : Nat) (v : α) : Cells α :=
  if v = d then Tbl.del m k else Tbl.put m k v

/-- The canonical form: keys strictly rising, no entry equal to the default. -/
def Cells.wf {α : Type} [DecidableEq α] (d : α) (m : Cells α) : Bool :=
  Tbl.sorted m && m.all (fun e => decide (e.2 ≠ d))

/-- The bytes of a number, lowest first (R6: little-endian). -/
def bytesOfNat : Nat → Nat → List Byte
  | 0, _ => []
  | n + 1, x => BitVec.ofNat 8 x :: bytesOfNat n (x / 256)

/-- The number a list of bytes holds, lowest first (R6). -/
def natOfBytes : List Byte → Nat
  | [] => 0
  | b :: r => b.toNat + 256 * natOfBytes r

/-- Bits [hi:lo] of a number, as a number. -/
def bitsOf (x hi lo : Nat) : Nat := (x / 2 ^ lo) % 2 ^ (hi + 1 - lo)

/-- A bit of a Bool. -/
def b2n (b : Bool) : Nat := if b then 1 else 0

/-- The smallest multiple of `m` that is at least `x`. -/
def roundUp (x m : Nat) : Nat := (x + m - 1) / m * m

/-- The quotient rounded up. -/
def ceilDiv (x m : Nat) : Nat := (x + m - 1) / m

end Sys2Proof
end

