-- ==== Sys2Proof/Syntax.lean ====
section
/-! DEFINITION. The instructions: one constructor of `Instr` for each row of spec/opcode_table.json. The Thoyx operations of
map 1 (R84) and the Qorda instructions (R439) carry the fields of their format; the remaining rows are steps of device
units, and carry what selects the step (which wave, queue, packet) or what arrives from outside the device. -/

namespace Sys2Proof

/-- A 10-bit lane operand field (R76). In a 96-bit V3L instruction `imm 0` stands for the literal (R77). -/
inductive Operand where
  | v (n : BitVec 8)
  | ix (ad ixr : BitVec 2) (k : BitVec 4)
  | q (n : BitVec 4)
  | imm (b : BitVec 8)
  deriving DecidableEq, Repr

/-- Format C3 (R71). -/
structure C3 where
  d : BitVec 6
  a : BitVec 6
  b : BitVec 6
  ea : Bool
  eb : Bool
  deriving DecidableEq, Repr

/-- Format CI (R71). -/
structure CI where
  d : BitVec 6
  a : BitVec 6
  ea : Bool
  imm : BitVec 7
  deriving DecidableEq, Repr

/-- Format CJ (R71): the signed offset in 4-byte units. -/
structure CJ where
  off : BitVec 20
  deriving DecidableEq, Repr

/-- Format CS (R71): the register and the special-register number. -/
structure CS where
  r : BitVec 6
  num : BitVec 10
  ea : Bool
  deriving DecidableEq, Repr

/-- Format CL (R71). -/
structure CL where
  d : BitVec 6
  a : BitVec 6
  b : BitVec 6
  ea : Bool
  eb : Bool
  lit : BitVec 32
  deriving DecidableEq, Repr

/-- Format CB (R71): the signed byte offset. -/
structure CB where
  a : BitVec 6
  b : BitVec 6
  ea : Bool
  eb : Bool
  off : BitVec 32
  deriving DecidableEq, Repr

/-- Format CM (R71). -/
structure CM where
  d : BitVec 6
  a : BitVec 6
  b : BitVec 6
  ea : Bool
  eb : Bool
  width : BitVec 2
  sx : Bool
  scope : BitVec 3
  order : BitVec 2
  aop : BitVec 4
  hint : BitVec 2
  disp : BitVec 16
  deriving DecidableEq, Repr

/-- Format CE (R71). -/
structure CE where
  d : BitVec 6
  a : BitVec 6
  b : BitVec 6
  ea : Bool
  eb : Bool
  c : BitVec 6
  ec : Bool
  t : BitVec 6
  aux : BitVec 4
  opts : BitVec 15
  deriving DecidableEq, Repr

/-- Format CQ (R71): three sources under one e bit and the lane-section offset. -/
structure CQ where
  a : BitVec 6
  b : BitVec 6
  c : BitVec 6
  e : Bool
  off : BitVec 32
  deriving DecidableEq, Repr

/-- Formats V3 and V3L (R78): `lit` is present in the 96-bit form. -/
structure V3 where
  d : Operand
  a : Operand
  b : Operand
  c : Operand
  ea : Bool
  eb : Bool
  ec : Bool
  t : BitVec 4
  m : BitVec 3
  w : Bool
  sat : Bool
  lit : Option (BitVec 32)
  deriving DecidableEq, Repr

/-- Format VB (R78): condition number (three bits used), sense, join id and signed byte offset. -/
structure VB where
  c : BitVec 3
  sense : Bool
  jid : BitVec 8
  off : BitVec 32
  deriving DecidableEq, Repr

/-- Format VM (R78). -/
structure VM where
  d : Operand
  a : Operand
  qb : BitVec 4
  am : Bool
  scale : BitVec 2
  width : BitVec 3
  sx : Bool
  scope : BitVec 3
  order : BitVec 2
  hint : BitVec 2
  ea : Bool
  ed : Bool
  disp : BitVec 12
  deriving DecidableEq, Repr

/-- Format VMX (R78): VM with operands B and C and the atomic operation. -/
structure VMX where
  m : VM
  b : Operand
  c : Operand
  eb : Bool
  ec : Bool
  aop : BitVec 4
  deriving DecidableEq, Repr

/-- Format VT (R78). -/
structure VT where
  d : Operand
  a : Operand
  b : Operand
  tid : BitVec 6
  mode : BitVec 3
  hint : BitVec 2
  ea : Bool
  eb : Bool
  ed : Bool
  wreg : BitVec 8
  base : BitVec 16
  acc : BitVec 9
  w : Bool
  wsel : Bool
  tq : Bool
  aq : Bool
  ew : Bool
  deriving DecidableEq, Repr

/-- Qorda format QR (R438). -/
structure QR where
  s : Bool
  d : BitVec 4
  a : BitVec 4
  b : BitVec 4
  bs : Bool
  ty : BitVec 2
  ck : Bool
  cond : BitVec 3
  c : BitVec 4
  deriving DecidableEq, Repr

/-- Qorda format QI (R438). -/
structure QI where
  s : Bool
  d : BitVec 4
  a : BitVec 4
  x : Bool
  imm : BitVec 16
  deriving DecidableEq, Repr

/-- Qorda format QB (R438). -/
structure QB where
  cond : BitVec 4
  a : BitVec 4
  b : BitVec 4
  off : BitVec 6
  deriving DecidableEq, Repr

/-- A fabric packet (R403, R405): the header's fields and the payload. `seq` is the message kind's sequence field,
`plane` the physical plane the packet travels, `poisoned` the mark its data carries (R414). -/
structure Packet where
  kind : Nat
  source : Nat
  dest : Nat
  job : Nat
  tag : Nat
  addr : Nat
  seq : Nat
  length : Nat
  path : Nat
  multicast : Bool
  ordered : Bool
  plane : Nat
  poisoned : Bool
  payload : List Byte
  deriving DecidableEq, Repr

/-- What a patrol or demand read of a line finds (R476). -/
inductive ScrubOutcome where
  | clean
  | corrected (row bank : Nat)
  | uncorrectable
  deriving DecidableEq, Repr

/-- A 32-byte sector that is stored with a check value (R455): of HBM, of an L2 slice or of an L1 by physical address / 32; of a
team's scratchpad or accumulator store, or of a weight buffer, by byte / 32. -/
inductive StoredSector where
  | hbm (sector : Nat)
  | l2 (cluster sector : Nat)
  | l1 (core sector : Nat)
  | spad (team sector : Nat)
  | acc (team sector : Nat)
  | weights (cluster sector : Nat)
  deriving DecidableEq, Repr

/-- A function that reports ready by itself (R484). -/
inductive Function where
  | domain (d : Nat)
  | stack (k : Nat)
  | plane (p : Nat)
  | hub
  | queue (q : Nat)
  | lanePipe (core pipe : Nat)
  deriving DecidableEq, Repr

/-- The instructions and steps of the device, one constructor for each row of spec/opcode_table.json. -/
inductive Instr where
  | sadd (f : C3)
  | ssub (f : C3)
  | smul (f : C3)
  | smulhs (f : C3)
  | smulhu (f : C3)
  | sdivs (f : C3)
  | sdivu (f : C3)
  | srems (f : C3)
  | sremu (f : C3)
  | sand (f : C3)
  | sor (f : C3)
  | sxor (f : C3)
  | sandn (f : C3)
  | sshl (f : C3)
  | sshr (f : C3)
  | ssra (f : C3)
  | smins (f : C3)
  | smaxs (f : C3)
  | sminu (f : C3)
  | smaxu (f : C3)
  | sslts (f : C3)
  | ssltu (f : C3)
  | sseq (f : C3)
  | sclz (f : C3)
  | spopc (f : C3)
  | sext (f : CI)
  | zext (f : CI)
  | saddi (f : CI)
  | sandi (f : CI)
  | sori (f : CI)
  | sxori (f : CI)
  | sshli (f : CI)
  | sshri (f : CI)
  | ssrai (f : CI)
  | sslti (f : CI)
  | sli (f : CL)
  | slih (f : CL)
  | saddl (f : CL)
  | slea (f : CL)
  | sld (f : CM)
  | sst (f : CM)
  | satom (f : CM)
  | scas (f : CM)
  | sprf (f : CM)
  | b (f : CJ)
  | call (f : CJ)
  | ret (f : C3)
  | jr (f : C3)
  | beq (f : CB)
  | bne (f : CB)
  | blts (f : CB)
  | bges (f : CB)
  | bltu (f : CB)
  | bgeu (f : CB)
  | loop (f : CB)
  | lane (f : CQ)
  | lwait (f : C3)
  | recv (f : C3)
  | srs (f : CS)
  | sws (f : CS)
  | vadd (f : V3)
  | vsub (f : V3)
  | vmul (f : V3)
  | vmulh (f : V3)
  | vmad (f : V3)
  | vand (f : V3)
  | vor (f : V3)
  | vxor (f : V3)
  | vshl (f : V3)
  | vshr (f : V3)
  | vsra (f : V3)
  | vmin (f : V3)
  | vmax (f : V3)
  | vabs (f : V3)
  | vneg (f : V3)
  | vclz (f : V3)
  | vpopc (f : V3)
  | vbfe (f : V3)
  | vbfi (f : V3)
  | vadds (f : V3)
  | vsubs (f : V3)
  | vdot4 (f : V3)
  | vcmp (f : V3)
  | vsel (f : V3)
  | clog (f : V3)
  | vfadd (f : V3)
  | vfsub (f : V3)
  | vfmul (f : V3)
  | vfma (f : V3)
  | vfmin (f : V3)
  | vfmax (f : V3)
  | vrcp (f : V3)
  | vrsq (f : V3)
  | vexp2 (f : V3)
  | vlog2 (f : V3)
  | vsinp (f : V3)
  | vcosp (f : V3)
  | vtanh (f : V3)
  | vcvt (f : V3)
  | vqnt (f : V3)
  | vpal (f : V3)
  | vunpal (f : V3)
  | vpack (f : V3)
  | vunpk (f : V3)
  | vmov (f : V3)
  | vshuf (f : V3)
  | vbcast (f : V3)
  | vidx (f : V3)
  | vtos (f : V3)
  | vscan (f : V3)
  | vballot (f : V3)
  | ixset (f : V3)
  | adset (f : V3)
  | qmov (f : V3)
  | qadd (f : V3)
  | qsub (f : V3)
  | qand (f : V3)
  | qor (f : V3)
  | qxor (f : V3)
  | qshl (f : V3)
  | qshr (f : V3)
  | qli (f : V3)
  | vtoq (f : V3)
  | vld (f : VM)
  | vst (f : VM)
  | vatom (f : VMX)
  | vcas (f : VMX)
  | vldt (f : VT)
  | vstt (f : VT)
  | vste (f : VT)
  | vprf (f : VM)
  | vlda (f : VT)
  | vsta (f : VT)
  | brv (f : VB)
  | jmpv (f : VB)
  | callv (f : VB)
  | retv (f : VB)
  | regang (f : VB)
  | lend (f : VB)
  | sigv (f : V3)
  | brkv (f : VB)
  | trapv (f : VB)
  | nopv (f : V3)
  | tdef (f : CE)
  | tinv (f : CE)
  | ctload (f : CE)
  | palld (f : CE)
  | gangset (f : CE)
  | mclr (f : CE)
  | mtab (f : CE)
  | mlut (f : CE)
  | mlutg (f : CE)
  | mxpq (f : CE)
  | mout (f : CE)
  | tbdrop (f : CE)
  | mbatch (f : CE)
  | mwait (f : CE)
  | mtest (f : CE)
  | cpt (f : CE)
  | cpg (f : CE)
  | cps (f : CE)
  | cpb (f : CE)
  | cpmc (f : CE)
  | send (f : CE)
  | chpost (f : CE)
  | chpoll (f : CE)
  | fence (f : CI)
  | fenceo (f : CI)
  | fencea (f : CI)
  | bar (f : CI)
  | step (f : CI)
  | sig (f : CL)
  | hbeat (f : C3)
  | yield (f : C3)
  | waitev (f : CE)
  | qput (f : CE)
  | trap (f : CI)
  | exit (f : C3)
  | brk (f : CI)
  | nop (f : C3)
  | dtload (f : CE)
  | capset (f : CE)
  | sbload (f : CE)
  | sbflow (f : CE)
  | boxAdd (f : QR)
  | boxSub (f : QR)
  | boxMul (f : QR)
  | boxMin (f : QR)
  | boxMax (f : QR)
  | boxAnd (f : QR)
  | boxOr (f : QR)
  | boxXor (f : QR)
  | boxShl (f : QR)
  | boxShr (f : QR)
  | boxCmp (f : QR)
  | boxSel (f : QR)
  | boxAddi (f : QI)
  | boxLdi (f : QI)
  | boxLdiH (f : QI)
  | boxGetl (f : QI)
  | boxSetl (f : QI)
  | boxPld (f : QI)
  | boxPst (f : QI)
  | boxFldVector (f : QI)
  | boxFldScalar (f : QI)
  | boxFstVector (f : QI)
  | boxFstScalar (f : QI)
  | boxFinc (f : QI)
  | boxHrd (f : QI)
  | boxHwr (f : QI)
  | boxQordaTrap (f : QI)
  | boxEmit (f : QI)
  | boxPass (f : QI)
  | boxDrop (f : QI)
  | boxBr (f : QB)
  | boxRep (f : QB)
  | windowWriteAccept (i : Nat)
  | loadDataReturn (wid i : Nat) (lanes : Mask) (fromL1 : Bool)
  | recvFill (wid : Nat)
  | lwaitComplete (wid : Nat)
  | mwaitComplete (wid : Nat)
  | fenceaComplete (wid : Nat)
  | barrierComplete (lid level unit : Nat)
  | waitevWake (wid : Nat)
  | laneBlockStart (wid : Nat)
  | waveClear (core pipe : Nat)
  | mclrExecute (wid : Nat)
  | mtabExecute (wid : Nat)
  | mlutExecute (wid : Nat)
  | mlutgLatchComplete (wid : Nat)
  | mxpqExecute (wid : Nat)
  | moutExecute (wid : Nat)
  | tbdropExecute (wid : Nat)
  | copyUnit (wid op : Nat)
  | cpmcComplete (wid op : Nat)
  | sendInject (wid op : Nat)
  | encoderTileWrite (wid : Nat)
  | logReplay (wid i : Nat)
  | walkerMonitorWake (line : Nat)
  | walkerRewalkTimer (wid i : Nat)
  | faultRecordHeldWrite (ctx : Nat)
  | snapshotPageCopy (ctx va : Nat)
  | launchTake
  | cpMemoryRetry (lid : Nat)
  | waitEventSatisfied (lid : Nat)
  | teamPlace
  | teamRetire (team : Nat)
  | splitChange (core : Nat)
  | teamSave (team : Nat)
  | teamRestore (team : Nat)
  | launchComplete (lid : Nat)
  | watchdogFire (lid : Nat)
  | launchKill (lid : Nat)
  | launchRollback (lid : Nat)
  | qtailWrite (q : Nat) (v : Dword)
  | contextCreate (ctx : Nat)
  | contextDestroy (ctx : Nat)
  | contextHold (ctx : Nat)
  | contextRelease (ctx : Nat)
  | unserviceable (ctx : Nat)
  | invalidate (ctx : Nat)
  | debugWrite (ctx : Nat)
  | replayEnable (ctx : Nat)
  | resetGeneration (ctx : Nat)
  | replayIntervalStart (wid : Nat)
  | replayRun (lid wave interval out : Nat)
  | traceSampleTick (ctx : Nat)
  | readPacket (p : Packet)
  | readData (p : Packet)
  | writePacket (p : Packet)
  | maskedWrite (p : Packet)
  | atomicPacket (p : Packet)
  | atomicResult (p : Packet)
  | writeAcknowledgment (p : Packet)
  | refusal (p : Packet)
  | retryAfterResend (id : Nat)
  | invalidatePacket (p : Packet)
  | invalidateAcknowledgment (p : Packet)
  | messagePacket (p : Packet)
  | messageAcknowledgment (p : Packet)
  | emittedPacket (p : Packet)
  | managementPacket (p : Packet)
  | heldMessageRetry (ring job : Nat)
  | linkReplay (port flits : Nat)
  | portRetire (port : Nat)
  | planeDead (plane : Nat)
  | planeMapChange (map : List Nat)
  | lostPacketResend (id path : Nat)
  | packageUnreachable (pkg : Nat)
  | boxPacketRun (box : Nat)
  | pseudoChannelDrop (stack : Nat)
  | patrolRead (stack channel line : Nat) (found : ScrubOutcome)
  | ecsCountRead (stack channel : Nat) (banks : List Nat)
  | powerEpoch (dieDemand stackDemand dieTemp : List Nat)
  | thermalTrip (die : Nat)
  | counterReprogram (i : Nat) (v : Dword)
  | timeSeriesTick
  | linkEyeUpdate (port margin : Nat)
  | fieldTestRequest (v : Dword)
  | fieldTestInterval
  | fieldTestRun
  | fieldTestComplete (failed : Bool) (element : Nat)
  | deviceReset
  | functionReady (f : Function)
  | firmwareUpdate (image : List Byte)
  | attestationRequest (nonce : List Byte)
  | hostWindowAccess (off : Nat) (data : Option (List Byte)) (len : Nat)
  | registerWrite (off : Nat) (v : Dword)
  | storePerformed (wid i scope : Nat)
  | linkRetrain (port lanes margin : Nat)
  deriving DecidableEq, Repr

/-- What one step of the device is: which unit acts. A unit that has several candidates chooses among them by the rule the
spec makes architectural. The order of turns among units is the schedule, which the spec leaves open. -/
inductive Turn where
  /-- The scalar unit of a core issues one control-stream instruction (R277). -/
  | scalar (core : Nat)
  /-- A lane pipe of a core makes one selection and issues (R274). -/
  | pipe (core pipe : Nat)
  /-- The yard core of a core issues one instruction of a continuation (R267). -/
  | yard (core : Nat)
  /-- A signal box executes the next word of its kernel (R437). -/
  | box (sel : Nat)
  /-- A device event. -/
  | event (i : Instr)
  /-- Time passes: core cycles (R3). -/
  | tick (cycles : Nat)
  /-- The translation caches take the valid entries that the walk of an address of a context reads (R398). -/
  | cacheWalk (ctx va : Nat)
  /-- They lose the entries that cover an address of a context. -/
  | evictWalk (ctx va : Nat)
  /-- The L2 slice of a cluster evicts a line of physical address 128 × `line` (R292). -/
  | evictLine (cluster line : Nat)
  /-- The two copies of a scalar unit differ in a value of the instruction at a wave's program counter (R459). -/
  | lockstepError (wid : Nat) (v0 v1 : Dword)
  /-- A demand read of a line in HBM meets an error (R457, R480). -/
  | readError (line : Nat) (found : ScrubOutcome)
  /-- The check value held beside a stored sector ceases to be that of its bytes (R457, R458). -/
  | checkError (at_ : StoredSector) (difference : Half)
  /-- The two expanders of a line that is read disagree (R456). -/
  | expandError (line : Nat)
  /-- The encoder's output for a line that a slice writes back does not expand to the line (R456). -/
  | encodeError (cluster line : Nat)
  /-- The hub performs the oldest posted host write (R360). -/
  | hostWrite
  deriving DecidableEq, Repr, Inhabited

end Sys2Proof
end

