-- ==== Sys2Proof/Config.lean ====
section
/-! DEFINITION. The free values: what the spec leaves open and the device goes on with (R8, R38, and what an implementation
fixes). Each is an opaque constant, so that nothing can be proved of its value. The counter of `State.freeCtr`, or the
operands, select the value. -/

namespace Sys2Proof.Config

/-- A byte the spec calls undefined (R8). Log entry 2. -/
opaque freeByte : Nat → Byte

/-- A 32-bit value the spec calls undefined (R8). Log entry 2. -/
opaque freeWord : Nat → Word

/-- A number the spec leaves open: a retry-after hint (R332), an eye margin, a key count. Log entry 2. -/
opaque freeNat : Nat → Nat

/-- The turn taken when the agenda lists none: the schedule among units is open. Log entry 1. -/
opaque freeTurn : Nat → Turn

/-- Which of the results within the error bound of R38 a special function delivers: function number, operand. Log entry 12. -/
opaque specialPick : Nat → Word → Nat

/-- Whether the two signatures and the version of an image verify against the vendor keys (R491, R492). Log entry 30. -/
opaque imageVerifies : List Byte → Bool

/-- The SHA-384 digest of an image, 48 bytes (R493). Log entry 30. -/
opaque digest : List Byte → List Byte

/-- The two signatures over an attestation report (R493). Log entry 30. -/
opaque signReport : List Byte → List Byte

/-- The route entries that the payload of a management packet writes, as (key, port) pairs: the spec gives the payload no
layout (R409, R428). A port of 64 or more stands for unusable. -/
opaque routeUpdate : List Byte → List (Nat × Nat)

/-- One less than the records that the ring of field-test records holds (R503). Log entry 2. -/
opaque testRingSlots : Nat

/-- The byte offset of win_base in the identity block (R483). Log entry 6. -/
opaque winBaseOffset : Nat

/-- The byte offset of the firmware status in the identity block (R483, R491). Log entry 6. -/
opaque fwStatusOffset : Nat

/-- Byte `i` of the 16-byte entry of a replay's output area for a store: its address, its width and its data, in a layout that the spec leaves
open (R357). Log entry 34. -/
opaque replayEntry : Nat → Nat → Nat → Nat → Byte

/-- The security version in a firmware image's header, whose layout the spec leaves open (R491). Log entry 30. -/
opaque imageVersion : List Byte → Nat

/-- The configuration record that the device holds (R3, R492), and the fields of a record by number: 0 security version, 1 and 2 base
and length of the management region, 3 patrol period, 4 drop threshold, 5 port threshold, 6 + k reserved pseudo-channels of
stack k. Log entry 30. -/
opaque configRecord : List Byte

opaque recordField : List Byte → Nat → Nat

end Sys2Proof.Config
end

