-- ==== Sys2Proof/Machine/State.lean ====
section
/-! DEFINITION. The state of the package as plain data: waves, teams, launches, contexts, cores, clusters, the hub, memory, the
memory stacks, the fabric and the signal boxes; the reasons a step can stop; and the state after reset. Each field cites
the rule of the spec that names it. Fields marked MODEL are the model's own. -/

namespace Sys2Proof.Machine

/-! ## Memory places and accesses -/

/-- Where a byte of storage lies once its address has been checked and translated (R281, R301). -/
inductive Place where
  /-- local memory, by physical address and the compression class of the page that names it -/
  | glob (pa cls : Nat)
  /-- a team's scratchpad, by team and byte offset (R283) -/
  | spad (team off : Nat)
  /-- a lane's private stack, by wave and lane (R287) -/
  | stack (wave lane off : Nat)
  /-- a page of a peer package, by job × 65,536 + package, and 48-bit address (R399) -/
  | remote (pkg addr : Nat)
  deriving DecidableEq, Repr

/-- The instance that executes an instruction (R321). -/
inductive Actor where
  | none
  /-- the control stream of the wave with this WAVEID -/
  | control (wid : Nat)
  /-- a path, by WAVEID and path-table entry -/
  | path (wid entry : Nat)
  /-- a continuation, by WAVEID and lane -/
  | cont (wid lane : Nat)
  /-- a signal box, by selector -/
  | box (sel : Nat)
  deriving DecidableEq, Repr

/-- The atomic operations of R75, and compare-and-swap. -/
inductive AtomicOp where
  | swap | add | and | or | xor | mins | maxs | minu | maxu | fadd | fmin | fmax | incw | decw | cas
  /-- the bits a mask names are replaced: an element narrower than a byte (R168) -/
  | insert
  deriving DecidableEq, Repr

/-- What a memory access does (R106, R158 to R160). -/
inductive AccessKind where
  | load (sx : Bool)
  | store
  | atomic (op : AtomicOp)
  deriving DecidableEq, Repr

/-- Where a returning access puts its value. -/
inductive Dest where
  | none
  /-- an s register; s63 discards (R42) -/
  | sreg (n : Nat)
  /-- v registers of the lanes, the first of each lane in the lane's record -/
  | vregs
  deriving DecidableEq, Repr

/-- Where poisoned data comes from (R457): the unit that its record names, none for the consuming unit, and whether the consumer's own
check finds the mismatch. -/
structure PoisonFrom where
  unit : Option Nat
  own : Bool
  deriving DecidableEq, Repr

/-- One lane's part of an access: its address, its destination register, the data and the compare value captured. -/
structure LaneAcc where
  lane : Nat
  addr : Nat
  /-- where the address leads, once translated -/
  place : Place := .glob 0 0
  reg : Nat
  /-- in shadow mode, the register of the lane's copy (R164) -/
  reg2 : Nat := 0
  data : Nat
  cmp : Nat
  /-- a value already formed, delivered as it is (tile loads, R167) -/
  ready : Option Nat := none
  /-- the value arrived marked poisoned (R414, R416) -/
  bad : Bool := false
  /-- where the poison that it met here comes from -/
  source : Option PoisonFrom := none
  /-- the packet that fetches it has been injected -/
  asked : Bool := false
  deriving DecidableEq, Repr

/-- A memory access of one issue, with its sources captured (R328). -/
structure Access where
  kind : AccessKind
  actor : Actor
  pc : Nat
  block : Nat
  /-- place in the wave's order of issue -/
  seq : Nat
  width : Nat
  dest : Dest
  scope : Nat
  order : Nat
  hint : Nat
  lanes : List LaneAcc
  /-- an accumulator tile whose elements the lanes name by `addr` (R170) -/
  accTile : Option Nat := none
  /-- the accesses that acquire or release, were open at the issue and precede this one in wave order (R303) -/
  after : List Nat := []
  /-- SATF bits that a tile load sets when it completes (R31, R167) -/
  flags : BitVec 4 := 0
  /-- the path-table entry of the path that issued it, or of the continuation's parent (R269) -/
  path : Nat := 0
  deriving DecidableEq, Repr

/-- A tensor descriptor (R204) as installed, with the descriptor's address. -/
structure Tensor where
  base : Nat
  index : Nat
  rows : Nat
  cols : Nat
  stride : Nat
  fmt : Nat
  kind : Nat
  trows : Nat
  tcols : Nat
  blockLen : Nat
  scaleBase : Int
  codeTable : Nat
  palette : Nat
  /-- K axis: 0 rows, 1 columns -/
  kaxis : Nat
  addr : Nat
  deriving DecidableEq, Repr

/-- A code table (R186, R187): numbers of codes by length 1 to 12, and the symbols in canonical order. Count 0 is empty. -/
structure CodeTable where
  count : Nat
  lengths : List Nat
  symbols : List Nat
  deriving DecidableEq, Repr

/-- A palette image with its count and its version (R21, R210). -/
structure Palette where
  entries : List Half
  count : Nat
  version : Nat
  deriving DecidableEq, Repr

/-- What a tile access does (R167 to R169). -/
inductive TileOp where
  | load | store | encode
  deriving DecidableEq, Repr

/-- A tile access of one issue with its sources captured (R165 to R169, R328): the tensor, palette and code table it names,
and its lanes, whose `addr` holds tile row × 2³² + tile column. -/
structure TileReq where
  op : TileOp
  mode : Nat
  base : Nat
  hint : Nat
  tid : Nat
  t : Tensor
  palette : Palette
  ct : CodeTable
  lanes : List LaneAcc
  after : List Nat := []
  deriving DecidableEq, Repr

/-- An entry of the operand log (R328): a memory access, or an instruction that reads memory as its operand, with its
captured sources and the instance that issued it. `entry` is the physical address of the page-table entry at which the
walk stopped. -/
inductive LogBody where
  | access (a : Access)
  | instr (i : Instr) (srcs : List Dword)
  | tile (r : TileReq)
  deriving DecidableEq, Repr

structure LogEntry where
  body : LogBody
  actor : Actor
  pc : Nat
  /-- block and lanes of the issue -/
  block : Nat
  mask : Nat
  seq : Nat
  va : Nat
  entry : Nat
  /-- a walk after the fault no longer stopped at an entry that is not valid (a monitor or the timer woke it, R329) -/
  awake : Bool
  path : Nat := 0
  deriving DecidableEq, Repr

/-- A store or non-returning atomic in the wave's store buffer (R315). `perf` is the widest scope at which it is performed
(0: none yet); `ticket` its place in coherence order, given when it is first performed. For each pair (b, c) of `bars` it is performed
only after every access of the wave numbered below b is performed at scope c: a release of its own, and the fences before it (R248,
R306). -/
structure BufStore where
  seq : Nat
  place : Place
  bytes : List Byte
  scope : Nat
  order : Nat
  rmw : Option (AtomicOp × Nat × Nat)
  perf : Nat
  ticket : Nat
  bars : List (Nat × Nat)
  /-- the packet that carries it, once injected (R415) -/
  sent : Option Nat
  hint : Nat
  /-- the instance that issued it, its PC and block, and the lane with its generic address, for a fault (R323) -/
  origin : Actor
  pc : Nat
  block : Nat
  lane : Nat
  va : Nat
  /-- as for an access (R303, R269) -/
  after : List Nat := []
  path : Nat := 0
  deriving DecidableEq, Repr

/-! ## Tables of a context -/

/-- A capability entry (R243). -/
structure Capability where
  kind : Nat
  perms : Nat
  pkg : Nat
  job : Nat
  ring : Nat
  allowance : Nat
  depth : Nat
  deriving DecidableEq, Repr

/-- A posted receive buffer, with what has been placed in it (R246, R247). -/
structure Posted where
  addr : Nat
  len : Nat
  placed : Option (Nat × Nat × Nat × Bool)
  deriving DecidableEq, Repr

/-- A message waiting at the junction die for placement (R431). -/
structure HeldMsg where
  pkt : Packet
  /-- cycles of its retry-after delay that are left -/
  left : Nat
  deriving DecidableEq, Repr

/-- A decode table (R85): map 1, or an image of 1,024 entries. -/
inductive DecodeTable where
  | map1
  | image (entries : List Half)
  deriving DecidableEq, Repr

/-- The fault a check or an instruction raises: its code and detail (R324). -/
structure FaultInfo where
  code : Nat
  detail : Nat
  deriving DecidableEq, Repr

/-- A fault record before it is laid out in memory (R323). -/
structure FaultRecord where
  timebase : Nat
  qentry : Nat
  detail : Nat
  block : Nat
  mask : Nat
  pc : Nat
  unit : Nat
  wave : Nat
  ends : Bool
  deferred : Bool
  cont : Bool
  path : Nat
  stream : Bool
  code : Nat
  /-- the launch the record ends or belongs to, if any (not part of the 64 bytes) -/
  lid : Option Nat
  /-- the wave whose instance raised it and its issue number then: the record is a release of what that wave wrote before (R325) -/
  after : Option (Nat × Nat) := none
  deriving DecidableEq, Repr

/-- A context (R384, context level). -/
structure Context where
  ptroot : Nat
  faultq : Nat
  faultqLog2 : Nat
  traceLog2 : Nat
  privileged : Bool
  job : Nat
  trace : Nat
  save : Nat
  frames : Nat
  pool : Nat
  tables : Nat
  poolBase : Nat
  decode : DecodeTable
  tensors : Tbl Tensor
  codeTables : Tbl CodeTable
  palettes : Tbl Palette
  caps : Tbl Capability
  /-- posted buffers by capability index, oldest first -/
  posted : Tbl (List Posted)
  inflight : Cells Nat
  /-- records lost to an event ring (R447), by capability index -/
  ringLost : Cells Nat
  faultProd : Nat
  faultCons : Nat
  heldFaults : List FaultRecord
  traceProd : Nat
  traceCons : Nat
  traceLost : Nat
  traceSeq : Nat
  /-- debug registers by the numbering of command 7 (R381): 0-7 bkpt_addr, 8-15 bkpt_ctl, 16-19 watch_addr, 20-23
  watch_ctl, 24 trace_ctl -/
  debug : Cells Dword
  generation : Nat
  /-- snapshot copies in the pool: physical page address, size, first unit, compression class (R466) -/
  snapshots : List (Nat × Nat × Nat × Nat)
  poolUsed : Nat
  /-- indices of save frames in use (R388) -/
  framesUsed : List Nat
  /-- the armed launch (R465) -/
  armed : Option Nat
  /-- replay regions: queue entry, base, log2 size (R355) -/
  replays : List (Nat × Nat × Nat)
  deriving DecidableEq, Repr

/-! ## Engine operations -/

/-- What a captured engine operation does, with everything it captured at issue (R203, R236). -/
inductive EngineOp where
  | mclr (tile k : Nat)
  | mtab (prod : Bool) (aTid : Nat) (a : Tensor) (row col : Nat) (pal : Nat) (palette : Palette) (slot : Nat)
  /-- `gang`: gang register number, its word, the recorded waves of its members, the operation's count in the gang -/
  | mlut (tile slot bTid : Nat) (b : Tensor) (ct : CodeTable) (palette : Palette) (row col p : Nat)
      (gang : Option (Nat × Nat × List Nat × Nat))
  | mxpq (dTid : Nat) (d : Tensor) (sTid : Nat) (src : Tensor) (ct : CodeTable) (palette : Palette) (row col : Nat)
  | mout (tid : Nat) (d : Tensor) (row col tile mode : Nat) (sat iacc : Bool)
  | tbdrop (all : Bool) (slot : Nat)
  | cpt (dTid : Nat) (d : Tensor) (sTid : Nat) (src : Tensor) (row col drow dcol : Nat)
  | cpg (tid : Nat) (src : Tensor) (list count off : Nat)
  | cps (tid : Nat) (d : Tensor) (list count off : Nat)
  | cpb (src dst len : Nat) (wb : Bool) (hint : Nat)
  | cpmc (src dst list units hint : Nat)
  | send (k : Nat) (cap : Capability) (src len tag : Nat)
  deriving DecidableEq, Repr

/-- The state of a table record (R221). -/
inductive SlotState where
  | pending | built | dropped | undefined
  deriving DecidableEq, Repr

/-- A table slot's record and contents (R221). -/
structure SlotRec where
  prod : Bool
  aTid : Nat
  a : Tensor
  row : Nat
  col : Nat
  pal : Nat
  palVersion : Nat
  palette : Palette
  state : SlotState
  /-- the operation that builds it -/
  builder : Nat
  /-- versions of the regions that the A tile touches -/
  regions : List (Nat × Nat)
  /-- entries, keyed (m × 16 + g) × 16 + i, as 32-bit patterns -/
  entries : Cells Word
  deriving DecidableEq, Repr

/-- A tile as it has been fetched (R191, R217): codes in the order n × K + k, and its scale bytes, one per block, or one per element for
a plain tile, whose blocks may begin in the tile before it (R205). -/
structure TileData where
  zero : Bool
  codes : List Nat
  scales : List Nat
  each : Bool := false
  deriving DecidableEq, Repr

/-- A lookup-accumulate that has passed its checks: its tables, its B tile, the K groups added so far, and the SATF bits (R37, R217). -/
structure Adding where
  table : SlotRec
  tile : TileData
  done : Nat
  flags : BitVec 4
  deriving DecidableEq, Repr

/-- Where a copy puts its bytes. -/
inductive CopyDst where
  | gen (addr : Nat)
  | weights (off : Nat)
  | window (addr : Nat)
  deriving DecidableEq, Repr

/-- A piece of a copy's data that has been read and is to be written (R238). -/
structure CopyWord where
  dst : CopyDst
  bytes : List (Byte × Bool)
  deriving DecidableEq, Repr

/-- An engine operation of a wave, in issue order, until it completes. -/
structure EngineItem where
  id : Nat
  pc : Nat
  op : EngineOp
  batch : Option Nat
  started : Bool
  /-- bytes that the copy engine has read (R236); for CPMC, units sent -/
  progress : Nat
  /-- SEND and CPMC: everything is injected, waiting for acknowledgments -/
  injected : Bool
  /-- CPMC: members that failed, by list position (R423) -/
  failed : List Nat
  /-- the wave's issue number when it was issued -/
  seq : Nat
  /-- what the wave wrote makes its results undefined (R231): 1 a write with no `FENCEO` behind it, 2 a write to scratchpad
  since the issue -/
  hazard : Nat
  /-- as for an access: the acquires of the wave before it (R317) -/
  after : List Nat := []
  /-- the list that a CPG, a CPS or a CPMC names, once it has been read (R241, R242) -/
  members : Option (List Nat) := none
  /-- a copy's bytes that are read and not yet written (R238) -/
  words : List CopyWord := []
  /-- the lines of the unit that the words fill -/
  lines : List CopyWord := []
  /-- a lookup-accumulate in progress -/
  adding : Option Adding := none
  /-- elements of its accumulator tile that the wave stored to with no `FENCEO` behind it: undefined in its results (R171) -/
  unseen : List Nat := []
  /-- watchpoints that it has hit (R351) -/
  hits : List Nat := []
  deriving DecidableEq, Repr

/-- A staged block: scale byte and 16 symbols (R196). -/
structure StagedBlock where
  scale : Nat
  syms : List Nat
  deriving DecidableEq, Repr

/-- An open tile of the encoder (R198). `complete` holds the completing wave once the last block has arrived. -/
structure OpenTile where
  tid : Nat
  t : Tensor
  row : Nat
  col : Nat
  blocks : Tbl StagedBlock
  complete : Option Nat
  ct : Option CodeTable
  /-- the append pointer lies in a peer's memory and has been asked for its value (R199) -/
  asked : Bool := false
  /-- the value that the add of the append pointer returned -/
  append : Option Nat := none
  /-- the instruction that completed it, and the watchpoints its writing has hit (R351) -/
  pc : Nat := 0
  hits : List Nat := []
  /-- how far its writes have come: 0 neither, 1 the stream, 2 the block-index entry too (R199) -/
  phase : Nat := 0
  deriving DecidableEq, Repr

/-! ## Waves -/

/-- State of a path (R263). -/
inductive PathState where
  | running
  /-- parked at a REGANG with this join id -/
  | atRegang (jid : Nat)
  | atLend
  deriving DecidableEq, Repr

/-- A path-table entry (R263). -/
structure PathEntry where
  owned : Mask
  split : Mask
  active : Mask
  pc : Nat
  sig : Word
  q12 : Dword
  q12Full : Bool
  parent : Nat
  state : PathState
  join : Nat
  /-- the levels of the stops that hold it: 0 of the instance, 1 of its wave, 2 of its launch (R350) -/
  held : List Nat
  /-- stopped at a fault (R321) -/
  faulted : Bool
  /-- its instruction fetch waits for a page (R68): the address of the word and the page-table entry at which the walk stopped -/
  fetchWait : Option (Nat × Nat)
  /-- merges completed it while it was held at a `REGANG`: it unparks when released (R265) -/
  unparkDue : Bool := false
  /-- issue numbers of the acquiring and releasing accesses that precede its next instruction in wave order (R303) -/
  syncs : List Nat := []
  /-- the issues of a `.W` instruction still to come: field value and lanes (R61) -/
  rest : List (Nat × List Nat) := []
  deriving DecidableEq, Repr

/-- A continuation (R266): a shunted lane run by the yard core. -/
structure Continuation where
  lane : Nat
  parent : Nat
  pc : Nat
  sig : Word
  q12 : Dword
  q12Full : Bool
  active : Bool
  state : PathState
  held : List Nat
  faulted : Bool
  fetchWait : Option (Nat × Nat)
  /-- created by R270, not counted in SHUNTED -/
  uncounted : Bool
  /-- as in a path (R303) -/
  syncs : List Nat := []
  deriving DecidableEq, Repr

/-- A value captured by LANE: known, or to come from the producer of an empty s register (R53). -/
inductive Capture where
  | val (v : Dword)
  | await (sreg : Nat)
  deriving DecidableEq, Repr

/-- A lane-queue entry (R113). -/
structure LaneEntry where
  off : Nat
  srcs : List Capture
  /-- accesses before the `LANE` in wave order (R303), and the issue number that the `LANE` met (R304) -/
  syncs : List Nat := []
  seq : Nat := 0
  deriving DecidableEq, Repr

/-- What the control stream does (R265, R376). -/
inductive CtlState where
  /-- placed; its clear is not complete (R48) -/
  | clearing
  | running
  | lwait
  | mwait (batch : Nat)
  | fencea (scope d : Nat)
  /-- arrived at a barrier; level 0 is a STEP -/
  | barrier (level : Nat)
  /-- WAITEV: event address, target, scope, destination -/
  | waitev (addr target scope d : Nat)
  | exited
  deriving DecidableEq, Repr

/-- A hit of a watchpoint by an engine operation, or by the encoder (operation 0), that awaits delivery (R351): the fault's detail,
the operation's PC and number, its unit, and its batch once it is closed. -/
structure EngineHit where
  detail : Nat
  unit : Nat
  pc : Nat
  op : Nat
  batch : Option Nat
  deriving DecidableEq, Repr

/-- A wave (R384, wave level). -/
structure Wave where
  uid : Nat
  team : Nat
  w : Nat
  ctl : CtlState
  /-- as in a path, for the control stream; and the stops of the wave and of its launch in force, which hold what starts under them -/
  held : List Nat
  stops : List Nat := []
  faulted : Bool
  fetchWait : Option (Nat × Nat)
  pc : Dword
  s : Cells Dword
  sEmpty : Cells Bool
  q : Cells Dword
  qEmpty : Cells Bool
  /-- key: register × 96 + lane -/
  v : Cells Word
  vEmpty : Cells Bool
  c : Cells Mask
  /-- key: register × 96 + lane -/
  ix : Cells Half
  ad : Cells Dword
  g : Cells Dword
  /-- waves recorded by GANGSET, by gang register (R219) -/
  gangUids : Tbl (List Nat)
  /-- MLUTG operations issued, by gang register (R218) -/
  gangCount : Cells Nat
  satf : BitVec 4
  satarm : BitVec 4
  rmode : BitVec 3
  asyncerr : Word
  sigc : Word
  /-- generator states by lane; 0 stands for the seeded state of R26, which is never 0 itself -/
  laneGen : Cells Word
  engGen : Word
  laneQueue : List LaneEntry
  /-- the head entry of the lane queue is running -/
  blockRunning : Bool
  blockSeq : Nat
  /-- q0 to q2 of the running block that wait for the producer of an s register (q number, s number) -/
  qAwait : List (Nat × Nat)
  returnQueue : List Dword
  recvs : List Nat
  paths : Tbl PathEntry
  conts : Tbl Continuation
  pathPtr : Nat
  pair : Bool
  highWater : Nat
  shunted : Nat
  log : List LogEntry
  loads : List Access
  stores : List BufStore
  seq : Nat
  /-- by scope: the accesses below this number precede every later store at that scope (R248) -/
  fences : Cells Nat
  /-- as in a path, for the control stream; and what the blocks that have ended hand on (R303) -/
  syncs : List Nat := []
  blockSyncs : List Nat := []
  /-- releases whose writes the wave has read: the releasing wave and the accesses that its release covers (R307, R314) -/
  readRels : List (Nat × Nat) := []
  /-- encoder tiles this wave completes and that are not yet written (R199) -/
  encoderPending : Nat
  /-- bytes the wave has written since its last `FENCEO` (R249): space, first byte, length -/
  dirty : List (Nat × Nat × Nat)
  engine : List EngineItem
  /-- accumulator tiles of lookup-accumulates that have completed, with the batch of each once it is closed (R171) -/
  doneTiles : List (Option Nat × Nat) := []
  /-- a fault an engine operation found, awaiting delivery (R230): code, detail, PC, unit class -/
  engineFault : Option (FaultInfo × Nat × Nat)
  /-- engine operations of the wave that have faulted -/
  engineFaults : Nat := 0
  /-- engine watchpoint hits awaiting delivery (R351) -/
  engineHits : List EngineHit
  barArrivals : Cells Nat
  decode : DecodeTable
  /-- the control stream stands at the boundary that a `YIELD` marks (R257) -/
  yielded : Bool
  /-- restored at another position: no instance issues before the stores that came with it are performed at DEVICE scope (R316) -/
  moved : Bool := false
  /-- replay interval number (R355) -/
  interval : Nat
  /-- a `BAR` or `STEP` has completed since the interval began, so that the next one begins (R355) -/
  intervalDue : Bool := false
  /-- what the wave's pipe did for it in its last selection (R354): 0 issued, 1 waiting on a register, 2 log or queue full,
  3 every path parked or held, 5 ready and not selected -/
  sample : Nat
  deriving DecidableEq, Repr

/-- A team (R384, team level). -/
structure Team where
  lid : Nat
  index : Nat
  core : Nat
  waves : List Nat
  granules : Nat
  spadBase : Nat
  spadSize : Nat
  spad : List Host.Cell
  spadPoison : Cells Bool
  /-- by 32-byte sector, the exclusive or of the check value held with the one of its bytes (R455) -/
  spadChecks : Cells Half := []
  versions : Cells Nat
  accBase : Nat
  accCount : Nat
  acc : Cells Word
  accPoison : Cells Bool
  accChecks : Cells Half := []
  /-- elements stored to while a pending batch accumulated into them: undefined until no such batch is pending (R171) -/
  accHot : Cells Bool := []
  slotBase : Nat
  slotCount : Nat
  /-- the records as issues see them (R214, R216), and as executions see them in issue order (R227) -/
  slots : Tbl SlotRec
  tables : Tbl SlotRec
  openTiles : List OpenTile
  /-- the lanes' own stacks: key (w × 96 + lane) × 16,384 + offset (R287) -/
  stackMem : List Host.Cell
  /-- saved: the frame index and the saved waves (R388) -/
  saved : Option (Nat × List Wave)
  deriving DecidableEq, Repr

/-! ## Launches -/

/-- The fields of a launch entry (R362). -/
structure Entry where
  ctrl : Nat
  lane : Nat
  teams : Nat
  regs : Nat
  waves : Nat
  flags : Nat
  spad : Nat
  acc : Nat
  tslots : Nat
  split : Nat
  spill : Nat
  stack : Nat
  affinity : Nat
  args : Nat
  waitAddr : Nat
  waitValue : Nat
  doneAddr : Nat
  doneAdd : Nat
  seed : Nat
  hbWindow : Nat
  timeLimit : Nat
  install : Nat
  installCount : Nat
  coreLimit : Nat
  deriving DecidableEq, Repr

/-- Where a launch stands (R365). -/
inductive LaunchState where
  /-- taken; waits for its event, for a page, or for an armed launch (R361, R465, R504) -/
  | waiting
  | running
  | complete
  | killed
  | cancelled
  | refused
  deriving DecidableEq, Repr

/-- How a fault ends a launch (R335). -/
inductive Ending where
  | kill
  /-- the core that holds the blamed unit, if one does (R464) -/
  | rollback (blamed : Option Nat)
  deriving DecidableEq, Repr

/-- A launch. -/
structure Launch where
  ctx : Nat
  queue : Nat
  qentry : Nat
  e : Entry
  prio : Nat
  order : Nat
  state : LaunchState
  /-- indices of teams not yet placed, ascending -/
  waitingTeams : List Nat
  /-- saved teams, by team key -/
  savedTeams : List Nat
  eligible : List Nat
  retired : Nat
  /-- started: its first team has been placed -/
  started : Bool
  elapsed : Nat
  hbLeft : Nat
  /-- the pending end of the launch (R336) -/
  ending : Option Ending
  rollbacks : Nat
  excluded : List Nat
  /-- an access of the command processor that waits for a page: address, write, entry (R504) -/
  cpWait : Option (Nat × Bool × Nat)
  /-- the completion event is to be written -/
  donePending : Bool
  /-- how far the way to the start has come: 0 before the wait event, 1 after it, 2 in the install list (R363 to R365) -/
  phase : Nat
  /-- entries of the install list performed (R364) -/
  installed : Nat
  /-- enqueued again at its queue's head by a rollback (R468) -/
  requeued : Bool
  /-- the place in the list of eligible cores at which the distributor's round goes on (R369) -/
  cursor : Nat
  /-- stops of the launch in force (R350) -/
  stops : List Nat := []
  /-- a fault has ended it, and the command processor has stopped its waves (R336) -/
  stopped : Bool := false
  deriving DecidableEq, Repr

/-! ## Cores, clusters, hub -/

/-- A core (R286, R274, R277). -/
structure Core where
  split : Nat
  pendingSplit : Option Nat
  /-- wave pointer of each lane pipe, as a slot of the pipe -/
  pipePtr : Cells Nat
  scalarPtr : Nat
  yardPtr : Nat
  /-- the slot that the copy engine served last (R236) -/
  copyPtr : Nat := 31
  /-- L1 copies of 128-byte lines by physical line address (R290) -/
  l1 : Tbl (List Byte)
  /-- the sectors of its lines that are poisoned, and as for an L2 line the check values, by physical address / 32 (R455) -/
  l1Poison : Cells Bool := []
  l1Checks : Cells Half := []
  /-- waves waiting for their clear, by pipe (R48) -/
  clearQ : Tbl (List Nat)
  /-- lane pipes out of service: the yard core runs their paths (R270) -/
  pipesDown : List Nat
  /-- lane pipes fenced: their slots are never chosen (R472) -/
  pipesFenced : List Nat
  /-- the core is fenced: it is eligible for no launch (R472) -/
  fenced : Bool
  deriving DecidableEq, Repr

/-- How long an L2 line is to stay (R292). -/
inductive Retention where
  | normal
  | evictFirst
  | evictLast
  deriving DecidableEq, Repr

/-- A line in an L2 slice (R291, R292): its retention state, the class of its page, the bits of its sectors (valid, dirty, poisoned), and
the last request that stored to it with the bytes of the line that it has written (R296, R299, R479). -/
structure L2Line where
  retention : Retention
  cls : Nat
  valid : BitVec 4
  dirty : BitVec 4
  bad : BitVec 4
  req : Option (Nat × Nat)
  cover : BitVec 128
  /-- by sector, the exclusive or of the check value held with the one of its bytes (R455) -/
  diff : Cells Half := []
  deriving DecidableEq, Repr

/-- A cluster (R205, R227). -/
structure Cluster where
  wb : List Host.Cell
  wbPoison : Cells Bool
  /-- as for a team's storage (R455) -/
  wbChecks : Cells Half := []
  /-- the wave slot of the cluster that the matrix unit served last (R227) -/
  matPtr : Nat
  matrixFenced : Bool
  /-- the L2 slice, by physical address / 128, and from `peerLines` on the lines of peer packages (R291, R411) -/
  l2 : Tbl L2Line := []
  deriving DecidableEq, Repr

/-- A hardware queue (R359). -/
structure Queue where
  base : Nat
  ctx : Nat
  log2 : Nat
  prio : Nat
  deviceFed : Bool
  enable : Bool
  head : Nat
  tail : Nat
  deriving DecidableEq, Repr

/-- A context control block (R380). -/
structure ControlBlock where
  cdesc : Dword
  param0 : Dword
  param1 : Dword
  command : Nat
  busy : Bool
  result : Nat
  deriving DecidableEq, Repr

/-- A write of one register through the on-chip window that waits for acceptance (R54): the issuing wave, its operation and
context, the WAVEID of the target, the register and the words of its 96 lanes. -/
structure WindowWrite where
  uid : Nat
  /-- the operation that writes -/
  op : Nat
  ctx : Nat
  target : Nat
  reg : Nat
  words : List Word
  deriving DecidableEq, Repr

/-- A field test: kind, class, die, index (R501). -/
structure FieldTest where
  kind : Nat
  cls : Nat
  die : Nat
  index : Nat
  running : Bool
  deriving DecidableEq, Repr

/-- The hub die. -/
structure Hub where
  queues : Tbl Queue
  /-- last queue served, by priority (R361) -/
  lastServed : Cells Nat
  /-- cores that have freed resources and have not offered them yet, ascending (R370) -/
  freedCores : List Nat
  /-- times a unit has been blamed, by die × 65,536 + unit field (R464, R472) -/
  blames : Cells Nat
  blocks : Tbl ControlBlock
  /-- plane map (R408): physical plane of each logical plane; version; live planes -/
  planeMap : List Nat
  mapVersion : Nat
  planesLive : Nat
  /-- readiness (R486) -/
  thermal : Nat
  hubReady : Bool
  hostReady : Bool
  planesReady : Nat
  stacksReady : Nat
  domainsReady : Nat
  queuesReady : Nat
  qerr : Nat
  /-- the fenced list: unit field, reason, die -/
  fenced : List (Nat × Nat × Nat)
  /-- MSI-X vectors raised (R483) -/
  msi : Cells Bool
  /-- power (R488) -/
  plimit : Nat
  plimitNext : Nat
  pdie : Cells Nat
  pstk : Cells Nat
  /-- per-die temperature state: dies cut by R489 -/
  hot : List Nat
  winBase : Nat
  /-- programmable counters: select word and counter word (R497) -/
  csel : Cells Dword
  ccnt : Cells Dword
  tsctl : Dword
  tsbase : Dword
  tsWrite : Nat
  tsTicks : Nat
  tsDropped : Nat
  ftctl : Dword
  ftint : Nat
  tbase : Dword
  tests : List FieldTest
  /-- records written to the test ring (R503) -/
  testsDone : Nat
  /-- firmware: status, running and staged image, highest security version, configuration record (R491, R492) -/
  fwStatus : Nat
  fwImage : List Byte
  fwStaged : Option (List Byte)
  fwVersion : Nat
  config : List Byte
  configOk : Bool
  configVersion : Nat
  /-- management region: base and length in bytes (R474, R492) -/
  mgmtBase : Nat
  mgmtLen : Nat
  dropThreshold : Nat
  portThreshold : Nat
  /-- attestation (R493): nonce of the last request, status, report, LMS signatures that remain -/
  nonce : List Byte
  attestStatus : Nat
  report : List Byte
  lmsLeft : Nat
  /-- posted writes of the host through its window that are not performed, oldest first: physical address and bytes (R360) -/
  posted : List (Nat × List Byte) := []
  deriving DecidableEq, Repr

/-- A memory stack (R475, R480). -/
structure Stack where
  period : Nat
  enable : Bool
  passes : Nat
  /-- lines read in the current pass -/
  progress : Nat
  live : Nat
  reserved : Nat
  dropCh : Nat
  busy : Bool
  result : Nat
  /-- counters by channel × 256 + word × 8 + part: the words of R480 -/
  counters : Cells Nat
  deriving DecidableEq, Repr

/-! ## Fabric and signal boxes -/

/-- What a sent packet is for. -/
inductive SentFor where
  /-- a load of a line: wave and access number -/
  | load (uid seq : Nat)
  /-- a returning atomic: wave, access number, lane -/
  | rmw (uid seq lane : Nat)
  /-- the stores of one instruction to one line: wave and access number (R299) -/
  | store (uid seq : Nat)
  | copy (uid op : Nat) (member : Nat)
  | message (uid op ctx cap : Nat)
  /-- the add of an append pointer: team, wave, tensor with its descriptor's address, tile (R199) -/
  | encode (team uid tid desc row col : Nat)
  /-- a line asked for on behalf of no access -/
  | none
  deriving DecidableEq, Repr

/-- A packet this package keeps until its acknowledgment arrives (R425). -/
structure Sent where
  pkt : Packet
  purpose : SentFor
  /-- refused: cycles left before it is sent again (R332) -/
  retry : Option Nat
  lost : Bool
  /-- the home has told this package to drop the line since: the answer to the read makes no copy -/
  stale : Bool := false
  deriving DecidableEq, Repr

/-- A fabric port (R402, R424, R500). -/
structure Port where
  lanes : Nat
  retired : Bool
  margin : Nat
  corrected : Nat
  retrains : Nat
  dropped : Nat
  deriving DecidableEq, Repr

/-- The fabric side of the package. -/
structure Fabric where
  nextId : Nat
  sent : Tbl Sent
  /-- packets given to the links, oldest first -/
  out : List Packet
  /-- route tables: key plane × 16,384 + destination × 4 + path, to a port; absent is unusable (R409) -/
  routes : Tbl Nat
  ports : Tbl Port
  /-- next sequence number by destination × 65,536 + ring (R420), and tag by destination × 8 + plane (R421) -/
  seqOut : Cells Nat
  tagOut : Cells Nat
  /-- next sequence to place by source × 65,536 + ring -/
  seqIn : Cells Nat
  /-- answers of messages placed: source, ring, sequence, answer byte -/
  msgAnswers : List (Nat × Nat × Nat × Nat)
  /-- results of atomics performed here: source, plane, tag, old value (R421) -/
  atomAnswers : List (Nat × Nat × Nat × Nat)
  /-- peer lines held in L2: key (job × 65,536 + package) × 2^48 + line address (R411); value bytes and poison -/
  copies : Tbl (List Byte × Bool)
  /-- holders of a home line, oldest read first (R413): the peer, the job and the 48-bit address it read by -/
  directory : Tbl (List (Nat × Nat × Nat))
  /-- home lines recorded as released: line, source package (R418) -/
  released : List (Nat × Nat)
  heldMsgs : List HeldMsg
  unreachable : List Nat
  deriving DecidableEq, Repr

/-- A binding of a signal box (R433). -/
structure Binding where
  job : Nat
  flowLo : Nat
  flowHi : Nat
  stages : Nat
  kinds : Nat
  partBase : Nat
  partCount : Nat
  event : Nat
  deriving DecidableEq, Repr

/-- A packet that runs on a box (R437). -/
structure BoxRun where
  pkt : Packet
  binding : Binding
  stage : Nat
  pc : Nat
  /-- e registers, key register × 16 + lane -/
  e : Cells Word
  f : Cells Word
  buf : Cells Byte
  /-- payload length in bytes, and flow, destination and tag as the kernel may rewrite them -/
  len : Nat
  flow : Nat
  dest : Nat
  tag : Nat
  /-- REP in progress: first word, words, passes, pass number, register -/
  rep : Option (Nat × Nat × Nat × Nat × Nat)
  deriving DecidableEq, Repr

/-- A signal box. -/
structure SigBox where
  kernel : List Word
  /-- flow-state records: key record × 256 + byte -/
  recs : Cells Byte
  bindings : List Binding
  /-- packets offered, oldest first, with the matching binding and the stage -/
  offered : List (Packet × Binding × Nat)
  run : Option BoxRun
  deriving DecidableEq, Repr

/-! ## The package -/

/-- A valid page-table entry in the translation caches (R398): the root of the tables it was reached from, the span of addresses that it
maps as a page number of 2^shift bytes, and the entry's 64 bits. -/
structure CachedEntry where
  root : Nat
  shift : Nat
  page : Nat
  value : Nat
  deriving DecidableEq, Repr

/-- An entry of an interval's log (R356). -/
inductive IntervalEntry where
  /-- the line of a generic address / 128, as its first load found it -/
  | image (line : Nat) (bytes : List Byte)
  /-- bytes that a later load returned and that the image does not hold -/
  | refresh (addr : Nat) (bytes : List Byte)
  /-- a value: of an atomic, an accumulator element, a special register -/
  | value (v : Nat)
  /-- a window write accepted into a register, with the PCs of the wave's instances: control stream, then paths by entry -/
  | window (reg : Nat) (words : List Word) (boundary : List Nat)
  /-- the path entry that the wave's pipe chose among several that were ready -/
  | choice (entry : Nat)
  /-- the lane of the continuation that the yard core served -/
  | yard (lane : Nat)
  deriving DecidableEq, Repr

/-- A replay interval of a wave (R355 to R357): launch, the wave's place in it, number, the state at its start, the stores issued
in it (address, width in bytes, data), its status: 0 running, 1 complete, 2 ended by a fault; its log, and the logged lines as
the wave's own writes have left them, by generic address / 128. -/
structure Interval where
  lid : Nat
  wave : Nat
  number : Nat
  start : Wave
  stores : List (Nat × Nat × Nat)
  status : Nat
  log : List IntervalEntry := []
  images : Tbl (List Byte) := []
  deriving DecidableEq, Repr

/-- The state of the package. -/
structure State where
  /-- MODEL: the schedule, first turn first -/
  agenda : List Turn
  /-- MODEL: the instance that executes; none once it has only asked for a line, or waits for a page of its instructions -/
  actor : Actor
  /-- MODEL: the step issued nothing (its unit waits) -/
  stalled : Bool
  /-- MODEL: counter of the free values -/
  freeCtr : Nat
  /-- MODEL: next unique number (waves, teams, launches, operations) -/
  nextUid : Nat
  /-- MODEL: next place in coherence order -/
  nextTicket : Nat
  /-- cycles since device reset (CLOCK, R64) -/
  clock : Nat
  /-- TIMEBASE in ns (R64) -/
  timebase : Nat
  /-- cycles not yet counted as a whole microsecond of the launch clocks -/
  subMicro : Nat
  pkg : Nat
  mem : List Host.Cell
  /-- 4-bit tag of each 128-byte line (R293), key physical address / 128 -/
  tags : Cells (BitVec 4)
  /-- by physical address / 32, the exclusive or of the check value that HBM holds with the one of the sector's bytes (R454, R456) -/
  checks : Cells Half := []
  /-- the releases in whose release sequence the value of an 8-byte word of memory lies, by address / 8: the releasing wave and the
  accesses that its release covers (R307) -/
  releases : Tbl (List (Nat × Nat)) := []
  /-- the entries that the translation caches of the package hold (R398) -/
  translations : List CachedEntry
  /-- live waves and exited waves whose slot is held, by WAVEID -/
  waves : Tbl Wave
  teams : Tbl Team
  launches : Tbl Launch
  contexts : Tbl Context
  cores : Tbl Core
  clusters : Tbl Cluster
  windowWrites : List WindowWrite
  hub : Hub
  hbm : Tbl Stack
  fabric : Fabric
  boxes : Tbl SigBox
  /-- busy and stall counters of units (R496): key unit number × 2 + (0 busy, 1 stall) -/
  unitCounters : Cells Nat
  /-- logged replay intervals (R355) -/
  intervals : List Interval
  /-- the stores that the last replay wrote to its output area, and its status: 0 complete, 1 divergent, 2 fault (R357) -/
  replayed : List (Nat × Nat × Nat)
  replayStatus : Nat
  deriving DecidableEq, Repr

/-! ## Outcomes -/

/-- Why a step stops with a fault. -/
inductive Fault where
  /-- Raised by a meaning that is called for an instance that does not exist (a Thoyx instruction with no wave to execute it,
  a Qorda instruction with no packet running). No turn does this. Safe: the device has no such step. -/
  | noInstance
  deriving DecidableEq, Repr

/-- Why a step is refused. -/
inductive Refusal where
  /-- The instruction has no meaning in the model yet. Raised by the dispatch only. Safe. -/
  | notModelled (mnemonic : String)
  deriving DecidableEq, Repr

/-- The outcome of a meaning. -/
abbrev Out := Host.Outcome State Fault Refusal

/-! ## Reset -/

/-- A core after reset: S is 0 (R286), each wave pointer at its pipe's last slot (R274), no pipe has reported ready (R270, R484).
Log entry 5 for the pointers. -/
def Core.reset : Core :=
  { split := 0, pendingSplit := none, pipePtr := [], scalarPtr := 31, yardPtr := 0, l1 := [], clearQ := [],
    pipesDown := [0, 1, 2, 3], pipesFenced := [], fenced := false }

def Cluster.reset : Cluster := { wb := [], wbPoison := [], matPtr := 127, matrixFenced := false }

/-- A queue after reset (R359). -/
def Queue.reset : Queue :=
  { base := 0, ctx := 0, log2 := 4, prio := 0, deviceFed := false, enable := false, head := 0, tail := 0 }

/-- A control block after reset (R380). -/
def ControlBlock.reset : ControlBlock :=
  { cdesc := 0, param0 := 0, param1 := 0, command := 0, busy := false, result := 0 }

/-- A stack after reset (R475): every pseudo-channel live. The reserved set and the period come from the configuration
record; until it is loaded they hold the values of log entry 7. -/
def Stack.reset : Stack :=
  { period := 24, enable := true, passes := 0, progress := 0, live := 2 ^ 64 - 1, reserved := 3 * 2 ^ 62, dropCh := 0,
    busy := false, result := 0, counters := [] }

/-- A port after reset: four lanes (R402, R500). -/
def Port.reset : Port := { lanes := 4, retired := false, margin := 0, corrected := 0, retrains := 0, dropped := 0 }

/-- A signal box after reset: no kernel, no binding, nothing offered. -/
def SigBox.reset : SigBox := { kernel := [], recs := [], bindings := [], offered := [], run := none }

/-- The hub after reset: the values R359, R408, R486, R488, R497, R498 and R501 state; log entries 5 to 7 name the others. -/
def Hub.reset : Hub :=
  { queues := [], lastServed := [], freedCores := [], blames := [], blocks := [], planeMap := [0, 1, 2, 3, 4, 5, 6, 7], mapVersion := 0,
    planesLive := 255, thermal := 0, hubReady := false, hostReady := true, planesReady := 0, stacksReady := 0,
    domainsReady := 0, queuesReady := 0, qerr := 0, fenced := [], msi := [], plimit := 2800, plimitNext := 2800,
    pdie := [], pstk := [], hot := [], winBase := 0, csel := [], ccnt := [], tsctl := 2720, tsbase := 0, tsWrite := 0,
    tsTicks := 0, tsDropped := 0, ftctl := 0, ftint := 24, tbase := 0, tests := [], testsDone := 0, fwStatus := 0, fwImage := [],
    fwStaged := none, fwVersion := 0, config := [], configOk := false, configVersion := 0, mgmtBase := 0, mgmtLen := 0,
    dropThreshold := 0, portThreshold := 0, nonce := [], attestStatus := 0, report := [], lmsLeft := 1048576 }

/-- The fabric after reset: nothing sent, nothing held. -/
def Fabric.reset : Fabric :=
  { nextId := 0, sent := [], out := [], routes := [], ports := [], seqOut := [], tagOut := [], seqIn := [],
    msgAnswers := [], atomAnswers := [], copies := [], directory := [], released := [],
    heldMsgs := [], unreachable := [] }

/-- The package right after device reset: no context, no launch, no wave; the registers as R359, R380, R408, R475, R486,
R488, R497 to R501 state. -/
def State.reset : State :=
  { agenda := [], actor := .none, stalled := false, freeCtr := 0, nextUid := 1, nextTicket := 1, clock := 0,
    timebase := 0, subMicro := 0, pkg := 0, mem := [], tags := [], releases := [], translations := [], waves := [], teams := [], launches := [],
    contexts := [], cores := [], clusters := [], windowWrites := [], hub := Hub.reset, hbm := [],
    fabric := Fabric.reset, boxes := [], unitCounters := [], intervals := [], replayed := [], replayStatus := 0 }

end Sys2Proof.Machine
end

