-- ==== Sys2Proof/Machine/Number.lean ====
section
/-! DEFINITION. Number formats, rounding, saturation and the special functions (spec/01_number_formats.md). Floating-point
arithmetic is exact arithmetic on ±m × 2^e followed by one rounding (R11, R23, R24). -/

namespace Sys2Proof.Machine

/-! ## Bit fields -/

/-- Sign extension of the low `n` bits of a number (R11). -/
def sextNat (x n : Nat) : Int := if x % 2 ^ n < 2 ^ (n - 1) then (x % 2 ^ n : Nat) else (x % 2 ^ n : Nat) - (2 ^ n : Nat)

/-- An integer as a bit pattern of `n` bits. -/
def intToNat (x : Int) (n : Nat) : Nat := (x % ((2 ^ n : Nat) : Int)).toNat

/-- `sat` of R11: the value clamped, and whether it was clamped. -/
def satRange (lo hi x : Int) : Int × Bool := if x < lo then (lo, true) else if hi < x then (hi, true) else (x, false)

/-- Number of one bits among the low `n`. -/
def popCount : Nat → Nat → Nat
  | 0, _ => 0
  | n + 1, x => x % 2 + popCount n (x / 2)

/-- Number of leading zero bits of an n-bit number, 0 to n. -/
def clz (n x : Nat) : Nat := if x % 2 ^ n = 0 then n else n - 1 - Nat.log2 (x % 2 ^ n)

/-! ## Floating-point values -/

/-- A floating-point value: ±m × 2^e, an infinity, or a NaN (R17, R19). -/
inductive Fp where
  | nan
  | inf (s : Bool)
  | fin (s : Bool) (m : Nat) (e : Int)
  deriving DecidableEq, Repr

/-- The value of an FP32 pattern (R17). -/
def fpOfFp32 (x : Nat) : Fp :=
  let s := decide (x / 2 ^ 31 % 2 = 1)
  let ex : Nat := x / 2 ^ 23 % 256
  let fr : Nat := x % 2 ^ 23
  if ex = 255 then (if fr = 0 then .inf s else .nan)
  else if ex = 0 then .fin s fr (-149)
  else .fin s (2 ^ 23 + fr) ((ex : Int) - 150)

/-- The value of a BF16 pattern: appending 16 zero bits is exact (R17). -/
def fpOfBf16 (x : Nat) : Fp := fpOfFp32 (x % 2 ^ 16 * 2 ^ 16)

/-- The two floating-point formats, by their number of fraction bits (R17). -/
inductive FpFmt where
  | fp32
  | bf16
  deriving DecidableEq, Repr

def FpFmt.frac : FpFmt → Nat
  | .fp32 => 23
  | .bf16 => 7

def FpFmt.width : FpFmt → Nat
  | .fp32 => 32
  | .bf16 => 16

def fpOf : FpFmt → Nat → Fp
  | .fp32, x => fpOfFp32 x
  | .bf16, x => fpOfBf16 x

/-- The canonical NaN (R19). -/
def canonicalNaN : FpFmt → Nat
  | .fp32 => 0x7FC00000
  | .bf16 => 0x7FC0

def signBit (f : FpFmt) (s : Bool) : Nat := if s then 2 ^ (f.width - 1) else 0

def infBits (f : FpFmt) (s : Bool) : Nat := signBit f s + 255 * 2 ^ f.frac

/-- The largest finite value (R17). -/
def maxBits (f : FpFmt) (s : Bool) : Nat := signBit f s + 255 * 2 ^ f.frac - 1

/-- A rounded result: its pattern, whether a finite result overflowed to infinity (SATF bit 3), whether it was clamped
(SATF bit 0). -/
structure Rounded where
  bits : Nat
  ovf : Bool := false
  clamped : Bool := false
  deriving DecidableEq, Repr

/-- Whether the magnitude is rounded away from zero (R23, R28): retained value `q`, discarded part `r` of `k` bits, sign,
mode, draw. -/
def roundsUp (mode : Nat) (s : Bool) (u q r k : Nat) : Bool :=
  match mode with
  | 0 => decide (2 ^ k < 2 * r) || (decide (2 * r = 2 ^ k) && decide (q % 2 = 1))
  | 1 => false
  | 2 => decide (r ≠ 0) && !s
  | 3 => decide (r ≠ 0) && s
  | _ => decide (2 ^ 16 ≤ r * 2 ^ 16 / 2 ^ k + u)

/-- m × 2^e rounded to a multiple of 2^q, as that multiple. -/
def roundTo (mode : Nat) (s : Bool) (u m : Nat) (e q : Int) : Nat :=
  if q ≤ e then m * 2 ^ (e - q).toNat
  else
    let k := (q - e).toNat
    let q0 := m / 2 ^ k
    if roundsUp mode s u q0 (m % 2 ^ k) k then q0 + 1 else q0

/-- `round(x, fmt, mode)` of a value ±m × 2^e with m ≠ 0, with R24. -/
def roundFin (f : FpFmt) (mode u : Nat) (sat : Bool) (s : Bool) (m : Nat) (e : Int) : Rounded :=
  let top : Int := (Nat.log2 m : Int) + e
  let emin : Int := -126 - (f.frac : Int)
  let q := max (top - f.frac) emin
  let r := roundTo mode s u m e q
  let mag := (q - emin).toNat * 2 ^ f.frac + r
  if 255 * 2 ^ f.frac ≤ mag then
    (if sat then { bits := maxBits f s, clamped := true } else { bits := infBits f s, ovf := true })
  else { bits := signBit f s + mag }

/-- `round` of a floating-point value: infinities and NaNs pass (R24, R19); a zero keeps its sign. -/
def roundFp (f : FpFmt) (mode u : Nat) (sat : Bool) : Fp → Rounded
  | .nan => { bits := canonicalNaN f }
  | .inf s => { bits := infBits f s }
  | .fin s m e => if m = 0 then { bits := signBit f s } else roundFin f mode u sat s m e

/-- Exact sum (R18): the sign of an exact zero depends on the mode. -/
def fpAdd (mode : Nat) : Fp → Fp → Fp
  | .nan, _ => .nan
  | _, .nan => .nan
  | .inf s, .inf t => if s = t then .inf s else .nan
  | .inf s, .fin _ _ _ => .inf s
  | .fin _ _ _, .inf t => .inf t
  | .fin s m e, .fin t n g =>
    let lo := min e g
    let a : Int := (m * 2 ^ (e - lo).toNat : Nat)
    let b : Int := (n * 2 ^ (g - lo).toNat : Nat)
    let x := (if s then -a else a) + (if t then -b else b)
    if x = 0 then
      (if m = 0 ∧ n = 0 ∧ s = t then .fin s 0 lo else .fin (decide (mode = 3)) 0 lo)
    else .fin (decide (x < 0)) x.natAbs lo

/-- Exact product (R18). -/
def fpMul : Fp → Fp → Fp
  | .nan, _ => .nan
  | _, .nan => .nan
  | .inf s, .inf t => .inf (s != t)
  | .inf s, .fin t m _ => if m = 0 then .nan else .inf (s != t)
  | .fin s m _, .inf t => if m = 0 then .nan else .inf (s != t)
  | .fin s m e, .fin t n g => .fin (s != t) (m * n) (e + g)

def fpNeg : Fp → Fp
  | .nan => .nan
  | .inf s => .inf (!s)
  | .fin s m e => .fin (!s) m e

/-- Multiplication by a power of two. -/
def fpScale (k : Int) : Fp → Fp
  | .nan => .nan
  | .inf s => .inf s
  | .fin s m e => .fin s m (e + k)

def Fp.isNaN : Fp → Bool
  | .nan => true
  | _ => false

/-- Strict order of values; −0 equals +0; false for a NaN. -/
def fpLt : Fp → Fp → Bool
  | .nan, _ => false
  | _, .nan => false
  | .inf s, .inf t => s && !t
  | .inf s, .fin _ _ _ => s
  | .fin _ _ _, .inf t => !t
  | .fin s m e, .fin t n g =>
    let lo := min e g
    let a : Int := (m * 2 ^ (e - lo).toNat : Nat)
    let b : Int := (n * 2 ^ (g - lo).toNat : Nat)
    decide ((if s then -a else a) < (if t then -b else b))

def fpEq (x y : Fp) : Bool := !x.isNaN && !y.isNaN && !fpLt x y && !fpLt y x

/-- FP minimum or maximum of R107 and R130, on patterns: −0 is less than +0, a NaN is ignored, two NaNs give the canonical
NaN. -/
def fpMinMax (f : FpFmt) (wantMax : Bool) (a b : Nat) : Nat :=
  let x := fpOf f a
  let y := fpOf f b
  if x.isNaN then (if y.isNaN then canonicalNaN f else b)
  else if y.isNaN then a
  else
    let aNeg := decide (a / 2 ^ (f.width - 1) % 2 = 1)
    let less := fpLt x y || (fpEq x y && aNeg)
    if less != wantMax then a else b

/-- The integer obtained by rounding ±m × 2^e in a mode (R25). -/
def fpRoundInt (mode u : Nat) (s : Bool) (m : Nat) (e : Int) : Int :=
  let r := roundTo mode s u m e 0
  if s then -(r : Int) else r

/-- Conversion to an integer range (R25): the value and the SATF bits it sets. -/
def fpToInt (mode u : Nat) (lo hi : Int) : Fp → Int × BitVec 4
  | .nan => (0, 2)
  | .inf s => (if s then lo else hi, 1)
  | .fin s m e =>
    let r := satRange lo hi (fpRoundInt mode u s m e)
    (r.1, if r.2 then 1 else 0)

/-- An integer as a floating-point value. -/
def fpOfInt (x : Int) : Fp := .fin (decide (x < 0)) x.natAbs 0

/-- FP32 sum with RNE, as tables, cells, atomics and reductions use it (R33, R107, R144). -/
def addRNE (a b : Nat) : Rounded := roundFp .fp32 0 0 false (fpAdd 0 (fpOfFp32 a) (fpOfFp32 b))

def subRNE (a b : Nat) : Rounded := roundFp .fp32 0 0 false (fpAdd 0 (fpOfFp32 a) (fpNeg (fpOfFp32 b)))

def mulRNE (a b : Fp) : Rounded := roundFp .fp32 0 0 false (fpMul a b)

/-- c × 2^e (R36): exact but for one RNE rounding in the subnormal range, infinity with SATF bit 3 above. -/
def scaleRNE (c : Nat) (e : Int) : Rounded := roundFp .fp32 0 0 false (fpScale e (fpOfFp32 c))

/-- BF16 as FP32, with every NaN canonical (R19, R21). -/
def bf16ToFp32 (x : Nat) : Nat := if (fpOfBf16 x).isNaN then canonicalNaN .fp32 else x % 2 ^ 16 * 2 ^ 16

/-! ## Generators -/

/-- `seed_state` of R26. -/
def seedState (seed g : Nat) : Nat :=
  let m := 2 ^ 64
  let z := (seed + (g + 1) * 0x9E3779B97F4A7C15) % m
  let z := (Nat.xor z (z / 2 ^ 30)) * 0xBF58476D1CE4E5B9 % m
  let z := (Nat.xor z (z / 2 ^ 27)) * 0x94D049BB133111EB % m
  let z := Nat.xor z (z / 2 ^ 31)
  let st := Nat.xor (z % 2 ^ 32) (z / 2 ^ 32)
  if st = 0 then 0x6D2B79F5 else st

/-- `step` of R26. -/
def genStep (st : Word) : Word :=
  let a := st ^^^ (st <<< 13)
  let b := a ^^^ (a >>> 17)
  b ^^^ (b <<< 5)

/-- The 16-bit word a draw yields from the advanced state (R27). -/
def drawOf (st : Word) : Nat := st.toNat / 2 ^ 16

/-! ## Palettes -/

/-- The distance of nearest-entry search (R22) as an FP32 magnitude pattern. -/
def paletteDistance (x : Fp) (e : Half) : Nat :=
  if fpEq (fpOfBf16 e.toNat) x then 0
  else (roundFp .fp32 0 0 false (fpAdd 0 x (fpNeg (fpOfBf16 e.toNat)))).bits % 2 ^ 31

/-- The best usable entry among those listed from index `i` (R22). -/
def nearestEntry (x : Fp) : List Half → Nat → Option (Nat × Nat) → Option (Nat × Nat)
  | [], _, best => best
  | e :: r, i, best =>
    if (fpOfBf16 e.toNat).isNaN then nearestEntry x r (i + 1) best
    else
      let d := paletteDistance x e
      nearestEntry x r (i + 1)
        (match best with
         | none => some (i, d)
         | some (j, dj) => if d < dj then some (i, d) else some (j, dj))

/-- `code_for` of R22: the code, and whether SATF bit 1 is set. -/
def codeFor (p : Palette) (x : Nat) : Nat × Bool :=
  let v := fpOfFp32 x
  if v.isNaN then (15, true)
  else match nearestEntry v (p.entries.take p.count) 0 none with
    | some (i, _) => (i, false)
    | none => (15, true)

/-- The BF16 value of a PAL4 code (R21): canonical NaN and true when the code is outside the palette. -/
def paletteRead (p : Palette) (code : Nat) : Nat × Bool :=
  if code < p.count then
    let e := (p.entries.getD code 0).toNat
    (if (fpOfBf16 e).isNaN then canonicalNaN .bf16 else e, false)
  else (canonicalNaN .bf16, true)

/-! ## Special functions (R38, R39) -/

/-- Fraction bits of the fixed-point work of the special functions. -/
def fxBits : Nat := 160

/-- π in units of 2^−160. -/
def fxPi : Nat := 0x3243F6A8885A308D313198A2E03707344A4093822

/-- ln 2 in units of 2^−160. -/
def fxLn2 : Nat := 0xB17217F7D1CF79ABC9E3B39803F2F6AF40F34326

/-- Sum of t^k / k! from term `k` on, in fixed point. -/
def fxExpTerms (t : Nat) : Nat → Nat → Nat → Nat
  | 0, _, _ => 0
  | n + 1, k, term => term + fxExpTerms t n (k + 1) (term * t / 2 ^ fxBits / (k + 1))

/-- e^t for 0 ≤ t < 1, in fixed point. -/
def fxExp (t : Nat) : Nat := fxExpTerms t 48 0 (2 ^ fxBits)

/-- 2^f for 0 ≤ f < 1, in fixed point. -/
def fxExp2 (f : Nat) : Nat := fxExp (f * fxLn2 / 2 ^ fxBits)

/-- Alternating sine terms. -/
def fxSinTerms (t2 : Nat) : Nat → Nat → Int → Int
  | 0, _, _ => 0
  | n + 1, k, term => term + fxSinTerms t2 n (k + 2) (-(term * t2 / (2 ^ fxBits : Nat) / ((k + 1) * (k + 2) : Nat)))

/-- sin(π f) for 0 ≤ f ≤ 1, in fixed point. -/
def fxSinPi (f : Nat) : Nat :=
  let g := min f (2 ^ fxBits - f)
  let t := g * fxPi / 2 ^ fxBits
  (fxSinTerms (t * t / 2 ^ fxBits) 40 1 t).toNat

/-- Bits of log2 of y, 1 ≤ y < 2, by repeated squaring. -/
def fxLog2Bits : Nat → Nat → Nat → Nat
  | 0, _, acc => acc
  | n + 1, y, acc =>
    let z := y * y / 2 ^ fxBits
    if 2 ^ (fxBits + 1) ≤ z then fxLog2Bits n (z / 2) (2 * acc + 1) else fxLog2Bits n z (2 * acc)

/-- Largest r with r² ≤ x, from bit `n` down. -/
def sqrtBits (x : Nat) : Nat → Nat → Nat
  | 0, r => r
  | n + 1, r => if (r + 2 ^ n) * (r + 2 ^ n) ≤ x then sqrtBits x n (r + 2 ^ n) else sqrtBits x n r

/-- A result known but for the error the spec allows: ±m × 2^e, at most `ulps` ulp or 2^`absExp` away (R38). The value
picked is the free value of log entry 12 where it lies within the bound, and the nearest value otherwise. -/
def boundedResult (fn : Nat) (x : Nat) (s : Bool) (m : Nat) (e : Int) (ulps : Nat) (absExp : Int) : Rounded :=
  let near := roundFp .fp32 0 0 false (.fin s m e)
  let v := (Config.specialPick fn (BitVec.ofNat 32 x)) % 2 ^ 32
  let q := max ((Nat.log2 m : Int) + e - 23) (-149)
  match fpAdd 0 (fpOfFp32 v) (.fin (!s) m e) with
  | .fin _ dm de =>
    if dm = 0 ∨ !fpLt (.fin false ulps q) (.fin false dm de) ∨ !fpLt (.fin false 1 absExp) (.fin false dm de)
    then { bits := v } else near
  | _ => near

/-- A power of two ±2^k in FP32, rounded. -/
def pow2Bits (s : Bool) (k : Int) : Rounded := roundFp .fp32 0 0 false (.fin s 1 k)

/-- Whether m is a power of two. -/
def isPow2 (m : Nat) : Bool := decide (m ≠ 0) && decide (m = 2 ^ Nat.log2 m)

/-- VRCP (function 0). -/
def spRcp (x : Nat) : Rounded :=
  match fpOfFp32 x with
  | .nan => { bits := canonicalNaN .fp32 }
  | .inf s => { bits := signBit .fp32 s }
  | .fin s m e =>
    if m = 0 then { bits := infBits .fp32 s }
    else if fpLt (.fin false m e) (.fin false 1 (-128)) then { bits := infBits .fp32 s, ovf := true }
    else if isPow2 m then pow2Bits s (-((Nat.log2 m : Int) + e))
    else boundedResult 0 x s (2 ^ fxBits / m) (-(fxBits : Int) - e) 1 (-1000)

/-- VRSQ (function 1). -/
def spRsq (x : Nat) : Rounded :=
  match fpOfFp32 x with
  | .nan => { bits := canonicalNaN .fp32 }
  | .inf s => { bits := if s then canonicalNaN .fp32 else 0 }
  | .fin s m e =>
    if m = 0 then { bits := infBits .fp32 s }
    else if s then { bits := canonicalNaN .fp32 }
    else
      let top := (Nat.log2 m : Int) + e
      if isPow2 m ∧ top % 2 = 0 then pow2Bits false (-(top / 2))
      else
        let m' := if e % 2 = 0 then m else 2 * m
        let e' := if e % 2 = 0 then e else e - 1
        boundedResult 1 x false (sqrtBits (2 ^ (2 * fxBits) / m') (fxBits + 1) 0) (-(fxBits : Int) - e' / 2) 2 (-1000)

/-- The fixed-point fraction and the integer part of ±m × 2^e, for |value| below 2^30. -/
def fxSplit (s : Bool) (m : Nat) (e : Int) : Int × Nat :=
  let v : Int := if 0 ≤ e + fxBits then (m * 2 ^ (e + fxBits).toNat : Nat) else (m / 2 ^ (-(e + fxBits)).toNat : Nat)
  let v := if s then -v else v
  (v / (2 ^ fxBits : Nat), (v % (2 ^ fxBits : Nat)).toNat)

/-- Whether ±m × 2^e is an integer. -/
def fpIsInt (m : Nat) (e : Int) : Bool := if 0 ≤ e then true else decide (m % 2 ^ (-e).toNat = 0)

/-- VEXP2 (function 2). -/
def spExp2 (x : Nat) : Rounded :=
  match fpOfFp32 x with
  | .nan => { bits := canonicalNaN .fp32 }
  | .inf s => { bits := if s then 0 else infBits .fp32 false }
  | .fin s m e =>
    if m = 0 then { bits := 0x3F800000 }
    else if !s && !fpLt (.fin s m e) (.fin false 128 0) then { bits := infBits .fp32 false, ovf := true }
    else if fpLt (.fin s m e) (.fin true 150 0) then { bits := 0 }
    else
      let p := fxSplit s m e
      if fpIsInt m e ∧ -149 ≤ p.1 then pow2Bits false p.1
      else boundedResult 2 x false (fxExp2 p.2) (p.1 - fxBits) 2 (-1000)

/-- VLOG2 (function 3). -/
def spLog2 (x : Nat) : Rounded :=
  match fpOfFp32 x with
  | .nan => { bits := canonicalNaN .fp32 }
  | .inf s => { bits := if s then canonicalNaN .fp32 else infBits .fp32 false }
  | .fin s m e =>
    if m = 0 then { bits := infBits .fp32 true }
    else if s then { bits := canonicalNaN .fp32 }
    else
      let top := (Nat.log2 m : Int) + e
      if isPow2 m then roundFp .fp32 0 0 false (fpOfInt top)
      else
        let f := fxLog2Bits 70 (m * 2 ^ (fxBits - Nat.log2 m)) 0
        let v : Int := top * (2 ^ 70 : Nat) + f
        let inBand := !fpLt (.fin false m e) (.fin false 1 (-1)) && !fpLt (.fin false 1 1) (.fin false m e)
        boundedResult 3 x (decide (v < 0)) v.natAbs (-70) 2 (if inBand then -22 else -1000)

/-- sin(π(n + f)) with f in fixed point: sign and magnitude. -/
def spSinParts (n : Int) (f : Nat) : Bool × Nat := (decide (n % 2 = 1), fxSinPi f)

/-- VSINP (function 4). -/
def spSinp (x : Nat) : Rounded :=
  match fpOfFp32 x with
  | .nan => { bits := canonicalNaN .fp32 }
  | .inf _ => { bits := canonicalNaN .fp32 }
  | .fin s m e =>
    if fpIsInt m e then { bits := signBit .fp32 s }
    else
      let p := fxSplit s m e
      if p.2 = 2 ^ (fxBits - 1) then { bits := if p.1 % 2 = 0 then 0x3F800000 else 0xBF800000 }
      else
        let r := spSinParts p.1 p.2
        boundedResult 4 x r.1 r.2 (-(fxBits : Int)) 2 (-24)

/-- VCOSP (function 5): cos(πx) = sin(π(x + 1/2)). -/
def spCosp (x : Nat) : Rounded :=
  match fpOfFp32 x with
  | .nan => { bits := canonicalNaN .fp32 }
  | .inf _ => { bits := canonicalNaN .fp32 }
  | .fin s m e =>
    if fpIsInt m e then
      (let odd := if 0 < e then false else decide (m / 2 ^ (-e).toNat % 2 = 1)
       { bits := if odd then 0xBF800000 else 0x3F800000 })
    else
      let p := fxSplit s m e
      if p.2 = 2 ^ (fxBits - 1) then { bits := 0 }
      else
        let f := p.2 + 2 ^ (fxBits - 1)
        let r := if f < 2 ^ fxBits then spSinParts p.1 f else spSinParts (p.1 + 1) (f - 2 ^ fxBits)
        boundedResult 5 x r.1 r.2 (-(fxBits : Int)) 2 (-24)

/-- VTANH (function 6). -/
def spTanh (x : Nat) : Rounded :=
  match fpOfFp32 x with
  | .nan => { bits := canonicalNaN .fp32 }
  | .inf s => { bits := signBit .fp32 s + 0x3F800000 }
  | .fin s m e =>
    if m = 0 then { bits := signBit .fp32 s }
    else if !fpLt (.fin false (10 * m) e) (.fin false 91 0) then { bits := signBit .fp32 s + 0x3F800000 }
    else if (Nat.log2 m : Int) + e < -40 then boundedResult 6 x s m e 2 (-1000)
    else
      -- tanh |x| = (E − 1) / (E + 1), E = 2^(2|x| / ln 2)
      let p := fxSplit false (2 * m) e
      let y := (p.1.toNat * 2 ^ fxBits + p.2) * 2 ^ fxBits / fxLn2
      let ex := fxExp2 (y % 2 ^ fxBits) * 2 ^ (y / 2 ^ fxBits)
      boundedResult 6 x s ((ex - 2 ^ fxBits) * 2 ^ fxBits / (ex + 2 ^ fxBits)) (-(fxBits : Int)) 2 (-1000)

end Sys2Proof.Machine
end

