-- ==== Sys2Proof/Machine/Flags.lean ====
section
/-! DEFINITION. The sticky flags (R30) and the saturating and rounding operations of one element, each giving its bits with the
SATF bits it sets (R24, R25, R29). -/

namespace Sys2Proof.Machine

/-- SATF bits (R30). -/
def satBit : BitVec 4 := 1
def invalidBit : BitVec 4 := 2
def hazardBit : BitVec 4 := 4
def ovfBit : BitVec 4 := 8

/-- The flags of a rounded result (R24, R30). -/
def roundedFlags (r : Rounded) : BitVec 4 := (if r.ovf then ovfBit else 0) ||| (if r.clamped then satBit else 0)

/-- A rounded result as bits and flags. -/
def rounded (r : Rounded) : Nat × BitVec 4 := (r.bits, roundedFlags r)

/-- `sat` to an integer format of n bits (R11, R29). -/
def satInt (signed : Bool) (n : Nat) (x : Int) : Nat × BitVec 4 :=
  let r := if signed then satRange (-(2 ^ (n - 1) : Nat)) ((2 ^ (n - 1) : Nat) - 1) x else satRange 0 ((2 ^ n : Nat) - 1) x
  (intToNat r.1 n, if r.2 then satBit else 0)

/-- Limits of an integer format of n bits. -/
def intLimits (signed : Bool) (n : Nat) : Int × Int :=
  if signed then (-(2 ^ (n - 1) : Nat), (2 ^ (n - 1) : Nat) - 1) else (0, (2 ^ n : Nat) - 1)

/-- Conversion of a floating-point value to an integer format (R25). -/
def fpToFormat (signed : Bool) (n mode u : Nat) (x : Fp) : Nat × BitVec 4 :=
  let lim := intLimits signed n
  let r := fpToInt mode u lim.1 lim.2 x
  (intToNat r.1 n, r.2)

/-- The T2 code of −1, 0 or +1 (R14). -/
def t2Code (x : Int) : Nat := if x = 0 then 0 else if x = 1 then 1 else 3

/-- The value of a T2 code; code 0b10 reads 0 and sets SATF bit 1 (R16). -/
def t2Value (c : Nat) : Int × BitVec 4 :=
  match c % 4 with
  | 0 => (0, 0)
  | 1 => (1, 0)
  | 2 => (0, invalidBit)
  | _ => (-1, 0)

/-- Narrowing to T2: sat to −1 … +1 (R133, R168). -/
def satT2 (x : Int) : Nat × BitVec 4 :=
  let r := satRange (-1) 1 x
  (t2Code r.1, if r.2 then satBit else 0)

end Sys2Proof.Machine
end

