-- ==== Sys2Proof/Machine/Fields.lean ====
section
/-! DEFINITION. Check 6 of R69 for every instruction: which field values an instruction's entry allows. Each check is a pair of
the lowest bit of the field it concerns (R70) and whether the field passes. The Qorda checks are those that R446 reports
with reason 3. -/

namespace Sys2Proof.Machine

/-- A check: the lowest bit of the field, and whether it passes. -/
abbrev Check := Nat × Bool

/-! ## Lane operands (R76) -/

def isV : Operand → Bool
  | .v _ => true
  | .ix _ _ _ => true
  | _ => false

def isDirect : Operand → Bool
  | .v _ => true
  | _ => false

def isUni : Operand → Bool
  | .q _ => true
  | .imm _ => true
  | _ => false

def isImm : Operand → Bool
  | .imm _ => true
  | _ => false

/-- The all-zero field, which an unused operand holds (R77). -/
def isZeroOp (o : Operand) : Bool := decide (o = .v 0)

/-- A condition: mode 10 with [3] zero (R76). -/
def condCheck (base : Nat) (o : Operand) : List Check :=
  match o with
  | .q n => [(base + 3, decide (n.toNat < 8))]
  | _ => [(base, false)]

/-- Direct mode with a number that is a multiple of `k` (R158, R159). -/
def directMul (k : Nat) : Operand → Bool
  | .v n => decide (n.toNat % k = 0)
  | _ => false

/-- Field C as a source type (R132): [9:4] zero. -/
def stypeOk : Operand → Bool
  | .v n => decide (n.toNat < 16)
  | _ => false

/-- The source type code in field C. -/
def stypeOf : Operand → Nat
  | .v n => n.toNat
  | _ => 16

/-- An ix or ad number in field D (R148, R149): [9:2] zero. -/
def smallOk : Operand → Bool
  | .v n => decide (n.toNat < 4)
  | _ => false

/-- The number an ix or ad destination names. -/
def smallOf : Operand → Nat
  | .v n => n.toNat % 4
  | _ => 0

/-! ## V3 and V3L (R77, R81, R82, R120) -/

/-- What an entry allows in field D. -/
inductive DKind where
  | none | vreg | cond | q | small
  deriving DecidableEq, Repr

/-- What an entry allows in a source field. -/
inductive SKind where
  | none | any | vreg | cond | uni | stype | pal
  deriving DecidableEq, Repr

/-- What an entry allows: fields, type codes, M codes, sat. -/
structure V3Spec where
  d : DKind
  a : SKind
  b : SKind
  c : SKind
  types : List Nat
  ms : List Nat
  sat : Bool
  deriving DecidableEq, Repr

def dKindChecks (k : DKind) (o : Operand) : List Check :=
  match k with
  | .none => [(12, isZeroOp o)]
  | .vreg => [(12, isV o)]
  | .cond => condCheck 12 o
  | .q => [(12, match o with | .q _ => true | _ => false)]
  | .small => [(14, smallOk o)]

/-- A palette number given as an immediate is 0 to 3 (R136). `lit` is the literal of the 96-bit form. -/
def palImmOk (lit : Option (BitVec 32)) : Operand → Bool
  | .imm b => match lit with | some l => decide (l.toNat < 4) | none => decide (b.toNat < 4)
  | _ => true

def sKindChecks (k : SKind) (base ebit : Nat) (o : Operand) (e w : Bool) (lit : Option (BitVec 32)) : List Check :=
  match k with
  | .none => [(base, isZeroOp o), (ebit, !e)]
  | .any => []
  | .vreg => [(base, isV o)]
  | .cond => condCheck base o ++ [(ebit, !e)]
  | .uni => [(base, isUni o)]
  | .stype => [(base + 4, stypeOk o), (ebit, !e)]
  | .pal => [(base, isV o == w), (base, palImmOk lit o)]

/-- In V3L a field in mode 11 is the literal with [7:0] zero, and only one field is in mode 11 (R77). -/
def literalChecks (f : V3) : List Check :=
  let z (o : Operand) : Bool := match o with | .imm b => decide (b = 0) | _ => true
  match f.lit with
  | none => []
  | some _ =>
    [(22, z f.a), (32, z f.b), (42, z f.c), (32, !(isImm f.a && isImm f.b)),
     (42, !((isImm f.a || isImm f.b) && isImm f.c))]

def v3Checks (sp : V3Spec) (f : V3) : List Check :=
  dKindChecks sp.d f.d ++ sKindChecks sp.a 22 52 f.a f.ea f.w f.lit ++ sKindChecks sp.b 32 53 f.b f.eb f.w f.lit
    ++ sKindChecks sp.c 42 54 f.c f.ec f.w f.lit ++ literalChecks f
    ++ [(55, sp.types.contains f.t.toNat), (59, sp.ms.contains f.m.toNat), (63, sp.sat || !f.sat),
        (62, decide (sp.c = .pal) || !f.w)]

/-- M as a rounding mode (R23, R81): codes 5 and 6 are reserved. -/
def roundMs : List Nat := [0, 1, 2, 3, 4, 7]

def intTypes : List Nat := [0, 1, 2, 3, 4, 5]

/-- D, A, B of packed integer types (R123). -/
def specInt3 : V3Spec := ⟨.vreg, .any, .any, .none, intTypes, [0], false⟩
def specIntS3 : V3Spec := ⟨.vreg, .any, .any, .none, [0, 2, 4], [0], false⟩
def specInt2 : V3Spec := ⟨.vreg, .any, .none, .none, intTypes, [0], false⟩
def specIntS2 : V3Spec := ⟨.vreg, .any, .none, .none, [0, 2, 4], [0], false⟩
def specInt4 : V3Spec := ⟨.vreg, .any, .any, .any, intTypes, [0], false⟩
def specFp3 : V3Spec := ⟨.vreg, .any, .any, .none, [6, 7], roundMs, true⟩
def specFpMin : V3Spec := ⟨.vreg, .any, .any, .none, [6, 7], [0], false⟩
def specSpecial : V3Spec := ⟨.vreg, .any, .none, .none, [6, 7], [0], false⟩
def specQ1 : V3Spec := ⟨.q, .uni, .none, .none, [0], [0], false⟩
def specQ2 : V3Spec := ⟨.q, .uni, .uni, .none, [0], [0], false⟩

/-- Group of a conversion type (R132). -/
def cvtGroup : Nat → Nat
  | 0 => 1 | 1 => 1 | 6 => 1 | 2 => 2 | 3 => 2 | 7 => 2 | 4 => 3 | 5 => 3 | _ => 0

/-- Whether a type code is a floating-point one. -/
def isFpType (t : Nat) : Bool := t == 6 || t == 7

/-- The source types R133 pairs with a destination type. -/
def packSources : Nat → List Nat
  | 2 => [0, 1] | 3 => [0, 1] | 7 => [6] | 4 => [2, 3] | 5 => [2, 3] | 9 => [4] | 8 => [9] | _ => []

/-- The source types R134 pairs with a destination type. -/
def unpackSources : Nat → List Nat
  | 0 => [2, 3] | 1 => [3] | 6 => [7] | 2 => [4, 5] | 3 => [5] | 4 => [9, 8] | _ => []

/-- The types R144 allows. -/
def reduceTypes : List Nat := [0, 1, 6]

/-- VDOT4 (R125). -/
def vdot4Spec (f : V3) : V3Spec :=
  if f.t = 7 then ⟨.vreg, .any, .any, .any, [7], roundMs, true⟩ else ⟨.vreg, .any, .any, .any, [4, 5], [0], false⟩

/-- VCMP (R126). -/
def vcmpSpec (f : V3) : V3Spec :=
  ⟨.cond, .any, .any, .none, [0, 1, 6], if f.t = 6 then [0, 1, 2, 3, 4, 5, 6] else [0, 1, 2, 3, 4, 5], false⟩

/-- CLOG (R128): B is unused in .NOT and .MOV. -/
def clogSpec (f : V3) : V3Spec :=
  ⟨.cond, .cond, if f.m = 4 ∨ f.m = 5 then .none else .cond, .none, [0], [0, 1, 2, 3, 4, 5], false⟩

/-- VCVT (R132): M is zero between integers and a rounding mode otherwise. -/
def vcvtSpec (f : V3) : V3Spec :=
  ⟨.vreg, .any, .none, .stype, [0, 1, 2, 3, 4, 5, 6, 7],
   if isFpType f.t.toNat || isFpType (stypeOf f.c) then roundMs else [0], false⟩

def vcvtChecks (f : V3) : List Check :=
  v3Checks (vcvtSpec f) f ++
    [(42, decide (cvtGroup (stypeOf f.c) = cvtGroup f.t.toNat) && decide (stypeOf f.c ≠ f.t.toNat))]

/-- VPACK (R133). -/
def vpackSpec (f : V3) : V3Spec :=
  ⟨.vreg, .any, .any, .stype, [2, 3, 4, 5, 7, 8, 9], if f.t = 7 then roundMs else [0], decide (f.t = 7)⟩

def vpackChecks (f : V3) : List Check :=
  v3Checks (vpackSpec f) f ++ [(42, (packSources f.t.toNat).contains (stypeOf f.c))]

/-- VUNPK (R134). -/
def vunpkSpec : V3Spec := ⟨.vreg, .any, .any, .stype, [0, 1, 2, 3, 4, 6], [0], false⟩

def vunpkChecks (f : V3) : List Check :=
  v3Checks vunpkSpec f ++ [(42, (unpackSources f.t.toNat).contains (stypeOf f.c))]

/-- The length of an instruction that has one form only; its bit is 0 (R69, check 4). -/
def onlyShort (f : V3) : List Check := [(0, decide (f.lit = none))]

def onlyLong (f : V3) : List Check := [(0, f.lit.isSome)]

/-- QLI and SIGV carry the literal in A. -/
def literalInA (f : V3) : List Check := onlyLong f ++ [(22, decide (f.a = .imm 0))]

/-! ## Memory and tile formats (R79, R83, R153, R158 to R160, R162, R165 to R170) -/

def vmAddrChecks (f : VM) : List Check :=
  if f.am then [(22, isDirect f.a), (37, decide (f.scale = 0)), (32, decide (f.qb = 0))]
  else [(32, decide (f.qb.toNat < 13))]

/-- Registers of an access of this width code (R158): 1, 2 or 4. -/
def widthRegs (w : Nat) : Nat := if w = 3 then 2 else if w = 4 then 4 else 1

def wideOk (w : Nat) (o : Operand) : Bool := if 3 ≤ w then directMul (widthRegs w) o else true

def vldChecks (f : VM) : List Check :=
  vmAddrChecks f ++
    [(12, isV f.d), (12, wideOk f.width.toNat f.d), (39, decide (f.width.toNat < 5)),
     (42, !f.sx || decide (f.width.toNat < 2)), (43, decide (f.scope.toNat < 6)), (46, decide (f.order.toNat < 2)),
     (51, !f.ed)]

def vstChecks (f : VM) : List Check :=
  vmAddrChecks f ++
    [(12, wideOk f.width.toNat f.d), (39, decide (f.width.toNat < 5)), (42, !f.sx),
     (43, decide (f.scope.toNat < 6)), (46, decide (f.order.toNat % 2 = 0))]

def vprfChecks (f : VM) : List Check :=
  vmAddrChecks f ++
    [(12, isZeroOp f.d), (39, decide (f.width = 0)), (42, !f.sx), (43, decide (f.scope = 0)), (46, decide (f.order = 0)),
     (51, !f.ed)]

/-- FADD, FMIN and FMAX act on 32 bits only (R107, R159). -/
def atomWidthOk (aop width : Nat) : Bool := !(decide (9 ≤ aop) && decide (aop ≤ 11)) || decide (width = 2)

/-- The old value goes to a v register, or nowhere: mode 11 with [7:0] zero (R159). -/
def atomDestOk (o : Operand) : Bool := isV o || decide (o = .imm 0)

def vmxChecks (f : VMX) : List Check :=
  vmAddrChecks f.m ++
    [(39, decide (f.m.width = 2 ∨ f.m.width = 3)), (12, wideOk f.m.width.toNat f.m.d), (42, !f.m.sx),
     (43, decide (f.m.scope.toNat < 6)), (64, atomDestOk f.b),
     (64, decide (f.b = .imm 0) || wideOk f.m.width.toNat f.b), (84, !f.eb)]

def vatomChecks (f : VMX) : List Check :=
  vmxChecks f ++ [(74, isZeroOp f.c), (85, !f.ec), (86, decide (f.aop.toNat < 14)), (39, atomWidthOk f.aop.toNat f.m.width.toNat)]

def vcasChecks (f : VMX) : List Check :=
  vmxChecks f ++ [(74, wideOk f.m.width.toNat f.c), (86, decide (f.aop = 0))]

/-- The uniform fields of VT (R83). `tile` is whether the accumulator tile is a field of the instruction. -/
def vtUniform (f : VT) : List Check :=
  [(46, !f.tq || decide (f.tid.toNat < 16)), (84, !f.aq || decide (f.acc.toNat < 16)),
   (56, f.w || decide (f.wreg = 0)), (90, f.w || !f.wsel), (93, f.w || !f.ew),
   (42, !(f.w && !f.wsel) || decide (f.tid = 0)), (91, !(f.w && !f.wsel) || !f.tq),
   (80, !(f.w && f.wsel) || decide (f.acc = 0)), (92, !(f.w && f.wsel) || !f.aq)]

def vtTensor (f : VT) : List Check :=
  vtUniform f ++ [(92, !f.aq), (90, !f.wsel), (80, decide (f.acc = 0))]

def vtAcc (f : VT) : List Check :=
  vtUniform f ++
    [(42, decide (f.tid = 0)), (91, !f.tq), (64, decide (f.base = 0)), (48, decide (f.mode = 0)),
     (51, decide (f.hint = 0)), (90, f.wsel == f.w)]

def vldtChecks (f : VT) : List Check :=
  vtTensor f ++ [(12, isV f.d), (55, !f.ed), (48, decide (f.mode.toNat < 4))]

def vsttChecks (f : VT) : List Check := vtTensor f ++ [(48, decide (f.mode.toNat < 3))]

def vsteChecks (f : VT) : List Check :=
  vtTensor f ++ [(48, decide (f.mode = 0)), (51, decide (f.hint = 0)), (22, isUni f.a), (32, isUni f.b)]

def vldaChecks (f : VT) : List Check := vtAcc f ++ [(12, isV f.d), (55, !f.ed)]

def vstaChecks (f : VT) : List Check := vtAcc f

/-- An offset that is a multiple of 4 (R67). -/
def offOk (off : BitVec 32) : Bool := decide (off.toNat % 4 = 0)

def vbZero (f : VB) (c sense jid off : Bool) : List Check :=
  [(12, c || decide (f.c = 0)), (15, sense || !f.sense), (16, jid || decide (f.jid = 0)),
   (32, if off then offOk f.off else decide (f.off = 0))]

/-! ## Control formats (R72, R73) -/

/-- C3 with the named fields used; the others, and their e bits, are zero. -/
def c3Zero (f : C3) (d a b : Bool) : List Check :=
  [(12, d || decide (f.d = 0)), (18, a || decide (f.a = 0)), (24, b || decide (f.b = 0)), (30, a || !f.ea),
   (31, b || !f.eb)]

def ciZero (f : CI) (d a : Bool) : List Check :=
  [(12, d || decide (f.d = 0)), (18, a || decide (f.a = 0)), (24, a || !f.ea)]

def clZero (f : CL) (d a b : Bool) : List Check :=
  [(12, d || decide (f.d = 0)), (18, a || decide (f.a = 0)), (24, b || decide (f.b = 0)), (30, a || !f.ea),
   (31, b || !f.eb)]

def cbChecks (f : CB) : List Check := [(32, offOk f.off)]

/-- The CM rows of R104. -/
def cmCommon (f : CM) : List Check :=
  [(35, decide (f.scope.toNat < 6))]

def sldChecks (f : CM) : List Check :=
  cmCommon f ++
    [(24, decide (f.b = 0)), (31, !f.eb), (34, !f.sx || decide (f.width ≠ 3)), (38, decide (f.order.toNat < 2)),
     (40, decide (f.aop = 0))]

def sstChecks (f : CM) : List Check :=
  cmCommon f ++ [(12, decide (f.d = 0)), (34, !f.sx), (38, decide (f.order.toNat % 2 = 0)), (40, decide (f.aop = 0))]

def satomChecks (f : CM) : List Check :=
  cmCommon f ++
    [(32, decide (2 ≤ f.width.toNat)), (34, !f.sx), (40, decide (f.aop.toNat < 14)),
     (32, atomWidthOk f.aop.toNat f.width.toNat)]

def scasChecks (f : CM) : List Check :=
  cmCommon f ++ [(32, decide (2 ≤ f.width.toNat)), (34, !f.sx), (40, decide (f.aop = 0))]

def sprfChecks (f : CM) : List Check :=
  [(12, decide (f.d = 0)), (24, decide (f.b = 0)), (31, !f.eb), (32, decide (f.width = 0)), (34, !f.sx),
   (35, decide (f.scope = 0)), (38, decide (f.order = 0)), (40, decide (f.aop = 0))]

/-- CE with the named register fields and t used. -/
def ceZero (f : CE) (d a b c t : Bool) : List Check :=
  [(12, d || decide (f.d = 0)), (18, a || decide (f.a = 0)), (24, b || decide (f.b = 0)), (30, a || !f.ea),
   (31, b || !f.eb), (32, c || decide (f.c = 0)), (38, c || !f.ec), (39, t || decide (f.t = 0))]

/-- aux bits from bit `lo` up are zero. -/
def auxZero (f : CE) (lo : Nat) : Check := (45 + lo, decide (f.aux.toNat < 2 ^ lo))

/-- opts bits from bit `lo` up are zero. -/
def optsZero (f : CE) (lo : Nat) : Check := (49 + lo, decide (f.opts.toNat < 2 ^ lo))

/-- The tile field of opts, [57:49]. -/
def optTile (f : CE) : Nat := f.opts.toNat % 512

/-- The slot field of opts, [63:58]. -/
def optSlot (f : CE) : Nat := f.opts.toNat / 512

/-! ## Qorda (R438 to R445) -/

/-- QR: type, cond and c allowed only where used; reserved codes (R438, R446 reason 3). -/
def qrChecks (f : QR) (cond c : Bool) : List Check :=
  [(10, decide (f.ty ≠ 3)), (6, if cond then decide (f.cond.toNat < 6) else decide (f.cond = 0)), (2, c || decide (f.c = 0))]

/-- A check of the ranges of an entry (R446 reason 4); its number is 64 or above. -/
def rangeCheck (b : Bool) : Check := (64, b)

/-- QR: registers in the file that s and bs name, a type of the entry, ck where it is allowed (R438, R440, R446 reason 4). -/
def qrRange (f : QR) (types : Nat) (ck c : Bool) : List Check :=
  [rangeCheck (decide (f.ty.toNat < types)), rangeCheck (ck || !f.ck), rangeCheck (!f.bs || (!f.s && decide (f.b.toNat < 8))),
   rangeCheck (!f.s || (decide (f.d.toNat < 8) && decide (f.a.toNat < 8) && decide (f.b.toNat < 8) && (!c || decide (f.c.toNat < 8))))]

def qiChecks (f : QI) (d a x : Bool) (immLo immHi : Nat) : List Check :=
  [(21, d || decide (f.d = 0)), (17, a || decide (f.a = 0)), (16, x || !f.x),
   (immLo, decide (f.imm.toNat / 2 ^ immLo % 2 ^ (immHi - immLo) = 0))]

/-- QI: the value of s an entry allows, which of d and a are f registers, and the number of values of imm16 (R441 to R443,
R446 reason 4). -/
def qiRange (f : QI) (s d a : Bool) (imm : Nat) : List Check :=
  [rangeCheck (f.s == s), rangeCheck (!d || decide (f.d.toNat < 8)), rangeCheck (!a || decide (f.a.toNat < 8)),
   rangeCheck (decide (f.imm.toNat < imm))]

/-- The address register of payload and record accesses: with x = 0, a is zero (R442). -/
def qAddrChecks (f : QI) (immLo : Nat) : List Check :=
  [(17, f.x || decide (f.a = 0)), (immLo, decide (f.imm.toNat / 2 ^ immLo = 0))]

/-! ## The table -/

/-- Check 6 of R69 for an instruction. Device events have no encoding and no check. -/
def checks : Instr → List Check
  | .sadd _ => []
  | .ssub _ => []
  | .smul _ => []
  | .smulhs _ => []
  | .smulhu _ => []
  | .sdivs _ => []
  | .sdivu _ => []
  | .srems _ => []
  | .sremu _ => []
  | .sand _ => []
  | .sor _ => []
  | .sxor _ => []
  | .sandn _ => []
  | .sshl _ => []
  | .sshr _ => []
  | .ssra _ => []
  | .smins _ => []
  | .smaxs _ => []
  | .sminu _ => []
  | .smaxu _ => []
  | .sslts _ => []
  | .ssltu _ => []
  | .sseq _ => []
  | .sclz f => c3Zero f true true false
  | .spopc f => c3Zero f true true false
  | .sext f => [(25, decide (1 ≤ f.imm.toNat ∧ f.imm.toNat ≤ 64))]
  | .zext f => [(25, decide (1 ≤ f.imm.toNat ∧ f.imm.toNat ≤ 64))]
  | .saddi _ => []
  | .sandi _ => []
  | .sori _ => []
  | .sxori _ => []
  | .sshli f => [(25, decide (f.imm.toNat < 64))]
  | .sshri f => [(25, decide (f.imm.toNat < 64))]
  | .ssrai f => [(25, decide (f.imm.toNat < 64))]
  | .sslti _ => []
  | .sli f => clZero f true false false
  | .slih f => clZero f true true false
  | .saddl f => clZero f true true false
  | .slea _ => []
  | .sld f => sldChecks f
  | .sst f => sstChecks f
  | .satom f => satomChecks f
  | .scas f => scasChecks f
  | .sprf f => sprfChecks f
  | .b _ => []
  | .call _ => []
  | .ret f => c3Zero f false true false
  | .jr f => c3Zero f false true false
  | .beq f => cbChecks f
  | .bne f => cbChecks f
  | .blts f => cbChecks f
  | .bges f => cbChecks f
  | .bltu f => cbChecks f
  | .bgeu f => cbChecks f
  | .loop f => cbChecks f ++ [(18, decide (f.b = 0)), (25, !f.eb)]
  | .lane f => [(32, offOk f.off)]
  | .lwait f => c3Zero f false false false
  | .recv f => c3Zero f true false false
  | .srs _ => []
  | .sws _ => []
  | .vadd f => v3Checks specInt3 f
  | .vsub f => v3Checks specInt3 f
  | .vmul f => v3Checks specInt3 f
  | .vmulh f => v3Checks specInt3 f
  | .vmad f => v3Checks specInt4 f
  | .vand f => v3Checks specInt3 f
  | .vor f => v3Checks specInt3 f
  | .vxor f => v3Checks specInt3 f
  | .vshl f => v3Checks specInt3 f
  | .vshr f => v3Checks specInt3 f
  | .vsra f => v3Checks specIntS3 f
  | .vmin f => v3Checks specInt3 f
  | .vmax f => v3Checks specInt3 f
  | .vabs f => v3Checks specIntS2 f
  | .vneg f => v3Checks specIntS2 f
  | .vclz f => v3Checks specInt2 f
  | .vpopc f => v3Checks specInt2 f
  | .vbfe f => v3Checks ⟨.vreg, .any, .any, .none, [0, 1], [0], false⟩ f
  | .vbfi f => v3Checks ⟨.vreg, .any, .any, .any, [0, 1], [0], false⟩ f
  | .vadds f => v3Checks specInt3 f
  | .vsubs f => v3Checks specInt3 f
  | .vdot4 f => v3Checks (vdot4Spec f) f
  | .vcmp f => v3Checks (vcmpSpec f) f
  | .vsel f => v3Checks ⟨.vreg, .any, .any, .cond, [0, 1, 6, 7], [0], false⟩ f
  | .clog f => v3Checks (clogSpec f) f
  | .vfadd f => v3Checks specFp3 f
  | .vfsub f => v3Checks specFp3 f
  | .vfmul f => v3Checks specFp3 f
  | .vfma f => v3Checks ⟨.vreg, .any, .any, .any, [6, 7], roundMs, true⟩ f
  | .vfmin f => v3Checks specFpMin f
  | .vfmax f => v3Checks specFpMin f
  | .vrcp f => onlyShort f ++ v3Checks specSpecial f
  | .vrsq f => onlyShort f ++ v3Checks specSpecial f
  | .vexp2 f => onlyShort f ++ v3Checks specSpecial f
  | .vlog2 f => onlyShort f ++ v3Checks specSpecial f
  | .vsinp f => onlyShort f ++ v3Checks specSpecial f
  | .vcosp f => onlyShort f ++ v3Checks specSpecial f
  | .vtanh f => onlyShort f ++ v3Checks specSpecial f
  | .vcvt f => vcvtChecks f
  | .vqnt f => v3Checks ⟨.vreg, .any, .any, .any, [2, 3, 4, 5, 8, 9], roundMs, false⟩ f
  | .vpal f => v3Checks ⟨.vreg, .any, .any, .pal, [6, 7], [0], false⟩ f
  | .vunpal f => v3Checks ⟨.vreg, .any, .none, .pal, [6, 7], [0], false⟩ f
  | .vpack f => vpackChecks f
  | .vunpk f => vunpkChecks f
  | .vmov f => v3Checks ⟨.vreg, .any, .none, .none, [0, 1, 2, 3, 4, 5, 6, 7], [0], false⟩ f
  | .vshuf f => v3Checks ⟨.vreg, .vreg, .any, .none, [0], [0], false⟩ f
  | .vbcast f => v3Checks ⟨.vreg, .any, .none, .none, [0], [0], false⟩ f
  | .vidx f => v3Checks ⟨.vreg, .any, .any, .none, [0, 1], [0], false⟩ f
  | .vtos f => v3Checks ⟨.none, .any, .none, .none, reduceTypes, [0, 1, 2, 3, 4, 5], false⟩ f
  | .vscan f => v3Checks ⟨.vreg, .any, .none, .none, reduceTypes, [0, 1, 2, 3, 4, 5], false⟩ f
  | .vballot f => v3Checks ⟨.vreg, .cond, .any, .none, [0], [0], false⟩ f
  | .ixset f => onlyShort f ++ v3Checks ⟨.small, .any, .none, .none, [0], [0], false⟩ f
  | .adset f => onlyShort f ++ v3Checks ⟨.small, .uni, .uni, .none, [0], [0], false⟩ f
  | .qmov f => onlyShort f ++ v3Checks specQ1 f
  | .qadd f => onlyShort f ++ v3Checks specQ2 f
  | .qsub f => onlyShort f ++ v3Checks specQ2 f
  | .qand f => onlyShort f ++ v3Checks specQ2 f
  | .qor f => onlyShort f ++ v3Checks specQ2 f
  | .qxor f => onlyShort f ++ v3Checks specQ2 f
  | .qshl f => onlyShort f ++ v3Checks specQ2 f
  | .qshr f => onlyShort f ++ v3Checks specQ2 f
  | .qli f => literalInA f ++ v3Checks specQ1 f
  | .vtoq f => onlyShort f ++ v3Checks ⟨.q, .any, .none, .none, reduceTypes, [0, 1, 2, 3, 4, 5], false⟩ f
  | .vld f => vldChecks f
  | .vst f => vstChecks f
  | .vatom f => vatomChecks f
  | .vcas f => vcasChecks f
  | .vldt f => vldtChecks f
  | .vstt f => vsttChecks f
  | .vste f => vsteChecks f
  | .vprf f => vprfChecks f
  | .vlda f => vldaChecks f
  | .vsta f => vstaChecks f
  | .brv f => vbZero f true true false true
  | .jmpv f => vbZero f false false false true
  | .callv f => vbZero f false false false true
  | .retv f => vbZero f false false false false
  | .regang f => vbZero f false false true false
  | .lend f => vbZero f false false false false
  | .sigv f => literalInA f ++ v3Checks ⟨.none, .uni, .none, .none, [0], [0], false⟩ f ++ [(52, !f.ea)]
  | .brkv f => vbZero f false false false true
  | .trapv f => vbZero f true true false true
  | .nopv f => onlyShort f ++ v3Checks ⟨.none, .none, .none, .none, [0], [0], false⟩ f
  | .tdef f => ceZero f false true false false true ++ [auxZero f 0, optsZero f 0]
  | .tinv f => ceZero f false false false false true ++ [auxZero f 0, optsZero f 0]
  | .ctload f => ceZero f false true false false false ++ [auxZero f 3, optsZero f 0]
  | .palld f => ceZero f false true false false false ++ [auxZero f 2, optsZero f 5, (49, decide (1 ≤ f.opts.toNat % 32 ∧ f.opts.toNat % 32 ≤ 16))]
  | .gangset f => ceZero f false true false false false ++ [auxZero f 2, optsZero f 0]
  | .mclr f => ceZero f false false false true false ++ [optsZero f 9]
  | .mtab f => ceZero f false true true false true ++ [auxZero f 3, (46, decide (f.aux.toNat % 2 = 1) || decide (f.aux.toNat / 2 % 4 = 0)), (49, decide (optTile f = 0))]
  | .mlut f => ceZero f false true true true true ++ [auxZero f 2]
  | .mlutg f => ceZero f false true true true true
  | .mxpq f => ceZero f false true true false true ++ [auxZero f 0, optsZero f 6]
  | .mout f => ceZero f false true true true true ++ [auxZero f 0, optsZero f 14, (58, roundMs.contains (f.opts.toNat / 512 % 8))]
  | .tbdrop f => ceZero f false false false false false ++ [auxZero f 1, (49, decide (optTile f = 0)), (58, decide (f.aux.toNat % 2 = 0) || decide (optSlot f = 0))]
  | .mbatch f => ceZero f false false false false false ++ [optsZero f 0]
  | .mwait f => ceZero f false false false false false ++ [optsZero f 0]
  | .mtest f => ceZero f true false false false false ++ [optsZero f 0]
  | .cpt f => ceZero f false true true true true ++ [auxZero f 0, optsZero f 6]
  | .cpg f => ceZero f false true true true true ++ [auxZero f 0, optsZero f 0]
  | .cps f => ceZero f false true true true true ++ [auxZero f 0, optsZero f 0]
  | .cpb f => ceZero f false true true true false ++ [auxZero f 2, optsZero f 1]
  | .cpmc f => ceZero f false true true true false ++ [auxZero f 2]
  | .send f => ceZero f false true true true false ++ [auxZero f 0, optsZero f 8]
  | .chpost f => ceZero f true true true false false ++ [auxZero f 0, optsZero f 8]
  | .chpoll f => ceZero f true false false false false ++ [auxZero f 0, optsZero f 8]
  | .fence f => ciZero f false false ++
      [(25, decide (f.imm.toNat % 8 < 6)), (28, decide (f.imm.toNat / 8 % 4 ≠ 0)), (31, decide (f.imm.toNat < 64)),
       (30, decide (f.imm.toNat / 32 % 2 = 0) || (decide (f.imm.toNat / 8 % 2 = 1) && decide (4 ≤ f.imm.toNat % 8)))]
  | .fenceo f => ciZero f false false ++ [(25, decide (f.imm = 0))]
  | .fencea f => ciZero f true false ++ [(25, decide (f.imm.toNat % 8 < 6)), (28, decide (f.imm.toNat < 8))]
  | .bar f => ciZero f false false ++ [(25, decide (1 ≤ f.imm.toNat % 8 ∧ f.imm.toNat % 8 < 5)), (28, decide (f.imm.toNat < 8))]
  | .step f => ciZero f false false ++ [(25, decide (f.imm = 0))]
  | .sig f => clZero f false false false
  | .hbeat f => c3Zero f false false false
  | .yield f => c3Zero f false false false
  | .waitev f => ceZero f true true true false false ++ [auxZero f 0, optsZero f 3, (49, decide (1 ≤ f.opts.toNat % 8 ∧ f.opts.toNat % 8 < 6))]
  | .qput f => ceZero f true true false false false ++ [auxZero f 0, optsZero f 6]
  | .trap f => ciZero f false true
  | .exit f => c3Zero f false false false
  | .brk f => ciZero f false false
  | .nop f => c3Zero f false false false
  | .dtload f => ceZero f false true true false false ++ [auxZero f 0, optsZero f 0]
  | .capset f => ceZero f false true true false false ++ [auxZero f 0, optsZero f 8]
  | .sbload f => ceZero f true true true false false ++ [auxZero f 0, optsZero f 0]
  | .sbflow f => ceZero f true true true false false ++ [auxZero f 0, optsZero f 0]
  | .windowWriteAccept _ => []
  | .loadDataReturn _ _ _ _ => []
  | .recvFill _ => []
  | .lwaitComplete _ => []
  | .mwaitComplete _ => []
  | .fenceaComplete _ => []
  | .barrierComplete _ _ _ => []
  | .waitevWake _ => []
  | .laneBlockStart _ => []
  | .waveClear _ _ => []
  | .mclrExecute _ => []
  | .mtabExecute _ => []
  | .mlutExecute _ => []
  | .mlutgLatchComplete _ => []
  | .mxpqExecute _ => []
  | .moutExecute _ => []
  | .tbdropExecute _ => []
  | .copyUnit _ _ => []
  | .cpmcComplete _ _ => []
  | .sendInject _ _ => []
  | .encoderTileWrite _ => []
  | .logReplay _ _ => []
  | .walkerMonitorWake _ => []
  | .walkerRewalkTimer _ _ => []
  | .faultRecordHeldWrite _ => []
  | .snapshotPageCopy _ _ => []
  | .launchTake => []
  | .cpMemoryRetry _ => []
  | .waitEventSatisfied _ => []
  | .teamPlace => []
  | .teamRetire _ => []
  | .splitChange _ => []
  | .teamSave _ => []
  | .teamRestore _ => []
  | .launchComplete _ => []
  | .watchdogFire _ => []
  | .launchKill _ => []
  | .launchRollback _ => []
  | .qtailWrite _ _ => []
  | .contextCreate _ => []
  | .contextDestroy _ => []
  | .contextHold _ => []
  | .contextRelease _ => []
  | .unserviceable _ => []
  | .invalidate _ => []
  | .debugWrite _ => []
  | .replayEnable _ => []
  | .resetGeneration _ => []
  | .replayIntervalStart _ => []
  | .replayRun _ _ _ _ => []
  | .traceSampleTick _ => []
  | .readPacket _ => []
  | .readData _ => []
  | .writePacket _ => []
  | .maskedWrite _ => []
  | .atomicPacket _ => []
  | .atomicResult _ => []
  | .writeAcknowledgment _ => []
  | .refusal _ => []
  | .retryAfterResend _ => []
  | .invalidatePacket _ => []
  | .invalidateAcknowledgment _ => []
  | .messagePacket _ => []
  | .messageAcknowledgment _ => []
  | .emittedPacket _ => []
  | .managementPacket _ => []
  | .heldMessageRetry _ _ => []
  | .linkReplay _ _ => []
  | .portRetire _ => []
  | .planeDead _ => []
  | .planeMapChange _ => []
  | .lostPacketResend _ _ => []
  | .packageUnreachable _ => []
  | .boxPacketRun _ => []
  | .boxAdd f => qrChecks f false false ++ qrRange f 3 true false
  | .boxSub f => qrChecks f false false ++ qrRange f 3 true false
  | .boxMul f => qrChecks f false false ++ qrRange f 3 true false
  | .boxMin f => qrChecks f false false ++ qrRange f 3 false false
  | .boxMax f => qrChecks f false false ++ qrRange f 3 false false
  | .boxAnd f => qrChecks f false false ++ qrRange f 1 false false
  | .boxOr f => qrChecks f false false ++ qrRange f 1 false false
  | .boxXor f => qrChecks f false false ++ qrRange f 1 false false
  | .boxShl f => qrChecks f false false ++ qrRange f 2 false false
  | .boxShr f => qrChecks f false false ++ qrRange f 2 false false
  | .boxCmp f => qrChecks f true false ++ qrRange f 3 false false
  | .boxSel f => qrChecks f false true ++ qrRange f 1 false true
  | .boxAddi f => [(16, !f.x)] ++ qiRange f f.s f.s f.s 65536
  | .boxLdi f => [(16, !f.x)] ++ qiChecks f true false true 16 16 ++ qiRange f f.s f.s false 65536
  | .boxLdiH f => [(16, f.x)] ++ qiChecks f true false true 16 16 ++ qiRange f f.s f.s false 65536
  | .boxGetl f => qiChecks f true true false 16 16 ++ qiRange f false true false 16
  | .boxSetl f => qiChecks f true true false 16 16 ++ qiRange f false false true 16
  | .boxPld f => qAddrChecks f 6 ++ qiRange f false false f.x 65536
  | .boxPst f => qAddrChecks f 6 ++ qiRange f false false f.x 65536
  | .boxFldVector f => qAddrChecks f 16 ++ qiRange f false false f.x 4
  | .boxFldScalar f => qAddrChecks f 16 ++ qiRange f true true f.x 64
  | .boxFstVector f => qAddrChecks f 16 ++ qiRange f false false f.x 4
  | .boxFstScalar f => qAddrChecks f 16 ++ qiRange f true true f.x 64
  | .boxFinc f => qAddrChecks f 16 ++ qiRange f true true f.x 65536
  | .boxHrd f => qiChecks f true false false 3 16 ++ qiRange f true true false 65536
  | .boxHwr f => qiChecks f false true false 3 16 ++ qiRange f true false true 65536
    ++ [rangeCheck (decide (f.imm.toNat = 1 ∨ f.imm.toNat = 3 ∨ f.imm.toNat = 5 ∨ f.imm.toNat = 6))]
  | .boxQordaTrap f => qiChecks f false false false 16 16 ++ qiRange f false false false 65536
  | .boxEmit f => qiChecks f false false false 0 16 ++ qiRange f false false false 65536
  | .boxPass f => qiChecks f false false false 0 16 ++ qiRange f false false false 65536
  | .boxDrop f => qiChecks f false false false 0 16 ++ qiRange f false false false 65536
  | .boxBr f => [(22, decide (f.cond.toNat < 8)), (14, decide (f.cond.toNat ≠ 7) || decide (f.b = 0)),
    (18, decide (f.cond.toNat ≠ 7) || decide (f.a = 0)), rangeCheck (decide (f.a.toNat < 8 ∧ f.b.toNat < 8))]
  | .boxRep f => [(18, decide (f.a = 0)), (14, decide (f.b = 0)), (5, decide (f.off.toNat < 32)),
    rangeCheck (decide (f.cond.toNat < 8)), rangeCheck (decide (f.off.toNat % 32 ≠ 0))]
  | .pseudoChannelDrop _ => []
  | .patrolRead _ _ _ _ => []
  | .ecsCountRead _ _ _ => []
  | .powerEpoch _ _ _ => []
  | .thermalTrip _ => []
  | .counterReprogram _ _ => []
  | .timeSeriesTick => []
  | .linkEyeUpdate _ _ => []
  | .fieldTestRequest _ => []
  | .fieldTestInterval => []
  | .fieldTestRun => []
  | .fieldTestComplete _ _ => []
  | .deviceReset => []
  | .functionReady _ => []
  | .firmwareUpdate _ => []
  | .attestationRequest _ => []
  | .hostWindowAccess _ _ _ => []
  | .registerWrite _ _ => []
  | .storePerformed _ _ _ => []
  | .linkRetrain _ _ _ => []

end Sys2Proof.Machine
end

