-- ==== Sys2Proof/WellFormed.lean ====
section
/-! DEFINITION. A well-formed instruction: every check of its entry passes (R69, R120, R72). What an ill-formed word raises is in
Decode.lean. -/

namespace Sys2Proof

/-- Every field value is one that the instruction's entry allows. -/
def Instr.wf (i : Instr) : Bool := (Machine.checks i).all (fun c => c.2)

end Sys2Proof
end

