-- ==== Sys2Proof/Decode.lean ====
section
/-! DEFINITION. Decoding and encoding (spec/03_encodings_and_assembly_language.md, and R438 and R439 for Qorda words). An
instruction of one to three words is taken as one number, bit 0 being the least significant bit of its first word (R66).
Decoding is total and names what it rejects (R69). -/

namespace Sys2Proof

/-- Why a word is not an instruction (R69, in its order). -/
inductive DecodeError where
  /-- check 1: fault 0x01 -/
  | illegalLength
  /-- check 2: fault 0x02 -/
  | unmapped
  /-- check 3: fault 0x03 -/
  | stream
  /-- checks 4 and 6: fault 0x04 with the bit number -/
  | field (bit : Nat)
  /-- check 5: fault 0x1C with the operation number -/
  | privileged (op : Nat)
  deriving DecidableEq, Repr

/-! ## Fields -/

/-- `n` bits of a number from bit `lo` up. -/
def bitField (w lo n : Nat) : BitVec n := BitVec.ofNat n (w / 2 ^ lo)

/-- One bit of a number. -/
def bitAt (w lo : Nat) : Bool := decide (w / 2 ^ lo % 2 = 1)

/-- A lane operand field (R76). -/
def decOperand (w lo : Nat) : Operand :=
  let x := w / 2 ^ lo % 1024
  match x / 256 with
  | 0 => .v (BitVec.ofNat 8 x)
  | 1 => .ix (bitField x 6 2) (bitField x 4 2) (BitVec.ofNat 4 x)
  | 2 => .q (BitVec.ofNat 4 x)
  | _ => .imm (BitVec.ofNat 8 x)

/-- A lane operand field, encoded. -/
def encOperand : Operand → Nat
  | .v n => n.toNat
  | .ix ad ixr k => 256 + ad.toNat * 64 + ixr.toNat * 16 + k.toNat
  | .q n => 512 + n.toNat
  | .imm b => 768 + b.toNat

/-- A uniform field has [7:4] zero (R76). -/
def operandCheck (w lo : Nat) : Machine.Check :=
  let x := w / 2 ^ lo % 1024
  (lo + 4, !(decide (x / 256 = 2)) || decide (x / 16 % 16 = 0))

/-! ## Formats (R71, R78, R438) -/

def decC3 (w : Nat) : C3 :=
  { d := bitField w 12 6, a := bitField w 18 6, b := bitField w 24 6, ea := bitAt w 30, eb := bitAt w 31 }

def encC3 (f : C3) : Nat :=
  f.d.toNat * 2 ^ 12 + f.a.toNat * 2 ^ 18 + f.b.toNat * 2 ^ 24 + b2n f.ea * 2 ^ 30 + b2n f.eb * 2 ^ 31

def decCI (w : Nat) : CI := { d := bitField w 12 6, a := bitField w 18 6, ea := bitAt w 24, imm := bitField w 25 7 }

def encCI (f : CI) : Nat := f.d.toNat * 2 ^ 12 + f.a.toNat * 2 ^ 18 + b2n f.ea * 2 ^ 24 + f.imm.toNat * 2 ^ 25

def decCJ (w : Nat) : CJ := { off := bitField w 12 20 }

def encCJ (f : CJ) : Nat := f.off.toNat * 2 ^ 12

def decCS (w : Nat) : CS := { r := bitField w 12 6, num := bitField w 18 10, ea := bitAt w 28 }

def encCS (f : CS) : Nat := f.r.toNat * 2 ^ 12 + f.num.toNat * 2 ^ 18 + b2n f.ea * 2 ^ 28

def decCL (w : Nat) : CL :=
  { d := bitField w 12 6, a := bitField w 18 6, b := bitField w 24 6, ea := bitAt w 30, eb := bitAt w 31,
    lit := bitField w 32 32 }

def encCL (f : CL) : Nat :=
  f.d.toNat * 2 ^ 12 + f.a.toNat * 2 ^ 18 + f.b.toNat * 2 ^ 24 + b2n f.ea * 2 ^ 30 + b2n f.eb * 2 ^ 31
    + f.lit.toNat * 2 ^ 32

def decCB (w : Nat) : CB :=
  { a := bitField w 12 6, b := bitField w 18 6, ea := bitAt w 24, eb := bitAt w 25, off := bitField w 32 32 }

def encCB (f : CB) : Nat :=
  f.a.toNat * 2 ^ 12 + f.b.toNat * 2 ^ 18 + b2n f.ea * 2 ^ 24 + b2n f.eb * 2 ^ 25 + f.off.toNat * 2 ^ 32

def decCM (w : Nat) : CM :=
  { d := bitField w 12 6, a := bitField w 18 6, b := bitField w 24 6, ea := bitAt w 30, eb := bitAt w 31,
    width := bitField w 32 2, sx := bitAt w 34, scope := bitField w 35 3, order := bitField w 38 2,
    aop := bitField w 40 4, hint := bitField w 44 2, disp := bitField w 48 16 }

def encCM (f : CM) : Nat :=
  f.d.toNat * 2 ^ 12 + f.a.toNat * 2 ^ 18 + f.b.toNat * 2 ^ 24 + b2n f.ea * 2 ^ 30 + b2n f.eb * 2 ^ 31
    + f.width.toNat * 2 ^ 32 + b2n f.sx * 2 ^ 34 + f.scope.toNat * 2 ^ 35 + f.order.toNat * 2 ^ 38
    + f.aop.toNat * 2 ^ 40 + f.hint.toNat * 2 ^ 44 + f.disp.toNat * 2 ^ 48

def decCE (w : Nat) : CE :=
  { d := bitField w 12 6, a := bitField w 18 6, b := bitField w 24 6, ea := bitAt w 30, eb := bitAt w 31,
    c := bitField w 32 6, ec := bitAt w 38, t := bitField w 39 6, aux := bitField w 45 4, opts := bitField w 49 15 }

def encCE (f : CE) : Nat :=
  f.d.toNat * 2 ^ 12 + f.a.toNat * 2 ^ 18 + f.b.toNat * 2 ^ 24 + b2n f.ea * 2 ^ 30 + b2n f.eb * 2 ^ 31
    + f.c.toNat * 2 ^ 32 + b2n f.ec * 2 ^ 38 + f.t.toNat * 2 ^ 39 + f.aux.toNat * 2 ^ 45 + f.opts.toNat * 2 ^ 49

def decCQ (w : Nat) : CQ :=
  { a := bitField w 12 6, b := bitField w 18 6, c := bitField w 24 6, e := bitAt w 30, off := bitField w 32 32 }

def encCQ (f : CQ) : Nat :=
  f.a.toNat * 2 ^ 12 + f.b.toNat * 2 ^ 18 + f.c.toNat * 2 ^ 24 + b2n f.e * 2 ^ 30 + f.off.toNat * 2 ^ 32

/-- V3 from [63:0]; `long` reads the literal of the 96-bit form (R78). -/
def decV3 (long : Bool) (w : Nat) : V3 :=
  { d := decOperand w 12, a := decOperand w 22, b := decOperand w 32, c := decOperand w 42, ea := bitAt w 52,
    eb := bitAt w 53, ec := bitAt w 54, t := bitField w 55 4, m := bitField w 59 3, w := bitAt w 62, sat := bitAt w 63,
    lit := if long then some (bitField w 64 32) else none }

def encV3 (f : V3) : Nat :=
  encOperand f.d * 2 ^ 12 + encOperand f.a * 2 ^ 22 + encOperand f.b * 2 ^ 32 + encOperand f.c * 2 ^ 42
    + b2n f.ea * 2 ^ 52 + b2n f.eb * 2 ^ 53 + b2n f.ec * 2 ^ 54 + f.t.toNat * 2 ^ 55 + f.m.toNat * 2 ^ 59
    + b2n f.w * 2 ^ 62 + b2n f.sat * 2 ^ 63 + (match f.lit with | some l => l.toNat * 2 ^ 64 | none => 0)

def decVB (w : Nat) : VB :=
  { c := bitField w 12 3, sense := bitAt w 15, jid := bitField w 16 8, off := bitField w 32 32 }

def encVB (f : VB) : Nat := f.c.toNat * 2 ^ 12 + b2n f.sense * 2 ^ 15 + f.jid.toNat * 2 ^ 16 + f.off.toNat * 2 ^ 32

def decVM (w : Nat) : VM :=
  { d := decOperand w 12, a := decOperand w 22, qb := bitField w 32 4, am := bitAt w 36, scale := bitField w 37 2,
    width := bitField w 39 3, sx := bitAt w 42, scope := bitField w 43 3, order := bitField w 46 2,
    hint := bitField w 48 2, ea := bitAt w 50, ed := bitAt w 51, disp := bitField w 52 12 }

def encVM (f : VM) : Nat :=
  encOperand f.d * 2 ^ 12 + encOperand f.a * 2 ^ 22 + f.qb.toNat * 2 ^ 32 + b2n f.am * 2 ^ 36 + f.scale.toNat * 2 ^ 37
    + f.width.toNat * 2 ^ 39 + b2n f.sx * 2 ^ 42 + f.scope.toNat * 2 ^ 43 + f.order.toNat * 2 ^ 46
    + f.hint.toNat * 2 ^ 48 + b2n f.ea * 2 ^ 50 + b2n f.ed * 2 ^ 51 + f.disp.toNat * 2 ^ 52

def decVMX (w : Nat) : VMX :=
  { m := decVM w, b := decOperand w 64, c := decOperand w 74, eb := bitAt w 84, ec := bitAt w 85,
    aop := bitField w 86 4 }

def encVMX (f : VMX) : Nat :=
  encVM f.m + encOperand f.b * 2 ^ 64 + encOperand f.c * 2 ^ 74 + b2n f.eb * 2 ^ 84 + b2n f.ec * 2 ^ 85
    + f.aop.toNat * 2 ^ 86

def decVT (w : Nat) : VT :=
  { d := decOperand w 12, a := decOperand w 22, b := decOperand w 32, tid := bitField w 42 6, mode := bitField w 48 3,
    hint := bitField w 51 2, ea := bitAt w 53, eb := bitAt w 54, ed := bitAt w 55, wreg := bitField w 56 8,
    base := bitField w 64 16, acc := bitField w 80 9, w := bitAt w 89, wsel := bitAt w 90, tq := bitAt w 91,
    aq := bitAt w 92, ew := bitAt w 93 }

def encVT (f : VT) : Nat :=
  encOperand f.d * 2 ^ 12 + encOperand f.a * 2 ^ 22 + encOperand f.b * 2 ^ 32 + f.tid.toNat * 2 ^ 42
    + f.mode.toNat * 2 ^ 48 + f.hint.toNat * 2 ^ 51 + b2n f.ea * 2 ^ 53 + b2n f.eb * 2 ^ 54 + b2n f.ed * 2 ^ 55
    + f.wreg.toNat * 2 ^ 56 + f.base.toNat * 2 ^ 64 + f.acc.toNat * 2 ^ 80 + b2n f.w * 2 ^ 89 + b2n f.wsel * 2 ^ 90
    + b2n f.tq * 2 ^ 91 + b2n f.aq * 2 ^ 92 + b2n f.ew * 2 ^ 93

def decQR (w : Nat) : QR :=
  { s := bitAt w 25, d := bitField w 21 4, a := bitField w 17 4, b := bitField w 13 4, bs := bitAt w 12,
    ty := bitField w 10 2, ck := bitAt w 9, cond := bitField w 6 3, c := bitField w 2 4 }

def encQR (f : QR) : Nat :=
  b2n f.s * 2 ^ 25 + f.d.toNat * 2 ^ 21 + f.a.toNat * 2 ^ 17 + f.b.toNat * 2 ^ 13 + b2n f.bs * 2 ^ 12
    + f.ty.toNat * 2 ^ 10 + b2n f.ck * 2 ^ 9 + f.cond.toNat * 2 ^ 6 + f.c.toNat * 2 ^ 2

def decQI (w : Nat) : QI :=
  { s := bitAt w 25, d := bitField w 21 4, a := bitField w 17 4, x := bitAt w 16, imm := bitField w 0 16 }

def encQI (f : QI) : Nat :=
  b2n f.s * 2 ^ 25 + f.d.toNat * 2 ^ 21 + f.a.toNat * 2 ^ 17 + b2n f.x * 2 ^ 16 + f.imm.toNat

def decQB (w : Nat) : QB :=
  { cond := bitField w 22 4, a := bitField w 18 4, b := bitField w 14 4, off := bitField w 0 6 }

def encQB (f : QB) : Nat := f.cond.toNat * 2 ^ 22 + f.a.toNat * 2 ^ 18 + f.b.toNat * 2 ^ 14 + f.off.toNat

/-! ## The operations of map 1 (R84) -/

/-- The format of an operation, with its constructor. -/
inductive Fmt where
  | c3 (mk : C3 → Instr)
  | ci (mk : CI → Instr)
  | cj (mk : CJ → Instr)
  | cs (mk : CS → Instr)
  | cl (mk : CL → Instr)
  | cb (mk : CB → Instr)
  | cm (mk : CM → Instr)
  | ce (mk : CE → Instr)
  | cq (mk : CQ → Instr)
  /-- V3 and V3L: both lengths -/
  | v3 (mk : V3 → Instr)
  /-- V3 only -/
  | v3s (mk : V3 → Instr)
  /-- V3L only -/
  | v3l (mk : V3 → Instr)
  | vb (mk : VB → Instr)
  | vm (mk : VM → Instr)
  | vmx (mk : VMX → Instr)
  | vt (mk : VT → Instr)

/-- Whether the operation belongs to the lane stream. -/
def Fmt.isLane : Fmt → Bool
  | .v3 _ => true | .v3s _ => true | .v3l _ => true | .vb _ => true | .vm _ => true | .vmx _ => true | .vt _ => true
  | _ => false

/-- The length codes the format allows (R84). -/
def Fmt.lengths : Fmt → List Nat
  | .c3 _ => [0] | .ci _ => [0] | .cj _ => [0] | .cs _ => [0]
  | .cl _ => [1] | .cb _ => [1] | .cm _ => [1] | .ce _ => [1] | .cq _ => [1]
  | .v3 _ => [1, 2] | .v3s _ => [1] | .v3l _ => [2]
  | .vb _ => [1] | .vm _ => [1] | .vmx _ => [2] | .vt _ => [2]

/-- The instruction whose fields the bits hold. -/
def Fmt.build (len w : Nat) : Fmt → Instr
  | .c3 mk => mk (decC3 w) | .ci mk => mk (decCI w) | .cj mk => mk (decCJ w) | .cs mk => mk (decCS w)
  | .cl mk => mk (decCL w) | .cb mk => mk (decCB w) | .cm mk => mk (decCM w) | .ce mk => mk (decCE w)
  | .cq mk => mk (decCQ w)
  | .v3 mk => mk (decV3 (len == 2) w) | .v3s mk => mk (decV3 (len == 2) w) | .v3l mk => mk (decV3 (len == 2) w)
  | .vb mk => mk (decVB w) | .vm mk => mk (decVM w) | .vmx mk => mk (decVMX w) | .vt mk => mk (decVT w)

/-- The bits a format leaves out are zero, and so are [7:4] of uniform operand fields. -/
def Fmt.rawChecks (w : Nat) : Fmt → List Machine.Check
  | .cs _ => [(29, decide (w / 2 ^ 29 % 8 = 0))]
  | .cb _ => [(26, decide (w / 2 ^ 26 % 64 = 0))]
  | .cm _ => [(46, decide (w / 2 ^ 46 % 4 = 0))]
  | .cq _ => [(31, decide (w / 2 ^ 31 % 2 = 0))]
  | .v3 _ => [operandCheck w 12, operandCheck w 22, operandCheck w 32, operandCheck w 42]
  | .v3s _ => [operandCheck w 12, operandCheck w 22, operandCheck w 32, operandCheck w 42]
  | .v3l _ => [operandCheck w 12, operandCheck w 22, operandCheck w 32, operandCheck w 42]
  | .vb _ => [(24, decide (w / 2 ^ 24 % 256 = 0))]
  | .vm _ => [operandCheck w 12, operandCheck w 22]
  | .vmx _ =>
    [operandCheck w 12, operandCheck w 22, operandCheck w 64, operandCheck w 74, (90, decide (w / 2 ^ 90 % 64 = 0))]
  | .vt _ => [operandCheck w 12, operandCheck w 22, operandCheck w 32, (94, decide (w / 2 ^ 94 % 4 = 0))]
  | _ => []

/-- The operation with a number, as map 1 assigns it (R84, R85). -/
def opFormat (n : Nat) : Option Fmt :=
  match n with
  | 0x001 => some (.c3 .sadd)
  | 0x002 => some (.c3 .ssub)
  | 0x003 => some (.c3 .smul)
  | 0x004 => some (.c3 .smulhs)
  | 0x005 => some (.c3 .smulhu)
  | 0x006 => some (.c3 .sdivs)
  | 0x007 => some (.c3 .sdivu)
  | 0x008 => some (.c3 .srems)
  | 0x009 => some (.c3 .sremu)
  | 0x00A => some (.c3 .sand)
  | 0x00B => some (.c3 .sor)
  | 0x00C => some (.c3 .sxor)
  | 0x00D => some (.c3 .sandn)
  | 0x00E => some (.c3 .sshl)
  | 0x00F => some (.c3 .sshr)
  | 0x010 => some (.c3 .ssra)
  | 0x011 => some (.c3 .smins)
  | 0x012 => some (.c3 .smaxs)
  | 0x013 => some (.c3 .sminu)
  | 0x014 => some (.c3 .smaxu)
  | 0x015 => some (.c3 .sslts)
  | 0x016 => some (.c3 .ssltu)
  | 0x017 => some (.c3 .sseq)
  | 0x018 => some (.c3 .sclz)
  | 0x019 => some (.c3 .spopc)
  | 0x01A => some (.ci .sext)
  | 0x01B => some (.ci .zext)
  | 0x020 => some (.ci .saddi)
  | 0x021 => some (.ci .sandi)
  | 0x022 => some (.ci .sori)
  | 0x023 => some (.ci .sxori)
  | 0x024 => some (.ci .sshli)
  | 0x025 => some (.ci .sshri)
  | 0x026 => some (.ci .ssrai)
  | 0x027 => some (.ci .sslti)
  | 0x028 => some (.cl .sli)
  | 0x029 => some (.cl .slih)
  | 0x02A => some (.cl .saddl)
  | 0x02B => some (.cl .slea)
  | 0x030 => some (.cm .sld)
  | 0x031 => some (.cm .sst)
  | 0x032 => some (.cm .satom)
  | 0x033 => some (.cm .scas)
  | 0x034 => some (.cm .sprf)
  | 0x040 => some (.cj .b)
  | 0x041 => some (.cj .call)
  | 0x042 => some (.c3 .ret)
  | 0x043 => some (.c3 .jr)
  | 0x044 => some (.cb .beq)
  | 0x045 => some (.cb .bne)
  | 0x046 => some (.cb .blts)
  | 0x047 => some (.cb .bges)
  | 0x048 => some (.cb .bltu)
  | 0x049 => some (.cb .bgeu)
  | 0x04A => some (.cb .loop)
  | 0x050 => some (.cq .lane)
  | 0x051 => some (.c3 .lwait)
  | 0x052 => some (.c3 .recv)
  | 0x058 => some (.cs .srs)
  | 0x059 => some (.cs .sws)
  | 0x100 => some (.v3 .vadd)
  | 0x101 => some (.v3 .vsub)
  | 0x102 => some (.v3 .vmul)
  | 0x103 => some (.v3 .vmulh)
  | 0x104 => some (.v3 .vmad)
  | 0x105 => some (.v3 .vand)
  | 0x106 => some (.v3 .vor)
  | 0x107 => some (.v3 .vxor)
  | 0x108 => some (.v3 .vshl)
  | 0x109 => some (.v3 .vshr)
  | 0x10A => some (.v3 .vsra)
  | 0x10B => some (.v3 .vmin)
  | 0x10C => some (.v3 .vmax)
  | 0x10D => some (.v3 .vabs)
  | 0x10E => some (.v3 .vneg)
  | 0x10F => some (.v3 .vclz)
  | 0x110 => some (.v3 .vpopc)
  | 0x111 => some (.v3 .vbfe)
  | 0x112 => some (.v3 .vbfi)
  | 0x113 => some (.v3 .vadds)
  | 0x114 => some (.v3 .vsubs)
  | 0x115 => some (.v3 .vdot4)
  | 0x118 => some (.v3 .vcmp)
  | 0x119 => some (.v3 .vsel)
  | 0x11A => some (.v3 .clog)
  | 0x120 => some (.v3 .vfadd)
  | 0x121 => some (.v3 .vfsub)
  | 0x122 => some (.v3 .vfmul)
  | 0x123 => some (.v3 .vfma)
  | 0x124 => some (.v3 .vfmin)
  | 0x125 => some (.v3 .vfmax)
  | 0x128 => some (.v3s .vrcp)
  | 0x129 => some (.v3s .vrsq)
  | 0x12A => some (.v3s .vexp2)
  | 0x12B => some (.v3s .vlog2)
  | 0x12C => some (.v3s .vsinp)
  | 0x12D => some (.v3s .vcosp)
  | 0x12E => some (.v3s .vtanh)
  | 0x130 => some (.v3 .vcvt)
  | 0x131 => some (.v3 .vqnt)
  | 0x132 => some (.v3 .vpal)
  | 0x133 => some (.v3 .vunpal)
  | 0x134 => some (.v3 .vpack)
  | 0x135 => some (.v3 .vunpk)
  | 0x138 => some (.v3 .vmov)
  | 0x139 => some (.v3 .vshuf)
  | 0x13A => some (.v3 .vbcast)
  | 0x13B => some (.v3 .vidx)
  | 0x13C => some (.v3 .vtos)
  | 0x13D => some (.v3 .vscan)
  | 0x13E => some (.v3 .vballot)
  | 0x140 => some (.v3s .ixset)
  | 0x141 => some (.v3s .adset)
  | 0x148 => some (.v3s .qmov)
  | 0x149 => some (.v3s .qadd)
  | 0x14A => some (.v3s .qsub)
  | 0x14B => some (.v3s .qand)
  | 0x14C => some (.v3s .qor)
  | 0x14D => some (.v3s .qxor)
  | 0x14E => some (.v3s .qshl)
  | 0x14F => some (.v3s .qshr)
  | 0x150 => some (.v3l .qli)
  | 0x151 => some (.v3s .vtoq)
  | 0x160 => some (.vm .vld)
  | 0x161 => some (.vm .vst)
  | 0x162 => some (.vmx .vatom)
  | 0x163 => some (.vmx .vcas)
  | 0x164 => some (.vt .vldt)
  | 0x165 => some (.vt .vstt)
  | 0x166 => some (.vt .vste)
  | 0x167 => some (.vm .vprf)
  | 0x168 => some (.vt .vlda)
  | 0x169 => some (.vt .vsta)
  | 0x170 => some (.vb .brv)
  | 0x171 => some (.vb .jmpv)
  | 0x172 => some (.vb .callv)
  | 0x173 => some (.vb .retv)
  | 0x174 => some (.vb .regang)
  | 0x175 => some (.vb .lend)
  | 0x176 => some (.v3l .sigv)
  | 0x177 => some (.vb .brkv)
  | 0x178 => some (.vb .trapv)
  | 0x179 => some (.v3s .nopv)
  | 0x200 => some (.ce .tdef)
  | 0x201 => some (.ce .tinv)
  | 0x202 => some (.ce .ctload)
  | 0x203 => some (.ce .palld)
  | 0x204 => some (.ce .gangset)
  | 0x208 => some (.ce .mclr)
  | 0x209 => some (.ce .mtab)
  | 0x20A => some (.ce .mlut)
  | 0x20B => some (.ce .mlutg)
  | 0x20C => some (.ce .mxpq)
  | 0x20D => some (.ce .mout)
  | 0x20E => some (.ce .tbdrop)
  | 0x210 => some (.ce .mbatch)
  | 0x211 => some (.ce .mwait)
  | 0x212 => some (.ce .mtest)
  | 0x240 => some (.ce .cpt)
  | 0x241 => some (.ce .cpg)
  | 0x242 => some (.ce .cps)
  | 0x243 => some (.ce .cpb)
  | 0x244 => some (.ce .cpmc)
  | 0x248 => some (.ce .send)
  | 0x249 => some (.ce .chpost)
  | 0x24A => some (.ce .chpoll)
  | 0x280 => some (.ci .fence)
  | 0x281 => some (.ci .fenceo)
  | 0x282 => some (.ci .fencea)
  | 0x283 => some (.ci .bar)
  | 0x284 => some (.ci .step)
  | 0x285 => some (.cl .sig)
  | 0x286 => some (.c3 .hbeat)
  | 0x287 => some (.c3 .yield)
  | 0x288 => some (.ce .waitev)
  | 0x289 => some (.ce .qput)
  | 0x3C0 => some (.ci .trap)
  | 0x3C1 => some (.c3 .exit)
  | 0x3C2 => some (.ci .brk)
  | 0x3C3 => some (.c3 .nop)
  | 0x3C8 => some (.ce .dtload)
  | 0x3C9 => some (.ce .capset)
  | 0x3CA => some (.ce .sbload)
  | 0x3CB => some (.ce .sbflow)
  | _ => none

/-- The operation number and the encoded fields of a Thoyx instruction, with its length code. -/
def thoyxCode : Instr → Option (Nat × Nat × Nat)
  | .sadd f => some (0x001, 0, encC3 f)
  | .ssub f => some (0x002, 0, encC3 f)
  | .smul f => some (0x003, 0, encC3 f)
  | .smulhs f => some (0x004, 0, encC3 f)
  | .smulhu f => some (0x005, 0, encC3 f)
  | .sdivs f => some (0x006, 0, encC3 f)
  | .sdivu f => some (0x007, 0, encC3 f)
  | .srems f => some (0x008, 0, encC3 f)
  | .sremu f => some (0x009, 0, encC3 f)
  | .sand f => some (0x00A, 0, encC3 f)
  | .sor f => some (0x00B, 0, encC3 f)
  | .sxor f => some (0x00C, 0, encC3 f)
  | .sandn f => some (0x00D, 0, encC3 f)
  | .sshl f => some (0x00E, 0, encC3 f)
  | .sshr f => some (0x00F, 0, encC3 f)
  | .ssra f => some (0x010, 0, encC3 f)
  | .smins f => some (0x011, 0, encC3 f)
  | .smaxs f => some (0x012, 0, encC3 f)
  | .sminu f => some (0x013, 0, encC3 f)
  | .smaxu f => some (0x014, 0, encC3 f)
  | .sslts f => some (0x015, 0, encC3 f)
  | .ssltu f => some (0x016, 0, encC3 f)
  | .sseq f => some (0x017, 0, encC3 f)
  | .sclz f => some (0x018, 0, encC3 f)
  | .spopc f => some (0x019, 0, encC3 f)
  | .sext f => some (0x01A, 0, encCI f)
  | .zext f => some (0x01B, 0, encCI f)
  | .saddi f => some (0x020, 0, encCI f)
  | .sandi f => some (0x021, 0, encCI f)
  | .sori f => some (0x022, 0, encCI f)
  | .sxori f => some (0x023, 0, encCI f)
  | .sshli f => some (0x024, 0, encCI f)
  | .sshri f => some (0x025, 0, encCI f)
  | .ssrai f => some (0x026, 0, encCI f)
  | .sslti f => some (0x027, 0, encCI f)
  | .sli f => some (0x028, 1, encCL f)
  | .slih f => some (0x029, 1, encCL f)
  | .saddl f => some (0x02A, 1, encCL f)
  | .slea f => some (0x02B, 1, encCL f)
  | .sld f => some (0x030, 1, encCM f)
  | .sst f => some (0x031, 1, encCM f)
  | .satom f => some (0x032, 1, encCM f)
  | .scas f => some (0x033, 1, encCM f)
  | .sprf f => some (0x034, 1, encCM f)
  | .b f => some (0x040, 0, encCJ f)
  | .call f => some (0x041, 0, encCJ f)
  | .ret f => some (0x042, 0, encC3 f)
  | .jr f => some (0x043, 0, encC3 f)
  | .beq f => some (0x044, 1, encCB f)
  | .bne f => some (0x045, 1, encCB f)
  | .blts f => some (0x046, 1, encCB f)
  | .bges f => some (0x047, 1, encCB f)
  | .bltu f => some (0x048, 1, encCB f)
  | .bgeu f => some (0x049, 1, encCB f)
  | .loop f => some (0x04A, 1, encCB f)
  | .lane f => some (0x050, 1, encCQ f)
  | .lwait f => some (0x051, 0, encC3 f)
  | .recv f => some (0x052, 0, encC3 f)
  | .srs f => some (0x058, 0, encCS f)
  | .sws f => some (0x059, 0, encCS f)
  | .vadd f => some (0x100, (if f.lit.isSome then 2 else 1), encV3 f)
  | .vsub f => some (0x101, (if f.lit.isSome then 2 else 1), encV3 f)
  | .vmul f => some (0x102, (if f.lit.isSome then 2 else 1), encV3 f)
  | .vmulh f => some (0x103, (if f.lit.isSome then 2 else 1), encV3 f)
  | .vmad f => some (0x104, (if f.lit.isSome then 2 else 1), encV3 f)
  | .vand f => some (0x105, (if f.lit.isSome then 2 else 1), encV3 f)
  | .vor f => some (0x106, (if f.lit.isSome then 2 else 1), encV3 f)
  | .vxor f => some (0x107, (if f.lit.isSome then 2 else 1), encV3 f)
  | .vshl f => some (0x108, (if f.lit.isSome then 2 else 1), encV3 f)
  | .vshr f => some (0x109, (if f.lit.isSome then 2 else 1), encV3 f)
  | .vsra f => some (0x10A, (if f.lit.isSome then 2 else 1), encV3 f)
  | .vmin f => some (0x10B, (if f.lit.isSome then 2 else 1), encV3 f)
  | .vmax f => some (0x10C, (if f.lit.isSome then 2 else 1), encV3 f)
  | .vabs f => some (0x10D, (if f.lit.isSome then 2 else 1), encV3 f)
  | .vneg f => some (0x10E, (if f.lit.isSome then 2 else 1), encV3 f)
  | .vclz f => some (0x10F, (if f.lit.isSome then 2 else 1), encV3 f)
  | .vpopc f => some (0x110, (if f.lit.isSome then 2 else 1), encV3 f)
  | .vbfe f => some (0x111, (if f.lit.isSome then 2 else 1), encV3 f)
  | .vbfi f => some (0x112, (if f.lit.isSome then 2 else 1), encV3 f)
  | .vadds f => some (0x113, (if f.lit.isSome then 2 else 1), encV3 f)
  | .vsubs f => some (0x114, (if f.lit.isSome then 2 else 1), encV3 f)
  | .vdot4 f => some (0x115, (if f.lit.isSome then 2 else 1), encV3 f)
  | .vcmp f => some (0x118, (if f.lit.isSome then 2 else 1), encV3 f)
  | .vsel f => some (0x119, (if f.lit.isSome then 2 else 1), encV3 f)
  | .clog f => some (0x11A, (if f.lit.isSome then 2 else 1), encV3 f)
  | .vfadd f => some (0x120, (if f.lit.isSome then 2 else 1), encV3 f)
  | .vfsub f => some (0x121, (if f.lit.isSome then 2 else 1), encV3 f)
  | .vfmul f => some (0x122, (if f.lit.isSome then 2 else 1), encV3 f)
  | .vfma f => some (0x123, (if f.lit.isSome then 2 else 1), encV3 f)
  | .vfmin f => some (0x124, (if f.lit.isSome then 2 else 1), encV3 f)
  | .vfmax f => some (0x125, (if f.lit.isSome then 2 else 1), encV3 f)
  | .vrcp f => some (0x128, (if f.lit.isSome then 2 else 1), encV3 f)
  | .vrsq f => some (0x129, (if f.lit.isSome then 2 else 1), encV3 f)
  | .vexp2 f => some (0x12A, (if f.lit.isSome then 2 else 1), encV3 f)
  | .vlog2 f => some (0x12B, (if f.lit.isSome then 2 else 1), encV3 f)
  | .vsinp f => some (0x12C, (if f.lit.isSome then 2 else 1), encV3 f)
  | .vcosp f => some (0x12D, (if f.lit.isSome then 2 else 1), encV3 f)
  | .vtanh f => some (0x12E, (if f.lit.isSome then 2 else 1), encV3 f)
  | .vcvt f => some (0x130, (if f.lit.isSome then 2 else 1), encV3 f)
  | .vqnt f => some (0x131, (if f.lit.isSome then 2 else 1), encV3 f)
  | .vpal f => some (0x132, (if f.lit.isSome then 2 else 1), encV3 f)
  | .vunpal f => some (0x133, (if f.lit.isSome then 2 else 1), encV3 f)
  | .vpack f => some (0x134, (if f.lit.isSome then 2 else 1), encV3 f)
  | .vunpk f => some (0x135, (if f.lit.isSome then 2 else 1), encV3 f)
  | .vmov f => some (0x138, (if f.lit.isSome then 2 else 1), encV3 f)
  | .vshuf f => some (0x139, (if f.lit.isSome then 2 else 1), encV3 f)
  | .vbcast f => some (0x13A, (if f.lit.isSome then 2 else 1), encV3 f)
  | .vidx f => some (0x13B, (if f.lit.isSome then 2 else 1), encV3 f)
  | .vtos f => some (0x13C, (if f.lit.isSome then 2 else 1), encV3 f)
  | .vscan f => some (0x13D, (if f.lit.isSome then 2 else 1), encV3 f)
  | .vballot f => some (0x13E, (if f.lit.isSome then 2 else 1), encV3 f)
  | .ixset f => some (0x140, (if f.lit.isSome then 2 else 1), encV3 f)
  | .adset f => some (0x141, (if f.lit.isSome then 2 else 1), encV3 f)
  | .qmov f => some (0x148, (if f.lit.isSome then 2 else 1), encV3 f)
  | .qadd f => some (0x149, (if f.lit.isSome then 2 else 1), encV3 f)
  | .qsub f => some (0x14A, (if f.lit.isSome then 2 else 1), encV3 f)
  | .qand f => some (0x14B, (if f.lit.isSome then 2 else 1), encV3 f)
  | .qor f => some (0x14C, (if f.lit.isSome then 2 else 1), encV3 f)
  | .qxor f => some (0x14D, (if f.lit.isSome then 2 else 1), encV3 f)
  | .qshl f => some (0x14E, (if f.lit.isSome then 2 else 1), encV3 f)
  | .qshr f => some (0x14F, (if f.lit.isSome then 2 else 1), encV3 f)
  | .qli f => some (0x150, (if f.lit.isSome then 2 else 1), encV3 f)
  | .vtoq f => some (0x151, (if f.lit.isSome then 2 else 1), encV3 f)
  | .vld f => some (0x160, 1, encVM f)
  | .vst f => some (0x161, 1, encVM f)
  | .vatom f => some (0x162, 2, encVMX f)
  | .vcas f => some (0x163, 2, encVMX f)
  | .vldt f => some (0x164, 2, encVT f)
  | .vstt f => some (0x165, 2, encVT f)
  | .vste f => some (0x166, 2, encVT f)
  | .vprf f => some (0x167, 1, encVM f)
  | .vlda f => some (0x168, 2, encVT f)
  | .vsta f => some (0x169, 2, encVT f)
  | .brv f => some (0x170, 1, encVB f)
  | .jmpv f => some (0x171, 1, encVB f)
  | .callv f => some (0x172, 1, encVB f)
  | .retv f => some (0x173, 1, encVB f)
  | .regang f => some (0x174, 1, encVB f)
  | .lend f => some (0x175, 1, encVB f)
  | .sigv f => some (0x176, (if f.lit.isSome then 2 else 1), encV3 f)
  | .brkv f => some (0x177, 1, encVB f)
  | .trapv f => some (0x178, 1, encVB f)
  | .nopv f => some (0x179, (if f.lit.isSome then 2 else 1), encV3 f)
  | .tdef f => some (0x200, 1, encCE f)
  | .tinv f => some (0x201, 1, encCE f)
  | .ctload f => some (0x202, 1, encCE f)
  | .palld f => some (0x203, 1, encCE f)
  | .gangset f => some (0x204, 1, encCE f)
  | .mclr f => some (0x208, 1, encCE f)
  | .mtab f => some (0x209, 1, encCE f)
  | .mlut f => some (0x20A, 1, encCE f)
  | .mlutg f => some (0x20B, 1, encCE f)
  | .mxpq f => some (0x20C, 1, encCE f)
  | .mout f => some (0x20D, 1, encCE f)
  | .tbdrop f => some (0x20E, 1, encCE f)
  | .mbatch f => some (0x210, 1, encCE f)
  | .mwait f => some (0x211, 1, encCE f)
  | .mtest f => some (0x212, 1, encCE f)
  | .cpt f => some (0x240, 1, encCE f)
  | .cpg f => some (0x241, 1, encCE f)
  | .cps f => some (0x242, 1, encCE f)
  | .cpb f => some (0x243, 1, encCE f)
  | .cpmc f => some (0x244, 1, encCE f)
  | .send f => some (0x248, 1, encCE f)
  | .chpost f => some (0x249, 1, encCE f)
  | .chpoll f => some (0x24A, 1, encCE f)
  | .fence f => some (0x280, 0, encCI f)
  | .fenceo f => some (0x281, 0, encCI f)
  | .fencea f => some (0x282, 0, encCI f)
  | .bar f => some (0x283, 0, encCI f)
  | .step f => some (0x284, 0, encCI f)
  | .sig f => some (0x285, 1, encCL f)
  | .hbeat f => some (0x286, 0, encC3 f)
  | .yield f => some (0x287, 0, encC3 f)
  | .waitev f => some (0x288, 1, encCE f)
  | .qput f => some (0x289, 1, encCE f)
  | .trap f => some (0x3C0, 0, encCI f)
  | .exit f => some (0x3C1, 0, encC3 f)
  | .brk f => some (0x3C2, 0, encCI f)
  | .nop f => some (0x3C3, 0, encC3 f)
  | .dtload f => some (0x3C8, 1, encCE f)
  | .capset f => some (0x3C9, 1, encCE f)
  | .sbload f => some (0x3CA, 1, encCE f)
  | .sbflow f => some (0x3CB, 1, encCE f)
  | .windowWriteAccept _ => none
  | .loadDataReturn _ _ _ _ => none
  | .recvFill _ => none
  | .lwaitComplete _ => none
  | .mwaitComplete _ => none
  | .fenceaComplete _ => none
  | .barrierComplete _ _ _ => none
  | .waitevWake _ => none
  | .laneBlockStart _ => none
  | .waveClear _ _ => none
  | .mclrExecute _ => none
  | .mtabExecute _ => none
  | .mlutExecute _ => none
  | .mlutgLatchComplete _ => none
  | .mxpqExecute _ => none
  | .moutExecute _ => none
  | .tbdropExecute _ => none
  | .copyUnit _ _ => none
  | .cpmcComplete _ _ => none
  | .sendInject _ _ => none
  | .encoderTileWrite _ => none
  | .logReplay _ _ => none
  | .walkerMonitorWake _ => none
  | .walkerRewalkTimer _ _ => none
  | .faultRecordHeldWrite _ => none
  | .snapshotPageCopy _ _ => none
  | .launchTake => none
  | .cpMemoryRetry _ => none
  | .waitEventSatisfied _ => none
  | .teamPlace => none
  | .teamRetire _ => none
  | .splitChange _ => none
  | .teamSave _ => none
  | .teamRestore _ => none
  | .launchComplete _ => none
  | .watchdogFire _ => none
  | .launchKill _ => none
  | .launchRollback _ => none
  | .qtailWrite _ _ => none
  | .contextCreate _ => none
  | .contextDestroy _ => none
  | .contextHold _ => none
  | .contextRelease _ => none
  | .unserviceable _ => none
  | .invalidate _ => none
  | .debugWrite _ => none
  | .replayEnable _ => none
  | .resetGeneration _ => none
  | .replayIntervalStart _ => none
  | .replayRun _ _ _ _ => none
  | .traceSampleTick _ => none
  | .readPacket _ => none
  | .readData _ => none
  | .writePacket _ => none
  | .maskedWrite _ => none
  | .atomicPacket _ => none
  | .atomicResult _ => none
  | .writeAcknowledgment _ => none
  | .refusal _ => none
  | .retryAfterResend _ => none
  | .invalidatePacket _ => none
  | .invalidateAcknowledgment _ => none
  | .messagePacket _ => none
  | .messageAcknowledgment _ => none
  | .emittedPacket _ => none
  | .managementPacket _ => none
  | .heldMessageRetry _ _ => none
  | .linkReplay _ _ => none
  | .portRetire _ => none
  | .planeDead _ => none
  | .planeMapChange _ => none
  | .lostPacketResend _ _ => none
  | .packageUnreachable _ => none
  | .boxPacketRun _ => none
  | .boxAdd _ => none
  | .boxSub _ => none
  | .boxMul _ => none
  | .boxMin _ => none
  | .boxMax _ => none
  | .boxAnd _ => none
  | .boxOr _ => none
  | .boxXor _ => none
  | .boxShl _ => none
  | .boxShr _ => none
  | .boxCmp _ => none
  | .boxSel _ => none
  | .boxAddi _ => none
  | .boxLdi _ => none
  | .boxLdiH _ => none
  | .boxGetl _ => none
  | .boxSetl _ => none
  | .boxPld _ => none
  | .boxPst _ => none
  | .boxFldVector _ => none
  | .boxFldScalar _ => none
  | .boxFstVector _ => none
  | .boxFstScalar _ => none
  | .boxFinc _ => none
  | .boxHrd _ => none
  | .boxHwr _ => none
  | .boxQordaTrap _ => none
  | .boxEmit _ => none
  | .boxPass _ => none
  | .boxDrop _ => none
  | .boxBr _ => none
  | .boxRep _ => none
  | .pseudoChannelDrop _ => none
  | .patrolRead _ _ _ _ => none
  | .ecsCountRead _ _ _ => none
  | .powerEpoch _ _ _ => none
  | .thermalTrip _ => none
  | .counterReprogram _ _ => none
  | .timeSeriesTick => none
  | .linkEyeUpdate _ _ => none
  | .fieldTestRequest _ => none
  | .fieldTestInterval => none
  | .fieldTestRun => none
  | .fieldTestComplete _ _ => none
  | .deviceReset => none
  | .functionReady _ => none
  | .firmwareUpdate _ => none
  | .attestationRequest _ => none
  | .hostWindowAccess _ _ _ => none
  | .registerWrite _ _ => none
  | .storePerformed _ _ _ => none
  | .linkRetrain _ _ _ => none

/-- The operation number of an instruction: its opcode in map 1 (R85). -/
def opNumber (i : Instr) : Nat := match thoyxCode i with | some (op, _, _) => op | none => 0

/-- The length of an instruction in bytes (R66). -/
def byteLength (i : Instr) : Nat := match thoyxCode i with | some (_, len, _) => 4 * (len + 1) | none => 4

/-- The operation is privileged (R84). -/
def isPrivilegedOp (op : Nat) : Bool := decide (0x3C8 ≤ op)

/-- The lowest bit found wrong among failing checks. -/
def lowestBad : List Machine.Check → Option Nat
  | [] => none
  | (b, ok) :: r =>
    match ok, lowestBad r with
    | true, x => x
    | false, none => some b
    | false, some c => some (min b c)

/-- The bits an instruction of length code `len` occupies. -/
def wordBits (len w : Nat) : Nat := w % 2 ^ (32 * (len + 1))

/-- Decode a Thoyx instruction (R69, checks 1 to 6). `lookup` is the decode table: opcode to operation number. `lane` is
whether a lane path fetched it, `priv` whether the context is privileged. -/
def decodeThoyx (lookup : Nat → Option Nat) (lane priv : Bool) (w : Nat) : Except DecodeError Instr :=
  let len := w % 4
  if len = 3 then .error .illegalLength
  else
    match lookup (w / 4 % 1024) with
    | none => .error .unmapped
    | some op =>
      match opFormat op with
      | none => .error .unmapped
      | some f =>
        if f.isLane != lane then .error .stream
        else if !(f.lengths.contains len) then .error (.field 0)
        else if isPrivilegedOp op && !priv then .error (.privileged op)
        else
          let i := f.build len (wordBits len w)
          match lowestBad (f.rawChecks (wordBits len w) ++ Machine.checks i) with
          | some b => .error (.field b)
          | none => .ok i

/-- Map 1 as a decode table: each assigned opcode names itself (R85). -/
def map1 (opcode : Nat) : Option Nat := if (opFormat opcode).isSome then some opcode else none

/-! ## Qorda words (R438, R439) -/

/-- The instruction a Qorda opcode and its form bits select; `none` is unassigned. -/
def decodeBoxForm (w : Nat) : Option Instr :=
  match w / 2 ^ 26 % 64 with
  | 0x01 => some (.boxAdd (decQR w))
  | 0x02 => some (.boxSub (decQR w))
  | 0x03 => some (.boxMul (decQR w))
  | 0x04 => some (.boxMin (decQR w))
  | 0x05 => some (.boxMax (decQR w))
  | 0x06 => some (.boxAnd (decQR w))
  | 0x07 => some (.boxOr (decQR w))
  | 0x08 => some (.boxXor (decQR w))
  | 0x09 => some (.boxShl (decQR w))
  | 0x0A => some (.boxShr (decQR w))
  | 0x0B => some (.boxCmp (decQR w))
  | 0x0C => some (.boxSel (decQR w))
  | 0x10 => some (.boxAddi (decQI w))
  | 0x11 => some (if bitAt w 16 then .boxLdiH (decQI w) else .boxLdi (decQI w))
  | 0x12 => some (.boxGetl (decQI w))
  | 0x13 => some (.boxSetl (decQI w))
  | 0x14 => some (.boxPld (decQI w))
  | 0x15 => some (.boxPst (decQI w))
  | 0x16 => some (if bitAt w 25 then .boxFldScalar (decQI w) else .boxFldVector (decQI w))
  | 0x17 => some (if bitAt w 25 then .boxFstScalar (decQI w) else .boxFstVector (decQI w))
  | 0x18 => some (.boxFinc (decQI w))
  | 0x19 => some (.boxHrd (decQI w))
  | 0x1A => some (.boxHwr (decQI w))
  | 0x1B => some (.boxQordaTrap (decQI w))
  | 0x1C => some (.boxEmit (decQI w))
  | 0x1D => some (.boxPass (decQI w))
  | 0x1E => some (.boxDrop (decQI w))
  | 0x20 => some (.boxBr (decQB w))
  | 0x21 => some (.boxRep (decQB w))
  | _ => none

/-- Bits that a Qorda format leaves zero. -/
def boxRawChecks (w : Nat) : List Machine.Check :=
  if w / 2 ^ 26 % 64 < 0x10 then [(0, decide (w % 4 = 0))]
  else if 0x20 ≤ w / 2 ^ 26 % 64 then [(6, decide (w / 2 ^ 6 % 256 = 0))]
  else []

/-- The reason for which a kernel word fails to load: 3, or 4 (R446). -/
def boxWordReason (w : Nat) : Option Nat :=
  match decodeBoxForm w with
  | none => some 3
  | some i =>
    let bad := (boxRawChecks w ++ Machine.checks i).filter (fun c => !c.2)
    if bad.any (fun c => decide (c.1 < 64)) then some 3 else if bad.isEmpty then none else some 4

/-- Decode a Qorda word; `none` where the word fails to load. -/
def decodeBox (w : Nat) : Option Instr := if boxWordReason w = none then decodeBoxForm w else none

/-- The encoded word of a Qorda instruction. -/
def boxCode : Instr → Option Nat
  | .sadd _ => none
  | .ssub _ => none
  | .smul _ => none
  | .smulhs _ => none
  | .smulhu _ => none
  | .sdivs _ => none
  | .sdivu _ => none
  | .srems _ => none
  | .sremu _ => none
  | .sand _ => none
  | .sor _ => none
  | .sxor _ => none
  | .sandn _ => none
  | .sshl _ => none
  | .sshr _ => none
  | .ssra _ => none
  | .smins _ => none
  | .smaxs _ => none
  | .sminu _ => none
  | .smaxu _ => none
  | .sslts _ => none
  | .ssltu _ => none
  | .sseq _ => none
  | .sclz _ => none
  | .spopc _ => none
  | .sext _ => none
  | .zext _ => none
  | .saddi _ => none
  | .sandi _ => none
  | .sori _ => none
  | .sxori _ => none
  | .sshli _ => none
  | .sshri _ => none
  | .ssrai _ => none
  | .sslti _ => none
  | .sli _ => none
  | .slih _ => none
  | .saddl _ => none
  | .slea _ => none
  | .sld _ => none
  | .sst _ => none
  | .satom _ => none
  | .scas _ => none
  | .sprf _ => none
  | .b _ => none
  | .call _ => none
  | .ret _ => none
  | .jr _ => none
  | .beq _ => none
  | .bne _ => none
  | .blts _ => none
  | .bges _ => none
  | .bltu _ => none
  | .bgeu _ => none
  | .loop _ => none
  | .lane _ => none
  | .lwait _ => none
  | .recv _ => none
  | .srs _ => none
  | .sws _ => none
  | .vadd _ => none
  | .vsub _ => none
  | .vmul _ => none
  | .vmulh _ => none
  | .vmad _ => none
  | .vand _ => none
  | .vor _ => none
  | .vxor _ => none
  | .vshl _ => none
  | .vshr _ => none
  | .vsra _ => none
  | .vmin _ => none
  | .vmax _ => none
  | .vabs _ => none
  | .vneg _ => none
  | .vclz _ => none
  | .vpopc _ => none
  | .vbfe _ => none
  | .vbfi _ => none
  | .vadds _ => none
  | .vsubs _ => none
  | .vdot4 _ => none
  | .vcmp _ => none
  | .vsel _ => none
  | .clog _ => none
  | .vfadd _ => none
  | .vfsub _ => none
  | .vfmul _ => none
  | .vfma _ => none
  | .vfmin _ => none
  | .vfmax _ => none
  | .vrcp _ => none
  | .vrsq _ => none
  | .vexp2 _ => none
  | .vlog2 _ => none
  | .vsinp _ => none
  | .vcosp _ => none
  | .vtanh _ => none
  | .vcvt _ => none
  | .vqnt _ => none
  | .vpal _ => none
  | .vunpal _ => none
  | .vpack _ => none
  | .vunpk _ => none
  | .vmov _ => none
  | .vshuf _ => none
  | .vbcast _ => none
  | .vidx _ => none
  | .vtos _ => none
  | .vscan _ => none
  | .vballot _ => none
  | .ixset _ => none
  | .adset _ => none
  | .qmov _ => none
  | .qadd _ => none
  | .qsub _ => none
  | .qand _ => none
  | .qor _ => none
  | .qxor _ => none
  | .qshl _ => none
  | .qshr _ => none
  | .qli _ => none
  | .vtoq _ => none
  | .vld _ => none
  | .vst _ => none
  | .vatom _ => none
  | .vcas _ => none
  | .vldt _ => none
  | .vstt _ => none
  | .vste _ => none
  | .vprf _ => none
  | .vlda _ => none
  | .vsta _ => none
  | .brv _ => none
  | .jmpv _ => none
  | .callv _ => none
  | .retv _ => none
  | .regang _ => none
  | .lend _ => none
  | .sigv _ => none
  | .brkv _ => none
  | .trapv _ => none
  | .nopv _ => none
  | .tdef _ => none
  | .tinv _ => none
  | .ctload _ => none
  | .palld _ => none
  | .gangset _ => none
  | .mclr _ => none
  | .mtab _ => none
  | .mlut _ => none
  | .mlutg _ => none
  | .mxpq _ => none
  | .mout _ => none
  | .tbdrop _ => none
  | .mbatch _ => none
  | .mwait _ => none
  | .mtest _ => none
  | .cpt _ => none
  | .cpg _ => none
  | .cps _ => none
  | .cpb _ => none
  | .cpmc _ => none
  | .send _ => none
  | .chpost _ => none
  | .chpoll _ => none
  | .fence _ => none
  | .fenceo _ => none
  | .fencea _ => none
  | .bar _ => none
  | .step _ => none
  | .sig _ => none
  | .hbeat _ => none
  | .yield _ => none
  | .waitev _ => none
  | .qput _ => none
  | .trap _ => none
  | .exit _ => none
  | .brk _ => none
  | .nop _ => none
  | .dtload _ => none
  | .capset _ => none
  | .sbload _ => none
  | .sbflow _ => none
  | .windowWriteAccept _ => none
  | .loadDataReturn _ _ _ _ => none
  | .recvFill _ => none
  | .lwaitComplete _ => none
  | .mwaitComplete _ => none
  | .fenceaComplete _ => none
  | .barrierComplete _ _ _ => none
  | .waitevWake _ => none
  | .laneBlockStart _ => none
  | .waveClear _ _ => none
  | .mclrExecute _ => none
  | .mtabExecute _ => none
  | .mlutExecute _ => none
  | .mlutgLatchComplete _ => none
  | .mxpqExecute _ => none
  | .moutExecute _ => none
  | .tbdropExecute _ => none
  | .copyUnit _ _ => none
  | .cpmcComplete _ _ => none
  | .sendInject _ _ => none
  | .encoderTileWrite _ => none
  | .logReplay _ _ => none
  | .walkerMonitorWake _ => none
  | .walkerRewalkTimer _ _ => none
  | .faultRecordHeldWrite _ => none
  | .snapshotPageCopy _ _ => none
  | .launchTake => none
  | .cpMemoryRetry _ => none
  | .waitEventSatisfied _ => none
  | .teamPlace => none
  | .teamRetire _ => none
  | .splitChange _ => none
  | .teamSave _ => none
  | .teamRestore _ => none
  | .launchComplete _ => none
  | .watchdogFire _ => none
  | .launchKill _ => none
  | .launchRollback _ => none
  | .qtailWrite _ _ => none
  | .contextCreate _ => none
  | .contextDestroy _ => none
  | .contextHold _ => none
  | .contextRelease _ => none
  | .unserviceable _ => none
  | .invalidate _ => none
  | .debugWrite _ => none
  | .replayEnable _ => none
  | .resetGeneration _ => none
  | .replayIntervalStart _ => none
  | .replayRun _ _ _ _ => none
  | .traceSampleTick _ => none
  | .readPacket _ => none
  | .readData _ => none
  | .writePacket _ => none
  | .maskedWrite _ => none
  | .atomicPacket _ => none
  | .atomicResult _ => none
  | .writeAcknowledgment _ => none
  | .refusal _ => none
  | .retryAfterResend _ => none
  | .invalidatePacket _ => none
  | .invalidateAcknowledgment _ => none
  | .messagePacket _ => none
  | .messageAcknowledgment _ => none
  | .emittedPacket _ => none
  | .managementPacket _ => none
  | .heldMessageRetry _ _ => none
  | .linkReplay _ _ => none
  | .portRetire _ => none
  | .planeDead _ => none
  | .planeMapChange _ => none
  | .lostPacketResend _ _ => none
  | .packageUnreachable _ => none
  | .boxPacketRun _ => none
  | .boxAdd f => some (0x01 * 2 ^ 26 + encQR f)
  | .boxSub f => some (0x02 * 2 ^ 26 + encQR f)
  | .boxMul f => some (0x03 * 2 ^ 26 + encQR f)
  | .boxMin f => some (0x04 * 2 ^ 26 + encQR f)
  | .boxMax f => some (0x05 * 2 ^ 26 + encQR f)
  | .boxAnd f => some (0x06 * 2 ^ 26 + encQR f)
  | .boxOr f => some (0x07 * 2 ^ 26 + encQR f)
  | .boxXor f => some (0x08 * 2 ^ 26 + encQR f)
  | .boxShl f => some (0x09 * 2 ^ 26 + encQR f)
  | .boxShr f => some (0x0A * 2 ^ 26 + encQR f)
  | .boxCmp f => some (0x0B * 2 ^ 26 + encQR f)
  | .boxSel f => some (0x0C * 2 ^ 26 + encQR f)
  | .boxAddi f => some (0x10 * 2 ^ 26 + encQI f)
  | .boxLdi f => some (0x11 * 2 ^ 26 + encQI f)
  | .boxLdiH f => some (0x11 * 2 ^ 26 + encQI f)
  | .boxGetl f => some (0x12 * 2 ^ 26 + encQI f)
  | .boxSetl f => some (0x13 * 2 ^ 26 + encQI f)
  | .boxPld f => some (0x14 * 2 ^ 26 + encQI f)
  | .boxPst f => some (0x15 * 2 ^ 26 + encQI f)
  | .boxFldVector f => some (0x16 * 2 ^ 26 + encQI f)
  | .boxFldScalar f => some (0x16 * 2 ^ 26 + encQI f)
  | .boxFstVector f => some (0x17 * 2 ^ 26 + encQI f)
  | .boxFstScalar f => some (0x17 * 2 ^ 26 + encQI f)
  | .boxFinc f => some (0x18 * 2 ^ 26 + encQI f)
  | .boxHrd f => some (0x19 * 2 ^ 26 + encQI f)
  | .boxHwr f => some (0x1A * 2 ^ 26 + encQI f)
  | .boxQordaTrap f => some (0x1B * 2 ^ 26 + encQI f)
  | .boxEmit f => some (0x1C * 2 ^ 26 + encQI f)
  | .boxPass f => some (0x1D * 2 ^ 26 + encQI f)
  | .boxDrop f => some (0x1E * 2 ^ 26 + encQI f)
  | .boxBr f => some (0x20 * 2 ^ 26 + encQB f)
  | .boxRep f => some (0x21 * 2 ^ 26 + encQB f)
  | .pseudoChannelDrop _ => none
  | .patrolRead _ _ _ _ => none
  | .ecsCountRead _ _ _ => none
  | .powerEpoch _ _ _ => none
  | .thermalTrip _ => none
  | .counterReprogram _ _ => none
  | .timeSeriesTick => none
  | .linkEyeUpdate _ _ => none
  | .fieldTestRequest _ => none
  | .fieldTestInterval => none
  | .fieldTestRun => none
  | .fieldTestComplete _ _ => none
  | .deviceReset => none
  | .functionReady _ => none
  | .firmwareUpdate _ => none
  | .attestationRequest _ => none
  | .hostWindowAccess _ _ _ => none
  | .registerWrite _ _ => none
  | .storePerformed _ _ _ => none
  | .linkRetrain _ _ _ => none

/-! ## Encoding -/

/-- The words of an instruction as one number, with its number of bits, under a decode table that places operation `op` at
opcode `place op`. Device events have none. -/
def encodeAt (place : Nat → Nat) (i : Instr) : Option (Nat × Nat) :=
  match thoyxCode i with
  | some (op, len, w) => some (32 * (len + 1), len + 4 * place op + w)
  | none => (boxCode i).map (fun w => (32, w))

/-- The words of an instruction under map 1 (R88). -/
def encode (i : Instr) : Option (Nat × Nat) := encodeAt id i

/-- The first word of an instruction as fetched, for fault details (R70). -/
def firstWordAt (place : Nat → Nat) (i : Instr) : Nat := match encodeAt place i with | some (_, w) => w % 2 ^ 32 | none => 0

/-! ## The opcode table -/

/-- The instruction whose bits are `w`. A single word is read as a Qorda word first, and then, as a longer one is, as a Thoyx
instruction under map 1, of either stream, privilege granted: the words of the two sets overlap. Log entry 13. -/
def decodeTableWord (nbits w : Nat) : Option Instr :=
  let x := w % 2 ^ nbits
  let lane := match opFormat (x / 4 % 1024) with | some f => f.isLane | none => false
  match (if nbits ≤ 32 then decodeBox x else none), decodeThoyx map1 lane true x with
  | some i, _ => some i
  | none, .ok i => some i
  | none, .error _ => none

end Sys2Proof
end

