-- ==== Sys2Proof/Machine/Ops.lean ====
section
/-! DEFINITION. The named operations over the state that every meaning is built from: access to waves, teams, launches and
contexts; physical memory with its line tags; trace and fault records; taking a fault and being released from one;
registers with their full/empty bits; the end of an instruction (next PC, signature). -/

namespace Sys2Proof.Machine

/-! ## Stops inside a meaning -/

/-- Why the body of an instruction does not complete: it waits with no effect, it waits for a
line of a peer package, or it raises a fault with its code and
detail, the lanes the record's mask words name where they are not the active lanes, and the unit the record names where it
is not the unit that executes the instruction (R323). -/
inductive Stop where
  | wait
  /-- wait for a line of a peer package, which is asked for (R411) -/
  | request (pkg addr : Nat)
  /-- wait for the peers that hold a home line to drop it; they are told to (R413) -/
  | evict (line : Nat)
  | fault (code detail : Nat) (mask unit : Option Nat)
  deriving DecidableEq, Repr

abbrev Res := Except Stop

/-- Wait: no effect. -/
def waits {α : Type} : Res α := .error .wait

/-- Raise a fault. -/
def raises {α : Type} (code detail : Nat) : Res α := .error (.fault code detail none none)

/-- Raise a fault with mask words of its own. -/
def raisesMask {α : Type} (code detail mask : Nat) : Res α := .error (.fault code detail (some mask) none)

/-- Continue only if the condition holds; otherwise wait. -/
def waitUnless (b : Bool) : Res Unit := if b then .ok () else .error .wait

/-- Continue only if the condition holds; otherwise raise. -/
def ensure (b : Bool) (code detail : Nat) : Res Unit := if b then .ok () else .error (.fault code detail none none)

/-- The option's value, or a stop. -/
def orStop {α : Type} (o : Option α) (e : Stop) : Res α := match o with | some a => .ok a | none => .error e

/-- The step issues nothing: its unit waits. -/
def stall (s : State) : Out := .next { s with stalled := true }

/-! ## Finding things -/

def getWave (s : State) (wid : Nat) : Option Wave := Tbl.find? s.waves wid

def setWave (s : State) (wid : Nat) (w : Wave) : State := { s with waves := Tbl.put s.waves wid w }

def modWave (s : State) (wid : Nat) (f : Wave → Wave) : State := { s with waves := Tbl.modify s.waves wid f }

def getTeam (s : State) (t : Nat) : Option Team := Tbl.find? s.teams t

def modTeam (s : State) (t : Nat) (f : Team → Team) : State := { s with teams := Tbl.modify s.teams t f }

def getLaunch (s : State) (l : Nat) : Option Launch := Tbl.find? s.launches l

def modLaunch (s : State) (l : Nat) (f : Launch → Launch) : State := { s with launches := Tbl.modify s.launches l f }

def getCtx (s : State) (c : Nat) : Option Context := Tbl.find? s.contexts c

def modCtx (s : State) (c : Nat) (f : Context → Context) : State := { s with contexts := Tbl.modify s.contexts c f }

/-- Core `c` of the package; a core with no entry is as after reset. -/
def getCore (s : State) (c : Nat) : Core := (Tbl.find? s.cores c).getD Core.reset

def setCore (s : State) (c : Nat) (k : Core) : State := { s with cores := Tbl.put s.cores c k }

def getCluster (s : State) (c : Nat) : Cluster := (Tbl.find? s.clusters c).getD Cluster.reset

def setCluster (s : State) (c : Nat) (k : Cluster) : State := { s with clusters := Tbl.put s.clusters c k }

/-- Memory stack `k` (R475). -/
def getStack (s : State) (k : Nat) : Stack := (Tbl.find? s.hbm k).getD Stack.reset

def setStack (s : State) (k : Nat) (x : Stack) : State := { s with hbm := Tbl.put s.hbm k x }

def modHub (s : State) (f : Hub → Hub) : State := { s with hub := f s.hub }

def modFabric (s : State) (f : Fabric → Fabric) : State := { s with fabric := f s.fabric }

/-- The launch a wave belongs to, with its number. -/
def launchOf (s : State) (w : Wave) : Option (Nat × Launch) :=
  match getTeam s w.team with
  | none => none
  | some t => (getLaunch s t.lid).map (fun l => (t.lid, l))

/-- The context number of a wave. -/
def ctxOf (s : State) (w : Wave) : Option Nat := (launchOf s w).map (fun p => p.2.ctx)

/-- The context a wave runs in, with its number. -/
def ctxRec (s : State) (w : Wave) : Option (Nat × Context) :=
  match ctxOf s w with
  | none => none
  | some c => (getCtx s c).map (fun x => (c, x))

/-- WAVEID fields (R64): the core id (R369) is WAVEID / 32, the cluster is WAVEID / 128, the die WAVEID / 2048. -/
def coreOf (wid : Nat) : Nat := wid / 32

def clusterOf (wid : Nat) : Nat := wid / 128

def dieOf (wid : Nat) : Nat := wid / 2048

def slotOf (wid : Nat) : Nat := wid % 32

/-- Stack domain of a wave (R5). -/
def domainOf (wid : Nat) : Nat := coreOf wid / 32

/-- Whether two waves lie in one instance of a scope, as seen from wave `a` (R302). CORE is the team. -/
def sameInstance (s : State) (scope a b : Nat) : Bool :=
  match scope with
  | 0 => a == b
  | 1 => match getWave s a, getWave s b with
         | some x, some y => x.team == y.team
         | _, _ => false
  | 2 => clusterOf a == clusterOf b
  | 3 => domainOf a == domainOf b
  | _ => true

/-- The launch flags (R362, R64 LFLAGS): restartable, shadow, persistent, co-resident, superstep. -/
def flagRestartable (l : Launch) : Bool := l.e.flags % 2 == 1
def flagShadow (l : Launch) : Bool := l.e.flags / 2 % 2 == 1
def flagPersistent (l : Launch) : Bool := l.e.flags / 4 % 2 == 1
def flagCoresident (l : Launch) : Bool := l.e.flags / 8 % 2 == 1
def flagSuperstep (l : Launch) : Bool := l.e.flags / 16 % 2 == 1

def isShadow (s : State) (w : Wave) : Bool := match launchOf s w with | some (_, l) => flagShadow l | none => false

/-- v registers allocated per lane (R47). -/
def regAlloc (l : Launch) : Nat := roundUp l.e.regs 8

def regAllocOf (s : State) (w : Wave) : Nat := match launchOf s w with | some (_, l) => regAlloc l | none => 0

/-- A number nothing else has. -/
def freshUid (s : State) : Nat × State := (s.nextUid, { s with nextUid := s.nextUid + 1 })

/-- A free byte, word or number (R8), and the state with the counter advanced. -/
def freeByteOf (s : State) : Byte × State := (Config.freeByte s.freeCtr, { s with freeCtr := s.freeCtr + 1 })

def freeWordOf (s : State) : Word × State := (Config.freeWord s.freeCtr, { s with freeCtr := s.freeCtr + 1 })

def freeNatOf (s : State) : Nat × State := (Config.freeNat s.freeCtr, { s with freeCtr := s.freeCtr + 1 })

/-- `n` free bytes. -/
def freeBytesOf (s : State) : Nat → List Byte × State
  | 0 => ([], s)
  | n + 1 =>
    let r := freeBytesOf { s with freeCtr := s.freeCtr + 1 } n
    (Config.freeByte s.freeCtr :: r.1, r.2)

/-! ## Physical memory (R293, R294, R473, R479) -/

/-- What a byte of device memory reads as before anything has written it. Log entry 3. -/
def memDefault : Byte := 0

/-- The canonical form of memory: addresses strictly rising, no entry that reads as an unlisted address does. -/
def Memory.wf (m : List Host.Cell) : Bool := Cells.wf memDefault m

/-- `n` bytes from a list of cells. -/
def cellsRead (d : Byte) (m : List Host.Cell) (a : Nat) : Nat → List Byte
  | 0 => []
  | n + 1 => Cells.get d m a :: cellsRead d m (a + 1) n

/-- Write bytes into a list of cells. -/
def cellsWrite (d : Byte) (m : List Host.Cell) (a : Nat) : List Byte → List Host.Cell
  | [] => m
  | b :: r => cellsWrite d (Cells.set d m a b) (a + 1) r

def readPhys (s : State) (pa n : Nat) : List Byte := cellsRead memDefault s.mem pa n

def readPhysNat (s : State) (pa n : Nat) : Nat := natOfBytes (readPhys s pa n)

/-! ### Check values (R454, R455) -/

/-- One bit enters a check value: polynomial 0x8BB7, most significant bit first. -/
def crcBit (v : Half) (b : Bool) : Half := if v.getLsbD 15 != b then (v <<< 1) ^^^ 0x8BB7 else v <<< 1

def crcByte (v : Half) (b : Byte) : Half := [7, 6, 5, 4, 3, 2, 1, 0].foldl (fun v i => crcBit v (b.getLsbD i)) v

/-- The check value of a sector: bytes in ascending order, from 0. -/
def checkValue (bs : List Byte) : Half := bs.foldl crcByte 0

/-- The check value of a sector whose bytes change, made from the value held: the second of the two computations of a partial write. -/
def mergedCheck (held : Half) (old new : List Byte) : Half := held ^^^ checkValue (List.zipWith (fun a b => a ^^^ b) old new)

/-- The check values of the four sectors of a line. -/
def lineChecks (bs : List Byte) : List Half := (List.range 4).map (fun i => checkValue ((bs.drop (32 * i)).take 32))

/-- What the sectors that a range of `n` bytes covers hold after a write: one written whole holds the value of its bytes, and one written
in part differs as it did, for the value is linear (R455). -/
def clearChecks (m : Cells Half) (off n k : Nat) : Nat → Cells Half
  | 0 => m
  | j + 1 => clearChecks (if off ≤ 32 * k ∧ 32 * (k + 1) ≤ off + n then Cells.set 0 m k 0 else m) off n (k + 1) j

/-- A sector of a range differs from its check value. -/
def anyDiff (m : Cells Half) (k : Nat) : Nat → Bool
  | 0 => false
  | j + 1 => decide (Cells.get 0 m k ≠ 0) || anyDiff m (k + 1) j

/-! ### Tags and encodings (R293, R294, R456) -/

/-- The words of a line. -/
def lineWords (bs : List Byte) : Nat → Nat → List Nat
  | 0, _ => []
  | n + 1, i => natOfBytes ((bs.drop (4 * i)).take 4) :: lineWords bs n (i + 1)

/-- Whether a difference modulo 2³² read as signed lies in −b … b − 1. -/
def deltaIn (b w0 wi : Nat) : Bool :=
  let d := sextNat (wi + 2 ^ 32 - w0) 32
  decide (-(b : Int) ≤ d) && decide (d < b)

/-- The encoding of a line of class line (R294): its tag bits [2:0]. -/
def lineEncoding (bs : List Byte) : Nat :=
  let ws := lineWords bs 32 0
  let w0 := ws.getD 0 0
  if bs.all (fun b => b == 0) then 1
  else if ws.all (fun x => x == w0) then 2
  else if ws.all (deltaIn 128 w0) then 3
  else if ws.all (deltaIn 32768 w0) then 4
  else 0

/-- The sectors that a line of an encoding occupies. -/
def sectorsStored (enc : Nat) : Nat :=
  match enc with
  | 1 => 0
  | 2 => 1
  | 3 => 2
  | 4 => 3
  | _ => 4

/-- The bytes that HBM stores for a line in an encoding: whole sectors, zero beyond the deltas. -/
def encodeLine (enc : Nat) (bs : List Byte) : List Byte :=
  let ws := lineWords bs 32 0
  let w0 := ws.getD 0 0
  let deltas := fun k => ws.flatMap (fun x => bytesOfNat k (x + 2 ^ 32 - w0))
  match enc with
  | 1 => []
  | 2 => bytesOfNat 4 w0 ++ List.replicate 28 0
  | 3 => bytesOfNat 4 w0 ++ deltas 1 ++ List.replicate 28 0
  | 4 => bytesOfNat 4 w0 ++ deltas 2 ++ List.replicate 28 0
  | _ => bs

/-- The line that stored bytes expand to. -/
def expandLine (enc : Nat) (st : List Byte) : List Byte :=
  let w0 := natOfBytes (st.take 4)
  let deltas := fun k => (List.range 32).flatMap (fun i =>
    bytesOfNat 4 ((((w0 : Nat) : Int) + sextNat (natOfBytes ((st.drop (4 + k * i)).take k)) (8 * k)) % 2 ^ 32).toNat)
  match enc with
  | 1 => List.replicate 128 0
  | 2 => (List.range 32).flatMap (fun _ => bytesOfNat 4 w0)
  | 3 => deltas 1
  | 4 => deltas 2
  | _ => st

/-- The encoding in which a line of class line is written: raw where the encoder's output does not expand to sectors of the same check
values (R456). -/
def writtenEncoding (bs : List Byte) : Nat :=
  let enc := lineEncoding bs
  if enc = 0 ∨ lineChecks (expandLine enc (encodeLine enc bs)) = lineChecks bs then enc else 0

def getTag (s : State) (line : Nat) : BitVec 4 := Cells.get 0 s.tags line

/-- The line is poisoned: bit 3 of its tag, or an encoding that is never written (R293). -/
def linePoisoned (s : State) (line : Nat) : Bool :=
  let t := (getTag s line).toNat
  decide (8 ≤ t) || decide (5 ≤ t % 8)

/-- The tag of one line in HBM after a write that covers `whole` of it with data that `poison` says is poisoned (R294, R479). -/
def retag (s : State) (cls line : Nat) (whole poison : Bool) : State :=
  let p := poison || (linePoisoned s line && !whole)
  let enc := if p then 8 else if cls = 0 then writtenEncoding (readPhys s (128 * line) 128) else 0
  { s with tags := Cells.set 0 s.tags line (BitVec.ofNat 4 enc) }

/-- What HBM stores of a line that no slice holds dirty: the bytes of the sectors that its encoding occupies. -/
def storedLine (s : State) (line : Nat) : List Byte := encodeLine ((getTag s line).toNat % 8) (readPhys s (128 * line) 128)

/-- The check values of some sectors of a line in HBM become those that differ as `d` says from those of their bytes. -/
def setChecks (s : State) (line : Nat) (t : BitVec 4) (d : Nat → Half) : State :=
  { s with checks := (List.range 4).foldl (fun m i => if t.getLsbD i then Cells.set 0 m (4 * line + i) (d i) else m) s.checks }

/-! ### The L2 slices (R291, R292, R296, R479). Log entry 26. -/

/-- From this number on, the lines of a slice are copies of peers' lines: the number of a copy (R411) is its key / 128. -/
def peerLines : Nat := 2 ^ 60

/-- The slices that hold a line: the directory of its home (R291). -/
def l2Holders (s : State) (line : Nat) : List (Nat × L2Line) :=
  s.clusters.filterMap (fun k => (Tbl.find? k.2.l2 line).map (fun r => (k.1, r)))

def setL2 (s : State) (c line : Nat) (r : L2Line) : State :=
  setCluster s c { getCluster s c with l2 := Tbl.put (getCluster s c).l2 line r }

/-- The slice that a 32-byte sector is read from, if one holds it valid. -/
def sectorHolder (s : State) (q : Nat) : Option (Nat × L2Line) := (l2Holders s (q / 4)).find? (fun h => h.2.valid.getLsbD (q % 4))

/-- A 32-byte sector is marked poisoned: a slice that holds it valid says so, else the line's tag in HBM (R293, R479). -/
def sectorPoisoned (s : State) (q : Nat) : Bool :=
  match sectorHolder s q with
  | some h => h.2.bad.getLsbD (q % 4)
  | none => linePoisoned s (q / 4)

/-- The exclusive or of the check value held beside a sector with the one of its bytes (R455). -/
def sectorDiff (s : State) (q : Nat) : Half :=
  match sectorHolder s q with
  | some h => Cells.get 0 h.2.diff (q % 4)
  | none => Cells.get 0 s.checks q

/-- The check value held beside a sector of device memory. -/
def heldCheck (s : State) (q : Nat) : Half := checkValue (readPhys s (32 * q) 32) ^^^ sectorDiff s q

/-- A consumer of a sector finds it poisoned: it is marked, or its check value does not match (R457). -/
def sectorFails (s : State) (q : Nat) : Bool :=
  match sectorHolder s q with
  | some h => h.2.bad.getLsbD (q % 4) || decide (Cells.get 0 h.2.diff (q % 4) ≠ 0)
  | none => linePoisoned s (q / 4) || decide (Cells.get 0 s.checks q ≠ 0)

/-- Any of some sectors has a property. -/
def anySectorOf (f : Nat → Bool) (q : Nat) : Nat → Bool
  | 0 => false
  | k + 1 => f q || anySectorOf f (q + 1) k

/-- `n` bytes touch a sector that has a property. -/
def bytesTouch (f : Nat → Bool) (pa n : Nat) : Bool :=
  if n = 0 then false else anySectorOf f (pa / 32) ((pa + n - 1) / 32 + 1 - pa / 32)

def bytesPoisoned (s : State) (pa n : Nat) : Bool := bytesTouch (sectorFails s) pa n

/-- The sectors of a line for which something holds. -/
def sectorsWhere (p : Nat → Bool) : BitVec 4 := BitVec.ofNat 4 (b2n (p 0) + 2 * b2n (p 1) + 4 * b2n (p 2) + 8 * b2n (p 3))

/-- The sectors that bytes `lo` up to `hi` of a line touch. -/
def touchedSectors (lo hi : Nat) : BitVec 4 := sectorsWhere (fun q => decide (32 * q < hi) && decide (lo < 32 * q + 32))

/-- The sectors all of whose bytes are in a mask. -/
def coveredSectors (m : BitVec 128) : BitVec 4 := sectorsWhere (fun q => m.toNat / 2 ^ (32 * q) % 2 ^ 32 == 2 ^ 32 - 1)

/-- The retention state after an access with a hint (R74, R292); none: the line is absent and stays so. -/
def retain (hint : Nat) (cur : Option Retention) : Option Retention :=
  match hint, cur with
  | 3, r => r
  | 2, _ => some .evictLast
  | 1, some .evictLast => some .evictLast
  | 1, _ => some .evictFirst
  | _, some r => some r
  | _, none => some .normal

/-- Fill the sectors of a mask that are not valid, from the other slices or from HBM; poisoned ones only where `all`. -/
def fillSectors (s : State) (line : Nat) (m : BitVec 4) (all : Bool) (r : L2Line) : L2Line :=
  let bad := if line < peerLines then sectorsWhere (fun q => sectorPoisoned s (4 * line + q)) else 0
  let new := m &&& ~~~r.valid &&& (if all then 15 else ~~~bad)
  { r with valid := r.valid ||| new, dirty := r.dirty &&& ~~~new, bad := (r.bad &&& ~~~new) ||| (bad &&& new),
           diff := (List.range 4).foldl (fun m i => if new.getLsbD i then Cells.set 0 m i (sectorDiff s (4 * line + i)) else m) r.diff }

/-- The line as it stands in a slice, allocated if it is absent, after an access with a hint. -/
def l2After (s : State) (c line hint cls : Nat) : Option L2Line :=
  let cur := Tbl.find? (getCluster s c).l2 line
  (retain hint (cur.map (fun r => r.retention))).map (fun ret =>
    { cur.getD { retention := ret, cls := cls, valid := 0, dirty := 0, bad := 0, req := none, cover := 0 } with
      retention := ret, cls := cls })

/-- A line leaves a slice; a copy of a peer's line, which is never dirty, is lost with it (R411). -/
def dropL2 (s : State) (c line : Nat) : State :=
  let s := setCluster s c { getCluster s c with l2 := Tbl.del (getCluster s c).l2 line }
  if line < peerLines then s
  else modFabric s (fun f => { f with copies := Tbl.del f.copies ((line - peerLines) * 128) })

/-- A slice evicts a line: what is dirty is written back with its check values, after its missing sectors are filled, and the line's tag is
made anew; it is poisoned if any sector is, and a line of class line whose check values do not match fails the comparison of its
encoder (R292, R293, R296, R456, R479). -/
def evictL2 (s : State) (c line : Nat) (r : L2Line) : State :=
  let s := dropL2 s c line
  if r.dirty = 0 then s
  else
    let s := setChecks s line r.valid (Cells.get 0 r.diff)
    retag s r.cls line true (decide (r.bad &&& r.valid ≠ 0) || (linePoisoned s line && decide (r.valid ≠ 15))
      || (r.cls == 0 && anyDiff s.checks (4 * line) 4))

/-- The order of victims: evict-first lines, then normal ones, then evict-last ones (R292). -/
def victimRank : Retention → Nat
  | .evictFirst => 0
  | .normal => 1
  | .evictLast => 2

/-- No line of the slice is to leave before this one. -/
def mayLeave (l2 : Tbl L2Line) (r : L2Line) : Bool := l2.all (fun k => decide (victimRank r.retention ≤ victimRank k.2.retention))

/-- The lines that a slice of 4 MiB holds (R2, R291). -/
def sliceLines : Nat := 32768

/-- A slice that is full loses a line before another is allocated; which line of its class of victims is open (R291, R292). -/
def makeRoom (s : State) (c line : Nat) : State :=
  let l2 := (getCluster s c).l2
  if (Tbl.find? l2 line).isSome || decide (l2.length < sliceLines) then s
  else
    let vs := l2.filter (fun k => mayLeave l2 k.2)
    match vs[Config.freeNat s.freeCtr % vs.length]? with
    | some v => evictL2 { s with freeCtr := s.freeCtr + 1 } c v.1 v.2
    | none => s

/-- A load through the slice of cluster `c`: the line is allocated as its hint says, with the sectors that are read. -/
def loadL2 (s : State) (c line hint cls : Nat) (m : BitVec 4) : State :=
  match l2After s c line hint cls with
  | some r => let s := makeRoom s c line; setL2 s c line (fillSectors s line m false r)
  | none => s

/-- A write of bytes `lo` up to `hi` merges in a slice: a part of a sector fills the line first; a sector that one request has written
whole is clean data, and one that a part is merged into keeps its poison, or is poisoned where its old check value does not match (R296,
R455, R479). -/
def mergeL2 (s : State) (line lo hi : Nat) (poison : Bool) (req : Option (Nat × Nat)) (r : L2Line) : L2Line :=
  let bytes := BitVec.ofNat 128 (2 ^ hi - 2 ^ lo)
  let cover := if poison then 0 else if req.isSome ∧ r.req = req then r.cover ||| bytes else bytes
  let t := touchedSectors lo hi
  let r := if t &&& ~~~(coveredSectors bytes) = 0 then r else fillSectors s line 15 true r
  let whole := t &&& coveredSectors cover
  let off := t &&& ~~~whole &&& sectorsWhere (fun q => decide (Cells.get 0 r.diff q ≠ 0))
  { r with valid := r.valid ||| t, dirty := r.dirty ||| t, req := req, cover := cover,
           bad := (if poison then r.bad ||| t else r.bad &&& ~~~whole) ||| off,
           diff := (List.range 4).foldl (fun m i => if whole.getLsbD i then Cells.set 0 m i 0 else m) r.diff }

/-- The other slices lose their copies of some sectors. -/
def dropOthers (s : State) (c line : Nat) (t : BitVec 4) : State :=
  { s with clusters := s.clusters.map (fun k =>
      if k.1 = c then k else (k.1, { k.2 with l2 := Tbl.modify k.2.l2 line (fun r => { r with valid := r.valid &&& ~~~t, dirty := r.dirty &&& ~~~t }) })) }

/-- A write of bytes `lo` up to `hi` of a line that allocates nothing: a whole line goes to HBM and to the slices that hold it; a part
merges in a slice that holds the line, or else at the memory controller (R296, R340, R479). -/
def settleLine (s : State) (cls line lo hi : Nat) (poison : Bool) : State :=
  if lo = 0 ∧ hi = 128 then
    let s := retag (setChecks s line 15 (fun _ => 0)) cls line true poison
    (l2Holders s line).foldl (fun t h => setL2 t h.1 line
      { h.2 with cls := cls, valid := 15, dirty := 0, bad := if poison then 15 else 0, req := none, cover := 0, diff := [] }) s
  else
    match l2Holders s line with
    | h :: _ => dropOthers (setL2 s h.1 line (mergeL2 s line lo hi poison none h.2)) h.1 line (touchedSectors lo hi)
    | [] =>
      let t := touchedSectors lo hi
      let whole := coveredSectors (BitVec.ofNat 128 (2 ^ hi - 2 ^ lo))
      let off := sectorsWhere (fun q => (t &&& ~~~whole).getLsbD q && decide (Cells.get 0 s.checks (4 * line + q) ≠ 0))
      retag (setChecks s line whole (fun _ => 0)) cls line false (poison || decide (off ≠ 0))

/-- A store of a wave of cluster `c`: in its slice, as the hint says, else as a write that allocates nothing. -/
def storeLine (s : State) (c line hint cls lo hi : Nat) (req : Option (Nat × Nat)) : State :=
  match l2After s c line hint cls with
  | some r => let s := makeRoom s c line; dropOthers (setL2 s c line (mergeL2 s line lo hi false req r)) c line (touchedSectors lo hi)
  | none => settleLine s cls line lo hi false

/-- A write of `n` bytes from `pa`, line by line, that allocates nothing. -/
def settleLines (s : State) (cls pa n : Nat) (poison : Bool) : Nat → Nat → State
  | 0, _ => s
  | k + 1, line =>
    settleLines (settleLine s cls line (max pa (128 * line) - 128 * line) (min (pa + n) (128 * line + 128) - 128 * line) poison)
      cls pa n poison k (line + 1)

/-- A line leaves a slice, if no line of the slice is to leave before it. -/
def evictTurn (s : State) (c line : Nat) : Option State :=
  match Tbl.find? (getCluster s c).l2 line with
  | some r => if mayLeave (getCluster s c).l2 r then some (evictL2 s c line r) else none
  | none => none

/-- Every slice writes back the lines of a range of addresses (R482). -/
def writeBackRange (s : State) (lo hi : Nat) : State :=
  s.clusters.foldl (fun t k => (k.2.l2.filter (fun r => decide (lo ≤ 128 * r.1) && decide (128 * r.1 < hi))).foldl (fun t r => evictL2 t k.1 r.1 r.2) t) s

/-- A write that is no read-modify-write ends the release sequences of the words it touches (R307). -/
def endReleases (s : State) (pa n : Nat) : State :=
  if s.releases.isEmpty then s else { s with releases := s.releases.filter (fun r => decide (r.1 < pa / 8) || decide ((pa + n - 1) / 8 < r.1)) }

/-- Write bytes to device memory as one write that allocates nothing in L2; `cls` is the compression class of the page (0 line). -/
def writePhysCls (s : State) (cls pa : Nat) (bs : List Byte) (poison : Bool) : State :=
  let n := bs.length
  if n = 0 then s
  else
    settleLines { endReleases s pa n with mem := cellsWrite memDefault s.mem pa bs } cls pa n poison
      ((pa + n - 1) / 128 + 1 - pa / 128) (pa / 128)

/-- Write bytes within one line as a store of a wave of cluster `c`. -/
def writeL2 (s : State) (c hint cls pa : Nat) (bs : List Byte) (req : Option (Nat × Nat)) : State :=
  storeLine { endReleases s pa bs.length with mem := cellsWrite memDefault s.mem pa bs } c (pa / 128) hint cls (pa % 128) (pa % 128 + bs.length) req

/-- A write by the device itself to a region no page names: kept raw. Log entry 14. -/
def writePhys (s : State) (pa : Nat) (bs : List Byte) : State := writePhysCls s 1 pa bs false

def gib : Nat := 2 ^ 30
def chanData : Nat := 765 * 2 ^ 20

/-- Bits set among the low `n` bits of a mask, ascending. -/
def bitsSet (m : Nat) : Nat → List Nat
  | 0 => []
  | n + 1 => bitsSet m n ++ (if m / 2 ^ n % 2 = 1 then [n] else [])

/-- The live pseudo-channels of a stack that are not reserved, and the reserved ones (R473). -/
def dataChannels (x : Stack) : List Nat := (bitsSet x.live 64).filter (fun p => x.reserved / 2 ^ p % 2 == 0)

def reservedChannels (x : Stack) : List Nat := bitsSet x.reserved 64

/-- The pseudo-channel that stores a physical address; `none` outside every live range (R473). -/
def homeChannel (s : State) (pa : Nat) : Option (Nat × Nat) :=
  let k := pa / (64 * gib)
  let off := pa % (64 * gib)
  if 16 ≤ k then none
  else
    let x := getStack s k
    let cs := dataChannels x
    if off < cs.length * chanData then
      (cs[off / 128 % cs.length]?).map (fun p => (k, p))
    else if 48 * gib ≤ off ∧ (off - 48 * gib) % gib < chanData then
      match (reservedChannels x)[(off - 48 * gib) / gib]? with
      | some p => if x.live / 2 ^ p % 2 = 1 then some (k, p) else none
      | none => none
    else none

def livePhys (s : State) (pa : Nat) : Bool := (homeChannel s pa).isSome

/-! ## Trace records (R352, R353) -/

/-- One 64-byte trace record as a number. -/
def traceNat (tb addr qe mask pc aux seqn wid path : Nat) (cont stream : Bool) (kind : Nat) : Nat :=
  kind % 256 + b2n stream * 2 ^ 24 + b2n cont * 2 ^ 25 + path % 16 * 2 ^ 26 + wid % 2 ^ 14 * 2 ^ 30
    + seqn % 2 ^ 16 * 2 ^ 48 + aux % 2 ^ 64 * 2 ^ 64 + pc % 2 ^ 64 * 2 ^ 128 + mask % 2 ^ 96 * 2 ^ 192
    + qe % 2 ^ 64 * 2 ^ 320 + addr % 2 ^ 64 * 2 ^ 384 + tb % 2 ^ 64 * 2 ^ 448

/-- Put one record into the trace ring, or drop it when the ring is full (R352). -/
def traceAppend (s : State) (c : Nat) (x : Context) (rec : Nat → Nat) : State :=
  let size := 2 ^ x.traceLog2
  if x.traceProd - x.traceCons < size then
    let s := writePhys s (x.trace + 64 * (x.traceProd % size)) (bytesOfNat 64 (rec x.traceSeq))
    modCtx s c (fun x => { x with traceProd := x.traceProd + 1, traceSeq := x.traceSeq + 1 })
  else modCtx s c (fun x => { x with traceLost := x.traceLost + 1, traceSeq := x.traceSeq + 1 })

/-- The context's trace control selects a kind of record (R352). -/
def traceSelects (x : Context) (kind : Nat) : Bool :=
  let ctl := (Cells.get 0 x.debug 24).toNat
  ctl % 2 == 1 && ctl / 2 ^ (kind + 1) % 2 == 1

/-- Write a record of kind loss first when records have been dropped, there is space, and its kind is selected. -/
def traceLoss (s : State) (c : Nat) (x : Context) : State :=
  if traceSelects x 11 = true ∧ x.traceLost ≠ 0 ∧ x.traceProd - x.traceCons < 2 ^ x.traceLog2 then
    modCtx (traceAppend s c x (fun q => traceNat s.timebase 0 0 0 0 x.traceLost q 0 0 false false 11)) c
      (fun x => { x with traceLost := 0 })
  else s

/-- A trace event of a context: written when trace_ctl selects its kind; `always` for stops and orphans. -/
def traceEvent (s : State) (c kind : Nat) (always : Bool) (rec : Nat → Nat) : State :=
  match getCtx s c with
  | none => s
  | some x =>
    if always || traceSelects x kind then
      let s := traceLoss s c x
      match getCtx s c with
      | none => s
      | some x => traceAppend s c x rec
    else s

/-! ## Faults (R321 to R326, R334, R335) -/

/-- What follows a fault's record (R335). -/
inductive FaultClass where
  | survives
  | holds
  | kills
  | rollsBack
  deriving DecidableEq, Repr

def faultClass (code : Nat) (restartable : Bool) : FaultClass :=
  if code = 0x0A then .survives
  else if code = 0x1A ∨ code = 0x1B then .holds
  else if code = 0x14 ∨ code = 0x15 ∨ code = 0x17 then (if restartable then .rollsBack else .kills)
  else .kills

/-- The 64 bytes of a fault record as a number (R323). -/
def faultNat (r : FaultRecord) : Nat :=
  r.code % 256 + b2n r.stream * 2 ^ 8 + r.path % 16 * 2 ^ 9 + b2n r.cont * 2 ^ 13 + b2n r.deferred * 2 ^ 14
    + b2n r.ends * 2 ^ 15 + r.wave % 2 ^ 14 * 2 ^ 16 + r.unit % 2 ^ 16 * 2 ^ 32 + r.pc % 2 ^ 64 * 2 ^ 64
    + r.mask % 2 ^ 96 * 2 ^ 128 + r.block % 2 ^ 32 * 2 ^ 224 + r.detail % 2 ^ 128 * 2 ^ 256
    + r.qentry % 2 ^ 64 * 2 ^ 384 + r.timebase % 2 ^ 64 * 2 ^ 448

/-- Unit field of a unit of a core (R323, R496): class, core id, unit number within the core. -/
def coreUnit (cls core n : Nat) : Nat := cls * 4096 + core % 64 * 64 + n

/-- Unit field of a unit of a cluster. -/
def clusterUnit (cls cluster : Nat) : Nat := cls * 4096 + cluster

/-- A counter word after `n` events: count modulo 2⁴⁸, overflow sticky in bit 63, lost in bits 62 to 48 (R494). -/
def countUp (word n : Nat) : Nat :=
  let c := word % 2 ^ 48 + n
  c % 2 ^ 48 + word / 2 ^ 48 % 2 ^ 15 * 2 ^ 48 + (if 2 ^ 48 ≤ c ∨ 2 ^ 63 ≤ word % 2 ^ 64 then 2 ^ 63 else 0)

/-- Raise an MSI-X vector (R325, R483, R486). -/
def raiseMsi (s : State) (v : Nat) : State := modHub s (fun h => { h with msi := Cells.set false h.msi (v % 64) true })

def modPort (s : State) (p : Nat) (f : Port → Port) : State :=
  modFabric s (fun x => { x with ports := Tbl.put x.ports p (f ((Tbl.find? x.ports p).getD Port.reset)) })

/-- Classes of units that belong to a core (R496). -/
def unitOfCore (unit : Nat) : Bool := [0, 1, 2, 5, 7].contains (unit / 4096)

/-- A select word counts an event of a unit (R497). -/
def selects (sel event unit die : Nat) : Bool :=
  decide (sel % 2 = 1) && decide (sel / 2 ^ 24 % 256 = event) && decide (sel / 2 ^ 20 % 16 = unit / 4096)
    && decide (sel / 2 ^ 5 % 4096 = unit % 4096) && (!(unitOfCore unit) || decide (sel / 2 ^ 17 % 8 = die))

/-- `n` events of a unit reach the programmable counters that select them (R497). -/
def countEvent (s : State) (event unit die n : Nat) : State :=
  if s.hub.csel.isEmpty then s
  else
    modHub s (fun h => { h with ccnt := (List.range 8).foldl (fun m i =>
      if selects (Cells.get 0 h.csel i).toNat event unit die then
        Cells.set 0 m i (BitVec.ofNat 64 (countUp (Cells.get 0 m i).toNat n)) else m) h.ccnt })

/-- The core of a unit of a core of a die. -/
def coreOfUnit (die unit : Nat) : Nat := die * 64 + unit / 64 % 64

/-- A port is retired: every route entry that names it becomes unusable (R424). -/
def retirePort (s : State) (p : Nat) : State :=
  modFabric (modPort s p (fun x => { x with retired := true })) (fun f => { f with routes := f.routes.filter (fun r => r.2 != p) })

/-- A core leaves every launch's eligible cores (R472). -/
def fenceCore (s : State) (c : Nat) : State :=
  { setCore s c { getCore s c with fenced := true } with
    launches := s.launches.map (fun l => (l.1, { l.2 with eligible := l.2.eligible.filter (fun k => k != c) })) }

/-- What fencing a unit removes (R472). -/
def fenceEffect (s : State) (unit die : Nat) : State :=
  let c := coreOfUnit die unit
  let k := getCore s c
  match unit / 4096 with
  | 1 =>
    setCore s c { k with pipesFenced := (unit % 64) :: k.pipesFenced.filter (fun p => p != unit % 64)
                         pipesDown := (unit % 64) :: k.pipesDown.filter (fun p => p != unit % 64) }
  | 3 => setCluster s (unit % 4096) { getCluster s (unit % 4096) with matrixFenced := true }
  | 9 => retirePort s (unit % 4096)
  | n => if n = 0 ∨ n = 2 ∨ n = 5 ∨ n = 7 then fenceCore s c else s

/-- Fence a unit and list it: at most 32 entries, the newest replacing the oldest (R472, R486). -/
def fenceUnit (s : State) (unit reason die : Nat) : State :=
  let d := if unitOfCore unit then die else 0
  raiseMsi (modHub (fenceEffect s unit die) (fun h =>
    { h with fenced := (if h.fenced.length < 32 then h.fenced else h.fenced.drop 1) ++ [(unit, reason, d)] })) 0

/-- A unit is blamed; at the third time it is fenced (R464, R472). -/
def blameUnit (s : State) (unit die : Nat) : State :=
  let key := (if unitOfCore unit then die else 0) * 65536 + unit
  let n := Cells.get 0 s.hub.blames key + 1
  let s := modHub s (fun h => { h with blames := Cells.set 0 h.blames key n })
  if n = 3 then fenceUnit s unit 0 die else s

/-- The launch is to end by this record (R335, R336): the first ending fault decides. -/
def endLaunch (s : State) (l : Nat) (e : Ending) : State :=
  modLaunch s l (fun x => { x with ending := match x.ending with | some y => some y | none => some e })

/-- The effect of a record once it is written: a record with ends = 1 ends its launch. -/
def recordTakesEffect (s : State) (r : FaultRecord) : State :=
  match r.lid with
  | none => s
  | some l =>
    match getLaunch s l with
    | none => s
    | some x =>
      if r.ends then
        endLaunch s l (if faultClass r.code (flagRestartable x) = .rollsBack ∧ x.rollbacks < 3 then
          .rollback (if unitOfCore r.unit then some (coreOfUnit (dieOf r.wave) r.unit) else none) else .kill)
      else s

/-- The fault queue has room (R325). -/
def faultRoom (x : Context) : Bool := decide (x.faultProd - x.faultCons < 2 ^ x.faultqLog2)

/-- Write one record at the producer index and advance it (R325); the faults of R464 blame their unit. A launch rolls back at
most 3 times (R469). -/
def putFault (s : State) (c : Nat) (x : Context) (r : FaultRecord) : State :=
  let s := writePhys s (x.faultq + 64 * (x.faultProd % 2 ^ x.faultqLog2)) (bytesOfNat 64 (faultNat r))
  let s := raiseMsi (modCtx s c (fun x => { x with faultProd := x.faultProd + 1 })) c
  let s := countEvent s 2 r.unit (dieOf r.wave) 1
  let s := if r.code = 0x14 ∨ r.code = 0x15 ∨ r.code = 0x17 then blameUnit s r.unit (dieOf r.wave) else s
  recordTakesEffect s r

/-- A store of another wave that agents of wave `wid` may have read, at whatever scope it is performed. -/
def readable (s : State) (owner wid : Nat) (b : BufStore) : Bool := decide (1 ≤ b.perf) && (owner == wid || sameInstance s b.perf owner wid)

/-- The write of a record is a release at SYSTEM scope: what the wave stored before the fault, and what it may have read of other waves'
stores, is performed there (R306, R325). -/
def recordReady (s : State) (r : FaultRecord) : Bool :=
  match r.after with
  | none => true
  | some (uid, bar) => s.waves.all (fun (p : Nat × Wave) => p.2.uid != uid ||
      (p.2.stores.all (fun b => decide (bar ≤ b.seq) || decide (5 ≤ b.perf))
        && s.waves.all (fun (o : Nat × Wave) => o.1 == p.1 || o.2.stores.all (fun b => !(readable s o.1 p.1 b) || decide (5 ≤ b.perf)))))

/-- Write a record, or hold it while the queue is full, while its release waits, or behind an older one that could be written
(R325, R326). -/
def writeFault (s : State) (c : Nat) (r : FaultRecord) : State :=
  match getCtx s c with
  | none => s
  | some x =>
    if faultRoom x && recordReady s r && x.heldFaults.all (fun h => !(recordReady s h)) then putFault s c x r
    else modCtx s c (fun x => { x with heldFaults := x.heldFaults ++ [r] })

/-- Where an instance stands, for its fault and trace records: PC, block, active lanes, path, cont, stream. -/
structure Standing where
  pc : Nat
  block : Nat
  active : Nat
  path : Nat
  cont : Bool
  stream : Bool
  deriving DecidableEq, Repr

def q3Of (w : Wave) : Nat := (Cells.get 0 w.q 3).toNat

/-- The lane pipe of a wave is out of service: the yard core runs its paths, each lane as a continuation, to the same effect (R270). Log
entry 17. -/
def pipeDown (s : State) (wid : Nat) : Bool := (getCore s (coreOf wid)).pipesDown.contains (slotOf wid / 8)

/-- The lowest lane of a mask. -/
def lowestLane (m : Nat) : Nat → Nat → Nat
  | 0, _ => 0
  | n + 1, k => if m / 2 ^ k % 2 = 1 then 2 ^ k else lowestLane m n (k + 1)

/-- Where an actor stands. -/
def standing (s : State) (a : Actor) : Standing :=
  match a with
  | .control wid =>
    match getWave s wid with
    | some w => ⟨w.pc.toNat, 0, 0, 0, false, false⟩
    | none => ⟨0, 0, 0, 0, false, false⟩
  | .path wid e =>
    match getWave s wid with
    | some w =>
      (match Tbl.find? w.paths e with
       | some p => ⟨p.pc, q3Of w % 2 ^ 32, (p.owned &&& p.active).toNat, e, pipeDown s wid, true⟩
       | none => ⟨0, 0, 0, e, pipeDown s wid, true⟩)
    | none => ⟨0, 0, 0, e, false, true⟩
  | .cont wid l =>
    match getWave s wid with
    | some w =>
      (match Tbl.find? w.conts l with
       | some k => ⟨k.pc, q3Of w % 2 ^ 32, 2 ^ k.lane, k.parent, true, true⟩
       | none => ⟨0, 0, 2 ^ l, 0, true, true⟩)
    | none => ⟨0, 0, 2 ^ l, 0, true, true⟩
  | _ => ⟨0, 0, 0, 0, false, false⟩

/-- The WAVEID of an actor. -/
def actorWave : Actor → Nat
  | .control wid => wid
  | .path wid _ => wid
  | .cont wid _ => wid
  | _ => 0

/-- The unit that executes an actor's instructions (R323). -/
def actorUnit (s : State) (a : Actor) : Nat :=
  match a with
  | .control wid => coreUnit 0 (coreOf wid) 0
  | .path wid _ => if pipeDown s wid then coreUnit 2 (coreOf wid) 0 else coreUnit 1 (coreOf wid) (slotOf wid / 8)
  | .cont wid _ => coreUnit 2 (coreOf wid) 0
  | _ => 0

/-- The unit a record of this fault names when an actor raises it: the walker for 0x0A, the decoder for 0x0D, else the unit
that executed the instruction (R323). -/
def unitFor (s : State) (a : Actor) (code : Nat) : Nat :=
  if code = 0x0A then coreUnit 7 (coreOf (actorWave a)) 0
  else if code = 0x0D then clusterUnit 4 (clusterOf (actorWave a) * 8)
  else actorUnit s a

/-- Stop an instance at its faulting instruction (R321). -/
def markFaulted (s : State) (a : Actor) : State :=
  match a with
  | .control wid => modWave s wid (fun w => { w with faulted := true })
  | .path wid e => modWave s wid (fun w => { w with paths := Tbl.modify w.paths e (fun p => { p with faulted := true }) })
  | .cont wid l => modWave s wid (fun w => { w with conts := Tbl.modify w.conts l (fun k => { k with faulted := true }) })
  | _ => s

/-- Change the stops of an instance: `f` of its control stream, path or continuation. -/
def modHeld (s : State) (a : Actor) (fw : Wave → Wave) (fp : PathEntry → PathEntry) (fc : Continuation → Continuation) : State :=
  match a with
  | .control wid => modWave s wid fw
  | .path wid e => modWave s wid (fun w => { w with paths := Tbl.modify w.paths e fp })
  | .cont wid l => modWave s wid (fun w => { w with conts := Tbl.modify w.conts l fc })
  | _ => s

/-- Hold an instance (R334, R350): one more stop of its own holds it. -/
def holdActor (s : State) (a : Actor) : State :=
  modHeld s a (fun w => { w with held := 0 :: w.held }) (fun p => { p with held := 0 :: p.held }) (fun k => { k with held := 0 :: k.held })

/-- A path is released from one stop of a level; it unparks when that was the last and merges completed it meanwhile (R265). -/
def releasePath (level : Nat) (p : PathEntry) : PathEntry :=
  let p := { p with held := p.held.erase level }
  if p.held.isEmpty && p.unparkDue then { p with unparkDue := false, state := .running, pc := p.pc + 8 } else p

/-- Release an instance from one stop of its own: it resumes when no stop holds it (R334, R350). -/
def releaseActor (s : State) (a : Actor) : State :=
  modHeld s a (fun w => { w with held := w.held.erase 0 }) (releasePath 0) (fun k => { k with held := k.held.erase 0 })

/-- The record of a fault raised by an actor standing at `st` (R323); a continuation's names its one lane (R269). -/
def faultRecord (s : State) (a : Actor) (st : Standing) (unit code detail : Nat) (mask : Option Nat) (deferred ends : Bool) :
    FaultRecord :=
  let l := match getWave s (actorWave a) with | some w => launchOf s w | none => none
  let lanes := mask.getD st.active
  { timebase := s.timebase, qentry := match l with | some (_, x) => x.qentry | none => 0, detail := detail,
    block := st.block, mask := if st.stream then (if st.cont then lowestLane lanes 96 0 else lanes) else 0, pc := st.pc, unit := unit,
    wave := actorWave a, ends := ends, deferred := deferred, cont := st.cont, path := st.path, stream := st.stream,
    code := code, lid := l.map (fun p => p.1), after := (getWave s (actorWave a)).map (fun w => (w.uid, w.seq)) }

/-- Whether a fault of this code ends the launch by its own class (R335). -/
def endsByClass (code : Nat) : Bool := !(code == 0x0A || code == 0x1A || code == 0x1B)

/-- Taking a fault: the record is written to the context's fault queue (R321 to R326); then a fault that ends the launch
stops the instance at the instruction, a trap or breakpoint holds it, and a page fault does neither (R327, R334, R335). -/
def takeFault (s : State) (a : Actor) (st : Standing) (unit code detail : Nat) (mask : Option Nat) (deferred : Bool) :
    State :=
  match getWave s (actorWave a) with
  | none => s
  | some w =>
    match ctxOf s w with
    | none => s
    | some c =>
      let r := faultRecord s a st unit code detail mask deferred (endsByClass code)
      let s := writeFault s c r
      if code = 0x0A then s
      else if code = 0x1A ∨ code = 0x1B then holdActor s a
      else markFaulted s a

/-- A precise fault of the instruction at which the actor stands. -/
def raiseFault (s : State) (a : Actor) (code detail : Nat) (mask unit : Option Nat) : State :=
  takeFault s a (standing s a) (unit.getD (unitFor s a code)) code detail mask false

/-! ## Signatures and the end of an instruction (R460, R461) -/

def foldBits (x : Nat) : Nat → Nat → Word → Word
  | 0, _, sig => sig
  | n + 1, i, sig =>
    let b := sig.toNat % 2 != x / 2 ^ i % 2
    foldBits x n (i + 1) (if b then (sig >>> 1) ^^^ 0x82F63B78#32 else sig >>> 1)

/-- `fold` of R460. -/
def foldSig (sig : Word) (x : Nat) : Word := foldBits x 16 0 sig

def sigReset : Word := 0xFFFFFFFF#32

/-- The control stream moves past the instruction and folds its operation number (R461). -/
def finishControl (i : Instr) (w : Wave) : Wave :=
  { w with pc := w.pc + BitVec.ofNat 64 (byteLength i), sigc := foldSig w.sigc (opNumber i) }

/-- A control transfer that is taken: the fold is overwritten (R461). -/
def jumpControl (target : Dword) (w : Wave) : Wave := { w with pc := target, sigc := sigReset }

/-! ## Scalar registers (R42, R49 to R52) -/

def sFull (w : Wave) (n : Nat) : Bool := n == 63 || !(Cells.get false w.sEmpty n)

def sVal (w : Wave) (n : Nat) : Dword := if n = 63 then 0 else Cells.get 0 w.s n

/-- Detail of fault 0x05 (R324): lanes, register number, file (0 s, 1 q, 2 v). -/
def emptyDetail (lanes reg file : Nat) : Nat := lanes % 2 ^ 96 + reg % 256 * 2 ^ 96 + file * 2 ^ 104

/-- A q register left empty by LANE receives the value of its s register (R53). -/
def fillAwaiting (n : Nat) (v : Dword) (w : Wave) : Wave :=
  let hit := (w.qAwait.filter (fun p => p.2 == n)).map (fun p => p.1)
  { w with
    q := hit.foldl (fun q k => Cells.set 0 q k v) w.q
    qEmpty := hit.foldl (fun q k => Cells.set false q k false) w.qEmpty
    qAwait := w.qAwait.filter (fun p => p.2 != n)
    laneQueue := w.laneQueue.map (fun e => { e with srcs := e.srcs.map (fun c => if c = .await n then .val v else c) }) }

/-- Write an s register and mark it full; s63 discards (R42). -/
def writeS (n : Nat) (v : Dword) (w : Wave) : Wave :=
  if n = 63 then w
  else fillAwaiting n v { w with s := Cells.set 0 w.s n v, sEmpty := Cells.set false w.sEmpty n false }

/-- Mark an s register empty; s63 never is (R42). -/
def emptyS (n : Nat) (w : Wave) : Wave := if n = 63 then w else { w with sEmpty := Cells.set false w.sEmpty n true }

/-- `src(x)` of R97: an empty source waits with e = 0 and raises 0x05 with e = 1 (R51). -/
def srcS (w : Wave) (n : Nat) (e : Bool) : Res Dword :=
  if sFull w n then .ok (sVal w n) else if e then raises 0x05 (emptyDetail 0 n 0) else waits

/-- A destination that is empty is waited for (R52). -/
def dstS (w : Wave) (n : Nat) : Res Unit := waitUnless (sFull w n)

/-- No source read with e = 0 waits, and no destination; checked before any source read with e = 1 raises (R273). -/
def readyS (w : Wave) (srcs : List (Nat × Bool)) (dsts : List Nat) : Res Unit :=
  waitUnless (srcs.all (fun p => p.2 || sFull w p.1) && dsts.all (fun n => sFull w n))

/-! ## Running an instruction of an instance -/

/-- SATF bits are set (R30, R31). -/
def setFlags (f : BitVec 4) (w : Wave) : Wave := { w with satf := w.satf ||| f }

/-- The decode table's place of an operation: the opcode at which the wave's table names it (R85). -/
def placeIn (es : List Half) (op : Nat) : Nat → Nat → Nat
  | 0, _ => op
  | n + 1, k => if (es.getD k 0).toNat = 2 ^ 15 + op then k else placeIn es op n (k + 1)

def opPlace (t : DecodeTable) (op : Nat) : Nat :=
  match t with
  | .map1 => op
  | .image es => placeIn es op 1024 0

/-- The first word of an instruction as the wave fetched it (R70). -/
def fetchedWord (w : Wave) (i : Instr) : Nat := firstWordAt (opPlace w.decode) i

/-- Detail of fault 0x04 (R70): first word, bit number, whether the check was on a value, and the named quantity. -/
def detail04 (w : Wave) (i : Instr) (bit : Nat) (onValue : Bool) (quantity : Nat) : Nat :=
  fetchedWord w i + bit % 128 * 2 ^ 32 + b2n onValue * 2 ^ 39 + quantity % 2 ^ 64 * 2 ^ 64

/-- Detail of an address fault (R324). -/
def addrDetail (addr : Nat) (write fetch : Bool) : Nat := addr % 2 ^ 64 + b2n write * 2 ^ 64 + b2n fetch * 2 ^ 65

/-- Record an asynchronous error (R65, R240, R242): the last code, the count of failures, the lowest package. -/
def asyncError (code member : Nat) (w : Wave) : Wave :=
  let old := w.asyncerr.toNat
  let failed := old / 2 ^ 8 % 256
  let first := if failed = 0 then member else min (old / 2 ^ 16) member
  { w with asyncerr := BitVec.ofNat 32 (code % 256 + min 255 (failed + 1) * 2 ^ 8 + first % 2 ^ 16 * 2 ^ 16) }

end Sys2Proof.Machine
end

