-- ==== Sys2Proof/Machine/Packets.lean ====
section
/-! DEFINITION. The initiator's side of the fabric: planes, paths and packets (R403 to R410, R415, R421), and the frame that runs
an instruction of a control stream. -/

namespace Sys2Proof.Machine

/-! ## Planes and paths (R407 to R410) -/

/-- The physical plane of a logical plane (R408). -/
def physPlane (s : State) (logical : Nat) : Nat := s.hub.planeMap.getD (logical % 8) (logical % 8)

/-- The physical plane a packet to an address travels (R407). -/
def planeOf (s : State) (addr : Nat) : Nat := physPlane s (addr / 128)

def routeKey (plane dest path : Nat) : Nat := plane * 16384 + dest * 4 + path

def getPort (s : State) (p : Nat) : Port := (Tbl.find? s.fabric.ports p).getD Port.reset

/-- The route entry names a port that is not retired (R409, R424). -/
def pathUsable (s : State) (plane dest path : Nat) : Bool :=
  match Tbl.find? s.fabric.routes (routeKey plane dest path) with
  | some p => !(getPort s p).retired
  | none => false

def usablePaths (s : State) (plane dest : Nat) : List Nat := (List.range 4).filter (pathUsable s plane dest)

/-- Memory kinds name a line; messages and emitted packets do not (R405). -/
def memoryKind (k : Nat) : Bool := decide (k ≤ 0x06) && decide (1 ≤ k) || k == 9

/-- Unacknowledged packets of this package to a line. -/
def toLine (s : State) (dest addr : Nat) : List Sent :=
  (s.fabric.sent.map (fun p => p.2)).filter (fun x =>
    memoryKind x.pkt.kind && x.pkt.dest == dest % 65536 && x.pkt.addr / 128 == addr / 128)

/-- No refused packet of the line waits to be sent again (R333, R410). -/
def lineFree (s : State) (dest addr : Nat) : Bool := (toLine s dest addr).all (fun x => x.retry.isNone)

/-- The path a new packet takes: the pinned one, or a usable one; which has the most free credit is open (log entry 20). -/
def choosePath (s : State) (plane dest : Nat) (pin : Option Sent) : Option Nat :=
  match pin with
  | some x => if pathUsable s plane dest x.pkt.path then some x.pkt.path else none
  | none =>
    let ps := usablePaths s plane dest
    ps[Config.freeNat s.freeCtr % ps.length]?

/-- A write, atomic or multicast copy to the line of this package is unacknowledged (R412). -/
def lineBusy (s : State) (dest addr : Nat) : Bool :=
  (toLine s dest addr).any (fun x => x.pkt.kind == 3 || x.pkt.kind == 4 || x.pkt.kind == 5)

/-- A packet as a program's access forms it, before its path and tag are fixed. -/
structure Draft where
  kind : Nat
  dest : Nat
  job : Nat
  addr : Nat
  ordered : Bool
  multicast : Bool
  poisoned : Bool
  /-- logical plane -/
  plane : Nat
  /-- ring or flow of a message or emitted packet -/
  ring : Nat
  seq : Nat
  payload : List Byte
  deriving DecidableEq, Repr

/-- A draft of a memory packet: it travels the plane of its address. -/
def memDraft (kind dest job addr : Nat) (payload : List Byte) : Draft :=
  { kind := kind, dest := dest % 65536, job := job, addr := addr, ordered := false, multicast := false, poisoned := false,
    plane := addr / 128 % 8, ring := 0, seq := 0, payload := payload }

/-- Inject a packet, or keep it as lost when no usable path leads to its destination (R425). -/
def sendPacket (s : State) (d : Draft) (purpose : SentFor) : State :=
  let plane := physPlane s d.plane
  let id := s.fabric.nextId
  let pin := if memoryKind d.kind then (toLine s d.dest d.addr).head? else none
  let tagKey := d.dest * 8 + plane
  let tag := if memoryKind d.kind then (if d.kind = 5 then Cells.get 0 s.fabric.tagOut tagKey % 65536 else id % 65536) else d.ring
  let path := if s.fabric.unreachable.contains d.dest then none else choosePath s plane d.dest pin
  let p : Packet :=
    { kind := d.kind, source := s.pkg, dest := d.dest, job := d.job, tag := tag, addr := d.addr, seq := d.seq,
      length := d.payload.length, path := path.getD 0, multicast := d.multicast, ordered := d.ordered, plane := plane,
      poisoned := d.poisoned, payload := d.payload }
  let tags := if d.kind = 5 then Cells.set 0 s.fabric.tagOut tagKey ((Cells.get 0 s.fabric.tagOut tagKey + 1) % 65536) else s.fabric.tagOut
  { s with
    freeCtr := s.freeCtr + 1
    fabric :=
      { s.fabric with
        nextId := id + 1
        tagOut := tags
        sent := Tbl.put s.fabric.sent id { pkt := p, purpose := purpose, retry := none, lost := path.isNone }
        out := if path.isNone then s.fabric.out else s.fabric.out ++ [p] } }

/-- A packet that is not resent leaves on its path; without a usable one it is lost (R409, R432). One for this package stays on its die. -/
def forward (s : State) (p : Packet) : State :=
  if p.dest = s.pkg ∨ pathUsable s p.plane p.dest p.path = true then { s with fabric := { s.fabric with out := s.fabric.out ++ [p] } } else s

/-- A response goes back on the plane its request travelled; any usable path will do (R407, R410). -/
def sendReply (s : State) (p : Packet) (kind : Nat) (poisoned : Bool) (payload : List Byte) : State :=
  let ps := usablePaths s p.plane p.source
  let r : Packet :=
    { kind := kind, source := s.pkg, dest := p.source, job := p.job, tag := p.tag, addr := p.addr, seq := p.seq,
      length := payload.length, path := (ps[Config.freeNat s.freeCtr % ps.length]?).getD 0, multicast := false,
      ordered := false, plane := p.plane, poisoned := poisoned, payload := payload }
  { s with freeCtr := s.freeCtr + 1, fabric := { s.fabric with out := s.fabric.out ++ [r] } }

/-- Data that no peer will send: the line stands as poisoned until a launch ends by it (R416, R426). -/
def badCopy (s : State) (pkg addr : Nat) : State :=
  modFabric s (fun f => { f with copies := Tbl.put f.copies (pkg * 2 ^ 48 + addr / 128 * 128) (List.replicate 128 0, true) })

/-- The line of a slice that holds the copy of a peer's line, and its slice: the local address interleave selects one of the 128 by the
line's number (R411). Log entry 26. -/
def peerLineOf (pkg addr : Nat) : Nat := peerLines + (pkg * 2 ^ 48 + addr / 128 * 128) / 128

def peerSlice (addr : Nat) : Nat := addr / 128 % 128

/-- A copy of a peer's line is allocated in its slice, all four sectors valid (R292, R411). -/
def keepCopy (s : State) (pkg addr hint : Nat) (bs : List Byte) (poison : Bool) : State :=
  let s := loadL2 s (peerSlice addr) (peerLineOf pkg addr) hint 1 15
  modFabric s (fun f => { f with copies := Tbl.put f.copies (pkg * 2 ^ 48 + addr / 128 * 128) (bs, poison) })

/-- A read that is served from a copy changes how long it is to stay (R292, R411). -/
def touchCopy (s : State) (pkg addr hint : Nat) : State :=
  if (Tbl.find? (getCluster s (peerSlice addr)).l2 (peerLineOf pkg addr)).isSome then loadL2 s (peerSlice addr) (peerLineOf pkg addr) hint 1 15 else s

/-- Ask for a line of a peer package on behalf of no access, unless it has been asked for (R411). -/
def requestLine (s : State) (job pkg addr : Nat) : Out :=
  let line := addr / 128 * 128
  if s.fabric.unreachable.contains (pkg % 65536) then .next { badCopy s pkg line with actor := .none }
  else if !(lineFree s pkg line) || (toLine s pkg line).any (fun x => x.pkt.kind == 1) then stall s
  else .next { sendPacket s (memDraft 1 pkg job line []) .none with actor := .none }

/-- The write of some bytes of a peer's line, given by rising offset: whole contiguous sectors as a write, otherwise a masked
write (R406). -/
def lineDraft (pkg job line : Nat) (cells : List (Nat × Byte)) : Draft :=
  let first := match cells with | (o, _) :: _ => o | [] => 0
  let last := match cells.getLast? with | some (o, _) => o | none => 0
  let whole := decide (first % 32 = 0) && decide ((last + 1) % 32 = 0) && decide (last + 1 - first = cells.length)
  if whole then memDraft 3 pkg job (line + first) (cells.map (fun c => c.2))
  else
    memDraft 4 pkg job (line + first)
      (bytesOfNat 16 (cells.foldl (fun m c => Nat.lor m (2 ^ c.1)) 0) ++ List.replicate 16 0
        ++ (List.range 128).map (fun o => match List.find? (fun c => c.1 == o) cells with | some c => c.2 | none => 0))

/-- A copy of a peer's line is dropped (R411). -/
def dropCopy (s : State) (pkg addr : Nat) : State :=
  let s := modFabric s (fun f => { f with copies := Tbl.del f.copies (pkg * 2 ^ 48 + addr / 128 * 128) })
  if (Tbl.find? (getCluster s (peerSlice addr)).l2 (peerLineOf pkg addr)).isSome then dropL2 s (peerSlice addr) (peerLineOf pkg addr) else s

/-- The peers that hold a home line (R413). -/
def holdersOf (s : State) (line : Nat) : List (Nat × Nat × Nat) := (Tbl.find? s.fabric.directory line).getD []

/-- A holder has been told to drop its copy. -/
def holderTold (s : State) (h : Nat × Nat × Nat) : Bool :=
  s.fabric.sent.any (fun p => p.2.pkt.kind == 9 && p.2.pkt.dest == h.1 && p.2.pkt.job == h.2.1 && p.2.pkt.addr == h.2.2)

/-- Tell holders of a home line to drop it, unless they have been told (R413). The packet names the line by the job and the
address under which it was read. -/
def tellHolders (s : State) (hs : List (Nat × Nat × Nat)) : State :=
  hs.foldl (fun s h => if holderTold s h then s else sendPacket s (memDraft 9 h.1 h.2.1 h.2.2 []) .none) s

def invalidateHolders (s : State) (line : Nat) : State := tellHolders s (holdersOf s line)

/-- Wait for some peers that hold a line. -/
def evictSome (s : State) (hs : List (Nat × Nat × Nat)) : Out :=
  if hs.all (holderTold s) then stall s else .next { tellHolders s hs with actor := .none }

/-- Wait for the peers that hold a line. -/
def evictLine (s : State) (line : Nat) : Out := evictSome s (holdersOf s line)

/-- The job of the context a wave runs in (R382). -/
def jobOf (s : State) (w : Wave) : Nat := match ctxRec s w with | some (_, x) => x.job | none => 0

/-! ## Running an instruction of the control stream -/

/-- Run the body of a control-stream instruction; a stop of the body is a wait or a precise fault (R321). -/
def runControl (s : State) (body : Nat → Wave → Res State) : Out :=
  match s.actor with
  | .control wid =>
    match getWave s wid with
    | some w =>
      match body wid w with
      | .ok t => .next t
      | .error .wait => stall s
      | .error (.request p a) => requestLine s (jobOf s w) p a
      | .error (.evict l) => evictLine s l
      | .error (.fault c d m u) => .next (raiseFault s (.control wid) c d m u)
    | none => .fault .noInstance
  | _ => .fault .noInstance

end Sys2Proof.Machine
end

