-- ==== Sys2Proof/Machine/Geometry.lean ====
section
/-! DEFINITION. Tensor geometry (R12, R166, R179, R204, R205) and the bytes that engine operations touch, by which they are
ordered and by which operand hazards are found (R231, R239). -/

namespace Sys2Proof.Machine

/-- Width of a format in bits; 0 for an unassigned code (R12, R13). -/
def fmtBits : Nat → Nat
  | 0x01 => 2 | 0x02 => 4 | 0x03 => 4 | 0x04 => 8 | 0x05 => 8 | 0x06 => 16 | 0x07 => 16 | 0x08 => 32 | 0x09 => 32
  | 0x0A => 16 | 0x0B => 32 | 0x0C => 8 | _ => 0

/-- T2, I4 or PAL4. -/
def codedFmt (f : Nat) : Bool := f == 1 || f == 2 || f == 3

def fmtSigned (f : Nat) : Bool := f == 1 || f == 2 || f == 4 || f == 6 || f == 8

/-- Kind 2 and 5 tensors hold streams (R179). -/
def denupKind (k : Nat) : Bool := k == 2 || k == 5

/-- Tile rows and columns of a tensor. -/
def tileRowCount (t : Tensor) : Nat := t.rows / t.trows
def tileColCount (t : Tensor) : Nat := t.cols / t.tcols

def tileElems (t : Tensor) : Nat := t.trows * t.tcols

/-- Extents of a tile along the K axis and the other axis (R179). -/
def tileK (t : Tensor) : Nat := if t.kaxis = 0 then t.trows else t.tcols
def tileN (t : Tensor) : Nat := if t.kaxis = 0 then t.tcols else t.trows

/-- Index of element (r, c) of a tile in the order n × K + k of its codes. -/
def codeIndex (t : Tensor) (r c : Nat) : Nat := if t.kaxis = 0 then c * tileK t + r else r * tileK t + c

/-- Number of the scale block of element (r, c) (R183). -/
def blockIndex (t : Tensor) (r c : Nat) : Nat :=
  let k := if t.kaxis = 0 then r else c
  let n := if t.kaxis = 0 then c else r
  n * (tileK t / t.blockLen) + k / t.blockLen

/-- The generic address of a byte at `off` from the start of storage of kind 0 or 1 (R205). -/
def tensorAddr (t : Tensor) (off : Nat) : Nat := if t.kind = 1 then 2 ^ 56 + off % 2 ^ 56 else off % 2 ^ 64

/-- The row stride; the rows of a kind 4 tensor, which has none, follow one another (log entry 22). -/
def strideOf (t : Tensor) : Nat := if t.kind = 4 then ceilDiv (t.cols * fmtBits t.fmt) 8 else t.stride

/-- Where element (row, col) of a kind 0 or 1 tensor lies: the address of its first byte, and the bit within it (R15, R205). -/
def elemAt (t : Tensor) (row col : Nat) : Nat × Nat :=
  let bit := col * fmtBits t.fmt
  (tensorAddr t (t.base + row * strideOf t + bit / 8), bit % 8)

/-- Bytes an element touches. -/
def elemBytes (t : Tensor) : Nat := (fmtBits t.fmt + 7) / 8

/-- The scale array's address of the byte for element (row, col) (R205). It is a generic address (log entry 21). -/
def scaleAt (t : Tensor) (row col : Nat) : Nat :=
  let k := if t.kaxis = 0 then row else col
  let n := if t.kaxis = 0 then col else row
  let nt := if t.kaxis = 0 then t.cols else t.rows
  (t.index + k / t.blockLen * nt + n) % 2 ^ 64

/-- The block-index entry of a tile (R180). -/
def indexEntryAt (t : Tensor) (tr tc : Nat) : Nat := t.index + 8 * (tr * tileColCount t + tc)

/-! ## Bytes an engine operation touches (R231, R239) -/

/-- A range of bytes. Spaces: 0 global, 1 scratchpad, 2 weight buffer, 3 on-chip window, 4 the team's accumulator tiles. -/
structure Region where
  space : Nat
  addr : Nat
  len : Nat
  write : Bool
  deriving DecidableEq, Repr

/-- Whether two ranges of bytes meet. -/
def rangesMeet (a n b m : Nat) : Bool := decide (a < b + m) && decide (b < a + n)

/-- A range from a generic address (R281). -/
def regionAt (addr len : Nat) (write : Bool) : Region :=
  { space := if addr / 2 ^ 56 % 256 = 3 then 3 else addr / 2 ^ 56 % 256, addr := addr % 2 ^ 56, len := len, write := write }

/-- The bytes of rows of a plain tensor, from a column, `cols` wide. -/
def rowRegions (t : Tensor) (row col cols : Nat) (write : Bool) : Nat → List Region
  | 0 => []
  | n + 1 =>
    let p := elemAt t row col
    { regionAt p.1 ((p.2 + cols * fmtBits t.fmt + 7) / 8) write with space := if t.kind = 4 then 3 else t.kind % 4 }
      :: rowRegions t (row + 1) col cols write n

/-- The bytes of a tile's scales: every block that the tile's extent along the K axis meets (R205). -/
def scaleRegions (t : Tensor) (tr tc : Nat) (write : Bool) : List Region :=
  if t.blockLen = 0 then []
  else
    let k0 := (if t.kaxis = 0 then tr else tc) * tileK t
    (List.range ((k0 % t.blockLen + tileK t + t.blockLen - 1) / t.blockLen)).map (fun b =>
      let k := k0 - k0 % t.blockLen + b * t.blockLen
      let n := (if t.kaxis = 0 then tc else tr) * tileN t
      regionAt (if t.kaxis = 0 then scaleAt t k n else scaleAt t n k) (tileN t) write)

/-- The bytes a tile's fetch or write may touch; a stream tensor's streams may lie anywhere from its base. -/
def tileRegions (t : Tensor) (tr tc : Nat) (write : Bool) : List Region :=
  match t.kind with
  | 2 => [{ space := 2, addr := 0, len := 2 ^ 21, write := write }]
  | 5 => [regionAt t.index (8 * (tileRowCount t * tileColCount t)) write, regionAt t.base (2 ^ 41) write]
  | _ => rowRegions t (tr * t.trows) (tc * t.tcols) t.tcols write t.trows ++ scaleRegions t tr tc write

/-- Bytes of one row of a plain tensor. -/
def rowBytes (t : Tensor) : Nat := ceilDiv (t.cols * fmtBits t.fmt) 8

/-- The bytes of a whole plain tensor. -/
def wholeRegion (t : Tensor) (write : Bool) : Region := regionAt (tensorAddr t t.base) (t.rows * t.stride) write

/-- The bytes of accumulator tiles of a team, 1,024 each (R288). -/
def accRegion (tile k : Nat) (write : Bool) : Region := { space := 4, addr := tile * 1024, len := k * 1024, write := write }

/-- The bytes an operation reads and writes. -/
def opRegions : EngineOp → List Region
  | .mclr tile k => [accRegion tile k true]
  | .mtab _ _ a row col _ _ _ => tileRegions a row col false
  | .mlut tile _ _ b _ _ row col _ _ => accRegion tile 1 true :: tileRegions b row col false
  | .mxpq _ d _ src _ _ row col => tileRegions src row col false ++ tileRegions d col row true
  | .mout _ d row col tile _ _ _ => accRegion tile 1 false :: tileRegions d row col true
  | .tbdrop _ _ => []
  | .cpt _ d _ src row col drow dcol => tileRegions src row col false ++ tileRegions d drow dcol true
  | .cpg _ src list count off =>
    [regionAt list (4 * count) false, wholeRegion src false, { space := 1, addr := off, len := count * rowBytes src, write := true }]
  | .cps _ d list count off =>
    [regionAt list (4 * count) false, { space := 1, addr := off, len := count * rowBytes d, write := false }, wholeRegion d true]
  | .cpb src dst len wb _ =>
    [regionAt src len false, if wb then { space := 2, addr := dst, len := len, write := true } else regionAt dst len true]
  | .cpmc src dst list units _ =>
    [regionAt src (32 * units) false, regionAt dst (32 * units) true, regionAt list 16384 true]
  | .send _ _ src len _ => [regionAt src len false]

def regionMeets (a b : Region) : Bool := a.space == b.space && rangesMeet a.addr a.len b.addr b.len

/-- The regions of an operation by which a write makes its results undefined: whole 4 KiB regions of scratchpad, whose version counters
reveal it (R220, R231). -/
def hazardMeets (write r : Region) : Bool :=
  if write.space = 1 ∧ r.space = 1 then
    let lo := write.addr / 4096 * 4096
    rangesMeet lo ((write.addr + write.len + 4095) / 4096 * 4096 - lo) r.addr r.len
  else regionMeets write r

/-- A write to a region makes the results of an operation that touches it undefined: 1 with no flag, 2 for scratchpad (R231). -/
def hazardItem (r : Region) (e : EngineItem) : EngineItem :=
  if (opRegions e.op).any (hazardMeets r) then { e with hazard := max e.hazard (r.space + 1) } else e

/-- A store of the wave to `n` bytes at a generic address makes the results of its own operations that touch them undefined (R231),
and is not yet behind a `FENCEO` (R249). -/
def markWrite (addr n : Nat) (w : Wave) : Wave :=
  let r := regionAt addr n true
  if 2 ≤ r.space then w
  else { w with dirty := (r.space, r.addr, r.len) :: w.dirty, engine := w.engine.map (hazardItem r) }

/-- The wave wrote elements of its team's accumulators with no `FENCEO` behind it (R171, R249). -/
def markAcc (key : Nat) (w : Wave) : Wave := { w with dirty := (4, 4 * key, 4) :: w.dirty }

/-- An operation that reads bytes the wave wrote with no `FENCEO` since (R249). Accumulator elements count one by one (`unseenBy`). -/
def readsDirty (w : Wave) (op : EngineOp) : Bool :=
  (opRegions op).any (fun r => r.space != 4 && !r.write && w.dirty.any (fun d => d.1 == r.space && rangesMeet d.2.1 d.2.2 r.addr r.len))

/-- The accumulator tile whose elements an operation adds to or delivers. -/
def accTileOf : EngineOp → Option Nat
  | .mlut tile _ _ _ _ _ _ _ _ _ => some tile
  | .mout _ _ _ _ tile _ _ _ => some tile
  | _ => none

/-- The elements of an operation's accumulator tile that the wave stored to with no `FENCEO` since: the operation does not see them
(R171, R249). -/
def unseenBy (w : Wave) (op : EngineOp) : List Nat :=
  match accTileOf op with
  | some tile => (w.dirty.filter (fun d => d.1 == 4 && d.2.1 / 1024 == tile)).map (fun d => d.2.1 / 4 % 256)
  | none => []

/-! ## Window addresses (R288) -/

def apertureOf (a : Nat) : Nat := a / 2 ^ 56 % 256

def winRegion (addr : Nat) : Nat := addr / 2 ^ 22 % 4

/-- The core a window address names. -/
def winCore (addr : Nat) : Nat := addr / 2 ^ 24 % 2 ^ 9

/-- A region as a team sees it: window bytes that are its own scratchpad or accumulators are those (R289). -/
def ownRegion (t : Team) (r : Region) : Region :=
  let o := r.addr % 2 ^ 22
  if r.space ≠ 3 ∨ winCore r.addr ≠ t.core then r
  else if winRegion r.addr = 1 ∧ t.spadBase ≤ o ∧ o < t.spadBase + t.spadSize then { r with space := 1, addr := o - t.spadBase }
  else if winRegion r.addr = 2 ∧ t.accBase * 1024 ≤ o ∧ o < (t.accBase + t.accCount) * 1024 then { r with space := 4, addr := o - t.accBase * 1024 }
  else r

end Sys2Proof.Machine
end

