-- ==== Sys2Proof/Machine/Memory.lean ====
section
/-! DEFINITION. Memory as an instruction sees it: translation (R393 to R400), where an address leads (R281), the store buffer and
what a load returns (R301 to R315), scratchpad versions (R220), the operand log (R327 to R330). -/

namespace Sys2Proof.Machine

/-! ## Translation (R393 to R396, R399, R400) -/

/-- What an access needs of a page. -/
inductive Want where
  | read | write | atomic | fetch
  deriving DecidableEq, Repr

/-- A leaf entry as read, with the page size as a number of offset bits and the entry's own address. -/
structure Leaf where
  gen : Nat
  addr : Nat
  remote : Bool
  cache : Nat
  cls : Nat
  x : Bool
  w : Bool
  r : Bool
  shift : Nat
  entry : Nat
  deriving DecidableEq, Repr

/-- The end of a walk. -/
inductive Walk where
  | leaf (l : Leaf)
  | absent (entry : Nat)
  | malformed
  | poisoned (entry : Nat)
  deriving DecidableEq, Repr

/-- Level, lowest index bit, index bits (R393). -/
def walkLevels : List (Nat × Nat × Nat) := [(1, 47, 9), (2, 38, 9), (3, 29, 9), (4, 23, 6), (5, 17, 6)]

/-- Whether a valid entry is malformed (R395). `own` is the issuing package. -/
def malformedEntry (own level e : Nat) : Bool :=
  let leaf := bitsOf e 1 1 == 1
  bitsOf e 11 10 != 0 ||
  (if leaf then
    level == 1 || level == 2 || bitsOf e 16 12 != 0 || bitsOf e 6 5 == 3
      || (level == 4 && bitsOf e 22 17 != 0) || (level == 3 && bitsOf e 28 17 != 0)
      || (bitsOf e 9 9 == 1 && bitsOf e 63 48 == own)
   else level == 5 || bitsOf e 63 48 != 0 || bitsOf e 9 2 != 0)

/-- The entry that the translation caches hold for a page of the tables of a root (R398). -/
def cachedEntry (s : State) (root lo page : Nat) : Option Nat :=
  (List.find? (fun t : CachedEntry => t.root == root && t.shift == lo && t.page == page) s.translations).map (fun t => t.value)

/-- Walk the tables of a root for an offset of the global aperture (R393, R396); an entry that is cached is not read (R398). -/
def walk (s : State) (off root : Nat) : Nat → List (Nat × Nat × Nat) → Walk
  | _, [] => .malformed
  | table, (level, lo, n) :: rest =>
    let ea := table + 8 * (off / 2 ^ lo % 2 ^ n)
    let c := cachedEntry s root lo (off / 2 ^ lo)
    if c.isNone && bytesPoisoned s ea 8 then .poisoned ea
    else
      let e := c.getD (readPhysNat s ea 8)
      if e % 2 = 0 then .absent ea
      else if malformedEntry s.pkg level e then .malformed
      else if bitsOf e 1 1 = 1 then
        .leaf { gen := bitsOf e 63 48, addr := bitsOf e 47 17 * 2 ^ 17, remote := bitsOf e 9 9 == 1, cache := bitsOf e 8 7,
                cls := bitsOf e 6 5, x := bitsOf e 4 4 == 1, w := bitsOf e 3 3 == 1, r := bitsOf e 2 2 == 1, shift := lo,
                entry := ea }
      else walk s off root (bitsOf e 47 12 * 2 ^ 12) rest

/-- The walk of an offset in a context. -/
def walkCtx (s : State) (x : Context) (off : Nat) : Walk := walk s off x.ptroot x.ptroot walkLevels

/-! ### The translation caches (R398) -/

/-- The valid entries that a walk meets, as the caches would hold them. -/
def walkEntries (s : State) (off root : Nat) : Nat → List (Nat × Nat × Nat) → List CachedEntry
  | _, [] => []
  | table, (level, lo, n) :: rest =>
    let ea := table + 8 * (off / 2 ^ lo % 2 ^ n)
    let c := cachedEntry s root lo (off / 2 ^ lo)
    let e := c.getD (readPhysNat s ea 8)
    if (c.isNone && bytesPoisoned s ea 8) || e % 2 == 0 then []
    else
      { root := root, shift := lo, page := off / 2 ^ lo, value := e }
        :: (if malformedEntry s.pkg level e || bitsOf e 1 1 == 1 then [] else walkEntries s off root (bitsOf e 47 12 * 2 ^ 12) rest)

/-- The caches take what the walk of an address meets. Log entry 33. -/
def cacheWalk (s : State) (c va : Nat) : State :=
  match getCtx s c with
  | some x =>
    let es := walkEntries s (va % 2 ^ 56) x.ptroot x.ptroot walkLevels
    { s with translations := es.filter (fun e => !(s.translations.contains e)) ++ s.translations }
  | none => s

/-- A cached entry maps a byte of a range; length 0 stands for every address. -/
def entryMeets (e : CachedEntry) (base len : Nat) : Bool :=
  len == 0 || rangesMeet (e.page * 2 ^ e.shift) (2 ^ e.shift) base len

/-- The caches lose what they hold of a range in the tables of a root. -/
def dropTranslations (s : State) (root base len : Nat) : State :=
  { s with translations := s.translations.filter (fun e => !(e.root == root && entryMeets e base len)) }

/-- An entry is lost to make room. Log entry 33. -/
def evictWalk (s : State) (c va : Nat) : State :=
  match getCtx s c with
  | some x => dropTranslations s x.ptroot (va % 2 ^ 56) 1
  | none => s

/-- The device writes a leaf itself (R400): no cache keeps the old one. -/
def dropLeaf (s : State) (root va old : Nat) : State :=
  let t := dropTranslations s root va 1
  { t with translations := t.translations.filter (fun e => e.value != old) }

/-- The permissions an access needs (R394, R396). -/
def permits (l : Leaf) : Want → Bool
  | .read => l.r
  | .write => l.w
  | .atomic => l.r && l.w
  | .fetch => l.x

/-- Where a translation ends. -/
inductive Trans where
  | to (p : Place)
  | absent (entry : Nat)
  | denied
  | poisoned (entry : Nat)
  /-- the page must first be copied to the snapshot pool (R400) -/
  | copyFirst
  deriving DecidableEq, Repr

def wantWrites : Want → Bool
  | .write => true
  | .atomic => true
  | _ => false

/-- Translate an offset of the global aperture in a context. -/
def translate (s : State) (x : Context) (want : Want) (off : Nat) : Trans :=
  match walkCtx s x off with
  | .absent e => .absent e
  | .malformed => .denied
  | .poisoned e => .poisoned e
  | .leaf l =>
    if !(permits l want) then .denied
    else if l.remote then .to (.remote (x.job * 65536 + l.gen) (l.addr + off % 2 ^ l.shift))
    else
      let pa := l.addr + off % 2 ^ l.shift
      if !(livePhys s pa) then .denied
      else if wantWrites want && x.armed.isSome && l.gen != x.generation then .copyFirst
      else .to (.glob pa l.cls)

/-- The memory controller of a physical address, as a unit field (R457, R496). -/
def memoryUnit (s : State) (pa : Nat) : Nat :=
  match homeChannel s pa with
  | some (k, p) => 8 * 4096 + k * 64 + p
  | none => 8 * 4096

/-- Detail of fault 0x17 (R324): bit 66 says whether the data arrived already marked poisoned, or the consumer's own check found it. -/
def poisonDetail (addr : Nat) (write own : Bool) : Nat := addrDetail addr write false + b2n (!own) * 2 ^ 66

/-- Sectors of on-chip storage that the consumer finds poisoned: its own check where none of them is marked. -/
def poisonHeld (marked : Bool) : PoisonFrom := { unit := none, own := !marked }

/-- Where the poison of bytes of device memory comes from (R457): a line read poisoned from HBM names its memory controller, and a sector
that a slice holds, or whose check value does not match, the consuming unit. Log entry 15. -/
def memoryPoison (s : State) (pa n : Nat) : PoisonFrom :=
  if !(bytesTouch (sectorPoisoned s) pa n) then { unit := none, own := true }
  else { unit := if (l2Holders s (pa / 128)).any (fun h => (h.2.valid &&& h.2.bad).getLsbD (pa / 32 % 4)) then none else some (memoryUnit s pa),
         own := false }

/-- Reach of a generic address: a place, or a page-table entry that is not present. -/
inductive Reach where
  | at (p : Place)
  | absent (entry : Nat)
  deriving DecidableEq, Repr

/-- The context of a wave, or nothing runs. -/
def ctxRes (s : State) (w : Wave) : Res (Nat × Context) := orStop (ctxRec s w) .wait

/-- Translation of a global address by a wave's instruction (R105 check 3, R154 checks 5 and 6). -/
def reachGlobal (s : State) (w : Wave) (want : Want) (addr : Nat) (mask : Option Nat) : Res Reach := do
  let cx ← ctxRes s w
  match translate s cx.2 want (addr % 2 ^ 56) with
  | .to p => .ok (.at p)
  | .absent e => .ok (.absent e)
  | .denied => .error (.fault 0x0B (addrDetail addr (wantWrites want) (want == .fetch)) mask none)
  | .poisoned e =>
    let f := memoryPoison s e 8
    .error (.fault 0x17 (poisonDetail addr (wantWrites want) f.own) mask f.unit)
  | .copyFirst => waits

/-- Scratchpad bytes of a wave's team (SPADSIZE). -/
def spadSizeOf (s : State) (w : Wave) : Nat := match getTeam s w.team with | some t => t.spadSize | none => 0

/-- Where a control-stream access leads (R105). `align` is the alignment the instruction asks for. -/
def reachControl (s : State) (w : Wave) (want : Want) (addr align : Nat) : Res Reach := do
  let ap := addr / 2 ^ 56 % 256
  let det := addrDetail addr (wantWrites want) false
  ensure (ap == 0 || (ap == 1 && decide (addr % 2 ^ 56 < spadSizeOf s w))) 0x09 det
  ensure (decide (addr % align = 0)) 0x08 det
  if ap = 1 then .ok (.at (.spad w.team (addr % 2 ^ 56)))
  else reachGlobal s w want addr none

/-! ## Scratchpad and stacks (R220, R283, R287) -/

/-- Advance the version counter of each 4 KiB region that `n` bytes from `off` touch. -/
def bumpFrom (v : Cells Nat) (r : Nat) : Nat → Cells Nat
  | 0 => v
  | k + 1 => bumpFrom (Cells.set 0 v r (Cells.get 0 v r + 1)) (r + 1) k

def bumpVersions (v : Cells Nat) (off n : Nat) : Cells Nat :=
  if n = 0 then v else bumpFrom v (off / 4096) ((off + n - 1) / 4096 + 1 - off / 4096)

/-- Set the poison of the 32-byte sectors that a range of `n` bytes from `off` covers: a sector written whole takes
`poison`, one written in part keeps its poison too (R240, R455). -/
def poisonSectors (p : Cells Bool) (off n : Nat) (poison : Bool) (k : Nat) : Nat → Cells Bool
  | 0 => p
  | j + 1 =>
    let whole := decide (off ≤ 32 * k) && decide (32 * (k + 1) ≤ off + n)
    poisonSectors (Cells.set false p k (poison || (Cells.get false p k && !whole))) off n poison (k + 1) j

def sectorCount (off n : Nat) : Nat := if n = 0 then 0 else (off + n - 1) / 32 + 1 - off / 32

def anySector (p : Cells Bool) (k : Nat) : Nat → Bool
  | 0 => false
  | j + 1 => Cells.get false p k || anySector p (k + 1) j

/-- Write a team's scratchpad: bytes, versions, poison. -/
def writeSpad (s : State) (t off : Nat) (bs : List Byte) (poison : Bool) : State :=
  modTeam s t (fun x =>
    { x with
      spad := cellsWrite 0 x.spad off bs
      versions := bumpVersions x.versions off bs.length
      spadPoison := poisonSectors x.spadPoison off bs.length poison (off / 32) (sectorCount off bs.length)
      spadChecks := clearChecks x.spadChecks off bs.length (off / 32) (sectorCount off bs.length) })

/-- Key of a byte of a lane's stack in its team. -/
def stackKey (s : State) (wid lane off : Nat) : Nat :=
  match getWave s wid with
  | some w => (w.w * 96 + lane) * 16384 + off
  | none => off

/-! ## Overlap -/

/-- Whether two places, `n` and `m` bytes long, share a location (R301). -/
def placesMeet : Place → Nat → Place → Nat → Bool
  | .glob a _, n, .glob b _, m => rangesMeet a n b m
  | .spad t a, n, .spad u b, m => t == u && rangesMeet a n b m
  | .stack w l a, n, .stack v k b, m => w == v && l == k && rangesMeet a n b m
  | .remote p a, n, .remote q b, m => p == q && rangesMeet a n b m
  | _, _, _, _ => false

def accMeets (a : Access) (p : Place) (n : Nat) : Bool := a.lanes.any (fun l => placesMeet l.place a.width p n)

def storeMeets (b : BufStore) (p : Place) (n : Nat) : Bool := placesMeet b.place b.bytes.length p n

/-! ## Locations named by virtual ranges (R301) -/

/-- Row and column of the tile that a lane of a tile request names. -/
def reqRow (l : LaneAcc) : Nat := l.addr / 2 ^ 32
def reqCol (l : LaneAcc) : Nat := l.addr % 2 ^ 32

/-- The distinct tiles the lanes name, in the order of the lowest lane that names each. -/
def distinctTiles : List LaneAcc → List (Nat × Nat) → List (Nat × Nat)
  | [], seen => seen.reverse
  | l :: r, seen => if seen.contains (reqRow l, reqCol l) then distinctTiles r seen else distinctTiles r ((reqRow l, reqCol l) :: seen)

/-- Bytes that an instruction reads as its operand, at the address it captured. -/
def instrRegion (i : Instr) (srcs : List Dword) : List Region :=
  let a := (srcs.headD 0).toNat
  let n := match i with
    | .tdef _ => 64 | .ctload _ => 32 | .palld _ => 32 | .waitev _ => 8 | .qput _ => 128 | .sbload _ => 260 | .sbflow _ => 64
    | .capset _ => 32 | _ => 2048
  [regionAt a n false]

/-- The bytes of a tile request. -/
def reqRegions (r : TileReq) : List Region := (distinctTiles r.lanes []).flatMap (fun p => tileRegions r.t p.1 p.2 (r.op != .load))

/-- The bytes of a logged entry. -/
def logRegions (b : LogBody) : List Region :=
  match b with
  | .access a => a.lanes.map (fun l => regionAt l.addr a.width (match a.kind with | .load _ => false | _ => true))
  | .instr i srcs => instrRegion i srcs
  | .tile r => reqRegions r

/-- The storage that a range of the global aperture names now, page by page; nothing of a range above 16 MiB, which only the streams
of a tensor span. -/
def storageOf (s : State) (x : Context) (r : Region) : List (Place × Nat) :=
  if r.space ≠ 0 ∨ 2 ^ 24 < r.len then []
  else (List.range ((r.addr % 2 ^ 17 + r.len + 2 ^ 17 - 1) / 2 ^ 17)).filterMap (fun k =>
    let lo := max r.addr ((r.addr / 2 ^ 17 + k) * 2 ^ 17)
    let n := min (r.addr + r.len) ((r.addr / 2 ^ 17 + k + 1) * 2 ^ 17) - lo
    match walkCtx s x lo with
    | .leaf l =>
      let a := l.addr + lo % 2 ^ l.shift
      some (if l.remote then .remote (x.job * 65536 + l.gen) a else .glob a l.cls, n)
    | _ => none)

/-- Two ranges of a wave's context share a location: by their addresses, or as aliases of one byte (R301). -/
def locationsMeet (s : State) (w : Wave) (a b : Region) : Bool :=
  regionMeets a b || (a.space == 0 && b.space == 0 &&
    (match ctxRec s w with
     | some (_, x) => (storageOf s x a).any (fun p => (storageOf s x b).any (fun q => placesMeet p.1 p.2 q.1 q.2))
     | none => false))

/-- One operation of a wave writes bytes that the other reads or writes (R239). -/
def regionsConflict (s : State) (w : Wave) (xs ys : List Region) : Bool :=
  let own := fun (r : Region) => match getTeam s w.team with | some t => ownRegion t r | none => r
  xs.any (fun a => ys.any (fun b => (a.write || b.write) && locationsMeet s w (own a) (own b)))

/-! ## What a read returns (R310 to R313) -/

/-- A buffered store of wave `owner` that agents of wave `wid` read before it is performed at DEVICE scope. -/
def visibleTo (s : State) (owner wid : Nat) (b : BufStore) : Bool :=
  decide (1 ≤ b.perf) && decide (b.perf < 4) && b.rmw.isNone && (owner == wid || sameInstance s b.perf owner wid)

/-- A WAVEID that no wave has: a reader that acts for no wave. -/
def noWave : Nat := 2 ^ 14

/-- The reader that is an engine of wave `wid`: it reads what is performed at DEVICE scope (R249, R317). -/
def engineOf (wid : Nat) : Nat := noWave + 1 + wid

/-- The wave whose instance a reader lies in (R302). -/
def viewerOf (reader : Nat) : Nat := if noWave < reader then reader - noWave - 1 else reader

/-- A store that agents of wave `wid` read already, but that is not performed at DEVICE scope, covers a byte of a place. A load at CLUSTER
scope or wider, and an engine that acts for the wave, returns no such store: the store is performed at DEVICE scope first, so that
every agent of the package sees what one has returned (R313, R317). -/
def narrowMeets (s : State) (wid : Nat) (p : Place) (n : Nat) : Bool :=
  s.waves.any (fun o => o.2.stores.any (fun b => visibleTo s o.1 (viewerOf wid) b && storeMeets b p n))

/-- Every buffered store visible to wave `wid`, with its place in coherence order. -/
def visibleStores (s : State) (wid : Nat) : List BufStore :=
  s.waves.flatMap (fun p => p.2.stores.filter (visibleTo s p.1 wid))

/-- Insert by ticket, ascending. -/
def insertTicket (b : BufStore) : List BufStore → List BufStore
  | [] => [b]
  | c :: r => if b.ticket < c.ticket then b :: c :: r else c :: insertTicket b r

def sortTickets : List BufStore → List BufStore
  | [] => []
  | b :: r => insertTicket b (sortTickets r)

/-- Own stores that no agent of another wave sees yet, issued before `seq`, in order of issue. -/
def ownStores (w : Wave) (seq : Nat) : List BufStore :=
  w.stores.filter (fun b => b.perf == 0 && b.rmw.isNone && decide (b.seq < seq))

/-- The byte at offset `i` of place `p`, if a store covers it. -/
def storeByte (p : Place) (i : Nat) (b : BufStore) : Option Byte :=
  match p, b.place with
  | .glob a _, .glob c _ => if c ≤ a + i ∧ a + i < c + b.bytes.length then b.bytes[a + i - c]? else none
  | .spad t a, .spad u c => if t = u ∧ c ≤ a + i ∧ a + i < c + b.bytes.length then b.bytes[a + i - c]? else none
  | .stack w l a, .stack v k c =>
    if w = v ∧ l = k ∧ c ≤ a + i ∧ a + i < c + b.bytes.length then b.bytes[a + i - c]? else none
  | .remote q a, .remote r c => if q = r ∧ c ≤ a + i ∧ a + i < c + b.bytes.length then b.bytes[a + i - c]? else none
  | _, _ => none

/-- The last store of a list that covers byte `i` of a place, over what lies beneath. -/
def overlayByte (p : Place) (i : Nat) (base : Byte) : List BufStore → Byte
  | [] => base
  | b :: r => overlayByte p i ((storeByte p i b).getD base) r

/-- The byte beneath every buffered store. -/
def baseByte (s : State) (p : Place) (i : Nat) : Byte :=
  match p with
  | .glob a _ => Cells.get memDefault s.mem (a + i)
  | .spad t a => match getTeam s t with | some x => Cells.get 0 x.spad (a + i) | none => 0
  | .stack w l a =>
    match getWave s w with
    | some x => (match getTeam s x.team with | some t => Cells.get 0 t.stackMem (stackKey s w l (a + i)) | none => 0)
    | none => 0
  | .remote q a =>
    match Tbl.find? s.fabric.copies (q * 2 ^ 48 + (a + i) / 128 * 128) with
    | some (bs, _) => bs.getD ((a + i) % 128) 0
    | none => 0

def readOver (s : State) (p : Place) (st : List BufStore) (i : Nat) : Nat → List Byte
  | 0 => []
  | n + 1 => overlayByte p i (baseByte s p i) st :: readOver s p st (i + 1) n

/-- What agents of wave `wid` read at a place: coherence order as far as it is visible to them, then the wave's own stores
issued before `seq` (R108, R163, R310). -/
def readAs (s : State) (wid seq : Nat) (p : Place) (n : Nat) : List Byte :=
  match getWave s wid with
  | some w => readOver s p (sortTickets (visibleStores s wid) ++ ownStores w seq) 0 n
  | none => readOver s p [] 0 n

/-- What is read by an agent of no wave, and beneath every buffered store: what is performed at DEVICE scope. -/
def readBase (s : State) (p : Place) (n : Nat) : List Byte := readOver s p [] 0 n

/-- Sectors `k` on of a storage are found poisoned: marked, or with a check value that does not match (R457). -/
def heldPoisoned (p : Cells Bool) (d : Cells Half) (k n : Nat) : Bool := anySector p k n || anyDiff d k n

/-- The place's data is found poisoned by a consumer (R156, R240, R293, R457). -/
def placePoisoned (s : State) (p : Place) (n : Nat) : Bool :=
  match p with
  | .glob a _ => bytesPoisoned s a n
  | .spad t a => match getTeam s t with | some x => heldPoisoned x.spadPoison x.spadChecks (a / 32) (sectorCount a n) | none => false
  | .stack _ _ _ => false
  | .remote q a => match Tbl.find? s.fabric.copies (q * 2 ^ 48 + a / 128 * 128) with | some (_, b) => b | none => false

/-- Where the poison of `n` bytes of a place comes from (R457). Log entry 15. -/
def poisonFrom (s : State) (p : Place) (n : Nat) : PoisonFrom :=
  match p with
  | .glob a _ => memoryPoison s a n
  | .remote _ a => { unit := some (9 * 4096 + planeOf s a * 8 + Config.freeNat s.freeCtr % 8), own := false }
  | .spad t a => poisonHeld (match getTeam s t with | some x => anySector x.spadPoison (a / 32) (sectorCount a n) | none => false)
  | .stack _ _ _ => poisonHeld true

/-! ## L1 copies (R290) -/

/-- Overwrite bytes of a list from position `i`. -/
def patchList (l : List Byte) (i : Nat) : List Byte → List Byte
  | [] => l
  | b :: r => patchList (l.set i b) (i + 1) r

/-- Update the L1 copies of a core that a write covers (R290). -/
def updateL1 (k : Core) (pa : Nat) : List Byte → Core
  | [] => k
  | b :: r => updateL1 { k with l1 := Tbl.modify k.l1 (pa / 128) (fun bs => bs.set (pa % 128) b) } (pa + 1) r

/-- What an L1 notes of a sector of a line that it holds: the poison it is read with, and the difference of its check value (R455). -/
def noteL1Sector (s : State) (q : Nat) (d : Half) (k : Core) : Core :=
  { k with l1Poison := Cells.set false k.l1Poison q (sectorPoisoned s q), l1Checks := Cells.set 0 k.l1Checks q d }

/-- A write of the core reaches its L1, after it has been performed: the copy's bytes, and the poison and check values of its sectors. -/
def coreL1Write (s : State) (core : Nat) (p : Place) (bs : List Byte) : State :=
  match p with
  | .glob a _ =>
    let k := getCore s core
    if k.l1.isEmpty then s
    else
      setCore s core ((List.range (sectorCount a bs.length)).foldl (fun k i =>
        let q := a / 32 + i
        noteL1Sector s q (if a ≤ 32 * q ∧ 32 * q + 32 ≤ a + bs.length then 0 else Cells.get 0 k.l1Checks q) k) (updateL1 k a bs))
  | _ => s

/-- Whether a core other than a wave's own lies in its instance of a scope. -/
def sharesScope (wid scope core : Nat) : Bool :=
  core != coreOf wid && ((scope == 2 && core / 4 == clusterOf wid) || (scope == 3 && core / 32 == domainOf wid))

/-- The cores that could already read a store drop their L1 copies of its line when it leaves the store buffer, so that none
of them reads an older value afterwards (R310). -/
def dropShared (s : State) (wid scope : Nat) (p : Place) : State :=
  match p with
  | .glob a _ =>
    { s with cores := s.cores.map (fun k => if sharesScope wid scope k.1 then (k.1, { k.2 with l1 := Tbl.del k.2.l1 (a / 128) }) else k) }
  | _ => s

/-- Drop a core's L1 copies: an acquire at CLUSTER scope or wider (R313, R316). -/
def dropL1 (s : State) (core : Nat) : State :=
  if (getCore s core).l1.isEmpty then s else setCore s core { getCore s core with l1 := [] }

/-- The effect of an acquire by a wave at a scope. -/
def acquireAt (s : State) (wid scope : Nat) : State := if 2 ≤ scope then dropL1 s (coreOf wid) else s

/-! ## Performing a write -/

/-- Put bytes at a place, as one write performed at DEVICE scope (local memory), or at the storage's own scope. -/
def writePlace (s : State) (p : Place) (bs : List Byte) (poison : Bool) : State :=
  match p with
  | .glob a cls => writePhysCls s cls a bs poison
  | .spad t a => writeSpad s t a bs poison
  | .stack w l a =>
    match getWave s w with
    | some x => modTeam s x.team (fun t => { t with stackMem := cellsWrite 0 t.stackMem (stackKey s w l a) bs })
    | none => s
  | .remote _ _ => s

/-- Peers that hold any of the lines of a range (R413). -/
def peersHolding (s : State) (p : Place) (n : Nat) : Bool :=
  match p with
  | .glob a _ =>
    s.fabric.directory.any (fun e => !e.2.isEmpty && decide (a / 128 ≤ e.1) && decide (e.1 ≤ (a + n - 1) / 128))
  | _ => false

/-- Whether an order code includes release, or acquire (R74). -/
def isRel (o : Nat) : Bool := o == 2 || o == 3
def isAcq (o : Nat) : Bool := o == 1 || o == 3

/-- Packets of the wave's copy operations, returning atomics and encoder that are not acknowledged (R415). -/
def remoteCopies (s : State) (w : Wave) : Nat :=
  (s.fabric.sent.filter (fun p =>
    match p.2.purpose with
    | .copy uid _ _ => uid == w.uid
    | .rmw uid _ _ => uid == w.uid
    | .encode _ uid _ _ _ _ => uid == w.uid
    | _ => false)).length

/-- Every write that a release numbered `bar` must carry at scope `lvl` is performed there: the wave's own earlier stores,
its earlier loads and logged accesses, and the stores of other waves it can read (R306, R308); at SYSTEM scope no packet of
the wave is unacknowledged (R417). -/
def releaseReady (s : State) (wid : Nat) (w : Wave) (bar lvl : Nat) : Bool :=
  w.stores.all (fun b => decide (bar ≤ b.seq) || decide (lvl ≤ b.perf))
    && w.loads.all (fun a => decide (bar ≤ a.seq))
    && w.log.all (fun e => decide (bar ≤ e.seq))
    && s.waves.all (fun p => p.1 == wid || p.2.stores.all (fun b => !(readable s p.1 wid b) || decide (lvl ≤ b.perf)))
    && (decide (lvl < 5) || remoteCopies s w == 0)

/-! ### Acquires and releases before an access (R303, R306, R309) -/

/-- Whether a logged entry acquires, or releases. -/
def logAcquires (e : LogEntry) : Bool :=
  match e.body with
  | .access a => isAcq a.order
  | .instr (.waitev _) _ => true
  | _ => false

def logReleases (e : LogEntry) : Bool := match e.body with | .access a => isRel a.order | _ => false

/-- How many issue numbers an access takes: its lanes and their pieces each have one (R161, R158). -/
def seqStride : Nat := 4096

/-- An atomic that returns nothing and acquires has yet to act (R159, R306). -/
def storeAcquires (b : BufStore) : Bool :=
  b.rmw.isSome && isAcq b.order && (match b.place with | .remote _ _ => decide (b.perf < 5) | _ => b.perf == 0)

/-- The access with an issue number acquires and has not done so yet. -/
def acquireOpen (w : Wave) (q : Nat) : Bool :=
  w.loads.any (fun a => a.seq == q && isAcq a.order) || w.log.any (fun e => e.seq == q && logAcquires e)
    || w.stores.any (fun b => b.seq / seqStride == q / seqStride && storeAcquires b)

/-- The access with an issue number releases and is not performed at its scope yet. -/
def releaseOpen (w : Wave) (q : Nat) : Bool :=
  w.loads.any (fun a => a.seq == q && isRel a.order) || w.log.any (fun e => e.seq == q && logReleases e)
    || w.stores.any (fun b => b.seq / seqStride == q / seqStride && isRel b.order && decide (b.perf < b.scope))

def acquired (w : Wave) (qs : List Nat) : Bool := qs.all (fun q => !(acquireOpen w q))

def released (w : Wave) (qs : List Nat) : Bool := qs.all (fun q => !(releaseOpen w q))

/-- Those of a list that are still open. -/
def openSyncs (w : Wave) (qs : List Nat) : List Nat := qs.filter (fun q => acquireOpen w q || releaseOpen w q)

/-- The acquiring and releasing accesses that precede an instance's next one in wave order and are open. -/
def syncsBefore (w : Wave) (a : Actor) : List Nat :=
  openSyncs w (match a with
    | .path _ e => (match Tbl.find? w.paths e with | some p => p.syncs | none => [])
    | .cont _ l => (match Tbl.find? w.conts l with | some k => k.syncs | none => [])
    | _ => w.syncs)

/-- Change the issuing instance's own fields. -/
def modInstance (a : Actor) (fp : PathEntry → PathEntry) (fc : Continuation → Continuation) (w : Wave) : Wave :=
  match a with
  | .path _ e => { w with paths := Tbl.modify w.paths e fp }
  | .cont _ l => { w with conts := Tbl.modify w.conts l fc }
  | _ => w

/-- An access of an order that acquires or releases precedes what the instance issues next. -/
def noteSync (a : Actor) (order seq : Nat) (w : Wave) : Wave :=
  if order = 0 then w
  else
    let qs := seq :: syncsBefore w a
    match a with
    | .control _ => { w with syncs := qs }
    | _ => modInstance a (fun p => { p with syncs := qs }) (fun k => { k with syncs := qs }) w

/-- The blocks that have ended precede what the control stream issues from here on (R303). -/
def joinBlocks (w : Wave) : Wave := { w with syncs := openSyncs w (w.syncs ++ w.blockSyncs), blockSyncs := [] }

/-- No store that precedes `b` in coherence order at its location is still above memory. -/
def olderAtBase (s : State) (b : BufStore) : Bool :=
  s.waves.all (fun p => p.2.stores.all (fun c =>
    c.ticket == 0 || decide (4 ≤ c.perf) || (b.ticket != 0 && decide (b.ticket ≤ c.ticket))
      || !(storeMeets c b.place b.bytes.length)))

/-- Whether a buffered store may be performed at a scope now (R108, R163, R305, R306, R310, R315, R318). -/
def canPerform (s : State) (wid : Nat) (w : Wave) (b : BufStore) (scope : Nat) : Bool :=
  w.loads.all (fun a => decide (b.seq ≤ a.seq) || !(accMeets a b.place b.bytes.length))
    && w.stores.all (fun c => decide (b.seq ≤ c.seq) || decide (scope ≤ c.perf) || !(storeMeets c b.place b.bytes.length))
    && acquired w b.after
    && b.bars.all (fun c => releaseReady s wid w c.1 (if 4 ≤ scope then c.2 else min scope c.2))
    && (decide (scope < 4) || olderAtBase s b)
    && (decide (scope < 4) || !(peersHolding s b.place b.bytes.length))

/-- Replace the buffered store with issue number `q`. -/
def setStore (w : Wave) (q : Nat) (f : BufStore → Option BufStore) : Wave :=
  { w with stores := w.stores.filterMap (fun b => if b.seq = q then f b else some b) }

/-! ## Atomics (R107) -/

/-- The new value of an atomic on a `w`-bit location, and the SATF bits it sets. -/
def atomicNew (op : AtomicOp) (w old opnd cmp : Nat) : Nat × BitVec 4 :=
  let m := 2 ^ w
  match op with
  | .swap => (opnd % m, 0)
  | .add => ((old + opnd) % m, 0)
  | .and => (Nat.land old opnd % m, 0)
  | .or => (Nat.lor old opnd % m, 0)
  | .xor => (Nat.xor old opnd % m, 0)
  | .mins => (if sextNat old w ≤ sextNat opnd w then old else opnd % m, 0)
  | .maxs => (if sextNat old w < sextNat opnd w then opnd % m else old, 0)
  | .minu => (if old ≤ opnd % m then old else opnd % m, 0)
  | .maxu => (if old < opnd % m then opnd % m else old, 0)
  | .fadd => let r := addRNE old (opnd % m); (r.bits, if r.ovf then 8 else 0)
  | .fmin => (fpMinMax .fp32 false old (opnd % m), 0)
  | .fmax => (fpMinMax .fp32 true old (opnd % m), 0)
  | .incw => (if opnd % m ≤ old then 0 else old + 1, 0)
  | .decw => (if old = 0 ∨ opnd % m < old then opnd % m else old - 1, 0)
  | .cas => (if old = cmp % m then opnd % m else old, 0)
  | .insert => (Nat.lor (old - Nat.land old (cmp % m)) (Nat.land opnd (cmp % m)), 0)

/-- The operation of a code of R75. -/
def atomicOf (code : Nat) : AtomicOp :=
  match code with
  | 0 => .swap | 1 => .add | 2 => .and | 3 => .or | 4 => .xor | 5 => .mins | 6 => .maxs | 7 => .minu | 8 => .maxu
  | 9 => .fadd | 10 => .fmin | 11 => .fmax | 12 => .incw | _ => .decw

/-- Perform a read-modify-write at a place, in coherence order after everything there; in global memory it acts in the slice of the
wave's cluster (R290, R292). -/
def atomicAt (s : State) (wid : Nat) (p : Place) (op : AtomicOp) (n opnd cmp hint : Nat) : Nat × State :=
  let old := natOfBytes (readBase s p n)
  let r := atomicNew op (8 * n) old opnd cmp
  let s := modWave s wid (setFlags r.2)
  let bs := bytesOfNat n r.1
  let fails := decide (op = .cas ∧ old ≠ cmp % 2 ^ (8 * n))
  (old,
    match p with
    | .glob a cls =>
      if fails then loadL2 s (clusterOf wid) (a / 128) hint cls (touchedSectors (a % 128) (a % 128 + n))
      else { coreL1Write (writeL2 s (clusterOf wid) hint cls a bs none) (coreOf wid) p bs with releases := s.releases }
    | _ => if fails then s else writePlace s p bs (placePoisoned s p n))

/-- The hint of an access with the cache code of the page it names (R397). -/
def pageHint (s : State) (w : Wave) (addr hint : Nat) : Nat :=
  match ctxRec s w with
  | some (_, x) =>
    (match walkCtx s x (addr % 2 ^ 56) with
     | .leaf l => if l.cache = 3 ∨ hint = 0 then l.cache else hint
     | _ => hint)
  | none => hint

/-- The hint of a buffered store (R397). -/
def storeHint (s : State) (wid : Nat) (b : BufStore) : Nat :=
  match getWave s wid with
  | some w => pageHint s w b.va b.hint
  | none => b.hint

/-- The request that a buffered store belongs to: the instruction that issued it (R299). -/
def storeRequest (s : State) (wid : Nat) (b : BufStore) : Option (Nat × Nat) :=
  (getWave s wid).map (fun w => (w.uid, b.seq / seqStride))

/-- The releases that a write of a wave is: what each covers, itself included where it releases (R306, R307). -/
def releasePairs (uid seq order : Nat) (bars : List (Nat × Nat)) : List (Nat × Nat) :=
  bars.map (fun c => (uid, if isRel order then max c.1 (seq + 1) else c.1))

/-- A write that releases begins a release sequence at its words, or a read-modify-write continues one (R307). -/
def beginReleases (s : State) (p : Place) (rs : List (Nat × Nat)) : State :=
  match p with
  | .glob a _ => if rs.isEmpty then s else { s with releases := Tbl.put s.releases (a / 8) ((Tbl.find? s.releases (a / 8)).getD [] ++ rs) }
  | _ => s

/-- The releases that a buffered store of a wave is. -/
def storeReleases (s : State) (wid : Nat) (b : BufStore) : List (Nat × Nat) :=
  match getWave s wid with
  | some w => releasePairs w.uid b.seq b.order b.bars
  | none => []

/-- The generic address of a buffered store: its piece of the line that its lane named. -/
def storeAddr (b : BufStore) : Nat :=
  b.va / 128 * 128 + (match b.place with | .glob a _ => a | .spad _ a => a | .stack _ _ a => a | .remote _ a => a) % 128

/-- A wave's write to a place makes the results of the operations of other waves that touch it undefined (R231): scratchpad, of the
team; global memory, of the waves of the context by the address the write was made at. -/
def hazardOthers (s : State) (wid : Nat) (b : BufStore) : State :=
  match b.place, getWave s wid with
  | .stack _ _ _, _ => s
  | _, none => s
  | p, some w =>
    let r := regionAt (storeAddr b) b.bytes.length true
    let near : Wave → Bool := fun v => match p with
      | .spad t _ => v.team == t
      | _ => ctxOf s v == ctxOf s w
    if s.waves.all (fun o => o.1 == wid || o.2.engine.isEmpty) then s
    else { s with waves := s.waves.map (fun (o : Nat × Wave) => if o.1 ≠ wid ∧ near o.2 = true then (o.1, { o.2 with engine := o.2.engine.map (hazardItem r) }) else o) }

/-- A store that is performed takes its place in coherence order, and what operations of other waves read and write it makes undefined
(R231, R310). -/
def enterOrder (s : State) (wid : Nat) (b : BufStore) : State :=
  hazardOthers (if b.ticket = 0 then { s with nextTicket := s.nextTicket + 1 } else s) wid b

/-- Perform a buffered store at a scope: it takes its place in coherence order, and at DEVICE scope its bytes are in
memory; a store stays in the buffer until it is performed at its own scope (R315). -/
def performStore (s : State) (wid : Nat) (b : BufStore) (scope : Nat) : State :=
  let ticket := if b.ticket = 0 then s.nextTicket else b.ticket
  let s := enterOrder s wid b
  match b.rmw with
  | some (op, opnd, cmp) =>
    let s := (atomicAt s wid b.place op b.bytes.length opnd cmp (storeHint s wid b)).2
    let s := beginReleases (if isAcq b.order then acquireAt s wid b.scope else s) b.place (storeReleases s wid b)
    modWave s wid (fun w => setStore w b.seq (fun b =>
      if b.scope ≤ max 4 scope then none else some { b with perf := max 4 scope, ticket := ticket }))
  | none =>
    match b.place with
    | .glob a cls =>
      let s := if 4 ≤ scope ∧ b.perf < 4 then
          beginReleases (dropShared (coreL1Write (writeL2 s (clusterOf wid) (storeHint s wid b) cls a b.bytes (storeRequest s wid b)) (coreOf wid) b.place b.bytes)
            wid b.perf b.place) b.place (storeReleases s wid b)
        else s
      modWave s wid (fun w => setStore w b.seq (fun b =>
        if max 4 b.scope ≤ scope then none else some { b with perf := max b.perf scope, ticket := ticket }))
    | _ =>
      let s := writePlace s b.place b.bytes false
      modWave s wid (fun w => setStore w b.seq (fun _ => none))

/-! ## Issuing accesses -/

/-- A memory instruction issues only when the operand log has room (R273, R327). -/
def memReady (w : Wave) : Res Unit := waitUnless (decide (w.log.length < 8))

/-- An instruction that acts on memory at its issue also waits for the acquires that precede it in wave order (R306). -/
def memReadyNow (w : Wave) (a : Actor) : Res Unit := waitUnless (acquired w (syncsBefore w a) && decide (w.log.length < 8))

/-- A logged entry overlaps `n` bytes at a generic address (R305). -/
def logBlocks (s : State) (w : Wave) (a n : Nat) : Bool :=
  w.log.any (fun e => (logRegions e.body).any (locationsMeet s w (regionAt a n false)))

/-- What a store with issue number `seq` carries: what its own release covers, and the fences before it (R248, R306). -/
def barsOf (w : Wave) (order scope seq : Nat) : List (Nat × Nat) :=
  (if isRel order then [(seq, scope)] else []) ++ (w.fences.map (fun c => (c.2, c.1))).filter (fun c => decide (c.1 ≤ seq))

/-- One piece of a store enters the buffer; `at_` is its lane and generic address. -/
def bufferOne (w : Wave) (a : Access) (rmw : Option AtomicOp) (seq : Nat) (p : Place) (scope : Nat) (bs : List Byte)
    (data cmp : Nat) (at_ : Nat × Nat) : Wave :=
  { w with stores := w.stores ++ [
      { seq := seq, place := p, bytes := bs, scope := scope, order := a.order, rmw := rmw.map (fun op => (op, data, cmp)),
        perf := 0, ticket := 0, bars := barsOf w a.order scope a.seq, sent := none, hint := a.hint, origin := a.actor,
        pc := a.pc, block := a.block, lane := at_.1, va := at_.2, after := a.after, path := a.path }] }

/-- A place moved on by `n` bytes. -/
def placeAdd (p : Place) (n : Nat) : Place :=
  match p with
  | .glob a c => .glob (a + n) c
  | .spad t a => .spad t (a + n)
  | .stack w l a => .stack w l (a + n)
  | .remote q a => .remote q (a + n)

/-- The effective scope of an access to a place (R105, R156). -/
def placeScope (p : Place) (scope : Nat) : Nat :=
  match p with
  | .spad _ _ => 1
  | .stack _ _ _ => 0
  | _ => scope

/-- Whether an access returns a value. -/
def returning (a : Access) : Bool :=
  match a.kind with
  | .load _ => true
  | .store => false
  | .atomic _ => a.dest != .none

/-- The lanes of a store enter the store buffer, lowest lane first; 128 bits are four pieces (R158, R161). -/
def bufferLanes (w : Wave) (a : Access) (rmw : Option AtomicOp) (seq : Nat) : List LaneAcc → Wave
  | [] => w
  | l :: r =>
    let sc := placeScope l.place a.scope
    let bs := bytesOfNat a.width l.data
    let at_ := (l.lane, l.addr)
    let w :=
      if a.width = 16 then
        bufferOne (bufferOne (bufferOne (bufferOne w a rmw seq l.place sc (bs.take 4) 0 0 at_) a rmw (seq + 1)
          (placeAdd l.place 4) sc ((bs.drop 4).take 4) 0 0 at_) a rmw (seq + 2) (placeAdd l.place 8) sc ((bs.drop 8).take 4) 0 0 at_)
          a rmw (seq + 3) (placeAdd l.place 12) sc (bs.drop 12) 0 0 at_
      else bufferOne w a rmw seq l.place sc bs l.data l.cmp at_
    bufferLanes w a rmw (seq + 4) r

/-- Every lane's bytes of a store or atomic are written (R231, R249). -/
def markLanes (width : Nat) : List LaneAcc → Wave → Wave
  | [], w => w
  | l :: r, w => markLanes width r (markWrite l.addr width w)

/-- A 128-bit load is four 32-bit accesses (R158, R311). -/
def loadPieces (a : Access) : Access :=
  if a.width = 16 then
    { a with
      width := 4
      lanes := a.lanes.flatMap (fun l => (List.range 4).map (fun j =>
        { l with addr := l.addr + 4 * j, place := placeAdd l.place (4 * j), reg := l.reg + j, reg2 := l.reg2 + j })) }
  else a

/-- The scope at which an access acts: the widest of its lanes' (R105, R156). -/
def accessScope (a : Access) : Nat :=
  match a.lanes with
  | [] => a.scope
  | l :: r => r.foldl (fun m l => max m (placeScope l.place a.scope)) (placeScope l.place a.scope)

/-- Enter an access whose places are known: loads and returning atomics are in flight until their data returns, the others
are in the store buffer. -/
def enterAccess (a : Access) (w0 : Wave) : Wave :=
  let w := match a.kind with
    | .load _ => w0
    | _ => markLanes a.width a.lanes w0
  match a.kind with
    | .store => bufferLanes w a none a.seq a.lanes
    | .atomic op =>
      if returning a then { w with loads := w.loads ++ [{ a with scope := accessScope a }] } else bufferLanes w a (some op) a.seq a.lanes
    | .load _ => { w with loads := w.loads ++ [loadPieces { a with scope := accessScope a }] }

/-- Issue an access whose places are known: it also precedes what the instance issues next (R303). -/
def issueAccess (a : Access) (w : Wave) : Wave := noteSync a.actor a.order a.seq (enterAccess a w)

/-- The next issue number is taken. -/
def nextSeq (w : Wave) : Wave := { w with seq := w.seq + seqStride }

/-- A logged store counts as written for R231. -/
def markLogged (body : LogBody) (w : Wave) : Wave :=
  match body with
  | .access a => (match a.kind with | .load _ => w | _ => markLanes a.width a.lanes w)
  | _ => w

/-- Enter an instruction in the operand log, at the entry its walk stopped at (R328). -/
def logEntry (body : LogBody) (a : Actor) (st : Standing) (va entry : Nat) (w : Wave) : Wave :=
  noteSync a (match body with | .access x => x.order | .instr (.waitev _) _ => 1 | _ => 0) w.seq <| markLogged body
    { w with log := w.log ++ [{ body := body, actor := a, pc := st.pc, block := st.block, mask := st.active, seq := w.seq, va := va, entry := entry, awake := false, path := st.path }] }

/-- Write the 0x0A record of an access that was logged (R327). -/
def pageFault (s : State) (a : Actor) (st : Standing) (addr : Nat) (write : Bool) (mask : Option Nat) : State :=
  takeFault s a st (unitFor s a 0x0A) 0x0A (addrDetail addr write false) mask false

end Sys2Proof.Machine
end

