-- ==== Sys2Proof/Machine/Operands.lean ====
section
/-! DEFINITION. Operands of lane instructions: the issuing path or continuation, direct and indexed registers (R47, R56), q
registers and mask words (R57), immediates (R80), the full/empty gates (R51, R52), and the waterfall form (R61, R62). -/

namespace Sys2Proof.Machine

/-! ## The issuing instance -/

/-- A path or continuation about to execute an instruction. `lanes` are its active visible lanes, ascending; `all` adds, in
shadow mode, their copies 48 lanes above (R59, R278). -/
structure LaneCtx where
  actor : Actor
  wid : Nat
  w : Wave
  owned : Mask
  act : Mask
  pc : Nat
  sig : Word
  q12 : Dword
  q12Full : Bool
  shadow : Bool
  alloc : Nat
  lanes : List Nat
  /-- the issues of a `.W` instruction that are still to come (R61) -/
  rest : List (Nat × List Nat) := []
  deriving DecidableEq, Repr

/-- The lanes set in a mask, ascending. -/
def lanesOf (m : Mask) : List Nat := bitsSet m.toNat 96

/-- The path-table entry of the issuing path, or of the continuation's parent (R269). -/
def LaneCtx.entry (L : LaneCtx) : Nat :=
  match L.actor with
  | .path _ e => e
  | .cont _ l => (match Tbl.find? L.w.conts l with | some k => k.parent | none => 0)
  | _ => 0

def LaneCtx.all (L : LaneCtx) : List Nat := if L.shadow then L.lanes ++ L.lanes.map (fun l => l + 48) else L.lanes

/-- The launch mask (R262). -/
def launchMask (shadow : Bool) : Mask := if shadow then BitVec.ofNat 96 (2 ^ 48 - 1) else BitVec.allOnes 96

/-- The mask of one lane. -/
def laneBit (l : Nat) : Mask := BitVec.ofNat 96 (2 ^ l)

/-- The issuing instance of the state's actor. -/
def laneCtx (s : State) : Option LaneCtx :=
  match s.actor with
  | .path wid e =>
    (match getWave s wid with
     | some w =>
       (match Tbl.find? w.paths e with
        | some p =>
          some { actor := .path wid e, wid := wid, w := w, owned := p.owned, act := p.owned &&& p.active, pc := p.pc,
                 sig := p.sig, q12 := p.q12, q12Full := p.q12Full, shadow := isShadow s w, alloc := regAllocOf s w,
                 lanes := lanesOf (p.owned &&& p.active), rest := p.rest }
        | none => none)
     | none => none)
  | .cont wid l =>
    (match getWave s wid with
     | some w =>
       (match Tbl.find? w.conts l with
        | some k =>
          let m := if k.active then laneBit k.lane else 0
          some { actor := .cont wid l, wid := wid, w := w, owned := laneBit k.lane, act := m, pc := k.pc, sig := k.sig,
                 q12 := k.q12, q12Full := k.q12Full, shadow := isShadow s w, alloc := regAllocOf s w,
                 lanes := if k.active then [k.lane] else [] }
        | none => none)
     | none => none)
  | _ => none

/-- Run the body of a lane instruction; a stop of the body is a wait or a precise fault (R321). -/
def runLane (s : State) (body : LaneCtx → Res State) : Out :=
  match laneCtx s with
  | none => .fault .noInstance
  | some L =>
    match body L with
    | .ok t => .next t
    | .error .wait => stall s
    | .error (.request p a) => requestLine s (jobOf s L.w) p a
    | .error (.evict l) => evictLine s l
    | .error (.fault c d m u) => .next (raiseFault s L.actor c d m u)

/-- The path moves past the instruction and folds its operation number (R461). -/
def finishLane (i : Instr) (a : Actor) (w : Wave) : Wave :=
  modInstance a
    (fun p => { p with pc := p.pc + byteLength i, sig := foldSig p.sig (opNumber i) })
    (fun k => { k with pc := k.pc + byteLength i, sig := foldSig k.sig (opNumber i) }) w

/-! ## v registers (R41, R47, R49) -/

def vKey (reg lane : Nat) : Nat := reg * 96 + lane

def vVal (w : Wave) (reg lane : Nat) : Word := Cells.get 0 w.v (vKey reg lane)

def vIsEmpty (w : Wave) (reg lane : Nat) : Bool := Cells.get false w.vEmpty (vKey reg lane)

/-- Write a register in a lane and mark it full. -/
def writeV (reg lane : Nat) (x : Word) (w : Wave) : Wave :=
  { w with v := Cells.set 0 w.v (vKey reg lane) x, vEmpty := Cells.set false w.vEmpty (vKey reg lane) false }

/-- Mark a register empty in a lane (R50). -/
def emptyV (reg lane : Nat) (w : Wave) : Wave := { w with vEmpty := Cells.set false w.vEmpty (vKey reg lane) true }

/-- Array descriptor fields (R45). -/
def adBase (w : Wave) (n : Nat) : Nat := (Cells.get 0 w.ad n).toNat % 256
def adLength (w : Wave) (n : Nat) : Nat := (Cells.get 0 w.ad n).toNat / 256 % 512

/-- The register an operand names in a lane; `none` when the index lies outside the array (R56). -/
def regOf (w : Wave) (o : Operand) (lane : Nat) : Option Nat :=
  match o with
  | .v n => some n.toNat
  | .ix ad ixr k =>
    let idx := ((Cells.get 0 w.ix (ixr.toNat * 96 + lane)).toNat : Int) + k.toInt
    if idx < 0 ∨ (adLength w ad.toNat : Int) ≤ idx then none else some (adBase w ad.toNat + idx.toNat)
  | _ => none

/-! ## q registers (R43, R57, R59) -/

/-- A word of the active mask. -/
def maskWord (m : Mask) (k : Nat) : Nat := m.toNat / 2 ^ (32 * k) % 2 ^ 32

def qFull (L : LaneCtx) (n : Nat) : Bool :=
  if n < 12 then !(Cells.get false L.w.qEmpty n) else if n = 12 then L.q12Full else true

def qVal (L : LaneCtx) (n : Nat) : Dword :=
  if n < 12 then Cells.get 0 L.w.q n
  else if n = 12 then L.q12
  else BitVec.ofNat 64 (maskWord L.act (n - 13))

/-- The active mask after word `k` is written with `x`: ANDed with the owned mask; in shadow mode only visible lanes are
writable (R57, R59). -/
def maskWrite (owned active : Mask) (k : Nat) (x : Nat) (shadow : Bool) : Mask :=
  let field : Mask := BitVec.ofNat 96 ((2 ^ 32 - 1) * 2 ^ (32 * k)) &&& (if shadow then launchMask true else BitVec.allOnes 96)
  (active &&& ~~~field) ||| (BitVec.ofNat 96 (x % 2 ^ 32 * 2 ^ (32 * k)) &&& field &&& owned)

/-- Whether a continuation's lane is active after a mask write (R57, R267). -/
def contMaskWrite (k : Continuation) (word x : Nat) (shadow : Bool) : Bool :=
  decide (maskWrite (laneBit k.lane) (if k.active then laneBit k.lane else 0) word x shadow ≠ 0)

/-- Write a q register of the issuing instance (R43, R57). -/
def writeQ (L : LaneCtx) (n : Nat) (v : Dword) (w : Wave) : Wave :=
  if n < 12 then { w with q := Cells.set 0 w.q n v, qEmpty := Cells.set false w.qEmpty n false }
  else if n = 12 then
    modInstance L.actor (fun p => { p with q12 := v, q12Full := true }) (fun k => { k with q12 := v, q12Full := true }) w
  else
    modInstance L.actor
      (fun p => { p with active := maskWrite p.owned p.active (n - 13) v.toNat L.shadow })
      (fun k => { k with active := contMaskWrite k (n - 13) v.toNat L.shadow }) w

/-! ## Immediates (R77, R80) -/

/-- The BF16 pattern of a small integer. -/
def bf16OfInt (x : Int) : Nat := (roundFp .bf16 0 0 false (fpOfInt x)).bits

/-- imm8 widened by the type (R80). -/
def widen (t : Nat) (b : BitVec 8) : Word :=
  let x := b.toInt
  match t with
  | 2 | 3 => BitVec.ofNat 32 (intToNat x 16 * 65537)
  | 4 | 5 => BitVec.ofNat 32 (b.toNat * 0x01010101)
  | 6 => BitVec.ofNat 32 (roundFp .fp32 0 0 false (fpOfInt x)).bits
  | 7 => BitVec.ofNat 32 (bf16OfInt x * 65537)
  | _ => b.signExtend 32

/-- An immediate operand: the literal of the 96-bit form, or imm8 widened. -/
def immWord (lit : Option (BitVec 32)) (t : Nat) (b : BitVec 8) : Word :=
  match lit with
  | some l => l
  | none => widen t b

/-! ## Gates (R51, R52, R273) -/

/-- A source field of an issue: operand, e bit, widening type. -/
structure Src where
  o : Operand
  e : Bool
  t : Nat
  deriving DecidableEq, Repr

/-- The lanes in which an operand is empty. -/
def emptyLanes (w : Wave) (o : Operand) (lanes : List Nat) : List Nat :=
  lanes.filter (fun l => match regOf w o l with | some r => vIsEmpty w r l | none => false)

/-- A source read with e = 0 is full, so far as it names registers. -/
def srcWaitOk (L : LaneCtx) (lanes : List Nat) (x : Src) : Bool :=
  x.e || (match x.o with
    | .q n => qFull L n.toNat
    | .imm _ => true
    | o => (emptyLanes L.w o lanes).isEmpty)

/-- A destination is full in the lanes written (R52). -/
def dstWaitOk (L : LaneCtx) (lanes : List Nat) (o : Operand) : Bool :=
  match o with
  | .q n => qFull L n.toNat
  | .imm _ => true
  | o => (emptyLanes L.w o lanes).isEmpty

def maskOf (lanes : List Nat) : Nat := lanes.foldl (fun m l => Nat.lor m (2 ^ l)) 0

/-- Index faults, then empty sources read with e = 1 (R51, R56). Of an indexed source, the record names the register of the lowest empty
lane (log entry 71). -/
def srcCheck (L : LaneCtx) (lanes : List Nat) (x : Src) : Res Unit :=
  match x.o with
  | .q n => if x.e && !(qFull L n.toNat) then raises 0x05 (emptyDetail 0 n.toNat 1) else .ok ()
  | .imm _ => .ok ()
  | o =>
    let bad := lanes.filter (fun l => (regOf L.w o l).isNone)
    if bad ≠ [] then raises 0x06 (maskOf bad)
    else
      match emptyLanes L.w o lanes with
      | [] => .ok ()
      | l :: r => if x.e then raises 0x05 (emptyDetail (maskOf (l :: r)) ((regOf L.w o l).getD 0) 2) else waits

def dstCheck (L : LaneCtx) (lanes : List Nat) (o : Operand) : Res Unit :=
  match o with
  | .v _ => .ok ()
  | .ix _ _ _ =>
    let bad := lanes.filter (fun l => (regOf L.w o l).isNone)
    if bad ≠ [] then raises 0x06 (maskOf bad) else .ok ()
  | _ => .ok ()

/-- Check 7 of R69: a direct register at or beyond the allocation (R47). -/
def allocCheck (L : LaneCtx) : List Operand → Res Unit
  | [] => .ok ()
  | .v n :: r => if n.toNat < L.alloc then allocCheck L r else raises 0x06 n.toNat
  | _ :: r => allocCheck L r

/-- The gates of an issue over `lanes`: readiness, then checks in field order A, B, C, D. -/
def issueGates (L : LaneCtx) (lanes : List Nat) (srcs : List Src) (dsts : List Operand) : Res Unit := do
  waitUnless (srcs.all (srcWaitOk L lanes) && dsts.all (dstWaitOk L lanes))
  srcs.forM (srcCheck L lanes)
  dsts.forM (dstCheck L lanes)

/-- All gates of an instruction: first the direct registers beyond the allocation, of which the record names the destination's before
those of A, B and C (log entry 71). -/
def gates (L : LaneCtx) (lanes : List Nat) (srcs : List Src) (dsts : List Operand) : Res Unit := do
  allocCheck L (dsts ++ srcs.map (fun x => x.o))
  issueGates L lanes srcs dsts

/-- The 32 bits a source supplies to a lane (R119). -/
def srcWord (L : LaneCtx) (lit : Option (BitVec 32)) (x : Src) (lane : Nat) : Word :=
  match x.o with
  | .q n => (qVal L n.toNat).truncate 32
  | .imm b => immWord lit x.t b
  | o => match regOf L.w o lane with | some r => vVal L.w r lane | none => 0

/-- The 64 bits a uniform source supplies (R149, R150). -/
def srcDword (L : LaneCtx) (o : Operand) : Dword :=
  match o with
  | .q n => qVal L n.toNat
  | .imm b => b.signExtend 64
  | _ => 0

/-! ## Lane generators (R26, R27) -/

/-- Stream index of a lane of a wave (R26). -/
def streamIndex (s : State) (w : Wave) (lane : Nat) : Nat :=
  match launchOf s w, getTeam s w.team with
  | some (_, l), some t => (t.index * l.e.waves + w.w) * 96 + (if flagShadow l && decide (48 ≤ lane) then lane - 48 else lane)
  | _, _ => lane

def launchSeed (s : State) (w : Wave) : Nat := match launchOf s w with | some (_, l) => l.e.seed | none => 0

/-- A lane's generator state: 0 in the store stands for the seeded state, which is never 0. -/
def laneGenOf (s : State) (w : Wave) (lane : Nat) : Word :=
  let g := Cells.get 0 w.laneGen lane
  if g = 0 then BitVec.ofNat 32 (seedState (launchSeed s w) (streamIndex s w lane)) else g

def setLaneGen (lane : Nat) (g : Word) (w : Wave) : Wave := { w with laneGen := Cells.set 0 w.laneGen lane g }

/-! ## Results of one lane -/

/-- What an instruction computes in a lane: the word, the SATF bits, and the generator after its draws. -/
structure LaneOut where
  x : Word
  flags : BitVec 4 := 0
  gen : Option Word := none
  deriving DecidableEq, Repr

/-- Write a lane's result. -/
def putLane (o : Operand) (lane : Nat) (r : LaneOut) (old w : Wave) : Wave :=
  let w := match regOf old o lane with | some n => writeV n lane r.x w | none => w
  let w := match r.gen with | some g => setLaneGen lane g w | none => w
  setFlags r.flags w

/-- Write every lane's result; registers are selected by the wave as it stood before the instruction (R119). -/
def putLanes (o : Operand) (g : Nat → LaneOut) (old : Wave) : List Nat → Wave → Wave
  | [], w => w
  | l :: r, w => putLanes o g old r (putLane o l (g l) old w)

/-- The rounding mode of an M field (R23, R81). -/
def modeOf (w : Wave) (m : BitVec 3) : Nat := if m = 7 then w.rmode.toNat else m.toNat

/-! ## Conditions (R41, R119) -/

/-- Condition `n` of every lane; c7 is all ones. -/
def condMask (w : Wave) (n : Nat) : Mask := if n = 7 then BitVec.allOnes 96 else Cells.get 0 w.c n

def condAt (w : Wave) (n lane : Nat) : Bool := decide ((condMask w n).toNat / 2 ^ lane % 2 = 1)

/-- Write a condition in the given lanes; a write to c7 is discarded. -/
def writeCond (n : Nat) (g : Nat → Bool) (lanes : List Nat) (w : Wave) : Wave :=
  if n = 7 then w
  else
    let keep := (Cells.get 0 w.c n) &&& ~~~(BitVec.ofNat 96 (maskOf lanes))
    { w with c := Cells.set 0 w.c n (keep ||| BitVec.ofNat 96 (maskOf (lanes.filter g))) }

def condOf : Operand → Nat
  | .q n => n.toNat % 8
  | _ => 7

/-! ## The waterfall form (R61) -/

/-- Groups of lanes with equal field values, in the order of the lowest lane of each. -/
def groupsOf (val : Nat → Nat) : Nat → List Nat → List (Nat × List Nat)
  | 0, _ => []
  | _ + 1, [] => []
  | n + 1, l :: r =>
    (val l, l :: r.filter (fun k => val k == val l)) :: groupsOf val n (r.filter (fun k => !(val k == val l)))

/-- The instance as it stands in a state, for an issue over some of its lanes. -/
def LaneCtx.over (L : LaneCtx) (s : State) (lanes : List Nat) : LaneCtx :=
  { L with w := (getWave s L.wid).getD L.w, lanes := lanes }

/-- Run issues in order up to the first that stops, which is left with those behind it; the earlier ones stay (R61, R62). -/
def waterfall (issue : Nat → List Nat → State → Res State) :
    List (Nat × List Nat) → State → State × Option (Stop × List (Nat × List Nat))
  | [], s => (s, none)
  | g :: r, s =>
    match issue g.1 g.2 s with
    | .ok t => waterfall issue r t
    | .error e => (s, some (e, g :: r))

/-- The issues still to come of an instance's `.W` instruction change. -/
def setRest (a : Actor) (gs : List (Nat × List Nat)) (w : Wave) : Wave := modInstance a (fun p => { p with rest := gs }) (fun k => k) w

/-- The issues of a `.W` instruction: the field is read once, at the first issue, over all active lanes (R51, R61); in shadow mode the
copies' field values, part of an address, are compared there (R164). -/
def waterGroups (L : LaneCtx) (o : Src) (val : Nat → Nat) : Res (List (Nat × List Nat)) :=
  if L.rest.isEmpty then do
    issueGates L L.lanes [o] []
    .ok (groupsOf val 96 L.lanes)
  else .ok L.rest

/-- Run the issues of a `.W` instruction as far as they go: an issue that faults is precise, its lanes named; one that waits leaves the
rest for a later selection (R61, R62). -/
def waterRun (i : Instr) (L : LaneCtx) (issue : Nat → List Nat → State → Res State) (gs : List (Nat × List Nat)) (s : State) : Res State :=
  match waterfall issue gs s with
  | (t, none) => .ok (modWave t L.wid (fun w => setRest L.actor [] (finishLane i L.actor w)))
  | (t, some (.fault c d m u, g :: _)) => .ok (raiseFault t L.actor c d (some (m.getD (maskOf g.2))) u)
  | (t, some (e, r)) => if r.length = gs.length then .error e else .ok (modWave t L.wid (setRest L.actor r))

end Sys2Proof.Machine
end

