-- ==== Sys2Proof/Machine/LaneArith.lean ====
section
/-! DEFINITION. The lane instructions of spec/05_lane_arithmetic_instructions.md: integer, condition, floating-point, conversion,
palette, cross-lane, reduction, index, descriptor and uniform instructions. -/

namespace Sys2Proof.Machine

/-! ## Elements of a packed type (R15, R80) -/

def elemBits : Nat → Nat
  | 2 => 16 | 3 => 16 | 7 => 16 | 4 => 8 | 5 => 8 | 8 => 2 | 9 => 4 | 10 => 4 | _ => 32

def elemCount (t : Nat) : Nat := 32 / elemBits t

def elemSigned (t : Nat) : Bool := t == 0 || t == 2 || t == 4

/-- Element `k` of a register. -/
def elem (t : Nat) (x : Word) (k : Nat) : Nat := x.toNat / 2 ^ (elemBits t * k) % 2 ^ elemBits t

/-- An element as an integer, signed or unsigned by the type. -/
def elemInt (t : Nat) (x : Word) (k : Nat) : Int :=
  if elemSigned t then sextNat (elem t x k) (elemBits t) else (elem t x k : Nat)

/-- Put elements `k`, `k + 1`, … of a type together, low element first. -/
def packFrom (t k : Nat) (g : Nat → Nat × BitVec 4) : Nat → Nat × BitVec 4
  | 0 => (0, 0)
  | n + 1 =>
    let r := packFrom t (k + 1) g n
    (((g k).1 % 2 ^ elemBits t) * 2 ^ (elemBits t * k) + r.1, (g k).2 ||| r.2)

/-- A register whose element k is `g k`. -/
def packed (t : Nat) (g : Nat → Nat × BitVec 4) : LaneOut :=
  let r := packFrom t 0 g (elemCount t)
  { x := BitVec.ofNat 32 r.1, flags := r.2 }

/-- Replace element `k` of a register. -/
def putElem (t : Nat) (x : Word) (k v : Nat) : Word :=
  let n := elemBits t
  BitVec.ofNat 32 (x.toNat - elem t x k * 2 ^ (n * k) + v % 2 ^ n * 2 ^ (n * k))

/-! ## Shapes -/

/-- Which of A, B and C an instruction reads, with the types their immediates widen by. -/
structure Reads where
  a : Option Nat := none
  b : Option Nat := none
  c : Option Nat := none
  deriving DecidableEq, Repr

def optSrc (o : Operand) (e : Bool) : Option Nat → List Src
  | some t => [⟨o, e, t⟩]
  | none => []

def v3Srcs (r : Reads) (f : V3) : List Src := optSrc f.a f.ea r.a ++ optSrc f.b f.eb r.b ++ optSrc f.c f.ec r.c

/-- What an element computation may use in a lane: its sources, the old destination, and its generator. -/
structure LaneIn where
  lane : Nat
  a : Word
  b : Word
  c : Word
  d : Word
  gen : Word
  deriving DecidableEq, Repr

def laneIn (s : State) (L : LaneCtx) (r : Reads) (f : V3) (lane : Nat) : LaneIn :=
  { lane := lane
    a := srcWord L f.lit ⟨f.a, f.ea, r.a.getD 0⟩ lane
    b := srcWord L f.lit ⟨f.b, f.eb, r.b.getD 0⟩ lane
    c := srcWord L f.lit ⟨f.c, f.ec, r.c.getD 0⟩ lane
    d := match regOf L.w f.d lane with | some n => vVal L.w n lane | none => 0
    gen := laneGenOf s L.w lane }

/-- An instruction that computes D in each lane from the lane's own sources (R119). -/
def laneMap (i : Instr) (f : V3) (r : Reads) (g : LaneCtx → LaneIn → LaneOut) (s : State) : Out :=
  runLane s fun L => do
    gates L L.lanes (v3Srcs r f) [f.d]
    .ok (setWave s L.wid (finishLane i L.actor (putLanes f.d (fun l => g L (laneIn s L r f l)) L.w L.all L.w)))

/-- The same with elements computed one by one by the type T. -/
def elemMap1 (i : Instr) (f : V3) (g : Nat → LaneIn → Nat → Nat × BitVec 4) (s : State) : Out :=
  let t := f.t.toNat
  laneMap i f { a := some t } (fun _ x => packed t (g t x)) s

def elemMap2 (i : Instr) (f : V3) (g : Nat → LaneIn → Nat → Nat × BitVec 4) (s : State) : Out :=
  let t := f.t.toNat
  laneMap i f { a := some t, b := some t } (fun _ x => packed t (g t x)) s

def elemMap3 (i : Instr) (f : V3) (g : Nat → LaneIn → Nat → Nat × BitVec 4) (s : State) : Out :=
  let t := f.t.toNat
  laneMap i f { a := some t, b := some t, c := some t } (fun _ x => packed t (g t x)) s

/-- An integer result that wraps and sets no flag. -/
def wrap (t : Nat) (x : Int) : Nat × BitVec 4 := (intToNat x (elemBits t), 0)

def noFlag (x : Nat) : Nat × BitVec 4 := (x, 0)

/-! ## Integer arithmetic (R123, R124) -/

def execVadd (f : V3) (s : State) : Out := elemMap2 (.vadd f) f (fun t x k => wrap t (elemInt t x.a k + elemInt t x.b k)) s
def execVsub (f : V3) (s : State) : Out := elemMap2 (.vsub f) f (fun t x k => wrap t (elemInt t x.a k - elemInt t x.b k)) s
def execVmul (f : V3) (s : State) : Out := elemMap2 (.vmul f) f (fun t x k => wrap t (elemInt t x.a k * elemInt t x.b k)) s
def execVmulh (f : V3) (s : State) : Out :=
  elemMap2 (.vmulh f) f (fun t x k => wrap t (elemInt t x.a k * elemInt t x.b k / ((2 ^ elemBits t : Nat) : Int))) s
def execVmad (f : V3) (s : State) : Out :=
  elemMap3 (.vmad f) f (fun t x k => wrap t (elemInt t x.a k * elemInt t x.b k + elemInt t x.c k)) s
def execVand (f : V3) (s : State) : Out := elemMap2 (.vand f) f (fun t x k => noFlag (Nat.land (elem t x.a k) (elem t x.b k))) s
def execVor (f : V3) (s : State) : Out := elemMap2 (.vor f) f (fun t x k => noFlag (Nat.lor (elem t x.a k) (elem t x.b k))) s
def execVxor (f : V3) (s : State) : Out := elemMap2 (.vxor f) f (fun t x k => noFlag (Nat.xor (elem t x.a k) (elem t x.b k))) s

/-- The shift count of an element: b[k−1:0] with k = log₂ n. -/
def shiftCount (t : Nat) (x : LaneIn) (k : Nat) : Nat := elem t x.b k % elemBits t

def execVshl (f : V3) (s : State) : Out :=
  elemMap2 (.vshl f) f (fun t x k => noFlag (elem t x.a k * 2 ^ shiftCount t x k % 2 ^ elemBits t)) s
def execVshr (f : V3) (s : State) : Out :=
  elemMap2 (.vshr f) f (fun t x k => noFlag (elem t x.a k / 2 ^ shiftCount t x k)) s
def execVsra (f : V3) (s : State) : Out :=
  elemMap2 (.vsra f) f (fun t x k => wrap t (elemInt t x.a k / ((2 ^ shiftCount t x k : Nat) : Int))) s
def execVmin (f : V3) (s : State) : Out :=
  elemMap2 (.vmin f) f (fun t x k => noFlag (if elemInt t x.a k ≤ elemInt t x.b k then elem t x.a k else elem t x.b k)) s
def execVmax (f : V3) (s : State) : Out :=
  elemMap2 (.vmax f) f (fun t x k => noFlag (if elemInt t x.a k ≤ elemInt t x.b k then elem t x.b k else elem t x.a k)) s
def execVabs (f : V3) (s : State) : Out := elemMap1 (.vabs f) f (fun t x k => wrap t ((elemInt t x.a k).natAbs : Nat)) s
def execVneg (f : V3) (s : State) : Out := elemMap1 (.vneg f) f (fun t x k => wrap t (-(elemInt t x.a k))) s
def execVclz (f : V3) (s : State) : Out := elemMap1 (.vclz f) f (fun t x k => noFlag (clz (elemBits t) (elem t x.a k))) s
def execVpopc (f : V3) (s : State) : Out := elemMap1 (.vpopc f) f (fun t x k => noFlag (popCount (elemBits t) (elem t x.a k))) s
def execVadds (f : V3) (s : State) : Out :=
  elemMap2 (.vadds f) f (fun t x k => satInt (elemSigned t) (elemBits t) (elemInt t x.a k + elemInt t x.b k)) s
def execVsubs (f : V3) (s : State) : Out :=
  elemMap2 (.vsubs f) f (fun t x k => satInt (elemSigned t) (elemBits t) (elemInt t x.a k - elemInt t x.b k)) s

/-- Control word of VBFE and VBFI (R124): position and width. -/
def fieldPos (b : Word) : Nat := b.toNat % 32
def fieldWidth (b : Word) : Nat := min (b.toNat / 256 % 64) (32 - fieldPos b)

def execVbfe (f : V3) (s : State) : Out :=
  laneMap (.vbfe f) f { a := some f.t.toNat, b := some f.t.toNat } (fun _ x =>
    let w := fieldWidth x.b
    let v := x.a.toNat / 2 ^ fieldPos x.b % 2 ^ w
    { x := if w = 0 then 0 else if f.t = 0 then BitVec.ofNat 32 (intToNat (sextNat v w) 32) else BitVec.ofNat 32 v }) s

def execVbfi (f : V3) (s : State) : Out :=
  laneMap (.vbfi f) f { a := some f.t.toNat, b := some f.t.toNat, c := some f.t.toNat } (fun _ x =>
    let w := fieldWidth x.b
    let m : Word := BitVec.ofNat 32 (2 ^ w - 1)
    { x := (x.a &&& ~~~(m <<< fieldPos x.b)) ||| ((x.c &&& m) <<< fieldPos x.b) }) s

/-! ## VDOT4 (R125) -/

def sumProducts (t : Nat) (a b : Word) : Int :=
  elemInt t a 0 * elemInt t b 0 + elemInt t a 1 * elemInt t b 1 + elemInt t a 2 * elemInt t b 2 + elemInt t a 3 * elemInt t b 3

/-- The integer forms: one saturating addition. -/
def dotInt (t : Nat) (x : LaneIn) : LaneOut :=
  let r := satInt true 32 (x.c.toInt + sumProducts t x.a x.b)
  { x := BitVec.ofNat 32 r.1, flags := r.2 }

/-- The BF16 form: two additions; under SR only the second draws, and the first rounds with RNE. -/
def dotBf16 (mode : Nat) (sat : Bool) (x : LaneIn) : LaneOut :=
  let g := genStep x.gen
  let p (k : Nat) : Fp := fpMul (fpOfBf16 (elem 7 x.a k)) (fpOfBf16 (elem 7 x.b k))
  let m0 := if mode = 4 then 0 else mode
  let r0 := roundFp .fp32 m0 0 sat (fpAdd m0 (fpOfFp32 x.c.toNat) (p 0))
  let r1 := roundFp .fp32 mode (drawOf g) sat (fpAdd mode (fpOfFp32 r0.bits) (p 1))
  { x := BitVec.ofNat 32 r1.bits, flags := roundedFlags r0 ||| roundedFlags r1, gen := if mode = 4 then some g else none }

def execVdot4 (f : V3) (s : State) : Out :=
  let t := f.t.toNat
  laneMap (.vdot4 f) f { a := some t, b := some t, c := some (if t = 7 then 6 else 0) } (fun L x =>
    if t = 7 then dotBf16 (modeOf L.w f.m) f.sat x else dotInt t x) s

/-! ## Conditions (R126 to R128) -/

/-- A comparison of R126. -/
def compareInt (m : Nat) (a b : Int) : Bool :=
  match m with
  | 0 => decide (a = b) | 1 => decide (a ≠ b) | 2 => decide (a < b) | 3 => decide (a ≤ b) | 4 => decide (b < a)
  | 5 => decide (b ≤ a) | _ => false

def compareFp (m : Nat) (a b : Fp) : Bool :=
  match m with
  | 0 => fpEq a b | 1 => !(fpEq a b) | 2 => fpLt a b | 3 => fpLt a b || fpEq a b | 4 => fpLt b a
  | 5 => fpLt b a || fpEq a b | 6 => a.isNaN || b.isNaN | _ => false

def compareWords (t m : Nat) (a b : Word) : Bool :=
  if t = 6 then compareFp m (fpOfFp32 a.toNat) (fpOfFp32 b.toNat)
  else if t = 1 then compareInt m (a.toNat : Int) (b.toNat : Int)
  else compareInt m a.toInt b.toInt

def execVcmp (f : V3) (s : State) : Out :=
  runLane s fun L => do
    let r : Reads := { a := some f.t.toNat, b := some f.t.toNat }
    gates L L.lanes (v3Srcs r f) []
    let g (l : Nat) : Bool := let x := laneIn s L r f l; compareWords f.t.toNat f.m.toNat x.a x.b
    .ok (setWave s L.wid (finishLane (.vcmp f) L.actor (writeCond (condOf f.d) g L.all L.w)))

def execVsel (f : V3) (s : State) : Out :=
  laneMap (.vsel f) f { a := some f.t.toNat, b := some f.t.toNat } (fun L x =>
    { x := if condAt L.w (condOf f.c) x.lane then x.a else x.b }) s

/-- The operations of R128. -/
def condOp (m : Nat) (a b : Bool) : Bool :=
  match m with
  | 0 => a && b | 1 => a || b | 2 => a != b | 3 => a && !b | 4 => !a | _ => a

def execClog (f : V3) (s : State) : Out :=
  runLane s fun L =>
    .ok (setWave s L.wid (finishLane (.clog f) L.actor
      (writeCond (condOf f.d) (fun l => condOp f.m.toNat (condAt L.w (condOf f.a) l) (condAt L.w (condOf f.b) l)) L.all L.w)))

/-! ## Floating-point arithmetic (R129, R130) -/

def fmtOf (t : Nat) : FpFmt := if t = 7 then .bf16 else .fp32

def fpElem (t : Nat) (x : Word) (k : Nat) : Fp := fpOf (fmtOf t) (elem t x k)

/-- Round elements in ascending order, each drawing once under SR (R27). -/
def roundElems (t mode : Nat) (sat : Bool) (v : Nat → Fp) (gen : Word) : LaneOut :=
  let g1 := genStep gen
  let g2 := genStep g1
  let r0 := roundFp (fmtOf t) mode (drawOf g1) sat (v 0)
  if t = 7 then
    let r1 := roundFp (fmtOf t) mode (drawOf g2) sat (v 1)
    { x := BitVec.ofNat 32 (r0.bits + r1.bits * 2 ^ 16), flags := roundedFlags r0 ||| roundedFlags r1,
      gen := if mode = 4 then some g2 else none }
  else
    { x := BitVec.ofNat 32 r0.bits, flags := roundedFlags r0, gen := if mode = 4 then some g1 else none }

/-- A rounded element operation of A, B and perhaps C. -/
def fpMap (i : Instr) (f : V3) (useC : Bool) (v : Nat → Fp → Fp → Fp → Fp) (s : State) : Out :=
  let t := f.t.toNat
  laneMap i f { a := some t, b := some t, c := if useC then some t else none } (fun L x =>
    let mode := modeOf L.w f.m
    roundElems t mode f.sat (fun k => v mode (fpElem t x.a k) (fpElem t x.b k) (fpElem t x.c k)) x.gen) s

def execVfadd (f : V3) (s : State) : Out := fpMap (.vfadd f) f false (fun m a b _ => fpAdd m a b) s
def execVfsub (f : V3) (s : State) : Out := fpMap (.vfsub f) f false (fun m a b _ => fpAdd m a (fpNeg b)) s
def execVfmul (f : V3) (s : State) : Out := fpMap (.vfmul f) f false (fun _ a b _ => fpMul a b) s
def execVfma (f : V3) (s : State) : Out := fpMap (.vfma f) f true (fun m a b c => fpAdd m (fpMul a b) c) s

def execVfmin (f : V3) (s : State) : Out :=
  elemMap2 (.vfmin f) f (fun t x k => noFlag (fpMinMax (fmtOf t) false (elem t x.a k) (elem t x.b k))) s
def execVfmax (f : V3) (s : State) : Out :=
  elemMap2 (.vfmax f) f (fun t x k => noFlag (fpMinMax (fmtOf t) true (elem t x.a k) (elem t x.b k))) s

/-! ## Special functions (R38, R39, R131) -/

/-- A special function on one element: FP32 as it is; BF16 through FP32, rounded once to BF16 with RNE (R38). -/
def specialElem (g : Nat → Rounded) (t : Nat) (x : LaneIn) (k : Nat) : Nat × BitVec 4 :=
  if t = 7 then
    let r := g (elem t x.a k * 2 ^ 16)
    let q := roundFp .bf16 0 0 false (fpOfFp32 r.bits)
    (q.bits, roundedFlags r ||| roundedFlags q)
  else rounded (g (elem t x.a k))

def execVrcp (f : V3) (s : State) : Out := elemMap1 (.vrcp f) f (specialElem spRcp) s
def execVrsq (f : V3) (s : State) : Out := elemMap1 (.vrsq f) f (specialElem spRsq) s
def execVexp2 (f : V3) (s : State) : Out := elemMap1 (.vexp2 f) f (specialElem spExp2) s
def execVlog2 (f : V3) (s : State) : Out := elemMap1 (.vlog2 f) f (specialElem spLog2) s
def execVsinp (f : V3) (s : State) : Out := elemMap1 (.vsinp f) f (specialElem spSinp) s
def execVcosp (f : V3) (s : State) : Out := elemMap1 (.vcosp f) f (specialElem spCosp) s
def execVtanh (f : V3) (s : State) : Out := elemMap1 (.vtanh f) f (specialElem spTanh) s

/-! ## Conversion (R132 to R135) -/

/-- One element converted between types of a group (R132): the bits, the flags. -/
def cvtElem (st t mode u : Nat) (a : Word) (k : Nat) : Nat × BitVec 4 :=
  if isFpType st then fpToFormat (elemSigned t) (elemBits t) mode u (fpElem st a k)
  else if isFpType t then rounded (roundFp (fmtOf t) mode u false (fpOfInt (elemInt st a k)))
  else satInt (elemSigned t) (elemBits t) (elemInt st a k)

def execVcvt (f : V3) (s : State) : Out :=
  let t := f.t.toNat
  let st := stypeOf f.c
  laneMap (.vcvt f) f { a := some st } (fun L x =>
    let fp := isFpType t || isFpType st
    let mode := if fp then modeOf L.w f.m else 0
    let g1 := genStep x.gen
    let g2 := genStep g1
    let r := packed t (fun k => cvtElem st t mode (drawOf (if k = 0 then g1 else g2)) x.a k)
    { r with gen := if mode = 4 then some (if elemCount t = 2 then g2 else g1) else none }) s

/-- One element of VPACK (R133); element k of D comes from A's elements first, then B's. -/
def packElem (t st : Nat) (x : LaneIn) (k : Nat) : Nat × BitVec 4 :=
  let h := elemCount st
  let v := if k < h then (x.a, k) else (x.b, k - h)
  if t = 8 then satT2 (sextNat (elem 9 v.1 v.2) 4)
  else if t = 9 then satInt true 4 (elemInt st v.1 v.2)
  else satInt (elemSigned t) (elemBits t) (elemInt st v.1 v.2)

/-- VPACK. An immediate A or B is widened by the source type, as R132 has it for VCVT; the spec states no widening here (log entry 71). -/
def execVpack (f : V3) (s : State) : Out :=
  let t := f.t.toNat
  let st := stypeOf f.c
  laneMap (.vpack f) f { a := some st, b := some st } (fun L x =>
    if t = 7 then
      roundElems 7 (modeOf L.w f.m) f.sat (fun k => fpOfFp32 (if k = 0 then x.a else x.b).toNat) x.gen
    else packed t (packElem t st x)) s

/-- One element of VUNPK (R134). -/
def unpackElem (t st : Nat) (x : LaneIn) (k : Nat) : Nat × BitVec 4 :=
  let part := elemCount t
  let sel := x.b.toNat % (elemCount st / part)
  let j := part * sel + k
  if t = 6 then noFlag (bf16ToFp32 (elem 7 x.a j))
  else if st = 8 then let r := t2Value (elem 8 x.a j); (intToNat r.1 8, r.2)
  else if st = 9 then noFlag (intToNat (sextNat (elem 9 x.a j) 4) 8)
  else wrap t (elemInt st x.a j)

/-- VUNPK. An immediate selector B is widened as `.32` and an immediate A by the source type (log entry 71). -/
def execVunpk (f : V3) (s : State) : Out :=
  let t := f.t.toNat
  let st := stypeOf f.c
  laneMap (.vunpk f) f { a := some st, b := some 0 } (fun _ x => packed t (unpackElem t st x)) s

/-- VQNT writes one element of D (R135). -/
def quantise (t mode : Nat) (x : LaneIn) : LaneOut :=
  let g := genStep x.gen
  let v := fpScale x.b.toInt (fpOfFp32 x.a.toNat)
  let k := x.c.toNat % elemCount t
  let e :=
    if t = 8 then let r := fpToInt mode (drawOf g) (-1) 1 v; (t2Code r.1, r.2)
    else fpToFormat (elemSigned t || t == 9) (elemBits t) mode (drawOf g) v
  { x := putElem t x.d k e.1, flags := e.2, gen := if mode = 4 then some g else none }

def execVqnt (f : V3) (s : State) : Out :=
  laneMap (.vqnt f) f { a := some 6, b := some 0, c := some 0 } (fun L x => quantise f.t.toNat (modeOf L.w f.m) x) s

/-! ## Palettes (R136, R137) -/

/-- An install of this wave still waits in its operand log (R206): tensor n, 64 + code table, 72 + palette. -/
def installPending (w : Wave) (id : Nat) : Bool :=
  w.log.any (fun e => match e.body with
    | .instr (.tdef f) _ => f.t.toNat == id
    | .instr (.ctload f) _ => 64 + f.aux.toNat % 8 == id
    | .instr (.palld f) _ => 72 + f.aux.toNat % 4 == id
    | _ => false)

def emptyPalette : Palette := { entries := [], count := 0, version := 0 }

def paletteOf (s : State) (w : Wave) (n : Nat) : Palette :=
  match ctxRec s w with
  | some (_, c) => (Tbl.find? c.palettes n).getD emptyPalette
  | none => emptyPalette

/-- VPAL in one lane. -/
def palEncode (p : Palette) (t : Nat) (x : LaneIn) : LaneOut :=
  if t = 6 then
    let r := codeFor p x.a.toNat
    { x := putElem 10 x.d (x.b.toNat % 8) r.1, flags := if r.2 then invalidBit else 0 }
  else
    let h := x.b.toNat % 4
    let lo := codeFor p (bf16ToFp32 (elem 7 x.a 0))
    let hi := codeFor p (bf16ToFp32 (elem 7 x.a 1))
    { x := putElem 10 (putElem 10 x.d (2 * h) lo.1) (2 * h + 1) hi.1, flags := if lo.2 || hi.2 then invalidBit else 0 }

/-- VUNPAL in one lane. -/
def palDecode (p : Palette) (t : Nat) (x : LaneIn) : LaneOut :=
  let lo := paletteRead p (x.a.toNat % 16)
  if t = 6 then { x := BitVec.ofNat 32 (bf16ToFp32 lo.1), flags := if lo.2 then invalidBit else 0 }
  else
    let hi := paletteRead p (x.a.toNat / 16 % 16)
    { x := BitVec.ofNat 32 (lo.1 + hi.1 * 2 ^ 16), flags := if lo.2 || hi.2 then invalidBit else 0 }

/-- The value of a uniform field in a lane: all the bits that decide whether it is valid (R62, R83). -/
def uniformValue (L : LaneCtx) (lit : Option (BitVec 32)) (o : Operand) (lane : Nat) : Nat :=
  match o with
  | .q n => (qVal L n.toNat).toNat
  | .imm b => match lit with | some l => l.toNat | none => b.toNat
  | o => match regOf L.w o lane with | some r => (vVal L.w r lane).toNat | none => 0

/-- One issue of a palette instruction with palette number `v` over some lanes. -/
def paletteIssue (i : Instr) (f : V3) (r : Reads) (L : LaneCtx) (g : Palette → LaneIn → LaneOut) (v : Nat) (ls : List Nat)
    (s : State) : Res State := do
  let M := L.over s ls
  ensure (decide (v < 4)) 0x04 (detail04 L.w i 42 true (if f.w then v else 0))
  issueGates M ls (v3Srcs { r with c := none } f) [f.d]
  waitUnless (!(installPending M.w (72 + v)))
  let p := paletteOf s M.w v
  .ok (modWave s L.wid (putLanes f.d (fun l => g p (laneIn s M r f l)) M.w M.all))

/-- A palette instruction: plain, or issued once for each palette number under `.W`. -/
def paletteRun (i : Instr) (f : V3) (r : Reads) (g : Palette → LaneIn → LaneOut) (s : State) : Out :=
  runLane s fun L => do
    if f.w then
      allocCheck L (f.d :: (v3Srcs { r with c := some 0 } f).map (fun x => x.o))
      let gs ← waterGroups L ⟨f.c, f.ec, 0⟩ (uniformValue L f.lit f.c)
      waterRun i L (paletteIssue i f r L g) gs s
    else
      gates L L.lanes (v3Srcs { r with c := some 0 } f) [f.d]
      let t ← paletteIssue i f r L g (uniformValue L f.lit f.c 0) L.lanes s
      .ok (modWave t L.wid (finishLane i L.actor))

/-- VPAL. An immediate element selector B is widened as `.32`, as R135 has it for VQNT (log entry 71). -/
def execVpal (f : V3) (s : State) : Out :=
  paletteRun (.vpal f) f { a := some f.t.toNat, b := some 0 } (fun p x => palEncode p f.t.toNat x) s

def execVunpal (f : V3) (s : State) : Out :=
  paletteRun (.vunpal f) f { a := some f.t.toNat } (fun p x => palDecode p f.t.toNat x) s

/-! ## Moving data between lanes (R138 to R142) -/

def execVmov (f : V3) (s : State) : Out := laneMap (.vmov f) f { a := some f.t.toNat } (fun _ x => { x := x.a }) s

/-- Lanes of a half in shadow mode, all lanes otherwise. -/
def visibleLanes (L : LaneCtx) : Nat := if L.shadow then 48 else 96

/-- The lane a lane reads within its half. -/
def sameHalf (lane j : Nat) (shadow : Bool) : Nat := if shadow && decide (48 ≤ lane) then j + 48 else j

/-- VSHUF. The index check of an indexed A covers the lanes that are named, active or not (log entry 71). -/
def execVshuf (f : V3) (s : State) : Out :=
  runLane s fun L => do
    let rb : Src := ⟨f.b, f.eb, 0⟩
    allocCheck L [f.d, f.a, f.b]
    waitUnless (srcWaitOk L L.lanes rb && dstWaitOk L L.lanes f.d)
    srcCheck L L.lanes rb
    let from' (l : Nat) : Nat := (srcWord L f.lit rb l).toNat
    let js := (bitsSet (maskOf ((L.lanes.map from').filter (fun j => decide (j < visibleLanes L))).dedup) 96)
    waitUnless (srcWaitOk L js ⟨f.a, f.ea, 0⟩)
    srcCheck L js ⟨f.a, f.ea, 0⟩
    dstCheck L L.lanes f.d
    let g (l : Nat) : LaneOut :=
      if from' l < visibleLanes L then { x := srcWord L f.lit ⟨f.a, f.ea, 0⟩ (sameHalf l (from' l) L.shadow) } else { x := 0 }
    .ok (setWave s L.wid (finishLane (.vshuf f) L.actor (putLanes f.d g L.w L.all L.w)))

def execVbcast (f : V3) (s : State) : Out :=
  laneMap (.vbcast f) f { a := some 0 } (fun L x =>
    match L.lanes with
    | [] => { x := 0 }
    | l :: _ => { x := srcWord L f.lit ⟨f.a, f.ea, 0⟩ (sameHalf x.lane l L.shadow) }) s

def execVidx (f : V3) (s : State) : Out :=
  laneMap (.vidx f) f { a := some f.t.toNat, b := some f.t.toNat } (fun L x =>
    let l := if L.shadow && decide (48 ≤ x.lane) then x.lane - 48 else x.lane
    { x := x.a + BitVec.ofNat 32 l * x.b }) s

/-- The ballot of a half: bit of each active lane in which the condition is set. -/
def ballot (L : LaneCtx) (n half : Nat) : Nat := maskOf (L.lanes.filter (fun l => condAt L.w n (l + half)))

def ballotWord (b sel : Nat) : Nat := if sel = 3 then popCount 96 b else b / 2 ^ (32 * sel) % 2 ^ 32

/-- VBALLOT. Where the lanes of B differ, each lane takes the word that its own B selects (log entry 71). -/
def execVballot (f : V3) (s : State) : Out :=
  laneMap (.vballot f) f { b := some 0 } (fun L x =>
    let half := if L.shadow && decide (48 ≤ x.lane) then 48 else 0
    { x := BitVec.ofNat 32 (ballotWord (ballot L (condOf f.a) half) (x.b.toNat % 4)) }) s

/-! ## Reductions (R144 to R147) -/

/-- Combine two 32-bit operands by a reduction; integer sums are kept exact. -/
def combine (m t : Nat) (a b : Int) : Int × BitVec 4 :=
  let pa := intToNat a 32
  let pb := intToNat b 32
  match m with
  | 0 => ((Nat.lor pa pb : Nat), 0)
  | 1 => ((Nat.land pa pb : Nat), 0)
  | 2 => if t = 6 then ((fpMinMax .fp32 false pa pb : Nat), 0) else (min a b, 0)
  | 3 => if t = 6 then ((fpMinMax .fp32 true pa pb : Nat), 0) else (max a b, 0)
  | 4 => if t = 6 then let r := addRNE pa pb; ((r.bits : Nat), roundedFlags r) else (a + b, 0)
  | _ => (a, 0)

/-- A register value as a reduction operand. -/
def reduceIn (t : Nat) (x : Word) : Int := if t = 0 then x.toInt else (x.toNat : Int)

/-- The result when no lane is active (R144). -/
def reduceEmpty (m t : Nat) : Int :=
  match m with
  | 1 => if t = 0 then -1 else (2 ^ 32 : Int) - 1
  | 2 => if t = 6 then 0x7F800000 else if t = 0 then (2 ^ 31 : Int) - 1 else (2 ^ 32 : Int) - 1
  | 3 => if t = 6 then 0xFF800000 else if t = 0 then -(2 ^ 31 : Int) else 0
  | _ => 0

/-- OR and AND of patterns read back as the type reads them. -/
def reread (m t : Nat) (x : Int) : Int := if m < 2 ∧ t = 0 then sextNat (intToNat x 32) 32 else x

/-- The running result over a list of operands, and the flags. -/
def reduceFrom (m t : Nat) : List Int → Int → Int × BitVec 4
  | [], acc => (acc, 0)
  | x :: r, acc =>
    let c := combine m t acc x
    let y := reduceFrom m t r (reread m t c.1)
    (y.1, c.2 ||| y.2)

/-- The lowest lane's operand as the running result: where `.MIN`, `.MAX` or `.ADD` delivers an FP32 NaN, it is the canonical one (R19). -/
def reduceStart (m t : Nat) (x : Int) : Int :=
  if t = 6 ∧ 2 ≤ m ∧ m ≤ 4 ∧ (fpOfFp32 (intToNat x 32)).isNaN = true then (canonicalNaN .fp32 : Nat) else x

def reduceAll (m t : Nat) : List Int → Int × BitVec 4
  | [] => (reduceEmpty m t, 0)
  | x :: r => reduceFrom m t r (reduceStart m t x)

/-- The operands of a half of the lanes. -/
def reduceOps (L : LaneCtx) (f : V3) (half : Nat) : List Int :=
  L.lanes.map (fun l => reduceIn f.t.toNat (srcWord L f.lit ⟨f.a, f.ea, f.t.toNat⟩ (l + half)))

/-- The 64-bit value of VTOS and VTOQ; in shadow mode the halves are compared (R145, R278). -/
def reduced (L : LaneCtx) (f : V3) : Res (Dword × BitVec 4) := do
  let r := reduceAll f.m.toNat f.t.toNat (reduceOps L f 0)
  let x := intToNat r.1 64
  if L.shadow then
    let y := intToNat (reduceAll f.m.toNat f.t.toNat (reduceOps L f 48)).1 64
    ensure (x == y) 0x15 (x + y * 2 ^ 64)
  .ok (BitVec.ofNat 64 x, r.2)

def execVtos (f : V3) (s : State) : Out :=
  runLane s fun L => do
    waitUnless (decide (L.w.returnQueue.length < 8))
    gates L L.lanes [⟨f.a, f.ea, f.t.toNat⟩] []
    let r ← reduced L f
    .ok (setWave s L.wid (finishLane (.vtos f) L.actor
      (setFlags r.2 { L.w with returnQueue := L.w.returnQueue ++ [r.1] })))

def execVtoq (f : V3) (s : State) : Out :=
  runLane s fun L => do
    gates L L.lanes [⟨f.a, f.ea, f.t.toNat⟩] [f.d]
    let r ← reduced L f
    let n := match f.d with | .q n => n.toNat | _ => 0
    .ok (setWave s L.wid (finishLane (.vtoq f) L.actor (setFlags r.2 (writeQ L n r.1 L.w))))

/-- The running results of a scan, in lane order. -/
def scanFrom (m t : Nat) : List Int → Int → List (Int × BitVec 4)
  | [], _ => []
  | x :: r, acc => let c := combine m t acc x; (reread m t c.1, c.2) :: scanFrom m t r (reread m t c.1)

def scanAll (m t : Nat) : List Int → List (Int × BitVec 4)
  | [] => []
  | x :: r => (reduceStart m t x, 0) :: scanFrom m t r (reduceStart m t x)

def execVscan (f : V3) (s : State) : Out :=
  laneMap (.vscan f) f { a := some f.t.toNat } (fun L x =>
    let half := if L.shadow && decide (48 ≤ x.lane) then 48 else 0
    let r := (scanAll f.m.toNat f.t.toNat (reduceOps L f half)).getD (L.lanes.idxOf (x.lane - half)) (0, 0)
    { x := BitVec.ofNat 32 (intToNat r.1 32), flags := r.2 }) s

/-! ## Index, descriptor and uniform instructions (R148 to R151) -/

/-- Write an ix register in each lane. -/
def writeIx (n : Nat) (g : Nat → Half) : List Nat → Wave → Wave
  | [], w => w
  | l :: r, w => writeIx n g r { w with ix := Cells.set 0 w.ix (n * 96 + l) (g l) }

def execIxset (f : V3) (s : State) : Out :=
  runLane s fun L => do
    gates L L.lanes [⟨f.a, f.ea, 0⟩] []
    .ok (setWave s L.wid (finishLane (.ixset f) L.actor
      (writeIx (smallOf f.d) (fun l => (srcWord L f.lit ⟨f.a, f.ea, 0⟩ l).truncate 16) L.all L.w)))

def execAdset (f : V3) (s : State) : Out :=
  runLane s fun L => do
    gates L L.lanes [⟨f.a, f.ea, 0⟩, ⟨f.b, f.eb, 0⟩] []
    let base := (srcDword L f.a).toNat
    let len := (srcDword L f.b).toNat
    ensure (decide (base ≤ 255)) 0x06 base
    ensure (decide (len ≤ 256)) 0x06 len
    ensure (decide (base + len ≤ L.alloc)) 0x06 (base + len)
    .ok (setWave s L.wid (finishLane (.adset f) L.actor
      { L.w with ad := Cells.set 0 L.w.ad (smallOf f.d) (BitVec.ofNat 64 (base + len * 256)) }))

/-- A q instruction computes once for the path (R150). -/
def qMap (i : Instr) (f : V3) (two : Bool) (g : Dword → Dword → Dword) (s : State) : Out :=
  runLane s fun L => do
    gates L [] (if two then [⟨f.a, f.ea, 0⟩, ⟨f.b, f.eb, 0⟩] else [⟨f.a, f.ea, 0⟩]) [f.d]
    let n := match f.d with | .q n => n.toNat | _ => 0
    .ok (setWave s L.wid (finishLane i L.actor (writeQ L n (g (srcDword L f.a) (srcDword L f.b)) L.w)))

def execQmov (f : V3) (s : State) : Out := qMap (.qmov f) f false (fun a _ => a) s
def execQadd (f : V3) (s : State) : Out := qMap (.qadd f) f true (fun a b => a + b) s
def execQsub (f : V3) (s : State) : Out := qMap (.qsub f) f true (fun a b => a - b) s
def execQand (f : V3) (s : State) : Out := qMap (.qand f) f true (fun a b => a &&& b) s
def execQor (f : V3) (s : State) : Out := qMap (.qor f) f true (fun a b => a ||| b) s
def execQxor (f : V3) (s : State) : Out := qMap (.qxor f) f true (fun a b => a ^^^ b) s
def execQshl (f : V3) (s : State) : Out := qMap (.qshl f) f true (fun a b => a <<< (b.toNat % 64)) s
def execQshr (f : V3) (s : State) : Out := qMap (.qshr f) f true (fun a b => a >>> (b.toNat % 64)) s

def execQli (f : V3) (s : State) : Out :=
  qMap (.qli f) f false (fun _ _ => ((f.lit.getD 0).signExtend 64)) s

end Sys2Proof.Machine
end

