-- ==== Sys2Proof/Machine/Control.lean ====
section
/-! DEFINITION. The control-stream instructions of spec/04_control_stream_instructions.md: integer, literal, memory, branch,
lane-interface and special-register instructions. -/

namespace Sys2Proof.Machine

/-! ## Shapes -/

/-- The result of an instruction goes to d and the stream moves on (R97). -/
def writeBack (i : Instr) (s : State) (wid : Nat) (w : Wave) (d : Nat) (v : Dword) : State :=
  setWave s wid (finishControl i (writeS d v w))

/-- `dst(d) := g(src(a), src(b))` (R97, R99). -/
def alu3 (i : Instr) (f : C3) (g : Dword → Dword → Dword) (s : State) : Out :=
  runControl s fun wid w => do
    readyS w [(f.a.toNat, f.ea), (f.b.toNat, f.eb)] [f.d.toNat]
    let a ← srcS w f.a.toNat f.ea
    let b ← srcS w f.b.toNat f.eb
    .ok (writeBack i s wid w f.d.toNat (g a b))

/-- `dst(d) := g(src(a))`. -/
def alu2 (i : Instr) (f : C3) (g : Dword → Dword) (s : State) : Out :=
  runControl s fun wid w => do
    readyS w [(f.a.toNat, f.ea)] [f.d.toNat]
    let a ← srcS w f.a.toNat f.ea
    .ok (writeBack i s wid w f.d.toNat (g a))

/-- `dst(d) := g(src(a), imm7)` (R101). -/
def aluI (i : Instr) (f : CI) (g : Dword → BitVec 7 → Dword) (s : State) : Out :=
  runControl s fun wid w => do
    readyS w [(f.a.toNat, f.ea)] [f.d.toNat]
    let a ← srcS w f.a.toNat f.ea
    .ok (writeBack i s wid w f.d.toNat (g a f.imm))

def bool64 (b : Bool) : Dword := if b then 1 else 0

/-- sext(imm7, 64) (R72). -/
def imm7 (x : BitVec 7) : Dword := x.signExtend 64

/-! ## Register–register integer instructions (R99, R100) -/

def divS (a b : Dword) : Dword := if b = 0 then BitVec.allOnes 64 else BitVec.ofInt 64 (a.toInt.tdiv b.toInt)
def divU (a b : Dword) : Dword := if b = 0 then BitVec.allOnes 64 else BitVec.ofNat 64 (a.toNat / b.toNat)
def remS (a b : Dword) : Dword := if b = 0 then a else BitVec.ofInt 64 (a.toInt - a.toInt.tdiv b.toInt * b.toInt)
def remU (a b : Dword) : Dword := if b = 0 then a else BitVec.ofNat 64 (a.toNat % b.toNat)
def mulHighS (a b : Dword) : Dword := BitVec.ofInt 64 (a.toInt * b.toInt / (2 ^ 64 : Int))
def mulHighU (a b : Dword) : Dword := BitVec.ofNat 64 (a.toNat * b.toNat / 2 ^ 64)

def execSadd (f : C3) (s : State) : Out := alu3 (.sadd f) f (fun a b => a + b) s
def execSsub (f : C3) (s : State) : Out := alu3 (.ssub f) f (fun a b => a - b) s
def execSmul (f : C3) (s : State) : Out := alu3 (.smul f) f (fun a b => a * b) s
def execSmulhs (f : C3) (s : State) : Out := alu3 (.smulhs f) f mulHighS s
def execSmulhu (f : C3) (s : State) : Out := alu3 (.smulhu f) f mulHighU s
def execSdivs (f : C3) (s : State) : Out := alu3 (.sdivs f) f divS s
def execSdivu (f : C3) (s : State) : Out := alu3 (.sdivu f) f divU s
def execSrems (f : C3) (s : State) : Out := alu3 (.srems f) f remS s
def execSremu (f : C3) (s : State) : Out := alu3 (.sremu f) f remU s
def execSand (f : C3) (s : State) : Out := alu3 (.sand f) f (fun a b => a &&& b) s
def execSor (f : C3) (s : State) : Out := alu3 (.sor f) f (fun a b => a ||| b) s
def execSxor (f : C3) (s : State) : Out := alu3 (.sxor f) f (fun a b => a ^^^ b) s
def execSandn (f : C3) (s : State) : Out := alu3 (.sandn f) f (fun a b => a &&& ~~~b) s
def execSshl (f : C3) (s : State) : Out := alu3 (.sshl f) f (fun a b => a <<< (b.toNat % 64)) s
def execSshr (f : C3) (s : State) : Out := alu3 (.sshr f) f (fun a b => a >>> (b.toNat % 64)) s
def execSsra (f : C3) (s : State) : Out := alu3 (.ssra f) f (fun a b => a.sshiftRight (b.toNat % 64)) s
def execSmins (f : C3) (s : State) : Out := alu3 (.smins f) f (fun a b => if a.toInt ≤ b.toInt then a else b) s
def execSmaxs (f : C3) (s : State) : Out := alu3 (.smaxs f) f (fun a b => if a.toInt ≤ b.toInt then b else a) s
def execSminu (f : C3) (s : State) : Out := alu3 (.sminu f) f (fun a b => if a.toNat ≤ b.toNat then a else b) s
def execSmaxu (f : C3) (s : State) : Out := alu3 (.smaxu f) f (fun a b => if a.toNat ≤ b.toNat then b else a) s
def execSslts (f : C3) (s : State) : Out := alu3 (.sslts f) f (fun a b => bool64 (decide (a.toInt < b.toInt))) s
def execSsltu (f : C3) (s : State) : Out := alu3 (.ssltu f) f (fun a b => bool64 (decide (a.toNat < b.toNat))) s
def execSseq (f : C3) (s : State) : Out := alu3 (.sseq f) f (fun a b => bool64 (decide (a = b))) s
def execSclz (f : C3) (s : State) : Out := alu2 (.sclz f) f (fun a => BitVec.ofNat 64 (clz 64 a.toNat)) s
def execSpopc (f : C3) (s : State) : Out := alu2 (.spopc f) f (fun a => BitVec.ofNat 64 (popCount 64 a.toNat)) s

/-! ## Immediate and extension instructions (R101, R102) -/

/-- sext(a[n−1:0], 64) and zext(a[n−1:0], 64). -/
def extS (n : Nat) (a : Dword) : Dword := BitVec.ofInt 64 (sextNat a.toNat n)
def extU (n : Nat) (a : Dword) : Dword := BitVec.ofNat 64 (a.toNat % 2 ^ n)

def execSext (f : CI) (s : State) : Out := aluI (.sext f) f (fun a k => extS k.toNat a) s
def execZext (f : CI) (s : State) : Out := aluI (.zext f) f (fun a k => extU k.toNat a) s
def execSaddi (f : CI) (s : State) : Out := aluI (.saddi f) f (fun a k => a + imm7 k) s
def execSandi (f : CI) (s : State) : Out := aluI (.sandi f) f (fun a k => a &&& imm7 k) s
def execSori (f : CI) (s : State) : Out := aluI (.sori f) f (fun a k => a ||| imm7 k) s
def execSxori (f : CI) (s : State) : Out := aluI (.sxori f) f (fun a k => a ^^^ imm7 k) s
def execSshli (f : CI) (s : State) : Out := aluI (.sshli f) f (fun a k => a <<< k.toNat) s
def execSshri (f : CI) (s : State) : Out := aluI (.sshri f) f (fun a k => a >>> k.toNat) s
def execSsrai (f : CI) (s : State) : Out := aluI (.ssrai f) f (fun a k => a.sshiftRight k.toNat) s
def execSslti (f : CI) (s : State) : Out := aluI (.sslti f) f (fun a k => bool64 (decide (a.toInt < k.toInt))) s

/-! ## Literal instructions (R103) -/

def execSli (f : CL) (s : State) : Out :=
  runControl s fun wid w => do
    readyS w [] [f.d.toNat]
    .ok (writeBack (.sli f) s wid w f.d.toNat (f.lit.signExtend 64))

def execSlih (f : CL) (s : State) : Out :=
  runControl s fun wid w => do
    readyS w [(f.a.toNat, f.ea)] [f.d.toNat]
    let a ← srcS w f.a.toNat f.ea
    .ok (writeBack (.slih f) s wid w f.d.toNat ((f.lit.zeroExtend 64 <<< 32) ||| (a.truncate 32).zeroExtend 64))

def execSaddl (f : CL) (s : State) : Out :=
  runControl s fun wid w => do
    readyS w [(f.a.toNat, f.ea)] [f.d.toNat]
    let a ← srcS w f.a.toNat f.ea
    .ok (writeBack (.saddl f) s wid w f.d.toNat (a + f.lit.signExtend 64))

/-- SLEA: lit32[31:29] is the shift, lit32[28:0] the signed displacement. -/
def execSlea (f : CL) (s : State) : Out :=
  runControl s fun wid w => do
    readyS w [(f.a.toNat, f.ea), (f.b.toNat, f.eb)] [f.d.toNat]
    let a ← srcS w f.a.toNat f.ea
    let b ← srcS w f.b.toNat f.eb
    .ok (writeBack (.slea f) s wid w f.d.toNat
      (a + (b <<< (f.lit.toNat / 2 ^ 29)) + BitVec.ofInt 64 (sextNat f.lit.toNat 29)))

/-! ## Scalar memory instructions (R104 to R108) -/

/-- Bytes of a width code (R73, R79). -/
def widthBytes (w : Nat) : Nat := 2 ^ w

/-- Mark the destination of an issued producer empty (R50). -/
def emptyDest (a : Access) (w : Wave) : Wave :=
  match a.dest with
  | .sreg n => emptyS n w
  | _ => w

/-- Issue a control-stream access to where its address leads; a page that is not present logs it (R106, R327). -/
def issueScalar (i : Instr) (s : State) (wid : Nat) (w : Wave) (a : Access) (addr : Nat) (write : Bool) (r : Reach) :
    Res State :=
  match r with
  | .at p => do
    waitUnless (!(logBlocks s w addr a.width))
    let a := { a with lanes := a.lanes.map (fun l => { l with place := p }) }
    .ok (setWave s wid (finishControl i (emptyDest a (nextSeq (issueAccess a w)))))
  | .absent e =>
    let t := setWave s wid (finishControl i (emptyDest a (nextSeq (logEntry (.access a) (.control wid) (standing s (.control wid)) addr e w))))
    .ok (pageFault t (.control wid) (standing s (.control wid)) addr write none)

/-- The access of a CM instruction. -/
def scalarAccess (f : CM) (wid : Nat) (w : Wave) (kind : AccessKind) (dest : Dest) (addr data cmp : Nat) : Access :=
  { kind := kind, actor := .control wid, pc := w.pc.toNat, block := 0, seq := w.seq, width := widthBytes f.width.toNat,
    dest := dest, scope := f.scope.toNat, order := f.order.toNat, hint := f.hint.toNat, after := syncsBefore w (.control wid),
    lanes := [{ lane := 0, addr := addr, reg := 0, data := data, cmp := cmp }] }

/-- The destination of a returning instruction; s63 returns nothing (R42, R106). -/
def sDest (d : BitVec 6) : Dest := if d = 63 then .none else .sreg d.toNat

def cmAddr (a : Dword) (f : CM) : Nat := (a + f.disp.signExtend 64).toNat

def execSld (f : CM) (s : State) : Out :=
  runControl s fun wid w => do
    readyS w [(f.a.toNat, f.ea)] [f.d.toNat]
    memReady w
    let a ← srcS w f.a.toNat f.ea
    let addr := cmAddr a f
    let r ← reachControl s w .read addr (widthBytes f.width.toNat)
    issueScalar (.sld f) s wid w (scalarAccess f wid w (.load f.sx) (.sreg f.d.toNat) addr 0 0) addr false r

def execSst (f : CM) (s : State) : Out :=
  runControl s fun wid w => do
    readyS w [(f.a.toNat, f.ea), (f.b.toNat, f.eb)] []
    memReady w
    let a ← srcS w f.a.toNat f.ea
    let b ← srcS w f.b.toNat f.eb
    let addr := cmAddr a f
    let r ← reachControl s w .write addr (widthBytes f.width.toNat)
    issueScalar (.sst f) s wid w (scalarAccess f wid w .store .none addr b.toNat 0) addr true r

def execSatom (f : CM) (s : State) : Out :=
  runControl s fun wid w => do
    readyS w [(f.a.toNat, f.ea), (f.b.toNat, f.eb)] [f.d.toNat]
    memReady w
    let a ← srcS w f.a.toNat f.ea
    let b ← srcS w f.b.toNat f.eb
    let addr := cmAddr a f
    let r ← reachControl s w .atomic addr (widthBytes f.width.toNat)
    issueScalar (.satom f) s wid w
      (scalarAccess f wid w (.atomic (atomicOf f.aop.toNat)) (sDest f.d) addr b.toNat 0) addr true r

/-- SCAS reads the new value from d, which has no e bit. -/
def execScas (f : CM) (s : State) : Out :=
  runControl s fun wid w => do
    readyS w [(f.a.toNat, f.ea), (f.b.toNat, f.eb), (f.d.toNat, false)] [f.d.toNat]
    memReady w
    let a ← srcS w f.a.toNat f.ea
    let b ← srcS w f.b.toNat f.eb
    let addr := cmAddr a f
    let r ← reachControl s w .atomic addr (widthBytes f.width.toNat)
    issueScalar (.scas f) s wid w
      (scalarAccess f wid w (.atomic .cas) (sDest f.d) addr (sVal w f.d.toNat).toNat b.toNat) addr true r

/-- A line moves toward L1: the core's copy becomes what L2 holds (R162, R290). -/
def fillL1 (s : State) (wid : Nat) (p : Place) : State :=
  match p with
  | .glob a c =>
    let k := getCore s (coreOf wid)
    setCore s (coreOf wid) ((List.range 4).foldl (fun k i => noteL1Sector s (a / 128 * 4 + i) (sectorDiff s (a / 128 * 4 + i)) k)
      { k with l1 := Tbl.put k.l1 (a / 128) (readBase s (.glob (a / 128 * 128) c) 128) })
  | _ => s

/-- A line moves toward L2, as the hint says, and on to L1. -/
def prefetchLine (s : State) (wid hint : Nat) (p : Place) : State :=
  match p with
  | .glob a cls => fillL1 (loadL2 s (clusterOf wid) (a / 128) hint cls 15) wid p
  | _ => s

/-- A prefetch that would fail a check is dropped (R105). -/
def prefetchAt (s : State) (wid : Nat) (w : Wave) (hint addr : Nat) : State :=
  let hint := pageHint s w addr hint
  if addr / 2 ^ 56 % 256 ≠ 0 ∨ hint = 3 then s
  else
    match ctxRec s w with
    | some (_, x) =>
      (match translate s x .read (addr % 2 ^ 56) with
       | .to p => prefetchLine s wid hint p
       | _ => s)
    | none => s

def execSprf (f : CM) (s : State) : Out :=
  runControl s fun wid w => do
    readyS w [(f.a.toNat, f.ea)] []
    let a ← srcS w f.a.toNat f.ea
    .ok (modWave (prefetchAt s wid w f.hint.toNat (cmAddr a f)) wid (finishControl (.sprf f)))

/-! ## Branches and calls (R109 to R112) -/

/-- The target of a CJ instruction. -/
def cjTarget (w : Wave) (f : CJ) : Dword := w.pc + BitVec.ofInt 64 (f.off.toInt * 4)

def execB (f : CJ) (s : State) : Out :=
  runControl s fun wid w => .ok (setWave s wid (jumpControl (cjTarget w f) w))

def execCall (f : CJ) (s : State) : Out :=
  runControl s fun wid w => do
    dstS w 62
    .ok (setWave s wid (jumpControl (cjTarget w f) (writeS 62 (w.pc + 4) w)))

/-- JR and RET: a target that is not a multiple of 4 raises 0x08 (R67, R110). -/
def jumpTo (f : C3) (s : State) : Out :=
  runControl s fun wid w => do
    readyS w [(f.a.toNat, f.ea)] []
    let a ← srcS w f.a.toNat f.ea
    ensure (decide (a.toNat % 4 = 0)) 0x08 (addrDetail a.toNat false false)
    .ok (setWave s wid (jumpControl a w))

def execRet (f : C3) (s : State) : Out := jumpTo f s

def execJr (f : C3) (s : State) : Out := jumpTo f s

/-- CB branches (R111). -/
def branch (i : Instr) (f : CB) (c : Dword → Dword → Bool) (s : State) : Out :=
  runControl s fun wid w => do
    readyS w [(f.a.toNat, f.ea), (f.b.toNat, f.eb)] []
    let a ← srcS w f.a.toNat f.ea
    let b ← srcS w f.b.toNat f.eb
    .ok (setWave s wid (if c a b then jumpControl (w.pc + f.off.signExtend 64) w else finishControl i w))

def execBeq (f : CB) (s : State) : Out := branch (.beq f) f (fun a b => decide (a = b)) s
def execBne (f : CB) (s : State) : Out := branch (.bne f) f (fun a b => decide (a ≠ b)) s
def execBlts (f : CB) (s : State) : Out := branch (.blts f) f (fun a b => decide (a.toInt < b.toInt)) s
def execBges (f : CB) (s : State) : Out := branch (.bges f) f (fun a b => decide (b.toInt ≤ a.toInt)) s
def execBltu (f : CB) (s : State) : Out := branch (.bltu f) f (fun a b => decide (a.toNat < b.toNat)) s
def execBgeu (f : CB) (s : State) : Out := branch (.bgeu f) f (fun a b => decide (b.toNat ≤ a.toNat)) s

def execLoop (f : CB) (s : State) : Out :=
  runControl s fun wid w => do
    readyS w [(f.a.toNat, f.ea)] [f.a.toNat]
    let a ← srcS w f.a.toNat f.ea
    let w' := writeS f.a.toNat (a - 1) w
    .ok (setWave s wid (if a - 1 ≠ 0 then jumpControl (w.pc + f.off.signExtend 64) w' else finishControl (.loop f) w'))

/-! ## The lane interface (R113 to R116) -/

/-- What LANE captures of a source: its value, or its producer when it is empty (R53). -/
def captureS (w : Wave) (n : Nat) : Capture := if sFull w n then .val (sVal w n) else .await n

def execLane (f : CQ) (s : State) : Out :=
  runControl s fun wid w => do
    waitUnless (decide (w.laneQueue.length < 8))
    let a ← if f.e then (srcS w f.a.toNat true).map Capture.val else .ok (captureS w f.a.toNat)
    let b ← if f.e then (srcS w f.b.toNat true).map Capture.val else .ok (captureS w f.b.toNat)
    let c ← if f.e then (srcS w f.c.toNat true).map Capture.val else .ok (captureS w f.c.toNat)
    .ok (setWave s wid (finishControl (.lane f)
      { w with laneQueue := w.laneQueue ++ [{ off := f.off.toNat, srcs := [a, b, c], syncs := syncsBefore w (.control wid), seq := w.seq }] }))

/-- An actor of the lane stream. -/
def isLaneActor : Actor → Bool
  | .path _ _ => true
  | .cont _ _ => true
  | _ => false

/-- LWAIT's condition (R115): the lane queue is empty and no lane instruction is in the operand log. -/
def lwaitDone (w : Wave) : Bool := w.laneQueue.isEmpty && w.log.all (fun e => !(isLaneActor e.actor))

/-- LWAIT completes at once when its condition holds; otherwise the control stream waits at it (R115). -/
def execLwait (f : C3) (s : State) : Out :=
  runControl s fun wid w =>
    .ok (setWave s wid (if lwaitDone w then finishControl (.lwait f) (joinBlocks w) else { w with ctl := .lwait }))

def execRecv (f : C3) (s : State) : Out :=
  runControl s fun wid w => do
    waitUnless (decide (w.recvs.length < 8))
    dstS w f.d.toNat
    .ok (setWave s wid (finishControl (.recv f) (emptyS f.d.toNat { w with recvs := w.recvs ++ [f.d.toNat] })))

/-! ## Special registers (R63 to R65, R117, R118) -/

/-- Unacknowledged stores at scope `c` (R65, R315): buffered and logged ones of scope `c` or wider not performed at `c`, the
encoder's tiles at DEVICE (R199), and engine writes not yet acknowledged at SYSTEM (R237). -/
def logWrites (e : LogEntry) : Option Nat :=
  match e.body with
  | .access a => if returning a then none else some a.scope
  | .tile r => if r.op = .store ∧ r.t.kind = 0 then some 4 else none
  | .instr _ _ => none

def countsAt (c : Nat) (b : BufStore) : Bool :=
  (match b.place with
   | .glob _ _ => decide (c ≤ b.scope)
   | .remote _ _ => c == 5 || decide (c ≤ b.scope)
   | _ => false) && decide (b.perf < c)

/-- The request a buffered store belongs to: its instruction and its line (R299). -/
def requestOf (b : BufStore) : Nat × Place :=
  (b.seq / seqStride, match b.place with
    | .glob a _ => .glob (a / 128) 0
    | .remote q a => .remote q (a / 128)
    | p => p)

/-- How many requests the stores of a list make. -/
def requestCount : List BufStore → Nat
  | [] => 0
  | b :: r => if r.any (fun c => decide (requestOf c = requestOf b)) then requestCount r else requestCount r + 1

def unack (s : State) (w : Wave) (c : Nat) : Nat :=
  requestCount (w.stores.filter (countsAt c))
    + (w.log.filter (fun e => match logWrites e with | some sc => decide (c ≤ sc) | none => false)).length
    + (if c ≤ 4 then w.encoderPending else remoteCopies s w)

/-- A multicast copy that has been injected whole: complete for `MWAIT`, though its members still answer (R237, R423). -/
def itemRead (e : EngineItem) : Bool :=
  match e.op with
  | .cpmc _ _ _ _ _ => e.injected
  | _ => false

/-- BATCHST (R64): bit n is set while batch n is pending. -/
def batchPending (w : Wave) (n : Nat) : Bool := w.engine.any (fun e => e.batch == some n && !(itemRead e))

/-- The accumulator tile that an operation adds to. -/
def opTile : EngineOp → Option Nat
  | .mlut tile _ _ _ _ _ _ _ _ _ => some tile
  | _ => none

/-- A pending batch of the team accumulates into the tile: an operation of it is still to be executed, or has been while others of its
batch have not (R171, R289). -/
def pendingInto (s : State) (team tile : Nat) : Bool :=
  s.waves.any (fun p => p.2.team == team &&
    (p.2.engine.any (fun e => e.batch.isSome && opTile e.op == some tile)
      || p.2.doneTiles.any (fun d => d.2 == tile && (match d.1 with | some n => batchPending p.2 n | none => false))))

def batchBits (w : Wave) : Nat → Nat
  | 0 => 0
  | n + 1 => batchBits w n + (if batchPending w n then 2 ^ n else 0)

/-- Time left of a launch in µs (R65 HBWIN). -/
def timeLeft (l : Launch) : Nat := if flagPersistent l then l.hbLeft else l.e.timeLimit - l.elapsed

/-- The value a special register reads (R64); `none` for a number not listed. -/
def special (s : State) (wid : Nat) (w : Wave) (num : Nat) : Option Nat :=
  match launchOf s w, getTeam s w.team with
  | some (_, l), some t =>
    (match num with
     | 0x000 => some wid
     | 0x001 => some t.index
     | 0x002 => some l.e.teams
     | 0x003 => some l.e.args
     | 0x004 => some (coreOf wid)
     | 0x005 => some s.clock
     | 0x006 => some s.timebase
     | 0x007 => some w.w
     | 0x008 => some l.e.waves
     | 0x009 => some (regAlloc l)
     | 0x00A => some t.spadSize
     | 0x00B => some l.qentry
     | 0x00C => some l.e.seed
     | 0x00D => some (l.e.flags % 32)
     | 0x010 => some w.satf.toNat
     | 0x011 => some w.satarm.toNat
     | 0x012 => some w.engGen.toNat
     | 0x013 => some w.rmode.toNat
     | 0x020 => some w.sigc.toNat
     | 0x030 => some (w.highWater * 256 + max 1 w.paths.length)
     | 0x031 => some w.shunted
     | 0x032 => some (w.laneQueue.length + w.returnQueue.length * 256)
     | 0x040 => some (batchBits w 16)
     | 0x041 => some (min (unack s w 1) 1023 + min (unack s w 2) 1023 * 2 ^ 10 + min (unack s w 3) 1023 * 2 ^ 20
                      + min (unack s w 4) 1023 * 2 ^ 30 + min (unack s w 5) 1023 * 2 ^ 40)
     | 0x042 => some w.asyncerr.toNat
     | 0x050 => some (timeLeft l * 2 ^ 32 + (if flagPersistent l then l.e.hbWindow else 0))
     | 0x051 => some (if flagPersistent l then 0 else l.e.timeLimit)
     | _ => none)
  | _, _ => none

/-- The registers SWS may write (R64). -/
def specialWritable (num : Nat) : Bool := num == 0x010 || num == 0x011 || num == 0x013 || num == 0x042

/-- The write of a special register (R65). -/
def writeSpecial (num : Nat) (v : Dword) (w : Wave) : Wave :=
  match num with
  | 0x010 => { w with satf := v.truncate 4 }
  | 0x011 => { w with satarm := v.truncate 4 }
  | 0x013 => { w with rmode := v.truncate 3 }
  | 0x042 => { w with asyncerr := if v.truncate 8 = (0 : BitVec 8) then 0 else v.truncate 32 }
  | _ => w

def execSrs (f : CS) (s : State) : Out :=
  runControl s fun wid w => do
    let v ← orStop (special s wid w f.num.toNat)
      (.fault 0x04 (detail04 w (.srs f) 18 false f.num.toNat) none none)
    dstS w f.r.toNat
    .ok (writeBack (.srs f) s wid w f.r.toNat (BitVec.ofNat 64 v))

/-- SWS: RMODE, SATF and SATARM wait as LWAIT does (R118); a reserved RMODE value raises 0x04 (R23). -/
def execSws (f : CS) (s : State) : Out :=
  runControl s fun wid w => do
    ensure (special s wid w f.num.toNat).isSome 0x04 (detail04 w (.sws f) 18 false f.num.toNat)
    ensure (specialWritable f.num.toNat) 0x0B f.num.toNat
    waitUnless (f.num.toNat == 0x042 || lwaitDone w)
    readyS w [(f.r.toNat, f.ea)] []
    let v ← srcS w f.r.toNat f.ea
    ensure (f.num.toNat != 0x013 || decide (v.toNat < 5)) 0x04 (detail04 w (.sws f) 12 true v.toNat)
    .ok (setWave s wid (finishControl (.sws f) (writeSpecial f.num.toNat v w)))

end Sys2Proof.Machine
end

