-- ==== Sys2Proof/Machine/Ranges.lean ====
section
/-! DEFINITION. Reading a run of bytes as the operand of an instruction or of an engine (R105, R194, R206, R240, R396, R411). -/

namespace Sys2Proof.Machine

/-- Why a run of bytes cannot be read. -/
inductive RangeStop where
  /-- a page that is not present, with the entry at which the walk stopped -/
  | absent (addr entry : Nat)
  | denied (addr : Nat)
  | poisoned (addr : Nat) (source : PoisonFrom)
  /-- the line of a peer package is not held (R411) -/
  | remote (pkg addr : Nat)
  /-- an aperture or offset that the reader may not name -/
  | outside (addr : Nat)
  /-- peers hold the line that is to be written (R413) -/
  | peers (line : Nat)
  | wait
  deriving DecidableEq, Repr

abbrev Ranged := Except RangeStop

/-- The copy of a peer's line that may serve a read (R411, R412). -/
def heldCopy (s : State) (pkg addr : Nat) : Option (List Byte × Bool) :=
  if lineBusy s pkg addr then none else Tbl.find? s.fabric.copies (pkg * 2 ^ 48 + addr / 128 * 128)

/-- Bytes of one line of a place, as wave `wid` reads them at DEVICE scope (R313). -/
def readLine (s : State) (wid seq addr n : Nat) (p : Place) : Ranged (List Byte) :=
  match p with
  | .remote q b =>
    (match heldCopy s q b with
     | some (_, true) => .error (.poisoned addr (poisonFrom s p n))
     | some (_, false) => .ok (readAs s wid seq p n)
     | none => .error (.remote q b))
  | _ =>
    if placePoisoned s p n then .error (.poisoned addr (poisonFrom s p n))
    else if narrowMeets s wid p n then .error .wait
    else .ok (readAs s wid seq p n)

/-- Bytes within one line of a generic address. -/
def readPiece (s : State) (w : Wave) (wid : Nat) (x : Context) (addr n : Nat) : Ranged (List Byte) :=
  let off := addr % 2 ^ 56
  match addr / 2 ^ 56 % 256 with
  | 0 =>
    (match translate s x .read off with
     | .absent e => .error (.absent addr e)
     | .denied => .error (.denied addr)
     | .poisoned e => .error (.poisoned addr (memoryPoison s e 8))
     | .copyFirst => .error .wait
     | .to p => readLine s wid w.seq addr n p)
  | 1 => if off + n ≤ spadSizeOf s w then readLine s wid w.seq addr n (.spad w.team off) else .error (.outside addr)
  | _ => .error (.outside addr)

/-- `n` bytes from a generic address, line by line. -/
def readRun (s : State) (w : Wave) (wid : Nat) (x : Context) : Nat → Nat → Nat → Ranged (List Byte)
  | 0, _, _ => .ok []
  | fuel + 1, addr, n =>
    if n = 0 then .ok []
    else
      let k := min n (128 - addr % 128)
      match readPiece s w wid x addr k with
      | .error e => .error e
      | .ok bs =>
        match readRun s w wid x fuel (addr + k) (n - k) with
        | .error e => .error e
        | .ok r => .ok (bs ++ r)

/-- `n` bytes from a generic address. -/
def readRange (s : State) (w : Wave) (wid : Nat) (x : Context) (addr n : Nat) : Ranged (List Byte) :=
  readRun s w wid x (n / 128 + 2) addr n

/-- The stop of an instruction for a run it cannot read, other than a page that is not present (R105, R194). -/
def rangeStop (e : RangeStop) (mask : Option Nat) : Stop :=
  match e with
  | .denied a => .fault 0x0B (addrDetail a false false) mask none
  | .poisoned a f => .fault 0x17 (poisonDetail a false f.own) mask f.unit
  | .outside a => .fault 0x09 (addrDetail a false false) mask none
  | .remote q a => .request q a
  | .peers l => .evict l
  | _ => .wait

/-! ## The weight buffer (R205) -/

def weightBytes : Nat := 2 ^ 21

/-- Bytes of the weight buffer of a wave's cluster; its poison is kept per 32-byte sector (R240). -/
def readWeights (s : State) (wid off n : Nat) : Ranged (List Byte) :=
  let c := getCluster s (clusterOf wid)
  if heldPoisoned c.wbPoison c.wbChecks (off / 32) (sectorCount off n) then
    .error (.poisoned off (poisonHeld (anySector c.wbPoison (off / 32) (sectorCount off n))))
  else .ok (cellsRead 0 c.wb off n)

end Sys2Proof.Machine
end

