-- ==== Sys2Proof/Machine/Denup.lean ====
section
/-! DEFINITION. Denup streams (spec/07_denup_streams.md): code tables (R186 to R189), the block index (R180, R181), decoding
(R183 to R192), and the encoder's scale and stream (R195 to R197). -/

namespace Sys2Proof.Machine

/-! ## Code tables (R187 to R189) -/

/-- A nibble of a code-table image: symbol `k`. -/
def imageSymbol (img : List Byte) (k : Nat) : Nat := (img.getD (13 + k / 2) 0).toNat / 16 ^ (k % 2) % 16

/-- The running Kraft sum first exceeds 4,096 at this length. -/
def kraftOver (img : List Byte) : Nat → Nat → Nat → Option Nat
  | 0, _, _ => none
  | n + 1, j, sum =>
    let sum := sum + (img.getD j 0).toNat * 2 ^ (12 - j)
    if 4096 < sum then some j else kraftOver img n (j + 1) sum

/-- The byte that holds the second occurrence of a symbol among the first `n`. -/
def repeatedSymbol (img : List Byte) : List Nat → List Nat → Option Nat
  | [], _ => none
  | k :: r, seen =>
    if seen.contains (imageSymbol img k) then some (13 + k / 2) else repeatedSymbol img r (imageSymbol img k :: seen)

/-- The first byte found wrong in a code-table image (R188). -/
def codeImageBad (img : List Byte) : Option Nat :=
  let count := (img.getD 0 0).toNat
  if count = 0 ∨ 16 < count then some 0
  else if ((img.drop 1).take 12).foldl (fun a b => a + b.toNat) 0 ≠ count then some 12
  else
    match kraftOver img 12 1 0, repeatedSymbol img (List.range count) [],
        ((List.range 16).filter (fun k => decide (count ≤ k) && imageSymbol img k != 0)).head?,
        ((List.range 32).filter (fun k => decide (21 ≤ k) && img.getD k 0 != 0)).head? with
    | some j, _, _, _ => some j
    | none, some j, _, _ => some j
    | none, none, some k, _ => some (13 + k / 2)
    | none, none, none, some k => some k
    | none, none, none, none => none

/-- The table an image describes. -/
def codeTableOf (img : List Byte) : CodeTable :=
  let count := (img.getD 0 0).toNat
  { count := count, lengths := ((img.drop 1).take 12).map (fun b => b.toNat),
    symbols := (List.range count).map (imageSymbol img) }

def emptyCodeTable : CodeTable := { count := 0, lengths := [], symbols := [] }

/-- The codewords of `m` symbols of one length, from `code` up (R189). -/
def codesOfLength (len : Nat) : Nat → Nat → List Nat → List (Nat × Nat × Nat)
  | 0, _, _ => []
  | _ + 1, _, [] => []
  | m + 1, code, sym :: r => (len, code, sym) :: codesOfLength len m (code + 1) r

/-- Canonical assignment: (length, codeword, symbol), shortest first (R189). -/
def assignCodes : List Nat → Nat → Nat → List Nat → List (Nat × Nat × Nat)
  | [], _, _, _ => []
  | m :: r, len, code, syms =>
    codesOfLength len m code syms ++ assignCodes r (len + 1) ((code + m) * 2) (syms.drop m)

def codewords (t : CodeTable) : List (Nat × Nat × Nat) := assignCodes t.lengths 1 0 t.symbols

/-! ## Decoding (R180 to R185, R190 to R192) -/

/-- A decode fault: reason and bit offset (R192). -/
structure DecodeFail where
  reason : Nat
  bit : Nat
  deriving DecidableEq, Repr

/-- The class of a block-index entry (R181). -/
inductive EntryClass where
  | zeroTile
  | stream (raw : Bool) (length offset : Nat)
  | invalid
  deriving DecidableEq, Repr

def entryClass (e : Nat) : EntryClass :=
  let len := bitsOf e 59 36
  if bitsOf e 63 62 ≠ 0 then .invalid
  else if bitsOf e 60 60 = 1 then (if bitsOf e 61 61 = 0 ∧ bitsOf e 59 0 = 0 then .zeroTile else .invalid)
  else if len = 0 then .invalid
  else .stream (bitsOf e 61 61 == 1) len (bitsOf e 35 0)

/-- Bit `p` of a stream: from bit 7 of a byte down (R183). -/
def streamBit (bs : List Byte) (p : Nat) : Nat := (bs.getD (p / 8) 0).toNat / 2 ^ (7 - p % 8) % 2

/-- `n` bits from offset `p`, the first the most significant. -/
def streamBits (bs : List Byte) (p : Nat) : Nat → Nat
  | 0 => 0
  | n + 1 => streamBit bs p * 2 ^ n + streamBits bs (p + 1) n

/-- No fault of R192: the order of R191 has come to bits that could not be read. -/
def unread : DecodeFail := ⟨8, 0⟩

/-- Read one prefix code from bit `p`; `q` is its first bit; `avail` bits could be read. -/
def readCode (ws : List (Nat × Nat × Nat)) (bs : List Byte) (avail len q : Nat) : Nat → Nat → Nat → Nat → Except DecodeFail (Nat × Nat)
  | 0, _, _, _ => .error ⟨0, q⟩
  | fuel + 1, p, n, w =>
    if len ≤ p then .error ⟨1, q⟩
    else if avail ≤ p then .error unread
    else
      let w := w * 2 + streamBit bs p
      let n := n + 1
      match ws.find? (fun c => c.1 == n && c.2.1 == w) with
      | some c => .ok (c.2.2, p + 1)
      | none =>
        if ws.any (fun c => decide (n < c.1) && c.2.1 / 2 ^ (c.1 - n) == w) then readCode ws bs avail len q fuel (p + 1) n w
        else .error ⟨0, q⟩

/-- What the stream holds next: a scale byte, or a code. -/
def tileOrder (kk nn l : Nat) : List Bool :=
  if l = 0 then List.replicate (kk * nn) false
  else (List.replicate (nn * (kk / l)) (true :: List.replicate l false)).flatten

/-- Decode the items of a tile from bit `p` (R191). -/
def decodeItems (t2 raw : Bool) (ws : List (Nat × Nat × Nat)) (bs : List Byte) (avail len : Nat) :
    List Bool → Nat → List Nat → List Nat → Except DecodeFail (Nat × List Nat × List Nat)
  | [], p, cs, es => .ok (p, cs.reverse, es.reverse)
  | true :: r, p, cs, es =>
    if len < p + 8 then .error ⟨1, p⟩
    else if avail < p + 8 then .error unread
    else
      let b := streamBits bs p 8
      if b = 0xFF then .error ⟨3, p⟩ else decodeItems t2 raw ws bs avail len r (p + 8) cs (b :: es)
  | false :: r, p, cs, es =>
    let got : Except DecodeFail (Nat × Nat) :=
      if raw then (if len < p + 4 then .error ⟨1, p⟩ else if avail < p + 4 then .error unread else .ok (streamBits bs p 4, p + 4))
      else readCode ws bs avail len p 12 p 0 0
    match got with
    | .error e => .error e
    | .ok (sym, q) =>
      if t2 && decide (3 ≤ sym) then .error ⟨6, p⟩ else decodeItems t2 raw ws bs avail len r q (sym :: cs) es

/-- The first set padding bit (R185). -/
def paddingBad (bs : List Byte) (len : Nat) : Option Nat :=
  ((List.range (roundUp len 128 - len)).map (fun i => len + i)).find? (fun x => streamBit bs x == 1)

/-- Element code of a symbol (R190). -/
def symbolCode (t2 : Bool) (s : Nat) : Nat := if t2 then (if s = 2 then 3 else s) else s

/-- Decode a whole stream of a tile with extents `kk` and `nn` (R191); `bs` is as much of it as could be read. -/
def decodeStream (t2 raw : Bool) (ct : CodeTable) (bs : List Byte) (len kk nn l : Nat) : Except DecodeFail TileData :=
  let avail := 8 * bs.length
  match decodeItems t2 raw (codewords ct) bs avail len (tileOrder kk nn l) 0 [] [] with
  | .error e => .error e
  | .ok (p, cs, es) =>
    if p < len then .error ⟨2, p⟩
    else
      match paddingBad bs len with
      | some x => .error ⟨4, x⟩
      | none => if avail < roundUp len 128 then .error unread else .ok { zero := false, codes := cs.map (symbolCode t2), scales := es }

/-! ## Encoding (R195 to R197) -/

/-- The largest magnitude of a palette's usable entries (R195). -/
def paletteMax (p : Palette) : Fp :=
  (p.entries.take p.count).foldl (fun m e =>
    let v := fpOfBf16 (e.toNat % 2 ^ 15)
    if v.isNaN then m else if fpLt m v then v else m) (.fin false 0 0)

/-- The largest magnitude among values given as FP32 patterns, NaNs ignored. -/
def valueMax (xs : List Nat) : Fp :=
  xs.foldl (fun m x =>
    let v := fpOfFp32 (x % 2 ^ 31)
    if v.isNaN then m else if fpLt m v then v else m) (.fin false 0 0)

/-- The smallest byte from `b` up for which X × 2^−(b − 127 + s) ≤ M. -/
def scaleFrom (x m : Fp) (base : Int) : Nat → Nat → Option Nat
  | 0, _ => none
  | n + 1, b => if fpLt m (fpScale (-((b : Int) - 127 + base)) x) then scaleFrom x m base n (b + 1) else some b

/-- The scale byte of a block and whether it was clamped (R195). -/
def chooseScale (x m : Fp) (base : Int) : Nat × Bool :=
  match scaleFrom x m base 255 0 with
  | some b => (b, false)
  | none => (0xFE, true)

/-- y = x × 2^−(b − 127 + s) as an FP32 pattern (R196). -/
def scaledDown (x b : Nat) (base : Int) : Nat := (scaleRNE x (-((b : Int) - 127 + base))).bits

/-- A staged block of 16 values, with the SATF bits it sets (R195, R196). -/
def stageBlock (p : Palette) (base : Int) (xs : List Nat) : StagedBlock × BitVec 4 :=
  let c := chooseScale (valueMax xs) (paletteMax p) base
  let ys := xs.map (fun x => codeFor p (scaledDown x c.1 base))
  ({ scale := c.1, syms := ys.map (fun y => y.1) },
   (if c.2 then satBit else 0) ||| (if ys.any (fun y => y.2) then invalidBit else 0))

/-- A number as `n` bits, most significant first. -/
def msbBits (x : Nat) : Nat → List Nat
  | 0 => []
  | n + 1 => x / 2 ^ n % 2 :: msbBits x n

/-- The bits of one block: its scale byte, then its symbols. -/
def blockBits (ws : Option (List (Nat × Nat × Nat))) (b : StagedBlock) : List Nat :=
  msbBits b.scale 8 ++ b.syms.flatMap (fun s =>
    match ws with
    | none => msbBits s 4
    | some ws => match ws.find? (fun c => c.2.2 == s) with | some c => msbBits c.2.1 c.1 | none => [])

/-- Bytes of a list of bits, the first bit in bit 7. -/
def bytesOfBits : Nat → List Nat → List Byte
  | 0, _ => []
  | n + 1, bs =>
    BitVec.ofNat 8 ((bs.take 8).foldl (fun a b => 2 * a + b) 0 * 2 ^ (8 - min 8 bs.length)) :: bytesOfBits n (bs.drop 8)

/-- The stream of a complete tile: raw flag, length in bits, padded bytes (R197). -/
def formStream (ct : Option CodeTable) (blocks : List StagedBlock) : Bool × Nat × List Byte :=
  let ws := ct.map codewords
  let usable : Bool := match ws with
    | none => false
    | some ws => blocks.all (fun b => b.syms.all (fun s => ws.any (fun c => c.2.2 == s)))
  let bits := blocks.flatMap (blockBits (if usable then ws else none))
  (!usable, bits.length, bytesOfBits (roundUp bits.length 128 / 8) bits)

end Sys2Proof.Machine
end

