-- ==== Sys2Proof/Machine/Tensors.lean ====
section
/-! DEFINITION. Tensors: where elements lie (R166, R204, R205), their values (R14, R20, R21, R167), and tiles as the lane load path
and the matrix unit fetch them (R182, R191, R194). -/

namespace Sys2Proof.Machine

/-- A tensor-table entry. -/
def tensorOf (s : State) (w : Wave) (id : Nat) : Option Tensor :=
  match ctxRec s w with
  | some (_, c) => Tbl.find? c.tensors id
  | none => none

def codeTableAt (s : State) (w : Wave) (n : Nat) : CodeTable :=
  match ctxRec s w with
  | some (_, c) => (Tbl.find? c.codeTables n).getD emptyCodeTable
  | none => emptyCodeTable

/-! ## Fetching tiles -/

/-- Why a tile cannot be had. -/
inductive TileStop where
  | range (e : RangeStop)
  | decode (f : DecodeFail)
  deriving DecidableEq, Repr

/-- Detail of fault 0x0D (R192). -/
def decodeDetail (f : DecodeFail) (tid tr tc site : Nat) : Nat :=
  f.bit % 2 ^ 24 + f.reason * 2 ^ 24 + site * 2 ^ 27 + tid % 64 * 2 ^ 32 + tr % 2 ^ 32 * 2 ^ 64 + tc % 2 ^ 32 * 2 ^ 96

/-- Bytes of a stream tensor's storage: the weight buffer (kind 2) or global memory (kind 5). -/
def readStream (s : State) (w : Wave) (wid : Nat) (x : Context) (t : Tensor) (addr n : Nat) : Ranged (List Byte) :=
  if t.kind = 2 then readWeights s wid addr n
  else if addr / 2 ^ 56 % 256 ≠ 0 then .error (.outside addr)
  else readRange s w wid x addr n

/-- As many of `n` bytes of a stream as can be read, in order, and why the next cannot (R193, R194). -/
def streamPrefix (s : State) (w : Wave) (wid : Nat) (x : Context) (t : Tensor) : Nat → Nat → Nat → List Byte × Option RangeStop
  | 0, _, _ => ([], none)
  | fuel + 1, addr, n =>
    if n = 0 then ([], none)
    else
      let k := min n (32 - addr % 32)
      match readStream s w wid x t addr k with
      | .error e => ([], some e)
      | .ok bs =>
        let r := streamPrefix s w wid x t fuel (addr + k) (n - k)
        (bs ++ r.1, r.2)

/-- Decode one tile of a stream tensor (R191): what stops the reading counts only where the decode comes to it. -/
def fetchStream (s : State) (w : Wave) (wid : Nat) (x : Context) (t : Tensor) (ct : CodeTable) (tr tc : Nat) :
    Except TileStop TileData :=
  match readStream s w wid x t (indexEntryAt t tr tc) 8 with
  | .error e => .error (.range e)
  | .ok eb =>
    match entryClass (natOfBytes eb) with
    | .invalid => .error (.decode ⟨5, 0⟩)
    | .zeroTile => .ok { zero := true, codes := [], scales := [] }
    | .stream raw len off =>
      let start := t.base + 16 * off
      let n := roundUp len 128 / 8
      if t.kind = 2 ∧ weightBytes < start + n then .error (.decode ⟨5, 0⟩)
      else if raw = false ∧ t.codeTable = 0xFF then .error (.decode ⟨5, 0⟩)
      else
        let r := streamPrefix s w wid x t (n / 32 + 2) start n
        match decodeStream (t.fmt == 1) raw ct r.1 len (tileK t) (tileN t) t.blockLen with
        | .error f => .error (if f = unread then .range (r.2.getD .wait) else .decode f)
        | .ok d => .ok d

/-- One element of a kind 0 or 1 tensor: its code. -/
def readElem (s : State) (w : Wave) (wid : Nat) (x : Context) (t : Tensor) (row col : Nat) : Ranged Nat :=
  let p := elemAt t row col
  match readRange s w wid x p.1 (elemBytes t) with
  | .error e => .error e
  | .ok bs => .ok (natOfBytes bs / 2 ^ p.2 % 2 ^ fmtBits t.fmt)

/-- The scale byte of an element of a kind 0 or 1 tensor; 0x7F + nothing where it is unscaled. -/
def readScale (s : State) (w : Wave) (wid : Nat) (x : Context) (t : Tensor) (row col : Nat) : Ranged Nat :=
  match readRange s w wid x (scaleAt t row col) 1 with
  | .error e => .error e
  | .ok bs => .ok (natOfBytes bs)

/-- Collect values, stopping at the first that cannot be read. -/
def collect {α β : Type} (f : α → Ranged β) : List α → Ranged (List β)
  | [] => .ok []
  | a :: r =>
    match f a with
    | .error e => .error e
    | .ok b => match collect f r with | .error e => .error e | .ok bs => .ok (b :: bs)

/-- (k, n) of every code in the order n × K + k, as (r, c) of the tile. -/
def codeCells (t : Tensor) : List (Nat × Nat) :=
  (List.range (tileElems t)).map (fun i =>
    let k := i % tileK t
    let n := i / tileK t
    if t.kaxis = 0 then (k, n) else (n, k))

/-- The cells that start the scale blocks, in block order. -/
def blockCells (t : Tensor) : List (Nat × Nat) :=
  if t.blockLen = 0 then []
  else (List.range (tileN t * (tileK t / t.blockLen))).map (fun b =>
    let k := b % (tileK t / t.blockLen) * t.blockLen
    let n := b / (tileK t / t.blockLen)
    if t.kaxis = 0 then (k, n) else (n, k))

/-- A whole tile of a kind 0 or 1 tensor, with the scale byte of each element (R205, R217). -/
def fetchPlain (s : State) (w : Wave) (wid : Nat) (x : Context) (t : Tensor) (tr tc : Nat) : Except TileStop TileData :=
  match collect (fun p => readElem s w wid x t (tr * t.trows + p.1) (tc * t.tcols + p.2)) (codeCells t) with
  | .error e => .error (.range e)
  | .ok cs =>
    match collect (fun p => readScale s w wid x t (tr * t.trows + p.1) (tc * t.tcols + p.2)) (if t.blockLen = 0 then [] else codeCells t) with
    | .error e => .error (.range e)
    | .ok es => .ok { zero := false, codes := cs, scales := es, each := true }

/-- The scale byte of element (r, c) of a fetched tile. -/
def tileScale (t : Tensor) (d : TileData) (r c : Nat) : Nat := d.scales.getD (if d.each then codeIndex t r c else blockIndex t r c) 0

/-- A whole tile. -/
def fetchTile (s : State) (w : Wave) (wid : Nat) (x : Context) (t : Tensor) (ct : CodeTable) (tr tc : Nat) :
    Except TileStop TileData :=
  if denupKind t.kind then fetchStream s w wid x t ct tr tc else fetchPlain s w wid x t tr tc

/-! ## Values (R14, R16, R20, R21, R36, R167) -/

/-- The exact value of a coded element, with the SATF bits of reading it; T2 code 0b10 reads 0. -/
def codedValue (t : Tensor) (p : Palette) (code : Nat) : Fp × BitVec 4 :=
  match t.fmt with
  | 1 => let v := t2Value code; (fpOfInt v.1, v.2)
  | 2 => (fpOfInt (sextNat code 4), 0)
  | _ => let v := paletteRead p code; (fpOfBf16 v.1, if v.2 then invalidBit else 0)

/-- The value of an element of a scaled tensor as an FP32 pattern (R36, R167). -/
def scaledValue (t : Tensor) (p : Palette) (code scale : Nat) : Nat × BitVec 4 :=
  if scale = 0xFF then (canonicalNaN .fp32, invalidBit)
  else
    let v := codedValue t p code
    let r := roundFp .fp32 0 0 false (fpScale ((scale : Int) - 127 + t.scaleBase) v.1)
    (r.bits, v.2 ||| roundedFlags r)

/-- An element's value as mode VAL delivers it (R165, R167). -/
def elementValue (t : Tensor) (p : Palette) (code scale : Nat) : Nat × BitVec 4 :=
  if t.blockLen ≠ 0 then scaledValue t p code scale
  else
    match t.fmt with
    | 1 => let v := t2Value code; (intToNat v.1 32, v.2)
    | 2 => (intToNat (sextNat code 4) 32, 0)
    | 3 => let v := paletteRead p code; (bf16ToFp32 v.1, if v.2 then invalidBit else 0)
    | 4 => (intToNat (sextNat code 8) 32, 0)
    | 6 => (intToNat (sextNat code 16) 32, 0)
    | 0x0A => (bf16ToFp32 code, 0)
    | _ => (code, 0)

/-- A value narrowed to a tensor's format (R168). -/
def narrowValue (t : Tensor) (p : Palette) (x : Nat) : Nat × BitVec 4 :=
  match t.fmt with
  | 1 => satT2 (sextNat x 32)
  | 2 => satInt true 4 (sextNat x 32)
  | 3 => let c := codeFor p x; (c.1, if c.2 then invalidBit else 0)
  | 4 => satInt true 8 (sextNat x 32)
  | 6 => satInt true 16 (sextNat x 32)
  | 5 => satInt false 8 (x : Int)
  | 0x0C => satInt false 8 (x : Int)
  | 7 => satInt false 16 (x : Int)
  | 0x0A => rounded (roundFp .bf16 0 0 false (fpOfFp32 x))
  | _ => (x, 0)

/-- Codes in one register under mode PACKED (R165). -/
def packedCount (t : Tensor) : Nat := if t.fmt = 1 then 16 else 8

/-- Put codes together, the first in the least significant bits. -/
def packCodes (bits : Nat) : List Nat → Nat
  | [] => 0
  | c :: r => c % 2 ^ bits + 2 ^ bits * packCodes bits r

/-- Detail of fault 0x11 for a tensor that an instruction names (R324). -/
def tensorDetail (tid extra : Nat) : Nat := tid % 64 + extra * 2 ^ 64

/-- Detail of fault 0x12: the offending quantity, and the tensor, slot or tile named (R324). -/
def rangeDetail (q named : Nat) : Nat := q % 2 ^ 64 + named * 2 ^ 64

end Sys2Proof.Machine
end

