-- ==== Sys2Proof/Machine/Images.lean ====
section
/-! DEFINITION. Control-stream instructions that read memory as an operand: how the read is made, logged and replayed (R105,
R106, R206, R328, R330), and the tables such reads install: tensor descriptors (R204 to R206), code tables (R209) and
palettes (R210). -/

namespace Sys2Proof.Machine

/-! ## Reading an image -/

/-- An image in memory, or the page that is not present. -/
inductive Image where
  | bytes (bs : List Byte)
  | absent (addr entry : Nat)
  deriving DecidableEq, Repr

/-- Read `n` bytes at an address of the global or scratchpad aperture: aperture, alignment, translation (R105, R206). -/
def readImage (s : State) (wid : Nat) (w : Wave) (addr align n : Nat) : Res Image := do
  let r ← reachControl s w .read addr align
  waitUnless (!(logBlocks s w addr n))
  let cx ← ctxRes s w
  match r with
  | .absent e => .ok (.absent addr e)
  | .at _ =>
    match readRange s w wid cx.2 addr n with
    | .ok bs => .ok (.bytes bs)
    | .error (.absent a e) => .ok (.absent a e)
    | .error e => .error (rangeStop e none)

/-- The effect of an instruction whose operands are captured: a state and the value for its destination, or the page that
it waits for (R328, R330). -/
inductive Applied where
  | done (t : State) (d : Option Dword)
  | absent (addr entry : Nat)
  deriving DecidableEq, Repr

/-- Continue with the bytes of an image. -/
def withImage (s : State) (wid : Nat) (w : Wave) (addr align n : Nat) (k : List Byte → Res Applied) : Res Applied := do
  match ← readImage s wid w addr align n with
  | .bytes bs => k bs
  | .absent a e => .ok (.absent a e)

/-- Complete an instruction, or log it with its destination empty (R106, R327). -/
def finishApplied (i : Instr) (s : State) (wid : Nat) (w : Wave) (d : Option Nat) (srcs : List Dword) (r : Applied) : State :=
  match r with
  | .done t v =>
    modWave t wid (fun w => finishControl i (match d, v with | some n, some x => writeS n x w | _, _ => w))
  | .absent a e =>
    let w := logEntry (.instr i srcs) (.control wid) (standing s (.control wid)) a e w
    let w := match d with | some n => emptyS n w | none => w
    pageFault (setWave s wid (finishControl i (nextSeq w))) (.control wid) (standing s (.control wid)) a false none

/-- Read the register fields an instruction uses. -/
def srcUsed (w : Wave) (use : Bool) (n : BitVec 6) (e : Bool) : Res Dword := if use then srcS w n.toNat e else .ok 0

/-- The sources of a CE instruction, after none of them has to be waited for (R51, R273). -/
def ceSources (w : Wave) (f : CE) (a b c : Bool) (dsts : List Nat) : Res (Dword × Dword × Dword) := do
  readyS w ((if a then [(f.a.toNat, f.ea)] else []) ++ (if b then [(f.b.toNat, f.eb)] else [])
    ++ (if c then [(f.c.toNat, f.ec)] else [])) dsts
  let x ← srcUsed w a f.a f.ea
  let y ← srcUsed w b f.b f.eb
  let z ← srcUsed w c f.c f.ec
  .ok (x, y, z)

/-! ## Tensor descriptors (R204 to R206) -/

/-- A descriptor's fields as they stand in its 64 bytes. -/
def descriptor (bs : List Byte) (addr : Nat) : Tensor :=
  let n := fun i k => natOfBytes ((bs.drop i).take k)
  { base := n 0 8, index := n 8 8, rows := n 16 4, cols := n 20 4, stride := n 24 8, fmt := n 32 1, kind := n 33 1,
    trows := n 34 1, tcols := n 35 1, blockLen := n 36 1, scaleBase := sextNat (n 37 1) 8, codeTable := n 38 1,
    palette := n 39 1, kaxis := n 40 1, addr := addr }

/-- Tile rows or columns that a kind allows (R204). -/
def tileExtentOk (kind v : Nat) : Bool :=
  match kind with
  | 2 => v == 16 || v == 32 || v == 64
  | 5 => v == 16 || v == 32 || v == 64
  | 3 => v == 16
  | _ => decide (1 ≤ v ∧ v ≤ 64)

/-- The conditions of R206 in ascending order of the byte each reports at. A condition that needs a field whose own check
fails is skipped. -/
def descriptorChecks (t : Tensor) : List (Nat × Bool) :=
  let kindOk := decide (t.kind ≤ 5)
  let trOk := !kindOk || tileExtentOk t.kind t.trows
  let tcOk := !kindOk || tileExtentOk t.kind t.tcols
  let fmtOk := decide (fmtBits t.fmt ≠ 0) && (!kindOk || !(denupKind t.kind) || codedFmt t.fmt)
  let axesOk := decide (t.kaxis < 2)
  let rowsOk := decide (1 ≤ t.rows ∧ t.rows < 2 ^ 31) && (!trOk || decide (t.rows % max 1 t.trows = 0))
  let colsOk := decide (1 ≤ t.cols ∧ t.cols < 2 ^ 31) && (!tcOk || decide (t.cols % max 1 t.tcols = 0))
  let plain := decide (t.kind < 2)
  let lOk := (t.blockLen == 0 || t.blockLen == 16 || t.blockLen == 32) && (t.blockLen == 0 || !fmtOk || codedFmt t.fmt)
    && (t.blockLen == 0 || !kindOk || !(denupKind t.kind) || !axesOk || !trOk || !tcOk || decide (tileK t % t.blockLen = 0))
  let tiles := (t.rows / max 1 t.trows) * (t.cols / max 1 t.tcols)
  let indexOk :=
    if !kindOk then true
    else if t.kind = 5 then decide (t.index % 8 = 0)
    else if t.kind = 2 then
      decide (t.index % 8 = 0) && (!(rowsOk && colsOk && trOk && tcOk) || decide (t.index + 8 * tiles ≤ 2 ^ 21))
    else if plain then
      !lOk || (if t.blockLen = 0 then t.index == 0
               else t.index / 2 ^ 56 == (if t.kind = 0 then t.base / 2 ^ 56 else 1))
    else t.index == 0
  let strideOk :=
    if !kindOk then true
    else if plain then
      decide (t.stride % 4 = 0) && (!(fmtOk && colsOk) || decide (ceilDiv (t.cols * fmtBits t.fmt) 8 ≤ t.stride))
    else t.kind == 5 || t.stride == 0
  [(0, !kindOk || (if t.kind = 2 then decide (t.base < 2 ^ 21) && decide (t.base % 16 = 0) else if t.kind = 5 then decide (t.base % 16 = 0) else true)),
   (8, indexOk), (16, rowsOk), (20, colsOk), (24, strideOk), (32, fmtOk), (33, kindOk), (34, trOk), (35, tcOk), (36, lOk),
   (38, decide (t.codeTable < 8) || t.codeTable == 0xFF),
   (39, (decide (t.palette < 4) || t.palette == 0xFF) && (!fmtOk || t.fmt != 3 || t.palette != 0xFF)),
   (40, axesOk)]

/-- The byte at which the first failing check reports (R206). -/
def descriptorBad (bs : List Byte) (t : Tensor) : Option Nat :=
  match (descriptorChecks t).find? (fun c => !c.2) with
  | some c => some c.1
  | none => ((List.range 64).filter (fun k => decide (41 ≤ k) && bs.getD k 0 != 0)).head?

/-- The entry a descriptor installs, or the detail of fault 0x11 (R206, R324). -/
def checkDescriptor (bs : List Byte) (tid addr : Nat) : Except Nat Tensor :=
  let t := descriptor bs addr
  match descriptorBad bs t with
  | none => .ok t
  | some k =>
    .error (tid % 64 + k * 2 ^ 8 + 2 ^ 16 + (if k = 32 ∧ fmtBits t.fmt = 0 then t.fmt * 2 ^ 24 else 0) + addr % 2 ^ 64 * 2 ^ 64)

/-- Install a descriptor in a context. -/
def installTensor (s : State) (c tid addr : Nat) (bs : List Byte) : Res State :=
  match checkDescriptor bs tid addr with
  | .ok t => .ok (modCtx s c (fun x => { x with tensors := Tbl.put x.tensors tid t }))
  | .error d => raises 0x11 d

/-- Install a code table (R188, R189, R209). -/
def installCode (s : State) (c n : Nat) (bs : List Byte) : Res State :=
  match codeImageBad bs with
  | none => .ok (modCtx s c (fun x => { x with codeTables := Tbl.put x.codeTables n (codeTableOf bs) }))
  | some k => raises 0x16 k

/-- The 16 entries of a palette's 32 bytes. -/
def halves (bs : List Byte) (n : Nat) : List Half :=
  (List.range n).map (fun k => BitVec.ofNat 16 (natOfBytes ((bs.drop (2 * k)).take 2)))

/-- Install a palette; its version advances (R210). -/
def installPalette (s : State) (c n count : Nat) (bs : List Byte) : State :=
  modCtx s c (fun x =>
    let v := match Tbl.find? x.palettes n with | some p => p.version | none => 0
    { x with palettes := Tbl.put x.palettes n { entries := halves bs 16, count := count, version := v + 1 } })

def applyTdef (f : CE) (s : State) (wid : Nat) (w : Wave) (addr : Dword) : Res Applied :=
  withImage s wid w addr.toNat 64 64 fun bs => do
    let cx ← ctxRes s w
    let t ← installTensor s cx.1 f.t.toNat addr.toNat bs
    .ok (.done t none)

def applyCtload (f : CE) (s : State) (wid : Nat) (w : Wave) (addr : Dword) : Res Applied :=
  withImage s wid w addr.toNat 32 32 fun bs => do
    let cx ← ctxRes s w
    let t ← installCode s cx.1 (f.aux.toNat % 8) bs
    .ok (.done t none)

def applyPalld (f : CE) (s : State) (wid : Nat) (w : Wave) (addr : Dword) : Res Applied :=
  withImage s wid w addr.toNat 32 32 fun bs => do
    let cx ← ctxRes s w
    .ok (.done (installPalette s cx.1 (f.aux.toNat % 4) (f.opts.toNat % 32) bs) none)

/-- An instruction that installs the image at src(a); `id` is the entry that is pending until it completes (R206). -/
def installInstr (i : Instr) (f : CE) (id : Nat) (apply : State → Nat → Wave → Dword → Res Applied) (s : State) : Out :=
  runControl s fun wid w => do
    let x ← ceSources w f true false false []
    memReadyNow w (.control wid)
    waitUnless (!(installPending w id))
    let r ← apply s wid w x.1
    .ok (finishApplied i s wid w none [x.1] r)

def execTdef (f : CE) (s : State) : Out := installInstr (.tdef f) f f.t.toNat (applyTdef f) s

def execCtload (f : CE) (s : State) : Out := installInstr (.ctload f) f (64 + f.aux.toNat % 8) (applyCtload f) s

def execPalld (f : CE) (s : State) : Out := installInstr (.palld f) f (72 + f.aux.toNat % 4) (applyPalld f) s

/-- TINV (R207). -/
def execTinv (f : CE) (s : State) : Out :=
  runControl s fun wid w => do
    waitUnless (!(installPending w f.t.toNat))
    let cx ← ctxRes s w
    .ok (modCtx (setWave s wid (finishControl (.tinv f) w)) cx.1 (fun x => { x with tensors := Tbl.del x.tensors f.t.toNat }))

/-! ## Gang registers (R46, R211) -/

def gangCountOf (g : Nat) : Nat := g % 8

def gangField (g i : Nat) : Nat := g / 2 ^ (7 * i + 3) % 128

def gangMembers (g : Nat) : List Nat := (List.range (gangCountOf g)).map (gangField g)

/-- A gang word that GANGSET accepts, issued by the wave `wid` (R211). -/
def gangOk (wid g : Nat) : Bool :=
  let n := gangCountOf g
  n != 1 && n != 7 && ((List.range 6).filter (fun i => decide (n ≤ i))).all (fun i => gangField g i == 0)
    && decide (gangMembers g).Nodup && (n == 0 || (gangMembers g).contains (wid % 128))

/-- Detail of fault 0x10 (R324). -/
def gangDetail (g reason member word : Nat) : Nat := g % 4 + reason * 4 + member % 128 * 2 ^ 8 + word % 2 ^ 64 * 2 ^ 64

/-- The waves that hold the member slots now; 0 where there is none (R219). -/
def gangHolders (s : State) (wid g : Nat) : List Nat :=
  (gangMembers g).map (fun m => match getWave s (wid / 128 * 128 + m) with | some x => x.uid | none => 0)

def execGangset (f : CE) (s : State) : Out :=
  runControl s fun wid w => do
    let x ← ceSources w f true false false []
    let g := x.1.toNat
    let n := f.aux.toNat % 4
    ensure (decide (g / 2 ^ 45 = 0)) 0x04 (detail04 w (.gangset f) 18 true g)
    ensure (gangOk wid g) 0x10 (gangDetail n 0 0 g)
    .ok (setWave s wid (finishControl (.gangset f)
      { w with g := Cells.set 0 w.g n x.1, gangUids := Tbl.put w.gangUids n (gangHolders s wid g) }))

end Sys2Proof.Machine
end

