-- ==== Sys2Proof/Machine/Engine.lean ====
section
/-! DEFINITION. Engine operations in general (R203, R227 to R231, R235 to R240): issue into a wave's queue, order of execution,
faults and their delivery, and the reads and writes of the engines. -/

namespace Sys2Proof.Machine

/-! ## Queues (R203, R236) -/

/-- Operations of the matrix queue; the others are in the copy queue. -/
def isMatrix : EngineOp → Bool
  | .mclr _ _ => true
  | .mtab _ _ _ _ _ _ _ _ => true
  | .mlut _ _ _ _ _ _ _ _ _ _ => true
  | .mxpq _ _ _ _ _ _ _ _ => true
  | .mout _ _ _ _ _ _ _ _ => true
  | .tbdrop _ _ => true
  | _ => false

/-- The queue has a free entry; an operation that only waits for acknowledgments has left it. -/
def queueFree (w : Wave) (matrix : Bool) : Bool :=
  decide ((w.engine.filter (fun e => isMatrix e.op == matrix && !e.injected)).length < 8)

/-- An operation as it enters its queue. -/
def newItem (id : Nat) (w : Wave) (op : EngineOp) : EngineItem :=
  { id := id, pc := w.pc.toNat, op := op, batch := none, started := false, progress := 0, injected := false, failed := [],
    seq := w.seq, hazard := b2n (readsDirty w op), after := syncsBefore w (.control 0), unseen := unseenBy w op }

/-- A table record that MTAB writes at issue (R214, R221). -/
def pendingRec (id : Nat) (prod : Bool) (aTid : Nat) (a : Tensor) (row col pal : Nat) (p : Palette) (st : SlotState) : SlotRec :=
  { prod := prod, aTid := aTid, a := a, row := row, col := col, pal := pal, palVersion := p.version, palette := p, state := st,
    builder := id, regions := [], entries := [] }

/-- The record of a slot is left undefined (R221, R230). -/
def undefineSlot (slot id : Nat) (t : Team) : Team :=
  { t with
    slots := Tbl.modify t.slots slot (fun r => if r.builder = id then { r with state := .undefined } else r)
    tables := match Tbl.find? t.slots slot with
      | some r => if r.builder = id then Tbl.put t.tables slot { r with state := .undefined } else t.tables
      | none => t.tables }

/-- An operation is cancelled: a cancelled MTAB leaves its record undefined (R230). -/
def cancelItem (team : Nat) (s : State) (e : EngineItem) : State :=
  match e.op with
  | .mtab _ _ _ _ _ _ _ slot => modTeam s team (undefineSlot slot e.id)
  | _ => s

/-- The effect of an issue on the table records (R214). -/
def issueRecord (id : Nat) (op : EngineOp) (t : Team) : Team :=
  match op with
  | .mtab prod aTid a row col pal p slot => { t with slots := Tbl.put t.slots slot (pendingRec id prod aTid a row col pal p .pending) }
  | _ => t

/-- An operation that passed its checks enters its queue; after a fault that awaits delivery it is cancelled (R203, R230). -/
def pushEngine (i : Instr) (s : State) (wid : Nat) (w : Wave) (op : EngineOp) : State :=
  let e := newItem s.nextUid w op
  let s := modTeam { s with nextUid := s.nextUid + 1 } w.team (issueRecord e.id op)
  match w.engineFault with
  | some _ => cancelItem w.team (setWave s wid (finishControl i w)) e
  | none => setWave s wid (finishControl i { w with engine := w.engine ++ [e] })

/-- The issue of an engine operation: block wait, sources, checks of its entry, a free queue entry (R203, R235, R236). -/
def engineIssue (i : Instr) (f : CE) (a b c matrix : Bool) (checks : Nat → Wave → Dword → Dword → Dword → Res EngineOp)
    (s : State) : Out :=
  runControl s fun wid w => do
    waitUnless w.laneQueue.isEmpty
    let x ← ceSources w f a b c []
    let op ← checks wid w x.1 x.2.1 x.2.2
    waitUnless (queueFree w matrix)
    .ok (pushEngine i s wid w op)

/-- A tensor that an instruction names (R207); a pending install is waited for (R206). -/
def tensorFor (s : State) (w : Wave) (tid extra : Nat) : Res Tensor := do
  waitUnless (!(installPending w tid))
  match tensorOf s w tid with
  | none => raises 0x11 (tensorDetail tid extra)
  | some t =>
    waitUnless (!(installPending w (72 + t.palette)) && !(installPending w (64 + t.codeTable)))
    .ok t

/-- A tile lies within its tensor, or 0x12 with the coordinate that does not. -/
def tileIn (t : Tensor) (tid tr tc : Nat) : Res Unit := do
  ensure (decide (tr < tileRowCount t)) 0x12 (rangeDetail tr tid)
  ensure (decide (tc < tileColCount t)) 0x12 (rangeDetail tc tid)

/-! ## Execution -/

/-- The launch of a wave runs and is not about to end (R336). -/
def launchLive (s : State) (w : Wave) : Bool :=
  match launchOf s w with
  | some (_, l) => l.state == .running && l.ending.isNone
  | none => false

/-- Operations issued before one. -/
def itemsBefore (id : Nat) : List EngineItem → List EngineItem
  | [] => []
  | e :: r => if e.id = id then [] else e :: itemsBefore id r

/-- What an operation still reads and writes: of one that is injected, only the status area of a CPMC; registers keep their own order
(R54, R423). -/
def leftRegions (e : EngineItem) : List Region :=
  if e.injected then
    match e.op with
    | .cpmc _ _ list _ _ => [regionAt list 16384 true]
    | _ => []
  else opRegions e.op

/-- An operation may begin: no earlier one of the wave that shares bytes is unfinished (R239), and the acquires that precede it have been
made (R317). -/
def itemReady (s : State) (w : Wave) (e : EngineItem) : Bool :=
  (itemsBefore e.id w.engine).all (fun x => !(regionsConflict s w (leftRegions x) (opRegions e.op))) && acquired w e.after

/-- The head of a wave's matrix queue. -/
def matrixHead (w : Wave) : Option EngineItem := w.engine.find? (fun e => isMatrix e.op)

/-- An operation of the team still adds to a tile, or a pending batch has added to it (R171). -/
def addsInto (s : State) (team tile : Nat) : Bool :=
  s.waves.any (fun p => p.2.team == team && p.2.engine.any (fun e => opTile e.op == some tile)) || pendingInto s team tile

/-- The elements that were stored to while a batch accumulated into them keep an undefined value once none does (R8, R171). -/
def settleHot (team : Nat) (s : State) : State :=
  match getTeam s team with
  | none => s
  | some t =>
    (t.accHot.filter (fun k => k.2 && !(addsInto s team (k.1 / 256)))).foldl (fun s k =>
      let r := freeWordOf s
      modTeam r.2 team (fun t => { t with acc := Cells.set 0 t.acc k.1 r.1, accHot := Cells.set false t.accHot k.1 false })) s

/-- An operation completes and leaves the wave; a lookup-accumulate leaves its tile behind until its batch completes. -/
def leaveQueue (id : Nat) (w : Wave) : Wave :=
  let out := w.engine.filter (fun e => e.id == id)
  { w with
    engine := w.engine.filter (fun e => e.id != id)
    doneTiles := w.doneTiles ++ out.filterMap (fun e => (opTile e.op).map (fun t => (e.batch, t))) }

def finishItem (wid id : Nat) (s : State) : State :=
  match getWave s wid with
  | some w => settleHot w.team (setWave s wid (leaveQueue id w))
  | none => s

/-- SATF bit 2 for a write to scratchpad that an operation met (R30, R231). -/
def hazardFlag (e : EngineItem) (w : Wave) : Wave := if e.hazard = 2 then setFlags 4 w else w

/-- Change an operation of a wave. -/
def modItem (wid id : Nat) (f : EngineItem → EngineItem) (s : State) : State :=
  modWave s wid (fun w => { w with engine := w.engine.map (fun e => if e.id = id then f e else e) })

/-- Every operation that has not started is cancelled (R230, R336). -/
def cancelUnstarted (s : State) (wid : Nat) : State :=
  match getWave s wid with
  | none => s
  | some w =>
    let out := w.engine.filter (fun e => !e.started)
    modWave (out.foldl (cancelItem w.team) s) wid (fun w => { w with engine := w.engine.filter (fun e => e.started) })

/-- An operation faults: it and everything not started is cancelled, and the fault awaits delivery (R230). -/
def engineFail (s : State) (wid : Nat) (e : EngineItem) (code detail unit : Nat) : State :=
  match getWave s wid with
  | none => s
  | some w =>
    let s := cancelUnstarted (cancelItem w.team s e) wid
    modWave (finishItem wid e.id s) wid (fun w =>
      { w with engineFaults := w.engineFaults + 1, engineFault := match w.engineFault with | some x => some x | none => some (⟨code, detail⟩, e.pc, unit) })

/-- The unit a fault of a wave's operation names: matrix unit 3, decoder 4 or copy engine 5 (R323, R496). -/
def engineUnit (wid : Nat) (op : EngineOp) (code : Nat) : Nat :=
  if code = 0x0D then clusterUnit 4 (clusterOf wid * 8)
  else if isMatrix op then clusterUnit 3 (clusterOf wid)
  else coreUnit 5 (coreOf wid) 0

/-- Run the body of an operation's execution: it completes, waits, asks for a peer's line, or fails. -/
def settleItem (s : State) (wid : Nat) (w : Wave) (e : EngineItem) (r : Res State) : Out :=
  match r with
  | .ok t => .next t
  | .error .wait => stall s
  | .error (.request p a) => requestLine s (jobOf s w) p a
  | .error (.evict l) => evictLine s l
  | .error (.fault c d _ u) => .next (engineFail s wid e c d (u.getD (engineUnit wid e.op c)))

/-- A field test of a unit of a cluster runs: the unit starts no operation (R502). -/
def underTest (s : State) (cls index : Nat) : Bool := s.hub.tests.any (fun t => t.running && t.cls == cls && t.index == index)

/-! ### The matrix unit (R227) -/

/-- Another wave of the team has an operation queued that builds the slot (R221). -/
def otherBuilds (s : State) (wid : Nat) (w : Wave) (slot : Nat) : Bool :=
  s.waves.any (fun p => p.1 != wid && p.2.team == w.team && p.2.engine.any (fun e => match e.op with
    | .mtab _ _ _ _ _ _ _ k => k == slot
    | _ => false))

/-- The head waits for a table that is still to be built (R221, R227). -/
def waitsForTable (s : State) (wid : Nat) (w : Wave) (e : EngineItem) : Bool :=
  match e.op with
  | .mlut _ slot _ _ _ _ _ _ _ _ =>
    otherBuilds s wid w slot || (match getTeam s w.team with
      | some t => (match Tbl.find? t.tables slot with | some r => r.state == .pending | none => true)
      | none => true)
  | _ => false

/-- The wave with a unique number, with its WAVEID. -/
def waveByUid (s : State) (uid : Nat) : Option (Nat × Wave) := List.find? (fun p : Nat × Wave => p.2.uid == uid) s.waves

/-- The wave has been saved (R388). -/
def isSaved (s : State) (uid : Nat) : Bool :=
  s.teams.any (fun t => match t.2.saved with | some (_, ws) => ws.any (fun w => w.uid == uid) | none => false)

/-- A member of a gang: its 7-bit field, and the wave recorded for it or, where there was none, the wave there now. -/
def gangWaves (s : State) (wid word : Nat) (us : List Nat) : List (Nat × Nat) :=
  ((gangMembers word).zip us).map (fun p => (p.1, if p.2 = 0 then
    (match getWave s (wid / 128 * 128 + p.1) with | some x => x.uid | none => 0) else p.2))

/-- A recorded member that has exited (R219). -/
def departed (s : State) (uid : Nat) : Bool :=
  uid != 0 && !(isSaved s uid) && (match waveByUid s uid with | some (_, x) => x.ctl == .exited | none => true)

/-- A number for a set of waves: MLUTG operations are counted by it (R218). -/
def gangKey (us : List Nat) : Nat := us.foldl (fun m u => Nat.lor m (2 ^ u)) 0

/-- The set of waves a ganged operation lists, as a number. -/
def gangSetOf (s : State) (wid : Nat) (e : EngineItem) : Nat :=
  match e.op with
  | .mlut _ _ _ _ _ _ _ _ _ (some (_, word, us, _)) => gangKey ((gangWaves s wid word us).map (fun p => p.2))
  | _ => 0

/-- The ganged operation at the head of a wave's queue, at the latch. -/
def latchHead (s : State) (uid : Nat) : Option (Nat × Wave × EngineItem) :=
  match waveByUid s uid with
  | none => none
  | some (wid, w) =>
    match matrixHead w with
    | some e => (match e.op with
      | .mlut _ _ _ _ _ _ _ _ _ (some _) => if itemReady s w e && (launchLive s w || e.started) then some (wid, w, e) else none
      | _ => none)
    | none => none

/-- The members of a ganged operation that are at the latch for it. -/
def latched (s : State) (w : Wave) (waves : List (Nat × Nat)) : List (Nat × Wave × EngineItem) :=
  waves.filterMap (fun p =>
    match latchHead s p.2 with
    | some m => if Nat.testBit (gangSetOf s m.1 m.2.2) w.uid then some m else none
    | none => none)

/-- The head waits at a latch that is not complete, and no member has departed (R218, R219). -/
def waitsAtLatch (s : State) (wid : Nat) (w : Wave) (e : EngineItem) : Bool :=
  match e.op with
  | .mlut _ _ _ _ _ _ _ _ _ (some (_, word, us, _)) =>
    let waves := gangWaves s wid word us
    !(waves.any (fun p => departed s p.2)) && decide ((latched s w waves).length ≠ waves.length)
  | _ => false

/-- The matrix unit may take the head of a wave's queue; it passes over one that waits at a latch or for a table (R227). -/
def takesHead (s : State) (wid : Nat) (w : Wave) : Bool :=
  match matrixHead w with
  | some e => e.adding.isSome || (launchLive s w && itemReady s w e && !(waitsForTable s wid w e) && !(waitsAtLatch s wid w e))
  | none => false

/-- A wave of the cluster has an operation in progress in the matrix unit. -/
def inProgress (s : State) (c : Nat) : Bool :=
  s.waves.any (fun p => clusterOf p.1 == c && p.2.engine.any (fun e => e.adding.isSome))

/-- The unit serves this wave's queue now: an operation in progress goes on first; else the queues take turns, from the slot after the one
served last (R227). -/
def servedNow (s : State) (wid : Nat) (w : Wave) : Bool :=
  let c := clusterOf wid
  let turn := fun k => (k + 127 - (getCluster s c).matPtr) % 128
  if inProgress s c then w.engine.any (fun e => e.adding.isSome)
  else s.waves.all (fun p => !(clusterOf p.1 == c && takesHead s p.1 p.2) || decide (turn (wid % 128) ≤ turn (p.1 % 128)))

/-- The unit has served a wave's queue. -/
def servedAt (wid : Nat) (s : State) : State := setCluster s (clusterOf wid) { getCluster s (clusterOf wid) with matPtr := wid % 128 }

/-- The matrix unit of a wave's cluster runs. -/
def unitRuns (s : State) (wid : Nat) : Bool := !(getCluster s (clusterOf wid)).matrixFenced && !(underTest s 3 (clusterOf wid))

/-- Take up the head of a wave's matrix queue if it is one that `want` accepts (R227). -/
def runMatrix (s : State) (wid : Nat) (want : EngineOp → Bool) (body : Wave → Context → EngineItem → Res State) : Out :=
  match getWave s wid with
  | none => stall s
  | some w =>
    match matrixHead w, ctxRec s w with
    | some e, some (_, x) =>
      if want e.op && takesHead s wid w && servedNow s wid w && unitRuns s wid then
        settleItem s wid w e ((body w x e).map (servedAt wid))
      else stall s
    | _, _ => stall s

/-- Execute the head of a wave's matrix queue as one step. -/
def runMatrixWhole (s : State) (wid : Nat) (want : EngineOp → Bool) (body : Wave → Context → EngineItem → Res State) : Out :=
  runMatrix s wid want (fun w x e => (body w x e).map (fun t => finishItem wid e.id (modWave t wid (hazardFlag e))))

/-- The stop of an engine for bytes that it cannot read or write: a page that is not present delays it (R225, R240). -/
def engineStop (write : Bool) (e : RangeStop) : Stop :=
  match e with
  | .denied a => .fault 0x0B (addrDetail a write false) none none
  | .poisoned a f => .fault 0x17 (poisonDetail a write f.own) none f.unit
  | .outside a => .fault 0x09 (addrDetail a write false) none none
  | .remote q a => .request q a
  | .peers l => .evict l
  | _ => .wait

def orEngine {α : Type} (write : Bool) (r : Ranged α) : Res α :=
  match r with
  | .ok a => .ok a
  | .error e => .error (engineStop write e)

/-- The stop of a matrix operation whose tile cannot be had; `site` is that of R192. -/
def tileFail (e : TileStop) (tid tr tc site : Nat) : Stop :=
  match e with
  | .range r => engineStop false r
  | .decode f => .fault 0x0D (decodeDetail f tid tr tc site) none none

/-- A tile as the engines of a wave read it: kind 2 from its cluster, memory as performed (R249, R317). -/
def engineTile (s : State) (w : Wave) (wid : Nat) (x : Context) (t : Tensor) (tid : Nat) (ct : CodeTable) (tr tc : Nat) : Res TileData :=
  match fetchTile s w (if t.kind = 2 then wid else engineOf wid) x t ct tr tc with
  | .ok d => .ok d
  | .error e => .error (tileFail e tid tr tc 1)

/-! ## Writes of the engines (R225, R238, R240) -/

/-- Where bytes of a generic address lie for a write, within one line. -/
def writeTarget (s : State) (w : Wave) (x : Context) (addr n : Nat) : Ranged Place :=
  match addr / 2 ^ 56 % 256 with
  | 0 =>
    (match translate s x .write (addr % 2 ^ 56) with
     | .to p => .ok p
     | .absent e => .error (.absent addr e)
     | .denied => .error (.denied addr)
     | .poisoned e => .error (.poisoned addr (memoryPoison s e 8))
     | .copyFirst => .error .wait)
  | 1 => if addr % 2 ^ 56 + n ≤ spadSizeOf s w then .ok (.spad w.team (addr % 2 ^ 56)) else .error (.outside addr)
  | _ => .error (.outside addr)

/-- An earlier store of the wave to the place is not performed. -/
def ownStoreWaits (w : Wave) (seq : Nat) (p : Place) (n : Nat) : Bool :=
  w.stores.any (fun b => decide (b.seq < seq) && decide (b.perf < 4) && storeMeets b p n)

/-- The line of a place in local memory. -/
def placeLine : Place → Nat
  | .glob a _ => a / 128
  | _ => 0

/-- The hint that an engine operation names. -/
def opHint : EngineOp → Nat
  | .cpb _ _ _ _ h => h
  | .cpmc _ _ _ _ h => h
  | _ => 0

/-- A write of an engine or the encoder leaves its line in the slice of the wave's cluster, as the hint and the page's cache code say (R292,
R397). The write itself has reached memory, so the sectors are clean. -/
def allocWritten (s : State) (wid : Nat) (w : Wave) (p : Place) (addr n hint : Nat) : State :=
  match p with
  | .glob a cls => loadL2 s (clusterOf wid) (a / 128) (pageHint s w addr hint) cls (touchedSectors (a % 128) (a % 128 + n))
  | _ => s

/-- Write bytes within one line of a generic address for an operation of a wave. -/
def engineWriteLine (s : State) (wid : Nat) (w : Wave) (x : Context) (e : EngineItem) (addr : Nat) (bs : List Byte) (poison : Bool) :
    Ranged State :=
  match writeTarget s w x addr bs.length with
  | .error r => .error r
  | .ok (.remote q a) =>
    if s.fabric.unreachable.contains (q % 65536) then .ok (modWave s wid (asyncError 0x0B (q % 65536)))
    else if lineFree s q a then
      let d := lineDraft q x.job (a / 128 * 128) ((bs.zipIdx).map (fun p => (a % 128 + p.2, p.1)))
      .ok (sendPacket (dropCopy s q a) { d with poisoned := poison } (.copy w.uid e.id 0))
    else .error .wait
  | .ok p =>
    if ownStoreWaits w e.seq p bs.length || narrowMeets s (engineOf wid) p bs.length then .error .wait
    else if peersHolding s p bs.length then .error (.peers (placeLine p))
    else .ok (coreL1Write (allocWritten (writePlace s p bs poison) wid w p addr bs.length (opHint e.op)) (coreOf wid) p bs)

/-- Bytes of the next piece of a run: a line of global memory whose poison is uniform, else a 32-byte sector, by which every storage keeps
its poison (R240). -/
def pieceLength (addr : Nat) (bs : List (Byte × Bool)) : Nat :=
  let k := 128 - addr % 128
  let p := (bs.take k).map (fun b => b.2)
  if addr / 2 ^ 56 % 256 = 0 ∧ (p.all (fun b => b) || p.all (fun b => !b)) = true then k else 32 - addr % 32

/-- Write a run of bytes, piece by piece. -/
def engineWrite (wid : Nat) (w : Wave) (x : Context) (e : EngineItem) : Nat → State → Nat → List (Byte × Bool) → Ranged State
  | 0, s, _, _ => .ok s
  | _ + 1, s, _, [] => .ok s
  | n + 1, s, addr, bs =>
    let k := pieceLength addr bs
    match engineWriteLine s wid w x e addr ((bs.take k).map (fun b => b.1)) ((bs.take k).any (fun b => b.2)) with
    | .error r => .error r
    | .ok t => engineWrite wid w x e n t (addr + k) (bs.drop k)

/-- Clean bytes. -/
def cleanBytes (bs : List Byte) : List (Byte × Bool) := bs.map (fun b => (b, false))

def engineWriteAll (s : State) (wid : Nat) (w : Wave) (x : Context) (e : EngineItem) (addr : Nat) (bs : List (Byte × Bool)) : Ranged State :=
  engineWrite wid w x e (bs.length / 32 + 2) s addr bs

/-- One byte as the engines read it. -/
def engineByte (s : State) (w : Wave) (x : Context) (addr : Nat) : Byte :=
  match writeTarget s w x addr 1 with
  | .ok p => (readBase s p 1).headD 0
  | .error _ => 0

/-- Write one element of a plain tensor; an element narrower than a byte keeps its neighbours (R168, R241). -/
def engineElem (s : State) (wid : Nat) (w : Wave) (x : Context) (e : EngineItem) (t : Tensor) (row col code : Nat) (poison : Bool) : Ranged State :=
  let p := elemAt t row col
  let bits := fmtBits t.fmt
  let v :=
    if bits < 8 then
      let m := (2 ^ bits - 1) * 2 ^ p.2
      let old := (engineByte s w x p.1).toNat
      Nat.lor (old - Nat.land old m) (code % 2 ^ bits * 2 ^ p.2)
    else code
  engineWriteAll s wid w x e p.1 ((bytesOfNat (elemBytes t) v).map (fun b => (b, poison)))

/-- Write elements in order. -/
def engineElems (wid : Nat) (w : Wave) (x : Context) (e : EngineItem) (t : Tensor) : State → List (Nat × Nat × Nat × Bool) → Ranged State
  | s, [] => .ok s
  | s, (r, c, v, p) :: rest =>
    match engineElem s wid w x e t r c v p with
    | .error z => .error z
    | .ok s => engineElems wid w x e t s rest

/-- `n` free bytes as data for an operation whose results are undefined. -/
def freeData (s : State) (n : Nat) : List (Byte × Bool) := cleanBytes (freeBytesOf s n).1

/-- The counter moves past `n` free values. -/
def spendFree (n : Nat) (s : State) : State := { s with freeCtr := s.freeCtr + n }

/-! ## Delivery (R229, R230) -/

/-- The fault that awaits delivery is raised at the delivering instruction: the record names the engine instruction (R230). -/
def deliverFault (s : State) (wid : Nat) (w : Wave) : Option State :=
  match w.engineFault with
  | none => none
  | some (i, pc, unit) =>
    some (modWave (takeFault s (.control wid) ⟨pc, 0, 0, 0, false, false⟩ unit i.code i.detail none true) wid
      (fun w => { w with engineFault := none, ctl := .running }))

end Sys2Proof.Machine
end

