-- ==== Sys2Proof/Machine/LaneMemory.lean ====
section
/-! DEFINITION. The lane memory instructions of spec/06_lane_memory_and_path_instructions.md: loads, stores, atomics, prefetch and
accumulator access (R153 to R164, R170, R171). -/

namespace Sys2Proof.Machine

/-! ## Addresses (R153) -/

/-- Registers `o`, `o + 1`, … of a wide access; only direct registers are wide (R158). -/
def regsFrom (o : Operand) (k : Nat) : List Operand :=
  match o with
  | .v n => (List.range k).map (fun j => .v (n + BitVec.ofNat 8 j))
  | o => [o]

def nextReg (o : Operand) : Operand :=
  match o with
  | .v n => .v (n + 1)
  | o => o

/-- The sources that form the addresses. -/
def addrSrcs (f : VM) : List Src :=
  if f.am then [⟨f.a, f.ea, 0⟩, ⟨nextReg f.a, f.ea, 0⟩] else [⟨.q f.qb, false, 0⟩, ⟨f.a, f.ea, 0⟩]

/-- With am = 1, register A + 1 must lie within the allocation (R153). -/
def pairCheck (L : LaneCtx) (f : VM) : Res Unit :=
  match f.am, f.a with
  | true, .v n => ensure (decide (n.toNat + 1 < L.alloc)) 0x06 (n.toNat + 1)
  | _, _ => .ok ()

/-- The gates of an instruction with per-lane addresses: every register that it names, A + 1 too, lies within the allocation before any
is waited for (R69, R153). -/
def addrGates (L : LaneCtx) (f : VM) (srcs : List Src) (dsts : List Operand) : Res Unit := do
  allocCheck L (dsts ++ [f.a])
  pairCheck L f
  gates L L.lanes (addrSrcs f ++ srcs) dsts

/-- A lane's address. -/
def laneAddr (L : LaneCtx) (f : VM) (lane : Nat) : Nat :=
  let disp : Dword := f.disp.signExtend 64
  let a := srcWord L none ⟨f.a, f.ea, 0⟩ lane
  let addr : Dword :=
    if f.am then ((srcWord L none ⟨nextReg f.a, f.ea, 0⟩ lane).zeroExtend 64 <<< 32) + a.zeroExtend 64 + disp
    else qVal L f.qb.toNat + a.signExtend 64 * BitVec.ofNat 64 (2 ^ f.scale.toNat) + disp
  addr.toNat

/-- The data a lane supplies, lowest register first. -/
def laneData (L : LaneCtx) (o : Operand) (e : Bool) (k lane : Nat) : Nat :=
  match regsFrom o k with
  | [] => 0
  | [x] => (srcWord L none ⟨x, e, 0⟩ lane).toNat
  | x :: y :: r =>
    (srcWord L none ⟨x, e, 0⟩ lane).toNat + 2 ^ 32 * (srcWord L none ⟨y, e, 0⟩ lane).toNat
      + (match r with
         | z :: u :: _ =>
           2 ^ 64 * (srcWord L none ⟨z, e, 0⟩ lane).toNat + 2 ^ 96 * (srcWord L none ⟨u, e, 0⟩ lane).toNat
         | _ => 0)

/-! ## Checks of the lanes' addresses (R154, R155) -/

/-- Where the lanes' addresses lead: places, or the lowest lane whose page is not present. -/
inductive LanesReach where
  | at (ps : List (Nat × Place))
  | absent (entry addr mask : Nat)
  deriving DecidableEq, Repr

/-- The failure of a check in some lanes: the address of the lowest, and their mask. -/
def failLanes (code : Nat) (write : Bool) (unit : Option Nat) (bit66 : Bool) : List (Nat × Nat) → Res Unit
  | [] => .ok ()
  | (l, a) :: r =>
    .error (.fault code (addrDetail a write false + b2n bit66 * 2 ^ 66) (some (maskOf (l :: r.map (fun x => x.1)))) unit)

def stackSizeOf (s : State) (w : Wave) : Nat := match launchOf s w with | some (_, l) => l.e.stack | none => 0

/-- The translation of one lane's address. -/
def laneTrans (s : State) (x : Context) (wid : Nat) (w : Wave) (want : Want) (p : Nat × Nat) : Trans :=
  match p.2 / 2 ^ 56 with
  | 1 => .to (.spad w.team (p.2 % 2 ^ 56))
  | 2 => .to (.stack wid p.1 (p.2 % 2 ^ 56))
  | _ => translate s x want (p.2 % 2 ^ 56)

def transEntry : Trans → Option Nat
  | .absent e => some e
  | .poisoned e => some e
  | _ => none

/-- All checks of R154 over the lanes, in its order: each check over every lane before the next. -/
def reachLanes (s : State) (wid : Nat) (w : Wave) (want : Want) (width : Nat) (addrs : List (Nat × Nat)) :
    Res LanesReach := do
  let wr := wantWrites want
  let ap := fun p : Nat × Nat => p.2 / 2 ^ 56
  let off := fun p : Nat × Nat => p.2 % 2 ^ 56
  failLanes 0x09 wr none false (addrs.filter (fun p => decide (3 ≤ ap p)))
  failLanes 0x09 wr none false (addrs.filter (fun p => ap p == 1 && decide (spadSizeOf s w ≤ off p)))
  failLanes 0x1D wr none false (addrs.filter (fun p => ap p == 2 && decide (stackSizeOf s w ≤ off p)))
  failLanes 0x08 wr none false (addrs.filter (fun p => decide (p.2 % width ≠ 0)))
  let cx ← ctxRes s w
  let ts := addrs.map (fun p => (p, laneTrans s cx.2 wid w want p))
  failLanes 0x0B wr none false ((ts.filter (fun t => t.2 == .denied)).map (fun t => t.1))
  match ts.filter (fun t => match t.2 with | .poisoned _ => true | _ => false) with
  | [] => .ok ()
  | t :: r => failLanes 0x17 wr ((transEntry t.2).map (memoryUnit s)) true ((t :: r).map (fun t => t.1))
  waitUnless (ts.all (fun t => t.2 != .copyFirst))
  match ts.filter (fun t => match t.2 with | .absent _ => true | _ => false) with
  | t :: r => .ok (.absent ((transEntry t.2).getD 0) t.1.2 (maskOf ((t :: r).map (fun t => t.1.1))))
  | [] => .ok (.at (ts.filterMap (fun t => match t.2 with | .to p => some (t.1.1, p) | _ => none)))

/-! ## Shadow mode (R164, R278) -/

/-- What lanes l and l + 48 present must agree. -/
def shadowCheck (L : LaneCtx) (g : Nat → List Nat) : Res Unit :=
  if L.shadow then
    match L.lanes.filter (fun l => !(g l == g (l + 48))) with
    | [] => .ok ()
    | bad => raisesMask 0x15 (maskOf bad) (maskOf bad)
  else .ok ()

/-! ## Issue -/

/-- Mark the destinations of the lanes empty, in the copies too (R50, R155). -/
def emptyLanesOf (o : Operand) (k : Nat) (old : Wave) : List Nat → Wave → Wave
  | [], w => w
  | l :: r, w =>
    match regOf old o l with
    | some n => emptyLanesOf o k old r ((List.range k).foldl (fun w j => emptyV (n + j) l w) w)
    | none => emptyLanesOf o k old r w

/-- One lane's part of an access. -/
def laneAcc (L : LaneCtx) (dest : Operand) (addr data cmp : Nat → Nat) (lane : Nat) : LaneAcc :=
  { lane := lane, addr := addr lane, reg := (regOf L.w dest lane).getD 0,
    reg2 := if L.shadow then (regOf L.w dest (lane + 48)).getD 0 else 0, data := data lane, cmp := cmp lane }

/-- Give each lane its place. -/
def placeLanes (ps : List (Nat × Place)) (ls : List LaneAcc) : List LaneAcc :=
  List.zipWith (fun l p => { l with place := p.2 }) ls ps

/-- The access of an issue. -/
def laneAccess (L : LaneCtx) (kind : AccessKind) (dest : Dest) (width scope order hint : Nat) (ls : List LaneAcc) : Access :=
  { kind := kind, actor := L.actor, pc := L.pc, block := q3Of L.w % 2 ^ 32, seq := L.w.seq, width := width, dest := dest,
    scope := scope, order := order, hint := hint, lanes := ls, after := syncsBefore L.w L.actor, path := L.entry }

/-- Issue a lane access: enter it, or log it when a page is not present (R155, R327). -/
def issueLanes (i : Instr) (s : State) (L : LaneCtx) (a : Access) (mark : Wave → Wave) (write : Bool) (r : LanesReach) :
    Res State :=
  match r with
  | .at ps => do
    waitUnless (a.lanes.all (fun l => !(logBlocks s L.w l.addr a.width)))
    let a := { a with lanes := placeLanes ps a.lanes }
    let w := if a.lanes.isEmpty then L.w else mark (nextSeq (issueAccess a L.w))
    .ok (setWave s L.wid (finishLane i L.actor w))
  | .absent e addr mask =>
    let t := setWave s L.wid (finishLane i L.actor (mark (nextSeq (logEntry (.access a) L.actor (standing s L.actor) addr e L.w))))
    .ok (pageFault t L.actor (standing s L.actor) addr write (some mask))

/-- The addresses of the active lanes. -/
def addrList (L : LaneCtx) (f : VM) : List (Nat × Nat) := L.lanes.map (fun l => (l, laneAddr L f l))

def execVld (f : VM) (s : State) : Out :=
  runLane s fun L => do
    let k := widthRegs f.width.toNat
    addrGates L f [] (regsFrom f.d k)
    memReady L.w
    let r ← reachLanes s L.wid L.w .read (widthBytes f.width.toNat) (addrList L f)
    issueLanes (.vld f) s L
      (laneAccess L (.load f.sx) .vregs (widthBytes f.width.toNat) f.scope.toNat f.order.toNat f.hint.toNat
        (L.lanes.map (laneAcc L f.d (laneAddr L f) (fun _ => 0) (fun _ => 0))))
      (emptyLanesOf f.d k L.w L.all) false r

/-- Bytes of data that a store writes. -/
def storeData (L : LaneCtx) (f : VM) (lane : Nat) : Nat :=
  laneData L f.d f.ed (widthRegs f.width.toNat) lane % 2 ^ (8 * widthBytes f.width.toNat)

/-- VST. In shadow mode the comparison of R164 comes before the checks of R154 (log entry 71). -/
def execVst (f : VM) (s : State) : Out :=
  runLane s fun L => do
    let k := widthRegs f.width.toNat
    addrGates L f ((regsFrom f.d k).map (fun o => ⟨o, f.ed, 0⟩)) []
    memReady L.w
    shadowCheck L (fun l => [laneAddr L f l, storeData L f l])
    let r ← reachLanes s L.wid L.w .write (widthBytes f.width.toNat) (addrList L f)
    issueLanes (.vst f) s L
      (laneAccess L .store .none (widthBytes f.width.toNat) f.scope.toNat f.order.toNat f.hint.toNat
        (L.lanes.map (laneAcc L f.d (laneAddr L f) (storeData L f) (fun _ => 0))))
      (fun w => w) true r

/-- VATOM and VCAS (R159, R160): B receives the old value, or nothing. In shadow mode the comparison of R164 comes before the checks of
R154 (log entry 71). -/
def laneAtomic (i : Instr) (f : VMX) (op : AtomicOp) (s : State) : Out :=
  runLane s fun L => do
    let k := widthRegs f.m.width.toNat
    let n := widthBytes f.m.width.toNat
    let back := !(decide (f.b = .imm 0))
    let cs := if op = .cas then (regsFrom f.c k).map (fun o => (⟨o, f.ec, 0⟩ : Src)) else []
    addrGates L f.m (cs ++ (regsFrom f.m.d k).map (fun o => ⟨o, f.m.ed, 0⟩)) (if back then regsFrom f.b k else [])
    memReady L.w
    let data := fun l => laneData L f.m.d f.m.ed k l
    let cmp := fun l => if op = .cas then laneData L f.c f.ec k l else 0
    shadowCheck L (fun l => [laneAddr L f.m l, data l, cmp l])
    let r ← reachLanes s L.wid L.w .atomic n (addrList L f.m)
    issueLanes i s L
      (laneAccess L (.atomic op) (if back then .vregs else .none) n f.m.scope.toNat f.m.order.toNat f.m.hint.toNat
        (L.lanes.map (laneAcc L f.b (laneAddr L f.m) data cmp)))
      (if back then emptyLanesOf f.b k L.w L.all else fun w => w) true r

def execVatom (f : VMX) (s : State) : Out := laneAtomic (.vatom f) f (atomicOf f.aop.toNat) s

def execVcas (f : VMX) (s : State) : Out := laneAtomic (.vcas f) f .cas s

/-- VPRF: a lane whose address fails a check is dropped (R162). -/
def execVprf (f : VM) (s : State) : Out :=
  runLane s fun L => do
    addrGates L f [] []
    .ok (modWave (L.lanes.foldl (fun t l => prefetchAt t L.wid L.w f.hint.toNat (laneAddr L f l)) s) L.wid
      (finishLane (.vprf f) L.actor))

/-! ## Accumulator access (R170, R171) -/

/-- The value a VT instruction's uniform field holds (R83): an immediate, or a q register. -/
def uniformSrc (q : Bool) (field : Nat) : Operand := if q then .q (BitVec.ofNat 4 field) else .imm 0

def uniformVal (L : LaneCtx) (q : Bool) (field : Nat) : Nat :=
  if q then (qVal L (field % 16)).toNat else field

/-- The sources of VLDA and VSTA in an issue, without the field that names the tile. -/
def accSrcs (f : VT) (load : Bool) : List Src := [⟨f.a, f.ea, 0⟩, ⟨f.b, f.eb, 0⟩] ++ (if load then [] else [⟨f.d, f.ed, 0⟩])

/-- Their destination. -/
def accDsts (f : VT) (load : Bool) : List Operand := if load then [f.d] else []

/-- Tiles of the team (R170). -/
def accCountOf (s : State) (w : Wave) : Nat := match getTeam s w.team with | some t => t.accCount | none => 0

def rowOf (L : LaneCtx) (f : VT) (l : Nat) : Nat := (srcWord L none ⟨f.a, f.ea, 0⟩ l).toNat
def colOf (L : LaneCtx) (f : VT) (l : Nat) : Nat := (srcWord L none ⟨f.b, f.eb, 0⟩ l).toNat

/-- The first lane whose row or column exceeds 15 gives the detail. -/
def coordCheck (L : LaneCtx) (f : VT) (ls : List Nat) : Res Unit :=
  match ls.filter (fun l => decide (15 < rowOf L f l) || decide (15 < colOf L f l)) with
  | [] => .ok ()
  | l :: r =>
    raisesMask 0x12 (if 15 < rowOf L f l then rowOf L f l else colOf L f l) (maskOf (l :: r))

/-- The tile number's check: one at or beyond the team's allocation raises 0x12 with it (R62, R170). -/
def tileCheck (s : State) (w : Wave) (tile mask : Nat) : Res Unit :=
  if tile < accCountOf s w then .ok () else .error (.fault 0x12 tile (some mask) none)

def accKey (tile row col : Nat) : Nat := tile * 256 + row * 16 + col

def accSector (key : Nat) : Nat := key / 8

/-- Write an element of a team's accumulator store; its sector keeps its poison unless all of it is written (R240). -/
def setAcc (t : Team) (key : Nat) (v : Word) : Team := { t with acc := Cells.set 0 t.acc key v }

/-- A lane stores to an element of a team's accumulators; in a tile that a pending batch accumulates into, the element holds an undefined
value from then on, until no pending batch accumulates into it (R8, R171). -/
def storeAcc (s : State) (team key : Nat) (v : Word) (hot : Bool) : State :=
  if hot then
    let r := freeWordOf s
    modTeam r.2 team (fun x => { setAcc x key r.1 with accHot := Cells.set false x.accHot key true })
  else modTeam s team (fun x => { setAcc x key v with accHot := Cells.set false x.accHot key false })

/-- VLDA: the element is read when the access returns (R50, R171). -/
def vldaIssue (f : VT) (L : LaneCtx) (tile : Nat) (s : State) : Res State := do
  coordCheck L f L.lanes
  let a := laneAccess L (.load false) .vregs 4 0 0 0
    (L.lanes.map (laneAcc L f.d (fun l => accKey tile (rowOf L f l) (colOf L f l)) (fun _ => 0) (fun _ => 0)))
  let w := if L.lanes.isEmpty then L.w else emptyLanesOf f.d 1 L.w L.all (nextSeq (enterAccess { a with accTile := some tile } L.w))
  .ok (setWave s L.wid w)

/-- VSTA: the element is written at issue, after the wave's earlier loads of the tile, lanes in ascending order; in an element that a
pending batch accumulates into, the value is undefined and SATF bit 2 is set (R171). -/
def vstaIssue (f : VT) (L : LaneCtx) (tile : Nat) (s : State) : Res State := do
  coordCheck L f L.lanes
  waitUnless (L.w.loads.all (fun a => a.accTile != some tile))
  let hot := pendingInto s L.w.team tile
  let t := L.lanes.foldl (fun t l =>
    let key := accKey tile (rowOf L f l) (colOf L f l)
    modWave (storeAcc t L.w.team key (srcWord L none ⟨f.d, f.ed, 0⟩ l) hot) L.wid (markAcc key)) s
  .ok (if hot && !L.lanes.isEmpty then modWave t L.wid (setFlags 4) else t)

/-- One issue of VLDA or VSTA over some lanes. -/
def accIssue (f : VT) (load : Bool) (L : LaneCtx) (tile : Nat) (ls : List Nat) (s : State) : Res State := do
  let M := L.over s ls
  tileCheck s M.w tile (maskOf ls)
  issueGates M ls (accSrcs f load) (accDsts f load)
  if load then do
    memReady M.w
    vldaIssue f M tile s
  else do
    shadowCheck M (fun l => [rowOf M f l, colOf M f l, (srcWord M none ⟨f.d, f.ed, 0⟩ l).toNat])
    vstaIssue f M tile s

/-- VLDA and VSTA in the plain and the `.W` form (R61, R83, R170). In shadow mode the copies' tile numbers are part of their addresses
(R164). -/
def accInstr (i : Instr) (f : VT) (load : Bool) (s : State) : Out :=
  runLane s fun L => do
    let field : Src := if f.w then ⟨.v f.wreg, f.ew, 0⟩ else ⟨uniformSrc f.aq f.acc.toNat, false, 0⟩
    allocCheck L (accDsts f load ++ (accSrcs f load ++ [field]).map (fun x => x.o))
    if f.w then
      let gs ← waterGroups L field (fun l => (vVal L.w f.wreg.toNat l).toNat)
      if load || !L.rest.isEmpty then .ok () else shadowCheck L (fun l => [(vVal L.w f.wreg.toNat l).toNat])
      waterRun i L (accIssue f load L) gs s
    else
      issueGates L L.lanes (accSrcs f load ++ [field]) (accDsts f load)
      let t ← accIssue f load L (uniformVal L f.aq f.acc.toNat) L.lanes s
      .ok (modWave t L.wid (finishLane i L.actor))

def execVlda (f : VT) (s : State) : Out := accInstr (.vlda f) f true s

def execVsta (f : VT) (s : State) : Out := accInstr (.vsta f) f false s

end Sys2Proof.Machine
end

