-- ==== Sys2Proof/Machine/Matrix.lean ====
section
/-! DEFINITION. The table and matrix instructions of spec/08_table_and_matrix_instructions.md: issue checks and execution (R202
to R231). -/

namespace Sys2Proof.Machine

/-! ## Shared checks -/

def teamOr (s : State) (w : Wave) : Res Team := orStop (getTeam s w.team) .wait

/-- T = opts tile + uint(src(c)), at or beyond the team's tiles: 0x12 (R216, R224, R225). -/
def accTileOk (s : State) (w : Wave) (t : Nat) : Res Unit := ensure (decide (t < accCountOf s w)) 0x12 (t % 2 ^ 64)

def slotOk (t : Team) (slot : Nat) : Res Unit := ensure (decide (slot < t.slotCount)) 0x12 slot

/-! ## MCLR, MTAB, TBDROP: issue (R214, R222, R224) -/

def execMclr (f : CE) (s : State) : Out :=
  engineIssue (.mclr f) f false false true true (fun _ w _ _ c => do
    let t := optTile f + c.toNat
    let k := f.aux.toNat + 1
    ensure (decide (t + k ≤ accCountOf s w)) 0x12 (max t (accCountOf s w) % 2 ^ 64)
    .ok (.mclr t k)) s

/-- The A tensors of MTAB (R214). -/
def mtabSuits (prod : Bool) (t : Tensor) : Bool :=
  t.kind == 1 && t.blockLen == 0 && t.kaxis == 1 && t.trows == 16 &&
    (if prod then t.fmt == 0x0A && t.tcols == 16 else (t.fmt == 4 || t.fmt == 0x0A) && t.tcols == 64)

def execMtab (f : CE) (s : State) : Out :=
  engineIssue (.mtab f) f true true false true (fun _ w a b _ => do
    let team ← teamOr s w
    let prod := decide (f.aux.toNat % 2 = 1)
    let pal := f.aux.toNat / 2 % 4
    slotOk team (optSlot f)
    let t ← tensorFor s w f.t.toNat 0
    ensure (mtabSuits prod t) 0x11 (tensorDetail f.t.toNat 0)
    waitUnless (!prod || !(installPending w (72 + pal)))
    tileIn t f.t.toNat a.toNat b.toNat
    .ok (.mtab prod f.t.toNat t a.toNat b.toNat pal (paletteOf s w pal) (optSlot f))) s

def execTbdrop (f : CE) (s : State) : Out :=
  engineIssue (.tbdrop f) f false false false true (fun _ w _ _ _ => do
    let team ← teamOr s w
    if f.aux.toNat % 2 = 1 then .ok (.tbdrop true 0)
    else
      slotOk team (optSlot f)
      .ok (.tbdrop false (optSlot f))) s

/-! ## MLUT and MLUTG: issue (R213, R216, R218) -/

/-- The pairs of R213: number 1 to 5, for a table kind, its A format and a B tensor. -/
def pairOf (r : SlotRec) (b : Tensor) (bPal : Nat) : Option Nat :=
  let lOk := b.blockLen == 0 || b.blockLen == 16 || b.blockLen == 32
  match r.prod, r.a.fmt, b.fmt with
  | false, 4, 1 => if b.blockLen = 0 then some 1 else none
  | false, 4, 2 => if b.blockLen = 0 then some 2 else none
  | false, 0x0A, 1 => if lOk then some 3 else none
  | false, 0x0A, 2 => if lOk then some 4 else none
  | true, _, 3 => if lOk && bPal == r.pal then some 5 else none
  | _, _, _ => none

/-- K elements of a group (R217). -/
def groupLen (pair : Nat) : Nat := if pair = 5 then 2 else 4

/-- K extent of a table (R215). -/
def tableExtent (r : SlotRec) : Nat := if r.prod then 16 else 64

/-- Issue checks 1 to 7 of R216; the gang is checked after them. Check 4 is made of the extent of B's tiles along the axis that is not K:
the operation adds one tile of 16 columns (log entry 71). -/
def mlutChecks (s : State) (w : Wave) (f : CE) (a b c : Dword) : Res (Nat × Tensor) := do
  let team ← teamOr s w
  let tile := optTile f + c.toNat
  let p := f.aux.toNat % 4
  accTileOk s w tile
  slotOk team (optSlot f)
  let r ← orStop (Tbl.find? team.slots (optSlot f)) (.fault 0x0E (1 + optSlot f * 2 ^ 8) none none)
  let t ← tensorFor s w f.t.toNat 0
  ensure ((t.kind == 0 || t.kind == 1 || denupKind t.kind) && tileN t == 16) 0x11 (tensorDetail f.t.toNat 0)
  let pair ← orStop (pairOf r t t.palette) (.fault 0x11 (tensorDetail f.t.toNat (optSlot f)) none none)
  let kb := tileK t
  ensure (decide (kb ≤ tableExtent r)) 0x12 (rangeDetail kb f.t.toNat)
  ensure (decide ((p + 1) * kb ≤ tableExtent r)) 0x12 (rangeDetail p f.t.toNat)
  ensure (decide (kb % groupLen pair = 0)) 0x12 (rangeDetail kb f.t.toNat)
  tileIn t f.t.toNat a.toNat b.toNat
  .ok (tile, t)

def execMlut (f : CE) (s : State) : Out :=
  engineIssue (.mlut f) f true true true true (fun _ w a b c => do
    let r ← mlutChecks s w f a b c
    .ok (.mlut r.1 (optSlot f) f.t.toNat r.2 (codeTableAt s w r.2.codeTable) (paletteOf s w r.2.palette) a.toNat b.toNat
      (f.aux.toNat % 4) none)) s

def execMlutg (f : CE) (s : State) : Out :=
  runControl s fun wid w => do
    waitUnless w.laneQueue.isEmpty
    let x ← ceSources w f true true true []
    let r ← mlutChecks s w f x.1 x.2.1 x.2.2
    let g := f.aux.toNat / 4
    let word := (Cells.get 0 w.g g).toNat
    ensure (decide (gangCountOf word ≠ 0)) 0x10 (gangDetail g 0 0 word)
    waitUnless (queueFree w true)
    let us := (Tbl.find? w.gangUids g).getD []
    let k := Cells.get 0 w.gangCount (gangKey us)
    let op := .mlut r.1 (optSlot f) f.t.toNat r.2 (codeTableAt s w r.2.codeTable) (paletteOf s w r.2.palette) x.1.toNat
      x.2.1.toNat (f.aux.toNat % 4) (some (g, word, us, k))
    .ok (pushEngine (.mlutg f) s wid { w with gangCount := Cells.set 0 w.gangCount (gangKey us) (k + 1) } op)

/-! ## MXPQ and MOUT: issue (R225, R226) -/

def execMxpq (f : CE) (s : State) : Out :=
  engineIssue (.mxpq f) f true true false true (fun _ w a b _ => do
    let sTid := f.opts.toNat % 64
    let dTid := f.t.toNat
    let src ← tensorFor s w sTid 0
    ensure (codedFmt src.fmt && (src.kind == 0 || src.kind == 1 || denupKind src.kind) && src.blockLen != 0) 0x11 (tensorDetail sTid 0)
    let d ← tensorFor s w dTid 0
    ensure ((d.kind == 0 || d.kind == 1) && d.fmt == src.fmt && (src.fmt != 3 || d.palette == src.palette)
      && d.trows == src.tcols && d.tcols == src.trows && d.kaxis == 1 - src.kaxis && d.blockLen != 0
      && decide (tileK d % max 1 d.blockLen = 0)) 0x11 (tensorDetail dTid 0)
    tileIn src sTid a.toNat b.toNat
    tileIn d dTid b.toNat a.toNat
    .ok (.mxpq dTid d sTid src (codeTableAt s w src.codeTable) (paletteOf s w src.palette) a.toNat b.toNat)) s

/-- Integer formats of MOUT (R225). -/
def intFmt (f : Nat) : Bool := decide (4 ≤ f) && decide (f ≤ 9)

def execMout (f : CE) (s : State) : Out :=
  engineIssue (.mout f) f true true true true (fun _ w a b c => do
    let tile := optTile f + c.toNat
    let round := f.opts.toNat / 512 % 8
    let sat := decide (f.opts.toNat / 2 ^ 12 % 2 = 1)
    let iacc := decide (f.opts.toNat / 2 ^ 13 % 2 = 1)
    accTileOk s w tile
    let t ← tensorFor s w f.t.toNat 0
    ensure ((t.kind == 0 || t.kind == 1) && t.blockLen == 0 && t.trows == 16 && t.tcols == 16 && decide (4 ≤ t.fmt)
      && decide (t.fmt ≤ 0x0B)) 0x11 (tensorDetail f.t.toNat 0)
    tileIn t f.t.toNat a.toNat b.toNat
    ensure (!(iacc && intFmt t.fmt) || round == 0 || round == 7) 0x04 (detail04 w (.mout f) 58 false 0)
    .ok (.mout f.t.toNat t a.toNat b.toNat tile (if round = 7 then w.rmode.toNat else round) sat iacc)) s

/-! ## Batches (R228, R229) -/

/-- MBATCH closes every unclosed operation into batch n; it waits while n is pending (R228). -/
def execMbatch (f : CE) (s : State) : Out :=
  runControl s fun wid w => do
    let n := f.aux.toNat
    waitUnless (!(batchPending w n))
    .ok (setWave s wid (finishControl (.mbatch f)
      { w with engine := w.engine.map (fun e => if e.batch.isNone then { e with batch := some n } else e)
               doneTiles := (w.doneTiles.filter (fun d => match d.1 with | some m => batchPending w m | none => true)).map (fun d => (some (d.1.getD n), d.2))
               engineHits := w.engineHits.map (fun h => if h.batch.isNone ∧ h.op ≠ 0 then { h with batch := some n } else h) }))

/-- MWAIT delivers a fault that awaits it, completes when its batch has, and otherwise waits (R229, R230). -/
def execMwait (f : CE) (s : State) : Out :=
  runControl s fun wid w =>
    match deliverFault s wid w with
    | some t => .ok t
    | none =>
      let n := f.aux.toNat
      .ok (if batchPending w n then setWave s wid { w with ctl := .mwait n }
           else acquireAt (setWave s wid (finishControl (.mwait f) w)) wid 1)

def execMtest (f : CE) (s : State) : Out :=
  runControl s fun wid w =>
    match deliverFault s wid w with
    | some t => .ok t
    | none => do
      dstS w f.d.toNat
      .ok (writeBack (.mtest f) s wid w f.d.toNat (bool64 (!(batchPending w f.aux.toNat))))

/-! ## Execution: MCLR, TBDROP (R222, R224) -/

def isMclr : EngineOp → Bool
  | .mclr _ _ => true
  | _ => false

def execMclrExecute (wid : Nat) (s : State) : Out :=
  runMatrixWhole s wid isMclr (fun w _ e =>
    match e.op with
    | .mclr t k =>
      .ok (modTeam s w.team (fun x =>
        { x with
          acc := x.acc.filter (fun c => !(decide (t * 256 ≤ c.1) && decide (c.1 < (t + k) * 256)))
          accPoison := x.accPoison.filter (fun c => !(decide (t * 32 ≤ c.1) && decide (c.1 < (t + k) * 32)))
          accChecks := x.accChecks.filter (fun c => !(decide (t * 32 ≤ c.1) && decide (c.1 < (t + k) * 32))) }))
    | _ => waits)

def isTbdrop : EngineOp → Bool
  | .tbdrop _ _ => true
  | _ => false

/-- A record drops its table; one that is still to be built is left as it is. -/
def dropRec (r : SlotRec) : SlotRec := if r.state = .pending then r else { r with state := .dropped, entries := [] }

def execTbdropExecute (wid : Nat) (s : State) : Out :=
  runMatrixWhole s wid isTbdrop (fun w _ e =>
    match e.op with
    | .tbdrop all slot =>
      .ok (modTeam s w.team (fun x =>
        { x with
          slots := x.slots.map (fun r => if all || r.1 == slot then (r.1, dropRec r.2) else r)
          tables := x.tables.map (fun r => if all || r.1 == slot then (r.1, dropRec r.2) else r) }))
    | _ => waits)

/-! ## Table build (R34, R215, R221) -/

/-- A table of cells from its values by key. -/
def cellsFrom (n : Nat) (g : Nat → Word) : Cells Word :=
  (List.range n).filterMap (fun k => if g k = 0 then none else some (k, g k))

/-- A subset entry of four BF16 activations (R34): FP32, one RNE addition per further term. -/
def subsetFp (xs : List Nat) (i : Nat) : Nat × BitVec 4 :=
  let terms := ((xs.zipIdx).filter (fun p => decide (i / 2 ^ p.2 % 2 = 1))).map (fun p => bf16ToFp32 p.1)
  match terms with
  | [] => (0, 0)
  | x :: r => r.foldl (fun a y => let z := addRNE a.1 y; (z.bits, a.2 ||| roundedFlags z)) (x, 0)

/-- A subset entry of four INT8 activations (R34). -/
def subsetInt (xs : List Nat) (i : Nat) : Int :=
  ((xs.zipIdx).filter (fun p => decide (i / 2 ^ p.2 % 2 = 1))).foldl (fun a p => a + sextNat p.1 8) 0

/-- A product entry (R34, R215). -/
def productEntry (p : Palette) (x c : Nat) : Nat × BitVec 4 :=
  if c < p.count then
    let r := mulRNE (fpOfBf16 x) (fpOfBf16 (p.entries.getD c 0).toNat)
    (r.bits, roundedFlags r)
  else (0, 0)

/-- Entry `key` = (m × 16 + g) × 16 + i of the tables of an A tile whose codes lie at row × columns + column. -/
def tableEntry (prod : Bool) (a : Tensor) (p : Palette) (codes : List Nat) (key : Nat) : Nat × BitVec 4 :=
  let m := key / 256
  let g := key / 16 % 16
  let i := key % 16
  if prod then productEntry p (codes.getD (m * 16 + g) 0) i
  else
    let xs := (List.range 4).map (fun j => codes.getD (m * 64 + 4 * g + j) 0)
    if a.fmt = 4 then (intToNat (subsetInt xs i) 32, 0) else subsetFp xs i

/-- Scratchpad regions that an A tile touches, with their versions (R221). -/
def tileVersions (t : Team) (a : Tensor) (row col : Nat) : List (Nat × Nat) :=
  ((rowRegions a (row * a.trows) (col * a.tcols) a.tcols false a.trows).flatMap (fun r =>
    (List.range ((r.addr + r.len - 1) / 4096 + 1 - r.addr / 4096)).map (fun k => r.addr / 4096 + k))).eraseDups.map
    (fun r => (r, Cells.get 0 t.versions r))

/-- Build a record's tables from its A tile: entries and SATF bits (R215). -/
def buildTables (s : State) (wid : Nat) (w : Wave) (x : Context) (r : SlotRec) : Res (Cells Word × BitVec 4) := do
  let cells := (List.range (r.a.trows * r.a.tcols)).map (fun i => (i / r.a.tcols, i % r.a.tcols))
  let codes ← orEngine false (collect (fun p => readElem s w (engineOf wid) x r.a (r.row * r.a.trows + p.1) (r.col * r.a.tcols + p.2)) cells)
  let flags := (List.range 4096).foldl (fun f k => f ||| (tableEntry r.prod r.a r.palette codes k).2) 0
  .ok (cellsFrom 4096 (fun k => BitVec.ofNat 32 (tableEntry r.prod r.a r.palette codes k).1), flags)

/-- A record takes its place as built (or as undefined). -/
def placeTable (slot : Nat) (r : SlotRec) (t : Team) : Team :=
  { t with
    tables := Tbl.put t.tables slot r
    slots := Tbl.modify t.slots slot (fun q => if q.builder = r.builder then r else q) }

def isMtab : EngineOp → Bool
  | .mtab _ _ _ _ _ _ _ _ => true
  | _ => false

def execMtabExecute (wid : Nat) (s : State) : Out :=
  runMatrixWhole s wid isMtab (fun w x e =>
    match e.op with
    | .mtab prod aTid a row col pal p slot => do
      let team ← teamOr s w
      let r := { pendingRec e.id prod aTid a row col pal p .undefined with regions := tileVersions team a row col }
      if e.hazard ≠ 0 then .ok (modTeam s w.team (placeTable slot r))
      else
        let b ← buildTables s wid w x r
        .ok (modWave (modTeam s w.team (placeTable slot { r with state := .built, entries := b.1 })) wid (setFlags b.2))
    | _ => waits)

/-! ## Lookup-accumulate (R35 to R37, R217) -/

/-- A table entry as an FP32 pattern, and as an integer. -/
def entryAt (r : SlotRec) (m g i : Nat) : Nat := (Cells.get 0 r.entries ((m * 16 + g) * 16 + i)).toNat

def entryInt (r : SlotRec) (m g i : Nat) : Int := sextNat (entryAt r m g i) 32

/-- The mask of the codes of a group for which a test holds. -/
def codeMask (ws : List Nat) (g : Nat → Bool) : Nat := ((ws.zipIdx).filter (fun p => g p.1)).foldl (fun m p => m + 2 ^ p.2) 0

/-- The contribution of a group of weights in an integer pair (R35). -/
def contribInt (pair : Nat) (r : SlotRec) (m g : Nat) (ws : List Nat) : Int :=
  if pair = 1 then entryInt r m g (codeMask ws (fun c => c == 1)) - entryInt r m g (codeMask ws (fun c => c == 3))
  else
    let t := fun j => entryInt r m g (codeMask ws (fun c => decide (c / 2 ^ j % 2 = 1)))
    t 0 + 2 * t 1 + 4 * t 2 - 8 * t 3

/-- One rounded step on an FP32 pattern with the flags so far. -/
def stepFp (a : Nat × BitVec 4) (r : Rounded) : Nat × BitVec 4 := (r.bits, a.2 ||| roundedFlags r)

/-- The contribution of a group of weights in an FP32 pair (R35). `k` is the table K index of its first element. -/
def contribFp (pair : Nat) (r : SlotRec) (m k : Nat) (ws : List Nat) : Nat × BitVec 4 :=
  if pair = 5 then
    stepFp (0, 0) (addRNE (entryAt r m k (ws.getD 0 0)) (entryAt r m (k + 1) (ws.getD 1 0)))
  else
    let t := fun test => entryAt r m (k / 4) (codeMask ws test)
    if pair = 3 then stepFp (0, 0) (subRNE (t (fun c => c == 1)) (t (fun c => c == 3)))
    else
      let tj := fun (j : Nat) => scaleRNE (t (fun c => decide (c / 2 ^ j % 2 = 1))) (j : Int)
      let a := stepFp (0, roundedFlags (tj 1) ||| roundedFlags (tj 2) ||| roundedFlags (tj 3)) (addRNE (tj 0).bits (tj 1).bits)
      let b := stepFp a (addRNE a.1 (tj 2).bits)
      stepFp b (subRNE b.1 (tj 3).bits)

/-- The block scale applied to a contribution (R20, R36). -/
def scaleContrib (t : Tensor) (d : TileData) (n k : Nat) (c : Nat × BitVec 4) : Nat × BitVec 4 :=
  if t.blockLen = 0 then c
  else
    let b := if t.kaxis = 0 then tileScale t d k n else tileScale t d n k
    if b = 0xFF then (canonicalNaN .fp32, c.2 ||| invalidBit)
    else stepFp c (scaleRNE c.1 ((b : Int) - 127 + t.scaleBase))

/-- The weights of group `h` of column `n`. -/
def groupCodes (t : Tensor) (d : TileData) (g n h : Nat) : List Nat :=
  (List.range g).map (fun j => d.codes.getD (n * tileK t + g * h + j) 0)

/-- Accumulator element (m, n) with the contribution of group `h` of its weights, and the SATF bits (R37, R217). -/
def addGroup (pair p : Nat) (r : SlotRec) (t : Tensor) (d : TileData) (m n : Nat) (acc : Nat × BitVec 4) (h : Nat) : Nat × BitVec 4 :=
  let g := groupLen pair
  let k0 := p * tileK t
  let ws := groupCodes t d g n h
  if pair ≤ 2 then
    let v := satInt true 32 (sextNat acc.1 32 + contribInt pair r m ((k0 + g * h) / 4) ws)
    (v.1, acc.2 ||| v.2)
  else
    let c := scaleContrib t d n (g * h) (contribFp pair r m (k0 + g * h) ws)
    stepFp (acc.1, acc.2 ||| c.2) (addRNE acc.1 c.1)

/-- The groups of a tile, in the order of their contributions. -/
def groupCount (pair : Nat) (t : Tensor) (d : TileData) : Nat := if d.zero then 0 else tileK t / groupLen pair

/-- The new value of accumulator element (m, n) after every contribution (R217). -/
def accumulate (pair p : Nat) (r : SlotRec) (t : Tensor) (d : TileData) (m n old : Nat) : Nat × BitVec 4 :=
  (List.range (groupCount pair t d)).foldl (addGroup pair p r t d m n) (old, 0)

/-- Write a whole accumulator tile, row by row; every sector is written, so none stays poisoned. -/
def writeTile (tile : Nat) (g : Nat → Word) (x : Team) : Team :=
  { x with
    acc := (List.range 256).foldl (fun a i => Cells.set 0 a (tile * 256 + i) (g i)) x.acc
    accPoison := x.accPoison.filter (fun c => !(decide (tile * 32 ≤ c.1) && decide (c.1 < tile * 32 + 32)))
    accChecks := x.accChecks.filter (fun c => !(decide (tile * 32 ≤ c.1) && decide (c.1 < tile * 32 + 32))) }

/-- A sector of an accumulator tile is found poisoned (R457). -/
def tilePoisoned (x : Team) (tile : Nat) : Bool := heldPoisoned x.accPoison x.accChecks (tile * 32) 32

/-- The detail of fault 0x17 for an accumulator tile. -/
def tilePoison (x : Team) (tile : Nat) : Nat := poisonDetail (tile * 1024) false (poisonHeld (anySector x.accPoison (tile * 32) 32)).own

/-- The lowest element index whose code the table cannot take (R217); streams never give a T2 code 0b10. -/
def badCode (t : Tensor) (p : Palette) (d : TileData) : Option Nat :=
  (List.range (tileElems t)).find? (fun i =>
    let c := d.codes.getD (codeIndex t (i / t.tcols) (i % t.tcols)) 0
    (t.fmt == 3 && decide (p.count ≤ c)) || (t.fmt == 1 && c == 2))

/-- Detail of fault 0x0E (R324). -/
def staleDetail (stale undef : Bool) (slot : Nat) (r : SlotRec) : Nat :=
  b2n stale * 2 + b2n undef * 4 + slot * 2 ^ 8 + r.aTid % 64 * 2 ^ 16 + r.row % 2 ^ 32 * 2 ^ 64 + r.col % 2 ^ 32 * 2 ^ 96

/-- A recorded version differs from the current one (R221). -/
def recStale (s : State) (w : Wave) (team : Team) (r : SlotRec) : Bool :=
  r.regions.any (fun v => Cells.get 0 team.versions v.1 != v.2) || (r.prod && (paletteOf s w r.pal).version != r.palVersion)

/-- The record that an MLUT uses, rebuilt if it was dropped, with the SATF bits of a rebuild (R221). -/
def usableTable (s : State) (wid : Nat) (w : Wave) (x : Context) (slot : Nat) : Res (SlotRec × BitVec 4) := do
  let team ← teamOr s w
  waitUnless (!(otherBuilds s wid w slot))
  let r ← orStop (Tbl.find? team.tables slot) .wait
  waitUnless (decide (r.state ≠ .pending))
  let stale := recStale s w team r
  ensure (!stale && decide (r.state ≠ .undefined)) 0x0E (staleDetail stale (decide (r.state = .undefined)) slot r)
  if r.state = .dropped then
    let b ← buildTables s wid w x r
    .ok ({ r with state := .built, entries := b.1 }, b.2)
  else .ok (r, 0)

/-- Detail of fault 0x0F (R324). -/
def indexDetail (tid idx row col : Nat) : Nat := tid % 64 + idx % 2 ^ 32 * 2 ^ 32 + row % 2 ^ 32 * 2 ^ 64 + col % 2 ^ 32 * 2 ^ 96

/-- The B tile of an MLUT, obtained whole and checked (R217). -/
def fetchB (s : State) (w : Wave) (wid : Nat) (x : Context) (bTid : Nat) (b : Tensor) (ct : CodeTable) (p : Palette) (row col : Nat) :
    Res TileData := do
  let d ← engineTile s w wid x b bTid ct row col
  if d.zero then .ok d
  else
    match badCode b p d with
    | some i => raises 0x0F (indexDetail bTid i row col)
    | none => .ok d

/-- The tile's results are undefined if a write met the operation's operands (R231). -/
def finishTile (wid : Nat) (w : Wave) (e : EngineItem) (tile : Nat) (flags : BitVec 4) (s : State) : State :=
  let c := s.freeCtr
  let t := if e.hazard = 0 then s else spendFree 256 (modTeam s w.team (writeTile tile (fun i => Config.freeWord (c + i))))
  finishItem wid e.id (modWave t wid (fun w => setFlags flags (hazardFlag e w)))

/-- A lookup-accumulate has its B tile: it takes its tables, checks what it adds to, and begins; a zero tile ends it (R182, R217). -/
def beginAdd (s : State) (wid : Nat) (w : Wave) (x : Context) (e : EngineItem) (tile slot bTid : Nat) (b : Tensor) (d : TileData) : Res State := do
  let u ← usableTable s wid w x slot
  let _ ← orStop (pairOf u.1 b b.palette) (.fault 0x11 (tensorDetail bTid slot) none none)
  let team ← teamOr s w
  let s := modTeam s w.team (placeTable slot u.1)
  if d.zero then .ok (finishTile wid w e tile u.2 s)
  else
    ensure (e.hazard != 0 || !(tilePoisoned team tile)) 0x17 (tilePoison team tile)
    .ok (modItem wid e.id (fun e => { e with started := true, adding := some { table := u.1, tile := d, done := 0, flags := u.2 } }) s)

/-- The next group of contributions, into every element of the tile (R37, R217). An element that was stored to while the batch was
pending, or that the wave stored to without a `FENCEO`, takes an undefined value (R171). The last group completes the operation. -/
def addNext (s : State) (wid : Nat) (w : Wave) (e : EngineItem) (tile p : Nat) (b : Tensor) (z : Adding) : State :=
  match getTeam s w.team, pairOf z.table b b.palette with
  | some team, some pair =>
    let c := s.freeCtr
    let lost := fun i => Cells.get false team.accHot (tile * 256 + i) || e.unseen.contains i
    let out := (List.range 256).map (fun i =>
      if lost i then ((Config.freeWord (c + i)).toNat, 0)
      else addGroup pair p z.table b z.tile (i / 16) (i % 16) ((Cells.get 0 team.acc (tile * 256 + i)).toNat, 0) z.done)
    let s := spendFree 256 (modTeam s w.team (writeTile tile (fun i => BitVec.ofNat 32 (out.getD i (0, 0)).1)))
    let flags := out.foldl (fun f o => f ||| o.2) z.flags
    if groupCount pair b z.tile ≤ z.done + 1 then finishTile wid w e tile flags s
    else modItem wid e.id (fun e => { e with adding := some { z with done := z.done + 1, flags := flags } }) s
  | _, _ => s

def isMlut : EngineOp → Bool
  | .mlut _ _ _ _ _ _ _ _ _ g => g.isNone
  | _ => false

/-- A turn of MLUT: the first obtains the B tile and makes the checks, each later one adds one group. -/
def execMlutExecute (wid : Nat) (s : State) : Out :=
  runMatrix s wid isMlut (fun w x e =>
    match e.op with
    | .mlut tile slot bTid b ct pal row col p _ =>
      match e.adding with
      | some z => .ok (addNext s wid w e tile p b z)
      | none => do
        let d ← fetchB s w wid x bTid b ct pal row col
        beginAdd s wid w x e tile slot bTid b d
    | _ => waits)

/-! ## Gangs (R218, R219) -/

/-- Two members' operations match (R218). -/
def gangMatch (s : State) (x y : Nat × Wave × EngineItem) : Bool :=
  gangSetOf s x.1 x.2.2 == gangSetOf s y.1 y.2.2 &&
    (match x.2.2.op, y.2.2.op with
     | .mlut _ _ t b _ _ r c p _, .mlut _ _ t' b' _ _ r' c' p' _ => t == t' && decide (b = b') && r == r' && c == c' && p == p'
     | _, _ => false)

/-- The gang register number of an operation. -/
def gangRegOf (e : EngineItem) : Nat :=
  match e.op with
  | .mlut _ _ _ _ _ _ _ _ _ (some (g, _, _, _)) => g
  | _ => 0

/-- Fail the head operation of each member. -/
def failMembers (f : Nat × Wave × EngineItem → Nat × Nat × Option Nat) : List (Nat × Wave × EngineItem) → State → State
  | [], s => s
  | m :: r, s =>
    let z := f m
    failMembers f r (engineFail s m.1 m.2.2 z.1 z.2.1 (z.2.2.getD (engineUnit m.1 m.2.2.op z.1)))

/-- Insert by WAVEID, ascending: members are taken by their identifier. -/
def insertMember (m : Nat × Wave × EngineItem) : List (Nat × Wave × EngineItem) → List (Nat × Wave × EngineItem)
  | [] => [m]
  | x :: r => if m.1 < x.1 then m :: x :: r else x :: insertMember m r

def sortMembers : List (Nat × Wave × EngineItem) → List (Nat × Wave × EngineItem)
  | [] => []
  | m :: r => insertMember m (sortMembers r)

/-- A member begins its part of the shared operation (R217, R218). -/
def memberBegin (d : TileData) (s : State) (m : Nat × Wave × EngineItem) : Res State :=
  match ctxRec s m.2.1, getWave s m.1, m.2.2.op with
  | some (_, x), some w, .mlut tile slot bTid b _ _ _ _ _ _ => beginAdd s m.1 w x m.2.2 tile slot bTid b d
  | _, _, _ => waits

/-- Every member's part, or the first stop. -/
def membersBegin (d : TileData) : State → List (Nat × Wave × EngineItem) → Res State
  | s, [] => .ok s
  | s, m :: r => match memberBegin d s m with | .ok t => membersBegin d t r | .error e => .error e

/-- A member's own failure: its table is stale or does not pair (R219). -/
def ownFailure (s : State) (m : Nat × Wave × EngineItem) : Res Unit :=
  match ctxRec s m.2.1, m.2.2.op with
  | some (_, x), .mlut _ slot bTid b _ _ _ _ _ _ => do
    let u ← usableTable s m.1 m.2.1 x slot
    let _ ← orStop (pairOf u.1 b b.palette) (.fault 0x11 (tensorDetail bTid slot) none none)
    .ok ()
  | _, _ => waits

/-- The stop of a member that is a fault. -/
def faultOf (r : Res Unit) : Option (Nat × Nat × Option Nat) :=
  match r with
  | .error (.fault c d _ u) => some (c, d, u)
  | _ => none

/-- Every member begins, unless one fails by itself: then the others name it (R219). -/
def latchBegin (s : State) (ms : List (Nat × Wave × EngineItem)) (d : TileData) : Out :=
  match ms.filterMap (fun m => (faultOf (ownFailure s m)).map (fun z => (m, z))) with
  | (m0, _) :: _ =>
    .next (failMembers (fun m => match faultOf (ownFailure s m) with
      | some z => z
      | none => (0x10, gangDetail (gangRegOf m.2.2) 3 (m0.1 % 128) 0, none)) ms s)
  | [] =>
    if ms.any (fun m => (ownFailure s m).toOption.isNone) then stall s
    else
      match membersBegin d s ms with
      | .ok t => .next t
      | .error (.fault c z _ u) => .next (failMembers (fun _ => (c, z, u)) ms s)
      | .error _ => stall s

/-- The latch of a gang whose members' operations all match: the shared fetch, then every member's part (R217 to R219). -/
def latchRun (s : State) (ms : List (Nat × Wave × EngineItem)) (wid : Nat) (w : Wave) (x : Context) (e : EngineItem) : Out :=
  match e.op with
  | .mlut _ _ bTid b ct pal row col _ _ =>
    (match fetchB s w wid x bTid b ct pal row col with
     | .error (.fault c d _ u) => .next (failMembers (fun _ => (c, d, u)) ms s)
     | .error .wait => stall s
     | .error (.request p a) => requestLine s (jobOf s w) p a
     | .error (.evict l) => evictLine s l
     | .ok d => latchBegin s ms d)
  | _ => stall s

/-- The latch of the gang that an operation names: a departed member or a mismatch fails, else the members begin (R218, R219). -/
def latchMeets (s : State) (wid : Nat) (w : Wave) (x : Context) (e : EngineItem) (g word : Nat) (us : List Nat) : Out :=
  let waves := gangWaves s wid word us
  match waves.find? (fun p => departed s p.2) with
  | some p => .next (engineFail s wid e 0x10 (gangDetail g 2 p.1 0) (engineUnit wid e.op 0x10))
  | none =>
    match sortMembers (latched s w waves) with
    | [] => stall s
    | m0 :: ms =>
      if (m0 :: ms).any (fun m => waitsForTable s m.1 m.2.1 m.2.2) then stall s
      else
        match ms.find? (fun m => !(gangMatch s m0 m)) with
        | some m => .next (failMembers (fun q => (0x10, gangDetail (gangRegOf q.2.2) 1 (m.1 % 128) 0, none)) (m0 :: ms) s)
        | none => latchRun s (m0 :: ms) wid w x e

/-- A turn of the ganged operation at the head of a wave's queue: the rendezvous, or the next group of this member (R218). -/
def execMlutgLatchComplete (wid : Nat) (s : State) : Out :=
  match getWave s wid with
  | none => stall s
  | some w =>
    match latchHead s w.uid, ctxRec s w with
    | some (_, _, e), some (_, x) =>
      if takesHead s wid w && servedNow s wid w && unitRuns s wid then
        match e.op, e.adding with
        | .mlut tile _ _ b _ _ _ _ p _, some z => .next (addNext s wid w e tile p b z)
        | .mlut _ _ _ _ _ _ _ _ _ (some (g, word, us, _)), none =>
          (match latchMeets s wid w x e g word us with
           | .next t => .next (if t.stalled then t else servedAt wid t)
           | o => o)
        | _, _ => stall s
      else stall s
    | _, _ => stall s

/-! ## MOUT and MXPQ (R225, R226) -/

/-- Signed and unsigned integer formats by code (R12): width and sign. -/
def intWidth (f : Nat) : Nat × Bool := (fmtBits f, fmtSigned f)

/-- An element of MOUT: the code written and the SATF bits (R225). -/
def moutElem (fmt mode : Nat) (sat iacc : Bool) (u x : Nat) : Nat × BitVec 4 :=
  if intFmt fmt then
    let z := intWidth fmt
    if iacc then satInt z.2 z.1 (sextNat x 32) else fpToFormat z.2 z.1 mode u (fpOfFp32 x)
  else
    let v := if iacc then fpOfInt (sextNat x 32) else fpOfFp32 x
    rounded (roundFp (if fmt = 0x0A then .bf16 else .fp32) mode u sat v)

/-- The elements of MOUT in row-major order, and the engine generator after them: one draw per element under SR (R27, R225), also where an
integer is only saturated and the mode is SR through code 7, which the rule leaves open (log entry 71). -/
def moutElems (fmt mode : Nat) (sat iacc : Bool) : List Nat → Word → List (Nat × BitVec 4) × Word
  | [], g => ([], g)
  | x :: r, g =>
    let g := if mode = 4 then genStep g else g
    let rest := moutElems fmt mode sat iacc r g
    (moutElem fmt mode sat iacc (drawOf g) x :: rest.1, rest.2)

def isMout : EngineOp → Bool
  | .mout _ _ _ _ _ _ _ _ => true
  | _ => false

def execMoutExecute (wid : Nat) (s : State) : Out :=
  runMatrixWhole s wid isMout (fun w x e =>
    match e.op with
    | .mout _ d row col tile mode sat iacc => do
      let team ← teamOr s w
      if tilePoisoned team tile then raises 0x17 (tilePoison team tile)
      else
        let out := moutElems d.fmt mode sat iacc ((List.range 256).map (fun i => (Cells.get 0 team.acc (tile * 256 + i)).toNat)) w.engGen
        let c := s.freeCtr
        let cells := (out.1.zipIdx).map (fun p =>
          (row * 16 + p.2 / 16, col * 16 + p.2 % 16,
           if e.hazard ≠ 0 ∨ e.unseen.contains p.2 = true then (Config.freeWord (c + p.2)).toNat % 2 ^ fmtBits d.fmt else p.1.1, false))
        let t ← orEngine true (engineElems wid w x e d s cells)
        let flags := out.1.foldl (fun f o => f ||| o.2) 0
        .ok (modWave (if e.hazard ≠ 0 ∨ e.unseen ≠ [] then spendFree 256 t else t) wid (fun w => setFlags flags { w with engGen := out.2 }))
    | _ => waits)

/-- The largest magnitude that a format's codes reach (R226). -/
def xposeMax (fmt : Nat) (p : Palette) : Fp :=
  match fmt with
  | 1 => fpOfInt 1
  | 2 => fpOfInt 7
  | _ => paletteMax p

/-- A scaled value as a code of the format (R226). -/
def xposeCode (fmt : Nat) (p : Palette) (y : Nat) : Nat × BitVec 4 :=
  match fmt with
  | 1 =>
    let r := fpToInt 0 0 (-1) 1 (fpOfFp32 y)
    (t2Code r.1, r.2)
  | 2 => fpToFormat true 4 0 0 (fpOfFp32 y)
  | _ => let c := codeFor p y; (c.1, if c.2 then invalidBit else 0)

/-- A block of the transposed tile: its scale byte, its codes, and the SATF bits. -/
def xposeBlock (d : Tensor) (p : Palette) (xs : List Nat) : Nat × List Nat × BitVec 4 :=
  let c := chooseScale (valueMax xs) (xposeMax d.fmt p) d.scaleBase
  let ys := xs.map (fun x => xposeCode d.fmt p (scaledDown x c.1 d.scaleBase))
  (c.1, ys.map (fun y => y.1), ys.foldl (fun f y => f ||| y.2) (if c.2 then satBit else 0))

/-- Write the blocks of tile (row, col) of the destination: codes, then the scale byte of each. -/
def xposeWrite (wid : Nat) (w : Wave) (x : Context) (e : EngineItem) (d : Tensor) (row col : Nat) :
    State → List ((Nat × Nat) × Nat × List Nat) → Ranged State
  | s, [] => .ok s
  | s, ((r, c), b, ys) :: rest =>
    let cells := (ys.zipIdx).map (fun p =>
      (row * d.trows + (if d.kaxis = 0 then r + p.2 else r), col * d.tcols + (if d.kaxis = 0 then c else c + p.2), p.1, false))
    match engineElems wid w x e d s cells with
    | .error z => .error z
    | .ok s =>
      match engineWriteAll s wid w x e (scaleAt d (row * d.trows + r) (col * d.tcols + c)) [(BitVec.ofNat 8 b, false)] with
      | .error z => .error z
      | .ok s => xposeWrite wid w x e d row col s rest

def isMxpq : EngineOp → Bool
  | .mxpq _ _ _ _ _ _ _ _ => true
  | _ => false

/-- The source's value of element (r, c), with the SATF bits (R226). -/
def xposeValue (src : Tensor) (p : Palette) (d : TileData) (r c : Nat) : Nat × BitVec 4 :=
  if d.zero then (0, 0)
  else scaledValue src p (d.codes.getD (codeIndex src r c) 0) (d.scales.getD (blockIndex src r c) 0)

def execMxpqExecute (wid : Nat) (s : State) : Out :=
  runMatrixWhole s wid isMxpq (fun w x e =>
    match e.op with
    | .mxpq _ d sTid src ct p row col => do
      let tile ← fetchB s w wid x sTid src ct p row col
      let c := s.freeCtr
      let blocks := (blockCells d).map (fun b =>
        let xs := (List.range d.blockLen).map (fun j =>
          let r := if d.kaxis = 0 then b.1 + j else b.1
          let k := if d.kaxis = 0 then b.2 else b.2 + j
          (xposeValue src p tile k r))
        let y := xposeBlock d p (xs.map (fun v => v.1))
        (b, y, xs.foldl (fun f v => f ||| v.2) y.2.2))
      let out := (blocks.zipIdx).map (fun b =>
        if e.hazard ≠ 0 then
          (b.1.1, (Config.freeWord (c + 64 * b.2)).toNat % 256,
           (List.range d.blockLen).map (fun j => (Config.freeWord (c + 64 * b.2 + 1 + j)).toNat % 2 ^ fmtBits d.fmt))
        else (b.1.1, b.1.2.1.1, b.1.2.1.2.1))
      let t ← orEngine true (xposeWrite wid w x e d col row s out)
      .ok (modWave (if e.hazard ≠ 0 then spendFree (64 * blocks.length) t else t) wid
        (setFlags (blocks.foldl (fun f b => f ||| b.2.2) 0)))
    | _ => waits)

end Sys2Proof.Machine
end

