-- ==== Sys2Proof/Machine/Copies.lean ====
section
/-! DEFINITION. The copy operations CPT, CPG, CPS, CPB and CPMC, and SEND, of spec/09_engine_synchronisation_and_system_instructions.md:
issue checks and execution (R54, R235 to R245, R288, R289, R422, R423). -/

namespace Sys2Proof.Machine

/-! ## Asynchronous errors (R65, R240, R242) -/

/-- Change a wave by its unique number, whether it is placed or saved. -/
def modUid (s : State) (uid : Nat) (f : Wave → Wave) : State :=
  { s with
    waves := s.waves.map (fun p => if p.2.uid = uid then (p.1, f p.2) else p)
    teams := s.teams.map (fun t => (t.1, { t.2 with saved := t.2.saved.map (fun v => (v.1, v.2.map (fun w => if w.uid = uid then f w else w))) })) }

/-- Record an asynchronous error of the wave with this number. -/
def recordAsync (s : State) (uid code member : Nat) : State := modUid s uid (asyncError code member)

/-! ## The on-chip window (R288, R289) -/

/-- A run of window bytes names storage (0x09) and whole registers (0x08). -/
def winCheck (addr len : Nat) : Res Unit := do
  let o := addr % 2 ^ 22
  ensure (decide (addr % 2 ^ 56 / 2 ^ 33 = 0) && decide (winRegion addr ≠ 3) && decide (o + len ≤ 2 ^ 22)
    && (winRegion addr != 0 || decide (o % 2 ^ 17 + len ≤ 98304))) 0x09 (addrDetail addr true false)
  ensure (winRegion addr != 0 || (decide (o % 2 ^ 17 % 384 = 0) && decide (len % 384 = 0))) 0x08 (addrDetail addr true false)

/-! ## Issue checks (R241, R242, R245) -/

/-- An address of the global aperture, or a whole range of the team's scratchpad. -/
def inGlobalOrSpad (s : State) (w : Wave) (a n : Nat) : Bool :=
  apertureOf a == 0 || (apertureOf a == 1 && decide (a % 2 ^ 56 + n ≤ spadSizeOf s w))

def alignedTo (k a : Nat) (write : Bool) : Res Unit := ensure (decide (a % k = 0)) 0x08 (addrDetail a write false)

/-- The runs of window bytes that a tile covers. -/
def winRuns (t : Tensor) (tr tc : Nat) : List (Nat × Nat) :=
  let row := fun r => (elemAt t (tr * t.trows + r) (tc * t.tcols)).1
  let n := ceilDiv (t.tcols * fmtBits t.fmt) 8
  if t.tcols = t.cols then [(2 ^ 56 * 3 + row 0 % 2 ^ 56, n * t.trows)]
  else (List.range t.trows).map (fun r => (2 ^ 56 * 3 + row r % 2 ^ 56, n))

def execCpt (f : CE) (s : State) : Out :=
  engineIssue (.cpt f) f true true true false (fun _ w a b c => do
    let sTid := f.opts.toNat % 64
    let dTid := f.t.toNat
    let src ← tensorFor s w sTid 0
    ensure (decide (src.kind < 2) && src.blockLen == 0) 0x11 (tensorDetail sTid 0)
    let d ← tensorFor s w dTid 0
    ensure ((decide (d.kind < 2) || d.kind == 4) && d.blockLen == 0 && d.fmt == src.fmt && d.trows == src.trows
      && d.tcols == src.tcols) 0x11 (tensorDetail dTid 0)
    tileIn src sTid a.toNat b.toNat
    let drow := c.toNat % 2 ^ 32
    let dcol := c.toNat / 2 ^ 32
    tileIn d dTid drow dcol
    if d.kind = 4 then (winRuns d drow dcol).forM (fun r => winCheck r.1 r.2) else .ok ()
    .ok (.cpt dTid d sTid src a.toNat b.toNat drow dcol)) s

/-- The checks that CPG and CPS share. -/
def rowCopyChecks (s : State) (w : Wave) (tid : Nat) (list count off : Nat) : Res Tensor := do
  let t ← tensorFor s w tid 0
  ensure (decide (t.kind < 2) && t.blockLen == 0 && decide (t.cols * fmtBits t.fmt % 32 = 0)) 0x11 (tensorDetail tid 0)
  ensure (decide (apertureOf list < 2)) 0x09 (addrDetail list false false)
  alignedTo 4 list false
  alignedTo 4 off true
  ensure (decide (off + count * rowBytes t ≤ spadSizeOf s w)) 0x09 (addrDetail off true false)
  ensure (decide (count ≤ 65536)) 0x12 (rangeDetail count tid)
  .ok t

def execCpg (f : CE) (s : State) : Out :=
  engineIssue (.cpg f) f true true true false (fun _ w a b c => do
    let t ← rowCopyChecks s w f.t.toNat a.toNat b.toNat c.toNat
    .ok (.cpg f.t.toNat t a.toNat b.toNat c.toNat)) s

def execCps (f : CE) (s : State) : Out :=
  engineIssue (.cps f) f true true true false (fun _ w a b c => do
    let t ← rowCopyChecks s w f.t.toNat a.toNat b.toNat c.toNat
    .ok (.cps f.t.toNat t a.toNat b.toNat c.toNat)) s

def execCpb (f : CE) (s : State) : Out :=
  engineIssue (.cpb f) f true true true false (fun _ w a b c => do
    let src := a.toNat
    let dst := b.toNat
    let n := c.toNat
    let wb := decide (f.opts.toNat % 2 = 1)
    ensure (inGlobalOrSpad s w src (n % 2 ^ 32)) 0x09 (addrDetail src false false)
    ensure (wb || apertureOf dst == 3 || inGlobalOrSpad s w dst (n % 2 ^ 32)) 0x09 (addrDetail dst true false)
    alignedTo 4 src false
    alignedTo 4 dst true
    alignedTo 4 n false
    ensure (decide (n < 2 ^ 32)) 0x12 (rangeDetail n 0)
    ensure (!wb || decide (dst + n ≤ weightBytes)) 0x12 (rangeDetail (dst + n) 0)
    if wb = false ∧ apertureOf dst = 3 ∧ n ≠ 0 then winCheck dst n else .ok ()
    .ok (.cpb src dst n wb (f.aux.toNat % 4))) s

def execCpmc (f : CE) (s : State) : Out :=
  engineIssue (.cpmc f) f true true true false (fun _ w a b c => do
    let units := f.opts.toNat + 1
    ensure (inGlobalOrSpad s w a.toNat (32 * units)) 0x09 (addrDetail a.toNat false false)
    ensure (decide (apertureOf c.toNat = 0)) 0x09 (addrDetail c.toNat false false)
    alignedTo 32 a.toNat false
    alignedTo 32 b.toNat true
    alignedTo 4 c.toNat false
    .ok (.cpmc a.toNat b.toNat c.toNat units (f.aux.toNat % 4))) s

/-- A capability that allows an instruction, or 0x0C with its reason (R244). -/
def capFor (s : State) (w : Wave) (k : Nat) (kinds : List Nat) (perm : Nat) : Res Capability := do
  let cx ← ctxRes s w
  let c ← orStop (Tbl.find? cx.2.caps k) (.fault 0x0C k none none)
  ensure (kinds.contains c.kind && decide (c.perms / 2 ^ perm % 2 = 1)) 0x0C (k + 1 * 2 ^ 8)
  .ok c

def execSend (f : CE) (s : State) : Out :=
  engineIssue (.send f) f true true true false (fun _ w a b c => do
    let k := f.opts.toNat % 256
    let n := b.toNat
    let cap ← capFor s w k [1] 0
    ensure (decide (n ≤ 4096 ∧ n % 32 = 0)) 0x12 (rangeDetail n 0)
    ensure (inGlobalOrSpad s w a.toNat n) 0x09 (addrDetail a.toNat false false)
    alignedTo 32 a.toNat false
    ensure (decide (n ≤ cap.allowance)) 0x0C (k + 2 * 2 ^ 8)
    .ok (.send k cap a.toNat n (c.toNat % 2 ^ 16))) s

/-! ## Reads of the copy engine (R240) -/

/-- Bytes of one piece of storage with their poison, as performed at DEVICE scope (R317). -/
def copyPiece (s : State) (wid : Nat) (p : Place) (k : Nat) : Ranged (List Byte × Bool) :=
  if narrowMeets s (engineOf wid) p k then .error .wait else .ok (readBase s p k, placePoisoned s p k)

/-- Bytes with their poison, 32-byte sector by sector (R240). -/
def copyRead (s : State) (wid : Nat) (w : Wave) (x : Context) : Nat → Nat → Nat → Ranged (List (Byte × Bool))
  | 0, _, _ => .ok []
  | fuel + 1, addr, n =>
    if n = 0 then .ok []
    else
      let k := min n (32 - addr % 32)
      let piece : Ranged (List Byte × Bool) :=
        match apertureOf addr with
        | 0 =>
          (match translate s x .read (addr % 2 ^ 56) with
           | .to (.remote q a) => (match heldCopy s q a with
             | some (bs, p) => .ok ((bs.drop (a % 128)).take k, p)
             | none => .error (.remote q a))
           | .to p => copyPiece s wid p k
           | .absent e => .error (.absent addr e)
           | .denied => .error (.denied addr)
           | .poisoned e => .error (.poisoned addr (memoryPoison s e 8))
           | .copyFirst => .error .wait)
        | 1 =>
          if addr % 2 ^ 56 + k ≤ spadSizeOf s w then copyPiece s wid (.spad w.team (addr % 2 ^ 56)) k else .error (.outside addr)
        | _ => .error (.outside addr)
      match piece with
      | .error e => .error e
      | .ok (bs, p) =>
        match copyRead s wid w x fuel (addr + k) (n - k) with
        | .error e => .error e
        | .ok r => .ok (bs.map (fun b => (b, p)) ++ r)

def copyBytes (s : State) (wid : Nat) (w : Wave) (x : Context) (addr n : Nat) : Ranged (List (Byte × Bool)) := copyRead s wid w x (n / 32 + 2) addr n

/-! ## Writes of the copy engine -/

/-- Poison of the sectors of a run of flagged bytes written from `off`. -/
def sectorRuns (off : Nat) : Nat → List (Byte × Bool) → List (Nat × List (Byte × Bool))
  | 0, _ => []
  | _ + 1, [] => []
  | n + 1, bs =>
    let k := 32 - off % 32
    (off, bs.take k) :: sectorRuns (off + k) n (bs.drop k)

/-- Write the weight buffer of a cluster (R205, R240). -/
def writeWeights (s : State) (cluster off : Nat) (bs : List (Byte × Bool)) : State :=
  (sectorRuns off (bs.length / 32 + 2) bs).foldl (fun s r =>
    let c := getCluster s cluster
    setCluster s cluster
      { c with
        wb := cellsWrite 0 c.wb r.1 (r.2.map (fun b => b.1))
        wbPoison := poisonSectors c.wbPoison r.1 r.2.length (r.2.any (fun b => b.2)) (r.1 / 32) (sectorCount r.1 r.2.length)
        wbChecks := clearChecks c.wbChecks r.1 r.2.length (r.1 / 32) (sectorCount r.1 r.2.length) }) s

/-- The team of a core and context whose scratchpad rows, or accumulator tiles, hold a physical offset. -/
def spadOwner (s : State) (ctx core off : Nat) : Option (Nat × Team) :=
  List.find? (fun p : Nat × Team => p.2.core == core && p.2.saved.isNone && decide (p.2.spadBase ≤ off) && decide (off < p.2.spadBase + p.2.spadSize)
    && (match getLaunch s p.2.lid with | some l => l.ctx == ctx | none => false)) s.teams

def accOwner (s : State) (ctx core tile : Nat) : Option (Nat × Team) :=
  List.find? (fun p : Nat × Team => p.2.core == core && p.2.saved.isNone && decide (p.2.accBase ≤ tile) && decide (tile < p.2.accBase + p.2.accCount)
    && (match getLaunch s p.2.lid with | some l => l.ctx == ctx | none => false)) s.teams

/-- One 32-byte piece through the window to scratchpad or the accumulator store; another target refuses it (R54, R289). -/
def windowPiece (s : State) (uid ctx addr : Nat) (bs : List (Byte × Bool)) : State :=
  let core := winCore addr
  let o := addr % 2 ^ 22
  let data := bs.map (fun b => b.1)
  let poison := bs.any (fun b => b.2)
  if winRegion addr = 1 then
    match spadOwner s ctx core o with
    | some (t, x) => writeSpad s t (o - x.spadBase) data poison
    | none => recordAsync s uid 0x0B s.pkg
  else
    match accOwner s ctx core (o / 1024) with
    | some (t, x) =>
      let tile := o / 1024 - x.accBase
      let key := tile * 256 + o % 1024 / 4
      if pendingInto s t tile then
        spendFree 256 (modTeam s t (fun y =>
          { writeTile tile (fun i => Config.freeWord (s.freeCtr + i)) y with
            accHot := (List.range 256).foldl (fun h i => Cells.set false h (tile * 256 + i) true) y.accHot }))
      else
        modTeam s t (fun y =>
          { y with
            acc := ((List.range (data.length / 4)).foldl (fun a j => Cells.set 0 a (key + j) (BitVec.ofNat 32 (natOfBytes ((data.drop (4 * j)).take 4)))) y.acc)
            accPoison := poisonSectors y.accPoison (4 * key) data.length poison (key / 8) (sectorCount (4 * key) data.length)
            accChecks := clearChecks y.accChecks (4 * key) data.length (key / 8) (sectorCount (4 * key) data.length) })
    | none => recordAsync s uid 0x0B s.pkg

/-- Whole registers through the window: each waits to be accepted (R54). -/
def windowRegs (uid op ctx addr : Nat) : Nat → List (Byte × Bool) → List WindowWrite
  | 0, _ => []
  | _ + 1, [] => []
  | n + 1, bs =>
    let o := addr % 2 ^ 22
    { uid := uid, op := op, ctx := ctx, target := winCore addr * 32 + o / 2 ^ 17, reg := o % 2 ^ 17 / 384,
      words := lineWords ((bs.take 384).map (fun b => b.1)) 96 0 } :: windowRegs uid op ctx (addr + 384) n (bs.drop 384)

/-- Where the poison of a source byte comes from (R457). -/
def sourceFrom (s : State) (w : Wave) (a : Nat) : PoisonFrom :=
  match ctxRec s w with
  | some (_, x) =>
    if a / 2 ^ 56 = 0 then (match translate s x .read a with | .to p => poisonFrom s p 1 | _ => poisonHeld true)
    else poisonFrom s (.spad w.team (a % 2 ^ 56)) 1
  | none => poisonHeld true

/-- A run written through the window; what it writes to a register waits for acceptance (R54). -/
def windowWrite (s : State) (w : Wave) (e : EngineItem) (ctx addr : Nat) (bs : List (Byte × Bool)) : State :=
  if winRegion addr = 0 then { s with windowWrites := s.windowWrites ++ windowRegs w.uid e.id ctx addr (bs.length / 384 + 1) bs }
  else (sectorRuns (addr % 2 ^ 22) (bs.length / 32 + 2) bs).foldl (fun s r =>
    windowPiece s w.uid ctx (addr / 2 ^ 22 * 2 ^ 22 + r.1) r.2) s

/-! ## What the copies read and write (R236 to R241) -/

/-- A destination moved on. -/
def CopyDst.add (d : CopyDst) (n : Nat) : CopyDst :=
  match d with
  | .gen a => .gen (a + n)
  | .weights o => .weights (o + n)
  | .window a => .window (a + n)

/-- Whether a window destination is a register file. -/
def toRegisters (d : CopyDst) : Bool := match d with | .window a => winRegion a == 0 | _ => false

/-- The row list of CPG and CPS, read whole; a row beyond the tensor raises 0x12 with its position (R241). -/
def rowList (s : State) (wid : Nat) (w : Wave) (x : Context) (t : Tensor) (tid list count : Nat) : Res (List Nat) := do
  let bs ← orEngine false (readRange s w (engineOf wid) x list (4 * count))
  let rows := lineWords bs count 0
  match (rows.zipIdx).find? (fun p => decide (t.rows ≤ p.1)) with
  | some p => raises 0x12 (rangeDetail p.2 tid)
  | none => .ok rows

/-- Element codes of a tile with their poison (R240, R241). -/
def copyElems (s : State) (wid : Nat) (w : Wave) (x : Context) (t : Tensor) (tr tc : Nat) : List (Nat × Nat) → Res (List (Nat × Nat × Nat × Bool))
  | [] => .ok []
  | (r, c) :: rest => do
    let p := elemAt t (tr * t.trows + r) (tc * t.tcols + c)
    let bs ← orEngine false (copyBytes s wid w x p.1 (elemBytes t))
    let out ← copyElems s wid w x t tr tc rest
    .ok ((r, c, natOfBytes (bs.map (fun b => b.1)) / 2 ^ p.2 % 2 ^ fmtBits t.fmt, bs.any (fun b => b.2)) :: out)

def tileCells (t : Tensor) : List (Nat × Nat) := (List.range (tileElems t)).map (fun i => (i / t.tcols, i % t.tcols))

/-- Bytes of the elements of a run, each poisoned where an element in it is. -/
def packBytes (bits : Nat) (es : List (Nat × Nat × Nat × Bool)) : List (Byte × Bool) :=
  let n := ceilDiv (es.length * bits) 8
  ((bytesOfNat n (packCodes bits (es.map (fun e => e.2.2.1)))).zipIdx).map (fun b =>
    (b.1, (es.zipIdx).any (fun e => e.1.2.2.2 && decide (e.2 * bits < 8 * b.2 + 8) && decide (8 * b.2 < e.2 * bits + bits))))

/-- The first byte of a row of a tile. -/
def rowStart (t : Tensor) (tr tc r : Nat) : Nat := (elemAt t (tr * t.trows + r) (tc * t.tcols)).1

/-- The runs that a copy reads and the runs that it writes, as two streams of bytes of one length: what is read at a place of the first goes
to that place of the second. A tile of elements narrower than a byte has none: it moves element by element. -/
def copyStreams (e : EngineItem) : List (Nat × Nat) × List (CopyDst × Nat) :=
  match e.op with
  | .cpb src dst len wb _ => ([(src, len)], [(if wb then .weights dst else if apertureOf dst = 3 then .window dst else .gen dst, len)])
  | .cpg _ t _ _ off =>
    let rows := e.members.getD []
    let r := rowBytes t
    (rows.map (fun k => ((elemAt t k 0).1, r)), (List.range rows.length).map (fun i => (.gen (2 ^ 56 + (off + i * r)), r)))
  | .cps _ t _ _ off =>
    let rows := e.members.getD []
    let r := rowBytes t
    ((List.range rows.length).map (fun i => (2 ^ 56 + (off + i * r), r)), rows.map (fun k => (.gen (elemAt t k 0).1, r)))
  | .cpt _ d _ src row col drow dcol =>
    if fmtBits d.fmt < 8 then ([], [])
    else
      let n := src.tcols * (fmtBits d.fmt / 8)
      ((List.range src.trows).map (fun r => (rowStart src row col r, n)),
       if d.kind = 4 then (winRuns d drow dcol).map (fun r => (.window r.1, r.2))
       else (List.range d.trows).map (fun r => (.gen (rowStart d drow dcol r), n)))
  | _ => ([], [])

/-- `n` bytes of a list of runs, from byte `skip`. -/
def sliceRuns {α : Type} (move : α → Nat → α) : Nat → Nat → List (α × Nat) → List (α × Nat)
  | _, _, [] => []
  | skip, n, (a, k) :: r =>
    if n = 0 then []
    else if k ≤ skip then sliceRuns move (skip - k) n r
    else (move a skip, min n (k - skip)) :: sliceRuns move 0 (n - min n (k - skip)) r

def runsLength {α : Type} (rs : List (α × Nat)) : Nat := rs.foldl (fun n r => n + r.2) 0

/-- The next unit of a copy: 4 KiB, or whole registers through the window (R236, R289). -/
def unitLength (e : EngineItem) : Nat :=
  let p := copyStreams e
  min (runsLength p.1 - e.progress) (if p.2.any (fun d => toRegisters d.1) then 3840 else 4096)

/-- A destination byte that the operation also reads is undefined (R238). -/
def overlapsSource (e : EngineItem) (d : CopyDst) (i : Nat) : Bool :=
  match d with
  | .gen a => (copyStreams e).1.any (fun r => decide (r.1 ≤ a + i) && decide (a + i < r.1 + r.2))
  | _ => false

/-- Data of a destination run of a unit: free where the results are undefined (R231, R238). -/
def runData (e : EngineItem) (c : Nat) (d : CopyDst) (bs : List (Byte × Bool)) : List (Byte × Bool) :=
  (bs.zipIdx).map (fun p => if e.hazard ≠ 0 ∨ overlapsSource e d p.2 = true then (Config.freeByte (c + p.2), false) else p.1)

/-- Pieces of a run that end at multiples of `k` of its address. -/
def cutRun (k addr : Nat) (mk : Nat → CopyDst) : Nat → List (Byte × Bool) → Nat → List CopyWord
  | 0, _, _ => []
  | _ + 1, [], _ => []
  | n + 1, bs, o =>
    let j := k - (addr + o) % k
    { dst := mk o, bytes := bs.take j } :: cutRun k addr mk n (bs.drop j) (o + j)

/-- The pieces in which a destination run is written: aligned 8-byte words of local storage, each by itself (R238); whole lines to a peer;
sectors of the weight buffer and through the window; registers together. -/
def runWords (s : State) (w : Wave) (x : Context) (d : CopyDst) (bs : List (Byte × Bool)) : List CopyWord :=
  match d with
  | .gen a =>
    let far := match writeTarget s w x a 1 with | .ok (.remote _ _) => true | _ => false
    cutRun (if far then 128 else 8) a d.add (bs.length + 1) bs 0
  | .weights o => cutRun 32 o d.add (bs.length + 1) bs 0
  | .window a => if winRegion a = 0 then [{ dst := d, bytes := bs }] else cutRun 32 a d.add (bs.length + 1) bs 0

/-- The lines of local storage that a run fills. -/
def runLines (s : State) (w : Wave) (x : Context) (d : CopyDst) (bs : List (Byte × Bool)) : List CopyWord :=
  match d with
  | .gen a => (match writeTarget s w x a 1 with | .ok (.remote _ _) => [] | _ => cutRun 128 a d.add (bs.length + 1) bs 0)
  | _ => []

/-- The bytes of the source runs of a unit. Poisoned bytes never reach a register: 0x17 with the source address (R240). -/
def readUnit (s : State) (wid : Nat) (w : Wave) (x : Context) (regs : Bool) : List (Nat × Nat) → Res (List (Byte × Bool))
  | [] => .ok []
  | (a, n) :: r => do
    let bs ← orEngine false (copyBytes s wid w x a n)
    match (bs.zipIdx).find? (fun p => regs && p.1.2) with
    | some p =>
      let f := sourceFrom s w (a + p.2)
      .error (.fault 0x17 (poisonDetail (a + p.2) false f.own) none f.unit)
    | none => do
      let rest ← readUnit s wid w x regs r
      .ok (bs ++ rest)

/-- The data of a unit as pieces to write: words, then the lines they fill. -/
def unitWords (s : State) (w : Wave) (x : Context) (e : EngineItem) (c : Nat) : List (CopyDst × Nat) → List (Byte × Bool) → List CopyWord × List CopyWord
  | [], _ => ([], [])
  | (d, n) :: r, bs =>
    let data := runData e c d (bs.take n)
    let rest := unitWords s w x e (c + n) r (bs.drop n)
    (runWords s w x d data ++ rest.1, runLines s w x d data ++ rest.2)

/-- Write one piece. -/
def writeWord (s : State) (wid : Nat) (w : Wave) (ctx : Nat) (x : Context) (e : EngineItem) (d : CopyDst) (bs : List (Byte × Bool)) : Res State :=
  match d with
  | .gen a => orEngine true (engineWriteAll s wid w x e a bs)
  | .weights o => .ok (writeWeights s (clusterOf wid) o bs)
  | .window a => .ok (windowWrite s w e ctx a bs)

/-- The lines whose words are all written: one written whole is poisoned where its data is, and nowhere else (R240, R479). -/
def closeLines (wid : Nat) (w : Wave) (x : Context) (e : EngineItem) : List CopyWord → State → Res State
  | [], s => .ok s
  | k :: r, s =>
    match k.dst with
    | .gen a => do
      let t ← orEngine true (engineWriteAll s wid w x e a ((k.bytes.zipIdx).map (fun b => (engineByte s w x (a + b.2), b.1.2))))
      closeLines wid w x e r t
    | _ => closeLines wid w x e r s

/-- A tile of elements narrower than a byte, element by element; the bits around it are kept (R168, R241). -/
def copyTile (s : State) (wid : Nat) (w : Wave) (ctx : Nat) (x : Context) (e : EngineItem) (d src : Tensor) (row col drow dcol : Nat) :
    Res State := do
  let es ← copyElems s wid w x src row col (tileCells src)
  let c := s.freeCtr
  let reads := tileRegions src row col false
  let lost := fun (z : Nat × Nat) =>
    let p := elemAt d (drow * d.trows + z.1) (dcol * d.tcols + z.2)
    decide (e.hazard ≠ 0) || (d.kind != 4 && reads.any (regionMeets (regionAt p.1 1 true)))
  let es := (es.zipIdx).map (fun p =>
    if lost (p.1.1, p.1.2.1) then (p.1.1, p.1.2.1, (Config.freeWord (c + p.2)).toNat % 2 ^ fmtBits d.fmt, false) else p.1)
  let s := spendFree es.length s
  if d.kind = 4 then
    let rows := if d.tcols = d.cols then [es] else (List.range d.trows).map (fun r => es.filter (fun z => z.1 == r))
    let runs := ((winRuns d drow dcol).zip rows).map (fun r => (r.1.1, packBytes (fmtBits d.fmt) r.2))
    let a := rowStart src row col 0
    ensure (!(runs.any (fun r => winRegion r.1 == 0 && r.2.any (fun b => b.2)))) 0x17 (poisonDetail a false (sourceFrom s w a).own)
    .ok (runs.foldl (fun s r => windowWrite s w e ctx r.1 r.2) s)
  else
    orEngine true (engineElems wid w x e d s (es.map (fun z => (drow * d.trows + z.1, dcol * d.tcols + z.2.1, z.2.2.1, z.2.2.2))))

/-- A copy has done all it reads and writes here; register-file writes through the window complete when accepted (R237). -/
def copyDone (wid : Nat) (e : EngineItem) (s : State) : State :=
  let s := modWave s wid (hazardFlag e)
  match getWave s wid with
  | some w =>
    if s.windowWrites.any (fun z => z.uid == w.uid && z.op == e.id) then modItem wid e.id (fun e => { e with injected := true }) s
    else finishItem wid e.id s
  | none => s

/-- The next unit of a copy is read: its data stands ready to be written. -/
def beginUnit (s : State) (wid : Nat) (w : Wave) (x : Context) (e : EngineItem) : Res State := do
  let p := copyStreams e
  let n := unitLength e
  let dst := sliceRuns CopyDst.add e.progress n p.2
  let bs ← readUnit s wid w x (dst.any (fun d => toRegisters d.1)) (sliceRuns (fun a k => a + k) e.progress n p.1)
  let u := unitWords s w x e s.freeCtr dst bs
  .ok (modItem wid e.id (fun e => { e with started := true, progress := e.progress + n, words := u.1, lines := u.2 }) (spendFree n s))

/-- One turn of a copy: a word of the unit in hand, whichever it is (R238); or the lines that the words have filled; or the next unit. -/
def streamTurn (s : State) (wid : Nat) (w : Wave) (ctx : Nat) (x : Context) (e : EngineItem) : Res State :=
  match e.words with
  | k :: r => do
    let i := Config.freeNat s.freeCtr % (k :: r).length
    let z := (k :: r).getD i k
    let t ← writeWord (spendFree 1 s) wid w ctx x e z.dst z.bytes
    .ok (modItem wid e.id (fun e => { e with words := (k :: r).eraseIdx i }) t)
  | [] => do
    let t ← closeLines wid w x e e.lines s
    let e' := { e with lines := [] }
    let t := modItem wid e.id (fun e => { e with lines := [] }) t
    if e.progress < runsLength (copyStreams e).1 then beginUnit t wid w x e' else .ok (copyDone wid e' t)

/-! ## CPMC (R242, R422, R423) -/

/-- The member list: its packages, or 0x12 (R242). -/
def memberList (s : State) (wid : Nat) (w : Wave) (x : Context) (list : Nat) : Res (List Nat) := do
  let nb ← orEngine false (readRange s w (engineOf wid) x list 2)
  let n := natOfBytes nb
  ensure (decide (1 ≤ n ∧ n ≤ 4096)) 0x12 (rangeDetail n 0)
  let bs ← orEngine false (readRange s w (engineOf wid) x (list + 2) (2 * n))
  let ms := (halves bs n).map (fun h => h.toNat)
  match ms.zipIdx.find? (fun p => (ms.take p.2).contains p.1) with
  | some p => raises 0x12 (rangeDetail p.2 0)
  | none => .ok ms

/-- A member has failed. -/
def castFails (wid : Nat) (e : EngineItem) (i : Nat) (s : State) : State := modItem wid e.id (fun e => { e with failed := e.failed ++ [i] }) s

/-- One copy of a 32-byte unit to a member: written here, or a write with the multicast bit (R422). A member with no usable
path has failed. -/
def castOne (wid : Nat) (w : Wave) (x : Context) (e : EngineItem) (dst : Nat) (bs : List (Byte × Bool)) (s : State) (m : Nat × Nat) :
    Ranged State :=
  if m.1 = s.pkg then
    match engineWriteAll s wid w x e (dst % 2 ^ 48) bs with
    | .ok t => .ok t
    | .error (.denied _) => .ok (castFails wid e m.2 s)
    | .error z => .error z
  else if s.fabric.unreachable.contains m.1 ∨ (usablePaths s (planeOf s dst) m.1).isEmpty then .ok (castFails wid e m.2 s)
  else if lineFree s m.1 (dst % 2 ^ 48) then
    let d := memDraft 3 m.1 x.job (dst % 2 ^ 48) (bs.map (fun b => b.1))
    .ok (sendPacket (dropCopy s (x.job * 65536 + m.1) (dst % 2 ^ 48)) { d with multicast := true, poisoned := bs.any (fun b => b.2) } (.copy w.uid e.id m.2))
  else .error .wait

def castUnit (wid : Nat) (w : Wave) (x : Context) (e : EngineItem) (dst : Nat) (bs : List (Byte × Bool)) : State → List (Nat × Nat) → Ranged State
  | s, [] => .ok s
  | s, m :: r => match castOne wid w x e dst bs s m with | .ok t => castUnit wid w x e dst bs t r | .error z => .error z

/-- Units from `k`, `n` of them. -/
def castUnits (wid : Nat) (w : Wave) (x : Context) (e : EngineItem) (src dst : Nat) (ms : List (Nat × Nat)) : Nat → Nat → State → Res State
  | 0, _, s => .ok s
  | n + 1, k, s => do
    let bs ← orEngine false (copyBytes s wid w x (src + 32 * k) 32)
    let c := s.freeCtr
    let bs := if e.hazard ≠ 0 then (List.range 32).map (fun i => (Config.freeByte (c + i), false)) else bs
    let t ← orEngine true (castUnit wid w x e (dst + 32 * k) bs (spendFree 32 s) ms)
    castUnits wid w x e src dst ms n (k + 1) t

/-- The members that have not failed, with their places in the list. -/
def castMembers (e : EngineItem) : List (Nat × Nat) := ((e.members.getD []).zipIdx).filter (fun m => !(e.failed.contains m.2))

/-- The list that a copy names is read once, before anything is written (R241, R242, R422). -/
def withList (s : State) (wid : Nat) (w : Wave) (x : Context) (e : EngineItem) : Res EngineItem :=
  match e.members, e.op with
  | none, .cpg tid t list count _ => (rowList s wid w x t tid list count).map (fun l => { e with members := some l })
  | none, .cps tid t list count _ => (rowList s wid w x t tid list count).map (fun l => { e with members := some l })
  | none, .cpmc _ _ list _ _ => (memberList s wid w x list).map (fun l => { e with members := some l })
  | _, _ => .ok e

/-- A turn of the copy engine at an operation (R236). -/
def copyBody (s : State) (wid : Nat) (w : Wave) (ctx : Nat) (x : Context) (e0 : EngineItem) : Res State := do
  let e ← withList s wid w x e0
  let s := modItem wid e.id (fun y => { y with members := e.members }) s
  match e.op with
  | .cpmc src dst _ units _ => do
    let n := min 128 (units - e.progress)
    let t ← castUnits wid w x e src dst (castMembers e) n e.progress s
    let t := modItem wid e.id (fun e => { e with started := true, progress := e.progress + n, injected := decide (units ≤ e.progress + n) }) t
    .ok (if units ≤ e.progress + n then modWave t wid (hazardFlag e) else t)
  | .cpt _ d _ src row col drow dcol =>
    if fmtBits d.fmt < 8 then do
      let t ← copyTile s wid w ctx x e d src row col drow dcol
      .ok (copyDone wid e t)
    else streamTurn s wid w ctx x e
  | .send _ _ _ _ _ => waits
  | _ => streamTurn s wid w ctx x e

/-! ### After a local fault (R240) -/

/-- Free bytes over a run of a generic address, as far as it can be written; what must be waited for is. -/
def freeBytesRun (wid : Nat) (w : Wave) (x : Context) (e : EngineItem) : Nat → Nat → Nat → State → Ranged State
  | 0, _, _, s => .ok s
  | fuel + 1, a, n, s =>
    if n = 0 then .ok s
    else
      let k := min n (128 - a % 128)
      match engineWriteAll (spendFree k s) wid w x e a (freeData s k) with
      | .ok t => freeBytesRun wid w x e fuel (a + k) (n - k) t
      | .error .wait => .error .wait
      | .error (.peers l) => .error (.peers l)
      | .error _ => freeBytesRun wid w x e fuel (a + k) (n - k) s

/-- Free bytes over one destination run. -/
def freeDst (wid : Nat) (w : Wave) (ctx : Nat) (x : Context) (e : EngineItem) (s : State) (r : CopyDst × Nat) : Ranged State :=
  let data := freeData s r.2
  match r.1 with
  | .gen a => freeBytesRun wid w x e (r.2 / 128 + 2) a r.2 s
  | .weights o => .ok (writeWeights (spendFree r.2 s) (clusterOf wid) o data)
  | .window a => .ok (windowWrite (spendFree r.2 s) w e ctx a data)

/-- Free bytes to every member of a multicast copy that can be reached now. -/
def freeCast (wid : Nat) (w : Wave) (x : Context) (e : EngineItem) (dst units : Nat) (s : State) : State :=
  (List.range units).foldl (fun s k =>
    (castMembers e).foldl (fun s m =>
      match castOne wid w x e (dst + 32 * k) (freeData s 32) (spendFree 32 s) m with
      | .ok t => t
      | .error _ => s) s) s

/-- The destination runs of a tile whose elements are narrower than a byte. -/
def tileDsts (e : EngineItem) : List (CopyDst × Nat) :=
  match e.op with
  | .cpt _ d _ _ _ _ drow dcol =>
    if 8 ≤ fmtBits d.fmt then []
    else if d.kind = 4 then (winRuns d drow dcol).map (fun r => (.window r.1, r.2))
    else (rowRegions d (drow * d.trows) (dcol * d.tcols) d.tcols true d.trows).map (fun r => (.gen (r.space * 2 ^ 56 + r.addr), r.len))
  | _ => []

/-- A local fault leaves every byte of the operation undefined at its destination (R240). Nothing is written where the row or member list
is at fault (R241, R242), and no register that poisoned data was for. -/
def scramble (s : State) (wid : Nat) (w : Wave) (ctx : Nat) (x : Context) (e : EngineItem) (code : Nat) : Ranged State :=
  let e := match withList s wid w x e with | .ok y => y | .error _ => e
  let dsts := (copyStreams e).2 ++ tileDsts e
  if code = 0x12 ∨ (code = 0x17 ∧ dsts.any (fun d => toRegisters d.1) = true) then .ok s
  else
    match e.op with
    | .cpmc _ dst _ units _ => .ok (freeCast wid w x e dst units s)
    | _ =>
      dsts.foldl (fun r d => match r with | .ok t => freeDst wid w ctx x e t d | .error z => .error z)
        (.ok { s with windowWrites := s.windowWrites.filter (fun z => !(z.uid == w.uid && z.op == e.id)) })

/-! ### The copy engine (R236) -/

/-- The copy operations of a wave that may go on. -/
def copyItems (s : State) (w : Wave) : List EngineItem :=
  w.engine.filter (fun e => !(isMatrix e.op) && !e.injected && (match e.op with | .send _ _ _ _ _ => false | _ => true)
    && (launchLive s w || e.started) && itemReady s w e)

/-- A turn at an operation does something: it does not wait. -/
def copyMoves (s : State) (wid : Nat) (w : Wave) (e : EngineItem) : Bool :=
  match ctxRec s w with
  | some (c, x) => (match copyBody s wid w c x e with | .ok _ => true | .error (.fault _ _ _ _) => true | .error _ => false)
  | none => false

/-- The engine serves this wave's queue now: it goes on with the unit in hand, and between units the queues of the core's waves take turns,
from the slot after the one served last. -/
def copyServed (s : State) (wid : Nat) (e : EngineItem) : Bool :=
  let core := coreOf wid
  let turn := fun k => (k + 31 - (getCore s core).copyPtr) % 32
  let inHand := fun (y : EngineItem) => !(y.words.isEmpty && y.lines.isEmpty)
  if s.waves.any (fun p => coreOf p.1 == core && p.2.engine.any inHand) then inHand e
  else s.waves.all (fun p => !(coreOf p.1 == core && (copyItems s p.2).any (copyMoves s p.1 p.2)) || decide (turn (slotOf wid) ≤ turn (slotOf p.1)))

def copyServedAt (wid : Nat) (s : State) : State := setCore s (coreOf wid) { getCore s (coreOf wid) with copyPtr := slotOf wid }

/-- Serve a wave's copy operation (R236). -/
def execCopyUnit (wid op : Nat) (s : State) : Out :=
  match getWave s wid with
  | none => stall s
  | some w =>
    match List.find? (fun e : EngineItem => e.id == op) (copyItems s w), ctxRec s w with
    | some e, some (c, x) =>
      (match copyBody s wid w c x e with
       | .error (.fault cd d _ u) =>
         (match scramble s wid w c x e cd with
          | .ok t => .next (engineFail (copyServedAt wid t) wid e cd d (u.getD (engineUnit wid e.op cd)))
          | .error z => settleItem s wid w e (.error (engineStop true z)))
       | .ok t => if copyServed s wid e then .next (copyServedAt wid t) else stall s
       | .error z => settleItem s wid w e (.error z))
    | _, _ => stall s

/-- The members of a multicast copy that are still to answer. -/
def castPending (s : State) (uid op : Nat) : Bool :=
  s.fabric.sent.any (fun p => match p.2.purpose with | .copy u o _ => u == uid && o == op | _ => false)

/-- A status word (R423). -/
def statusWord (failed : List Nat) (k : Nat) : Nat :=
  (failed.filter (fun i => i / 64 == k)).foldl (fun m i => Nat.lor m (2 ^ (i % 64))) 0

/-- Every member of a multicast copy has acknowledged or failed: the failures are recorded in ASYNCERR and in the status
area (R242, R423). -/
def execCpmcComplete (wid op : Nat) (s : State) : Out :=
  match getWave s wid with
  | none => stall s
  | some w =>
    match List.find? (fun e : EngineItem => e.id == op && e.injected) w.engine, ctxRec s w with
    | some e, some (_, x) =>
      (match e.op with
       | .cpmc _ _ list _ _ =>
         if castPending s w.uid op then stall s
         else
           let ms := e.members.getD []
           let failed := e.failed.eraseDups
           let t := failed.foldl (fun s i => modWave s wid (asyncError 0x18 (ms.getD i 0))) s
           let area := roundUp (list + 2 + 2 * ms.length) 8
           let words := (List.range (ceilDiv ms.length 64)).flatMap (fun k => bytesOfNat 8 (statusWord failed k))
           match engineWriteAll t wid w x e area (cleanBytes words) with
           | .ok u => .next (finishItem wid op u)
           | .error .wait => stall s
           | .error (.absent _ _) => stall s
           | .error (.peers l) => evictLine s l
           | .error _ => .next (finishItem wid op t)
       | _ => stall s)
    | _, _ => stall s

/-! ## SEND (R245, R419, R420) -/

/-- An earlier SEND of the wave through the same capability has not been injected. -/
def sendBehind (w : Wave) (e : EngineItem) (k : Nat) : Bool :=
  (itemsBefore e.id w.engine).any (fun y => match y.op with | .send j _ _ _ _ => j == k && !y.injected | _ => false)

/-- Messages of this package to a (destination, ring) pair that are unacknowledged (R420). -/
def messagesOut (s : State) (dest ring : Nat) : Nat :=
  (s.fabric.sent.filter (fun p => p.2.pkt.kind == 0x0B && p.2.pkt.dest == dest && p.2.pkt.tag == ring)).length

/-- Inject a message: the bytes are read, counted in flight, and sent with the next number of its pair (R245, R420). -/
def sendBody (s : State) (w : Wave) (c : Nat) (x : Context) (e : EngineItem) (k : Nat) (cap : Capability) (src len tag : Nat)
    (wid : Nat) : Res State := do
  waitUnless (!(sendBehind w e k))
  waitUnless (decide (Cells.get 0 x.inflight k + len ≤ cap.allowance))
  if s.fabric.unreachable.contains cap.pkg then .ok (modWave (finishItem wid e.id s) wid (asyncError 0x0C cap.pkg)) else
  waitUnless (decide (messagesOut s cap.pkg cap.ring < 1024))
  let bs ← orEngine false (copyBytes s wid w x src len)
  let fc := s.freeCtr
  let data := if e.hazard ≠ 0 then (List.range len).map (fun i => Config.freeByte (fc + i)) else bs.map (fun b => b.1)
  let key := cap.pkg * 65536 + cap.ring
  let n := Cells.get 0 s.fabric.seqOut key
  let s := modCtx (spendFree len s) c (fun x => { x with inflight := Cells.set 0 x.inflight k (Cells.get 0 x.inflight k + len) })
  let s := modFabric s (fun f => { f with seqOut := Cells.set 0 f.seqOut key ((n + 1) % 65536) })
  let d : Draft :=
    { kind := 0x0B, dest := cap.pkg, job := cap.job, addr := tag, ordered := false, multicast := false,
      poisoned := bs.any (fun b => b.2) && e.hazard == 0, plane := cap.ring % 8, ring := cap.ring, seq := n, payload := data }
  .ok (modItem wid e.id (fun e => { e with started := true, injected := true }) (sendPacket s d (.message w.uid e.id c k)))

def execSendInject (wid op : Nat) (s : State) : Out :=
  match getWave s wid with
  | none => stall s
  | some w =>
    match List.find? (fun e : EngineItem => e.id == op && !e.injected) w.engine, ctxRec s w with
    | some e, some (c, x) =>
      (match e.op with
       | .send k cap src len tag =>
         if launchLive s w && itemReady s w e then settleItem s wid w e (sendBody s w c x e k cap src len tag wid) else stall s
       | _ => stall s)
    | _, _ => stall s

/-! ## Writes through the window (R54) -/

/-- The live wave of a context at a target slot, within its allocation (R289). -/
def windowTarget (s : State) (z : WindowWrite) : Option Wave :=
  match getWave s z.target with
  | some w => if ctxOf s w = some z.ctx ∧ w.ctl ≠ .exited ∧ z.reg < regAllocOf s w then some w else none
  | none => none

def setRegister (reg : Nat) : Nat → List Word → Wave → Wave
  | _, [], w => w
  | l, x :: r, w => setRegister reg (l + 1) r (writeV reg l x w)

/-- The write's operation completes when its last register has been accepted or refused. -/
def windowSettle (s : State) (z : WindowWrite) : State :=
  if s.windowWrites.any (fun y => y.uid == z.uid && y.op == z.op) then s
  else modUid s z.uid (fun w => { w with engine := w.engine.filter (fun e => !(e.id == z.op && e.injected)) })

/-- The target core accepts a register, or refuses it: 0x0B in the issuing wave's ASYNCERR (R54). Writes of one wave to one register keep
the order of its operations (R239). -/
def execWindowWriteAccept (i : Nat) (s : State) : Out :=
  match s.windowWrites[i]? with
  | none => stall s
  | some z =>
    if (s.windowWrites.take i).any (fun y => y.uid == z.uid && y.target == z.target && y.reg == z.reg) then stall s
    else
    let rest := { s with windowWrites := s.windowWrites.eraseIdx i }
    match windowTarget s z with
    | none => .next (windowSettle (recordAsync rest z.uid 0x0B s.pkg) z)
    | some w =>
      if w.ctl == .clearing || (List.range 96).any (fun l => vIsEmpty w z.reg l) then stall s
      else .next (windowSettle (modWave rest z.target (setRegister z.reg 0 z.words)) z)

end Sys2Proof.Machine
end

