-- ==== Sys2Proof/Machine/Create.lean ====
section
/-! DEFINITION. Fresh contexts, waves, teams and paths, as R48, R263, R367 and R384 give their contents, and a program placed
where the next step fetches. -/

namespace Sys2Proof.Machine

/-- The root of a block at its start (R263). -/
def rootPath (off : Nat) (m : Mask) : PathEntry :=
  { owned := m, split := m, active := m, pc := off, sig := sigReset, q12 := 0, q12Full := true, parent := 0,
    state := .running, join := 0, held := [], faulted := false, fetchWait := none }

/-- A wave as its clear leaves it (R48, R384): registers zero and full, SIGC all ones, nothing queued. -/
def newWave (uid team w pc : Nat) (ctl : CtlState) (decode : DecodeTable) (engGen : Word) : Wave :=
  { uid := uid, team := team, w := w, ctl := ctl, held := [], faulted := false, fetchWait := none,
    pc := BitVec.ofNat 64 pc, s := [], sEmpty := [], q := [], qEmpty := [], v := [], vEmpty := [], c := [], ix := [],
    ad := [], g := [], gangUids := [], gangCount := [], satf := 0, satarm := 0, rmode := 0, asyncerr := 0,
    sigc := sigReset, laneGen := [], engGen := engGen, laneQueue := [], blockRunning := false, blockSeq := 0, qAwait := [],
    returnQueue := [], recvs := [], paths := [], conts := [], pathPtr := 15, pair := false, highWater := 1, shunted := 0,
    log := [], loads := [], stores := [], seq := 0, fences := [], encoderPending := 0, dirty := [], engine := [],
    engineFault := none, engineHits := [], barArrivals := [], decode := decode, yielded := false,
    interval := 0, sample := 3 }

/-- Clear what the end of one block and the start of the next leave (R114, R274). -/
def startBlock (off : Nat) (m : Mask) (qs : List Nat) (w : Wave) : Wave :=
  { w with paths := [(0, { rootPath off m with syncs := openSyncs w (qs ++ w.blockSyncs), held := w.stops })], conts := [], pathPtr := 15, pair := false, blockRunning := true,
           qAwait := [] }

/-- A context with the tables as they are when system software creates it (R186, R243, R382, R384, R400). -/
def newContext (ptroot faultq faultqLog2 traceLog2 : Nat) (privileged : Bool) (job trace save frames pool tables : Nat) :
    Context :=
  { ptroot := ptroot, faultq := faultq, faultqLog2 := faultqLog2, traceLog2 := traceLog2, privileged := privileged,
    job := job, trace := trace, save := save, frames := frames, pool := pool, tables := tables, poolBase := 0,
    decode := .map1, tensors := [], codeTables := [], palettes := [], caps := [], posted := [], inflight := [],
    ringLost := [], faultProd := 0, faultCons := 0, heldFaults := [], traceProd := 0, traceCons := 0, traceLost := 0,
    traceSeq := 0, debug := [], generation := 1, snapshots := [], poolUsed := 0, framesUsed := [], armed := none,
    replays := [] }

/-- A team as placed (R283, R287, R367): scratchpad and stacks read zero. -/
def newTeam (lid index core : Nat) (waves : List Nat) (granules spadBase spadSize accBase accCount slotBase slotCount : Nat) :
    Team :=
  { lid := lid, index := index, core := core, waves := waves, granules := granules, spadBase := spadBase,
    spadSize := spadSize, spad := [], spadPoison := [], versions := [], accBase := accBase, accCount := accCount, acc := [],
    accPoison := [], slotBase := slotBase, slotCount := slotCount, slots := [], tables := [], openTiles := [], stackMem := [],
    saved := none }

/-! ## A program placed where the next step fetches (log entry 18) -/

/-- The launch entry of the placed program: one team of one wave, 256 registers, code at 0x4000 in both sections. -/
def placedEntry : Entry :=
  { ctrl := 0x4000, lane := 0x4000, teams := 1, regs := 256, waves := 1, flags := 0, spad := 39680, acc := 4, tslots := 2,
    split := 1, spill := 0xFFFFFFFF, stack := 1024, affinity := 0, args := 0, waitAddr := 0, waitValue := 0, doneAddr := 0,
    doneAdd := 0, seed := 0, hbWindow := 0, timeLimit := 1000000, install := 0, installCount := 0, coreLimit := 0 }

def placedLaunch : Launch :=
  { ctx := 1, queue := 0, qentry := 0x8000, e := placedEntry, prio := 0, order := 0, state := .running, waitingTeams := [],
    savedTeams := [], eligible := [0], retired := 0, started := true, elapsed := 0, hbLeft := 0, ending := none,
    rollbacks := 0, excluded := [], cpWait := none, donePending := false, phase := 2, installed := 0, requeued := false,
    cursor := 0 }

/-- A privileged context whose tables map the first 512 MiB of the global aperture to the first 512 MiB of memory, with
every permission and class none. -/
def placedContext : Context := newContext 0x1000 0x10000 6 6 true 1 0x20000 0x30000 4 1 0x40000

/-- Three page-table entries: level 1, level 2, and a leaf at level 3 (R394). -/
def placedTables (m : List Host.Cell) : List Host.Cell :=
  cellsWrite memDefault (cellsWrite memDefault (cellsWrite memDefault m 0x1000 (bytesOfNat 8 0x2001)) 0x2000
    (bytesOfNat 8 0x3001)) 0x3000 (bytesOfNat 8 0x3F)

/-- The state with a launch of one wave running, and its tables and `n` bytes of code in memory. -/
def placed (s : State) (w : Wave) (code n : Nat) (t : Turn) : State :=
  { s with
    agenda := [t]
    mem := cellsWrite memDefault (placedTables s.mem) 0x4000 (bytesOfNat n code)
    contexts := Tbl.put s.contexts 1 placedContext
    launches := Tbl.put s.launches 1 placedLaunch
    teams := Tbl.put s.teams 1 (newTeam 1 0 0 [0] 32 0 39680 0 4 0 2)
    waves := Tbl.put s.waves 0 w
    cores := Tbl.put s.cores 0 { getCore s 0 with split := 256, pipesDown := [] } }

/-- A wave whose control stream is about to fetch at 0x4000. -/
def placedControl : Wave := newWave 1 1 0 0x4000 .running .map1 1

/-- The same wave with a lane block running, whose root is about to fetch at offset 0. -/
def placedLane : Wave := startBlock 0 (launchMask false) [] { placedControl with laneQueue := [{ off := 0, srcs := [] }] }

/-- A packet and a binding for a signal box that is about to run the first word of its kernel. -/
def placedPacket : Packet :=
  { kind := 0x0D, source := 0, dest := 0, job := 1, tag := 0, addr := 0, seq := 0, length := 64, path := 0, multicast := false,
    ordered := false, plane := 0, poisoned := false, payload := List.replicate 64 0 }

def placedBinding : Binding :=
  { job := 1, flowLo := 0, flowHi := 4095, stages := 7, kinds := 2, partBase := 0, partCount := 16, event := 0 }

def placedRun : BoxRun :=
  { pkt := placedPacket, binding := placedBinding, stage := 0, pc := 1, e := [], f := [], buf := [], len := 64, flow := 0,
    dest := 0, tag := 0, rep := none }

/-- Signal box 0 with a kernel of one word and a packet running. -/
def placedBox (s : State) (word : Nat) : State :=
  { s with agenda := [.box 0]
           contexts := Tbl.put s.contexts 1 placedContext
           boxes := Tbl.put s.boxes 0
             { SigBox.reset with kernel := [1, BitVec.ofNat 32 word], bindings := [placedBinding], run := some placedRun } }

end Sys2Proof.Machine
end

