-- ==== Sys2Proof/Machine/Rings.lean ====
section
/-! DEFINITION. Accesses that the device makes for a context without a wave (R245, R247, R365, R504), the packet header (R405), and
the placing of messages, emitted packets and device records in rings (R245, R247, R419, R420, R431, R432, R447, R452). -/

namespace Sys2Proof.Machine

/-! ## Device accesses in a context's translation -/

/-- A wave that is none: reads made for it see what is performed at DEVICE scope. -/
def deviceWave : Wave := newWave 0 0 0 0 .running .map1 0

/-- Read `n` bytes of the global aperture in a context. -/
def deviceRead (s : State) (x : Context) (addr n : Nat) : Ranged (List Byte) :=
  if addr / 2 ^ 56 ≠ 0 then .error (.outside addr) else readRange s deviceWave noWave x addr n

/-- Where a write or atomic within one line leads. -/
def deviceTarget (s : State) (x : Context) (want : Want) (addr : Nat) : Ranged Place :=
  if addr / 2 ^ 56 ≠ 0 then .error (.outside addr)
  else
    match translate s x want (addr % 2 ^ 56) with
    | .to p => .ok p
    | .absent e => .error (.absent addr e)
    | .denied => .error (.denied addr)
    | .poisoned e => .error (.poisoned addr (memoryPoison s e 8))
    | .copyFirst => .error .wait

/-- Write bytes within one line at SYSTEM scope (R413 for peers' copies). -/
def deviceLine (s : State) (x : Context) (addr : Nat) (bs : List Byte) (poison : Bool) : Ranged State :=
  match deviceTarget s x .write addr with
  | .error r => .error r
  | .ok (.remote q a) =>
    if s.fabric.unreachable.contains (q % 65536) then .ok s
    else if lineFree s q a then
      let d := lineDraft q x.job (a / 128 * 128) ((bs.zipIdx).map (fun p => (a % 128 + p.2, p.1)))
      .ok (sendPacket (dropCopy s q a) { d with poisoned := poison } .none)
    else .error .wait
  | .ok p => if peersHolding s p bs.length then .error (.peers (placeLine p)) else .ok (writePlace s p bs poison)

/-- Write a run of bytes, cut at lines; nothing is written unless every line can be. -/
def deviceRun (x : Context) (poison : Bool) : Nat → State → Nat → List Byte → Ranged State
  | 0, s, _, _ => .ok s
  | _ + 1, s, _, [] => .ok s
  | n + 1, s, addr, bs =>
    let k := 128 - addr % 128
    match deviceLine s x addr (bs.take k) poison with
    | .error r => .error r
    | .ok t => deviceRun x poison n t (addr + k) (bs.drop k)

def deviceWrite (s : State) (x : Context) (addr : Nat) (bs : List Byte) (poison : Bool) : Ranged State :=
  deviceRun x poison (bs.length / 128 + 2) s addr bs

/-- The payload of an atomic packet (R406). -/
def atomicPayload (op width order opnd cmp : Nat) : List Byte :=
  bytesOfNat 8 (op + width * 2 ^ 8 + order * 2 ^ 16) ++ bytesOfNat 8 opnd ++ bytesOfNat 8 cmp ++ List.replicate 8 0

/-- An atomic of the device itself on 8 bytes, at SYSTEM scope with release order (R365). -/
def deviceAtomic (s : State) (x : Context) (addr op opnd : Nat) : Ranged State :=
  match deviceTarget s x .atomic addr with
  | .error r => .error r
  | .ok (.remote q a) =>
    if s.fabric.unreachable.contains (q % 65536) then .ok s
    else if lineFree s q a then
      .ok (sendPacket (dropCopy s q a) { memDraft 5 q x.job a (atomicPayload op 8 2 opnd 0) with ordered := true } .none)
    else .error .wait
  | .ok p =>
    if peersHolding s p 8 then .error (.peers (placeLine p))
    else if placePoisoned s p 8 then .error (.poisoned addr (poisonFrom s p 8))
    else
      let old := natOfBytes (readBase s p 8)
      .ok (writePlace s p (bytesOfNat 8 (atomicNew (atomicOf op) 64 old opnd 0).1) false)

/-! ## Contexts, rings and headers -/

/-- The context of this package with a job (R399). -/
def ctxWithJob (s : State) (job : Nat) : Option (Nat × Context) :=
  List.find? (fun p : Nat × Context => p.2.job == job) s.contexts

/-- The capability index of a receive ring (R243). -/
def ringOf (x : Context) (ring : Nat) : Option Nat :=
  (List.find? (fun p : Nat × Capability => p.2.kind == 2 && p.2.ring == ring) x.caps).map (fun p => p.1)

/-- The virtual channel of a kind (R406). -/
def channelOf (kind : Nat) : Nat :=
  match kind with
  | 0x01 => 0 | 0x02 => 2 | 0x03 => 1 | 0x04 => 1 | 0x05 => 0 | 0x06 => 2 | 0x07 => 2 | 0x08 => 2 | 0x09 => 3 | 0x0A => 4
  | 0x0B => 5 | 0x0C => 2 | 0x0D => 6 | _ => 7

/-- Kinds whose header holds a tag, bit 7 of the length and a sequence in place of an address (R405). -/
def messageKind (kind : Nat) : Bool := kind == 0x0B || kind == 0x0D

/-- The 16 bytes of a header as a number (R405). -/
def headerNat (p : Packet) : Nat :=
  let units := p.length / 32
  p.kind % 64 + channelOf p.kind * 2 ^ 6 + b2n p.ordered * 2 ^ 9 + b2n p.multicast * 2 ^ 10 + p.path % 4 * 2 ^ 11
    + units % 128 * 2 ^ 13 + p.job % 4096 * 2 ^ 20 + p.dest % 2 ^ 16 * 2 ^ 32 + p.source % 2 ^ 16 * 2 ^ 48 + p.tag % 2 ^ 16 * 2 ^ 64
    + (if messageKind p.kind then p.addr % 2 ^ 16 * 2 ^ 80 + units / 128 % 2 * 2 ^ 96 + p.seq % 2 ^ 16 * 2 ^ 112
       else p.addr % 2 ^ 48 * 2 ^ 80)

/-- A packet that no junction die drops: a kind that exists with a length that fits it, and packages below 4,096 (R406). -/
def packetOk (p : Packet) : Bool :=
  p.payload.length == p.length && p.length % 32 == 0 && decide (p.source < 4096) && decide (p.dest < 4096) &&
  (match p.kind with
   | 0x02 => p.length == 128
   | 0x03 => decide (32 ≤ p.length ∧ p.length ≤ 128) && decide (p.addr % 32 = 0) && decide (p.addr % 128 + p.length ≤ 128)
   | 0x04 => p.length == 160
   | 0x05 => p.length == 32
   | 0x06 => p.length == 32
   | 0x08 => p.length == 32
   | 0x0B => decide (p.length ≤ 4096)
   | 0x0C => p.length == 32
   | 0x0D => decide (p.length ≤ 4096)
   | 0x0E => decide (p.length ≤ 128)
   | k => (k == 0x01 || k == 0x07 || k == 0x09 || k == 0x0A) && p.length == 0)

/-- Which port of its plane delivered a packet is open (log entry 31). -/
def arrivalPort (s : State) (plane : Nat) : Nat × State :=
  let r := freeNatOf s
  (plane % 8 * 8 + r.1 % 8, r.2)

/-- A packet is dropped at the port at which it arrived, and counted there (R406, R432, R500). -/
def countDropped (s : State) (plane : Nat) : State :=
  let r := arrivalPort s plane
  modPort r.2 r.1 (fun x => { x with dropped := countUp x.dropped 1 })

/-- The 0x0A or 0x0B record that a target writes for a remote initiator (R332, R452). -/
def refusalRecord (s : State) (c code plane addr : Nat) (write : Bool) : State :=
  let r := arrivalPort s plane
  writeFault r.2 c
    { timebase := s.timebase, qentry := 0, detail := addr % 2 ^ 48 + b2n write * 2 ^ 64, block := 0, mask := 0, pc := 0,
      unit := 9 * 4096 + r.1, wave := 0, ends := false, deferred := false, cont := false, path := 0, stream := false,
      code := code, lid := none }

/-! ## Placing (R245, R247) -/

/-- What becomes of something offered to a ring. -/
inductive Placing where
  | noBuffer
  | absent (addr : Nat)
  | denied (addr : Nat)
  | wait
  | evict (line : Nat)
  | placed (t : State)
  deriving DecidableEq, Repr

/-- The place of the oldest posted buffer that holds nothing. -/
def openBuffer (ps : List Posted) : Option Nat := ps.findIdx? (fun p => p.placed.isNone)

/-- Place bytes in the oldest posted buffer of a ring; what does not fit is discarded (R247). -/
def placeRing (s : State) (c : Nat) (x : Context) (k src tag : Nat) (data : List Byte) (poison : Bool) : Placing :=
  let ps := (Tbl.find? x.posted k).getD []
  match openBuffer ps with
  | none => .noBuffer
  | some i =>
    match ps[i]? with
    | none => .noBuffer
    | some b =>
      let n := min data.length b.len
      match deviceWrite s x b.addr (data.take n) poison with
      | .error (.absent a _) => .absent a
      | .error (.peers l) => .evict l
      | .error .wait => .wait
      | .error (.remote _ _) => .wait
      | .error (.denied a) => .denied a
      | .error (.poisoned a _) => .denied a
      | .error (.outside a) => .denied a
      | .ok t =>
        let ps := ps.set i { b with placed := some (src, tag, n, decide (b.len < data.length)) }
        .placed (modCtx t c (fun y => { y with posted := Tbl.put y.posted k ps }))

/-- A buffer leaves its ring unused (R245). -/
def dropBuffer (k : Nat) (x : Context) : Context :=
  let ps := (Tbl.find? x.posted k).getD []
  match openBuffer ps with
  | some i => { x with posted := Tbl.put x.posted k (ps.eraseIdx i) }
  | none => x

/-! ## Messages (R419, R420, R431) -/

def seqKey (src ring : Nat) : Nat := src * 65536 + ring

/-- The answer to a message and its place in sequence (R406, R420). -/
def answerMessage (s : State) (p : Packet) (ans hint : Nat) : State :=
  let s :=
    if ans = 1 then s
    else modFabric s (fun f =>
      { f with
        seqIn := Cells.set 0 f.seqIn (seqKey p.source p.tag) ((p.seq + 1) % 65536)
        msgAnswers := (p.source, p.tag, p.seq, ans) :: f.msgAnswers.filter (fun a => !(a.1 == p.source && a.2.1 == p.tag && a.2.2.1 == p.seq)) })
  sendReply s p 0x0C false (bytesOfNat 2 (ans + hint % 256 * 256) ++ List.replicate 30 0)

/-- The junction die holds a message for some cycles (R431). -/
def holdMessage (s : State) (p : Packet) (left : Nat) : State :=
  modFabric s (fun f =>
    { f with
      heldMsgs :=
        if f.heldMsgs.any (fun h => h.pkt == p) then f.heldMsgs.map (fun h => if h.pkt = p then { h with left := left } else h)
        else f.heldMsgs ++ [{ pkt := p, left := left }] })

/-- A message that cannot be placed now: refused with a hint, which is the target's estimate, or held at the junction die for the delay when a
box passed it (R332, R431). -/
def refuseMessage (s : State) (p : Packet) (passed : Bool) : State :=
  let r := freeNatOf s
  if passed then holdMessage r.2 p (1400 * max (r.1 % 256) 1) else answerMessage r.2 p 1 r.1

/-- Placement of a message whose turn it is (R245). `passed`: a box has acted on it. -/
def placeMessage (s : State) (p : Packet) (passed : Bool) : Out :=
  let settled := fun s : State => modFabric s (fun f => { f with heldMsgs := f.heldMsgs.filter (fun h => !(h.pkt == p)) })
  match ctxWithJob s p.job with
  | none => .next (answerMessage (settled s) p 2 0)
  | some (c, x) =>
    match ringOf x p.tag with
    | none => .next (answerMessage (settled s) p 2 0)
    | some k =>
      match placeRing s c x k p.source p.addr p.payload p.poisoned with
      | .placed t => .next (answerMessage (settled t) p 0 0)
      | .noBuffer => .next (refuseMessage s p passed)
      | .absent a => .next (refuseMessage (refusalRecord s c 0x0A p.plane a true) p passed)
      | .denied a => .next (answerMessage (settled (modCtx (refusalRecord s c 0x0B p.plane a true) c (dropBuffer k))) p 2 0)
      | .evict l => if passed then .next (invalidateHolders (holdMessage s p 0) l) else evictLine s l
      | .wait => if passed then .next (holdMessage s p 0) else stall s

/-- An outcome that may have to wait with no effect. -/
def orWait (s : State) (r : Res State) : Out :=
  match r with
  | .ok t => .next t
  | .error (.evict l) => evictLine s l
  | .error _ => stall s

/-- An emitted packet at its destination: into the ring whose number is its flow, or dropped (R432). -/
def placeEmitted (s : State) (p : Packet) : Res State :=
  match ctxWithJob s p.job with
  | none => .ok (countDropped s p.plane)
  | some (c, x) =>
    match ringOf x p.tag with
    | none => .ok (countDropped s p.plane)
    | some k =>
      match placeRing s c x k p.source p.addr p.payload p.poisoned with
      | .placed t => .ok t
      | .evict l => .error (.evict l)
      | .wait => .error .wait
      | _ => .ok (countDropped s p.plane)

/-! ## Records of event rings (R447) -/

/-- The 64 bytes of a trap record. -/
def trapRecord (header reason word box code value : Nat) (f : List Word) : List Byte :=
  bytesOfNat 16 header ++ bytesOfNat 16 (reason + word * 2 ^ 16 + box * 2 ^ 32 + code * 2 ^ 48 + value % 2 ^ 32 * 2 ^ 64)
    ++ f.flatMap (fun w => bytesOfNat 4 w.toNat)

/-- Place a record in the event ring of a binding's job, after one that counts the records lost before it; without a
buffer the record is lost and counted. -/
def eventRecord (s : State) (job event box reason : Nat) (rec : List Byte) : State :=
  match ctxWithJob s job with
  | none => s
  | some (c, x) =>
    let lose := fun s : State => modCtx s c (fun y => { y with ringLost := Cells.set 0 y.ringLost event (Cells.get 0 y.ringLost event + 1) })
    let put := fun s : State => match getCtx s c with
      | none => s
      | some y =>
        match placeRing s c y event s.pkg reason rec false with
        | .placed t => t
        | _ => lose s
    match Tbl.find? x.caps event with
    | some cap =>
      if cap.kind ≠ 3 then lose s
      else
        let lost := Cells.get 0 x.ringLost event
        if lost = 0 then put s
        else
          (match placeRing s c x event s.pkg 7 (trapRecord 0 7 0 box 0 lost (List.replicate 8 0)) false with
           | .placed t => put (modCtx t c (fun y => { y with ringLost := Cells.set 0 y.ringLost event 0 }))
           | _ => lose s)
    | none => lose s

end Sys2Proof.Machine
end

