-- ==== Sys2Proof/Machine/Sync.lean ====
section
/-! DEFINITION. Channels, fences, barriers, events, signatures, traps and exit of
spec/09_engine_synchronisation_and_system_instructions.md (R235, R243 to R260). -/

namespace Sys2Proof.Machine

/-! ## Cross-stream waits (R235) -/

/-- The full wait: every pushed block has ended and the operand log is empty. -/
def quiet (w : Wave) : Bool := w.laneQueue.isEmpty && w.log.isEmpty

def fullWait (w : Wave) : Res Unit := waitUnless (quiet w)

/-- Instructions whose operation number and length matter, without their fields. -/
def zC3 : C3 := { d := 0, a := 0, b := 0, ea := false, eb := false }
def zCI : CI := { d := 0, a := 0, ea := false, imm := 0 }
def zCE : CE := { d := 0, a := 0, b := 0, ea := false, eb := false, c := 0, ec := false, t := 0, aux := 0, opts := 0 }

/-! ## Channels (R243 to R247) -/

/-- A release by the control stream itself: every earlier access is performed at the scope (R306). -/
def releaseNow (s : State) (wid : Nat) (w : Wave) (scope : Nat) : Res Unit := waitUnless (releaseReady s wid w w.seq scope)

def execChpost (f : CE) (s : State) : Out :=
  runControl s fun wid w => do
    fullWait w
    let x ← ceSources w f true true false [f.d.toNat]
    let k := f.opts.toNat % 256
    let a := x.1.toNat
    let n := x.2.1.toNat
    let cap ← capFor s w k [2, 3] 1
    ensure (decide (32 ≤ n ∧ n ≤ 4096 ∧ n % 32 = 0)) 0x12 (rangeDetail n 0)
    ensure (decide (apertureOf a = 0)) 0x09 (addrDetail a true false)
    alignedTo 32 a true
    releaseNow s wid w 5
    let cx ← ctxRes s w
    let old := (Tbl.find? cx.2.posted k).getD []
    if cap.depth ≤ old.length then .ok (writeBack (.chpost f) s wid w f.d.toNat 0)
    else
      let t := modCtx s cx.1 (fun y => { y with posted := Tbl.put y.posted k (old ++ [{ addr := a, len := n, placed := none }]) })
      .ok (writeBack (.chpost f) t wid w f.d.toNat 1)

/-- The descriptor of a placed message (R247). -/
def pollWord (src tag len : Nat) (trunc : Bool) : Nat :=
  2 ^ 63 + b2n trunc * 2 ^ 62 + src % 2 ^ 16 * 2 ^ 40 + tag % 2 ^ 16 * 2 ^ 24 + len % 2 ^ 13

def execChpoll (f : CE) (s : State) : Out :=
  runControl s fun wid w => do
    waitUnless (acquired w (syncsBefore w (.control wid)))
    dstS w f.d.toNat
    let k := f.opts.toNat % 256
    let _ ← capFor s w k [2, 3] 2
    let cx ← ctxRes s w
    match (Tbl.find? cx.2.posted k).getD [] with
    | p :: r =>
      (match p.placed with
       | some (src, tag, len, trunc) =>
         let t := modCtx s cx.1 (fun y => { y with posted := Tbl.put y.posted k r })
         .ok (acquireAt (writeBack (.chpoll f) t wid w f.d.toNat (BitVec.ofNat 64 (pollWord src tag len trunc))) wid 5)
       | none => .ok (writeBack (.chpoll f) s wid w f.d.toNat 0))
    | [] => .ok (writeBack (.chpoll f) s wid w f.d.toNat 0)

/-! ## Fences (R248 to R250, R314) -/

/-- Every store of the wave is performed at a scope; those that need no more have left the buffer. -/
def storesAt (w : Wave) (scope : Nat) : Bool := w.stores.all (fun b => decide (scope ≤ b.perf))

/-- Every live or saved wave, without regard to where it stands. -/
def everyWave (s : State) : List Wave := s.waves.map (fun p => p.2) ++ s.teams.flatMap (fun t => match t.2.saved with | some (_, ws) => ws | none => [])

/-- The writes that precede a release are performed at a scope. -/
def releaseAt (s : State) (scope : Nat) (r : Nat × Nat) : Bool :=
  (everyWave s).all (fun o => o.uid != r.1 || (o.stores.all (fun b => decide (r.2 ≤ b.seq) || decide (scope ≤ b.perf)) && o.log.all (fun e => decide (r.2 ≤ e.seq))))

/-- A promoted fence: the wave that made each release whose value a covered load has read drains its store buffer, as far as the release
covers it, at the fence's scope (R314). -/
def promoted (s : State) (w : Wave) (scope : Nat) : Bool := w.readRels.all (releaseAt s scope)

def execFence (f : CI) (s : State) : Out :=
  runControl s fun wid w => do
    fullWait w
    let scope := f.imm.toNat % 8
    let order := f.imm.toNat / 8 % 4
    waitUnless (!(isAcq order) || w.loads.isEmpty)
    waitUnless (order != 3 || storesAt w scope)
    waitUnless (decide (f.imm.toNat / 32 % 2 = 0) || promoted s w scope)
    let w := joinBlocks w
    let w := if isRel order then { w with fences := Cells.set 0 w.fences scope w.seq } else w
    let t := setWave s wid (finishControl (.fence f) w)
    .ok (if isAcq order then acquireAt (modWave t wid (fun w => { w with readRels := [] })) wid scope else t)

/-- Stores and atomics are performed where the engines read them (R249), and loads have their values, so that no later write of an
engine reaches them (R317). -/
def enginesSee (w : Wave) : Bool := storesAt w 4 && w.loads.isEmpty

def execFenceo (f : CI) (s : State) : Out :=
  runControl s fun wid w => do
    fullWait w
    waitUnless (enginesSee w)
    .ok (setWave s wid (finishControl (.fenceo f) (joinBlocks { w with dirty := [] })))

/-- No copy or channel operation is unfinished, and the counters up to a scope read zero (R250). -/
def allAcked (s : State) (w : Wave) (scope : Nat) : Bool :=
  w.engine.all (fun e => isMatrix e.op) && (List.range 6).all (fun c => c == 0 || decide (scope < c) || unack s w c == 0)

/-- FENCEA reports and clears ASYNCERR: into d, or as a precise fault (R250). -/
def fenceaReport (s : State) (wid : Nat) (w : Wave) (d : Nat) : State :=
  let e := w.asyncerr
  let w0 := joinBlocks { w with asyncerr := 0, ctl := .running }
  if d ≠ 63 then setWave s wid (finishControl (.fencea zCI) (writeS d (e.zeroExtend 64) w0))
  else if e.truncate 8 = (0 : BitVec 8) then setWave s wid (finishControl (.fencea zCI) w0)
  else raiseFault (setWave s wid w0) (.control wid) (e.toNat % 256) e.toNat none none

def fenceaDone (s : State) (w : Wave) (scope : Nat) : Bool := quiet w && allAcked s w scope

def execFencea (f : CI) (s : State) : Out :=
  runControl s fun wid w => do
    dstS w f.d.toNat
    let scope := f.imm.toNat % 8
    .ok (if fenceaDone s w scope then fenceaReport s wid w f.d.toNat
         else setWave s wid { w with ctl := .fencea scope f.d.toNat })

/-! ## Barriers and supersteps (R251, R252) -/

/-- The scope of a barrier level; a STEP acts as level 4. -/
def levelScope (level : Nat) : Nat := if level = 0 then 4 else level

/-- The unit of a wave at a barrier level. -/
def barUnit (level wid : Nat) (w : Wave) : Nat :=
  match level with
  | 1 => w.team
  | 2 => clusterOf wid
  | 3 => domainOf wid
  | _ => 0

/-- A wave has arrived: its waits are over and its arrival can be released (R251, R252). -/
def hasArrived (s : State) (wid level : Nat) (w : Wave) : Bool :=
  w.ctl == .barrier level && quiet w && releaseReady s wid w w.seq (levelScope level) &&
    (level != 0 || ((List.range 16).all (fun n => !(batchPending w n)) && w.engineFault.isNone && allAcked s w 5))

/-- Arrivals of a wave at a level so far: those whose barriers it has left, and the one that it stands at. -/
def arrivals (level : Nat) (w : Wave) (arrived : Bool) : Nat := Cells.get 0 w.barArrivals level + b2n arrived

/-- Live participants of a barrier, and those that are saved, which keep their arrivals. -/
def barWaves (s : State) (lid level unit : Nat) : List (Nat × Wave) :=
  s.waves.filter (fun p => p.2.ctl != .exited && (match getTeam s p.2.team with | some t => t.lid == lid | none => false)
    && barUnit level p.1 p.2 == unit)

def savedWaves (s : State) (lid level unit : Nat) : List Wave :=
  s.teams.flatMap (fun t => if t.2.lid = lid ∧ (level ≠ 1 ∨ t.1 = unit) then
    (match t.2.saved with | some (_, ws) => ws.filter (fun w => w.ctl != .exited) | none => []) else [])

/-- How many barriers of a level every participant has arrived at. -/
def commonArrivals (s : State) (lid level unit : Nat) : Nat :=
  let live := (barWaves s lid level unit).map (fun p => arrivals level p.2 (hasArrived s p.1 level p.2))
  let saved := (savedWaves s lid level unit).map (fun w => arrivals level w (w.ctl == .barrier level && quiet w))
  match live ++ saved with
  | [] => 0
  | n :: r => r.foldl min n

/-- A wave leaves a barrier. -/
def leaveBarrier (level : Nat) (w : Wave) : Wave :=
  let w := { w with ctl := .running, barArrivals := Cells.set 0 w.barArrivals level (Cells.get 0 w.barArrivals level + 1) }
  if level = 0 then finishControl (.step zCI) w else finishControl (.bar zCI) w

/-- Waves leave, and acquire at the level's scope. -/
def leaveAll (level : Nat) : List (Nat × Wave) → State → State
  | [], s => s
  | p :: r, s => leaveAll level r (acquireAt (modWave s p.1 (leaveBarrier level)) p.1 (levelScope level))

/-- A wave's n-th barrier of a level completes once every participant has arrived n times (R251): the waves that stand at one leave. -/
def tryBarrier (s : State) (lid level unit : Nat) : Option State :=
  let n := commonArrivals s lid level unit
  match (barWaves s lid level unit).filter (fun p => p.2.ctl == .barrier level && decide (Cells.get 0 p.2.barArrivals level < n)) with
  | [] => none
  | ws => some (leaveAll level ws s)

/-- A wave enters a barrier after SATARM is evaluated (R32), and leaves at once if it is the last. -/
def enterBarrier (s : State) (wid : Nat) (w : Wave) (level : Nat) : Res State := do
  ensure (decide (w.satf &&& w.satarm = 0)) 0x13 (w.satf &&& w.satarm).toNat
  let w := { w with ctl := .barrier level }
  let t := setWave s wid w
  let l ← orStop (launchOf s w) .wait
  .ok ((tryBarrier t l.1 level (barUnit level wid w)).getD t)

def execBar (f : CI) (s : State) : Out :=
  runControl s fun wid w => do
    let level := f.imm.toNat % 8
    let l ← orStop (launchOf s w) .wait
    ensure (level == 1 || flagCoresident l.2) 0x04 (detail04 w (.bar f) 25 false 0)
    enterBarrier s wid w level

/-- STEP; a fault of an engine operation is delivered by it (R230, R252). -/
def execStep (f : CI) (s : State) : Out :=
  runControl s fun wid w => do
    let l ← orStop (launchOf s w) .wait
    ensure (flagCoresident l.2 && flagSuperstep l.2) 0x04 (detail04 w (.step f) 25 false 0)
    match deliverFault s wid w with
    | some t => if w.satf &&& w.satarm = 0 then .ok t else enterBarrier s wid w 0
    | none => enterBarrier s wid w 0

/-! ## Completion of the waits -/

/-- Complete a wait of a wave's control stream. -/
def completeWait (s : State) (wid : Nat) (k : Wave → Option State) : Out :=
  match getWave s wid with
  | none => stall s
  | some w => if launchLive s w then (match k w with | some t => .next t | none => stall s) else stall s

def execLwaitComplete (wid : Nat) (s : State) : Out :=
  completeWait s wid fun w =>
    if w.ctl = .lwait ∧ lwaitDone w = true then some (setWave s wid (finishControl (.lwait zC3) (joinBlocks { w with ctl := .running }))) else none

/-- MWAIT completes, or delivers the fault that came up; a STEP that waits delivers it too (R229, R230, R252). -/
def execMwaitComplete (wid : Nat) (s : State) : Out :=
  completeWait s wid fun w =>
    match w.ctl with
    | .mwait n =>
      (match deliverFault s wid w with
       | some t => some t
       | none =>
         if batchPending w n then none
         else some (acquireAt (setWave s wid (finishControl (.mwait zCE) { w with ctl := .running })) wid 1))
    | .barrier 0 => deliverFault s wid w
    | _ => none

def execFenceaComplete (wid : Nat) (s : State) : Out :=
  completeWait s wid fun w =>
    match w.ctl with
    | .fencea scope d => if fenceaDone s w scope then some (fenceaReport s wid w d) else none
    | _ => none

def execBarrierComplete (lid level unit : Nat) (s : State) : Out :=
  match tryBarrier s lid level unit with
  | some t => .next t
  | none => stall s

/-! ## Events (R253) -/

/-- A read of the event by a wait: its value when it has reached the target. -/
def applyWaitev (f : CE) (s : State) (wid : Nat) (w : Wave) (addr target : Dword) : Res Applied :=
  withImage s wid w addr.toNat 8 8 fun bs =>
    let v := natOfBytes bs
    if target.toNat ≤ v then .ok (.done (acquireAt s wid (f.opts.toNat % 8)) (some (BitVec.ofNat 64 v))) else waits

/-- What a WAITEV does with the event as it stands: it completes, is logged, or waits at its monitor. -/
def waitevTry (f : CE) (s : State) (wid : Nat) (w : Wave) (addr target : Dword) : Res State :=
  match applyWaitev f s wid w addr target with
  | .ok r => .ok (finishApplied (.waitev f) s wid { w with ctl := .running } (some f.d.toNat) [addr, target]
      (match r with | .done t v => .done (modWave t wid (fun w => { w with ctl := .running })) v | r => r))
  | .error .wait => .ok (setWave s wid { w with ctl := .waitev addr.toNat target.toNat (f.opts.toNat % 8) f.d.toNat })
  | .error e => .error e

def execWaitev (f : CE) (s : State) : Out :=
  runControl s fun wid w => do
    let x ← ceSources w f true true false [f.d.toNat]
    memReadyNow w (.control wid)
    waitevTry f s wid w x.1 x.2.1

/-- The event's line was written: the wait reads it again (R253). -/
def execWaitevWake (wid : Nat) (s : State) : Out :=
  match getWave s wid with
  | none => stall s
  | some w =>
    match w.ctl with
    | .waitev a t scope d =>
      let f : CE := { zCE with d := BitVec.ofNat 6 d, opts := BitVec.ofNat 15 scope }
      if !(launchLive s w) then stall s
      else
        (match waitevTry f s wid w (BitVec.ofNat 64 a) (BitVec.ofNat 64 t) with
         | .ok u => if u = s then stall s else .next u
         | .error (.fault c z m u) => .next (raiseFault (setWave s wid { w with ctl := .running }) (.control wid) c z m u)
         | .error (.request p q) => requestLine s (jobOf s w) p q
         | .error (.evict l) => evictLine s l
         | .error .wait => stall s)
    | _ => stall s

/-! ## Signature, heartbeat, yield (R255 to R257) -/

def execSig (f : CL) (s : State) : Out :=
  runControl s fun wid w =>
    let w' := { w with pc := w.pc + BitVec.ofNat 64 (byteLength (.sig f)), sigc := sigReset }
    if w.sigc = f.lit then .ok (setWave s wid w')
    else .ok (raiseFault (setWave s wid { w with sigc := sigReset }) (.control wid) 0x14 (f.lit.toNat + w.sigc.toNat * 2 ^ 32) none none)

def execHbeat (f : C3) (s : State) : Out :=
  runControl s fun wid w => do
    let l ← orStop (launchOf s w) .wait
    let t := setWave s wid (finishControl (.hbeat f) w)
    .ok (if flagPersistent l.2 then modLaunch t l.1 (fun l => { l with hbLeft := l.e.hbWindow }) else t)

/-- YIELD marks a boundary at which the team may be saved (R257); a save is an event of its own. -/
def execYield (f : C3) (s : State) : Out :=
  runControl s fun wid w => .ok (setWave s wid (finishControl (.yield f) { w with yielded := true }))

/-! ## Traps, breakpoints, exit (R258, R259) -/

/-- The control stream takes a trap and is held behind the instruction (R334). -/
def trapControl (i : Instr) (s : State) (wid : Nat) (w : Wave) (code detail : Nat) : State :=
  takeFault (setWave s wid (finishControl i w)) (.control wid) (standing s (.control wid)) (actorUnit s (.control wid)) code detail none false

def execTrap (f : CI) (s : State) : Out :=
  runControl s fun wid w => do
    readyS w [(f.a.toNat, f.ea)] []
    let a ← srcS w f.a.toNat f.ea
    .ok (trapControl (.trap f) s wid w 0x1A (f.imm.toNat + a.toNat * 2 ^ 64))

def execBrk (f : CI) (s : State) : Out :=
  runControl s fun wid w => .ok (trapControl (.brk f) s wid w 0x1B f.imm.toNat)

def execNop (f : C3) (s : State) : Out :=
  runControl s fun wid w => .ok (setWave s wid (finishControl (.nop f) w))

/-- The team's open tiles are discarded when its last wave has exited (R198). -/
def closeTiles (s : State) (team : Nat) : State :=
  match getTeam s team with
  | none => s
  | some t =>
    if t.waves.all (fun x => match getWave s x with | some w => w.team != team || w.ctl == .exited | none => true) then
      modTeam s team (fun t => { t with openTiles := [] })
    else s

def execExit (f : C3) (s : State) : Out :=
  runControl s fun wid w =>
    match (if quiet w then deliverFault s wid w else none) with
    | some t => .ok t
    | none => do
      fullWait w
      waitUnless w.engine.isEmpty
      waitUnless (allAcked s w 5)
      ensure (decide (w.asyncerr.truncate 8 = (0 : BitVec 8))) (w.asyncerr.toNat % 256) w.asyncerr.toNat
      .ok (closeTiles (setWave s wid (finishControl (.exit f) { w with ctl := .exited, returnQueue := [] })) w.team)

/-! ## Decode tables and capabilities (R86, R87, R243, R260) -/

/-- The lowest entry of a decode-table image that fails (R87). Of two valid entries that name one operation, the later one counts as
failing: the model's choice (log entry 71). -/
def decodeImageBad (es : List Nat) : Option Nat :=
  ((es.zipIdx).find? (fun p =>
    let e := p.1
    decide (e / 2 ^ 10 % 2 ^ 5 ≠ 0) || (decide (e / 2 ^ 15 = 0) && decide (e % 1024 ≠ 0))
      || (decide (e / 2 ^ 15 = 1) && ((map1 (e % 1024)).isNone
          || (es.take p.2).any (fun g => decide (g / 2 ^ 15 = 1) && g % 1024 == e % 1024))))).map (fun p => p.2)

/-- The context a privileged instruction names, or 0x12 (R260). -/
def namedContext (s : State) (b : Dword) : Res Context := orStop (getCtx s b.toNat) (.fault 0x12 (rangeDetail b.toNat 0) none none)

def applyDtload (f : CE) (s : State) (wid : Nat) (w : Wave) (addr ctx : Dword) : Res Applied := do
  let _ ← namedContext s ctx
  if addr = 0 then .ok (.done (modCtx s ctx.toNat (fun x => { x with decode := .map1 })) none)
  else
    withImage s wid w addr.toNat 64 2048 fun bs =>
      let es := halves bs 1024
      match decodeImageBad (es.map (fun e => e.toNat)) with
      | some k => raises 0x04 (detail04 w (.dtload f) 18 true k)
      | none => .ok (.done (modCtx s ctx.toNat (fun x => { x with decode := .image es })) none)

/-- The byte of a capability image at which a field is wrong (R243, R260). -/
def capImageBad (bs : List Byte) : Option Nat :=
  let n := fun i k => natOfBytes ((bs.drop i).take k)
  let kind := n 0 1
  let recv := kind == 2 || kind == 3
  (((List.range 14).filter (fun k =>
    (k == 0 && decide (4 ≤ kind)) || (k == 1 && decide (8 ≤ n 1 1)) || (k == 2 && kind != 1 && decide (n 2 2 ≠ 0))
      || (k == 2 && kind == 1 && decide (4096 ≤ n 2 2)) || (k == 4 && decide (4096 ≤ n 4 2))
      || (k == 8 && (if kind = 1 then decide (n 8 4 < 32) else decide (n 8 4 ≠ 0)))
      || (k == 12 && (if recv then !(decide (1 ≤ n 12 2 ∧ n 12 2 ≤ 256)) else decide (n 12 2 ≠ 0)))))
    ++ (List.range 32).filter (fun k => decide (14 ≤ k) && bs.getD k 0 != 0)).head?

def capOfImage (bs : List Byte) : Capability :=
  let n := fun i k => natOfBytes ((bs.drop i).take k)
  { kind := n 0 1, perms := n 1 1, pkg := n 2 2, job := n 4 2, ring := n 6 2, allowance := n 8 4, depth := n 12 2 }

/-- Replace or invalidate a capability: a ring loses its buffers; in-flight counts carry over (R260). -/
def setCap (k : Nat) (c : Option Capability) (x : Context) : Context :=
  { x with
    caps := match c with | some c => Tbl.put x.caps k c | none => Tbl.del x.caps k
    posted := Tbl.del x.posted k }

def applyCapset (f : CE) (s : State) (wid : Nat) (w : Wave) (addr ctx : Dword) : Res Applied := do
  let _ ← namedContext s ctx
  let k := f.opts.toNat % 256
  if addr = 0 then .ok (.done (modCtx s ctx.toNat (setCap k none)) none)
  else
    withImage s wid w addr.toNat 32 32 fun bs =>
      match capImageBad bs with
      | some b => raises 0x04 (detail04 w (.capset f) 18 true b)
      | none =>
        let c := capOfImage bs
        .ok (.done (modCtx s ctx.toNat (setCap k (if c.kind = 0 then none else some c))) none)

/-- A privileged install: read, logged or done. -/
def privInstr (i : Instr) (f : CE) (apply : State → Nat → Wave → Dword → Dword → Res Applied) (d : Option Nat) (s : State) : Out :=
  runControl s fun wid w => do
    let x ← ceSources w f true true false (match d with | some n => [n] | none => [])
    memReadyNow w (.control wid)
    let r ← apply s wid w x.1 x.2.1
    .ok (finishApplied i s wid w d [x.1, x.2.1] r)

def execDtload (f : CE) (s : State) : Out := privInstr (.dtload f) f (applyDtload f) none s

def execCapset (f : CE) (s : State) : Out := privInstr (.capset f) f (applyCapset f) none s

end Sys2Proof.Machine
end

