-- ==== Sys2Proof/Machine/Boxes.lean ====
section
/-! DEFINITION. Signal boxes (spec/20_signal_boxes.md): the Qorda instructions, a packet's run and its fate, offering of packets,
kernel checks, SBLOAD and SBFLOW (R429 to R448). -/

namespace Sys2Proof.Machine

/-! ## Boxes and bindings -/

/-- The box with a selector: physical plane in [2:0], box in [6:3] (R429). -/
def getBox (s : State) (sel : Nat) : SigBox := (Tbl.find? s.boxes sel).getD SigBox.reset

def setBox (s : State) (sel : Nat) (b : SigBox) : State := { s with boxes := Tbl.put s.boxes sel b }

/-- A binding matches a packet at a stage (R430). -/
def bindingMatches (b : Binding) (p : Packet) (stage : Nat) : Bool :=
  b.job == p.job && decide (b.flowLo ≤ p.tag) && decide (p.tag ≤ b.flowHi) && decide (b.stages / 2 ^ stage % 2 = 1)
    && decide (b.kinds / 2 ^ (if p.kind = 0x0B then 0 else 1) % 2 = 1)

/-- The boxes of a physical plane's die. -/
def planeBoxes (plane : Nat) : List Nat := (List.range 16).map (fun k => plane % 8 + 8 * k)

/-- The box and binding that a packet is offered to at a stage of a die (R430). -/
def matchBox (s : State) (p : Packet) (stage : Nat) : Option (Nat × Binding) :=
  (planeBoxes p.plane).findSome? (fun sel =>
    ((getBox s sel).bindings.find? (fun b => bindingMatches b p stage)).map (fun b => (sel, b)))

/-- Offer a packet to a box (R437: packets run in the order in which they are offered). -/
def offerPacket (s : State) (sel : Nat) (p : Packet) (b : Binding) (stage : Nat) : State :=
  let x := getBox s sel
  setBox s sel { x with offered := x.offered ++ [(p, b, stage)] }

/-- A packet leaves by a port, after the box at egress, if one matches (R429). Message and emitted kinds only. -/
def leaveDie (s : State) (p : Packet) (stage : Nat) : State :=
  match matchBox s p stage with
  | some (sel, b) => offerPacket s sel p b stage
  | none => forward s p

/-! ## A packet's run (R437) -/

/-- The state in which a kernel starts. -/
def startRun (p : Packet) (b : Binding) (stage : Nat) : BoxRun :=
  let f := fun (m : Cells Word) (k v : Nat) => Cells.set 0 m k (BitVec.ofNat 32 v)
  { pkt := p, binding := b, stage := stage, pc := 1, e := [],
    f := f (f (f (f (f [] 0 (p.tag - b.flowLo)) 1 p.length) 2 p.source) 3 p.dest) 4 p.addr,
    buf := (p.payload.zipIdx).foldl (fun m x => Cells.set 0 m x.2 x.1) [], len := p.length, flow := p.tag, dest := p.dest,
    tag := p.addr, rep := none }

/-- The packet with the header values and payload that the kernel gave it. -/
def runPacket (r : BoxRun) : Packet :=
  { r.pkt with tag := r.flow, dest := r.dest, addr := r.tag, length := r.len,
               payload := (List.range r.len).map (fun i => Cells.get 0 r.buf i) }

/-- BOX_PACKET_RUN: an idle box starts the kernel over the oldest packet offered to it. Its words then execute one to a
turn. -/
def execBoxPacketRun (sel : Nat) (s : State) : Out :=
  let x := getBox s sel
  match x.run, x.offered with
  | none, (p, b, stage) :: rest => .next (setBox s sel { x with offered := rest, run := some (startRun p b stage) })
  | _, _ => stall s

def getE (r : BoxRun) (n lane : Nat) : Word := Cells.get 0 r.e (n * 16 + lane)
def setE (n lane : Nat) (v : Word) (r : BoxRun) : BoxRun := { r with e := Cells.set 0 r.e (n * 16 + lane) v }
def getF (r : BoxRun) (n : Nat) : Word := Cells.get 0 r.f n
def setF (n : Nat) (v : Word) (r : BoxRun) : BoxRun := { r with f := Cells.set 0 r.f n v }

/-- Write the 16 lanes of an e register. -/
def setLanes (n : Nat) (vs : List Word) (r : BoxRun) : BoxRun := (vs.zipIdx).foldl (fun r x => setE n x.2 x.1 r) r

/-- How a word ends: the kernel goes on, or the packet's fate is settled. -/
inductive BoxEnd where
  | go (x : SigBox) (r : BoxRun)
  | jump (x : SigBox) (r : BoxRun) (pc : Nat)
  | trap (reason code value : Nat)
  | pass
  | drop
  | emit
  deriving DecidableEq, Repr

/-- The word after one that goes on to `next`: the body of a REP starts again while passes remain (R445). -/
def stepRep (next : Nat) (r : BoxRun) : BoxRun :=
  match r.rep with
  | some (first, k, n, i, d) =>
    if next < first + k then { r with pc := next }
    else if i + 1 < n then setF d (BitVec.ofNat 32 (i + 1)) { r with pc := first, rep := some (first, k, n, i + 1, d) }
    else { r with pc := next, rep := none }
  | none => { r with pc := next }

/-- The box is idle again. -/
def endRun (s : State) (sel : Nat) : State := setBox s sel { getBox s sel with run := none }

/-- A message that a box drops is acknowledged as placed (R431). -/
def settleMessage (s : State) (p : Packet) : State := if p.kind = 0x0B then answerMessage s p 0 0 else s

/-- A trap discards the packet and places its record (R447). -/
def trapRun (s : State) (sel : Nat) (r : BoxRun) (reason code value : Nat) : State :=
  let s := settleMessage (endRun s sel) r.pkt
  eventRecord s r.binding.job r.binding.event sel reason
    (trapRecord (headerNat (runPacket r)) reason r.pc sel code value ((List.range 8).map (getF r)))

/-- PASS: placement of a packet at its destination, or onwards (R431, R432, R444). A run whose placement waits stays. -/
def passRun (s : State) (sel : Nat) (r : BoxRun) : Out :=
  let p := runPacket r
  let t := endRun s sel
  if p.kind = 0x0B then placeMessage t p true
  else if r.stage = 0 ∧ p.dest = s.pkg then orWait s (placeEmitted t p)
  else .next (forward t p)

/-- EMIT: a packet of kind 0x0D of this package, which crosses boxes as any packet does (R444). -/
def emitPacket (s : State) (r : BoxRun) : State :=
  let plane := physPlane s r.flow
  let d : Packet :=
    { runPacket r with kind := 0x0D, source := s.pkg, job := r.binding.job, seq := 0, multicast := false, ordered := false,
                       plane := plane, poisoned := false,
                       path := ((usablePaths s plane r.dest)[Config.freeNat s.freeCtr % (usablePaths s plane r.dest).length]?).getD 0 }
  let s := { s with freeCtr := s.freeCtr + 1 }
  if d.dest = s.pkg then forward s d else leaveDie s d 1

/-- Execute a word of the kernel of the box whose turn it is. -/
def runWord (s : State) (body : SigBox → BoxRun → BoxEnd) : Out :=
  match s.actor with
  | .box sel =>
    let x := getBox s sel
    (match x.run with
     | some r =>
       (match body x r with
        | .go x r => .next (setBox s sel { x with run := some (stepRep (r.pc + 1) r) })
        | .jump x r pc => .next (setBox s sel { x with run := some (stepRep pc r) })
        | .trap n c v => .next (trapRun s sel r n c v)
        | .pass => passRun s sel r
        | .drop => .next (settleMessage (endRun s sel) r.pkt)
        | .emit => .next (emitPacket (setBox s sel { x with run := some (stepRep (r.pc + 1) r) }) r))
     | none => .fault .noInstance)
  | _ => .fault .noInstance

/-! ## QR instructions (R440) -/

/-- Whether ck traps for a result: an integer out of range, an infinity from finite operands, a NaN from no NaN. -/
def ckInt (ty : Nat) (x : Int) : Bool :=
  if ty = 0 then decide (x < -(2 ^ 31 : Int)) || decide ((2 ^ 31 : Int) ≤ x) else decide (x < 0) || decide ((2 ^ 32 : Int) ≤ x)

def ckFp (a b : Nat) (r : Rounded) : Bool :=
  let fin := fun z => match fpOfFp32 z with | .fin _ _ _ => true | _ => false
  match fpOfFp32 r.bits with
  | .inf _ => fin a && fin b
  | .nan => !(fpOfFp32 a).isNaN && !(fpOfFp32 b).isNaN
  | _ => false

/-- The integer a lane holds under a type. -/
def typed (ty : Nat) (x : Word) : Int := if ty = 0 then x.toInt else (x.toNat : Int)

/-- Result of ADD, SUB or MUL and whether ck traps. -/
def arith (ty : Nat) (int : Int → Int → Int) (fp : Nat → Nat → Rounded) (a b : Word) : Word × Bool :=
  if ty = 2 then
    let r := fp a.toNat b.toNat
    (BitVec.ofNat 32 r.bits, ckFp a.toNat b.toNat r)
  else
    let x := int (typed ty a) (typed ty b)
    (BitVec.ofInt 32 x, ckInt ty x)

/-- A comparison of a QR or QB cond (R438, R126). -/
def condHolds (cond : Nat) (lt eq un : Bool) : Bool :=
  match cond with
  | 0 => eq
  | 1 => !eq
  | 2 => lt
  | 3 => lt || eq
  | 4 => !lt && !eq && !un
  | 5 => !lt && !un
  | _ => false

def compareQ (ty cond : Nat) (a b : Word) : Bool :=
  if ty = 2 then
    let x := fpOfFp32 a.toNat
    let y := fpOfFp32 b.toNat
    condHolds cond (fpLt x y) (fpEq x y) (x.isNaN || y.isNaN)
  else condHolds cond (decide (typed ty a < typed ty b)) (decide (a = b)) false

/-- One QR instruction: every lane of an e register, or one f register (R438, R440). A trap writes nothing. -/
def lanesOp (f : QR) (op : Word → Word → Word → Word × Bool) (x : SigBox) (r : BoxRun) : BoxEnd :=
  if f.s then
    let v := op (getF r f.a.toNat) (getF r f.b.toNat) (getF r f.c.toNat)
    if f.ck && v.2 then .trap 4 0 0 else .go x (setF f.d.toNat v.1 r)
  else
    let vs := (List.range 16).map (fun l =>
      op (getE r f.a.toNat l) (if f.bs then getF r f.b.toNat else getE r f.b.toNat l) (getE r f.c.toNat l))
    if f.ck && vs.any (fun v => v.2) then .trap 4 0 0 else .go x (setLanes f.d.toNat (vs.map (fun v => v.1)) r)

/-- A result that never traps. -/
def plainWord (g : Word → Word → Word) : Word → Word → Word → Word × Bool := fun a b _ => (g a b, false)

def execBoxAdd (f : QR) (s : State) : Out :=
  runWord s (lanesOp f (fun a b _ => arith f.ty.toNat (fun x y => x + y) addRNE a b))

def execBoxSub (f : QR) (s : State) : Out :=
  runWord s (lanesOp f (fun a b _ => arith f.ty.toNat (fun x y => x - y) subRNE a b))

def execBoxMul (f : QR) (s : State) : Out :=
  runWord s (lanesOp f (fun a b _ => arith f.ty.toNat (fun x y => x * y) (fun x y => mulRNE (fpOfFp32 x) (fpOfFp32 y)) a b))

def smaller (ty : Nat) (a b : Word) : Word :=
  if ty = 2 then BitVec.ofNat 32 (fpMinMax .fp32 false a.toNat b.toNat) else if typed ty b < typed ty a then b else a

def larger (ty : Nat) (a b : Word) : Word :=
  if ty = 2 then BitVec.ofNat 32 (fpMinMax .fp32 true a.toNat b.toNat) else if typed ty a < typed ty b then b else a

def execBoxMin (f : QR) (s : State) : Out := runWord s (lanesOp f (plainWord (smaller f.ty.toNat)))

def execBoxMax (f : QR) (s : State) : Out := runWord s (lanesOp f (plainWord (larger f.ty.toNat)))

def execBoxAnd (f : QR) (s : State) : Out := runWord s (lanesOp f (plainWord (fun a b => a &&& b)))

def execBoxOr (f : QR) (s : State) : Out := runWord s (lanesOp f (plainWord (fun a b => a ||| b)))

def execBoxXor (f : QR) (s : State) : Out := runWord s (lanesOp f (plainWord (fun a b => a ^^^ b)))

def execBoxShl (f : QR) (s : State) : Out := runWord s (lanesOp f (plainWord (fun a b => a <<< (b.toNat % 32))))

def execBoxShr (f : QR) (s : State) : Out :=
  runWord s (lanesOp f (plainWord (fun a b => if f.ty = 0 then a.sshiftRight (b.toNat % 32) else a >>> (b.toNat % 32))))

def execBoxCmp (f : QR) (s : State) : Out :=
  runWord s (lanesOp f (plainWord (fun a b => if compareQ f.ty.toNat f.cond.toNat a b then 0xFFFFFFFF else 0)))

def execBoxSel (f : QR) (s : State) : Out :=
  runWord s (lanesOp f (fun a b c => (if c ≠ 0 then a else b, false)))

/-! ## QI register instructions (R441) -/

/-- A result in every lane of an e register, or in an f register, from a register's old value. -/
def perLane (f : QI) (src : Nat) (g : Word → Word) (x : SigBox) (r : BoxRun) : BoxEnd :=
  if f.s then .go x (setF f.d.toNat (g (getF r src)) r)
  else .go x (setLanes f.d.toNat ((List.range 16).map (fun l => g (getE r src l))) r)

def execBoxAddi (f : QI) (s : State) : Out := runWord s (perLane f f.a.toNat (fun a => a + f.imm.signExtend 32))

def execBoxLdi (f : QI) (s : State) : Out := runWord s (perLane f f.d.toNat (fun _ => f.imm.signExtend 32))

def execBoxLdiH (f : QI) (s : State) : Out :=
  runWord s (perLane f f.d.toNat (fun d => (f.imm.zeroExtend 32 <<< 16) ||| (d &&& 0xFFFF)))

def execBoxGetl (f : QI) (s : State) : Out :=
  runWord s (fun x r => .go x (setF f.d.toNat (getE r f.a.toNat (f.imm.toNat % 16)) r))

def execBoxSetl (f : QI) (s : State) : Out :=
  runWord s (fun x r => .go x (setE f.d.toNat (f.imm.toNat % 16) (getF r f.a.toNat) r))

/-! ## Payload and flow state (R442) -/

/-- c of R442, as unsigned 32-bit. -/
def chunkOf (f : QI) (r : BoxRun) : Nat := ((if f.x then (getF r f.a.toNat).toNat else 0) + f.imm.toNat % 64) % 2 ^ 32

/-- i of R442. -/
def recordOf (f : QI) (r : BoxRun) : Nat := (getF r (if f.x then f.a.toNat else 0)).toNat

/-- A word of four bytes of a table. -/
def cellWord (m : Cells Byte) (a : Nat) : Word :=
  BitVec.ofNat 32 (natOfBytes ((List.range 4).map (fun i => Cells.get 0 m (a + i))))

def setCellWord (m : Cells Byte) (a : Nat) (v : Word) : Cells Byte :=
  ((bytesOfNat 4 v.toNat).zipIdx).foldl (fun m x => Cells.set 0 m (a + x.2) x.1) m

def cellLanes (m : Cells Byte) (a : Nat) : List Word := (List.range 16).map (fun j => cellWord m (a + 4 * j))

def setCellLanes (m : Cells Byte) (a : Nat) (vs : List Word) : Cells Byte :=
  (vs.zipIdx).foldl (fun m x => setCellWord m (a + 4 * x.2) x.1) m

def eLanes (r : BoxRun) (n : Nat) : List Word := (List.range 16).map (getE r n)

def execBoxPld (f : QI) (s : State) : Out :=
  runWord s (fun x r =>
    if 64 ≤ chunkOf f r then .trap 3 0 0 else .go x (setLanes f.d.toNat (cellLanes r.buf (64 * chunkOf f r)) r))

def execBoxPst (f : QI) (s : State) : Out :=
  runWord s (fun x r =>
    if 64 ≤ chunkOf f r then .trap 3 0 0
    else .go x { r with buf := setCellLanes r.buf (64 * chunkOf f r) (eLanes r f.d.toNat) })

/-- The byte at which record i of the binding's partition lies. -/
def recordAt (r : BoxRun) (i : Nat) : Nat := (r.binding.partBase + i) * 256

/-- An access of a flow-state record, or trap 2. -/
def withRecord (f : QI) (r : BoxRun) (k : Nat → BoxEnd) : BoxEnd :=
  let i := recordOf f r
  if r.binding.partCount ≤ i then .trap 2 0 i else k (recordAt r i)

def execBoxFldVector (f : QI) (s : State) : Out :=
  runWord s (fun x r => withRecord f r (fun a => .go x (setLanes f.d.toNat (cellLanes x.recs (a + 64 * (f.imm.toNat % 4))) r)))

def execBoxFldScalar (f : QI) (s : State) : Out :=
  runWord s (fun x r => withRecord f r (fun a => .go x (setF f.d.toNat (cellWord x.recs (a + 4 * (f.imm.toNat % 64))) r)))

def execBoxFstVector (f : QI) (s : State) : Out :=
  runWord s (fun x r => withRecord f r (fun a =>
    .go { x with recs := setCellLanes x.recs (a + 64 * (f.imm.toNat % 4)) (eLanes r f.d.toNat) } r))

def execBoxFstScalar (f : QI) (s : State) : Out :=
  runWord s (fun x r => withRecord f r (fun a =>
    .go { x with recs := setCellWord x.recs (a + 4 * (f.imm.toNat % 64)) (getF r f.d.toNat) } r))

def execBoxFinc (f : QI) (s : State) : Out :=
  runWord s (fun x r => withRecord f r (fun a =>
    let w := a + 4 * (f.imm.toNat % 64)
    let old := cellWord x.recs w
    .go { x with recs := setCellWord x.recs w (old + (f.imm.extractLsb' 6 10).signExtend 32) } (setF f.d.toNat old r)))

/-! ## Header (R443) -/

def headerValue (r : BoxRun) (h : Nat) : Nat :=
  match h with
  | 0 => r.pkt.kind
  | 1 => r.len
  | 2 => r.pkt.source
  | 3 => r.dest
  | 4 => r.pkt.job
  | 5 => r.flow
  | 6 => r.tag
  | _ => r.stage

def execBoxHrd (f : QI) (s : State) : Out :=
  runWord s (fun x r => .go x (setF f.d.toNat (BitVec.ofNat 32 (headerValue r (f.imm.toNat % 8))) r))

/-- A header value written within its limits, or nothing (R443). -/
def writeHeader (h v : Nat) (r : BoxRun) : Option BoxRun :=
  let message := r.pkt.kind == 0x0B
  match h with
  | 1 => if v ≤ 4096 ∧ v % 32 = 0 ∧ (message = false ∨ v ≠ 0) then some { r with len := v } else none
  | 3 => if v < 4096 ∧ message = false then some { r with dest := v } else none
  | 5 => if v < 2 ^ 16 ∧ message = false then some { r with flow := v } else none
  | 6 => if v < 2 ^ 16 then some { r with tag := v } else none
  | _ => none

def execBoxHwr (f : QI) (s : State) : Out :=
  runWord s (fun x r =>
    match writeHeader (f.imm.toNat % 8) (getF r f.a.toNat).toNat r with
    | some r => .go x r
    | none => .trap 5 0 0)

/-! ## The packet's fate, branches and loops (R444, R445) -/

def execBoxQordaTrap (f : QI) (s : State) : Out := runWord s (fun _ _ => .trap 1 f.imm.toNat 0)

def execBoxEmit (_f : QI) (s : State) : Out := runWord s (fun _ _ => .emit)

def execBoxPass (_f : QI) (s : State) : Out := runWord s (fun _ _ => .pass)

def execBoxDrop (_f : QI) (s : State) : Out := runWord s (fun _ _ => .drop)

/-- Whether a BR is taken. -/
def branchTaken (cond : Nat) (a b : Word) : Bool :=
  match cond with
  | 6 => decide (a.toNat < b.toNat)
  | 7 => true
  | c => condHolds c (decide (a.toInt < b.toInt)) (decide (a = b)) false

def execBoxBr (f : QB) (s : State) : Out :=
  runWord s (fun x r =>
    if branchTaken f.cond.toNat (getF r f.a.toNat) (getF r f.b.toNat) then .jump x r (r.pc + f.off.toNat) else .go x r)

/-- REP: its body runs ⌈f1′ / 64⌉ times, f1′ being the header's payload length (R445). -/
def execBoxRep (f : QB) (s : State) : Out :=
  runWord s (fun x r =>
    let k := f.off.toNat % 32
    let n := ceilDiv r.len 64
    if n = 0 then .jump x r (r.pc + 1 + k)
    else .jump x (setF f.cond.toNat 0 { r with rep := some (r.pc + 1, k, n, 0, f.cond.toNat) }) (r.pc + 1))

/-! ## Load-time checks (R446) -/

/-- The instruction of word i of an image. -/
def imageWord (ws : List Nat) (i : Nat) : Option Instr := decodeBoxForm (ws.getD i 0)

/-- A REP's number of words. -/
def repLen : Option Instr → Nat
  | some (.boxRep f) => f.off.toNat % 32
  | _ => 0

def isRep : Option Instr → Bool
  | some (.boxRep _) => true
  | _ => false

/-- Words that end a packet or emit one: not in a REP body. -/
def isFate : Option Instr → Bool
  | some (.boxEmit _) => true
  | some (.boxPass _) => true
  | some (.boxDrop _) => true
  | _ => false

/-- The last word of the REP body that holds word i, if one does. -/
def bodyEnd (ws : List Nat) (i : Nat) : Option Nat :=
  ((List.range i).find? (fun r => isRep (imageWord ws r) && decide (1 ≤ r) && decide (i ≤ r + repLen (imageWord ws r)))).map
    (fun r => r + repLen (imageWord ws r))

/-- Reason 5 at a word. -/
def badBranch (ws : List Nat) (n i : Nat) : Bool :=
  match imageWord ws i with
  | some (.boxBr f) =>
    let t := i + f.off.toNat
    f.off.toNat == 0 || decide (n < t) || (match bodyEnd ws i with | some e => decide (e < t) | none => false)
  | _ => false

/-- Reason 6 at a word. -/
def badBody (ws : List Nat) (n i : Nat) : Bool :=
  let w := imageWord ws i
  (isRep w && decide (n < i + repLen w)) || ((bodyEnd ws i).isSome && (isRep w || isFate w))

/-- The weight of a word other than REP. -/
def wordWeight : Option Instr → Nat
  | some (.boxPld _) => 2
  | some (.boxPst _) => 2
  | some (.boxFldVector _) => 2
  | some (.boxFldScalar _) => 2
  | some (.boxFstVector _) => 2
  | some (.boxFstScalar _) => 2
  | some (.boxFinc _) => 3
  | some (.boxEmit _) => 8
  | _ => 1

/-- The words that may follow word i. -/
def following (w : Option Instr) (i : Nat) : List Nat :=
  match w with
  | some (.boxBr f) => if f.cond = 7 then [i + f.off.toNat] else [i + f.off.toNat, i + 1]
  | some (.boxRep f) => [i + 1 + f.off.toNat % 32]
  | some (.boxPass _) => []
  | some (.boxDrop _) => []
  | some (.boxQordaTrap _) => []
  | _ => [i + 1]

/-- Heaviest and most emitting paths to a word, by word. -/
abbrev PathTable := Tbl (Nat × Nat)

def raiseTo (t : PathTable) (i w e : Nat) : PathTable :=
  match Tbl.find? t i with
  | some (a, b) => Tbl.put t i (max a w, max b e)
  | none => Tbl.put t i (w, e)

/-- Paths through words `i` to `i + k`, in order; branches only go forward. -/
def spread (ws : List Nat) (weight : Nat → Nat) : Nat → Nat → PathTable → PathTable
  | 0, _, t => t
  | k + 1, i, t =>
    match Tbl.find? t i with
    | none => spread ws weight k (i + 1) t
    | some (w, e) =>
      let x := imageWord ws i
      let e := e + (match x with | some (.boxEmit _) => 1 | _ => 0)
      spread ws weight k (i + 1) ((following x i).foldl (fun t j => raiseTo t j (w + weight i) e) t)

/-- The heaviest path through a body of `k` words from word `i`. -/
def bodyWeight (ws : List Nat) (i k : Nat) : Nat :=
  let weight := fun j => wordWeight (imageWord ws j)
  let t := spread ws weight k i [(i, (0, 0))]
  (List.range k).foldl (fun m j => match Tbl.find? t (i + j) with | some (w, _) => max m (w + weight (i + j)) | none => m) 0

def pathWeight (ws : List Nat) (i : Nat) : Nat :=
  match imageWord ws i with
  | some (.boxRep f) => 1 + 64 * bodyWeight ws (i + 1) (f.off.toNat % 32)
  | w => wordWeight w

/-- Every path of an image of `n` words. -/
def pathTable (ws : List Nat) (n : Nat) : PathTable := spread ws (pathWeight ws) n 1 [(1, (0, 0))]

def reachedWhere (t : PathTable) (i : Nat) (p : Nat × Nat → Bool) : Bool :=
  match Tbl.find? t i with
  | some x => p x
  | none => false

/-- The first word from 1 to n that fails a check. -/
def firstWord (n : Nat) (p : Nat → Bool) : Option Nat := ((List.range n).map (fun k => k + 1)).find? p

/-- A check with its reason. -/
def asReason (r : Nat) (i : Option Nat) : Option (Nat × Nat) := i.map (fun k => (r, k))

/-- The first failure of an image: reason and word (R446). Each check runs over all words before the next. -/
def imageFailure (ws : List Nat) : Option (Nat × Nat) :=
  let w0 := ws.headD 0
  let n := w0 % 256
  if n = 0 ∨ 64 < n then some (2, 0)
  else if w0 / 256 ≠ 0 then some (3, 0)
  else
    (asReason 3 (firstWord n (fun i => boxWordReason (ws.getD i 0) == some 3))).or <|
    (asReason 4 (firstWord n (fun i => boxWordReason (ws.getD i 0) == some 4))).or <|
    (asReason 5 (firstWord n (badBranch ws n))).or <|
    (asReason 6 (firstWord n (badBody ws n))).or <|
    let t := pathTable ws n
    (asReason 7 (firstWord n (fun i => (Tbl.find? t i).isSome && (following (imageWord ws i) i).contains (n + 1)))).or <|
    (asReason 8 (firstWord n (fun i =>
      (match imageWord ws i with | some (.boxEmit _) => true | _ => false) && reachedWhere t i (fun x => decide (4 ≤ x.2))))).or <|
    (asReason 9 (firstWord n (fun i => reachedWhere t i (fun x => decide (4096 < x.1 + pathWeight ws i)))))

/-! ## SBLOAD (R260, R434, R446) -/

/-- The status of SBLOAD and SBFLOW (R434). -/
def boxStatus (reason at_ : Nat) : Dword := BitVec.ofNat 64 (reason + at_ % 256 * 2 ^ 8)

/-- An address that must be global. -/
def globalOnly (addr : Nat) : Res Unit := ensure (decide (apertureOf addr = 0)) 0x09 (addrDetail addr false false)

def applySbload (_f : CE) (s : State) (wid : Nat) (w : Wave) (addr sel : Dword) : Res Applied := do
  if 128 ≤ sel.toNat then .ok (.done s (some (boxStatus 1 0)))
  else
    globalOnly addr.toNat
    withImage s wid w addr.toNat 64 4 fun h =>
      let n := natOfBytes h % 256
      let count := if 1 ≤ n ∧ n ≤ 64 then n + 1 else 1
      withImage s wid w addr.toNat 64 (4 * count) fun bs =>
        let ws := lineWords bs count 0
        match imageFailure ws with
        | some (r, i) => .ok (.done s (some (boxStatus r i)))
        | none =>
          let x := getBox s sel.toNat
          if !x.bindings.isEmpty then .ok (.done s (some (boxStatus 10 0)))
          else if x.run.isSome || !x.offered.isEmpty then waits
          else .ok (.done (setBox s sel.toNat { x with kernel := ws.map (BitVec.ofNat 32) }) (some (boxStatus 0 0)))

def execSbload (f : CE) (s : State) : Out := privInstr (.sbload f) f (applySbload f) (some f.d.toNat) s

/-! ## SBFLOW (R433 to R435) -/

/-- The binding of a record. -/
def bindingOf (bs : List Byte) : Binding :=
  let n := fun i k => natOfBytes ((bs.drop i).take k)
  { job := n 0 2 % 4096, flowLo := n 2 2, flowHi := n 4 2, stages := n 6 1, kinds := n 7 1, partBase := n 8 2, partCount := n 10 2,
    event := n 13 1 }

/-- The byte offset of the first field of a record that breaks its table (R433). -/
def recordBad (bs : List Byte) : Option Nat :=
  let n := fun i k => natOfBytes ((bs.drop i).take k)
  let init := n 12 1
  let op := n 14 1
  let addr := n 16 8
  let used := init == 2 || op == 2
  ([(0, decide (n 0 2 < 4096)), (4, decide (n 2 2 ≤ n 4 2)), (6, decide (1 ≤ n 6 1 ∧ n 6 1 < 8)),
    (7, decide (1 ≤ n 7 1 ∧ n 7 1 < 4) && (decide (n 7 1 % 2 = 0) || n 6 1 == 1)), (8, decide (n 8 2 < 2048)),
    (10, decide (1 ≤ n 10 2 ∧ n 10 2 ≤ 2048 ∧ n 8 2 + n 10 2 ≤ 2048)), (12, decide (init < 3)), (14, decide (op < 3)),
    (15, decide (n 15 1 = 0)), (16, if used then decide (apertureOf addr = 0 ∧ addr % 256 = 0) else decide (addr = 0))]
    ++ [(24, decide (natOfBytes ((bs.drop 24).take 40) = 0))]).findSome? (fun c : Nat × Bool => if c.2 then none else some c.1)

/-- Two ranges of flows meet. -/
def flowsMeet (a b : Binding) : Bool := decide (a.flowLo ≤ b.flowHi) && decide (b.flowLo ≤ a.flowHi)

/-- Another binding of the die conflicts (reason 13). -/
def dieConflict (s : State) (sel : Nat) (b : Binding) : Bool :=
  (planeBoxes (sel % 8)).any (fun k => (getBox s k).bindings.any (fun c =>
    c.job == b.job && decide (Nat.land c.stages b.stages ≠ 0) && decide (Nat.land c.kinds b.kinds ≠ 0) && flowsMeet c b))

/-- The partition overlaps that of another job (reason 14). -/
def partConflict (x : SigBox) (b : Binding) : Bool :=
  x.bindings.any (fun c => c.job != b.job && rangesMeet c.partBase c.partCount b.partBase b.partCount)

/-- The job's context has an event ring at the binding's capability (reason 15). -/
def eventOk (s : State) (b : Binding) : Bool :=
  match ctxWithJob s b.job with
  | some (_, x) => (match Tbl.find? x.caps b.event with | some c => c.kind == 3 | none => false)
  | none => false

/-- Put bytes into a box's records. -/
def writeRecs (m : Cells Byte) (a : Nat) (bs : List Byte) : Cells Byte := (bs.zipIdx).foldl (fun m x => Cells.set 0 m (a + x.2) x.1) m

/-- A copy to or from memory that fails: reason 18, a page to wait for, or a stop. -/
def copyFails (s : State) (e : RangeStop) : Res Applied :=
  match e with
  | .absent a n => .ok (.absent a n)
  | .denied _ => .ok (.done s (some (boxStatus 18 0)))
  | .poisoned _ _ => .ok (.done s (some (boxStatus 18 0)))
  | e => .error (rangeStop e none)

/-- Bind: the records are kept, zeroed or copied, then the binding is in force (R433, R435). -/
def bindFlow (s : State) (wid : Nat) (w : Wave) (sel : Nat) (b : Binding) (init addr : Nat) : Res Applied :=
  let x := getBox s sel
  let size := b.partCount * 256
  let done := fun recs => Applied.done (setBox s sel { x with recs := recs, bindings := x.bindings ++ [b] }) (some (boxStatus 0 0))
  if x.kernel.isEmpty then .ok (.done s (some (boxStatus 12 0)))
  else if dieConflict s sel b then .ok (.done s (some (boxStatus 13 0)))
  else if partConflict x b then .ok (.done s (some (boxStatus 14 0)))
  else if !(eventOk s b) then .ok (.done s (some (boxStatus 15 0)))
  else if 8 ≤ x.bindings.length then .ok (.done s (some (boxStatus 16 0)))
  else
    match init with
    | 0 => .ok (done x.recs)
    | 1 => .ok (done (writeRecs x.recs (b.partBase * 256) (List.replicate size 0)))
    | _ => do
      let cx ← ctxRes s w
      match readRange s w wid cx.2 addr size with
      | .ok bs => .ok (done (writeRecs x.recs (b.partBase * 256) bs))
      | .error e => copyFails s e

/-- A line of the copy of op 2: local memory is written at once, a peer's page through the store buffer (log entry 32). -/
def copyLine (s : State) (wid : Nat) (w : Wave) (x : Context) (addr : Nat) (bs : List Byte) : Ranged State :=
  match deviceTarget s x .write addr with
  | .error e => .error e
  | .ok (.remote q a) =>
    let acc : Access :=
      { kind := .store, actor := .control wid, pc := w.pc.toNat, block := 0, seq := w.seq, width := bs.length, dest := .none, scope := 4,
        order := 0, hint := 0, lanes := [] }
    .ok (modWave s wid (fun w => bufferOne w acc none acc.seq (.remote q a) 4 bs 0 0 (0, addr)))
  | .ok p =>
    if ownStoreWaits w w.seq p bs.length then .error .wait
    else if peersHolding s p bs.length then .error (.peers (placeLine p))
    else .ok (coreL1Write (writePlace s p bs false) (coreOf wid) p bs)

def copyLines (wid : Nat) (w : Wave) (x : Context) : Nat → State → Nat → List Byte → Ranged State
  | 0, s, _, _ => .ok s
  | n + 1, s, addr, bs =>
    match copyLine s wid w x addr (bs.take 128) with
    | .error e => .error e
    | .ok t => copyLines wid w x n t (addr + 128) (bs.drop 128)

/-- Unbind, once every packet that arrived under the binding has ended; op 2 copies the partition out (R435). -/
def unbindFlow (s : State) (wid : Nat) (w : Wave) (sel : Nat) (b : Binding) (copy : Bool) (addr : Nat) : Res Applied :=
  let x := getBox s sel
  match x.bindings.find? (fun c => c.job == b.job && c.flowLo == b.flowLo) with
  | none => .ok (.done s (some (boxStatus 17 0)))
  | some c =>
    let busy := (match x.run with | some r => r.binding == c | none => false) || x.offered.any (fun o : Packet × Binding × Nat => o.2.1 == c)
    if busy then waits
    else
      let t := setBox s sel { x with bindings := x.bindings.erase c }
      if copy then do
        let cx ← ctxRes s w
        let size := b.partCount * 256
        let bytes := (List.range size).map (fun i => Cells.get 0 x.recs (b.partBase * 256 + i))
        match copyLines wid w cx.2 (size / 128) t addr bytes with
        | .ok u => .ok (.done (modWave u wid (markWrite addr size)) (some (boxStatus 0 0)))
        | .error e => copyFails s e
      else .ok (.done t (some (boxStatus 0 0)))

def applySbflow (_f : CE) (s : State) (wid : Nat) (w : Wave) (addr sel : Dword) : Res Applied := do
  if 128 ≤ sel.toNat then .ok (.done s (some (boxStatus 1 0)))
  else
    globalOnly addr.toNat
    withImage s wid w addr.toNat 64 64 fun bs =>
      match recordBad bs with
      | some k => .ok (.done s (some (boxStatus 11 k)))
      | none =>
        let b := bindingOf bs
        let mem := natOfBytes ((bs.drop 16).take 8)
        match (bs.getD 14 0).toNat with
        | 0 => bindFlow s wid w sel.toNat b (bs.getD 12 0).toNat mem
        | op => unbindFlow s wid w sel.toNat b (decide (op = 2)) mem

def execSbflow (f : CE) (s : State) : Out := privInstr (.sbflow f) f (applySbflow f) (some f.d.toNat) s

end Sys2Proof.Machine
end

