-- ==== Sys2Proof/Machine/Fetch.lean ====
section
/-! DEFINITION. Fetching and decoding an instruction (R66 to R70, R85, R396). -/

namespace Sys2Proof.Machine

/-! ## Fetch (R67, R68, R396) -/

/-- What a fetch finds. -/
inductive Fetched where
  | instr (i : Instr)
  | fault (code detail : Nat) (unit : Option Nat)
  /-- a word in a page that is not present -/
  | absent (addr entry : Nat)
  | wait
  deriving DecidableEq, Repr

/-- One word at an address, or why there is none (R68). -/
def fetchWord (s : State) (x : Context) (addr : Nat) : Except Fetched Nat :=
  if addr / 2 ^ 56 ≠ 0 then .error (.fault 0x09 (addrDetail addr false true) none)
  else
    match translate s x .fetch (addr % 2 ^ 56) with
    | .absent e => .error (.absent addr e)
    | .denied => .error (.fault 0x0B (addrDetail addr false true) none)
    | .poisoned e => .error (.fault 0x17 (poisonDetail addr false (memoryPoison s e 8).own + 2 ^ 65) (memoryPoison s e 8).unit)
    | .copyFirst => .error .wait
    | .to p =>
      if placePoisoned s p 4 then .error (.fault 0x17 (poisonDetail addr false (poisonFrom s p 4).own + 2 ^ 65) (poisonFrom s p 4).unit)
      else .ok (natOfBytes (readBase s p 4))

/-- The operation a decode table gives an opcode (R85). -/
def lookupIn (t : DecodeTable) (opcode : Nat) : Option Nat :=
  match t with
  | .map1 => map1 opcode
  | .image es =>
    let e := (es.getD opcode 0).toNat
    if e / 2 ^ 15 = 1 then map1 (e % 1024) else none

/-- The fault of a word that is not an instruction (R69, R70). -/
def decodeFault (w0 : Nat) : DecodeError → Fetched
  | .illegalLength => .fault 0x01 w0 none
  | .unmapped => .fault 0x02 w0 none
  | .stream => .fault 0x03 w0 none
  | .field b => .fault 0x04 (w0 + b * 2 ^ 32) none
  | .privileged op => .fault 0x1C (w0 + op * 2 ^ 32) none

/-- Decode the words fetched. -/
def decodeFetched (t : DecodeTable) (lane priv : Bool) (w : Nat) : Fetched :=
  match decodeThoyx (lookupIn t) lane priv w with
  | .ok i => .instr i
  | .error e => decodeFault (w % 2 ^ 32) e

/-- Fetch and decode one instruction: the first word gives the length, then the others are fetched (R68). -/
def fetchInstr (s : State) (x : Context) (t : DecodeTable) (lane : Bool) (addr : Nat) : Fetched :=
  match fetchWord s x addr with
  | .error e => e
  | .ok w0 =>
    if w0 % 4 = 0 ∨ w0 % 4 = 3 then decodeFetched t lane x.privileged w0
    else
      match fetchWord s x ((addr + 4) % 2 ^ 64) with
      | .error e => e
      | .ok w1 =>
        if w0 % 4 = 1 then decodeFetched t lane x.privileged (w0 + 2 ^ 32 * w1)
        else
          match fetchWord s x ((addr + 8) % 2 ^ 64) with
          | .error e => e
          | .ok w2 => decodeFetched t lane x.privileged (w0 + 2 ^ 32 * w1 + 2 ^ 64 * w2)

/-- The fetch address of an instance: the control PC, or the lane-section base plus the lane PC (R67, R68). -/
def fetchAddr (s : State) (a : Actor) (w : Wave) (l : Launch) : Nat :=
  match a with
  | .control _ => w.pc.toNat
  | _ => (l.e.lane + (standing s a).pc) % 2 ^ 64

def isLane : Actor → Bool
  | .path _ _ => true
  | .cont _ _ => true
  | _ => false

/-- The instance waits for a page that holds its next instruction: the word's address, and the entry at which its walk stopped. -/
def setFetchWait (s : State) (a : Actor) (e : Option (Nat × Nat)) : State :=
  match a with
  | .control wid => modWave s wid (fun w => { w with fetchWait := e })
  | .path wid k => modWave s wid (fun w => { w with paths := Tbl.modify w.paths k (fun p => { p with fetchWait := e }) })
  | .cont wid k => modWave s wid (fun w => { w with conts := Tbl.modify w.conts k (fun p => { p with fetchWait := e }) })
  | _ => s

end Sys2Proof.Machine
end

