-- ==== Sys2Proof/Machine/Paths.lean ====
section
/-! DEFINITION. The path-control instructions of spec/06_lane_memory_and_path_instructions.md with the path table, shunting and
rejoin of spec/10_waves_paths_and_issue.md (R172 to R178, R263 to R268, R460 to R462). -/

namespace Sys2Proof.Machine

/-! ## Trace records of an instance (R353) -/

/-- A trace event of an instance that stands at `st`. -/
def traceActor (s : State) (a : Actor) (st : Standing) (kind aux addr : Nat) (always : Bool) : State :=
  match getWave s (actorWave a) with
  | none => s
  | some w =>
    match launchOf s w with
    | none => s
    | some (_, l) =>
      traceEvent s l.ctx kind always (fun q =>
        traceNat s.timebase addr l.qentry (if st.stream then st.active else 0) st.pc aux q (actorWave a) st.path st.cont
          st.stream kind)

/-! ## Program counter and signature of the issuing instance -/

/-- Set the PC of the issuing instance and its signature. -/
def setPcSig (a : Actor) (pc : Nat) (sig : Word) (w : Wave) : Wave :=
  modInstance a (fun p => { p with pc := pc, sig := sig }) (fun k => { k with pc := pc, sig := sig }) w

def addrMod : Nat := 2 ^ 64

/-- PC + sext(offset, 64) (R172). -/
def vbTarget (L : LaneCtx) (f : VB) : Nat := (((L.pc : Int) + f.off.toInt) % (addrMod : Int)).toNat

/-! ## Splitting (R172, R266) -/

/-- The lowest free entry of a path table (R263). -/
def freeEntry (t : Tbl PathEntry) : Option Nat := (List.range 16).find? (fun e => (Tbl.find? t e).isNone)

/-- A new entry for the taken side (R172, R462). -/
def childPath (L : LaneCtx) (t : Mask) (target parent : Nat) : PathEntry :=
  { owned := t, split := t, active := launchMask L.shadow, pc := target, sig := sigReset, q12 := L.q12,
    q12Full := L.q12Full, parent := parent, state := .running, join := 0, held := [], faulted := false, fetchWait := none,
    syncs := syncsBefore L.w L.actor }

/-- Shunted lanes become continuations, ascending (R266). -/
def shuntLanes (L : LaneCtx) (parent pc : Nat) (sig : Word) : List Nat → Tbl Continuation → Tbl Continuation
  | [], t => t
  | l :: r, t =>
    shuntLanes L parent pc sig r
      (Tbl.put t l { lane := l, parent := parent, pc := pc, sig := sig, q12 := L.q12, q12Full := L.q12Full, active := true,
                     state := .running, held := [], faulted := false, fetchWait := none, uncounted := false,
                     syncs := syncsBefore L.w L.actor })

/-- P gives away some lanes. -/
def giveLanes (e : Nat) (m : Mask) (pc : Nat) (sig : Word) (join : Nat) (w : Wave) : Wave :=
  { w with paths := Tbl.modify w.paths e (fun p =>
      { p with owned := p.owned &&& ~~~m, pc := pc, sig := sig, join := p.join + join }) }

/-- Shunted lanes are events of the wave's lane pipe (R497). -/
def countShunts (s : State) (wid n : Nat) : State := countEvent s 3 (coreUnit 1 (coreOf wid) (slotOf wid / 8)) (dieOf wid) n

/-- A split: a new entry, or a shunt when the table is full. -/
def splitPath (s : State) (L : LaneCtx) (e : Nat) (t n : List Nat) (target next : Nat) (sig : Word) : State :=
  let tm : Mask := BitVec.ofNat 96 (maskOf t)
  let nm : Mask := BitVec.ofNat 96 (maskOf n)
  let st := standing s L.actor
  match freeEntry L.w.paths with
  | some k =>
    let w := giveLanes e tm next sig 0 L.w
    let w := { w with paths := Tbl.put w.paths k (childPath L tm target e), highWater := max w.highWater (w.paths.length + 1) }
    traceActor (setWave s L.wid w) L.actor st 3 k 0 false
  | none =>
    if t.length ≤ n.length then
      let w := giveLanes e tm next sig t.length L.w
      let w := { w with conts := shuntLanes L e target sigReset t w.conts, shunted := w.shunted + t.length }
      traceActor (countShunts (setWave s L.wid w) L.wid t.length) L.actor st 3 (0xF + t.length * 256) 0 false
    else
      let w := giveLanes e nm target sigReset n.length L.w
      let w := { w with conts := shuntLanes L e next sig n w.conts, shunted := w.shunted + n.length }
      traceActor (countShunts (setWave s L.wid w) L.wid n.length) L.actor st 3 (0xF + n.length * 256) 0 false

/-- The condition of a VB instruction holds in a lane (R172, R177). -/
def vbHolds (L : LaneCtx) (f : VB) (l : Nat) : Bool := condAt L.w f.c.toNat l != f.sense

def execBrv (f : VB) (s : State) : Out :=
  runLane s fun L => do
    shadowCheck L (fun l => [b2n (vbHolds L f l)])
    let t := L.lanes.filter (vbHolds L f)
    let n := L.lanes.filter (fun l => !(vbHolds L f l))
    let sig := foldSig L.sig (opNumber (.brv f))
    let next := L.pc + 8
    if t.isEmpty then .ok (setWave s L.wid (setPcSig L.actor next sig L.w))
    else if n.isEmpty then .ok (setWave s L.wid (setPcSig L.actor (vbTarget L f) sigReset L.w))
    else
      match L.actor with
      | .path _ e => .ok (splitPath s L e t n (vbTarget L f) next sig)
      | _ => waits

/-! ## Transfers (R173) -/

def execJmpv (f : VB) (s : State) : Out :=
  runLane s fun L => .ok (setWave s L.wid (setPcSig L.actor (vbTarget L f) sigReset L.w))

def execCallv (f : VB) (s : State) : Out :=
  runLane s fun L => do
    waitUnless L.q12Full
    .ok (setWave s L.wid (setPcSig L.actor (vbTarget L f) sigReset (writeQ L 12 (BitVec.ofNat 64 (L.pc + 8)) L.w)))

/-- RETV waits for q12; a target that is not a multiple of 4 raises 0x08 (R67, R173). -/
def execRetv (_f : VB) (s : State) : Out :=
  runLane s fun L => do
    waitUnless L.q12Full
    ensure (decide (L.q12.toNat % 4 = 0)) 0x08 (addrDetail L.q12.toNat false false)
    .ok (setWave s L.wid (setPcSig L.actor L.q12.toNat sigReset L.w))

/-! ## Rejoin (R174, R175, R264, R268) -/

def pathComplete (p : PathEntry) : Bool := p.owned == p.split && p.join == 0

/-- Where merges happen: at one REGANG, by its PC, or at any LEND of the block. -/
inductive Meet where
  | regang (pc : Nat)
  | lend
  deriving DecidableEq, Repr

def parkedAt (m : Meet) (st : PathState) (pc : Nat) : Bool :=
  match m, st with
  | .regang q, .atRegang _ => q == pc
  | .lend, .atLend => true
  | _, _ => false

def joinIdOf : PathState → Nat
  | .atRegang j => j
  | _ => 0

/-- A merge that is possible now: a complete child, or a continuation, with its parent, both parked at the meeting. -/
inductive Merge where
  | child (e parent jid : Nat) (lanes : Mask)
  | lane (l parent jid : Nat)
  deriving DecidableEq, Repr

def mergeParent : Merge → Nat
  | .child _ q _ _ => q
  | .lane _ q _ => q

def parentParked (m : Meet) (w : Wave) (q : Nat) : Bool :=
  match Tbl.find? w.paths q with | some p => parkedAt m p.state p.pc | none => false

def findMerge (m : Meet) (w : Wave) : Option Merge :=
  match List.find? (fun x : Nat × PathEntry => x.1 != 0 && parkedAt m x.2.state x.2.pc && pathComplete x.2 && parentParked m w x.2.parent) w.paths with
  | some (e, p) => some (.child e p.parent (joinIdOf p.state) p.owned)
  | none =>
    match List.find? (fun x : Nat × Continuation => parkedAt m x.2.state x.2.pc && parentParked m w x.2.parent) w.conts with
    | some (_, k) => some (.lane k.lane k.parent (joinIdOf k.state))
    | none => none

def mergeLanes : Merge → Mask
  | .child _ _ _ m => m
  | .lane l _ _ => laneBit l

/-- The check of R264: the merging lanes are disjoint from the parent's and lie within its split mask. -/
def mergeOk (w : Wave) (g : Merge) : Bool :=
  match Tbl.find? w.paths (mergeParent g) with
  | some p => p.owned &&& mergeLanes g == 0 && mergeLanes g &&& ~~~p.split == 0
  | none => false

/-- Perform a merge (R174, R268). -/
def doMerge (g : Merge) (w : Wave) : Wave :=
  match g with
  | .child e q _ m =>
    let qs := match Tbl.find? w.paths e with | some c => c.syncs | none => []
    { w with paths := Tbl.modify (Tbl.del w.paths e) q (fun p => { p with owned := p.owned ||| m, syncs := openSyncs w (p.syncs ++ qs) }) }
  | .lane l q _ =>
    let qs := match Tbl.find? w.conts l with | some k => k.syncs | none => []
    { w with conts := Tbl.del w.conts l
             paths := Tbl.modify w.paths q (fun p =>
               { p with owned := p.owned ||| laneBit l, join := p.join - 1, syncs := openSyncs w (p.syncs ++ qs) }) }

/-- The actor that merges, for its trace record. -/
def mergeActor (wid : Nat) : Merge → Actor
  | .child e _ _ _ => .path wid e
  | .lane l _ _ => .cont wid l

def mergeAux : Merge → Nat
  | .child e _ j _ => j + e * 256
  | .lane _ _ j => j + 0xF * 256

/-- Merge while a merge is possible; the parents that received one are collected. A merge whose check fails raises 0x14 in
the wave and stops the settling (R264). -/
def settleMerges (m : Meet) (wid : Nat) : Nat → State → List Nat → State × List Nat
  | 0, s, got => (s, got)
  | n + 1, s, got =>
    match getWave s wid with
    | none => (s, got)
    | some w =>
      match findMerge m w with
      | none => (s, got)
      | some g =>
        let a := mergeActor wid g
        let st := standing s a
        if mergeOk w g then
          settleMerges m wid n (traceActor (modWave s wid (doMerge g)) a st 4 (mergeAux g) 0 false) (mergeParent g :: got)
        else
          (takeFault s a st (unitFor s a 0x14) 0x14
            (2 ^ 127 + mergeParent g + (match g with | .child e _ _ _ => e | .lane _ _ _ => 0xF) * 16) none false, got)

/-- A parent completed by merges at a REGANG unparks, or does so when it is released (R174, R265). -/
def unpark (w : Wave) (q : Nat) : Wave :=
  { w with paths := Tbl.modify w.paths q (fun p =>
      if pathComplete p then
        (match p.state with
         | .atRegang _ => if p.held.isEmpty then { p with state := .running, pc := p.pc + 8 } else { p with unparkDue := true }
         | _ => p)
      else p) }

/-- The parents that received merges, each once. -/
def onceEach : List Nat → List Nat
  | [] => []
  | x :: r => if r.contains x then onceEach r else x :: onceEach r

/-- The block has ended: its root is parked at a LEND and complete (R175). -/
def blockOver (w : Wave) : Bool :=
  match Tbl.find? w.paths 0 with
  | some p => (match p.state with | .atLend => pathComplete p | _ => false)
  | none => false

/-- Free every entry; the lane queue's head leaves (R114, R175, R263). -/
def endBlock (s : State) (wid : Nat) : State :=
  let s := traceActor s (.path wid 0) (standing s (.path wid 0)) 2
    (match getWave s wid with | some w => q3Of w | none => 0) 0 false
  modWave s wid (fun w =>
    { w with paths := [], conts := [], blockRunning := false, laneQueue := w.laneQueue.drop 1,
             blockSyncs := syncsBefore w (.path wid 0) })

/-- Settle the paths and continuations that meet (R174, R175, R268). -/
def settle (m : Meet) (wid : Nat) (s : State) : State :=
  let r := settleMerges m wid 112 s []
  match m with
  | .regang _ => modWave r.1 wid (fun w => (onceEach r.2).foldl unpark w)
  | .lend =>
    match getWave r.1 wid with
    | some w => if blockOver w then endBlock r.1 wid else r.1
    | none => r.1

/-- Park the issuing instance; every owned lane becomes active again (R57). -/
def park (L : LaneCtx) (st : PathState) (sig : Word) (w : Wave) : Wave :=
  modInstance L.actor (fun p => { p with state := st, sig := sig, active := launchMask L.shadow })
    (fun k => { k with state := st, sig := sig, active := true }) w

/-- The issuing instance is the block's root and complete. -/
def rootComplete (L : LaneCtx) : Bool :=
  match L.actor with
  | .path _ 0 => (match Tbl.find? L.w.paths 0 with | some p => pathComplete p | none => false)
  | _ => false

def execRegang (f : VB) (s : State) : Out :=
  runLane s fun L =>
    let sig := foldSig (foldSig L.sig (opNumber (.regang f))) (0x8000 + f.jid.toNat)
    if rootComplete L then
      .ok (setWave s L.wid (modInstance L.actor (fun p => { p with pc := L.pc + 8, sig := sig, active := launchMask L.shadow })
        (fun k => k) L.w))
    else
      .ok (settle (.regang L.pc) L.wid (setWave s L.wid (park L (.atRegang f.jid.toNat) sig L.w)))

def execLend (f : VB) (s : State) : Out :=
  runLane s fun L =>
    .ok (settle .lend L.wid (setWave s L.wid (park L .atLend (foldSig L.sig (opNumber (.lend f))) L.w)))

/-! ## Signatures, traps, no-operation (R176 to R178) -/

/-- SIGV: the comparison resets the register, also where it fails (R176). -/
def execSigv (f : V3) (s : State) : Out :=
  runLane s fun L =>
    let lit := (f.lit.getD 0).toNat
    if L.sig.toNat = lit then .ok (setWave s L.wid (setPcSig L.actor (L.pc + byteLength (.sigv f)) sigReset L.w))
    else .ok (raiseFault (setWave s L.wid (setPcSig L.actor L.pc sigReset L.w)) L.actor 0x14 (lit + L.sig.toNat * 2 ^ 32) none none)

/-- Take a trap or breakpoint: the record names this instruction, and the instance is held behind it (R334). -/
def trapLane (i : Instr) (s : State) (L : LaneCtx) (code detail : Nat) (mask : Option Nat) : State :=
  takeFault (setWave s L.wid (finishLane i L.actor L.w)) L.actor (standing s L.actor) (actorUnit s L.actor) code detail mask false

def execTrapv (f : VB) (s : State) : Out :=
  runLane s fun L => do
    shadowCheck L (fun l => [b2n (vbHolds L f l)])
    match L.lanes.filter (vbHolds L f) with
    | [] => .ok (setWave s L.wid (finishLane (.trapv f) L.actor L.w))
    | t => .ok (trapLane (.trapv f) s L 0x1A (f.off.toNat / 4) (some (maskOf t)))

def execBrkv (f : VB) (s : State) : Out :=
  runLane s fun L => .ok (trapLane (.brkv f) s L 0x1B (f.off.toNat / 4 * 2 ^ 64) none)

def execNopv (f : V3) (s : State) : Out :=
  runLane s fun L => .ok (setWave s L.wid (finishLane (.nopv f) L.actor L.w))

end Sys2Proof.Machine
end

