-- ==== Sys2Proof/Machine/Tiles.lean ====
section
/-! DEFINITION. The lane tile instructions VLDT, VSTT and VSTE (R165 to R169, R195, R196, R198). -/

namespace Sys2Proof.Machine

/-! ## Coordinates (R166) -/

/-- The first element index of a lane. -/
def firstIndex (r : TileReq) (lane : Nat) : Nat := if r.mode = 2 then r.base + packedCount r.t * lane else r.base + lane

/-- A tile lies within the tensor. -/
def tileInside (t : Tensor) (tr tc : Nat) : Bool := decide (tr < tileRowCount t) && decide (tc < tileColCount t)

/-- What is wrong with a lane's coordinates, if anything: the offending quantity. -/
def coordBad (r : TileReq) (l : LaneAcc) : Option Nat :=
  if tileRowCount r.t ≤ reqRow l then some (reqRow l)
  else if tileColCount r.t ≤ reqCol l then some (reqCol l)
  else if tileElems r.t ≤ firstIndex r l.lane then some (firstIndex r l.lane)
  else none

def coordsOk (r : TileReq) : Res Unit :=
  match r.lanes.filter (fun l => (coordBad r l).isSome) with
  | [] => .ok ()
  | l :: ls => raisesMask 0x12 (rangeDetail ((coordBad r l).getD 0) r.tid) (maskOf (l.lane :: ls.map (fun x => x.lane)))

/-- The element indices of a lane that lie within the tile (R166). -/
def laneIndices (r : TileReq) (lane : Nat) : List Nat :=
  if r.mode = 2 then
    ((List.range (packedCount r.t)).map (fun j => firstIndex r lane + j)).filter (fun i => decide (i < tileElems r.t))
  else [firstIndex r lane]

/-- Row and column in the tensor of an element of a lane's tile. -/
def elemPos (r : TileReq) (l : LaneAcc) (i : Nat) : Nat × Nat :=
  (reqRow l * r.t.trows + i / r.t.tcols, reqCol l * r.t.tcols + i % r.t.tcols)

/-! ## Loads (R167) -/

/-- The result of a tile access: its lanes with their values and the SATF bits, a page that is not present, or a stop. -/
inductive TileOut where
  | done (lanes : List LaneAcc) (flags : BitVec 4)
  | absent (addr entry mask : Nat)
  | stop (e : Stop)
  deriving DecidableEq, Repr

/-- The value a mode delivers from codes and scales already read. -/
def modeValue (r : TileReq) (cs : List Nat) (scale : Nat) : Nat × BitVec 4 :=
  match r.mode with
  | 0 => elementValue r.t r.palette (cs.headD 0) scale
  | 1 => (cs.headD 0, 0)
  | 2 => (packCodes (fmtBits r.t.fmt) cs, 0)
  | _ => (scale, 0)

/-- The value of a lane from a tile fetched whole. -/
def valueFrom (r : TileReq) (l : LaneAcc) (d : TileData) : Nat × BitVec 4 :=
  if d.zero then (0, 0)
  else
    let at_ := fun i => (i / r.t.tcols, i % r.t.tcols)
    let i := firstIndex r l.lane
    modeValue r ((laneIndices r l.lane).map (fun i => d.codes.getD (codeIndex r.t (at_ i).1 (at_ i).2) 0))
      (if r.t.blockLen = 0 then 0 else tileScale r.t d (at_ i).1 (at_ i).2)

/-- The value of a lane of a kind 0 or 1 tensor. -/
def plainLane (s : State) (w : Wave) (wid : Nat) (x : Context) (r : TileReq) (l : LaneAcc) : Except TileStop (Nat × BitVec 4) :=
  let pos := fun i => elemPos r l i
  let needScale := decide (r.t.blockLen ≠ 0) && (r.mode == 0 || r.mode == 3)
  let codes := if r.mode = 3 then (.ok [] : Ranged (List Nat)) else collect (fun i => readElem s w wid x r.t (pos i).1 (pos i).2) (laneIndices r l.lane)
  match codes with
  | .error e => .error (.range e)
  | .ok cs =>
    match (if needScale then readScale s w wid x r.t (pos (firstIndex r l.lane)).1 (pos (firstIndex r l.lane)).2 else .ok 0) with
    | .error e => .error (.range e)
    | .ok sc => .ok (modeValue r cs sc)

/-- Every lane's value, or why there is none. -/
def laneValues (s : State) (w : Wave) (wid : Nat) (x : Context) (r : TileReq) :
    List (LaneAcc × Except TileStop (Nat × BitVec 4)) :=
  if denupKind r.t.kind then
    let ts := (distinctTiles r.lanes []).map (fun p => (p, fetchStream s w wid x r.t r.ct p.1 p.2))
    r.lanes.map (fun l =>
      (l, match ts.find? (fun t => t.1 == (reqRow l, reqCol l)) with
          | some (_, .ok d) => .ok (valueFrom r l d)
          | some (_, .error e) => .error e
          | none => .error (.range .wait)))
  else r.lanes.map (fun l => (l, plainLane s w wid x r l))

/-- Order in which the stops of lanes decide (R154, R167): aperture, permission, page, waiting, decode fault. -/
def stopRank : TileStop → Nat
  | .range (.outside _) => 0
  | .range (.denied _) => 1
  | .range (.absent _ _) => 2
  | .range (.remote _ _) => 3
  | .range .wait => 4
  | .range (.peers _) => 4
  | .decode _ => 5
  | .range (.poisoned _ _) => 6

/-- Lanes that stop at rank `k`. -/
def ranked (k : Nat) (vs : List (LaneAcc × Except TileStop (Nat × BitVec 4))) : List (LaneAcc × TileStop) :=
  vs.filterMap (fun v => match v.2 with | .error e => if stopRank e = k then some (v.1, e) else none | .ok _ => none)

def firstRanked (vs : List (LaneAcc × Except TileStop (Nat × BitVec 4))) : Nat → Nat → Option (LaneAcc × TileStop × Nat)
  | 0, _ => none
  | n + 1, k =>
    match ranked k vs with
    | [] => firstRanked vs n (k + 1)
    | (l, e) :: r => some (l, e, maskOf (l.lane :: r.map (fun x => x.1.lane)))

/-- The stop of the first lane that has one, poison apart, with the lanes that stop for the same reason: a stream tensor's tiles are taken
in the order of the lowest lane that names each (R167, R193). -/
def firstStop (vs : List (LaneAcc × Except TileStop (Nat × BitVec 4))) : Option (LaneAcc × TileStop × Nat) :=
  match vs.filterMap (fun v => match v.2 with | .error e => if stopRank e = 6 then none else some (v.1, e) | .ok _ => none) with
  | [] => none
  | (l, e) :: _ => some (l, e, maskOf ((ranked (stopRank e) vs).map (fun x => x.1.lane)))

/-- Elements of 16 or 32 bits lie at multiples of their size (R154). -/
def misalignedLanes (r : TileReq) : List (Nat × Nat) :=
  if denupKind r.t.kind ∨ r.mode = 3 ∨ elemBytes r.t = 1 then []
  else (r.lanes.map (fun l => (l.lane, (elemAt r.t (elemPos r l (firstIndex r l.lane)).1 (elemPos r l (firstIndex r l.lane)).2).1))).filter
    (fun p => decide (p.2 % elemBytes r.t ≠ 0))

/-- The bytes that a lane of a kind 0 or 1 tensor names: address and length; and the address of its scale, 0 for none. -/
def laneSpan (r : TileReq) (l : LaneAcc) : Nat × Nat × Nat :=
  let ps := (laneIndices r l.lane).map (fun i => (elemAt r.t (elemPos r l i).1 (elemPos r l i).2).1)
  let lo := ps.headD 0
  let p := elemPos r l (firstIndex r l.lane)
  (if r.mode = 3 then 0 else lo, if r.mode = 3 then 0 else ps.foldl max lo + elemBytes r.t - lo,
   if r.t.blockLen ≠ 0 ∧ (r.mode = 0 ∨ r.mode = 3) then scaleAt r.t p.1 p.2 else 0)

/-- A lane with its value, or marked poisoned (R156). A lane that has its value names the bytes it came from: `addr` and, in
`data`, how many, and its scale in `cmp`; a lane of a kind 5 tensor names its block-index entry in aperture 255 and the tensor's
base in `cmp`, and one of a kind 2 tensor nothing. -/
def deliveredLane (r : TileReq) (v : LaneAcc × Except TileStop (Nat × BitVec 4)) : LaneAcc :=
  match v.2 with
  | .ok (x, _) =>
    let p := if r.t.kind = 5 then (255 * 2 ^ 56 + indexEntryAt r.t (reqRow v.1) (reqCol v.1) % 2 ^ 56, 8, r.t.base)
      else if r.t.kind = 2 then (254 * 2 ^ 56, 0, 0) else laneSpan r v.1
    { v.1 with ready := some x, addr := p.1, data := p.2.1, cmp := p.2.2 }
  | .error (.range (.poisoned a _)) => { v.1 with ready := some 0, bad := true, addr := a }
  | .error _ => v.1

/-- A tile load: checks, fetch, values. -/
def tileLoad (s : State) (w : Wave) (wid : Nat) (x : Context) (r : TileReq) : TileOut :=
  let vs := laneValues s w wid x r
  let write := r.op != .load
  match (if denupKind r.t.kind then none else firstRanked vs 1 0) with
  | some (_, .range (.outside a), m) => .stop (.fault 0x09 (addrDetail a write false) (some m) none)
  | _ =>
    match failLanes 0x08 write none false (misalignedLanes r) with
    | .error e => .stop e
    | .ok _ =>
      match (if denupKind r.t.kind then firstStop vs else firstRanked vs 5 1) with
      | some (_, .range (.absent a e), m) => .absent a e m
      | some (l, .decode f, _) => .stop (.fault 0x0D (decodeDetail f r.tid (reqRow l) (reqCol l) 0) none none)
      | some (_, .range e, m) => .stop (rangeStop e (some m))
      | none =>
        .done (vs.map (deliveredLane r))
          (vs.foldl (fun f v => match v.2 with | .ok (_, g) => f ||| g | .error _ => f) 0)

/-! ## Stores (R168) -/

/-- One element written: lane, address, data, and the mask of its bits where it is narrower than a byte. -/
structure ElemStore where
  lane : Nat
  addr : Nat
  bytes : Nat
  data : Nat
  mask : Option Nat
  deriving DecidableEq, Repr

/-- The elements a lane writes, with the SATF bits of narrowing. -/
def laneElems (r : TileReq) (l : LaneAcc) : List ElemStore × BitVec 4 :=
  let bits := fmtBits r.t.fmt
  let v := if r.mode = 0 then narrowValue r.t r.palette l.data else (l.data, 0)
  (((laneIndices r l.lane).zipIdx).map (fun p =>
    let pos := elemPos r l p.1
    let a := elemAt r.t pos.1 pos.2
    let code := v.1 / 2 ^ (bits * p.2) % 2 ^ bits
    { lane := l.lane, addr := a.1, bytes := elemBytes r.t, data := code * 2 ^ a.2,
      mask := if bits < 8 then some ((2 ^ bits - 1) * 2 ^ a.2) else none }), v.2)

/-- Buffer the elements, in order (R161). -/
def bufferElems (w : Wave) (a : Access) : Nat → List (ElemStore × Place) → Wave
  | _, [] => w
  | seq, (e, p) :: r =>
    let bs := bytesOfNat e.bytes e.data
    let w := markWrite e.addr e.bytes w
    let w := match e.mask with
      | some m => bufferOne w a (some .insert) seq p (placeScope p a.scope) bs e.data m (e.lane, e.addr)
      | none => bufferOne w a none seq p (placeScope p a.scope) bs e.data 0 (e.lane, e.addr)
    bufferElems w a (seq + 1) r

/-! ## The encoder (R169, R195, R196, R198) -/

def openTileOf (t : Team) (r : TileReq) (row col : Nat) : Option OpenTile :=
  t.openTiles.find? (fun o => o.tid == r.tid && o.row == row && o.col == col && o.t.addr == r.t.addr)

/-- Blocks of a tile. -/
def blockCount (t : Tensor) : Nat := tileN t * (tileK t / 16)

/-- The groups of 16 lanes, ascending. -/
def groupsOf16 : Nat → List LaneAcc → List (List LaneAcc)
  | 0, _ => []
  | n + 1, ls => if ls.isEmpty then [] else ls.take 16 :: groupsOf16 n (ls.drop 16)

/-- The conditions of R169 that raise 0x12. The record names the active count, the block number, or the tile row (log entry 71). -/
def stageCheck (r : TileReq) (team : Team) (entry : Nat) : Res Unit :=
  let n := r.lanes.length
  let row := match r.lanes with | l :: _ => reqRow l | [] => 0
  let col := match r.lanes with | l :: _ => reqCol l | [] => 0
  let staged := match openTileOf team r row col with | some o => o.blocks | none => []
  let bad := (List.range (n / 16)).find? (fun g => decide (blockCount r.t ≤ r.base + g) || (Tbl.find? staged (r.base + g)).isSome)
  if n = 0 ∨ n % 16 ≠ 0 then raises 0x12 (rangeDetail n r.tid)
  else
    match bad with
    | some g => raises 0x12 (rangeDetail (r.base + g) r.tid)
    | none =>
      if entryClass entry ≠ .invalid then raises 0x12 (rangeDetail row r.tid)
      else if (openTileOf team r row col).isNone && decide (4 ≤ team.openTiles.length) then raises 0x12 (rangeDetail row r.tid)
      else .ok ()

/-- Put staged blocks into an open tile; the tile is complete when every block is there. -/
def addBlocks (r : TileReq) (uid pc : Nat) (row col : Nat) (bs : List (Nat × StagedBlock)) (os : List OpenTile) : List OpenTile :=
  let put := fun o : OpenTile =>
    let blocks := bs.foldl (fun t b => Tbl.put t b.1 b.2) o.blocks
    { o with blocks := blocks
             pc := pc
             complete := if blocks.length = blockCount r.t then some uid else none
             ct := if r.t.codeTable = 0xFF then none else some r.ct }
  if os.any (fun o => o.tid == r.tid && o.row == row && o.col == col && o.t.addr == r.t.addr) then
    os.map (fun o => if o.tid = r.tid ∧ o.row = row ∧ o.col = col ∧ o.t.addr = r.t.addr then put o else o)
  else os ++ [put { tid := r.tid, t := r.t, row := row, col := col, blocks := [], complete := none, ct := none }]

/-- Stage the blocks of an issue (R169, R196); the completing wave's count rises when the tile is complete (R199). -/
def stageIssue (s : State) (wid : Nat) (w : Wave) (pc : Nat) (r : TileReq) : State :=
  let row := match r.lanes with | l :: _ => reqRow l | [] => 0
  let col := match r.lanes with | l :: _ => reqCol l | [] => 0
  let bs := ((groupsOf16 6 r.lanes).zipIdx).map (fun g =>
    (r.base + g.2, stageBlock r.palette r.t.scaleBase (g.1.map (fun l => l.data))))
  let flags := bs.foldl (fun f b => f ||| b.2.2) 0
  let s := modTeam s w.team (fun t => { t with openTiles := addBlocks r w.uid pc row col (bs.map (fun b => (b.1, b.2.1))) t.openTiles })
  let done := match getTeam s w.team with
    | some t => (match openTileOf t r row col with | some o => o.complete == some w.uid | none => false)
    | none => false
  modWave s wid (fun w => { setFlags flags w with encoderPending := w.encoderPending + b2n done })

/-- The block-index entry of the tile that a staging issue names. -/
def stageEntry (s : State) (w : Wave) (wid : Nat) (x : Context) (r : TileReq) : Ranged Nat :=
  match r.lanes with
  | [] => .ok 0
  | l :: _ =>
    match readStream s w wid x r.t (indexEntryAt r.t (reqRow l) (reqCol l)) 8 with
    | .error e => .error e
    | .ok bs => .ok (natOfBytes bs)

/-! ## Issue -/

/-- The tensor checks of an entry: 0x11 unless it is valid and suits the access (R167 to R169, R195, R207). -/
def tensorSuits (op : TileOp) (mode : Nat) (t : Tensor) : Bool :=
  match op with
  | .load => (t.kind == 0 || t.kind == 1 || denupKind t.kind) && (mode != 2 || codedFmt t.fmt) && (mode != 3 || t.blockLen != 0)
  | .store => (t.kind == 0 || t.kind == 1) && t.blockLen == 0 && (mode != 2 || codedFmt t.fmt)
  | .encode => t.kind == 5 && t.fmt == 3 && t.palette != 0xFF && t.blockLen == 16

def bitOfTid (f : VT) : Nat := if f.w then 56 else 42

/-- The tensor an issue names: a number above 63 is not valid (R62, R83); a pending install is waited for (R206). -/
def namedTensor (s : State) (L : LaneCtx) (i : Instr) (f : VT) (op : TileOp) (v mask : Nat) : Res Tensor := do
  if v < 64 then .ok () else .error (.fault 0x04 (detail04 L.w i (bitOfTid f) true (if f.w then v else 0)) (some mask) none)
  waitUnless (!(installPending L.w v))
  match tensorOf s L.w v with
  | none => .error (.fault 0x11 (tensorDetail v 0) (some mask) none)
  | some t =>
    if tensorSuits op f.mode.toNat t then .ok () else .error (.fault 0x11 (tensorDetail v 0) (some mask) none)
    waitUnless (!(installPending L.w (72 + t.palette)) && !(installPending L.w (64 + t.codeTable)))
    .ok t

/-- The request of an issue over some lanes. -/
def tileReq (s : State) (L : LaneCtx) (f : VT) (op : TileOp) (tid : Nat) (t : Tensor) (ls : List Nat) : TileReq :=
  { op := op, mode := f.mode.toNat, base := f.base.toNat, hint := f.hint.toNat, tid := tid, t := t,
    palette := paletteOf s L.w t.palette, ct := codeTableAt s L.w t.codeTable,
    lanes := ls.map (laneAcc L f.d (fun l => rowOf L f l * 2 ^ 32 + colOf L f l)
      (fun l => (srcWord L none ⟨f.d, f.ed, 0⟩ l).toNat) (fun _ => 0))
    after := syncsBefore L.w L.actor }

/-- The access of a tile request. -/
def tileAccess (a : Actor) (pc block path seq : Nat) (r : TileReq) (lanes : List LaneAcc) : Access :=
  { kind := if r.op = .load then .load false else .store, actor := a, pc := pc, block := block, seq := seq, width := 4,
    dest := .vregs, scope := 4, order := 0, hint := r.hint, lanes := lanes, after := r.after, path := path }

/-- An earlier atomic or element narrower than a byte of the wave, or a returning atomic in flight, acts on bytes of the request and has
yet to act (R163, R304). -/
def tilePending (s : State) (w : Wave) (r : TileReq) : Bool :=
  let meets := fun a n => (reqRegions r).any (locationsMeet s w (regionAt a n true))
  w.stores.any (fun b => b.rmw.isSome && b.perf == 0 && meets b.va b.bytes.length)
    || w.loads.any (fun a => (match a.kind with | .atomic _ => true | _ => false) && a.lanes.any (fun l => meets l.addr a.width))

/-- A request that reads memory at its issue may act: the acquires before it have acted, and so have the atomics to its bytes. -/
def tileReady (s : State) (w : Wave) (r : TileReq) : Bool := acquired w r.after && !(tilePending s w r)

/-- What a request does once its pages are there: loads enter with their values, stores are buffered, blocks are staged. -/
def tileApply (s : State) (wid : Nat) (w : Wave) (x : Context) (a : Actor) (pc block path seq : Nat) (r : TileReq) : Except TileOut State :=
  match r.op with
  | .load =>
    if !(tileReady s w r) then .error (.stop .wait)
    else
      (match tileLoad s w wid x r with
       | .done [] _ => .ok (setWave s wid w)
       | .done ls fl => .ok (setWave s wid { w with loads := w.loads ++ [{ tileAccess a pc block path seq r ls with flags := fl }] })
       | o => .error o)
  | .store =>
    let es := r.lanes.map (laneElems r)
    let ps := es.flatMap (fun e => e.1)
    (match reachLanes s wid w .write (elemBytes r.t) (ps.map (fun e => (e.lane, e.addr))) with
     | .error e => .error (.stop e)
     | .ok (.absent e addr m) => .error (.absent addr e m)
     | .ok (.at qs) =>
       .ok (setWave s wid (setFlags (es.foldl (fun f e => f ||| e.2) 0)
         (bufferElems w (tileAccess a pc block path seq r []) seq (ps.zip (qs.map (fun q => q.2)))))))
  | .encode =>
    if !(tileReady s w r) then .error (.stop .wait)
    else match stageEntry s w wid x r with
    | .error (.absent addr e) => .error (.absent addr e (maskOf (r.lanes.map (fun l => l.lane))))
    | .error e => .error (.stop (rangeStop e none))
    | .ok entry =>
      match getTeam s w.team with
      | none => .error (.stop .wait)
      | some t =>
        match stageCheck r t entry with
        | .error e => .error (.stop e)
        | .ok _ => .ok (stageIssue s wid w pc r)

/-- The coordinate checks of a tile instruction (R166, R169): of VSTE's one tile, its row if that lies outside, else its column. -/
def tileCoords (op : TileOp) (r : TileReq) : Res Unit :=
  match op, r.lanes with
  | .encode, [] => .ok ()
  | .encode, l :: _ =>
    if tileInside r.t (reqRow l) (reqCol l) then .ok ()
    else raises 0x12 (rangeDetail (if tileRowCount r.t ≤ reqRow l then reqRow l else reqCol l) r.tid)
  | _, _ => coordsOk r

/-- The source fields of a VT instruction but the one that names the tensor, and its destination. -/
def vtSrcs (f : VT) (op : TileOp) : List Src := accSrcs f (op == .load)
def vtDsts (f : VT) (op : TileOp) : List Operand := accDsts f (op == .load)

/-- One issue of a tile instruction over some lanes, from its tensor number. The coordinates are checked before the element base of a
PACKED store, and in shadow mode the copies are compared before both (log entry 71). -/
def tileIssue (i : Instr) (f : VT) (op : TileOp) (L : LaneCtx) (v : Nat) (ls : List Nat) (s : State) : Res State := do
  let M := L.over s ls
  let w := M.w
  issueGates M ls (vtSrcs f op) (vtDsts f op)
  memReady w
  if op = .load then .ok () else shadowCheck M (fun l => [rowOf M f l, colOf M f l, (srcWord M none ⟨f.d, f.ed, 0⟩ l).toNat])
  let t ← namedTensor s M i f op v (maskOf ls)
  let r := tileReq s M f op v t ls
  tileCoords op r
  if op = .store ∧ f.mode.toNat = 2 then ensure (decide (f.base.toNat % packedCount t = 0)) 0x12 (rangeDetail f.base.toNat v) else .ok ()
  waitUnless (w.log.all (fun e => (logRegions e.body).all (fun a => (reqRegions r).all (fun b => !(locationsMeet s w a b)))))
  let x ← ctxRes s w
  let mark := fun w' : Wave => if op = .load then emptyLanesOf f.d 1 w M.all w' else w'
  match tileApply s L.wid w x.2 L.actor L.pc (q3Of w % 2 ^ 32) L.entry w.seq r with
  | .ok t => .ok (modWave t L.wid (fun w => mark (nextSeq w)))
  | .error (.stop e) => .error e
  | .error (.done _ _) => waits
  | .error (.absent addr e m) =>
    let t := setWave s L.wid (mark (nextSeq (logEntry (.tile r) L.actor { standing s L.actor with active := maskOf ls } addr e w)))
    .ok (pageFault t L.actor (standing s L.actor) addr (op != .load) (some m))

/-- VLDT, VSTT and VSTE in the plain and the `.W` form (R61, R62, R83). In shadow mode the copies' tensor numbers are part of their
addresses (R164). -/
def tileInstr (i : Instr) (f : VT) (op : TileOp) (s : State) : Out :=
  runLane s fun L => do
    let field : Src := if f.w then ⟨.v f.wreg, f.ew, 0⟩ else ⟨uniformSrc f.tq f.tid.toNat, false, 0⟩
    allocCheck L (vtDsts f op ++ (vtSrcs f op ++ [field]).map (fun x => x.o))
    if f.w then
      let gs ← waterGroups L field (fun l => (vVal L.w f.wreg.toNat l).toNat)
      if op = .load ∨ L.rest ≠ [] then .ok () else shadowCheck L (fun l => [(vVal L.w f.wreg.toNat l).toNat])
      waterRun i L (tileIssue i f op L) gs s
    else
      issueGates L L.lanes (vtSrcs f op ++ [field]) (vtDsts f op)
      let t ← tileIssue i f op L (uniformVal L f.tq f.tid.toNat) L.lanes s
      .ok (modWave t L.wid (finishLane i L.actor))

def execVldt (f : VT) (s : State) : Out := tileInstr (.vldt f) f .load s

def execVstt (f : VT) (s : State) : Out := tileInstr (.vstt f) f .store s

def execVste (f : VT) (s : State) : Out := tileInstr (.vste f) f .encode s

end Sys2Proof.Machine
end

