-- ==== Sys2Proof/Machine/Loads.lean ====
section
/-! DEFINITION. The return of load and atomic data, the performing of buffered stores, and the start of a lane block (R44, R50,
R53, R107, R114, R116, R156, R163, R164, R290, R304, R310, R315, R411, R412, R415 to R417). -/

namespace Sys2Proof.Machine

/-! ## Pieces of an access -/

/-- Two places lie in one line, so that one request serves both (R299). -/
def sameRequest : Place → Place → Bool
  | .glob a _, .glob b _ => a / 128 == b / 128
  | .spad t a, .spad u b => t == u && a / 128 == b / 128
  | .stack w l a, .stack v k b => w == v && l == k && a / 128 == b / 128
  | .remote p a, .remote q b => p == q && a / 128 == b / 128
  | _, _ => false

/-- A request to memory (R299): the first place of its line, the sectors that its accesses need, the WAVEID, and how many sectors. -/
structure Request where
  line : Place
  sectors : BitVec 4
  wave : Nat
  count : Nat
  deriving DecidableEq, Repr

/-- The offset of a place in its storage. -/
def placeOffset : Place → Nat
  | .glob a _ => a
  | .spad _ a => a
  | .stack _ _ a => a
  | .remote _ a => a

/-- The request of a wave that serves `n` bytes within one line. -/
def pieceRequest (wid : Nat) (p : Place) (n : Nat) : Request :=
  let m := touchedSectors (placeOffset p % 128) (placeOffset p % 128 + n)
  { line := p, sectors := m, wave := wid, count := (bitsSet m.toNat 4).length }

/-- Two requests of one instruction to one line are one; accesses that need the same sector share it. -/
def joinRequest (r q : Request) : Request :=
  let m := r.sectors ||| q.sectors
  { r with sectors := m, count := (bitsSet m.toNat 4).length }

/-- The requests of one instruction of one path, one continuation or one issue, given what its lanes access (R299). An engine's pieces
form theirs in the same way. -/
def requestsOf (wid : Nat) : List (Place × Nat) → List Request
  | [] => []
  | (p, n) :: r =>
    let rs := requestsOf wid r
    let q := pieceRequest wid p n
    if rs.any (fun x => sameRequest x.line p) then rs.map (fun x => if sameRequest x.line p then joinRequest x q else x) else q :: rs

/-- The first piece of each lane: the pieces of a lane are accessed in ascending address order (R158). -/
def firstPieces : List LaneAcc → List LaneAcc
  | [] => []
  | l :: r => l :: (firstPieces r).filter (fun k => k.lane != l.lane)

/-- The chosen pieces share a request with others that could be chosen. -/
def splitsRequest (wid width : Nat) (first now : List LaneAcc) : Bool :=
  (requestsOf wid (first.map (fun l => (l.place, width)))).any (fun r =>
    now.any (fun k => sameRequest r.line k.place)
      && first.any (fun l => sameRequest r.line l.place && !(now.any (fun k => k.lane == l.lane))))

/-- Where the instance that issued an access stood. -/
def standingAt (s : State) (actor : Actor) (pc block path mask : Nat) : Standing :=
  { standing s actor with pc := pc, block := if isLaneActor actor then block else 0, path := path, active := mask }

/-- The access with this issue number. -/
def setAccess (seq : Nat) (f : Access → Option Access) (w : Wave) : Wave :=
  { w with loads := w.loads.filterMap (fun a => if a.seq = seq then f a else some a) }

/-- Change the lanes of an access; an access with no lane left has completed. -/
def setAccLanes (seq : Nat) (f : LaneAcc → Option LaneAcc) (w : Wave) : Wave :=
  setAccess seq (fun a =>
    let ls := a.lanes.filterMap f
    if ls.isEmpty then none else some { a with lanes := ls }) w

/-- The acquires before an access in wave order have acted, and before one that acquires the releases too (R306, R309); and
earlier accesses of the wave to the location let this one act: a store that is only buffered is forwarded, a
read-modify-write must be performed, and one to a peer must be on its way (R108, R163, R412). `atomic`: every one must be
performed. -/
def laneClear (w : Wave) (a : Access) (atomic : Bool) (l : LaneAcc) : Bool :=
  acquired w a.after && (!(isAcq a.order) || released w a.after) && w.loads.all (fun b => decide (a.seq ≤ b.seq) || !(accMeets b l.place a.width)) &&
  w.stores.all (fun b => decide (a.seq ≤ b.seq) || !(storeMeets b l.place a.width) ||
    (match l.place with
     | .remote _ _ => b.sent.isSome
     | _ => decide (4 ≤ b.perf) || (!atomic && b.rmw.isNone)))

/-! ## Delivery -/

/-- The number a load delivers to its destination (R106, R158). -/
def loadValue (a : Access) (v : Nat) : Nat :=
  let bits := match a.dest with | .sreg _ => 64 | _ => if a.width ≤ 4 then 32 else 8 * a.width
  match a.kind with
  | .load true => (sextNat v (8 * a.width) % ((2 ^ bits : Nat) : Int)).toNat
  | _ => v % 2 ^ bits

/-- Words of a value. -/
def wordCount (a : Access) : Nat := if a.width ≤ 4 then 1 else a.width / 4

/-- Write a lane's value to its destination, and in shadow mode to the copy's too (R50, R164). -/
def deliverLane (a : Access) (shadow : Bool) (l : LaneAcc) (v : Nat) (w : Wave) : Wave :=
  match a.dest with
  | .none => w
  | .sreg n => writeS n (BitVec.ofNat 64 (loadValue a v)) w
  | .vregs =>
    (List.range (wordCount a)).foldl (fun w j =>
      let x : Word := BitVec.ofNat 32 (loadValue a v / 2 ^ (32 * j))
      let w := writeV (l.reg + j) l.lane x w
      if shadow then writeV (l.reg2 + j) (l.lane + 48) x w else w) w

/-- A lane has its value. -/
def laneDone (s : State) (wid : Nat) (a : Access) (l : LaneAcc) (v : Nat) : State :=
  modWave s wid (fun w => setAccLanes a.seq (fun k => if k.lane = l.lane ∧ k.addr = l.addr then none else some k) (deliverLane a (isShadow s w) l v w))

/-- A lane's data is poisoned: it keeps its destination empty. -/
def laneBad (s : State) (wid : Nat) (a : Access) (l : LaneAcc) (source : PoisonFrom) : State :=
  modWave s wid (setAccLanes a.seq (fun k =>
    if k.lane = l.lane ∧ k.addr = l.addr then some { k with bad := true, source := some (k.source.getD source) } else some k))

/-- When nothing but poisoned lanes is left, the fault names the lowest of them and all of them (R106, R156); when nothing is
left, the access completes: the flags of a tile load are set (R31), and an acquire takes effect (R306, R313). -/
def settleAccess (s : State) (wid : Nat) (a : Access) : State :=
  match getWave s wid with
  | none => s
  | some w =>
    match List.find? (fun b : Access => b.seq == a.seq) w.loads with
    | none =>
      let s := if a.flags = 0 then s else modWave s wid (setFlags a.flags)
      if isAcq a.order then acquireAt s wid a.scope else s
    | some b =>
      match b.lanes with
      | [] => s
      | l :: _ =>
        if b.lanes.all (fun k => k.bad) then
          let mask := maskOf (b.lanes.map (fun k => k.lane))
          let s := modWave s wid (setAccess a.seq (fun _ => none))
          let f := l.source.getD (poisonFrom s l.place a.width)
          let write := match a.kind with | .load _ => false | _ => true
          takeFault s a.actor (standingAt s a.actor a.pc a.block a.path mask) (f.unit.getD (unitFor s a.actor 0x17)) 0x17
            (poisonDetail l.addr write f.own) (some mask) false
        else s

/-! ## Loads -/

/-- Bytes of a place with the core's L1 copy beneath the stores that the wave sees (R290). -/
def readFromL1 (s : State) (wid seq : Nat) (w : Wave) (p : Place) (n : Nat) : Option (List Byte) :=
  match p with
  | .glob a _ =>
    (Tbl.find? (getCore s (coreOf wid)).l1 (a / 128)).map (fun line =>
      let st := sortTickets (visibleStores s wid) ++ ownStores w seq
      (List.range n).map (fun i => overlayByte p i (line.getD ((a + i) % 128) 0) st))
  | _ => none

/-- The sectors of an L1 that `n` bytes touch are found poisoned (R455, R457). -/
def l1Fails (k : Core) (a n : Nat) : Bool := heldPoisoned k.l1Poison k.l1Checks (a / 32) (sectorCount a n)

/-- An accumulator element of a team is found poisoned. -/
def accFails (t : Team) (key : Nat) : Bool := heldPoisoned t.accPoison t.accChecks (accSector key) 1

/-- Where the poison that a lane of a load meets comes from (R457). -/
def lanePoison (s : State) (wid : Nat) (w : Wave) (a : Access) (fromL1 : Bool) (l : LaneAcc) : PoisonFrom :=
  match a.accTile with
  | some _ => poisonHeld (match getTeam s w.team with | some t => Cells.get false t.accPoison (accSector l.addr) | none => false)
  | none =>
    match fromL1, l.place with
    | true, .glob p _ => poisonHeld (anySector (getCore s (coreOf wid)).l1Poison (p / 32) (sectorCount p a.width))
    | _, p => poisonFrom s p a.width

/-- The value of a lane of a load; `none` is poisoned data. -/
def loadLane (s : State) (wid : Nat) (w : Wave) (a : Access) (fromL1 : Bool) (l : LaneAcc) : Res (Option Nat) :=
  if l.bad then .ok none
  else
    match l.ready with
    | some v => .ok (some v)
    | none =>
      match a.accTile with
      | some _ =>
        (match getTeam s w.team with
         | some t => .ok (if accFails t l.addr then none else some (Cells.get 0 t.acc l.addr).toNat)
         | none => waits)
      | none => do
        waitUnless (laneClear w a false l)
        match l.place with
        | .remote q b =>
          (match heldCopy s q b with
           | some (_, true) => .ok none
           | some (bs, false) => .ok (some (natOfBytes ((bs.drop (b % 128)).take a.width)))
           | none => .error (.request q b))
        | p =>
          if fromL1 then
            (match readFromL1 s wid a.seq w p a.width with
             | some bs =>
               if a.scope ≤ 1 then
                 .ok (match p with
                      | .glob b _ => if l1Fails (getCore s (coreOf wid)) b a.width then none else some (natOfBytes bs)
                      | _ => some (natOfBytes bs))
               else waits
             | none => waits)
          else if placePoisoned s p a.width then .ok none
          else .ok (some (natOfBytes (readAs s wid a.seq p a.width)))

/-- A load served from L2 allocates the line there as its hint says, and refreshes the core's copy of it (R290, R292). -/
def refreshL1 (s : State) (wid : Nat) (a : Access) (l : LaneAcc) : State :=
  match l.place, getWave s wid with
  | .glob p cls, some w =>
    if a.accTile.isSome ∨ l.ready.isSome then s
    else
      let hint := pageHint s w l.addr a.hint
      let s := loadL2 s (clusterOf wid) (p / 128) hint cls (touchedSectors (p % 128) (p % 128 + a.width))
      if hint = 3 ∧ (Tbl.find? (getCore s (coreOf wid)).l1 (p / 128)).isNone then s
      else fillL1 s wid l.place
  | .remote q b, some w => if l.ready.isSome then s else touchCopy s q b (pageHint s w l.addr a.hint)
  | _, _ => s

/-- Ask a peer for a line on behalf of a load (R411, R412); a peer that is unreachable gives poisoned data (R416, R426). -/
def askLine (s : State) (wid : Nat) (w : Wave) (a : Access) (q b : Nat) : Out :=
  let mine := fun l : LaneAcc => match l.place with | .remote p c => p == q && c / 128 == b / 128 && l.ready.isNone | _ => false
  if s.fabric.unreachable.contains (q % 65536) then
    .next (settleAccess (modWave s wid (setAccLanes a.seq (fun l => some (if mine l then { l with bad := true } else l)))) wid a)
  else if a.lanes.any (fun l => mine l && l.asked) || !(lineFree s q b) then stall s
  else
    let s := sendPacket s (memDraft 1 q (jobOf s w) (b / 128 * 128) []) (.load w.uid a.seq)
    let hint := match a.lanes with | l :: _ => pageHint s w l.addr a.hint | [] => a.hint
    .next (modWave s wid (setAccess a.seq (fun a =>
      some { a with hint := hint, lanes := a.lanes.map (fun l => if mine l then { l with asked := true } else l) })))

/-- The values of the chosen lanes, or the first stop. -/
def loadLanes (s : State) (wid : Nat) (w : Wave) (a : Access) (fromL1 : Bool) : List LaneAcc → Res (List (LaneAcc × Option Nat))
  | [] => .ok []
  | l :: r => do
    let v ← loadLane s wid w a fromL1 l
    let vs ← loadLanes s wid w a fromL1 r
    .ok ((l, v) :: vs)

/-- The releases in whose release sequences the bytes that a wave reads lie (R307, R314). -/
def releasesUnder (s : State) (wid : Nat) (p : Place) (n : Nat) : List (Nat × Nat) :=
  (match p with
   | .glob a _ => (List.range ((a % 8 + n + 7) / 8)).flatMap (fun k => (Tbl.find? s.releases (a / 8 + k)).getD [])
   | _ => [])
    ++ s.waves.flatMap (fun o => if o.1 = wid then [] else
      (o.2.stores.filter (fun b => visibleTo s o.1 wid b && storeMeets b p n)).flatMap (fun b => releasePairs o.2.uid b.seq b.order b.bars))

/-- A wave has read what some releases wrote. -/
def noteReads (wid : Nat) (rs : List (Nat × Nat)) (s : State) : State :=
  if rs.isEmpty then s else modWave s wid (fun w => { w with readRels := rs.filter (fun r => !(w.readRels.contains r)) ++ w.readRels })

/-- Deliver the values of some lanes. -/
def deliverAll (wid : Nat) (a : Access) (src : LaneAcc → PoisonFrom) (s : State) (vs : List (LaneAcc × Option Nat)) : State :=
  let rs := vs.flatMap (fun p => if p.1.ready.isNone && a.accTile.isNone then releasesUnder s wid p.1.place a.width else [])
  settleAccess (vs.foldl (fun s p => match p.2 with | some v => laneDone s wid a p.1 v | none => laneBad s wid a p.1 (src p.1)) (noteReads wid rs s)) wid a

/-! ## Returning atomics (R107, R159, R160, R417, R421) -/

/-- The writes that a release carries, if the access is one or stands behind a fence, are performed (R306, R417). -/
def releasesReady (s : State) (wid : Nat) (w : Wave) (a : Access) : Bool :=
  (barsOf w a.order a.scope a.seq).all (fun c => releaseReady s wid w c.1 c.2)

/-- Stores of other waves that the atomic must follow are in memory. -/
def baseClear (s : State) (p : Place) (n : Nat) : Bool :=
  s.waves.all (fun x => x.2.stores.all (fun c => c.ticket == 0 || decide (4 ≤ c.perf) || !(storeMeets c p n)))

/-- The code of an atomic in a packet (R75, R406). -/
def atomicCode : AtomicOp → Nat
  | .swap => 0 | .add => 1 | .and => 2 | .or => 3 | .xor => 4 | .mins => 5 | .maxs => 6 | .minu => 7 | .maxu => 8 | .fadd => 9
  | .fmin => 10 | .fmax => 11 | .incw => 12 | .decw => 13 | .cas => 15 | .insert => 3

/-- Atomics of this package to a peer on a plane that are unacknowledged (R421). -/
def atomicsOut (s : State) (dest addr : Nat) : Nat :=
  (s.fabric.sent.filter (fun p => p.2.pkt.kind == 5 && p.2.pkt.dest == dest % 65536 && p.2.pkt.plane == planeOf s addr)).length

/-- Inject an atomic (R411, R417). -/
def sendAtomic (s : State) (w : Wave) (op : AtomicOp) (q addr width order opnd cmp : Nat) (ordered : Bool) (purpose : SentFor) : State :=
  sendPacket (dropCopy s q addr)
    { memDraft 5 q (jobOf s w) addr (atomicPayload (atomicCode op) width order opnd cmp) with ordered := ordered } purpose

/-- One lane of a returning atomic: performed here, sent to its home, or delivered from the home's answer. -/
def atomicLane (wid : Nat) (w : Wave) (a : Access) (op : AtomicOp) (s : State) (l : LaneAcc) : Res State :=
  if l.bad then .ok s
  else
    match l.ready with
    | some v => .ok (laneDone (modWave s wid (setFlags (atomicNew op (8 * a.width) v l.data l.cmp).2)) wid a l v)
    | none => do
      waitUnless (laneClear w a true l && releasesReady s wid w a)
      match l.place with
      | .remote q b =>
        if s.fabric.unreachable.contains (q % 65536) then .ok (laneBad s wid a l (poisonFrom s (.remote q b) a.width))
        else do
          waitUnless (!l.asked && lineFree s q b && decide (atomicsOut s q b < 1024))
          let ordered := (barsOf w a.order a.scope a.seq).any (fun c => decide (5 ≤ c.2))
          let t := sendAtomic s w op q b a.width a.order l.data l.cmp ordered (.rmw w.uid a.seq l.lane)
          .ok (modWave t wid (setAccLanes a.seq (fun k => some (if k.lane = l.lane then { k with asked := true } else k))))
      | p => do
        waitUnless (baseClear s p a.width)
        if peersHolding s p a.width then .error (.evict (placeLine p))
        else if placePoisoned s p a.width then .ok (laneBad s wid a l (poisonFrom s p a.width))
        else
          let r := atomicAt s wid p op a.width l.data l.cmp (pageHint s w l.addr a.hint)
          let rs := releasePairs w.uid a.seq a.order (barsOf w a.order a.scope a.seq)
          .ok (noteReads wid (releasesUnder s wid p a.width) (laneDone (beginReleases r.2 p rs) wid a l r.1))

/-- The chosen lanes in ascending order; those already sent to a peer wait for their answers. -/
def atomicLanes (wid : Nat) (w : Wave) (a : Access) (op : AtomicOp) : List LaneAcc → State → Res State
  | [], s => .ok s
  | l :: r, s => do
    let t ← atomicLane wid w a op s l
    atomicLanes wid w a op r t

/-! ## Performing a store -/

/-- A non-returning atomic meets poisoned data: no lane of the instruction that meets it acts (R106, R156). -/
def atomicPoison (s : State) (wid : Nat) (w : Wave) (b : BufStore) : State :=
  let bad := w.stores.filter (fun c => c.seq / seqStride == b.seq / seqStride && placePoisoned s c.place c.bytes.length)
  let mask := maskOf (bad.map (fun c => c.lane))
  let first := bad.headD b
  let s := modWave s wid (fun w => { w with stores := w.stores.filter (fun c => !(bad.any (fun x => x.seq == c.seq))) })
  let f := poisonFrom s first.place first.bytes.length
  takeFault s b.origin (standingAt s b.origin b.pc b.block b.path mask) (f.unit.getD (unitFor s b.origin 0x17)) 0x17
    (poisonDetail first.va true f.own) (some mask) false

/-- Whether a buffered entry is an atomic of a program, as against an element narrower than a byte. -/
def isAtomic (b : BufStore) : Bool :=
  match b.rmw with
  | none => false
  | some (.insert, _, _) => false
  | some _ => true

/-- Perform a store of local storage at a scope, if it may be (R315). -/
def performAt (s : State) (wid : Nat) (w : Wave) (b : BufStore) (scope : Nat) : Out :=
  let at_ := if b.rmw.isSome then max 4 scope else scope
  if scope = 0 ∨ 5 < scope ∨ scope ≤ b.perf then stall s
  else if !(canPerform { s with fabric := { s.fabric with directory := [] } } wid w b at_) then stall s
  else if 4 ≤ at_ ∧ peersHolding s b.place b.bytes.length = true then evictLine s (placeLine b.place)
  else if b.perf < 4 ∧ isAtomic b = true ∧ placePoisoned s b.place b.bytes.length = true then .next (atomicPoison s wid w b)
  else if b.rmw.isSome ∧ 4 ≤ b.perf then
    .next (modWave s wid (fun w => setStore w b.seq (fun b => if b.scope ≤ at_ then none else some { b with perf := at_ })))
  else .next (performStore s wid b at_)

/-- A store that a load at CLUSTER scope or wider would return, and that is not performed at DEVICE scope (R313). -/
def narrowUnder (s : State) (wid : Nat) (a : Access) (now : List LaneAcc) : Option (Nat × BufStore) :=
  if a.scope < 2 then none
  else (s.waves.flatMap (fun o => (o.2.stores.filter (fun b =>
    visibleTo s o.1 wid b && now.any (fun l => l.ready.isNone && a.accTile.isNone && storeMeets b l.place a.width))).map (fun b => (o.1, b)))).head?

/-- It is performed there first. -/
def widenStore (s : State) (owner : Nat) (b : BufStore) : Out :=
  match getWave s owner with
  | some w => performAt s owner w b 4
  | none => stall s

/-! ## LOAD_DATA_RETURN -/

/-- The data of some lanes of a wave's access number `i` in flight returns: each value is delivered and its destination marked
full (R50). Lanes that share a request return together. -/
def execLoadDataReturn (wid i : Nat) (lanes : Mask) (fromL1 : Bool) (s : State) : Out :=
  match getWave s wid with
  | none => stall s
  | some w =>
    match w.loads[i]? with
    | none => stall s
    | some a =>
      let first := firstPieces a.lanes
      let now := first.filter (fun l => !(laneBit l.lane &&& lanes == 0))
      if now.isEmpty || (a.accTile.isNone && splitsRequest wid a.width first now) then stall s
      else if let some o := narrowUnder s wid a now then widenStore s o.1 o.2
      else
        match a.kind with
        | .atomic op =>
          (match atomicLanes wid w a op now s with
           | .ok t => let u := settleAccess t wid a; if u = s then stall s else .next u
           | .error (.evict k) => evictLine s k
           | .error _ => stall s)
        | _ =>
          match loadLanes s wid w a fromL1 now with
          | .ok vs =>
            let t := if fromL1 then s else now.foldl (fun t l => refreshL1 t wid a l) s
            let u := deliverAll wid a (lanePoison s wid w a fromL1) t vs
            if u = s then stall s else .next u
          | .error (.request q b) => askLine s wid w a q b
          | .error _ => stall s

/-! ## STORE_PERFORMED -/

/-- Stores of one instruction to one line of a peer that have not been injected (R299). -/
def requestStores (w : Wave) (b : BufStore) : List BufStore :=
  w.stores.filter (fun c => c.sent.isNone && c.rmw.isNone && decide (requestOf c = requestOf b))

/-- The bytes of some stores to one line, by rising offset; a later store covers an earlier one (R161). -/
def lineCells (bs : List BufStore) : List (Nat × Byte) :=
  bs.foldl (fun t b =>
    match b.place with
    | .remote _ a => (b.bytes.zipIdx).foldl (fun t p => Tbl.put t ((a + p.2) % 128) p.1) t
    | _ => t) []

/-- A store of a peer's page has been refused for good or its peer is unreachable: it is dropped with 0x0B (R415, R426). -/
def dropStores (s : State) (wid q : Nat) (bs : List BufStore) : State :=
  modWave s wid (fun w => asyncError 0x0B (q % 65536) { w with stores := w.stores.filter (fun c => !(bs.any (fun b => b.seq == c.seq))) })

/-- The stores carry the number of the packet that takes them; each is now performed for the agents of this package (R411,
R412). -/
def markSent (wid id : Nat) (bs : List BufStore) (s : State) : State :=
  modWave s wid (fun w => { w with stores := w.stores.map (fun c => if bs.any (fun b => b.seq == c.seq) then { c with sent := some id, perf := 4 } else c) })

/-- Earlier stores of the wave to the same line of a peer that have not been injected (R410). -/
def lineBehind (w : Wave) (b : BufStore) : Bool :=
  w.stores.any (fun c => decide (c.seq < b.seq) && c.sent.isNone && decide ((requestOf c).2 = (requestOf b).2) && !(decide (requestOf c = requestOf b)))

/-- Inject a store, or a non-returning atomic, to a peer's page (R411, R415, R417). -/
def injectStore (s : State) (wid : Nat) (w : Wave) (b : BufStore) (q a : Nat) : Out :=
  let ready := w.loads.all (fun x => decide (b.seq ≤ x.seq) || !(accMeets x b.place b.bytes.length))
    && !(lineBehind w b) && acquired w b.after && b.bars.all (fun c => releaseReady s wid w c.1 c.2)
  let ordered := b.bars.any (fun c => decide (5 ≤ c.2))
  if !ready || b.sent.isSome then stall s
  else if s.fabric.unreachable.contains (q % 65536) then .next (dropStores s wid q (match b.rmw with | none => requestStores w b | some _ => [b]))
  else if !(lineFree s q a) then stall s
  else
    let id := s.fabric.nextId
    match b.rmw with
    | none =>
      let bs := requestStores w b
      .next (markSent wid id bs (sendPacket (dropCopy s q a)
        { lineDraft q (jobOf s w) (a / 128 * 128) (lineCells bs) with ordered := ordered } (.store w.uid b.seq)))
    | some (.insert, d, m) =>
      (match heldCopy s q a with
       | none => requestLine s (jobOf s w) q a
       | some (line, _) =>
         let x := (atomicNew .insert (8 * b.bytes.length) (natOfBytes ((line.drop (a % 128)).take b.bytes.length)) d m).1
         .next (markSent wid id [b] (sendPacket (dropCopy s q a)
           { lineDraft q (jobOf s w) (a / 128 * 128) (((bytesOfNat b.bytes.length x).zipIdx).map (fun p => (a % 128 + p.2, p.1))) with
             ordered := ordered } (.store w.uid b.seq))))
    | some (op, d, c) =>
      if atomicsOut s q a < 1024 then
        .next (markSent wid id [b] (sendAtomic s w op q a b.bytes.length b.order d c ordered (.store w.uid b.seq)))
      else stall s

/-- A buffered store or non-returning atomic of the wave becomes performed at a scope, or is sent to its home (R315). -/
def execStorePerformed (wid i scope : Nat) (s : State) : Out :=
  match getWave s wid with
  | none => stall s
  | some w =>
    match w.stores[i]? with
    | none => stall s
    | some b =>
      match b.place with
      | .remote q a => injectStore s wid w b q a
      | _ => performAt s wid w b scope

/-! ## RECV_FILL and LANE_BLOCK_START -/

/-- The oldest unsatisfied `RECV` takes the oldest value of the return queue (R116). -/
def execRecvFill (wid : Nat) (s : State) : Out :=
  match getWave s wid with
  | none => stall s
  | some w =>
    match w.recvs, w.returnQueue with
    | n :: ns, v :: vs => .next (setWave s wid (writeS n v { w with recvs := ns, returnQueue := vs }))
    | _, _ => stall s

/-- q register `k` as a block finds it: its value, or empty until the producer of an s register writes (R44, R53). -/
def loadQ (w : Wave) (p : Capture × Nat) : Wave :=
  match p.1 with
  | .val v => { w with q := Cells.set 0 w.q p.2 v, qEmpty := Cells.set false w.qEmpty p.2 false }
  | .await n => { w with qEmpty := Cells.set false w.qEmpty p.2 true, qAwait := w.qAwait ++ [(p.2, n)] }

/-- q0 to q3 at the start of a block (R44). -/
def blockQ (e : LaneEntry) (w : Wave) : Wave :=
  let w := (e.srcs.zipIdx).foldl loadQ w
  { w with
    q := Cells.set 0 w.q 3 (BitVec.ofNat 64 w.blockSeq)
    qEmpty := Cells.set false w.qEmpty 3 false
    blockSeq := (w.blockSeq + 1) % 2 ^ 64 }

/-- Every store and atomic of the control stream that precedes the `LANE` is visible to the wave's lanes: a buffered store is forwarded, an
atomic must have acted, and none is logged (R304). -/
def laneVisible (w : Wave) (e : LaneEntry) : Bool :=
  let early := fun (a : Actor) (q : Nat) => !(isLaneActor a) && decide (q < e.seq)
  w.stores.all (fun b => !(early b.origin b.seq) || b.rmw.isNone || (match b.place with | .remote _ _ => decide (5 ≤ b.perf) | _ => decide (1 ≤ b.perf)))
    && w.loads.all (fun a => !(early a.actor a.seq) || (match a.kind with | .atomic _ => false | _ => true))
    && w.log.all (fun x => !(early x.actor x.seq) || (match x.body with
        | .access a => (match a.kind with | .load _ => true | _ => false)
        | _ => true))

/-- The next queued block begins: its root holds every lane of the launch mask and stands at the block's offset (R114, R263). -/
def execLaneBlockStart (wid : Nat) (s : State) : Out :=
  match getWave s wid with
  | none => stall s
  | some w =>
    match w.laneQueue with
    | [] => stall s
    | e :: _ =>
      if w.blockRunning || w.ctl == .clearing || !(launchLive s w) || !(laneVisible w e) then stall s
      else
        let seq := w.blockSeq
        let s := setWave s wid (blockQ e (startBlock e.off (launchMask (isShadow s w)) e.syncs w))
        let a := Actor.path wid 0
        .next (traceActor s a (standing s a) 1 seq 0 false)

end Sys2Proof.Machine
end

