-- ==== Sys2Proof/Machine/Launch.lean ====
section
/-! DEFINITION. Hardware queues, launch entries, and the way of a launch from its queue to its start and from its last team to its
completion (spec/17_launches_queues_and_placement.md: R358 to R365, R369, R371, R487, R504; R400, R465). -/

namespace Sys2Proof.Machine

/-! ## Queues (R358 to R361) -/

def getQueue (s : State) (q : Nat) : Queue := (Tbl.find? s.hub.queues q).getD Queue.reset

def modQueue (s : State) (q : Nat) (f : Queue → Queue) : State :=
  modHub s (fun h => { h with queues := Tbl.put h.queues q (f ((Tbl.find? h.queues q).getD Queue.reset)) })

def queueSize (q : Queue) : Nat := 2 ^ q.log2

/-- The way from one index of a ring forward to another, modulo the ring's size, which divides 2¹⁶ (R358, R359). -/
def ringSpan (size start stop : Nat) : Nat := (stop + 2 ^ 16 - start) % size

/-- Entries enqueued (R358). -/
def enqueued (q : Queue) : Nat := ringSpan (queueSize q) q.head q.tail

/-- The queue is enabled and ready (R485). -/
def queueLive (s : State) (q : Nat) : Bool := (getQueue s q).enable && decide (s.hub.queuesReady / 2 ^ q % 2 = 1)

/-- QPUT (R254): the address and the queue are checked, the entry is read, and copied to the tail. -/
def applyQput (f : CE) (s : State) (wid : Nat) (w : Wave) (addr : Dword) (_ : Dword) : Res Applied := do
  globalOnlyAddr addr.toNat
  ensure (decide (addr.toNat % 128 = 0)) 0x08 (addrDetail addr.toNat false false)
  let n := f.opts.toNat % 64
  let q := getQueue s n
  let cx ← ctxRes s w
  ensure (queueLive s n && q.deviceFed && q.ctx == cx.1) 0x0B n
  withImage s wid w addr.toNat 128 128 fun bs => do
    if enqueued q + 1 = queueSize q then .ok (.done s (some 0))
    else
      let t := writePhys s (q.base + 128 * q.tail) bs
      .ok (.done (modQueue t n (fun q => { q with tail := (q.tail + 1) % queueSize q })) (some 1))
where
  globalOnlyAddr (a : Nat) : Res Unit := ensure (decide (apertureOf a = 0)) 0x09 (addrDetail a false false)

def execQput (f : CE) (s : State) : Out :=
  runControl s fun wid w => do
    fullWait w
    let x ← ceSources w f true false false [f.d.toNat]
    memReadyNow w (.control wid)
    releaseNow s wid w 4
    let r ← applyQput f s wid w x.1 0
    .ok (finishApplied (.qput f) s wid w (some f.d.toNat) [x.1, 0] r)

/-- QTAIL_WRITE: a host write of a queue's tail, applied once every posted write of the host before it is performed (R359, R360, R485). -/
def execQtailWrite (n : Nat) (v : Dword) (s : State) : Out :=
  let q := getQueue s n
  let size := queueSize q
  let t := v.toNat % 2 ^ 16
  if !(s.hub.posted.isEmpty) then stall s
  else if queueLive s n && !q.deviceFed && decide (t < size) && decide (ringSpan size q.tail t ≤ size - 1 - enqueued q) then
    .next (modQueue s n (fun q => { q with tail := t }))
  else .next (modHub s (fun h => { h with qerr := Nat.lor h.qerr (2 ^ (n % 64)) }))

/-! ## Launch entries (R362, R363) -/

def entryOf (bs : List Byte) : Entry :=
  let n := fun i k => natOfBytes ((bs.drop i).take k)
  { ctrl := n 0 8, lane := n 8 8, teams := n 16 4, regs := n 20 2, waves := n 22 1, flags := n 23 1, spad := n 24 4, acc := n 28 2,
    tslots := n 30 1, split := n 31 1, spill := n 32 4, stack := n 36 2, affinity := n 38 2, args := n 40 8, waitAddr := n 48 8,
    waitValue := n 56 8, doneAddr := n 64 8, doneAdd := n 72 8, seed := n 80 8, hbWindow := n 88 4, timeLimit := n 92 4,
    install := n 96 8, installCount := n 104 2, coreLimit := n 106 2 }

/-- A field check: byte offset, the code it refuses with, and whether it holds. -/
abbrev EntryCheck := Nat × Nat × Bool

/-- A global address with an alignment. -/
def addrChecks (off addr align : Nat) : List EntryCheck :=
  [(off, 0x09, decide (addr / 2 ^ 56 = 0)), (off, 0x08, decide (addr % align = 0))]

/-- The checks of R363 in ascending byte order. -/
def entryChecks (bs : List Byte) (e : Entry) : List EntryCheck :=
  let persistent := decide (e.flags / 4 % 2 = 1)
  addrChecks 0 e.ctrl 256 ++ addrChecks 8 e.lane 256 ++
  [(16, 4, decide (1 ≤ e.teams ∧ e.teams ≤ 2 ^ 24)), (20, 4, decide (1 ≤ e.regs ∧ e.regs ≤ 256)), (22, 4, decide (1 ≤ e.waves ∧ e.waves ≤ 32)),
   (23, 4, decide (e.flags < 32) && (decide (e.flags / 16 % 2 = 0) || decide (e.flags / 8 % 2 = 1))),
   (24, 4, decide (e.spad ≤ 444416) && decide (e.spad % 7936 = 0)), (28, 4, decide (e.acc ≤ 512)), (30, 4, decide (e.tslots ≤ 64)),
   (31, 4, decide (e.split < 8)),
   (32, 4, e.spill == 0xFFFFFFFF || (decide (e.spill % 256 = 0) && decide (e.spill + 16384 * e.tslots ≤ e.spad))),
   (36, 4, decide (e.stack ≤ 16384) && decide (e.stack % 16 = 0))] ++
  addrChecks 48 e.waitAddr 8 ++ [(56, 4, decide (e.waitValue < 2 ^ 63))] ++ addrChecks 64 e.doneAddr 8 ++
  [(72, 4, decide (e.doneAdd < 2 ^ 32)), (88, 4, if persistent then decide (1 ≤ e.hbWindow) else decide (e.hbWindow = 0)),
   (92, 4, if persistent then decide (e.timeLimit = 0) else decide (1 ≤ e.timeLimit))] ++
  addrChecks 96 e.install 16 ++ [(104, 4, decide (e.installCount ≤ 192))] ++
  [(108, 4, (List.range 20).all (fun k => bs.getD (108 + k) 0 == 0))]

/-- The first failing check of an entry: code and byte offset. -/
def entryBad (bs : List Byte) (e : Entry) : Option (Nat × Nat) :=
  ((entryChecks bs e).find? (fun c => !c.2.2)).map (fun c => (c.2.1, c.1))

/-! ## Records and refusal -/

/-- A record of a launch that names no wave (R363, R490, R504). -/
def launchRecord (s : State) (lid : Nat) (l : Launch) (code detail : Nat) (ends : Bool) : State :=
  writeFault s l.ctx
    { timebase := s.timebase, qentry := l.qentry, detail := detail, block := 0, mask := 0, pc := 0, unit := 0, wave := 0, ends := ends,
      deferred := false, cont := false, path := 0, stream := false, code := code, lid := if ends then none else some lid }

/-- The entry at the head of a queue has been taken and leaves it (R361). A launch that a rollback enqueued again stands before the ring's
head. -/
def advanceHead (s : State) (l : Launch) : State :=
  let s := modHub s (fun h => { h with lastServed := Cells.set 63 h.lastServed l.prio l.queue })
  if l.requeued then s else modQueue s l.queue (fun q => { q with head := (q.head + 1) % queueSize q })

/-- The launch is refused, and completes as killed (R363, R365). -/
def refuseLaunch (s : State) (lid : Nat) (l : Launch) (code detail : Nat) : State :=
  modLaunch (advanceHead (launchRecord s lid l code detail true) l) lid (fun x => { x with state := .refused, donePending := true, cpWait := none })

/-- The launch is cancelled: no record (R365). -/
def cancelLaunch (s : State) (lid : Nat) (l : Launch) : State :=
  modLaunch (advanceHead s l) lid (fun x => { x with state := .cancelled, donePending := true, cpWait := none })

/-- The launch waits for a page of its own access: one record of code 0x0A (R504). -/
def launchWaits (s : State) (lid : Nat) (l : Launch) (addr entry : Nat) (write : Bool) : State :=
  modLaunch (launchRecord s lid l 0x0A (addrDetail addr write false) false) lid (fun x => { x with cpWait := some (addr, write, entry) })

/-- The code of an access of the command processor that fails: 0x0B, or 0x17 (R504). -/
def failCode : RangeStop → Nat
  | .poisoned _ _ => 0x17
  | _ => 0x0B

def failAddr : RangeStop → Nat
  | .poisoned a _ => a
  | .denied a => a
  | .outside a => a
  | _ => 0

/-- What an access of the command processor meets, other than data: a wait of the launch, a wait of the access, or a refusal
with the byte offset and list position of its field (R504). -/
def launchStop (s : State) (lid : Nat) (l : Launch) (e : RangeStop) (off : Nat) : Out :=
  match e with
  | .absent a n => .next (launchWaits s lid l a n false)
  | .remote q a => (match getCtx s l.ctx with | some x => requestLine s x.job q a | none => stall s)
  | .peers n => evictLine s n
  | .wait => stall s
  | e => .next (refuseLaunch s lid l (failCode e) (off + failAddr e % 2 ^ 64 * 2 ^ 64))

/-! ## Eligible cores and the fit of R363 -/

/-- Cores of the launch's stack domains that are ready and not fenced, less those a rollback excludes; the first core_limit
of them (R369, R464, R472, R487). -/
def eligibleCores (s : State) (l : Launch) : List Nat :=
  let mask := if l.e.affinity = 0 then 2 ^ 16 - 1 else l.e.affinity
  let cs := (List.range 512).filter (fun c =>
    decide (mask / 2 ^ (c / 32) % 2 = 1) && decide (s.hub.domainsReady / 2 ^ (c / 32) % 2 = 1) && !(getCore s c).fenced
      && !(l.excluded.contains c))
  if l.e.coreLimit = 0 then cs else cs.take l.e.coreLimit

/-- Register granules of a team (R367). -/
def teamGranules (e : Entry) : Nat := e.waves * ceilDiv e.regs 8

/-- Scratchpad granules of a team. -/
def spadGranules (e : Entry) : Nat := e.spad / 7936

/-- Wave slots of a core that may be chosen (R472). -/
def usableSlots (k : Core) : Nat := 32 - 8 * k.pipesFenced.length

/-- The split at which an empty core is judged (R363). -/
def judgedSplit (e : Entry) : Nat := if e.split % 16 = 0 then 1792 else 256 * (e.split % 16)

/-- The needs of a team in byte order of their fields, on an empty core. -/
def teamNeeds (s : State) (e : Entry) (c : Nat) : List (Nat × Bool) :=
  let k := getCore s c
  let fencedUnit := (getCluster s (c / 4)).matrixFenced
  [(20, decide (teamGranules e ≤ 128)), (22, decide (e.waves ≤ usableSlots k)), (24, decide (spadGranules e ≤ judgedSplit e / 32)),
   (28, e.acc == 0 || !fencedUnit), (30, e.tslots == 0 || !fencedUnit)]

/-- The first field whose need none of the cores that meet the earlier ones meets. -/
def unmetField (s : State) (e : Entry) : List Nat → List Nat → Option Nat
  | [], _ => none
  | off :: r, cs =>
    let ok := cs.filter (fun c => (teamNeeds s e c).any (fun n => n.1 == off && n.2))
    if ok.isEmpty then some off else unmetField s e r ok

/-- Quotient, or no bound. -/
def perNeed (have_ need : Nat) : Nat := if need = 0 then 32 else have_ / need

/-- Teams that an empty core holds, apart from table slots. -/
def coreHolds (s : State) (e : Entry) (c : Nat) : Nat :=
  if (teamNeeds s e c).all (fun n => n.2) then
    min (min (perNeed (usableSlots (getCore s c)) e.waves) (perNeed 128 (teamGranules e)))
      (min (perNeed (judgedSplit e / 32) (spadGranules e)) (perNeed 512 e.acc))
  else 0

/-- Teams that the empty eligible cores of a cluster hold at once: table slots are shared (R367). -/
def clusterHolds (s : State) (e : Entry) (cs : List Nat) (k : Nat) : Nat :=
  let sum := ((cs.filter (fun c => c / 4 == k)).map (coreHolds s e)).foldl (fun a b => a + b) 0
  if e.tslots = 0 then sum else min sum (64 / e.tslots)

/-- The byte offset for which R363 refuses a launch with 0x12, if it does. -/
def fitBad (s : State) (l : Launch) (cs : List Nat) : Option Nat :=
  match unmetField s l.e [20, 22, 24, 28, 30] cs with
  | some off => some off
  | none =>
    if flagCoresident l && decide (((List.range 128).map (clusterHolds s l.e cs)).foldl (fun a b => a + b) 0 < l.e.teams) then some 16
    else none

/-! ## The install list (R364) -/

/-- The first byte of an install entry that breaks its layout. -/
def installBad (bs : List Byte) : Option Nat :=
  let b := fun i => (bs.getD i 0).toNat
  let k := b 0
  if 2 < k then some 0
  else if (if k = 0 then 64 else if k = 1 then 8 else 4) ≤ b 1 then some 1
  else if (if k = 2 then b 2 = 0 ∨ 16 < b 2 else b 2 ≠ 0) then some 2
  else ((List.range 5).find? (fun i => b (3 + i) != 0)).map (fun i => 3 + i)

/-- What performing one install does: a new state, a failure with the detail of its instruction, or a stop of the access. -/
inductive Installed where
  | done (t : State)
  | fail (code detail : Nat)
  | stop (e : RangeStop)
  deriving DecidableEq, Repr

/-- The alignment and length of the image of a kind. -/
def imageSize (kind : Nat) : Nat := if kind = 0 then 64 else 32

/-- Install an image that has been read. -/
def installBytes (s : State) (c kind idx count addr : Nat) (bs : List Byte) : Installed :=
  let r : Res State := match kind with
    | 0 => installTensor s c idx addr bs
    | 1 => installCode s c idx bs
    | _ => .ok (installPalette s c idx count bs)
  match r with
  | .ok t => .done t
  | .error (.fault code d _ _) => .fail code d
  | .error _ => .stop .wait

/-- Perform one entry of an install list. -/
def installEntry (s : State) (c : Nat) (x : Context) (bs : List Byte) : Installed :=
  match installBad bs with
  | some k => .fail 0x04 k
  | none =>
    let kind := (bs.getD 0 0).toNat
    let addr := natOfBytes ((bs.drop 8).take 8)
    if addr / 2 ^ 56 ≠ 0 then .fail 0x09 (addrDetail addr false false)
    else if addr % imageSize kind ≠ 0 then .fail 0x08 (addrDetail addr false false)
    else
      match deviceRead s x addr (imageSize kind) with
      | .error e => .stop e
      | .ok im => installBytes s c kind (bs.getD 1 0).toNat (bs.getD 2 0).toNat addr im

/-! ## The way to the start (R361, R365, R465, R487) -/

/-- A rollback stands before the entry in its queue. -/
def behindRollback (s : State) (lid : Nat) (l : Launch) : Bool :=
  !l.requeued && s.launches.any (fun p => p.1 != lid && p.2.requeued && p.2.state == .waiting && p.2.queue == l.queue)

/-- The launch starts: its eligible cores are fixed, its teams wait, and a restartable launch is armed (R369, R400, R465). -/
def startLaunch (s : State) (lid : Nat) (l : Launch) (cs : List Nat) : State :=
  let s := if flagRestartable l then modCtx s l.ctx (fun x => { x with generation := x.generation + 1, armed := some lid }) else s
  let s := advanceHead s l
  let u := freshUid s
  modLaunch u.2 lid (fun x =>
    { x with state := .running, eligible := cs, waitingTeams := List.range x.e.teams, savedTeams := [], retired := 0, started := false,
             elapsed := 0, hbLeft := x.e.hbWindow, order := u.1, requeued := false, cursor := 0, cpWait := none })

/-- After the install list: the armed launch of the context, the generation, the start. -/
def readyToStart (s : State) (lid : Nat) (l : Launch) (x : Context) : Out :=
  if flagRestartable l && x.armed.isSome then stall s
  else if flagRestartable l && decide (x.generation = 65535) then .next (refuseLaunch s lid l 0x12 23)
  else .next (startLaunch s lid l (eligibleCores s l))

/-- The detail of a failure in the install list (R364). -/
def installDetail (pos detail : Nat) : Nat := 96 + pos * 2 ^ 8 + detail % 2 ^ 64 * 2 ^ 64

/-- Perform the install list from the entry reached. A page that is not present keeps the place (R364, R504). -/
def runInstall (lid : Nat) (x : Context) : Nat → State → Launch → Out
  | 0, s, l => readyToStart s lid l x
  | n + 1, s, l =>
    let k := l.installed
    let at_ := l.e.install + 16 * k
    if at_ / 2 ^ 56 ≠ 0 then .next (refuseLaunch s lid l 0x09 (installDetail k (addrDetail at_ false false)))
    else
    match deviceRead s x at_ 16 with
    | .error e => launchStop s lid l e (96 + k * 2 ^ 8)
    | .ok bs =>
      match installEntry s l.ctx x bs with
      | .stop e => launchStop s lid l e (96 + k * 2 ^ 8)
      | .fail code d => .next (refuseLaunch s lid l code (installDetail k d))
      | .done t =>
        let l := { l with installed := k + 1 }
        runInstall lid x n { t with launches := Tbl.put t.launches lid l } l

/-- After the wait event: ready cores, the fit, the install list. -/
def afterEvent (s : State) (lid : Nat) (l : Launch) (x : Context) : Out :=
  let cs := eligibleCores s l
  if cs.isEmpty then stall s
  else
    match fitBad s l cs with
    | some off => .next (refuseLaunch s lid l 0x12 off)
    | none =>
      let l := { l with phase := 2 }
      let s := { s with launches := Tbl.put s.launches lid l }
      if l.e.install = 0 ∨ l.e.installCount = 0 then readyToStart s lid l x
      else runInstall lid x (l.e.installCount - l.installed) s l

/-- Bring a launch as far on its way as it comes now (R361, R365). -/
def advanceLaunch (s : State) (lid : Nat) (l : Launch) : Out :=
  match getCtx s l.ctx with
  | none => stall s
  | some x =>
    if behindRollback s lid l then stall s
    else if l.phase = 0 ∧ l.e.waitAddr ≠ 0 then
      match deviceRead s x l.e.waitAddr 8 with
      | .error e => launchStop s lid l e 48
      | .ok bs =>
        let v := natOfBytes bs
        if 2 ^ 63 ≤ v then .next (cancelLaunch s lid l)
        else if v < l.e.waitValue then stall s
        else
          let l := { l with phase := 1 }
          afterEvent { s with launches := Tbl.put s.launches lid l } lid l x
    else afterEvent s lid l x

/-- The first of two outcomes that changes the state. -/
def keepOr (s : State) (o : Out) : Out :=
  match o with
  | .next t => if t.stalled then .next s else .next t
  | o => o

/-! ## Taking entries (R361) -/

/-- No launch of the queue is on its way. -/
def queueIdle (s : State) (q : Nat) : Bool := s.launches.all (fun p => p.2.queue != q || p.2.state != .waiting)

/-- Queues are served: the hub is ready and no die has tripped (R486, R490). -/
def served (s : State) : Bool := s.hub.hubReady && s.hub.thermal != 2

/-- The queue has an entry that may be taken; none is while a pseudo-channel is dropped (R482). -/
def takeable (s : State) (q : Nat) : Bool :=
  queueLive s q && decide (enqueued (getQueue s q) ≠ 0) && queueIdle s q && s.hbm.all (fun k => !k.2.busy) && (getCtx s (getQueue s q).ctx).isSome

/-- Queues of one priority in round-robin order after the last one served. -/
def roundRobin (s : State) (prio : Nat) : List Nat :=
  let last := Cells.get 63 s.hub.lastServed prio
  ((List.range 64).map (fun k => (last + 1 + k) % 64)).filter (fun q => (getQueue s q).prio == prio)

/-- The launch of a queue whose entry has been read and that is still on its way to its start, if it can go on now. -/
def goesOn (s : State) (q : Nat) : Option Nat :=
  ((s.launches.filter (fun p => p.2.queue == q && p.2.state == .waiting && p.2.cpWait.isNone)).find? (fun p =>
    match advanceLaunch s p.1 p.2 with
    | .next t => !t.stalled
    | _ => true)).map (fun p => p.1)

/-- The queue that the command processor serves next: the first in order with an entry to look at or a launch that can go on (R361). -/
def nextQueue (s : State) : Option Nat := ([3, 2, 1, 0].flatMap (roundRobin s)).find? (fun q => takeable s q || (goesOn s q).isSome)

/-- A launch as its entry is taken. -/
def newLaunch (q : Nat) (queue : Queue) (qentry : Nat) (e : Entry) : Launch :=
  { ctx := queue.ctx, queue := q, qentry := qentry, e := e, prio := queue.prio, order := 0, state := .waiting, waitingTeams := [],
    savedTeams := [], eligible := [], retired := 0, started := false, elapsed := 0, hbLeft := 0, ending := none, rollbacks := 0,
    excluded := [], cpWait := none, donePending := false, phase := 0, installed := 0, requeued := false, cursor := 0 }

/-- LAUNCH_TAKE: the command processor looks at the head of the queue that it serves next, checks its fields, and starts it if it may
start; else it watches the entry's event, and the entry is taken when it starts (R361, R365). -/
def execLaunchTake (s : State) : Out :=
  if served s then
    match nextQueue s with
    | none => stall s
    | some n =>
      if (goesOn s n).isSome then stall s
      else
        let q := getQueue s n
        let qentry := q.base + 128 * q.head
        let bs := readPhys s qentry 128
        let e := entryOf bs
        let u := freshUid s
        let l := newLaunch n q qentry e
        let t := { u.2 with launches := Tbl.put u.2.launches u.1 l }
        match entryBad bs e with
        | some (code, off) => .next (refuseLaunch t u.1 l code off)
        | none => keepOr t (advanceLaunch t u.1 l)
  else stall s

/-- WAIT_EVENT_SATISFIED: a launch that waits is looked at again, as its event's line was written, cores became ready or an armed
launch completed, when its queue is the one served next (R361, R365, R465, R487). -/
def execWaitEventSatisfied (lid : Nat) (s : State) : Out :=
  match getLaunch s lid with
  | some l =>
    if l.state = .waiting ∧ l.cpWait = none ∧ served s = true ∧ nextQueue s = some l.queue ∧ goesOn s l.queue = some lid then advanceLaunch s lid l
    else stall s
  | none => stall s

/-! ## Completion (R365, R504) -/

/-- The launch's pool and armed state are freed (R467, R470). -/
def disarm (s : State) (lid : Nat) (l : Launch) : State :=
  modCtx s l.ctx (fun x => if x.armed = some lid then { x with armed := none, snapshots := [], poolUsed := 0 } else x)

/-- The write of the completion event: an add of done_add, or an OR of bit 63. -/
def writeDone (s : State) (lid : Nat) (l : Launch) (killed : Bool) (final : LaunchState) : Out :=
  let t := modCtx (modLaunch (disarm s lid l) lid (fun x => { x with state := final, donePending := false, cpWait := none })) l.ctx
    (fun x => { x with replays := x.replays.filter (fun r => r.1 != l.qentry) })
  match getCtx s l.ctx with
  | none => .next t
  | some x =>
    if l.e.doneAddr = 0 ∨ l.e.doneAddr / 2 ^ 56 ≠ 0 ∨ l.e.doneAddr % 8 ≠ 0 then .next t
    else
      match deviceAtomic t x l.e.doneAddr (if killed then 3 else 1) (if killed then 2 ^ 63 else l.e.doneAdd) with
      | .ok u => .next u
      | .error (.absent a n) => .next (launchWaits s lid l a n true)
      | .error .wait => stall s
      | .error (.peers k) => evictLine s k
      | .error (.remote q a) => requestLine s x.job q a
      | .error e => .next (launchRecord t lid l (failCode e) (addrDetail (failAddr e) true false) false)

/-- Packets of the launch's waves that no acknowledgment has answered. -/
def launchPackets (s : State) (lid : Nat) : Bool :=
  let uids := (s.waves.filter (fun p => match getTeam s p.2.team with | some t => t.lid == lid | none => false)).map (fun p => p.2.uid)
  s.fabric.sent.any (fun p => match p.2.purpose with
    | .store u _ => uids.contains u
    | .copy u _ _ => uids.contains u
    | .rmw u _ _ => uids.contains u
    | .message u _ _ _ => uids.contains u
    | _ => false)

/-- LAUNCH_COMPLETE: every team has retired, or the launch was refused, cancelled or killed. A team retires with its writes
acknowledged and its logs empty (R259). -/
def execLaunchComplete (lid : Nat) (s : State) : Out :=
  match getLaunch s lid with
  | none => stall s
  | some l =>
    if l.cpWait.isSome then stall s
    else
      match l.state with
      | .running => if l.retired = l.e.teams ∧ l.ending = none then writeDone s lid l false .complete else stall s
      | .refused => if l.donePending then writeDone s lid l true .refused else stall s
      | .cancelled => if l.donePending then writeDone s lid l true .cancelled else stall s
      | .killed => if l.donePending then writeDone s lid l true .killed else stall s
      | _ => stall s

/-- CP_MEMORY_RETRY: the page of the command processor's access is valid now, and the access is repeated (R504). -/
def execCpMemoryRetry (lid : Nat) (s : State) : Out :=
  match getLaunch s lid with
  | none => stall s
  | some l =>
    match l.cpWait, getCtx s l.ctx with
    | some (addr, write, _), some x =>
      (match translate s x (if write then .atomic else .read) (addr % 2 ^ 56) with
       | .absent _ => stall s
       | _ =>
         let l := { l with cpWait := none }
         let t := { s with launches := Tbl.put s.launches lid l }
         if write then keepOr t (execLaunchComplete lid t)
         else if nextQueue t = some l.queue then keepOr t (advanceLaunch t lid l) else .next t)
    | _, _ => stall s

end Sys2Proof.Machine
end

