-- ==== Sys2Proof/Machine/Place.lean ====
section
/-! DEFINITION. The distributor: resources, splits, placement of teams, their saving and restoring, retirement (R48, R212, R223,
R316, R367 to R373, R386 to R392, R474). -/

namespace Sys2Proof.Machine

/-! ## Resources of a core (R367, R368) -/

/-- Teams that hold resources on a core. -/
def teamsOn (s : State) (c : Nat) : List Team :=
  (s.teams.filter (fun t => t.2.core == c && t.2.saved.isNone)).map (fun t => t.2)

/-- Teams that hold resources in a cluster. -/
def teamsIn (s : State) (k : Nat) : List Team :=
  (s.teams.filter (fun t => t.2.core / 4 == k && t.2.saved.isNone)).map (fun t => t.2)

/-- The lowest-numbered contiguous free run of `need` among `limit` units of which runs (first, length) are taken. -/
def freeRun (used : List (Nat × Nat)) (limit need : Nat) : Option Nat :=
  if need = 0 then some 0
  else (List.range (limit + 1 - need)).find? (fun p => used.all (fun u => !(rangesMeet u.1 u.2 p need)))

/-- Occupied slots of a core. -/
def occupied (s : State) (c : Nat) : List Nat :=
  (s.waves.filter (fun p => coreOf p.1 == c)).map (fun p => slotOf p.1)

/-- Occupied slots of a pipe. -/
def pipeLoad (used : List Nat) (p : Nat) : Nat := (used.filter (fun k => k / 8 == p)).length

/-- The lane pipe with the fewest occupied slots, the lower on a tie; a fenced pipe is never chosen (R368, R472). -/
def choosePipe (used fenced : List Nat) : Option Nat :=
  ([0, 1, 2, 3].filter (fun p => !(fenced.contains p) && decide (pipeLoad used p < 8))).foldl (fun best p =>
    match best with
    | none => some p
    | some b => if pipeLoad used p < pipeLoad used b then some p else some b) none

/-- Slots for `n` waves in ascending w (R368). -/
def chooseSlots (fenced : List Nat) : Nat → List Nat → Option (List Nat)
  | 0, _ => some []
  | n + 1, used =>
    match choosePipe used fenced with
    | none => none
    | some p =>
      match (List.range 8).find? (fun k => !(used.contains (p * 8 + k))) with
      | none => none
      | some k => (chooseSlots fenced n ((p * 8 + k) :: used)).map (fun r => (p * 8 + k) :: r)

/-- Scratchpad granules a core may give: those of its split, and below a pending smaller one (R371). -/
def splitGranules (k : Core) : Nat := min k.split (k.pendingSplit.getD k.split) / 32

/-- Where a team sits: slots, scratchpad granule, accumulator tile, table slot. -/
structure Seat where
  slots : List Nat
  spad : Nat
  acc : Nat
  table : Nat
  deriving DecidableEq, Repr

/-- A test of a unit of a core that needs the core empty (R502). -/
def needsCore (t : FieldTest) : Bool := [0, 1, 2, 5, 7].contains t.cls && !(t.cls == 1 && t.kind == 1)

/-- The core is under a test that keeps new teams away (R502). -/
def withheld (s : State) (c : Nat) : Bool :=
  match s.hub.tests with
  | t :: _ => needsCore t && t.die * 64 + t.index / 64 % 64 == c
  | [] => false

/-- The seat a core offers a team, if it fits it (R367, R371, R472). -/
def seatFor (s : State) (c : Nat) (e : Entry) : Option Seat :=
  let k := getCore s c
  let ts := teamsOn s c
  let granules := (ts.map (fun t => t.granules)).foldl (fun a b => a + b) 0
  let fencedUnit := (getCluster s (c / 4)).matrixFenced && (decide (e.acc ≠ 0) || decide (e.tslots ≠ 0))
  if k.fenced || withheld s c || fencedUnit || decide (128 < granules + teamGranules e) then none
  else
    match chooseSlots k.pipesFenced e.waves (occupied s c),
      freeRun (ts.map (fun t => (t.spadBase / 7936, t.spadSize / 7936))) (splitGranules k) (spadGranules e),
      freeRun (ts.map (fun t => (t.accBase, t.accCount))) 512 e.acc,
      freeRun ((teamsIn s (c / 4)).map (fun t => (t.slotBase, t.slotCount))) 64 e.tslots with
    | some sl, some sp, some a, some t => some ⟨sl, sp, a, t⟩
    | _, _, _, _ => none

/-! ## Order of launches (R369) -/

def insertLaunch (p : Nat × Launch) : List (Nat × Launch) → List (Nat × Launch)
  | [] => [p]
  | q :: r =>
    if q.2.prio < p.2.prio ∨ (q.2.prio = p.2.prio ∧ p.2.order < q.2.order) then p :: q :: r else q :: insertLaunch p r

/-- Launches with waiting teams, in the order in which the distributor serves them. -/
def waitingLaunches (s : State) : List (Nat × Launch) :=
  (s.launches.filter (fun p => p.2.state == .running && p.2.ending.isNone && !p.2.waitingTeams.isEmpty)).foldr insertLaunch []

/-- The distributor places no team of this launch on the core while an earlier co-resident launch waits for it (R373). -/
def heldBack (s : State) (lid : Nat) (l : Launch) (c : Nat) : Bool :=
  s.launches.any (fun p => p.1 != lid && p.2.state == .running && p.2.ending.isNone && flagCoresident p.2
    && !p.2.waitingTeams.isEmpty && decide (p.2.order < l.order) && decide (l.prio ≤ p.2.prio) && p.2.eligible.contains c)

/-! ## Splits (R371) -/

/-- The split that a launch asks of a core: its request, or, with none, the smallest that holds one team where the current one
does not. -/
def splitWanted (k : Core) (l : Launch) : Option Nat :=
  if l.e.split % 16 ≠ 0 then some (256 * (l.e.split % 16))
  else if spadGranules l.e ≤ k.split / 32 then none
  else some (roundUp (spadGranules l.e * 32) 256)

/-- The first launch in order that asks a split of the core decides: a larger one at once, a smaller one when its rows are
free. -/
def requestSplit (ls : List (Nat × Launch)) (s : State) (c : Nat) : State :=
  let k := getCore s c
  match (ls.filter (fun p => p.2.eligible.contains c)).findSome? (fun p => splitWanted k p.2) with
  | none => s
  | some w =>
    if k.split < w then setCore s c { k with split := w, pendingSplit := none, l1 := [] }
    else if w < k.split then (if k.pendingSplit = some w then s else setCore s c { k with pendingSplit := some w })
    else if k.pendingSplit = none then s else setCore s c { k with pendingSplit := none }

/-- Every core that a waiting launch may use. -/
def requestSplits (s : State) : State :=
  let ls := waitingLaunches s
  ((List.range 512).filter (fun c => ls.any (fun p => p.2.eligible.contains c))).foldl (requestSplit ls) s

/-- SPLIT_CHANGE: a pending split takes effect when no granule in the rows that change hands is allocated. -/
def execSplitChange (c : Nat) (s : State) : Out :=
  let k := getCore s c
  match k.pendingSplit with
  | none => stall s
  | some w =>
    if (teamsOn s c).all (fun t => decide (t.spadBase + t.spadSize ≤ w / 32 * 7936)) then
      .next (setCore s c { k with split := w, pendingSplit := none, l1 := if k.split < w then [] else k.l1 })
    else stall s

/-! ## Placing a fresh team (R48, R367, R369) -/

/-- The WAVEIDs of a seat on a core. -/
def seatWids (c : Nat) (z : Seat) : List Nat := z.slots.map (fun k => c * 32 + k)

/-- A pipe's clear engine has one more wave to clear (R48). -/
def queueClear (s : State) (wid : Nat) : State :=
  let k := getCore s (coreOf wid)
  let p := slotOf wid / 8
  setCore s (coreOf wid) { k with clearQ := Tbl.put k.clearQ p ((Tbl.find? k.clearQ p).getD [] ++ [wid]) }

/-- The state of the engine generator of wave w of team T (R26). -/
def engineSeed (e : Entry) (idx w : Nat) : Word := BitVec.ofNat 32 (seedState e.seed (2 ^ 63 + idx * e.waves + w))

/-- Create the waves of a team in their slots; the stops of their launch hold them (R350). -/
def placeWaves (e : Entry) (key idx : Nat) (decode : DecodeTable) (stops : List Nat) : Nat → List Nat → State → State
  | _, [], s => s
  | w, wid :: r, s =>
    let u := freshUid s
    let x := newWave u.1 key w e.ctrl .clearing decode (engineSeed e idx w)
    placeWaves e key idx decode stops (w + 1) r (queueClear (setWave u.2 wid { x with held := stops, stops := stops }) wid)

/-- The launch's first team has been placed: its clocks start (R375). -/
def tookTeam (idx : Nat) (l : Launch) : Launch :=
  let l := if l.started then l else { l with started := true, elapsed := 0, hbLeft := l.e.hbWindow }
  { l with waitingTeams := l.waitingTeams.filter (fun t => t != idx) }

def decodeOf (s : State) (l : Launch) : DecodeTable := match getCtx s l.ctx with | some x => x.decode | none => .map1

/-- At launch the wave pointer of a pipe that holds no wave stands at its last slot (R274). -/
def resetPointers (s : State) (c : Nat) : State :=
  let k := getCore s c
  setCore s c { k with pipePtr := [0, 1, 2, 3].foldl (fun m p =>
    if s.waves.any (fun w => w.1 / 8 == c * 4 + p) then m else Cells.set 7 m p 7) k.pipePtr }

/-- Place a waiting team that has never run. The start of a launch is an acquire (R306, R365), made for each core where a team of it comes to
run: the core's L1 copies are dropped. -/
def placeFresh (s : State) (lid : Nat) (l : Launch) (idx c : Nat) (z : Seat) : State :=
  let u := freshUid s
  let wids := seatWids c z
  let t := newTeam lid idx c wids (teamGranules l.e) (z.spad * 7936) l.e.spad z.acc l.e.acc z.table l.e.tslots
  modLaunch (placeWaves l.e u.1 idx (decodeOf s l) l.stops 0 wids (dropL1 (resetPointers { u.2 with teams := Tbl.put u.2.teams u.1 t } c) c)) lid (tookTeam idx)

/-- The clear of a wave is complete: every v register is zero and full, with the reset values of R41. -/
def clearedWave (w : Wave) : Wave :=
  if w.ctl = .clearing then { w with ctl := .running, v := [], vEmpty := [], c := [], ix := [], ad := [], s := [], sEmpty := [], q := [], qEmpty := [] }
  else w

/-- WAVE_CLEAR: a pipe's clear engine finishes its next wave (R48). -/
def execWaveClear (core pipe : Nat) (s : State) : Out :=
  let k := getCore s core
  match (Tbl.find? k.clearQ pipe).getD [] with
  | [] => stall s
  | wid :: r =>
    let t := setCore s core { k with clearQ := if r.isEmpty then Tbl.del k.clearQ pipe else Tbl.put k.clearQ pipe r }
    .next (modWave t wid clearedWave)

/-! ## Gang registers (R212, R391) -/

/-- The wave with a number, where it stands. -/
def widOf (s : State) (uid : Nat) : Option Nat := (List.find? (fun p : Nat × Wave => p.2.uid == uid) s.waves).map (fun p => p.1)

/-- A gang word with the fields of the recorded waves that are live at their positions. -/
def gangWord (s : State) (g : Nat) (uids : List Nat) : Nat :=
  (uids.zipIdx).foldl (fun g p =>
    match widOf s p.1 with
    | some wid => g - gangField g p.2 * 2 ^ (7 * p.2 + 3) + wid % 128 * 2 ^ (7 * p.2 + 3)
    | none => g) g

/-- Rewrite the gang registers of a wave. -/
def rewriteWave (s : State) (w : Wave) : Wave :=
  w.gangUids.foldl (fun w p => { w with g := Cells.set 0 w.g p.1 (BitVec.ofNat 64 (gangWord s (Cells.get 0 w.g p.1).toNat p.2)) }) w

/-- Every gang register names the same waves as before (R212). -/
def rewriteGangs (s : State) : State := { s with waves := s.waves.map (fun p => (p.1, rewriteWave s p.2)) }

/-- The team of a wave, live or saved. -/
def teamOfUid (s : State) (uid : Nat) : Option Nat :=
  match List.find? (fun p : Nat × Wave => p.2.uid == uid) s.waves with
  | some p => some p.2.team
  | none => (List.find? (fun t : Nat × Team => t.2.saved.any (fun v => v.2.any (fun w => w.uid == uid))) s.teams).map (fun t => t.1)

/-- The teams that each gang register of a context's waves names together (R391). -/
def gangsOf (s : State) (ctx : Nat) : List (List Nat) :=
  let live := (s.waves.filter (fun p => ctxOf s p.2 == some ctx)).map (fun p => p.2)
  let saved := s.teams.flatMap (fun t => match getLaunch s t.2.lid with
    | some l => if l.ctx = ctx then (match t.2.saved with | some (_, ws) => ws | none => []) else []
    | none => [])
  ((live ++ saved).flatMap (fun w => w.gangUids.map (fun p => p.2.filterMap (teamOfUid s)))).filter (fun g => !g.isEmpty)

/-- The teams tied to some teams through gangs. -/
def gangClosure (gangs : List (List Nat)) : Nat → List Nat → List Nat
  | 0, ts => ts
  | n + 1, ts => gangClosure gangs n (ts ++ (gangs.filter (fun g => g.any (fun u => ts.contains u))).flatten.filter (fun u => !(ts.contains u)))

/-- The cluster in which a saved team must resume, if its gang group has a live team. -/
def gangCluster (s : State) (ctx key : Nat) : Option Nat :=
  let gangs := gangsOf s ctx
  (gangClosure gangs gangs.length [key]).findSome? (fun k =>
    match getTeam s k with
    | some t => if t.saved.isNone then some (t.core / 4) else none
    | none => none)

/-! ## Restoring (R316, R390 to R392) -/

def movedPlace (old new : Nat) (p : Place) : Place :=
  match p with
  | .stack w l o => if w = old then .stack new l o else p
  | p => p

def movedActor (new : Nat) (a : Actor) : Actor :=
  match a with
  | .control _ => .control new
  | .path _ e => .path new e
  | .cont _ l => .cont new l
  | a => a

def movedLane (old new : Nat) (l : LaneAcc) : LaneAcc := { l with place := movedPlace old new l.place }

def movedAccess (old new : Nat) (a : Access) : Access :=
  { a with actor := movedActor new a.actor, lanes := a.lanes.map (movedLane old new) }

def movedBody (old new : Nat) (b : LogBody) : LogBody :=
  match b with
  | .access a => .access (movedAccess old new a)
  | b => b

/-- Where a walk for an address of a wave's context stops at an entry that is not valid (R329). -/
def walkStops (s : State) (w : Wave) (va : Nat) : Option Nat :=
  match ctxRec s w with
  | some (_, x) => (match walkCtx s x (va % 2 ^ 56) with | .absent e => some e | _ => none)
  | none => none

/-- The walk of a logged entry is made again: it waits where that walk stops, or is awake. -/
def walkEntry (s : State) (w : Wave) (e : LogEntry) : LogEntry :=
  match walkStops s w e.va with
  | some n => { e with entry := n, awake := false }
  | none => { e with awake := true }

/-- A logged entry walks again at restore (R331). -/
def movedEntry (s : State) (old new : Nat) (w : Wave) (e : LogEntry) : LogEntry :=
  walkEntry s w { e with body := movedBody old new e.body, actor := movedActor new e.actor }

/-- A fetch that waits walks again. -/
def againFetch (s : State) (w : Wave) (f : Option (Nat × Nat)) : Option (Nat × Nat) :=
  f.bind (fun p => (walkStops s w p.1).map (fun n => (p.1, n)))

/-- A saved wave at a new position; one that differs in some scope instance makes it wait for its stores (R316). -/
def movedWave (s : State) (old new : Nat) (decode : DecodeTable) (w : Wave) : Wave :=
  { w with
    decode := decode
    moved := w.moved || coreOf old != coreOf new
    loads := w.loads.map (movedAccess old new)
    stores := w.stores.map (fun b => { b with place := movedPlace old new b.place })
    log := w.log.map (movedEntry s old new w)
    fetchWait := againFetch s w w.fetchWait
    paths := w.paths.map (fun p => (p.1, { p.2 with fetchWait := againFetch s w p.2.fetchWait }))
    conts := w.conts.map (fun k => (k.1, { k.2 with fetchWait := againFetch s w k.2.fetchWait })) }

/-- Put the saved waves into their new slots. -/
def restoreWaves (decode : DecodeTable) : List (Nat × Nat × Wave) → State → State
  | [], s => s
  | (old, new, w) :: r, s => restoreWaves decode r (setWave s new (movedWave s old new decode w))

/-- Every buffered store of the wave is performed at DEVICE scope (R316). -/
def storesSettled (w : Wave) : Bool := w.stores.all (fun b => decide (4 ≤ b.perf))

/-- The bytes of a slot's contents: its entries in ascending order, INT16 in a subset table of INT8, 32 bits in the others (R215). -/
def slotBytes (r : SlotRec) : List Byte :=
  let n := if !r.prod && r.a.fmt == 4 then 2 else 4
  (List.range 4096).flatMap (fun k => bytesOfNat n (Cells.get 0 r.entries k).toNat)

/-- A slot comes back from its spill area: where the area has been written meanwhile its contents are undefined (R8, R223). -/
def unspilled (spill : Nat) (s : State) (t : Team) (k : Nat) (r : SlotRec) : State × SlotRec :=
  let bs := slotBytes r
  if r.state = .built ∧ cellsRead 0 t.spad (spill + 16384 * k) bs.length ≠ bs then
    ({ s with freeCtr := s.freeCtr + 4096 },
     { r with entries := (List.range 4096).foldl (fun m i => Cells.set 0 m i (Config.freeWord (s.freeCtr + i))) r.entries })
  else (s, r)

/-- Every slot of a team comes back, if its launch declares a spill area. -/
def unspillTables (spill : Nat) (t : Team) (s : State) : State × Tbl SlotRec :=
  if spill = 0xFFFFFFFF then (s, t.tables)
  else t.tables.foldl (fun u p => let r := unspilled spill u.1 t p.1 p.2; (r.1, u.2 ++ [(p.1, r.2)])) (s, [])

/-- Restore a saved team at a seat. -/
def placeSaved (s : State) (lid : Nat) (l : Launch) (key : Nat) (t : Team) (frame : Nat) (ws : List Wave) (c : Nat) (z : Seat) : State :=
  let wids := seatWids c z
  let u := unspillTables l.e.spill t s
  let s := u.1
  let t' : Team :=
    { t with core := c, waves := wids, spadBase := z.spad * 7936, accBase := z.acc, slotBase := z.table, tables := u.2, saved := none }
  let moves := (t.waves.zip wids).zip ws |>.map (fun p => (p.1.1, p.1.2, p.2))
  let s := restoreWaves (decodeOf s l) moves { s with teams := Tbl.put s.teams key t' }
  let s := if t.core = c then s else dropL1 s c
  let s := modCtx s l.ctx (fun x => { x with framesUsed := x.framesUsed.filter (fun i => i != frame) })
  rewriteGangs (modLaunch s lid (fun l => { tookTeam t.index l with savedTeams := l.savedTeams.filter (fun k => k != key) }))

/-! ## The next placement (R369, R370, R373, R391) -/

/-- The saved team of a launch with an index. -/
def savedTeam (s : State) (l : Launch) (idx : Nat) : Option (Nat × Team × Nat × List Wave) :=
  l.savedTeams.findSome? (fun k =>
    match getTeam s k with
    | some t => (match t.saved with | some (f, ws) => if t.index = idx then some (k, t, f, ws) else none | none => none)
    | none => none)

/-- The seat of a team on a core, in the cluster that its gang group fixes (R391). -/
def seatOfTeam (s : State) (lid : Nat) (l : Launch) (idx c : Nat) : Option Seat :=
  if heldBack s lid l c then none
  else
    match savedTeam s l idx with
    | none => seatFor s c l.e
    | some (k, _, _, _) =>
      if (match gangCluster s l.ctx k with | some k => decide (c / 4 = k) | none => true) then seatFor s c l.e else none

/-- The lowest-indexed waiting team. -/
def lowestTeam (l : Launch) : Option Nat := l.waitingTeams.foldl (fun m t => match m with | none => some t | some x => some (min x t)) none

/-- Place the lowest waiting team of a launch on a core, fresh or restored. -/
def placeOn (s : State) (lid : Nat) (l : Launch) (c : Nat) : Option State :=
  match lowestTeam l with
  | none => none
  | some idx =>
    match seatOfTeam s lid l idx c with
    | none => none
    | some z =>
      match savedTeam s l idx with
      | some (k, t, f, ws) => some (placeSaved s lid l k t f ws c z)
      | none => some (placeFresh s lid l idx c z)

/-- The first core in a round from the cursor on which the launch's team can be placed: its place in the list (R369). -/
def roundPlace (s : State) (lid : Nat) (l : Launch) : Option (Nat × State) :=
  let cs := (l.eligible.zipIdx).map (fun p => (p.2, p.1))
  (cs.filter (fun p => decide (l.cursor ≤ p.1)) ++ cs.filter (fun p => decide (p.1 < l.cursor))).findSome? (fun p =>
    (placeOn s lid l p.2).map (fun t => (p.1 + 1, modLaunch t lid (fun l => { l with cursor := p.1 + 1 }))))

/-- All teams of a co-resident launch, or none (R373). -/
def placeWhole (lid : Nat) : Nat → State → Option State
  | 0, s => (match getLaunch s lid with | some l => if l.waitingTeams.isEmpty then some s else none | none => none)
  | n + 1, s =>
    match getLaunch s lid with
    | none => none
    | some l =>
      if l.waitingTeams.isEmpty then some s
      else
        match roundPlace s lid l with
        | some (_, t) => placeWhole lid n t
        | none => none

/-- One move of the distributor for a launch: a team, or a whole co-resident launch. -/
def moveLaunch (s : State) (p : Nat × Launch) : Option State :=
  if flagCoresident p.2 then placeWhole p.1 p.2.waitingTeams.length s else (roundPlace s p.1 p.2).map (fun r => r.2)

/-- What freed cores offer: the lowest freed core to the launches in order (R370). Cores that no launch can use any more are
passed over. -/
def offerFreed (s : State) : List Nat → Option State
  | [] => none
  | c :: r =>
    match (waitingLaunches s).findSome? (fun p =>
      if flagCoresident p.2 then none
      else if p.2.eligible.contains c then placeOn s p.1 p.2 c
      else none) with
    | some t => some (modHub t (fun h => { h with freedCores := c :: r }))
    | none => offerFreed s r

/-- The first launch that can place something does; the procedure of each before it has ended, and begins anew (R369). -/
def moveFirst : List (Nat × Launch) → State → State × Bool
  | [], s => (s, false)
  | p :: r, s =>
    match moveLaunch s p with
    | some t => (t, true)
    | none => moveFirst r (modLaunch s p.1 (fun l => { l with cursor := 0 }))

/-- The distributor's next move, after splits have been asked for, and whether it placed anything: freed cores are offered once
(R370). -/
def nextMove (s : State) : State × Bool :=
  let s := requestSplits s
  match offerFreed s s.hub.freedCores with
  | some t => (t, true)
  | none =>
    let s := modHub s (fun h => { h with freedCores := [] })
    moveFirst (waitingLaunches s) s

/-- Saved teams of a launch set. -/
def savedKeys (s : State) : List Nat := (s.teams.filter (fun t => t.2.saved.isSome)).map (fun t => t.1)

/-- A drop of a pseudo-channel keeps every team saved (R482). -/
def dropRunning (s : State) : Bool := s.hbm.any (fun k => k.2.busy)

/-- The distributor places nothing while queues are not served, or while a pseudo-channel is dropped. -/
def mayPlace (s : State) : Bool := served s && !(dropRunning s)

/-- TEAM_PLACE: the distributor makes its next move, if that restores no saved team. A move that places nothing may still change splits, or
end what it was doing. -/
def execTeamPlace (s : State) : Out :=
  let r := nextMove s
  if mayPlace s && (savedKeys r.1 == savedKeys s) && decide (r.1 ≠ s) then .next r.1 else stall s

/-- TEAM_RESTORE: the distributor's next move is to place this saved team again; all teams of a co-resident launch are restored
at once (R373, R391, R392). -/
def execTeamRestore (key : Nat) (s : State) : Out :=
  let r := nextMove s
  if mayPlace s && (savedKeys s).contains key && r.2 && !((savedKeys r.1).contains key) then .next r.1 else stall s

/-! ## Retirement (R367) -/

/-- A team's resources are free; its core offers them (R370). -/
def freeTeam (s : State) (key : Nat) (t : Team) : State :=
  let s := { s with
    teams := Tbl.del s.teams key
    waves := s.waves.filter (fun p => p.2.team != key)
    cores := s.cores.map (fun k => if k.1 = t.core then (k.1, { k.2 with clearQ := (k.2.clearQ.map (fun q => (q.1, q.2.filter (fun w => !(t.waves.contains w))))).filter (fun q => !q.2.isEmpty) }) else k) }
  modHub s (fun h => { h with freedCores := (h.freedCores.filter (fun c => decide (c < t.core))) ++ [t.core] ++ h.freedCores.filter (fun c => decide (t.core < c)) })

/-- The waves of a team. -/
def teamWaves (s : State) (key : Nat) : List (Nat × Wave) := s.waves.filter (fun p => p.2.team == key)

/-- TEAM_RETIRE: every wave has exited and no engine operation or write is left. -/
def execTeamRetire (key : Nat) (s : State) : Out :=
  match getTeam s key with
  | none => stall s
  | some t =>
    let ws := teamWaves s key
    if t.saved.isNone && !ws.isEmpty && ws.all (fun p => p.2.ctl == .exited && p.2.engine.isEmpty && p.2.stores.isEmpty && p.2.encoderPending == 0) then
      .next (modLaunch (freeTeam s key t) t.lid (fun l => { l with retired := l.retired + 1 }))
    else stall s

/-! ## Frames (R388, R389, R474) -/

/-- Data ranges of the live reserved pseudo-channels, ascending (R473, R474). -/
def reservedRanges (s : State) : List Nat :=
  (List.range 16).flatMap (fun k =>
    let x := getStack s k
    ((reservedChannels x).zipIdx).filterMap (fun p => if x.live / 2 ^ p.1 % 2 = 1 then some (k * 64 * gib + 48 * gib + p.2 * gib) else none))

/-- The i-th aligned block of a size, counted upward from a base, that lies wholly within a range of `len` bytes. -/
def blockFrom (base size len : Nat) : List Nat → Nat → Option Nat
  | [], _ => none
  | r :: rest, i =>
    let first := if base ≤ r then 0 else ceilDiv (base - r) size
    let count := len / size - first
    if i < count then some (r + (first + i) * size) else blockFrom base size len rest (i - count)

/-- Save frame i of a context. -/
def frameAt (s : State) (x : Context) (i : Nat) : Option Nat := blockFrom x.save (4 * 2 ^ 20) chanData (reservedRanges s) i

/-- Snapshot pool unit i of a context. -/
def poolAt (s : State) (x : Context) (i : Nat) : Option Nat := blockFrom x.poolBase (2 ^ 17) chanData (reservedRanges s) i

/-- The lowest free frame of a context. -/
def freeFrame (x : Context) : Option Nat := (List.range x.frames).find? (fun i => !(x.framesUsed.contains i))

/-- The 64 bytes of a path-table entry as a number (R263); an entry that holds no path reads zero. -/
def pathNat (p : PathEntry) : Nat :=
  let st := if p.held ≠ [] then 3 else match p.state with | .running => 0 | .atRegang _ => 1 | .atLend => 2
  let jid := match p.state with | .atRegang j => j | _ => 0
  p.owned.toNat + p.split.toNat * 2 ^ 96 + p.active.toNat * 2 ^ 192 + p.pc % 2 ^ 32 * 2 ^ 288 + p.sig.toNat * 2 ^ 320
    + p.q12.toNat * 2 ^ 352 + p.parent % 16 * 2 ^ 416 + 2 ^ 420 + st * 2 ^ 421 + b2n p.q12Full * 2 ^ 423 + p.join % 128 * 2 ^ 424
    + jid % 256 * 2 ^ 432

/-- The path-table section of a saved wave (R389). -/
def pathSection (w : Wave) : List Byte :=
  (List.range 16).flatMap (fun e => bytesOfNat 64 (match Tbl.find? w.paths e with | some p => pathNat p | none => 0))

/-- Bytes of one wave's sections for `g` granules, and of the team's (R389). -/
def waveFrameBytes (g : Nat) : Nat := 33024 + 3072 * g + roundUp (96 * g) 64

def teamFrameBytes (t : Team) : Nat := 4352 + 16384 + t.spadSize + roundUp (8 * ceilDiv t.spadSize 4096) 64 + 1024 * t.accCount

/-- What a frame shows to a reader: its bytes are open but for the path tables (R389). -/
def writeFrame (s : State) (base : Nat) (t : Team) (g : Nat) (ws : List Wave) : State :=
  let r := freeBytesOf s (teamFrameBytes t + ws.length * waveFrameBytes g)
  let s := writePhys r.2 base r.1
  (ws.zipIdx).foldl (fun s p => writePhys s (base + teamFrameBytes t + p.2 * waveFrameBytes g + 4352) (pathSection p.1)) s

/-! ## Tables at a save (R223) -/

/-- Spill the built tables, or drop them; no version counter moves. -/
def spillTables (spill : Nat) (t : Team) : Team :=
  if spill = 0xFFFFFFFF then
    let drop := fun r : SlotRec => if r.state = .built then { r with state := .dropped, entries := [] } else r
    { t with slots := t.slots.map (fun p => (p.1, drop p.2)), tables := t.tables.map (fun p => (p.1, drop p.2)) }
  else
    t.tables.foldl (fun t p => if p.2.state = .built then { t with spad := cellsWrite 0 t.spad (spill + 16384 * p.1) (slotBytes p.2) } else t) t

/-! ## Saving (R372, R386 to R390) -/

/-- A load or returning atomic in flight waits for what is in the operand log: it is not performed at a save, but held in the log too (R55). -/
def heldByLog (s : State) (wid : Nat) (w : Wave) (a : Access) : Bool :=
  let atomic := match a.kind with | .atomic _ => true | _ => false
  !w.log.isEmpty && a.accTile.isNone && a.lanes.all (fun l =>
    l.ready.isNone && !l.bad && !l.asked && !(laneClear w a atomic l && (!atomic || releasesReady s wid w a)))

/-- An access in flight as an entry of the operand log. -/
def loggedLoad (a : Access) : LogEntry :=
  { body := .access a, actor := a.actor, pc := a.pc, block := a.block, mask := maskOf (a.lanes.map (fun l => l.lane)), seq := a.seq,
    va := (a.lanes.map (fun l => l.addr)).headD 0, entry := 0, awake := true, path := a.path }

/-- Entries in order of issue. -/
def insertEntry (e : LogEntry) : List LogEntry → List LogEntry
  | [] => [e]
  | x :: r => if e.seq < x.seq then e :: x :: r else x :: insertEntry e r

/-- A wave as its image holds it: a wait that has not completed is saved as not issued, an arrival at a barrier is kept; what
is left of a copy is an operation not started; a load that could not be performed is in the operand log (R55, R386, R387). -/
def savedWave (w : Wave) : Wave :=
  { w with
    ctl := match w.ctl with
      | .exited => .exited
      | .barrier n => .barrier n
      | _ => .running
    yielded := false
    loads := []
    log := w.loads.foldl (fun es a => insertEntry (loggedLoad a) es) w.log
    engine := w.engine.map (fun e => if e.injected then e else { e with started := false }) }

/-- An operation stands where a save may take it: not started, at the boundary of a unit of a copy, or injected (R387). -/
def itemSavable (e : EngineItem) : Bool := e.injected || (e.adding.isNone && e.words.isEmpty && e.lines.isEmpty)

/-- No path has an issue of a `.W` instruction still to make; one may be left while the operand log waits for a page, since a save never
waits for a page (R386). Log entry 47. -/
def issuesWhole (w : Wave) : Bool := !w.log.isEmpty || w.paths.all (fun p => p.2.rest.isEmpty)

/-- The wave can be saved: it stands between instructions, its loads are performed or held in the operand log, and no store of it is
performed in part: at a scope below DEVICE, where other waves see it already. The store buffer is saved as it is (R55, R316, R386, R387). -/
def waveSavable (s : State) (wid : Nat) (w : Wave) : Bool :=
  issuesWhole w && w.engine.all itemSavable && w.loads.all (heldByLog s wid w)
    && w.stores.all (fun b => b.perf == 0 || decide (4 ≤ b.perf))

def teamSavable (s : State) (key : Nat) : Bool :=
  let ws := teamWaves s key
  !ws.isEmpty && ws.all (fun p => waveSavable s p.1 p.2)

/-- Save a team into a frame. -/
def saveTeam (s : State) (key : Nat) : Option State :=
  match getTeam s key with
  | none => none
  | some t =>
    match getLaunch s t.lid with
    | none => none
    | some l =>
      match getCtx s l.ctx with
      | none => none
      | some x =>
        match freeFrame x with
        | none => none
        | some i =>
          match frameAt s x i with
          | none => none
          | some base =>
            if t.saved.isNone && teamSavable s key then
              let ws := t.waves.filterMap (fun wid => (getWave s wid).map savedWave)
              let kept := { spillTables l.e.spill t with saved := some (i, ws) }
              let s := writeFrame s base kept (ceilDiv l.e.regs 8) ws
              let s := freeTeam s key t
              let s := { s with teams := Tbl.put s.teams key kept }
              let s := modCtx s l.ctx (fun x => { x with framesUsed := i :: x.framesUsed })
              some (modLaunch s t.lid (fun l => { l with waitingTeams := t.index :: l.waitingTeams, savedTeams := key :: l.savedTeams }))
            else none

/-- Save several teams together, or none. -/
def saveTeams : List Nat → State → Option State
  | [], s => some s
  | k :: r, s => (saveTeam s k).bind (saveTeams r)

/-- Teams that are saved together with a team: those of a co-resident launch (R372, R386). -/
def savedWith (s : State) (key : Nat) : List Nat :=
  match getTeam s key with
  | none => []
  | some t =>
    match getLaunch s t.lid with
    | some l => if flagCoresident l then (s.teams.filter (fun u => u.2.lid == t.lid && u.2.saved.isNone)).map (fun u => u.1) else [key]
    | none => [key]

/-- What the choice of R372 looks at: team, priority, order of start, index. -/
def victimBefore (a b : Nat × Nat × Nat × Nat) : Bool :=
  if a.2.1 ≠ b.2.1 then decide (a.2.1 < b.2.1)
  else if a.2.2.1 ≠ b.2.2.1 then decide (b.2.2.1 < a.2.2.1)
  else decide (b.2.2.2 < a.2.2.2)

def insertVictim (a : Nat × Nat × Nat × Nat) : List (Nat × Nat × Nat × Nat) → List (Nat × Nat × Nat × Nat)
  | [] => [a]
  | b :: r => if victimBefore a b then a :: b :: r else b :: insertVictim a r

/-- A wave of the team stands at a YIELD (R257). -/
def atYield (s : State) (key : Nat) : Bool := (teamWaves s key).any (fun p => p.2.yielded)

/-- Teams on a core that may be saved for a launch of a priority, in the order of R372. -/
def victims (s : State) (prio c : Nat) : List Nat :=
  ((s.teams.filter (fun t => t.2.core == c && t.2.saved.isNone)).filterMap (fun t =>
    match getLaunch s t.2.lid with
    | some l =>
      let room := match getCtx s l.ctx with | some x => (freeFrame x).isSome | none => false
      if room = true ∧ (l.prio < prio ∨ (l.prio = prio ∧ atYield s t.1 = true)) then some (t.1, l.prio, l.order, t.2.index) else none
    | none => none)).foldr insertVictim [] |>.map (fun v => v.1)

/-- The resources of some teams freed, to judge a fit. -/
def withoutTeams (s : State) (ks : List Nat) : State :=
  ks.foldl (fun s k => match getTeam s k with | some t => freeTeam s k t | none => s) s

/-- The contexts of some teams have a free frame for each (R388). -/
def framesFor (s : State) (ks : List Nat) : Bool :=
  let ctxs := ks.filterMap (fun k => (getTeam s k).bind (fun t => (getLaunch s t.lid).map (fun l => l.ctx)))
  ctxs.all (fun c => match getCtx s c with
    | some x => decide ((ctxs.filter (fun d => d == c)).length ≤ ((List.range x.frames).filter (fun i => !(x.framesUsed.contains i))).length)
    | none => false)

/-- The shortest prefix of victims whose saving makes a team fit; one whose teams find no frames is passed over (R372, R388). -/
def prefixFor (s : State) (lid : Nat) (l : Launch) (idx c : Nat) : List Nat → List Nat → Option (List Nat)
  | taken, [] => if (seatOfTeam (withoutTeams s taken) lid l idx c).isSome then some taken else none
  | taken, v :: r =>
    if (seatOfTeam (withoutTeams s taken) lid l idx c).isSome then some taken
    else
      let next := taken ++ (savedWith s v).filter (fun k => !(taken.contains k))
      prefixFor s lid l idx c (if framesFor s next then next else taken) r

/-- The teams that a launch's lowest waiting team makes the distributor save: on the eligible core of lowest id where that
helps (R372). -/
def chosenFor (s : State) (p : Nat × Launch) : Option (List Nat) :=
  match lowestTeam p.2 with
  | none => none
  | some idx =>
    if p.2.eligible.any (fun c => (seatOfTeam s p.1 p.2 idx c).isSome) then none
    else p.2.eligible.findSome? (fun c => prefixFor s p.1 p.2 idx c [] (victims s p.2.prio c))

/-- TEAM_SAVE: a team that R372 chooses is saved, with the others of a co-resident launch; so is every team while a
pseudo-channel is dropped (R482). -/
def execTeamSave (key : Nat) (s : State) : Out :=
  let s' := requestSplits s
  let chosen := dropRunning s || (waitingLaunches s').any (fun p => match chosenFor s' p with | some ks => ks.contains key | none => false)
  if chosen then (match saveTeams (savedWith s key) s with | some t => .next t | none => stall s) else stall s

end Sys2Proof.Machine
end

