-- ==== Sys2Proof/Machine/Logs.lean ====
section
/-! DEFINITION. The operand log and its replay, walkers' monitors, held fault records, snapshot copies and the encoder's writes
(R199, R326, R328 to R330, R400, R466, R467). -/

namespace Sys2Proof.Machine

/-- An earlier entry of the wave names a byte that this one names (R301, R330). -/
def logBehind (s : State) (w : Wave) (e : LogEntry) : Bool :=
  w.log.any (fun x => decide (x.seq < e.seq) && (logRegions x.body).any (fun a => (logRegions e.body).any (locationsMeet s w a)))

/-! ## Replay (R330) -/

/-- An entry leaves the log. -/
def dropEntry (wid seq : Nat) (s : State) : State := modWave s wid (fun w => { w with log := w.log.filter (fun e => e.seq != seq) })

/-- A page is again not present: the entry stays, with the address and the entry of the tables where this walk stopped. -/
def keepEntry (wid seq va entry : Nat) (s : State) : State :=
  modWave s wid (fun w => { w with log := w.log.map (fun e => if e.seq = seq then { e with va := va, entry := entry, awake := false } else e) })

/-- What a replay comes to. -/
inductive Replayed where
  | done (t : State)
  | absent (va entry : Nat)
  | stop (e : Stop)
  deriving DecidableEq, Repr

/-- What an access wants of its pages. -/
def wantOf (a : Access) : Want :=
  match a.kind with
  | .load _ => .read
  | .store => .write
  | .atomic _ => .atomic

/-- Replay an access: its addresses are checked and translated again, and it enters as it would have at issue. -/
def replayAccess (s : State) (wid : Nat) (w : Wave) (seq : Nat) (a : Access) : Replayed :=
  match a.actor with
  | .control _ =>
    (match a.lanes with
     | [] => .stop .wait
     | l :: _ =>
       match reachControl s w (wantOf a) l.addr a.width with
       | .error e => .stop e
       | .ok (.absent n) => .absent l.addr n
       | .ok (.at p) =>
         .done (dropEntry wid seq (setWave s wid (enterAccess { a with lanes := a.lanes.map (fun l => { l with place := p }) } w))))
  | _ =>
    match reachLanes s wid w (wantOf a) a.width (a.lanes.map (fun l => (l.lane, l.addr))) with
    | .error e => .stop e
    | .ok (.absent n va _) => .absent va n
    | .ok (.at ps) => .done (dropEntry wid seq (setWave s wid (enterAccess { a with lanes := placeLanes ps a.lanes } w)))

/-- The effect of a logged instruction with its captured sources, and its destination. -/
def replayInstr (i : Instr) (srcs : List Dword) (s : State) (wid : Nat) (w : Wave) : Res Applied × Option Nat :=
  let a := srcs.headD 0
  let b := srcs.getD 1 0
  match i with
  | .tdef f => (applyTdef f s wid w a, none)
  | .ctload f => (applyCtload f s wid w a, none)
  | .palld f => (applyPalld f s wid w a, none)
  | .dtload f => (applyDtload f s wid w a b, none)
  | .capset f => (applyCapset f s wid w a b, none)
  | .waitev f => (applyWaitev f s wid w a b, some f.d.toNat)
  | .qput f => (applyQput f s wid w a b, some f.d.toNat)
  | .sbload f => (applySbload f s wid w a b, some f.d.toNat)
  | .sbflow f => (applySbflow f s wid w a b, some f.d.toNat)
  | _ => (waits, none)

/-- Replay an entry. The wave it is applied to does not hold the entry itself. -/
def replayEntry (s : State) (wid : Nat) (w : Wave) (e : LogEntry) : Replayed :=
  let w' := { w with log := w.log.filter (fun x => x.seq != e.seq) }
  match e.body with
  | .access a => replayAccess s wid w e.seq a
  | .instr i srcs =>
    let r := replayInstr i srcs s wid w'
    (match r.1 with
     | .error x => .stop x
     | .ok (.absent va n) => .absent va n
     | .ok (.done t v) =>
       .done (modWave (dropEntry wid e.seq t) wid (fun w => match r.2, v with | some d, some x => writeS d x w | _, _ => w)))
  | .tile r =>
    match ctxRec s w with
    | none => .stop .wait
    | some (_, x) =>
      match tileApply (dropEntry wid e.seq s) wid w' x e.actor e.pc e.block e.path e.seq r with
      | .ok t => .done t
      | .error (.absent va n _) => .absent va n
      | .error (.stop x) => .stop x
      | .error (.done _ _) => .stop .wait

/-- Entry `i` of the operand log replays, exactly once; a protection failure or poison is a fault of the instance that issued
it, at its original PC. -/
def execLogReplay (wid i : Nat) (s : State) : Out :=
  match getWave s wid with
  | none => stall s
  | some w =>
    match w.log[i]? with
    | none => stall s
    | some e =>
      if !e.awake || !(launchLive s w) || logBehind s w e || (logReleases e && decide (0 < i)) then stall s
      else
        match replayEntry s wid w e with
        | .done t => .next t
        | .absent va n => .next (keepEntry wid e.seq va n s)
        | .stop .wait => stall s
        | .stop (.request p a) => requestLine s (jobOf s w) p a
        | .stop (.evict l) => evictLine s l
        | .stop (.fault c d m u) =>
          .next (takeFault (dropEntry wid e.seq s) e.actor (standingAt s e.actor e.pc e.block e.path e.mask) (u.getD (unitFor s e.actor c)) c d m false)

/-! ## Monitors (R68, R329) -/

/-- The monitor of a line, or with no line any timer, wakes what waits at an entry. -/
def wakesAt (line : Option Nat) (entry : Nat) : Bool := match line with | some l => decide (entry / 128 = l) | none => true

/-- What a walker does for what waits in a wave: it walks the tables again, and the wait goes on where the walk stops now. -/
def wakeWave (s : State) (line : Option Nat) (log : Nat → Bool) (fetch : Bool) (w : Wave) : Wave :=
  let again := fun (f : Option (Nat × Nat)) => match f with
    | some (va, e) => if fetch && wakesAt line e then againFetch s w (some (va, e)) else some (va, e)
    | none => none
  { w with
    log := (w.log.zipIdx).map (fun p => if log p.2 && wakesAt line p.1.entry then walkEntry s w p.1 else p.1)
    fetchWait := again w.fetchWait
    paths := w.paths.map (fun p => (p.1, { p.2 with fetchWait := again p.2.fetchWait }))
    conts := w.conts.map (fun k => (k.1, { k.2 with fetchWait := again k.2.fetchWait })) }

/-- A write to a monitored line of page-table entries wakes the walkers, which walk again (R329). -/
def execWalkerMonitorWake (line : Nat) (s : State) : Out :=
  let t := { s with waves := s.waves.map (fun p => (p.1, wakeWave s (some line) (fun _ => true) true p.2)) }
  if t.waves = s.waves then stall s else .next t

/-- A walker without a free monitor walks again: for log entry `i` of the wave, or from 8 up for its fetches. -/
def execWalkerRewalkTimer (wid i : Nat) (s : State) : Out :=
  match getWave s wid with
  | none => stall s
  | some w =>
    let u := wakeWave s none (fun k => k == i) (decide (8 ≤ i)) w
    if u = w then stall s else .next (setWave s wid u)

/-! ## Held records (R326) -/

/-- The first held record whose release is complete, and the others. -/
def firstHeld (s : State) : List FaultRecord → Option (FaultRecord × List FaultRecord)
  | [] => none
  | r :: rest => if recordReady s r then some (r, rest) else (firstHeld s rest).map (fun q => (q.1, r :: q.2))

/-- The oldest held record whose release is complete is written once the fault queue has a free slot (R325, R326). -/
def execFaultRecordHeldWrite (c : Nat) (s : State) : Out :=
  match getCtx s c with
  | none => stall s
  | some x =>
    match firstHeld s x.heldFaults with
    | none => stall s
    | some (r, rest) =>
      if faultRoom x then
        let x := { x with heldFaults := rest }
        .next (putFault { s with contexts := Tbl.put s.contexts c x } c x r)
      else stall s

/-! ## Snapshot copies (R400, R466, R467) -/

/-- Physical addresses of `n` consecutive units of a pool, from unit `i`; none when the pool is too small. -/
def poolUnits (s : State) (x : Context) (i : Nat) : Nat → Option (List Nat)
  | 0 => some []
  | n + 1 =>
    match poolAt s x i, poolUnits s x (i + 1) n with
    | some a, some r => some (a :: r)
    | _, _ => none

/-- Copy lines with their poison, one at a time, to a page of a class. -/
def copyPhysLines (cls : Nat) (s : State) (src dst : Nat) : Nat → State
  | 0 => s
  | n + 1 =>
    let t := copyPhysLines cls s src dst n
    writePhysCls t cls (dst + 128 * n) (readPhys t (src + 128 * n) 128) (bytesPoisoned t (src + 128 * n) 128)

/-- The page at an address of an armed context is copied to the pool, and its leaf takes the context's generation; a pool with
too few units kills the launch. -/
def execSnapshotPageCopy (c va : Nat) (s : State) : Out :=
  match getCtx s c with
  | none => stall s
  | some x =>
    match x.armed, walkCtx s x (va % 2 ^ 56) with
    | some lid, .leaf l =>
      if l.remote || !l.w || l.gen == x.generation || !(livePhys s l.addr) then stall s
      else
        let n := 2 ^ l.shift / 2 ^ 17
        match getLaunch s lid with
        | none => stall s
        | some y =>
          if y.ending.isSome then stall s
          else if x.pool < x.poolUsed + n then
            .next (writeFault s c
              { timebase := s.timebase, qentry := y.qentry, detail := x.pool, block := 0, mask := 0, pc := 0, unit := 7 * 4096, wave := 0,
                ends := true, deferred := false, cont := false, path := 0, stream := false, code := 0x12, lid := some lid })
          else
            match poolUnits s x x.poolUsed n with
            | none => stall s
            | some us =>
              let page := l.addr / 2 ^ l.shift * 2 ^ l.shift
              let t := (us.zipIdx).foldl (fun t p => copyPhysLines 1 t (page + p.2 * 2 ^ 17) p.1 1024) s
              let e := readPhysNat t l.entry 8
              let t := writePhys t l.entry (bytesOfNat 8 (e % 2 ^ 48 + x.generation * 2 ^ 48))
              .next (dropLeaf (modCtx t c (fun x =>
                { x with snapshots := x.snapshots ++ [(page, 2 ^ l.shift, x.poolUsed, l.cls)], poolUsed := x.poolUsed + n })) x.ptroot (va % 2 ^ 56) e)
    | _, _ => stall s

/-! ## The encoder (R197, R199) -/

/-- The open tile that `o` was: of its tensor as defined by the same descriptor, completed by the same wave. -/
def sameTile (o z : OpenTile) : Bool :=
  z.complete == o.complete && z.tid == o.tid && z.t.addr == o.t.addr && z.row == o.row && z.col == o.col

/-- Change an open tile of a team. -/
def modTile (s : State) (team : Nat) (o : OpenTile) (f : OpenTile → Option OpenTile) : State :=
  modTeam s team (fun t => { t with openTiles := t.openTiles.filterMap (fun z => if sameTile o z then f z else some z) })

/-- The tile leaves the encoder; its completing wave's count falls (R199). -/
def closeTile (s : State) (team uid : Nat) (o : OpenTile) : State :=
  modUid (modTile s team o (fun _ => none)) uid (fun w => { w with encoderPending := w.encoderPending - 1 })

/-- The tile is discarded with an asynchronous error. -/
def discardTile (s : State) (team uid : Nat) (o : OpenTile) (code member : Nat) : State :=
  recordAsync (closeTile s team uid o) uid code member

/-- The engine item under whose number the encoder's packets travel. -/
def encoderItem (w : Wave) : EngineItem :=
  { id := 0, pc := 0, op := .mclr 0 0, batch := none, started := true, progress := 0, injected := false, failed := [], seq := w.seq, hazard := 0 }

/-- The blocks of a complete tile in ascending order. -/
def tileBlocks (o : OpenTile) : List StagedBlock := o.blocks.map (fun b => b.2)

/-- The code and package that a failed write of the encoder records. -/
def encoderCode (s : State) : RangeStop → Option (Nat × Nat)
  | .denied _ => some (0x0B, s.pkg)
  | .outside _ => some (0x0B, s.pkg)
  | .poisoned _ _ => some (0x17, s.pkg)
  | _ => none

/-- What fails a write of the encoder before it begins: poisoned memory, or a peer that is unreachable (R199, R415). -/
def encoderBlocked (s : State) (w : Wave) (x : Context) (stop : Nat) : Nat → Nat → Option (Nat × Nat)
  | 0, _ => none
  | n + 1, addr =>
    let k := min (128 - addr % 128) (stop - addr)
    if k = 0 then none
    else
      match writeTarget s w x addr k with
      | .ok (.remote q _) => if s.fabric.unreachable.contains (q % 65536) then some (0x0B, q % 65536) else encoderBlocked s w x stop n (addr + k)
      | .ok p => if placePoisoned s p k then some (0x17, s.pkg) else encoderBlocked s w x stop n (addr + k)
      | .error _ => encoderBlocked s w x stop n (addr + k)

/-- One of the writes of a tile, then what follows it; a write that fails discards the tile. -/
def encoderWrite (s : State) (wid : Nat) (w : Wave) (x : Context) (o : OpenTile) (addr : Nat) (bs : List Byte) (k : State → State) : Out :=
  match encoderBlocked s w x (addr + bs.length) (bs.length / 128 + 2) addr with
  | some (c, m) => .next (discardTile s w.team w.uid o c m)
  | none =>
    match engineWriteAll s wid w x (encoderItem w) addr (cleanBytes bs) with
    | .ok t => .next (k t)
    | .error (.peers l) => evictLine s l
    | .error e => (match encoderCode s e with
      | some c => .next (discardTile s w.team w.uid o c.1 c.2)
      | none => stall s)

/-- Packets of the encoder for the wave's tiles that are not acknowledged. -/
def encoderOut (s : State) (w : Wave) : Bool :=
  s.fabric.sent.any (fun p => match p.2.purpose with | .copy uid 0 _ => uid == w.uid | _ => false)

/-- The tile's next write has been made. -/
def tilePhase (team : Nat) (o : OpenTile) (n : Nat) (s : State) : State := modTile s team o (fun z => some { z with phase := n })

/-- Steps 2 and 3: the stream, and behind it the block-index entry; a peer has acknowledged the one before the other is sent, and the tile
is open until it has acknowledged both (R199, R415). -/
def encoderPublish (s : State) (wid : Nat) (w : Wave) (x : Context) (o : OpenTile) (p : Nat) : Out :=
  let st := formStream o.ct (tileBlocks o)
  let entry := p / 16 + st.2.1 * 2 ^ 36 + b2n st.1 * 2 ^ 61
  if p % 16 ≠ 0 ∨ 2 ^ 36 ≤ p / 16 then .next (discardTile s w.team w.uid o 0x12 s.pkg)
  else if encoderOut s w then stall s
  else
    match o.phase with
    | 0 => encoderWrite s wid w x o (tensorAddr o.t (o.t.base + p)) st.2.2 (tilePhase w.team o 1)
    | 1 => encoderWrite s wid w x o (indexEntryAt o.t o.row o.col) (bytesOfNat 8 entry) (fun t =>
        if encoderOut t w then tilePhase w.team o 2 t else closeTile t w.team w.uid o)
    | _ => .next (closeTile s w.team w.uid o)

/-- Step 1: the space is taken from the append pointer. -/
def encoderAppend (s : State) (wid : Nat) (w : Wave) (x : Context) (o : OpenTile) : Out :=
  let st := formStream o.ct (tileBlocks o)
  let n := 16 * ceilDiv st.2.1 128
  let at_ := o.t.addr + 24
  match writeTarget s w x at_ 8 with
  | .error e => (match encoderCode s e with | some c => .next (discardTile s w.team w.uid o c.1 c.2) | none => stall s)
  | .ok (.remote q a) =>
    if s.fabric.unreachable.contains (q % 65536) then .next (discardTile s w.team w.uid o 0x0B (q % 65536))
    else if o.asked || !(lineFree s q a) || !(decide (atomicsOut s q a < 1024)) then stall s
    else
      .next (modTile (sendAtomic s w .add q a 8 0 n 0 false (.encode w.team w.uid o.tid o.t.addr o.row o.col)) w.team o
        (fun o => some { o with asked := true }))
  | .ok p =>
    if ownStoreWaits w w.seq p 8 || narrowMeets s (engineOf wid) p 8 then stall s
    else if peersHolding s p 8 then evictLine s (placeLine p)
    else if placePoisoned s p 8 then .next (discardTile s w.team w.uid o 0x17 s.pkg)
    else
      let old := natOfBytes (readBase s p 8)
      let bs := bytesOfNat 8 (old + n)
      .next (modTile (coreL1Write (allocWritten (writePlace s p bs false) wid w p at_ 8 0) (coreOf wid) p bs) w.team o (fun o => some { o with append := some old }))

/-- The encoder takes its next step for the oldest tile that the wave has completed: it takes space, then writes the stream and
publishes the entry. -/
def execEncoderTileWrite (wid : Nat) (s : State) : Out :=
  match getWave s wid with
  | none => stall s
  | some w =>
    match getTeam s w.team, ctxRec s w with
    | some t, some (_, x) =>
      if underTest s 6 (clusterOf wid) then stall s else
      (match List.find? (fun o : OpenTile => o.complete == some w.uid) t.openTiles with
       | none => stall s
       | some o =>
         match o.append with
         | some p => encoderPublish s wid w x o p
         | none => encoderAppend s wid w x o)
    | _, _ => stall s

end Sys2Proof.Machine
end

