-- ==== Sys2Proof/Machine/Ends.lean ====
section
/-! DEFINITION. How a launch ends before its time: the watchdog, a kill, a rollback (R335, R336, R375, R376, R464, R468 to R470). -/

namespace Sys2Proof.Machine

/-! ## What a control stream waits for (R376) -/

/-- The s registers that a control-stream instruction needs: sources with their e bits, destinations. -/
def ctlOperands (i : Instr) : List (Nat × Bool) × List Nat :=
  match i with
  | .sadd f | .ssub f | .smul f | .smulhs f | .smulhu f | .sdivs f | .sdivu f | .srems f | .sremu f | .sand f | .sor f | .sxor f
  | .sandn f | .sshl f | .sshr f | .ssra f | .smins f | .smaxs f | .sminu f | .smaxu f | .sslts f | .ssltu f | .sseq f =>
    ([(f.a.toNat, f.ea), (f.b.toNat, f.eb)], [f.d.toNat])
  | .sclz f | .spopc f => ([(f.a.toNat, f.ea)], [f.d.toNat])
  | .ret f | .jr f => ([(f.a.toNat, f.ea)], [])
  | .recv f => ([], [f.d.toNat])
  | .sext f | .zext f | .saddi f | .sandi f | .sori f | .sxori f | .sshli f | .sshri f | .ssrai f | .sslti f =>
    ([(f.a.toNat, f.ea)], [f.d.toNat])
  | .trap f => ([(f.a.toNat, f.ea)], [])
  | .fencea f => ([], [f.d.toNat])
  | .sli f => ([], [f.d.toNat])
  | .slih f | .saddl f => ([(f.a.toNat, f.ea)], [f.d.toNat])
  | .slea f => ([(f.a.toNat, f.ea), (f.b.toNat, f.eb)], [f.d.toNat])
  | .sld f => ([(f.a.toNat, f.ea)], [f.d.toNat])
  | .sst f => ([(f.a.toNat, f.ea), (f.b.toNat, f.eb)], [])
  | .satom f => ([(f.a.toNat, f.ea), (f.b.toNat, f.eb)], [f.d.toNat])
  | .scas f => ([(f.a.toNat, f.ea), (f.b.toNat, f.eb), (f.d.toNat, false)], [f.d.toNat])
  | .sprf f => ([(f.a.toNat, f.ea)], [])
  | .call _ => ([], [62])
  | .beq f | .bne f | .blts f | .bges f | .bltu f | .bgeu f => ([(f.a.toNat, f.ea), (f.b.toNat, f.eb)], [])
  | .loop f => ([(f.a.toNat, f.ea)], [f.a.toNat])
  | .srs f => ([], [f.r.toNat])
  | .sws f => ([(f.r.toNat, f.ea)], [])
  | .tdef f | .ctload f | .palld f | .gangset f => ([(f.a.toNat, f.ea)], [])
  | .mtab f | .mxpq f | .mout f => ([(f.a.toNat, f.ea), (f.b.toNat, f.eb)], [])
  | .mlut f | .mlutg f | .cpt f | .cpg f | .cps f | .cpb f | .cpmc f | .send f =>
    ([(f.a.toNat, f.ea), (f.b.toNat, f.eb), (f.c.toNat, f.ec)], [])
  | .mtest f | .chpoll f => ([], [f.d.toNat])
  | .chpost f | .waitev f | .sbload f | .sbflow f => ([(f.a.toNat, f.ea), (f.b.toNat, f.eb)], [f.d.toNat])
  | .qput f => ([(f.a.toNat, f.ea)], [f.d.toNat])
  | .dtload f | .capset f => ([(f.a.toNat, f.ea), (f.b.toNat, f.eb)], [])
  | _ => ([], [])

/-- A waiting instruction that cannot complete now: its queue is full, or what it waits for has not come (R376). -/
def ctlStalled (w : Wave) (i : Instr) : Bool :=
  match i with
  | .lwait _ => !(lwaitDone w)
  | .mwait f => batchPending w f.aux.toNat && w.engineFault.isNone
  | .mbatch f => batchPending w f.aux.toNat
  | .fence _ | .fenceo _ | .fencea _ => !(quiet w)
  | .exit _ => !(quiet w) || !w.engine.isEmpty || !w.stores.isEmpty
  | .sws f => f.num.toNat != 0x042 && !(lwaitDone w)
  | .recv _ => decide (8 ≤ w.recvs.length)
  | .lane _ => decide (8 ≤ w.laneQueue.length)
  | .mclr _ | .mtab _ | .mlut _ | .mlutg _ | .mxpq _ | .mout _ | .tbdrop _ => !(queueFree w true)
  | .cpt _ | .cpg _ | .cps _ | .cpb _ | .cpmc _ | .send _ => !(queueFree w false)
  | _ => false

/-- The state field of a control stream's watchdog record: 3 held, 1 waiting, 0 issuing (R376). -/
def ctlCode (s : State) (wid : Nat) (w : Wave) : Nat :=
  if w.held ≠ [] then 3
  else
    match w.ctl with
    | .running =>
      (match launchOf s w, ctxRec s w with
       | some (_, l), some (_, x) =>
         (match fetchInstr s x w.decode false (fetchAddr s (.control wid) w l) with
          | .instr i =>
            let o := ctlOperands i
            if ctlStalled w i || !(o.1.all (fun p => p.2 || sFull w p.1) && o.2.all (sFull w)) then 1 else 0
          | _ => 0)
       | _, _ => 0)
    | .clearing => 0
    | .exited => 0
    | _ => 1

/-! ## The watchdog (R375, R376) -/

/-- State code of a path or continuation (R263). -/
def pathCode (held : List Nat) (st : PathState) : Nat :=
  if held ≠ [] then 3 else match st with | .running => 0 | .atRegang _ => 1 | .atLend => 2

/-- An instance that a watchdog names: its actor, and the fields join, join_id and state. -/
structure Watched where
  actor : Actor
  join : Nat
  jid : Nat
  state : Nat
  deriving DecidableEq, Repr

/-- The control stream, the paths and the continuations of a wave, in this order. -/
def watchedOf (s : State) (p : Nat × Wave) : List Watched :=
  { actor := .control p.1, join := 0, jid := 0, state := ctlCode s p.1 p.2 }
    :: p.2.paths.map (fun e => { actor := .path p.1 e.1, join := e.2.join, jid := joinIdOf e.2.state, state := pathCode e.2.held e.2.state })
    ++ p.2.conts.map (fun k => { actor := .cont p.1 k.1, join := 0, jid := 0, state := pathCode k.2.held k.2.state })

/-- Every instance of the live waves of a launch, in ascending WAVEID. -/
def watchedAll (s : State) (lid : Nat) : List Watched :=
  (s.waves.filter (fun p => p.2.ctl != .exited && (match getTeam s p.2.team with | some t => t.lid == lid | none => false))).flatMap (watchedOf s)

/-- Detail of a 0x19 record. -/
def watchDetail (reason : Nat) (z : Watched) (index count elapsed : Nat) : Nat :=
  reason + z.state % 4 * 2 ^ 8 + z.jid % 256 * 2 ^ 16 + z.join % 128 * 2 ^ 24 + index % 2 ^ 16 * 2 ^ 32 + count % 2 ^ 16 * 2 ^ 48
    + elapsed % 2 ^ 64 * 2 ^ 64

/-- The records of a firing, in order: the first ends the launch. -/
def watchRecords (s : State) (lid : Nat) (l : Launch) (reason : Nat) : List FaultRecord :=
  let zs := watchedAll s lid
  (zs.zipIdx).map (fun p =>
    let st := standing s p.1.actor
    { faultRecord s p.1.actor st (actorUnit s p.1.actor) 0x19 (watchDetail reason p.1 p.2 zs.length l.elapsed) none false (p.2 == 0) with
      lid := if p.2 = 0 then some lid else none })

/-- A fault of a suspected hardware unit is recorded for the launch too (R335). -/
def hardwareHeld (s : State) (l : Launch) (lid : Nat) : Bool :=
  match getCtx s l.ctx with
  | some x => x.heldFaults.any (fun r => r.lid == some lid && r.ends && faultClass r.code (flagRestartable l) == .rollsBack)
  | none => false

/-- The watchdog's condition and its reason (R375). -/
def watchReason (l : Launch) : Option Nat :=
  if l.state ≠ .running ∨ l.started = false ∨ l.ending.isSome ∨ l.retired = l.e.teams then none
  else if flagPersistent l then (if l.hbLeft = 0 then some 0 else none)
  else if l.e.timeLimit ≤ l.elapsed then some 1 else none

/-- WATCHDOG_FIRE: every instance of the launch's live waves has its record, and the launch is killed, or rolled back when a
hardware error is recorded too (R335, R375). -/
def execWatchdogFire (lid : Nat) (s : State) : Out :=
  match getLaunch s lid with
  | none => stall s
  | some l =>
    match watchReason l with
    | none => stall s
    | some reason =>
      let rb := flagRestartable l && hardwareHeld s l lid && decide (l.rollbacks < 3)
      let t := endLaunch s lid (if rb then .rollback none else .kill)
      .next ((watchRecords s lid l reason).foldl (fun t r => writeFault t l.ctx r) t)

/-! ## The end of a launch (R336, R468, R470) -/

/-- Keys of a launch's placed teams. -/
def placedTeams (s : State) (lid : Nat) : List Nat := (s.teams.filter (fun t => t.2.lid == lid && t.2.saved.isNone)).map (fun t => t.1)

/-- Keys of all its teams. -/
def allTeams (s : State) (lid : Nat) : List Nat := (s.teams.filter (fun t => t.2.lid == lid)).map (fun t => t.1)

/-- The command processor stops a launch (R336): no instance of it issues any more, what its engines have not started is cancelled, and every
operand log is discarded without replay. -/
def stopLaunch (s : State) (lid : Nat) : State :=
  let s := (placedTeams s lid).foldl (fun s k => (teamWaves s k).foldl (fun s p => cancelUnstarted s p.1) s) s
  let s := { s with waves := s.waves.map (fun p => (p.1, match getTeam s p.2.team with | some t => if t.lid = lid then { p.2 with log := [] } else p.2 | none => p.2)) }
  modLaunch s lid (fun l => { l with stopped := true })

/-- What a wave has issued is over: its started engine operations are complete, its atomics have acted, and its stores are performed here or
on their way to their homes. -/
def waveStopped (w : Wave) : Bool :=
  w.engine.all (fun e => !e.started || e.injected) && w.loads.all (fun a => match a.kind with | .atomic _ => false | _ => true)
    && w.stores.all (fun b => decide (4 ≤ b.perf) || (match b.place with | .remote _ _ => b.sent.isSome | _ => false))

/-- The launch stands still, and its records are written. -/
def launchStopped (s : State) (lid : Nat) (l : Launch) : Bool :=
  (match getCtx s l.ctx with | some x => x.heldFaults.all (fun r => r.lid != some lid) | none => true) &&
  (placedTeams s lid).all (fun k => (teamWaves s k).all (fun p => waveStopped p.2))

/-- A saved team leaves, with its frame. -/
def dropSaved (s : State) (l : Launch) (key : Nat) : State :=
  match getTeam s key with
  | none => s
  | some t =>
    let s := { s with teams := Tbl.del s.teams key }
    match t.saved with
    | some (frame, _) => modCtx s l.ctx (fun x => { x with framesUsed := x.framesUsed.filter (fun i => i != frame) })
    | none => s

/-- Every team, frame and window write of the launch is gone; an operation that has not started is cancelled, and the operand
logs are discarded (R336). Peers' lines held as poisoned are asked for again. -/
def freeLaunch (s : State) (lid : Nat) (l : Launch) : State :=
  let uids := ((allTeams s lid).flatMap (fun k => match getTeam s k with
    | some t => (match t.saved with | some (_, ws) => ws.map (fun w => w.uid) | none => (teamWaves s k).map (fun p => p.2.uid))
    | none => []))
  let s := (placedTeams s lid).foldl (fun s k => match getTeam s k with | some t => freeTeam s k t | none => s) s
  let s := (allTeams s lid).foldl (fun s k => dropSaved s l k) s
  let bad := s.fabric.copies.filter (fun c => c.2.2)
  { s with windowWrites := s.windowWrites.filter (fun z => !(uids.contains z.uid))
           clusters := s.clusters.map (fun k =>
             (k.1, { k.2 with l2 := k.2.l2.filter (fun r => !(bad.any (fun c => r.1 == peerLines + c.1 / 128))) }))
           fabric := { s.fabric with copies := s.fabric.copies.filter (fun c => !c.2.2) } }

/-- LAUNCH_KILL: the launch is stopped; once it stands still nothing is restored, and its resources are freed; its completion follows (R336,
R470). -/
def execLaunchKill (lid : Nat) (s : State) : Out :=
  match getLaunch s lid with
  | none => stall s
  | some l =>
    if l.state = .running ∧ l.ending = some .kill ∧ l.stopped = false then .next (stopLaunch s lid)
    else if l.state = .running ∧ l.ending = some .kill ∧ launchStopped s lid l = true then
      .next (modLaunch (freeLaunch s lid l) lid (fun x =>
        { x with state := .killed, donePending := true, waitingTeams := [], savedTeams := [], ending := none, stopped := false }))
    else stall s

/-- No packet of the launch is unacknowledged, of its saved waves either. -/
def launchQuiet (s : State) (lid : Nat) : Bool :=
  !(launchPackets s lid) && (allTeams s lid).all (fun k => match getTeam s k with
    | some t => (match t.saved with
      | some (_, ws) => ws.all (fun w => remoteCopies s w == 0 && w.stores.all (fun b => b.sent.isNone))
      | none => true)
    | none => true)

/-- Lines that a snapshot restores, held by peers. -/
def snapshotHeld (s : State) (x : Context) : Option Nat :=
  x.snapshots.findSome? (fun p => (List.find? (fun e : Nat × List (Nat × Nat × Nat) => !e.2.isEmpty && decide (p.1 / 128 ≤ e.1) && decide (e.1 < (p.1 + p.2.1) / 128)) s.fabric.directory).map (fun e => e.1))

/-- Every pool page is copied back to its physical address (R468). -/
def restorePages (s : State) (x : Context) : State :=
  let s := x.snapshots.foldl (fun s p =>
    match poolUnits s x p.2.2.1 (p.2.1 / 2 ^ 17) with
    | some us => (us.zipIdx).foldl (fun s u => copyPhysLines p.2.2.2 s u.1 (p.1 + u.2 * 2 ^ 17) 1024) s
    | none => s) s
  { s with cores := s.cores.map (fun k =>
      (k.1, { k.2 with l1 := k.2.l1.filter (fun e => !(x.snapshots.any (fun p => decide (p.1 / 128 ≤ e.1) && decide (e.1 < (p.1 + p.2.1) / 128)))) })) }

/-- LAUNCH_ROLLBACK: the launch is stopped; once it stands still its pages are restored, its resources are freed, and it is enqueued again at its queue's head,
without the blamed core (R464, R468). -/
def execLaunchRollback (lid : Nat) (s : State) : Out :=
  match getLaunch s lid with
  | none => stall s
  | some l =>
    match l.ending, getCtx s l.ctx with
    | some (.rollback blamed), some x =>
      if l.state = .running ∧ l.stopped = false then .next (stopLaunch s lid)
      else if l.state = .running ∧ launchStopped s lid l = true ∧ launchQuiet s lid = true then
        match snapshotHeld s x with
        | some line => evictLine s line
        | none =>
          let t := disarm (freeLaunch (if x.armed = some lid then restorePages s x else s) lid l) lid l
          .next (modLaunch t lid (fun y =>
            { y with state := .waiting, phase := 1, installed := 0, requeued := true, ending := none, stopped := false, rollbacks := y.rollbacks + 1,
                     excluded := (match blamed with | some c => [c] | none => []) ++ y.excluded, waitingTeams := [], savedTeams := [],
                     eligible := [], retired := 0, started := false, elapsed := 0, hbLeft := 0, cursor := 0 }))
      else stall s
    | _, _ => stall s

end Sys2Proof.Machine
end

