-- ==== Sys2Proof/Machine/Contexts.lean ====
section
/-! DEFINITION. The control interface of contexts: its commands, and replay intervals (R331, R345 to R347, R350, R354, R355, R357,
R379 to R385, R398, R400, R474). -/

namespace Sys2Proof.Machine

/-! ## Control blocks (R379 to R381) -/

def getBlock (s : State) (c : Nat) : ControlBlock := (Tbl.find? s.hub.blocks c).getD ControlBlock.reset

def modBlock (s : State) (c : Nat) (f : ControlBlock → ControlBlock) : State :=
  modHub s (fun h => { h with blocks := Tbl.put h.blocks c (f ((Tbl.find? h.blocks c).getD ControlBlock.reset)) })

/-- What a command comes to: done with a new state, refused, or still running. -/
inductive Commanded where
  | done (t : State)
  | refused
  | running
  deriving DecidableEq, Repr

/-- A command ends with its result; while it runs the block is busy, and a command written meanwhile is ignored. -/
def commandBlock (s : State) (c code : Nat) (r : Commanded) : Out :=
  let b := getBlock s c
  if b.busy = true ∧ b.command ≠ code then .next (modBlock s c (fun b => { b with result := 2 }))
  else
    match r with
    | .done t => .next (modBlock t c (fun b => { b with command := code, busy := false, result := 0 }))
    | .refused => .next (modBlock s c (fun b => { b with command := code, busy := false, result := 1 }))
    | .running => if b.busy then stall s else .next (modBlock s c (fun b => { b with command := code, busy := true }))

/-- A command that is refused for a context that does not exist (R381). -/
def onContext (s : State) (c : Nat) (k : Context → Commanded) : Commanded :=
  match getCtx s c with
  | some x => k x
  | none => .refused

/-! ## Create and destroy (R382 to R384, R474) -/

/-- The runs of addresses that `count` blocks of a size take, counted upward from a base over the data ranges, and how many blocks
find no place. -/
def areaRuns (base size : Nat) : List Nat → Nat → List (Nat × Nat) × Nat
  | [], count => ([], count)
  | r :: rest, count =>
    let first := if base ≤ r then 0 else ceilDiv (base - r) size
    let take := min (chanData / size - first) count
    let q := areaRuns base size rest (count - take)
    if take = 0 then q else ((r + first * size, take * size) :: q.1, q.2)

def runsMeet (a b : List (Nat × Nat)) : Bool := a.any (fun x => b.any (fun y => rangesMeet x.1 x.2 y.1 y.2))

/-- The blocks of a context's save area and pool. -/
def contextRuns (s : State) (x : Context) : List (Nat × Nat) :=
  (areaRuns x.save (4 * 2 ^ 20) (reservedRanges s) x.frames).1 ++ (areaRuns x.poolBase (2 ^ 17) (reservedRanges s) x.pool).1

/-- The management controller's region (R474, R492). -/
def mgmtRuns (s : State) : List (Nat × Nat) :=
  (areaRuns s.hub.mgmtBase (4 * 2 ^ 20) (reservedRanges s) (s.hub.mgmtLen / (4 * 2 ^ 20))).1

/-- The layout of a context's areas is possible. -/
def areasOk (s : State) (x : Context) : Bool :=
  let rs := reservedRanges s
  let inRange := fun a : Nat => rs.any (fun r => decide (r ≤ a) && decide (a < r + chanData))
  inRange x.save && inRange x.poolBase && (areaRuns x.save (4 * 2 ^ 20) rs x.frames).2 == 0 && (areaRuns x.poolBase (2 ^ 17) rs x.pool).2 == 0
    && s.contexts.all (fun p => !(runsMeet (contextRuns s x) (contextRuns s p.2))) && !(runsMeet (contextRuns s x) (mgmtRuns s))

/-- The context of a descriptor, if its fields keep R382. -/
def descriptorContext (bs : List Byte) : Option Context :=
  let n := fun i k => natOfBytes ((bs.drop i).take k)
  let ok := decide (n 0 8 % 4096 = 0) && decide (n 8 8 % 64 = 0) && decide (6 ≤ n 16 1 ∧ n 16 1 ≤ 16) && decide (6 ≤ n 17 1 ∧ n 17 1 ≤ 20)
    && decide (n 18 1 < 2) && decide (n 19 1 = 0) && decide (n 20 2 < 4096) && decide (n 22 2 = 0) && decide (n 24 8 % 64 = 0)
    && decide (n 32 8 % (4 * 2 ^ 20) = 0) && decide (n 40 4 ≤ 65536) && decide (n 48 8 % 4096 = 0) && decide (n 56 8 % 2 ^ 17 = 0)
  if ok then
    some { newContext (n 0 8) (n 8 8) (n 16 1) (n 17 1) (decide (n 18 1 = 1)) (n 20 2) (n 24 8) (n 32 8) (n 40 4) (n 44 4) (n 48 8) with
      poolBase := n 56 8 }
  else none

/-- Create. -/
def createContext (s : State) (c : Nat) : Commanded :=
  let a := (getBlock s c).cdesc.toNat
  if c = 0 ∨ 1024 ≤ c ∨ (getCtx s c).isSome ∨ a % 64 ≠ 0 ∨ bytesPoisoned s a 64 = true then .refused
  else
    match descriptorContext (readPhys s a 64) with
    | none => .refused
    | some x =>
      if areasOk s x && s.contexts.all (fun p => p.2.job != x.job) then .done { s with contexts := Tbl.put s.contexts c x } else .refused

/-- A launch is over. -/
def launchOver (l : Launch) : Bool :=
  !l.donePending && l.cpWait.isNone && (match l.state with | .complete | .killed | .cancelled | .refused => true | _ => false)

/-- Nothing of the context is enqueued, placed or saved. -/
def contextIdle (s : State) (c : Nat) : Bool :=
  s.hub.queues.all (fun q => q.2.ctx != c || !q.2.enable || enqueued q.2 == 0) && s.launches.all (fun l => l.2.ctx != c || launchOver l.2)

/-- Destroy. -/
def destroyContext (s : State) (c : Nat) : Commanded :=
  onContext s c fun _ =>
    if contextIdle s c then .done { s with contexts := Tbl.del s.contexts c, launches := s.launches.filter (fun l => l.2.ctx != c) } else .refused

/-! ## Hold and release (R350) -/

/-- What a hold or release names. -/
structure Stopped where
  qentry : Nat
  wid : Nat
  entry : Nat
  lane : Bool
  level : Nat
  deriving DecidableEq, Repr

def stoppedOf (b : ControlBlock) : Stopped :=
  let p := b.param1.toNat
  { qentry := b.param0.toNat, wid := p % 2 ^ 14, entry := p / 2 ^ 14 % 16, lane := decide (p / 2 ^ 18 % 2 = 1), level := p / 2 ^ 19 % 4 }

/-- Every instance of a wave, and what starts in it from now on, has one stop more of a level: 1 of the wave, 2 of the launch. -/
def holdWave (level : Nat) (w : Wave) : Wave :=
  { w with held := level :: w.held, stops := level :: w.stops,
           paths := w.paths.map (fun p => (p.1, { p.2 with held := level :: p.2.held })),
           conts := w.conts.map (fun k => (k.1, { k.2 with held := level :: k.2.held })) }

/-- And one stop less. -/
def releaseWave (level : Nat) (w : Wave) : Wave :=
  { w with held := w.held.erase level, stops := w.stops.erase level,
           paths := w.paths.map (fun p => (p.1, releasePath level p.2)),
           conts := w.conts.map (fun k => (k.1, { k.2 with held := k.2.held.erase level })) }

/-- A launch of a context by its queue entry. -/
def launchAt (s : State) (c qentry : Nat) : Option (Nat × Launch) :=
  List.find? (fun p : Nat × Launch => p.2.ctx == c && p.2.qentry == qentry && p.2.state == .running) s.launches

/-- Change every wave of a launch, placed or saved. -/
def modLaunchWaves (s : State) (lid : Nat) (f : Wave → Wave) : State :=
  { s with
    waves := s.waves.map (fun p => (p.1, match getTeam s p.2.team with | some t => if t.lid = lid then f p.2 else p.2 | none => p.2))
    teams := s.teams.map (fun t => (t.1, if t.2.lid = lid then { t.2 with saved := t.2.saved.map (fun v => (v.1, v.2.map f)) } else t.2)) }

/-- The actor a stop names at level 0. -/
def stoppedActor (z : Stopped) : Actor := if z.lane then .path z.wid z.entry else .control z.wid

/-- A stop of a launch, and its release. -/
def holdLaunch (s : State) (lid : Nat) : State :=
  modLaunch (modLaunchWaves s lid (holdWave 2)) lid (fun l => { l with stops := 2 :: l.stops })

def releaseLaunch (s : State) (lid : Nat) : State :=
  modLaunch (modLaunchWaves s lid (releaseWave 2)) lid (fun l => { l with stops := l.stops.erase 2 })

/-- The stops of an instance that exists. -/
def actorHeld (s : State) (a : Actor) : Option (List Nat) :=
  match a with
  | .control wid => (getWave s wid).map (fun w => w.held)
  | .path wid e => (getWave s wid).bind (fun w => (Tbl.find? w.paths e).map (fun p => p.held))
  | .cont wid l => (getWave s wid).bind (fun w => (Tbl.find? w.conts l).map (fun k => k.held))
  | _ => none

/-- The trace record of a stop or release (R353). -/
def stopTrace (s : State) (c : Nat) (z : Stopped) (kind : Nat) : State :=
  let a := if z.level = 0 then stoppedActor z else .control z.wid
  let st := standing s a
  traceEvent s c kind false (fun q => traceNat s.timebase 0 z.qentry (if st.stream then st.active else 0) st.pc z.level q z.wid st.path st.cont st.stream kind)

/-- Hold an instance, a wave or a launch, or release it. -/
def stopCommand (s : State) (c : Nat) (hold : Bool) : Commanded :=
  onContext s c fun _ =>
    let z := stoppedOf (getBlock s c)
    let kind := if hold then 7 else 8
    match launchAt s c z.qentry with
    | none => .refused
    | some (lid, l) =>
      match z.level with
      | 0 =>
        (match actorHeld s (stoppedActor z), getWave s z.wid with
         | some n, some w =>
           if (launchOf s w).map (fun p => p.1) ≠ some lid ∨ (hold = false ∧ n.contains 0 = false) then .refused
           else .done (stopTrace (if hold then holdActor s (stoppedActor z) else releaseActor s (stoppedActor z)) c z kind)
         | _, _ => .refused)
      | 1 =>
        (match getWave s z.wid with
         | some w =>
           if (launchOf s w).map (fun p => p.1) ≠ some lid ∨ (hold = false ∧ w.stops.contains 1 = false) then .refused
           else .done (stopTrace (setWave s z.wid (if hold then holdWave 1 w else releaseWave 1 w)) c z kind)
         | none => .refused)
      | 2 =>
        if hold = false ∧ l.stops.contains 2 = false then .refused
        else .done (stopTrace (if hold then holdLaunch s lid else releaseLaunch s lid) c z kind)
      | _ => .refused

/-! ## Unserviceable, invalidate, debug registers, replay, generation -/

/-- The first logged entry of a launch that waits at a page-table entry. -/
def firstWaiting (s : State) (lid entry : Nat) : Option (Nat × LogEntry) :=
  let live := s.waves.filter (fun p => match getTeam s p.2.team with | some t => t.lid == lid | none => false)
  let saved := s.teams.flatMap (fun t => if t.2.lid = lid then (match t.2.saved with | some (_, ws) => t.2.waves.zip ws | none => []) else [])
  (live ++ saved).findSome? (fun p => (p.2.log.find? (fun e => e.entry == entry)).map (fun e => (p.1, e)))

/-- The record that ends a launch whose page cannot be had (R331). -/
def endUnserviceable (s : State) (lid : Nat) (l : Launch) (wid : Nat) (e : LogEntry) : State :=
  let write := match e.body with | .access a => wantWrites (wantOf a) | .tile r => r.op != .load | .instr _ _ => false
  let st := standingAt s e.actor e.pc e.block e.path e.mask
  let r := faultRecord s e.actor st (coreUnit 7 (coreOf wid) 0) 0x0A (addrDetail e.va write false) none false true
  writeFault s l.ctx { r with lid := some lid, qentry := l.qentry, wave := wid, after := r.after.map (fun p => (p.1, e.seq)) }

/-- Unserviceable: every launch of the context with a log entry that waits where the walk of the address stops ends. -/
def unserviceableAt (s : State) (c : Nat) : Commanded :=
  onContext s c fun x =>
    match walkCtx s x ((getBlock s c).param0.toNat % 2 ^ 56) with
    | .absent entry =>
      .done ((s.launches.filter (fun p => p.2.ctx == c && p.2.state == .running)).foldl (fun s p =>
        match firstWaiting s p.1 entry with
        | some (wid, e) => endUnserviceable s p.1 p.2 wid e
        | none => s) s)
    | _ => .done s

/-- A generic address lies in a range of the global aperture. -/
def inSpan (base len a : Nat) : Bool := decide (a / 2 ^ 56 = 0) && (len == 0 || (decide (base ≤ a) && decide (a < base + len)))

/-- No access of the context that used a translation of the range is still to be performed at DEVICE scope, in the store buffer of a saved wave
neither (R316, R398). -/
def rangeSettled (s : State) (c base len : Nat) : Bool :=
  let saved := s.teams.flatMap (fun t => match t.2.saved with | some (_, ws) => ws | none => [])
  ((s.waves.map (fun p => p.2) ++ saved).filter (fun w => ctxOf s w == some c)).all (fun w =>
    w.loads.all (fun a => a.accTile.isSome || a.lanes.all (fun l => l.ready.isSome || !(inSpan base len l.addr)))
      && w.stores.all (fun b => decide (4 ≤ b.perf) || !(inSpan base len b.va)))

/-- Invalidate: once the accesses that used a translation of the range are performed, the caches hold nothing of it (R398). -/
def invalidateRange (s : State) (c : Nat) : Commanded :=
  onContext s c fun x =>
    let b := getBlock s c
    let base := b.param0.toNat
    let len := b.param1.toNat
    if base % 2 ^ 17 ≠ 0 ∨ len % 2 ^ 17 ≠ 0 then .refused
    else if rangeSettled s c base len then .done (dropTranslations s x.ptroot base len)
    else .running

/-- The value a debug register may take (R345 to R347, R352). -/
def debugOk (x : Context) (n v : Nat) : Bool :=
  if n < 8 then
    let ctl := (Cells.get 0 x.debug (n + 8)).toNat
    decide (ctl / 2 % 4 ≠ 1) || decide (v < 2 ^ 32)
  else if n < 16 then
    let stream := v / 2 % 4
    decide (v < 2 ^ 26) && decide (v / 2 ^ 24 % 4 ≠ 3) && decide (stream ≠ 3) && (decide (v / 8 % 2 = 0) || decide (stream ≠ 0))
      && (decide (stream ≠ 1) || decide ((Cells.get 0 x.debug (n - 8)).toNat < 2 ^ 32))
  else if n < 20 then
    let size := (Cells.get 0 x.debug (n + 4)).toNat / 16 % 32
    decide (v / 2 ^ 56 < 2) && decide (v % 2 ^ size = 0)
  else if n < 24 then
    let size := v / 16 % 32
    decide (v < 2 ^ 24) && decide (v / 2 ^ 22 % 4 ≠ 3) && decide (v / 8 % 2 = 0) && decide (v / 2 ^ 9 % 2 ^ 11 = 0)
      && (decide (v % 2 = 0) || decide (3 ≤ size ∧ size ≤ 17)) && decide ((Cells.get 0 x.debug (n - 4)).toNat % 2 ^ size = 0)
  else
    let k := v / 2 ^ 13 % 32
    decide (n = 24) && decide (v < 2 ^ 18) && (decide (k = 0) || decide (10 ≤ k ∧ k ≤ 24))

/-- Debug write. -/
def debugSet (s : State) (c : Nat) : Commanded :=
  onContext s c fun x =>
    let b := getBlock s c
    let n := b.param0.toNat % 256
    if debugOk x n b.param1.toNat then .done (modCtx s c (fun x => { x with debug := Cells.set 0 x.debug n b.param1 })) else .refused

/-- An enqueued entry of a context that has not been taken. -/
def entryWaits (s : State) (c qentry : Nat) : Bool :=
  s.hub.queues.any (fun q => q.2.ctx == c && q.2.enable
    && (List.range (enqueued q.2)).any (fun i => decide (q.2.base + 128 * ((q.2.head + i) % queueSize q.2) = qentry)))
  && s.launches.all (fun l => l.2.qentry != qentry || launchOver l.2 || l.2.state == .waiting)

/-- Replay enable. The five bits of the size hold 20 to 31, and 0 for 32, the one size that they cannot hold: the model's choice (log
entry 34). -/
def replaySet (s : State) (c : Nat) : Commanded :=
  onContext s c fun _ =>
    let b := getBlock s c
    let p := b.param1.toNat
    let log2 := if p % 32 = 0 then 32 else p % 32
    if entryWaits s c b.param0.toNat && decide (p < 2 ^ 56) && decide (p / 32 % 2 ^ 15 = 0) && decide (20 ≤ log2) then
      .done (modCtx s c (fun x => { x with replays := (b.param0.toNat, p / 2 ^ 20 * 2 ^ 20, log2) :: x.replays.filter (fun r => r.1 != b.param0.toNat) }))
    else .refused

/-- Reset generation. -/
def generationReset (s : State) (c : Nat) : Commanded := onContext s c fun _ => .done (modCtx s c (fun x => { x with generation := 1 }))

/-- A command by its code (R381). -/
def commandOf (s : State) (c code : Nat) : Commanded :=
  match code with
  | 1 => createContext s c
  | 2 => destroyContext s c
  | 3 => stopCommand s c true
  | 4 => stopCommand s c false
  | 5 => unserviceableAt s c
  | 6 => invalidateRange s c
  | 7 => debugSet s c
  | 8 => replaySet s c
  | 9 => generationReset s c
  | _ => .refused

/-- A write of a command to a context's control block, or the next look at one that is running. -/
def runCommand (s : State) (c code : Nat) : Out :=
  if s.hub.hubReady then commandBlock s c code (commandOf s c code) else .next s

def execContextCreate (c : Nat) (s : State) : Out := runCommand s c 1

def execContextDestroy (c : Nat) (s : State) : Out := runCommand s c 2

def execContextHold (c : Nat) (s : State) : Out := runCommand s c 3

def execContextRelease (c : Nat) (s : State) : Out := runCommand s c 4

def execUnserviceable (c : Nat) (s : State) : Out := runCommand s c 5

def execInvalidate (c : Nat) (s : State) : Out := runCommand s c 6

def execDebugWrite (c : Nat) (s : State) : Out := runCommand s c 7

def execReplayEnable (c : Nat) (s : State) : Out := runCommand s c 8

def execResetGeneration (c : Nat) (s : State) : Out := runCommand s c 9

/-! ## Replay intervals (R355 to R357) -/

/-- The replay region of a launch. -/
def replayOf (s : State) (l : Launch) : Option (Nat × Nat) :=
  match getCtx s l.ctx with
  | some x => (List.find? (fun r : Nat × Nat × Nat => r.1 == l.qentry) x.replays).map (fun r => r.2)
  | none => none

/-- A wave's place among the waves of its launch. -/
def waveIndex (t : Team) (l : Launch) (w : Wave) : Nat := t.index * l.e.waves + w.w

/-- REPLAY_INTERVAL_START: the wave's context image is written to its share of the region, with a trace record, and the wave's
next interval begins. Of the region's contents the spec gives the image's form alone (log entry 34). -/
def execReplayIntervalStart (wid : Nat) (s : State) : Out :=
  match getWave s wid with
  | none => stall s
  | some w =>
    match launchOf s w, getTeam s w.team with
    | some (lid, l), some t =>
      (match replayOf s l with
       | none => stall s
       | some (base, log2) =>
         if w.ctl == .exited || w.ctl == .clearing || !(launchLive s w) then stall s
         else
           let g := ceilDiv l.e.regs 8
           let k := waveIndex t l w
           let share := 2 ^ log2 / (l.e.teams * l.e.waves)
           let r := freeBytesOf s (waveFrameBytes g)
           let s := writePhys (writePhys r.2 (base + k * share) r.1) (base + k * share + 4352) (pathSection w)
           let n := w.interval + 1
           let st := standing s (.control wid)
           let s := traceEvent s l.ctx 10 false (fun q => traceNat s.timebase 0 l.qentry 0 st.pc n q wid 0 false false 10)
           let old := s.intervals.map (fun z => if z.lid = lid ∧ z.wave = k ∧ z.status = 0 then { z with status := 1 } else z)
           .next { modWave s wid (fun w => { w with interval := n, intervalDue := false }) with
             intervals := old ++ [{ lid := lid, wave := k, number := n, start := w, stores := [], status := 0 }] })
    | _, _ => stall s

/-- The output area of a replay: for each store, in order, 16 bytes that hold its address, width and data; their layout is open (R357). Log
entry 34. -/
def replayOutput (stores : List (Nat × Nat × Nat)) : List Byte :=
  stores.flatMap (fun e => (List.range 16).map (Config.replayEntry e.1 e.2.1 e.2.2))

/-- REPLAY_RUN: the replay of a logged interval performs the same stores in the same order as the logged run (R357), and writes
them to the output area. -/
def execReplayRun (lid wave interval out : Nat) (s : State) : Out :=
  match s.intervals.find? (fun z => z.lid == lid && z.wave == wave && z.number == interval) with
  | none => stall s
  | some z =>
    if z.status = 0 then stall s
    else
      .next { writePhys s out (replayOutput z.stores) with replayed := z.stores, replayStatus := if z.status = 2 then 2 else 0 }

/-! ## Samples (R354) -/

/-- The sample of one wave: the path that its pipe selected last, or its path pointer with the reason why not. -/
def sampleWave (s : State) (c : Nat) (wid : Nat) (w : Wave) (l : Launch) : State :=
  let a := Actor.path wid w.pathPtr
  let st := standing s a
  let down := (getCore s (coreOf wid)).pipesDown.contains (slotOf wid / 8)
  traceEvent s c 5 false (fun q => traceNat s.timebase 0 l.qentry st.active st.pc (if down then 4 else w.sample) q wid w.pathPtr false true 5)

/-- TRACE_SAMPLE_TICK: every lane pipe writes one sample for each wave of the context in its slots. -/
def execTraceSampleTick (c : Nat) (s : State) : Out :=
  match getCtx s c with
  | none => stall s
  | some x =>
    if (Cells.get 0 x.debug 24).toNat / 2 ^ 13 % 32 = 0 then stall s
    else
      .next ((s.waves.filter (fun p => ctxOf s p.2 == some c)).foldl (fun t p =>
        match launchOf s p.2 with | some (_, l) => sampleWave t c p.1 p.2 l | none => t) s)

end Sys2Proof.Machine
end

