-- ==== Sys2Proof/Machine/Home.lean ====
section
/-! DEFINITION. Packets that arrive: requests at their home and at their target, and answers at their initiator (R332, R333,
R399, R405, R406, R409 to R423, R426, R430 to R432). -/

namespace Sys2Proof.Machine

/-! ## Arrival at a junction die (R406, R409, R430) -/

/-- A packet of another package goes on by the route entry of its destination and path; without one it is lost, and its sender
sends it again (R409, R425). A box may act on an emitted packet that passes (R430). -/
def passOn (s : State) (p : Packet) : State :=
  if pathUsable s p.plane p.dest p.path then
    (if p.kind = 0x0D then leaveDie s p 2 else modFabric s (fun f => { f with out := f.out ++ [p] }))
  else s

/-- A packet reaches a junction die of this package: one that no die may pass is dropped and counted (R406). -/
def arrive (s : State) (p : Packet) (kind : Nat) (act : State → Out) : Out :=
  if !(packetOk p) then .next (countDropped s p.plane)
  else if p.kind ≠ kind then stall s
  else if p.dest ≠ s.pkg then .next (passOn s p)
  else act s

/-! ## The home (R399, R413, R414, R418, R421) -/

/-- A refusal: reason 0 with a retry-after hint, which is the target's estimate; 1 protection; 2 no context (R406, R414). -/
def refusePacket (s : State) (p : Packet) (reason : Nat) : State :=
  let r := freeNatOf s
  let hint := if reason = 0 then r.1 % 256 else 0
  sendReply (if reason = 0 then r.2 else s) p 0x08 false (bytesOfNat 2 (hint + reason * 2 ^ 8) ++ List.replicate 30 0)

/-- The access of a packet is translated in the context with its job; what cannot go on is refused (R332, R399, R414). A
page-table entry that is poisoned lets no access through. -/
def withHome (s : State) (p : Packet) (want : Want) (k : Nat → Nat → Out) : Out :=
  match ctxWithJob s p.job with
  | none => .next (refusePacket s p 2)
  | some (c, x) =>
    match deviceTarget s x want p.addr with
    | .ok (.glob pa cls) => k pa cls
    | .ok _ => .next (refusePacket s p 1)
    | .error (.absent _ _) => .next (refusePacket (refusalRecord s c 0x0A p.plane p.addr (wantWrites want)) p 0)
    | .error .wait => stall s
    | .error _ => .next (refusePacket s p 1)

/-- The holders of a line that a read by `src` sends away: the one that read earliest, when four others hold it (R413). -/
def fifthHolder (hs : List (Nat × Nat × Nat)) (src : Nat) : List (Nat × Nat × Nat) :=
  let others := hs.filter (fun h => h.1 != src)
  match others with
  | h :: _ => if 4 ≤ (others.map (fun h => h.1)).eraseDups.length then hs.filter (fun k => k.1 == h.1) else []
  | [] => []

/-- A holder is entered in the directory. -/
def addHolder (line : Nat) (h : Nat × Nat × Nat) (f : Fabric) : Fabric :=
  let hs := (Tbl.find? f.directory line).getD []
  { f with directory := Tbl.put f.directory line (hs.filter (fun k => k != h) ++ [h]) }

/-- READ: the home answers with the line, and its directory holds the reader (R413, R414). -/
def execReadPacket (p : Packet) (s : State) : Out :=
  arrive s p 0x01 fun s =>
    withHome s p .read fun pa cls =>
      let line := pa / 128
      match fifthHolder (holdersOf s line) p.source with
      | [] =>
        let at_ := Place.glob (line * 128) cls
        .next (sendReply (modFabric s (addHolder line (p.source, p.job, p.addr / 128 * 128))) p 0x02 (placePoisoned s at_ 128) (readBase s at_ 128))
      | hs => evictSome s hs

/-- A release is recorded for its line (R418). -/
def markReleased (p : Packet) (line : Nat) (s : State) : State :=
  if p.ordered ∧ s.fabric.released.contains (line, p.source) = false then
    modFabric s (fun f => { f with released := f.released ++ [(line, p.source)] })
  else s

/-- The runs of bytes that a write packet supplies, as offsets in its line. -/
def packetRuns (p : Packet) : List (Nat × List Byte) :=
  if p.kind = 0x04 then
    let mask := natOfBytes (p.payload.take 16)
    runsOf mask 128 0 (p.payload.drop 32)
  else [(p.addr % 128, p.payload)]
where
  /-- The enabled bytes of a line image, cut into contiguous runs. -/
  runsOf (mask : Nat) : Nat → Nat → List Byte → List (Nat × List Byte)
    | 0, _, _ => []
    | _ + 1, _, [] => []
    | n + 1, i, b :: r =>
      let rest := runsOf mask n (i + 1) r
      if mask / 2 ^ i % 2 = 0 then rest
      else match rest with
        | (j, bs) :: more => if j = i + 1 then (i, b :: bs) :: more else (i, [b]) :: rest
        | [] => [(i, [b])]

/-- The home performs a write once no peer holds the line, records a release, and acknowledges (R413, R418). -/
def homeWrite (p : Packet) (s : State) : Out :=
  withHome s p .write fun pa cls =>
    let line := pa / 128
    if (holdersOf s line).isEmpty then
      let t := (packetRuns p).foldl (fun s r => writePlace s (.glob (line * 128 + r.1) cls) r.2 p.poisoned) s
      .next (sendReply (markReleased p line t) p 0x07 false [])
    else evictLine s line

/-- WRITE: whole sectors. -/
def execWritePacket (p : Packet) (s : State) : Out := arrive s p 0x03 (homeWrite p)

/-- MASKED_WRITE: the bytes its mask enables. -/
def execMaskedWrite (p : Packet) (s : State) : Out := arrive s p 0x04 (homeWrite p)

/-- The result of an atomic. -/
def atomicReply (s : State) (p : Packet) (poisoned : Bool) (old : Nat) : State :=
  sendReply s p 0x06 poisoned (bytesOfNat 8 old ++ List.replicate 24 0)

/-- The results that the home keeps: the last 1,024 of a source on a plane (R421). -/
def keepAnswer (p : Packet) (old : Nat) (f : Fabric) : Fabric :=
  let mine := fun a : Nat × Nat × Nat × Nat => a.1 == p.source && a.2.1 == p.plane
  { f with atomAnswers := f.atomAnswers.filter (fun a => !(mine a)) ++ ((f.atomAnswers.filter mine).reverse.take 1023).reverse
      ++ [(p.source, p.plane, p.tag, old)] }

/-- The operation and width of an atomic packet are ones that the device forms (R406). -/
def atomicOk (p : Packet) : Bool :=
  let n := natOfBytes (p.payload.take 8)
  let op := n % 256
  let width := n / 2 ^ 8 % 256
  (decide (op ≤ 13) || op == 15) && (width == 4 || width == 8) && decide (p.addr % width = 0)

/-- ATOMIC: the home performs it once for each tag, and answers a repetition from its record (R421). -/
def execAtomicPacket (p : Packet) (s : State) : Out :=
  arrive s p 0x05 fun s =>
    match List.find? (fun a : Nat × Nat × Nat × Nat => a.1 == p.source && a.2.1 == p.plane && a.2.2.1 == p.tag) s.fabric.atomAnswers with
    | some a => .next (atomicReply s p false a.2.2.2)
    | none =>
      if !(atomicOk p) then .next (countDropped s p.plane)
      else
        withHome s p .atomic fun pa cls =>
          let line := pa / 128
          let n := natOfBytes (p.payload.take 8)
          let width := n / 2 ^ 8 % 256
          let op := if n % 256 = 15 then AtomicOp.cas else atomicOf (n % 256)
          let at_ := Place.glob pa cls
          if !((holdersOf s line).isEmpty) then evictLine s line
          else if placePoisoned s at_ width then .next (atomicReply s p true 0)
          else
            let old := natOfBytes (readBase s at_ width)
            let opnd := natOfBytes ((p.payload.drop 8).take 8)
            let cmp := natOfBytes ((p.payload.drop 16).take 8)
            let t := if op = .cas ∧ old ≠ cmp % 2 ^ (8 * width) then s
              else writePlace s at_ (bytesOfNat width (atomicNew op (8 * width) old opnd cmp).1) false
            .next (atomicReply (modFabric (markReleased p line t) (keepAnswer p old)) p false old)

/-! ## Answers at the initiator (R411, R414 to R416, R423) -/

/-- The packet of this package that an answer belongs to: the earliest of a kind that the answer fits. -/
def answered (s : State) (p : Packet) (kinds : List Nat) : Option (Nat × Sent) :=
  List.find? (fun x : Nat × Sent =>
    kinds.contains x.2.pkt.kind && x.2.pkt.dest == p.source && x.2.pkt.tag == p.tag && x.2.pkt.plane == p.plane
      && (if messageKind x.2.pkt.kind then x.2.pkt.seq == p.seq else x.2.pkt.job == p.job && x.2.pkt.addr / 128 == p.addr / 128))
    s.fabric.sent

/-- A packet is answered: it is unacknowledged no longer. -/
def settled (s : State) (id : Nat) : State := modFabric s (fun f => { f with sent := Tbl.del f.sent id })

/-- The peer that a packet names, with the job of its context (R399). -/
def peerOf (p : Packet) : Nat := p.job * 65536 + p.dest

/-- The lanes of a load that wait for the line of a packet. -/
def awaits (p : Packet) (l : LaneAcc) : Bool :=
  l.asked && l.ready.isNone && (match l.place with | .remote q b => q == peerOf p && b / 128 == p.addr / 128 | _ => false)

/-- The data of a line reaches the lanes of a load that asked for it. -/
def fillLoad (x : Sent) (bytes : List Byte) (bad : Bool) (uid seq : Nat) (s : State) : State :=
  modUid s uid (setAccess seq (fun a => some { a with
    lanes := a.lanes.map (fun l =>
      if awaits x.pkt l then
        (match l.place with
         | .remote _ b => { l with ready := some (natOfBytes ((bytes.drop (b % 128)).take a.width)), bad := bad }
         | _ => l)
      else l) }))

/-- The hint of a load in flight. -/
def loadHint (s : State) (uid seq : Nat) : Nat :=
  match List.find? (fun p : Nat × Wave => p.2.uid == uid) s.waves with
  | some (_, w) => (match List.find? (fun a : Access => a.seq == seq) w.loads with | some a => a.hint | none => 3)
  | none => 3

/-- READ_DATA: the line reaches whoever asked for it, and a copy is allocated, unless the load allocates none, a write of this
package to the line is unacknowledged, or the home has asked for the copy back since (R292, R411, R412). -/
def execReadData (p : Packet) (s : State) : Out :=
  arrive s p 0x02 fun s =>
    match answered s p [1] with
    | none => .next s
    | some (id, x) =>
      let hint := match x.purpose with | .load uid seq => loadHint s uid seq | _ => 0
      let s := settled s id
      let keep := !x.stale && hint != 3 && !(lineBusy s (peerOf x.pkt) x.pkt.addr)
      let s := if keep then keepCopy s (peerOf x.pkt) x.pkt.addr hint p.payload p.poisoned else s
      match x.purpose with
      | .load uid seq => .next (fillLoad x p.payload p.poisoned uid seq s)
      | _ => .next s

/-- The buffered stores that a packet carried. -/
def carried (s : State) (uid id : Nat) : List BufStore :=
  match List.find? (fun p : Nat × Wave => p.2.uid == uid) s.waves with
  | some (_, w) => w.stores.filter (fun b => b.sent == some id)
  | none =>
    s.teams.flatMap (fun t => match t.2.saved with
      | some (_, ws) => (ws.filter (fun w => w.uid == uid)).flatMap (fun w => w.stores.filter (fun b => b.sent == some id))
      | none => [])

/-- They leave the store buffer (R315, R415). -/
def dropCarried (s : State) (uid id : Nat) : State :=
  modUid s uid (fun w => { w with stores := w.stores.filter (fun b => b.sent != some id) })

/-- A non-returning atomic is answered: the flags it sets are the wave's (R30, R107). -/
def atomicFlags (s : State) (uid id old : Nat) : State :=
  (carried s uid id).foldl (fun s b =>
    match b.rmw with
    | some (op, opnd, cmp) => modUid s uid (setFlags (atomicNew op (8 * b.bytes.length) old opnd cmp).2)
    | none => s) s

/-- The result of a returning atomic reaches its lane. -/
def fillAtomic (s : State) (uid seq lane old : Nat) (bad : Bool) : State :=
  modUid s uid (setAccLanes seq (fun l => some (if l.lane = lane then { l with ready := if bad then none else some old, bad := bad } else l)))

/-- A tile that a wave has completed, of those that a condition holds of. -/
def completeTile (s : State) (team uid : Nat) (p : OpenTile → Bool) : Option OpenTile :=
  (getTeam s team).bind (fun t => List.find? (fun o : OpenTile => o.complete == some uid && p o) t.openTiles)

/-- The add of an append pointer is answered. -/
def fillAppend (s : State) (team uid tid desc row col old : Nat) (bad : Bool) : State :=
  match completeTile s team uid (fun o => o.tid == tid && o.t.addr == desc && o.row == row && o.col == col) with
  | some o => if bad then discardTile s team uid o 0x17 s.pkg else modTile s team o (fun o => some { o with append := some old })
  | none => s

/-- A non-returning atomic met poisoned data at its home (R106, R414). -/
def resultPoisoned (s : State) (b : BufStore) : State :=
  let mask := maskOf [b.lane]
  let f := poisonFrom s b.place b.bytes.length
  takeFault s b.origin (standingAt s b.origin b.pc b.block b.path mask) (f.unit.getD 0) 0x17 (poisonDetail b.va true f.own) (some mask) false

/-- ATOMIC_RESULT. A poisoned result raises fault 0x17 (R106, R414); for a wave that is saved it waits. -/
def execAtomicResult (p : Packet) (s : State) : Out :=
  arrive s p 0x06 fun s =>
    match answered s p [5] with
    | none => .next s
    | some (id, x) =>
      let old := natOfBytes (p.payload.take 8)
      let t := settled s id
      match x.purpose with
      | .rmw uid seq lane => .next (fillAtomic t uid seq lane old p.poisoned)
      | .encode team uid tid desc row col => .next (fillAppend t team uid tid desc row col old p.poisoned)
      | .store uid _ =>
        if p.poisoned then
          (match List.find? (fun p : Nat × Wave => p.2.uid == uid) s.waves, carried s uid id with
           | some _, b :: _ => .next (resultPoisoned (dropCarried t uid id) b)
           | _, _ => stall s)
        else .next (dropCarried (atomicFlags t uid id old) uid id)
      | _ => .next t

/-- WRITE_ACKNOWLEDGMENT: the write is performed at SYSTEM scope, and its path's counter falls (R413, R415). -/
def execWriteAcknowledgment (p : Packet) (s : State) : Out :=
  arrive s p 0x07 fun s =>
    match answered s p [3, 4] with
    | none => .next s
    | some (id, x) =>
      match x.purpose with
      | .store uid _ => .next (dropCarried (settled s id) uid id)
      | _ => .next (settled s id)

/-- A member of a multicast copy has failed, or another copy's write was dropped (R415, R423). -/
def copyFailed (s : State) (uid op member peer : Nat) : State :=
  let cast := fun e : EngineItem => e.id == op && (match e.op with | .cpmc _ _ _ _ _ => true | _ => false)
  modUid s uid (fun w =>
    if w.engine.any cast then { w with engine := w.engine.map (fun e => if cast e then { e with failed := e.failed ++ [member] } else e) }
    else asyncError 0x0B peer w)

/-- A message is over for its sender: the bytes are in flight no longer and the operation is complete (R245). -/
def messageOver (s : State) (x : Sent) (failed : Bool) : State :=
  match x.purpose with
  | .message uid op c k =>
    let s := modCtx s c (fun y => { y with inflight := Cells.set 0 y.inflight k (Cells.get 0 y.inflight k - x.pkt.length) })
    modUid s uid (fun w =>
      let w := { w with engine := w.engine.filter (fun e => e.id != op) }
      if failed then asyncError 0x0C x.pkt.dest w else w)
  | _ => s

/-- A write of the encoder for a wave is refused: the tile whose stream or entry is on its way is discarded (R199, R415). -/
def tileRefused (s : State) (uid peer : Nat) : State :=
  match s.teams.findSome? (fun (t : Nat × Team) =>
    (List.find? (fun o : OpenTile => o.complete == some uid && decide (1 ≤ o.phase)) t.2.openTiles).map (fun o => (t.1, o))) with
  | some (team, o) => discardTile s team uid o 0x0B peer
  | none => s

/-- A packet of this package comes to nothing: refused for good, or its peer is unreachable (R415, R416, R423, R426). -/
def failSent (s : State) (id : Nat) (x : Sent) : State :=
  let t := settled s id
  match x.purpose with
  | .load uid seq => fillLoad x [] true uid seq t
  | .rmw uid seq lane => fillAtomic t uid seq lane 0 true
  | .store uid _ => modUid (dropCarried t uid id) uid (asyncError 0x0B x.pkt.dest)
  | .copy uid 0 _ => tileRefused t uid x.pkt.dest
  | .copy uid op member => copyFailed t uid op member x.pkt.dest
  | .message _ _ _ _ => messageOver t x true
  | .encode team uid tid desc row col =>
    (match completeTile t team uid (fun o => o.tid == tid && o.t.addr == desc && o.row == row && o.col == col) with
     | some o => discardTile t team uid o 0x0B x.pkt.dest
     | none => t)
  | .none => if x.pkt.kind = 1 then badCopy t (peerOf x.pkt) x.pkt.addr else t

/-- A packet is to be sent again once its delay is over (R332). -/
def delayed (s : State) (id hint : Nat) : State :=
  modFabric s (fun f => { f with sent := Tbl.modify f.sent id (fun x => { x with retry := some (1400 * max hint 1) }) })

/-- REFUSAL (R332, R333, R414). -/
def execRefusal (p : Packet) (s : State) : Out :=
  arrive s p 0x08 fun s =>
    match answered s p [1, 3, 4, 5] with
    | none => .next s
    | some (id, x) =>
      let n := natOfBytes (p.payload.take 2)
      if n / 2 ^ 8 = 0 then .next (delayed s id n) else .next (failSent s id x)

/-- RETRY_AFTER_RESEND: the delay of a refused packet is over, and no earlier packet to its line waits; it is sent again
(R332, R333). -/
def execRetryAfterResend (id : Nat) (s : State) : Out :=
  match Tbl.find? s.fabric.sent id with
  | some x =>
    let behind := s.fabric.sent.any (fun y => decide (y.1 < id) && y.2.retry.isSome && memoryKind y.2.pkt.kind && memoryKind x.pkt.kind
      && y.2.pkt.dest == x.pkt.dest && y.2.pkt.addr / 128 == x.pkt.addr / 128)
    let earlier := s.fabric.sent.any (fun y => decide (y.1 < id) && y.2.retry.isSome && y.2.pkt.kind == 0x0B && x.pkt.kind == 0x0B
      && y.2.pkt.dest == x.pkt.dest && y.2.pkt.tag == x.pkt.tag)
    if x.retry = some 0 ∧ behind = false ∧ earlier = false ∧ x.lost = false ∧ pathUsable s x.pkt.plane x.pkt.dest x.pkt.path = true then
      .next (modFabric s (fun f => { f with sent := Tbl.put f.sent id { x with retry := none }, out := f.out ++ [x.pkt] }))
    else stall s
  | none => stall s

/-! ## Invalidation (R411, R413) -/

/-- INVALIDATE_PACKET: the copy is dropped, a read of the line under way makes none, and the home has its acknowledgment. -/
def execInvalidatePacket (p : Packet) (s : State) : Out :=
  arrive s p 0x09 fun s =>
    let peer := p.job * 65536 + p.source
    let mine := fun x : Sent => x.pkt.kind == 1 && x.pkt.dest == p.source && x.pkt.job == p.job && x.pkt.addr / 128 == p.addr / 128
    let t := modFabric (dropCopy s peer p.addr) (fun f =>
      { f with sent := f.sent.map (fun y => if mine y.2 then (y.1, { y.2 with stale := true }) else y) })
    .next (sendReply t p 0x0A false [])

/-- INVALIDATE_ACKNOWLEDGMENT: the peer holds the line no longer. -/
def execInvalidateAcknowledgment (p : Packet) (s : State) : Out :=
  arrive s p 0x0A fun s =>
    match answered s p [9] with
    | none => .next s
    | some (id, x) =>
      let h := (x.pkt.dest, x.pkt.job, x.pkt.addr)
      .next (modFabric (settled s id) (fun f =>
        { f with directory := (f.directory.map (fun d => (d.1, d.2.filter (fun k => k != h)))).filter (fun d => !d.2.isEmpty) }))

/-! ## Messages, emitted and management packets (R419, R420, R428, R430 to R432) -/

/-- A message that has been offered to a box, runs on one or is held by one, and is not settled. -/
def messageInBox (s : State) (p : Packet) : Bool :=
  let same := fun q : Packet => q.kind == 0x0B && q.source == p.source && q.tag == p.tag && q.seq == p.seq
  s.boxes.any (fun b => b.2.offered.any (fun o => same o.1) || (match b.2.run with | some r => same r.pkt | none => false))
    || s.fabric.heldMsgs.any (fun h => same h.pkt)

/-- MESSAGE: the sequence check comes first; a message placed before is answered again, one ahead of its turn waits, and so does
one whose ring has a message held by the die (R419, R420, R430, R431). -/
def execMessagePacket (p : Packet) (s : State) : Out :=
  arrive s p 0x0B fun s =>
    let expected := Cells.get 0 s.fabric.seqIn (seqKey p.source p.tag)
    let ahead := (p.seq + 65536 - expected) % 65536
    if ahead = 0 then
      if messageInBox s p then .next s
      else if s.fabric.heldMsgs.any (fun h => h.pkt.tag == p.tag && h.pkt.job == p.job) then stall s
      else
        match matchBox s p 0 with
        | some (sel, b) => .next (offerPacket s sel p b 0)
        | none => placeMessage s p false
    else if 32768 ≤ ahead then
      match List.find? (fun a : Nat × Nat × Nat × Nat => a.1 == p.source && a.2.1 == p.tag && a.2.2.1 == p.seq) s.fabric.msgAnswers with
      | some a => .next (sendReply s p 0x0C false (bytesOfNat 2 a.2.2.2 ++ List.replicate 30 0))
      | none => .next s
    else stall s

/-- MESSAGE_ACKNOWLEDGMENT (R245). -/
def execMessageAcknowledgment (p : Packet) (s : State) : Out :=
  arrive s p 0x0C fun s =>
    match answered s p [0x0B] with
    | none => .next s
    | some (id, x) =>
      let n := natOfBytes (p.payload.take 2)
      if n % 256 = 1 then .next (delayed s id (n / 256)) else .next (messageOver (settled s id) x (n % 256 == 2))

/-- EMITTED: after a box at ingress, if one matches, placed or dropped (R430, R432). -/
def execEmittedPacket (p : Packet) (s : State) : Out :=
  arrive s p 0x0D fun s =>
    match matchBox s p 0 with
    | some (sel, b) => .next (offerPacket s sel p b 0)
    | none => orWait s (placeEmitted s p)

/-- MANAGEMENT: the management controller writes the route entries that the packet carries (R409, R428). -/
def execManagementPacket (p : Packet) (s : State) : Out :=
  arrive s p 0x0E fun s =>
    .next (modFabric s (fun f =>
      { f with routes := (Config.routeUpdate p.payload).foldl (fun t r => if r.2 < 64 ∧ (getPort s r.2).retired = false then Tbl.put t r.1 r.2 else Tbl.del t r.1) f.routes }))

/-- HELD_MESSAGE_RETRY: the die offers a held message of a ring to placement again, after its delay (R431). -/
def execHeldMessageRetry (ring job : Nat) (s : State) : Out :=
  match List.find? (fun h : HeldMsg => h.pkt.tag == ring && h.pkt.job == job) s.fabric.heldMsgs with
  | some h =>
    if h.left ≠ 0 then stall s
    else
      (match placeMessage s h.pkt true with
       | .next t => if t = s then stall s else .next t
       | o => o)
  | none => stall s

end Sys2Proof.Machine
end

