-- ==== Sys2Proof/Machine/Links.lean ====
section
/-! DEFINITION. Links, ports, planes and packages that degrade or fail (R402, R408, R424 to R428, R436, R500). -/

namespace Sys2Proof.Machine

/-- Saturate a margin (R500). -/
def eyeMargin (m : Nat) : Nat := min 255 m

/-- LINK_REPLAY: flits are sent again; programs see delay only, and the port counts them (R402, R500). -/
def execLinkReplay (port flits : Nat) (s : State) : Out :=
  if port < 64 ∧ 0 < flits then .next (modPort s port (fun x => { x with corrected := countUp x.corrected flits })) else stall s

/-- LINK_EYE_UPDATE: the eye margin is measured again (R500). -/
def execLinkEyeUpdate (port margin : Nat) (s : State) : Out :=
  if port < 64 then .next (modPort s port (fun x => { x with margin := eyeMargin margin })) else stall s

/-- LINK_RETRAIN: the link trains on 4, 2 or 1 of its lanes, or on none, which retires the port (R424, R500). -/
def execLinkRetrain (port lanes margin : Nat) (s : State) : Out :=
  if port < 64 ∧ (lanes = 0 ∨ lanes = 1 ∨ lanes = 2 ∨ lanes = 4) then
    let t := modPort s port (fun x => { x with lanes := lanes, retrains := countUp x.retrains 1, margin := eyeMargin margin })
    .next (if lanes = 0 then retirePort t port else t)
  else stall s

/-- PORT_RETIRE: the port has delivered what it holds; every route entry that names it becomes unusable (R424). -/
def execPortRetire (port : Nat) (s : State) : Out :=
  if port < 64 ∧ (getPort s port).retired = false then .next (retirePort s port) else stall s

/-- A physical plane is live (R408). -/
def planeLive (s : State) (p : Nat) : Bool := decide (s.hub.planesLive / 2 ^ p % 2 = 1)

/-- The boxes of a dead plane lose their kernels and bindings; each lost binding sends a record of reason 6 (R436). -/
def dropBox (s : State) (sel : Nat) : State :=
  let b := getBox s sel
  let s := setBox s sel { b with kernel := [], bindings := [], offered := [], run := none }
  b.bindings.foldl (fun s x => eventRecord s x.job x.event sel 6 (trapRecord 0 6 0 sel 0 0 (List.replicate 8 0))) s

/-- PLANE_DEAD: no port of the plane is usable (R427). -/
def execPlaneDead (plane : Nat) (s : State) : Out :=
  if plane < 8 ∧ planeLive s plane = true ∧ (List.range 8).all (fun k => (getPort s (plane * 8 + k)).retired) = true then
    let t := modHub s (fun h => { h with planesLive := h.planesLive - 2 ^ plane, planesReady := h.planesReady - h.planesReady / 2 ^ plane % 2 * 2 ^ plane })
    .next (raiseMsi ((planeBoxes plane).foldl dropBox t) 0)
  else stall s

/-- The logical planes whose mapping a new map changes. -/
def changedPlanes (s : State) (map : List Nat) : List Nat := (List.range 8).filter (fun i => map.getD i 0 != physPlane s i)

/-- The logical plane of a packet (R407). -/
def logicalOf (p : Packet) : Nat := if messageKind p.kind then p.tag % 8 else p.addr / 128 % 8

/-- PLANE_MAP_CHANGE: the logical planes that change have drained, every packet sent on them acknowledged or lost; the map is
installed and its version rises (R428). Every logical plane names a live plane. -/
def execPlaneMapChange (map : List Nat) (s : State) : Out :=
  let ch := changedPlanes s map
  if map.length = 8 ∧ map.all (fun p => decide (p < 8) && planeLive s p) = true ∧ ch ≠ [] ∧
      s.fabric.sent.all (fun x => !(ch.contains (logicalOf x.2.pkt)) || x.2.lost || !(pathUsable s x.2.pkt.plane x.2.pkt.dest x.2.pkt.path)) = true then
    let t := modFabric s (fun f => { f with sent := f.sent.map (fun x => if ch.contains (logicalOf x.2.pkt) then (x.1, { x.2 with lost := true }) else x) })
    .next (modHub t (fun h => { h with planeMap := map, mapVersion := (h.mapVersion + 1) % 2 ^ 24 }))
  else stall s

/-- A packet is lost: it was declared so, or its port or plane is dead (R425). -/
def isLost (s : State) (x : Sent) : Bool :=
  x.lost || !(pathUsable s x.pkt.plane x.pkt.dest x.pkt.path) || decide (x.pkt.plane ≠ physPlane s (logicalOf x.pkt))

/-- Packets to one line, or messages of one ring, keep their order (R410, R420, R425). -/
def sameOrder (a b : Packet) : Bool :=
  a.dest == b.dest && (if messageKind a.kind then messageKind b.kind && a.tag == b.tag else !(messageKind b.kind) && a.addr / 128 == b.addr / 128)

/-- LOST_PACKET_RESEND: a lost packet is sent again, on a usable path of the plane that the map names, in its original order
(R425). -/
def execLostPacketResend (id path : Nat) (s : State) : Out :=
  match Tbl.find? s.fabric.sent id with
  | none => stall s
  | some x =>
    let plane := physPlane s (logicalOf x.pkt)
    let first := s.fabric.sent.all (fun y => decide (id ≤ y.1) || !(isLost s y.2) || !(sameOrder y.2.pkt x.pkt))
    if isLost s x = true ∧ first = true ∧ pathUsable s plane x.pkt.dest path = true ∧ path < 4 then
      let p := { x.pkt with plane := plane, path := path }
      .next (modFabric s (fun f => { f with sent := Tbl.put f.sent id { x with pkt := p, lost := false, retry := none }, out := f.out ++ [p] }))
    else stall s

/-- PACKAGE_UNREACHABLE: every packet that waits for the package completes, and it holds no line of this package any more
(R426). -/
def execPackageUnreachable (pkg : Nat) (s : State) : Out :=
  if pkg = s.pkg ∨ 4096 ≤ pkg ∨ s.fabric.unreachable.contains pkg = true then stall s
  else
    let t := modFabric s (fun f =>
      { f with
        unreachable := f.unreachable ++ [pkg]
        directory := (f.directory.map (fun d => (d.1, d.2.filter (fun h => h.1 != pkg)))).filter (fun d => !d.2.isEmpty) })
    .next ((t.fabric.sent.filter (fun x => x.2.pkt.dest == pkg)).foldl (fun t x => failSent t x.1 x.2) t)

end Sys2Proof.Machine
end

