-- ==== Sys2Proof/Machine/Service.lean ====
section
/-! DEFINITION. Memory service, power, counters and field test (spec/23_memory_service_and_repair.md, spec/24, spec/25: R473 to
R482, R488 to R490, R494 to R503). -/

namespace Sys2Proof.Machine

/-! ## Counters of a pseudo-channel (R480) -/

def chanKey (channel word part : Nat) : Nat := channel * 256 + word * 8 + part

/-- Count errors in one of the 48-bit words. -/
def chanCount (channel word n : Nat) (x : Stack) : Stack :=
  let k := chanKey channel word 0
  { x with counters := Cells.set 0 x.counters k (countUp (Cells.get 0 x.counters k) n) }

/-- Corrected errors of a bank, saturating. -/
def bankCount (channel bank n : Nat) (x : Stack) : Stack :=
  let k := chanKey channel (4 + bank / 4 % 8) (bank % 4)
  { x with counters := Cells.set 0 x.counters k (min 65535 (Cells.get 0 x.counters k + n)) }

/-- The entry of the row table that a row's correction goes to: its own, or the one with the lowest count, the lowest index of
equals. -/
def rowSlot (x : Stack) (channel row : Nat) : Nat × Bool :=
  let count := fun i => Cells.get 0 x.counters (chanKey channel (12 + i) 1)
  match (List.range 16).find? (fun i => decide (count i ≠ 0) && Cells.get 0 x.counters (chanKey channel (12 + i) 0) == row) with
  | some i => (i, true)
  | none => ((List.range 16).foldl (fun b i => if count i < count b then i else b) 0, false)

/-- A corrected error of a row: part 0 of a word holds the row, part 1 its count. -/
def rowCount (channel row : Nat) (x : Stack) : Stack :=
  let p := rowSlot x channel row
  let old := Cells.get 0 x.counters (chanKey channel (12 + p.1) 1)
  let n := if p.2 then min 65535 (old + 1) else 1
  { x with counters := Cells.set 0 (Cells.set 0 x.counters (chanKey channel (12 + p.1) 0) (row % 2 ^ 24)) (chanKey channel (12 + p.1) 1) n }

/-! ## The patrol scrubber and the on-die scrub (R476 to R478) -/

/-- Lines of a pseudo-channel, its metadata region included: 768 MiB. -/
def chanLines : Nat := 768 * 2 ^ 20 / 128

/-- The physical line of a slot of a pseudo-channel; none in its metadata region (R473). -/
def physLine (x : Stack) (k channel slot : Nat) : Option Nat :=
  let cs := dataChannels x
  match cs.findIdx? (fun p => p == channel) with
  | some pos => if slot < chanData / 128 then some (k * 2 ^ 29 + slot * cs.length + pos) else none
  | none => none

/-- A line of a pass has been read (R475). -/
def patrolStep (x : Stack) : Stack :=
  let total := (dataChannels x).length * chanLines
  if x.progress + 1 < total then { x with progress := x.progress + 1 } else { x with progress := 0, passes := x.passes + 1 }

/-- PATROL_READ: one line of a live pseudo-channel that is not reserved is read, and corrected or poisoned (R476, R477). -/
def execPatrolRead (stack channel line : Nat) (found : ScrubOutcome) (s : State) : Out :=
  let x := getStack s stack
  if 16 ≤ stack ∨ x.enable = false ∨ (dataChannels x).contains channel = false ∨ chanLines ≤ line then stall s
  else
    let x := patrolStep x
    match found with
    | .clean => .next (setStack s stack x)
    | .corrected row bank => .next (setStack s stack (rowCount channel row (bankCount channel bank 1 (chanCount channel 0 1 x))))
    | .uncorrectable =>
      let s := setStack s stack (chanCount channel 1 1 x)
      match physLine x stack channel line with
      | some l => .next { s with tags := Cells.set 0 s.tags l (getTag s l ||| 8) }
      | none => .next s

/-- ECS_COUNT_READ: the management controller adds the new counts of the on-die scrub of a reserved pseudo-channel (R478). -/
def execEcsCountRead (stack channel : Nat) (banks : List Nat) (s : State) : Out :=
  let x := getStack s stack
  if 16 ≤ stack ∨ (reservedChannels x).contains channel = false ∨ 32 < banks.length then stall s
  else
    let x := chanCount channel 2 (banks.foldl (fun a b => a + b) 0) x
    .next (setStack s stack ((banks.zipIdx).foldl (fun x b => bankCount channel b.2 b.1 x) x))

/-! ## Dropping a pseudo-channel (R475, R481, R482) -/

/-- The data range of a reserved pseudo-channel holds a block of a pool, save area or the management region. -/
def reservedInUse (s : State) (k channel : Nat) : Bool :=
  match (reservedChannels (getStack s k)).findIdx? (fun p => p == channel) with
  | some j =>
    let r := [(k * 64 * gib + 48 * gib + j * gib, chanData)]
    s.contexts.any (fun p => runsMeet r (contextRuns s p.2)) || runsMeet r (mgmtRuns s)
  | none => false

/-- The start of a drop, or why it is refused. -/
def startDrop (s : State) (k channel : Nat) : State :=
  let x := getStack s k
  let refused := fun n => setStack s k { x with dropCh := channel, result := n }
  if x.live / 2 ^ channel % 2 = 0 then refused 1
  else if reservedInUse s k channel then refused 2
  else if x.live = 2 ^ channel then refused 3
  else setStack s k { x with dropCh := channel, busy := true, result := 0 }

/-- A pseudo-channel that the management controller drops by itself: its uncorrectable errors have reached the threshold, or a
test has failed it (R472, R480). -/
def failingChannel (s : State) (k : Nat) : Option Nat :=
  let x := getStack s k
  (bitsSet x.live 64).find? (fun p =>
    (decide (s.hub.dropThreshold ≠ 0) && decide (s.hub.dropThreshold ≤ Cells.get 0 x.counters (chanKey p 1 0) % 2 ^ 48))
      || s.hub.fenced.any (fun f => f.1 == 8 * 4096 + k * 64 + p))

/-- Steps 2 to 4: the slices write back the stack's lines; the interleave is rebuilt and the channel leaves service; what the new range does not reach is gone. -/
def finishDrop (s : State) (k : Nat) : State :=
  let s := writeBackRange s (k * 64 * gib) ((k + 1) * 64 * gib)
  let x := getStack s k
  raiseMsi (setStack s k { x with live := x.live - 2 ^ x.dropCh, busy := false, result := 0 }) 0

/-- PSEUDO_CHANNEL_DROP: a drop starts, of the channel that the controller finds failing or of the one that mdrop names; then
every placed team is saved; then the stack is rebuilt (R482). -/
def execPseudoChannelDrop (stack : Nat) (s : State) : Out :=
  let x := getStack s stack
  if 16 ≤ stack then stall s
  else if !x.busy then .next (startDrop s stack ((failingChannel s stack).getD x.dropCh))
  else
    match (s.teams.filter (fun t => t.2.saved.isNone)).map (fun t => t.1) with
    | [] => .next (finishDrop s stack)
    | ks => match saveTeams ks s with | some t => .next t | none => stall s

/-! ## Power and heat (R488 to R490) -/

/-- One share of what is left of the package limit: what a hot die had, cut to 40 %, or an open part. Returns share and rest. -/
def shareOf (s : State) (left : Nat) (hot : Bool) (prev i : Nat) : Nat × Nat :=
  let w := if hot then min left (prev * 40 / 100) else Config.freeNat (s.freeCtr + i) % (left + 1)
  (w, left - w)

/-- The shares of dies 0 to 7. -/
def dieShares (s : State) : List Nat → Nat → Cells Nat → Cells Nat × Nat
  | [], left, m => (m, left)
  | i :: r, left, m =>
    let p := shareOf s left (s.hub.hot.contains i) (Cells.get 0 s.hub.pdie i) i
    dieShares s r p.2 (Cells.set 0 m i p.1)

/-- The words of stacks 0 to 15: share in [47:32], budget in [31:0]. -/
def stackShares (s : State) : List Nat → Nat → Cells Nat → Cells Nat
  | [], _, m => m
  | k :: r, left, m =>
    let p := shareOf s left false 0 (8 + k)
    stackShares s r p.2 (Cells.set 0 m k (p.1 % 2 ^ 16 * 2 ^ 32 + Config.freeNat (s.freeCtr + 24 + k) % 2 ^ 32))

/-- The thermal field after an epoch's reports (R489, R490). -/
def thermalAfter (old : Nat) (temps : List Nat) : Nat :=
  if old = 2 then 2
  else if temps.any (fun t => decide (105 ≤ t)) then 1
  else if old = 1 ∧ temps.any (fun t => decide (100 ≤ t)) = true then 1 else 0

/-- POWER_EPOCH: the package limit is divided by the demand reported, the shares of all take effect together, and a die that was
hot has its share cut (R488, R489). How demand decides is open. -/
def execPowerEpoch (_dies _stacks temps : List Nat) (s : State) : Out :=
  let d := dieShares s (List.range 8) s.hub.plimitNext []
  let k := stackShares s (List.range 16) d.2 []
  let thermal := thermalAfter s.hub.thermal temps
  let t := { modHub s (fun h =>
    { h with plimit := h.plimitNext, pdie := d.1, pstk := k, thermal := thermal,
             hot := (List.range 8).filter (fun i => decide (105 ≤ temps.getD i 0)) }) with freeCtr := s.freeCtr + 40 }
  .next (if thermal = s.hub.thermal then t else raiseMsi t 0)

/-- The record of a launch that a trip ends. -/
def tripRecord (s : State) (lid : Nat) (l : Launch) : FaultRecord :=
  { timebase := s.timebase, qentry := l.qentry, detail := 2 + 2 ^ 48 + l.elapsed % 2 ^ 64 * 2 ^ 64, block := 0, mask := 0, pc := 0,
    unit := 0, wave := 0, ends := true, deferred := false, cont := false, path := 0, stream := false, code := 0x19, lid := some lid }

/-- A launch that a trip ends: running, or taken and not started; one that has all its teams retired keeps its completion. -/
def tripEnds (l : Launch) : Bool := l.state == .waiting || (l.state == .running && !(l.started && l.retired == l.e.teams))

/-- One launch is killed by a trip; a rollback that was due is not made (R490). -/
def tripLaunch (s : State) (p : Nat × Launch) : State :=
  if tripEnds p.2 then
    let s := modLaunch s p.1 (fun l =>
      if l.state = .waiting then { l with state := .killed, donePending := true, cpWait := none, waitingTeams := [], ending := some .kill }
      else { l with ending := some .kill })
    writeFault s p.2.ctx (tripRecord s p.1 p.2)
  else s

/-- THERMAL_TRIP (R490). -/
def execThermalTrip (die : Nat) (s : State) : Out :=
  if 8 ≤ die ∨ s.hub.thermal = 2 then stall s
  else .next (raiseMsi (s.launches.foldl tripLaunch (modHub s (fun h => { h with thermal := 2 }))) 0)

/-! ## Programmable counters (R495, R497) -/

/-- A clear: overflow and count are 0, and the increments that meet it are lost, saturating (R494, R495). -/
def clearCounter (meets : Nat) (v : Dword) : Dword := BitVec.ofNat 64 (min 0x7FFF (v.toNat / 2 ^ 48 % 2 ^ 15 + meets) * 2 ^ 48)

/-- The increments that reach a programmable counter in the cycle in which it is written: of busy or stalled cycles at most one, of traffic
any number, as it comes (R9, R497). Log entry 59. -/
def incrementsMet (s : State) (i : Nat) : Nat :=
  let sel := (Cells.get 0 s.hub.csel i).toNat
  let ev := sel / 2 ^ 24 % 256
  if sel % 2 = 0 then 0 else if ev < 2 then Config.freeNat s.freeCtr % 2 else if ev = 4 then Config.freeNat s.freeCtr else 0

/-- COUNTER_REPROGRAM: a select word is written; one with a nonzero bit above bit 31 is ignored. -/
def execCounterReprogram (i : Nat) (v : Dword) (s : State) : Out :=
  if 8 ≤ i then stall s
  else if v.toNat / 2 ^ 32 ≠ 0 then .next s
  else
    .next (modHub { s with freeCtr := s.freeCtr + 1 } (fun h =>
      { h with csel := Cells.set 0 h.csel i (v &&& ~~~(0x1E : Dword))
               ccnt := Cells.set 0 h.ccnt i (clearCounter (incrementsMet s i) (Cells.get 0 h.ccnt i)) }))

/-! ## The time series (R496, R498, R499) -/

/-- Every unit, in ascending class, die and index: class, die, index. -/
def allUnits : List (Nat × Nat × Nat) :=
  (List.range 10).flatMap (fun c =>
    match c with
    | 3 => (List.range 128).map (fun i => (c, 0, i))
    | 4 => (List.range 1024).map (fun i => (c, 0, i))
    | 6 => (List.range 128).map (fun i => (c, 0, i))
    | 8 => (List.range 1024).map (fun i => (c, 0, i))
    | 9 => (List.range 64).map (fun i => (c, 0, i))
    | _ => (List.range 8).flatMap (fun d => (List.range 64).flatMap (fun k =>
        (List.range (if c = 1 then 4 else 1)).map (fun n => (c, d, k * 64 + n)))))

/-- Key of a unit's counter: 0 busy, 1 stall. -/
def unitKey (u : Nat × Nat × Nat) (part : Nat) : Nat := (u.2.1 * 65536 + u.1 * 4096 + u.2.2) * 2 + part

/-- The busy and stall counters have gone on; by how much is timing. -/
def unitsRun (s : State) : Cells Nat :=
  (allUnits.zipIdx).foldl (fun m u =>
    let step := fun part m => Cells.set 0 m (unitKey u.1 part) (countUp (Cells.get 0 m (unitKey u.1 part)) (Config.freeNat (s.freeCtr + 2 * u.2 + part)))
    step 1 (step 0 m)) s.unitCounters

/-- An entry of a frame. -/
def frameEntry (unit die counter word : Nat) : List Byte := bytesOfNat 8 (unit + die * 2 ^ 16 + counter * 2 ^ 24) ++ bytesOfNat 8 word

/-- The entries of a frame. -/
def frameEntries (units : Cells Nat) (ccnt : Cells Dword) : List Byte :=
  allUnits.flatMap (fun u => [0, 1].flatMap (fun part => frameEntry (u.1 * 4096 + u.2.2) u.2.1 part (Cells.get 0 units (unitKey u part))))
    ++ (List.range 8).flatMap (fun i => frameEntry 0 0 (8 + i) (Cells.get 0 ccnt i).toNat)

def frameHeader (s : State) (entries : Nat) : List Byte :=
  bytesOfNat 8 s.timebase ++ bytesOfNat 8 s.hub.tsTicks ++ bytesOfNat 4 entries ++ bytesOfNat 4 s.hub.tsDropped ++ List.replicate 40 0

/-- Write bytes at an offset of a ring of `size` bytes that starts at `base`. -/
def ringWrite (s : State) (base size off : Nat) (bs : List Byte) : State :=
  let o := off % size
  let s := writePhys s (base + o) (bs.take (size - o))
  writePhys s base (bs.drop (size - o))

/-- TIME_SERIES_TICK: the counters are latched and one frame is written if the whole of it fits, or counted as dropped. The
indices count bytes of frames (a choice of the model: the spec states no unit). -/
def execTimeSeriesTick (s : State) : Out :=
  let ctl := s.hub.tsctl.toNat
  if ctl % 2 = 0 ∨ s.clock % 2 ^ (ctl / 2 ^ 8 % 32) ≠ 0 then stall s
  else
    let base := s.hub.tsbase.toNat
    let units := unitsRun s
    let n := 2 * allUnits.length + 8
    let len := 64 + 16 * n
    let size := 2 ^ (ctl / 2 ^ 3 % 32) - 64
    let read := readPhysNat s (base + 8) 8
    let t := { s with unitCounters := units, freeCtr := s.freeCtr + n }
    if s.hub.tsWrite + len ≤ read + size then
      let u := ringWrite t (base + 64) size s.hub.tsWrite (frameHeader s n ++ frameEntries units s.hub.ccnt)
      let u := writePhys u base (bytesOfNat 8 (s.hub.tsWrite + len))
      .next (modHub u (fun h => { h with tsWrite := h.tsWrite + len, tsTicks := h.tsTicks + 1, tsDropped := 0 }))
    else .next (modHub t (fun h => { h with tsTicks := h.tsTicks + 1, tsDropped := h.tsDropped + 1 }))

/-! ## Field test (R501 to R503) -/

/-- The test that a control word asks for, if it asks for one. -/
def testOf (v : Nat) : FieldTest :=
  { kind := v / 2 ^ 28 % 8, cls := v / 2 ^ 24 % 16, die := v / 2 ^ 21 % 8, index := v / 2 ^ 9 % 4096, running := false }

/-- A write of ftctl: ignored with a nonzero bit above bit 31, or a kind or class that does not exist; go queues the test. -/
def writeFtctl (s : State) (v : Dword) : State :=
  let n := v.toNat
  let t := testOf n
  if n / 2 ^ 32 ≠ 0 ∨ 2 ≤ t.kind ∨ 10 ≤ t.cls then s
  else modHub s (fun h => { h with ftctl := v &&& 0x7FFFFE00, tests := if n / 2 ^ 31 % 2 = 1 then h.tests ++ [t] else h.tests })

/-- FIELD_TEST_REQUEST. -/
def execFieldTestRequest (v : Dword) (s : State) : Out := .next (writeFtctl s v)

/-- FIELD_TEST_INTERVAL: every unit is to have an array self-test; an interval of 0 schedules none. -/
def execFieldTestInterval (s : State) : Out :=
  if s.hub.ftint = 0 then stall s
  else .next (modHub s (fun h => { h with tests := h.tests ++ allUnits.map (fun u => { kind := 1, cls := u.1, die := u.2.1, index := u.2.2, running := false }) }))

/-- The core of a test's unit. -/
def testCore (t : FieldTest) : Nat := t.die * 64 + t.index / 64 % 64

/-- FIELD_TEST_RUN: the first test starts once its unit is free; a lane pipe's paths go to the yard core meanwhile (R270, R502). -/
def execFieldTestRun (s : State) : Out :=
  match s.hub.tests with
  | [] => stall s
  | t :: rest =>
    if t.running || (needsCore t && !((teamsOn s (testCore t)).isEmpty)) then stall s
    else
      let s := modHub s (fun h => { h with tests := { t with running := true } :: rest })
      if t.cls = 1 ∧ t.kind = 1 then
        let c := testCore t
        let k := getCore s c
        .next (setCore s c { k with pipesDown := (t.index % 64) :: k.pipesDown.filter (fun p => p != t.index % 64) })
      else .next s

/-- The record of a test. -/
def testRecord (s : State) (t : FieldTest) (failed : Bool) (element : Nat) : List Byte :=
  bytesOfNat 8 s.timebase ++ bytesOfNat 8 (t.cls * 4096 + t.index + t.die * 2 ^ 16 + t.kind * 2 ^ 24 + b2n failed * 2 ^ 32)
    ++ bytesOfNat 8 element ++ List.replicate 40 0

/-- FIELD_TEST_COMPLETE: the record is written; a failed unit is fenced, another is in service again (R502, R503). -/
def execFieldTestComplete (failed : Bool) (element : Nat) (s : State) : Out :=
  match s.hub.tests with
  | [] => stall s
  | t :: rest =>
    if !t.running then stall s
    else
      let slot := s.hub.testsDone % (Config.testRingSlots + 1)
      let s := writePhys s (s.hub.tbase.toNat + 64 * slot) (testRecord s t failed element)
      let s := modHub s (fun h => { h with tests := rest, testsDone := h.testsDone + 1 })
      if failed then .next (fenceUnit s (t.cls * 4096 + t.index) 1 t.die)
      else if t.cls = 1 ∧ t.kind = 1 then
        let c := testCore t
        let k := getCore s c
        .next (setCore s c { k with pipesDown := k.pipesDown.filter (fun p => p != t.index % 64 || k.pipesFenced.contains p) })
      else .next s

end Sys2Proof.Machine
end

