-- ==== Sys2Proof/Machine/Bringup.lean ====
section
/-! DEFINITION. Device reset, readiness, firmware, attestation, and the host's accesses through BAR 0 and BAR 2 (R3, R297, R359,
R360, R380, R381, R408, R466, R475, R480, R483 to R488, R491 to R493, R497 to R501). -/

namespace Sys2Proof.Machine

/-! ## Readiness (R484 to R486) -/

/-- rdy0. -/
def rdy0 (s : State) : Nat :=
  let h := s.hub
  h.domainsReady % 2 ^ 16 + h.stacksReady % 2 ^ 16 * 2 ^ 16 + h.planesReady % 2 ^ 8 * 2 ^ 32 + b2n h.hostReady * 2 ^ 44 + b2n h.hubReady * 2 ^ 45
    + h.thermal % 4 * 2 ^ 46

def setBit (m b : Nat) : Nat := Nat.lor m (2 ^ b)

/-- FUNCTION_READY: a function's start-up test has passed (R484); no function but the host port comes up without firmware, and no
stack without configuration (R491, R492). -/
def execFunctionReady (f : Function) (s : State) : Out :=
  if s.hub.fwStatus ≠ 0 then stall s
  else
    match f with
    | .domain d => if d < 16 then .next (raiseMsi (modHub s (fun h => { h with domainsReady := setBit h.domainsReady d })) 0) else stall s
    | .stack k =>
      if k < 16 ∧ s.hub.configOk = true ∧ (getStack s k).live ≠ 0 then
        .next (raiseMsi (modHub s (fun h => { h with stacksReady := setBit h.stacksReady k })) 0)
      else stall s
    | .plane p =>
      if p < 8 ∧ planeLive s p = true then .next (raiseMsi (modHub s (fun h => { h with planesReady := setBit h.planesReady p })) 0) else stall s
    | .hub => .next (raiseMsi (modHub s (fun h => { h with hubReady := true })) 0)
    | .queue q => if q < 64 then .next (modHub s (fun h => { h with queuesReady := setBit h.queuesReady q })) else stall s
    | .lanePipe c p =>
      let k := getCore s c
      if c < 512 ∧ p < 4 ∧ k.pipesFenced.contains p = false then .next (setCore s c { k with pipesDown := k.pipesDown.filter (fun q => q != p) })
      else stall s

/-! ## Firmware, configuration and reset (R484, R491, R492) -/

/-- An image verifies and is not older than the store allows. -/
def imageGood (image : List Byte) (version : Nat) : Bool := Config.imageVerifies image && decide (version ≤ Config.imageVersion image)

/-- FIRMWARE_UPDATE: the mailbox image is verified at once and staged for the next reset. -/
def execFirmwareUpdate (image : List Byte) (s : State) : Out :=
  if imageGood image s.hub.fwVersion then .next (modHub s (fun h => { h with fwStaged := some image })) else .next s

/-- The image that a reset runs: the staged one, or the one before it. -/
def bootImage (h : Hub) : Option (List Byte) :=
  match h.fwStaged with
  | some i => if imageGood i h.fwVersion then some i else if imageGood h.fwImage h.fwVersion then some h.fwImage else none
  | none => if imageGood h.fwImage h.fwVersion then some h.fwImage else none

/-- The hub once firmware and configuration record have been verified. -/
def bootHub (old : Hub) : Hub :=
  let img := bootImage old
  let rec_ := Config.configRecord
  let ok := img.isSome && Config.imageVerifies rec_ && decide (old.configVersion ≤ Config.recordField rec_ 0)
  { Hub.reset with
    fwStatus := if img.isSome then 0 else 1
    fwImage := img.getD old.fwImage
    fwVersion := match img with | some i => Config.imageVersion i | none => old.fwVersion
    config := if ok then rec_ else []
    configOk := ok
    configVersion := if ok then Config.recordField rec_ 0 else old.configVersion
    mgmtBase := if ok then Config.recordField rec_ 1 else 0
    mgmtLen := if ok then Config.recordField rec_ 2 else 0
    dropThreshold := if ok then Config.recordField rec_ 4 else 0
    portThreshold := if ok then Config.recordField rec_ 5 else 0
    lmsLeft := old.lmsLeft }

/-- The stacks as the record configures them. -/
def bootStacks (ok : Bool) : Tbl Stack :=
  if ok then
    (List.range 16).map (fun k => (k, { Stack.reset with
      period := Config.recordField Config.configRecord 3 % 2 ^ 10, reserved := Config.recordField Config.configRecord (6 + k) % 2 ^ 64 }))
  else []

/-- DEVICE_RESET: the root of trust verifies firmware and configuration, and everything else starts from its reset values; device
memory keeps its contents (the spec states neither). -/
def execDeviceReset (s : State) : Out :=
  let h := bootHub s.hub
  .next { State.reset with
    agenda := s.agenda, freeCtr := s.freeCtr, pkg := s.pkg, mem := s.mem, tags := s.tags, checks := s.checks, hub := h, hbm := bootStacks h.configOk }

/-! ## Attestation (R493) -/

/-- ATTESTATION_REQUEST: a report over the running image, or status 3 when no LMS signature is left. Its fields stand in the order
in which the spec lists them (a choice of the model). -/
def execAttestationRequest (nonce : List Byte) (s : State) : Out :=
  if nonce.length ≠ 48 then stall s
  else
    let h := s.hub
    if h.lmsLeft = 0 then .next (modHub s (fun h => { h with nonce := nonce, attestStatus := 3, report := [] }))
    else
      let body := nonce ++ Config.digest h.fwImage ++ Config.digest h.config ++ bytesOfNat 4 h.fwVersion ++ bytesOfNat 4 h.configVersion
        ++ bytesOfNat 8 (rdy0 s) ++ bytesOfNat 8 (h.lmsLeft - 1)
      let body := body.take 256 ++ List.replicate (256 - body.length) 0
      .next (modHub s (fun h => { h with nonce := nonce, attestStatus := 0, report := body ++ Config.signReport body, lmsLeft := h.lmsLeft - 1 }))

/-! ## BAR 2 (R466, R483) -/

/-- A leaf of some table maps a physical address at a generation other than the context's (R400): a write there must wait for the
copy of its page. -/
def staleLeaf (s : State) (gen pa : Nat) : Nat → List (Nat × Nat × Nat) → Bool
  | _, [] => false
  | table, (level, lo, n) :: rest =>
    (List.range (2 ^ n)).any (fun i =>
      let e := readPhysNat s (table + 8 * i) 8
      decide (e % 2 = 1) && !(malformedEntry s.pkg level e) &&
        (if bitsOf e 1 1 = 1 then
          bitsOf e 9 9 == 0 && bitsOf e 63 48 != gen && decide (bitsOf e 47 17 * 2 ^ 17 ≤ pa) && decide (pa < bitsOf e 47 17 * 2 ^ 17 + 2 ^ lo)
         else staleLeaf s gen pa (bitsOf e 47 12 * 2 ^ 12) rest))

/-- An armed context has still to copy the page of a physical address. -/
def hostMustWait (s : State) (pa : Nat) : Bool :=
  s.contexts.any (fun p => p.2.armed.isSome && staleLeaf s p.2.generation pa p.2.ptroot walkLevels)

/-- The compression class of the first local leaf of some tables that maps a physical address. -/
def leafClass (s : State) (pa : Nat) : Nat → List (Nat × Nat × Nat) → Option Nat
  | _, [] => none
  | table, (level, lo, n) :: rest =>
    (List.range (2 ^ n)).findSome? (fun i =>
      let e := readPhysNat s (table + 8 * i) 8
      if e % 2 = 0 ∨ malformedEntry s.pkg level e = true then none
      else if bitsOf e 1 1 = 1 then
        (if bitsOf e 9 9 = 0 ∧ bitsOf e 47 17 * 2 ^ 17 ≤ pa ∧ pa < bitsOf e 47 17 * 2 ^ 17 + 2 ^ lo then some (bitsOf e 6 5) else none)
      else leafClass s pa (bitsOf e 47 12 * 2 ^ 12) rest)

/-- The class of the page of a physical address (R293): of the first context, by identifier, that maps it; an address that no page names is
kept raw. Log entry 14. -/
def pageClass (s : State) (pa : Nat) : Nat := (s.contexts.findSome? (fun c => leafClass s pa c.2.ptroot walkLevels)).getD 1

/-- What a host read through the window delivers: expanded data, from live ranges (R297, R483). -/
def hostRead (s : State) (off len : Nat) : List Byte := readPhys s (s.hub.winBase + off) len

/-- A host write enters through the hub and is merged as any other: the line is encoded again by the class of its page (R296, R297,
R340). It acts at SYSTEM scope, once no peer holds the line and the snapshot copy of its page is made. -/
def performHostWrite (s : State) (pa : Nat) (bs : List Byte) : Out :=
  if hostMustWait s pa then stall s
  else if !((holdersOf s (pa / 128)).isEmpty) then evictLine s (pa / 128)
  else .next (writePhysCls s (pageClass s pa) pa bs false)

/-- The hub performs the oldest posted write of the host. -/
def hostWrite (s : State) : Out :=
  match s.hub.posted with
  | [] => stall s
  | b :: r =>
    if hostMustWait s b.1 || !((holdersOf s (b.1 / 128)).isEmpty) then performHostWrite s b.1 b.2
    else performHostWrite (modHub s (fun h => { h with posted := r })) b.1 b.2

/-- HOST_WINDOW_ACCESS: a read changes nothing; a write within one line is performed, or is posted behind those that wait (R360). A write
to an address of no live range is dropped. -/
def execHostWindowAccess (off : Nat) (data : Option (List Byte)) (len : Nat) (s : State) : Out :=
  let pa := s.hub.winBase + off
  match data with
  | none => if off + len ≤ 2 ^ 36 then .next s else stall s
  | some bs =>
    if bs.length ≠ len ∨ 2 ^ 36 < off + len ∨ 128 < pa % 128 + len then stall s
    else if !(livePhys s pa) ∨ len = 0 then .next s
    else if hostMustWait s pa || !((holdersOf s (pa / 128)).isEmpty) || !(s.hub.posted.isEmpty) then
      .next (modHub s (fun h => { h with posted := h.posted ++ [(pa, bs)] }))
    else performHostWrite s pa bs

/-! ## BAR 0 (R359, R360, R380, R408, R475, R480, R483, R485 to R488, R497 to R501) -/

/-- Bits [hi:lo] of a register are replaced. -/
def bitField (old new : Dword) (mask : Nat) : Dword := (old &&& ~~~(BitVec.ofNat 64 mask)) ||| (new &&& BitVec.ofNat 64 mask)

/-- A write of qctl. A queue whose context does not exist refuses enable (R379). -/
def writeQctl (s : State) (q : Queue) (n : Nat) : Queue :=
  let off := !q.enable
  let ctx := if off then n / 2 ^ 48 % 2 ^ 16 else q.ctx
  let log2 := n / 2 ^ 8 % 32
  { q with
    ctx := ctx
    log2 := if off ∧ 4 ≤ log2 ∧ log2 ≤ 16 then log2 else q.log2
    prio := n / 2 ^ 4 % 4
    deviceFed := if off then decide (n / 2 ^ 3 % 2 = 1) else q.deviceFed
    enable := decide (n % 2 = 1) && (getCtx s ctx).isSome }

/-- A write to a queue's block (R359); qtail has an event of its own, and the same effect. -/
def writeQueueReg (s : State) (q reg : Nat) (v : Dword) : Out :=
  if reg = 24 then execQtailWrite q v s
  else if s.hub.queuesReady / 2 ^ q % 2 = 0 then .next s
  else if reg = 0 then
    (if (getQueue s q).enable ∨ v.toNat % 4096 ≠ 0 then .next s else .next (modQueue s q (fun x => { x with base := v.toNat })))
  else if reg = 8 then .next (modQueue s q (fun x => writeQctl s x v.toNat))
  else .next s

/-- A write to a context's control block (R380). -/
def writeContextReg (s : State) (c reg : Nat) (v : Dword) : Out :=
  if !s.hub.hubReady ∨ c = 0 then .next s
  else if reg = 0 then .next (modBlock s c (fun b => { b with cdesc := v }))
  else if reg = 8 then .next (modBlock s c (fun b => { b with param0 := v }))
  else if reg = 16 then .next (modBlock s c (fun b => { b with param1 := v }))
  else if reg = 24 then runCommand s c (v.toNat % 256)
  else .next s

/-- A write to a stack's control block (R475). -/
def writeStackReg (s : State) (k reg : Nat) (v : Dword) : State :=
  let x := getStack s k
  let n := v.toNat
  if s.hub.stacksReady / 2 ^ k % 2 = 0 then s
  else if reg = 0 then
    let p := n / 2 % 2 ^ 10
    setStack s k { x with enable := decide (n % 2 = 1), period := if 1 ≤ p ∧ p ≤ 720 then p else x.period }
  else if reg = 32 then
    if n / 2 ^ 7 % 2 = 0 then setStack s k { x with dropCh := n % 64 }
    else if x.busy then setStack s k { x with result := 4 }
    else startDrop s k (n % 64)
  else s

/-- A write of tsctl or tsbase, whose fields keep their values while the series is enabled, or where the value is none that they may hold
(R498). An enabled series counts its ticks from 0. -/
def writeSeries (s : State) (reg : Nat) (v : Dword) : State :=
  let on := decide (s.hub.tsctl.toNat % 2 = 1)
  if reg = 0 then
    let k := v.toNat / 2 ^ 8 % 32
    let l := v.toNat / 2 ^ 3 % 32
    let c := if !on ∧ 10 ≤ k ∧ k ≤ 24 then bitField s.hub.tsctl v 0x1F00 else s.hub.tsctl
    let c := if !on ∧ 20 ≤ l ∧ l ≤ 30 then bitField c v 0xF8 else c
    let c := bitField c v 1
    modHub s (fun h => if !on ∧ v.toNat % 2 = 1 then { h with tsctl := c, tsTicks := 0, tsWrite := 0, tsDropped := 0 } else { h with tsctl := c })
  else if on ∨ v.toNat % 2 ^ (s.hub.tsctl.toNat / 2 ^ 3 % 32) ≠ 0 ∨
      (reservedRanges s).all (fun b => decide (v.toNat < b) || decide (b + chanData ≤ v.toNat)) = true then s
  else modHub s (fun h => { h with tsbase := v })

/-- A write to a register of the hub below 0x1_0000. -/
def writeHubReg (s : State) (off : Nat) (v : Dword) : Out :=
  let n := v.toNat
  if off = 0x410 then .next (modHub s (fun h => { h with qerr := Nat.land h.qerr (2 ^ 64 - 1 - n) }))
  else if off = 0x800 then
    (let w := n % 4096
     if 400 ≤ w ∧ w ≤ 2800 then .next (modHub s (fun h => { h with plimitNext := w })) else .next s)
  else if 0xC00 ≤ off ∧ off < 0xC80 then (if off % 16 = 0 then execCounterReprogram ((off - 0xC00) / 16) v s else .next s)
  else if off = 0xC80 then .next (writeSeries s 0 v)
  else if off = 0xC88 then .next (writeSeries s 8 v)
  else if off = 0xD00 then .next (writeFtctl s v)
  else if off = 0xD08 then (if n % 1024 ≤ 720 then .next (modHub s (fun h => { h with ftint := n % 1024 })) else .next s)
  else if off = 0xD10 then (if n % 64 = 0 then .next (modHub s (fun h => { h with tbase := v })) else .next s)
  else if off < 0x400 ∧ off = Config.winBaseOffset then
    (if n % 2 ^ 36 = 0 then .next (modHub s (fun h => { h with winBase := n })) else .next s)
  else .next s

/-- REGISTER_WRITE: a host write of 64 bits to BAR 0; one to an offset that no table names, to a read-only register or to a function
that is not ready is ignored (R483, R485). -/
def execRegisterWrite (off : Nat) (v : Dword) (s : State) : Out :=
  if off % 8 ≠ 0 ∨ 2 ^ 20 ≤ off then stall s
  else if off < 0x10000 then writeHubReg s off v
  else if off < 0x10800 then writeQueueReg s ((off - 0x10000) / 32) (off % 32) v
  else if off < 0x20000 then .next s
  else if off < 0x30000 then writeContextReg s ((off - 0x20000) / 64) (off % 64) v
  else if 0x40000 ≤ off ∧ off < 0x40400 then .next (writeStackReg s ((off - 0x40000) / 64) (off % 64) v)
  else .next s

/-! ### Reads of BAR 0 -/

/-- The plane map register (R408). -/
def planeMapWord (s : State) : Nat :=
  ((s.hub.planeMap.zipIdx).foldl (fun a p => a + p.1 % 8 * 2 ^ (4 * p.2)) 0) + s.hub.planesLive % 256 * 2 ^ 32 + s.hub.mapVersion % 2 ^ 24 * 2 ^ 40

/-- A queue's registers (R359). -/
def readQueueReg (q : Queue) (reg : Nat) : Nat :=
  match reg with
  | 0 => q.base
  | 8 => q.ctx % 2 ^ 16 * 2 ^ 48 + q.log2 % 32 * 2 ^ 8 + q.prio % 4 * 2 ^ 4 + b2n q.deviceFed * 2 ^ 3 + b2n q.enable
  | 16 => q.head
  | 24 => q.tail
  | _ => 0

/-- A stack's registers (R475). -/
def readStackReg (x : Stack) (reg : Nat) : Nat :=
  match reg with
  | 0 => x.period % 2 ^ 10 * 2 + b2n x.enable
  | 8 => x.passes * 2 ^ 16 % 2 ^ 64 + x.progress * 2 ^ 16 / max 1 ((dataChannels x).length * chanLines)
  | 16 => x.live
  | 24 => x.reserved
  | 32 => x.dropCh
  | 40 => b2n x.busy * 2 ^ 7 + x.result
  | _ => 0

/-- A word of a pseudo-channel's counter block (R480). -/
def readChanWord (x : Stack) (channel word : Nat) : Nat :=
  let part := fun p => Cells.get 0 x.counters (chanKey channel word p)
  if word < 3 then part 0
  else if 4 ≤ word ∧ word < 12 then part 0 + part 1 * 2 ^ 16 + part 2 * 2 ^ 32 + part 3 * 2 ^ 48
  else if 12 ≤ word ∧ word < 28 then part 0 + part 1 * 2 ^ 48
  else 0

/-- A word of a port's block (R500). -/
def readPortWord (p : Port) (word : Nat) : Nat :=
  match word with
  | 0 => p.corrected
  | 1 => p.retrains
  | 2 => p.lanes * 2 ^ 8 + p.margin
  | 3 => p.dropped
  | _ => 0

/-- A register of the hub below 0x1_0000. -/
def readHubReg (s : State) (off : Nat) : Nat :=
  let h := s.hub
  if off = 0x400 then rdy0 s
  else if off = 0x408 then h.queuesReady
  else if off = 0x410 then h.qerr
  else if off = 0x418 then h.fenced.length
  else if 0x500 ≤ off ∧ off < 0x600 then
    (match h.fenced[(off - 0x500) / 8]? with
     | some f => f.1 + f.2.1 * 2 ^ 16 + f.2.2 * 2 ^ 24
     | none => 0)
  else if off = 0x800 then h.plimitNext
  else if 0x808 ≤ off ∧ off < 0x848 then Cells.get 0 h.pdie ((off - 0x808) / 8)
  else if 0x848 ≤ off ∧ off < 0x8C8 then Cells.get 0 h.pstk ((off - 0x848) / 8)
  else if off < 0x400 ∧ off = Config.winBaseOffset then h.winBase
  else if off < 0x400 ∧ off = Config.fwStatusOffset then h.fwStatus
  else if 0xC00 ≤ off ∧ off < 0xC80 then
    (if off % 16 = 0 then (Cells.get 0 h.csel ((off - 0xC00) / 16)).toNat else (Cells.get 0 h.ccnt ((off - 0xC00) / 16)).toNat)
  else if off = 0xC80 then h.tsctl.toNat
  else if off = 0xC88 then h.tsbase.toNat
  else if off = 0xD00 then h.ftctl.toNat
  else if off = 0xD08 then h.ftint
  else if off = 0xD10 then h.tbase.toNat
  else 0

/-- What a host read of 64 bits at an offset of BAR 0 returns (R483, R485). -/
def registerRead (s : State) (off : Nat) : Nat :=
  let h := s.hub
  if off < 0x10000 then readHubReg s off
  else if off < 0x10800 then
    (if h.queuesReady / 2 ^ ((off - 0x10000) / 32) % 2 = 1 then readQueueReg (getQueue s ((off - 0x10000) / 32)) (off % 32) else 0)
  else if 0x20000 ≤ off ∧ off < 0x30000 then
    (let b := getBlock s ((off - 0x20000) / 64)
     if !h.hubReady then 0
     else match off % 64 with
       | 0 => b.cdesc.toNat
       | 8 => b.param0.toNat
       | 16 => b.param1.toNat
       | 32 => b2n b.busy * 2 ^ 63 + b.result
       | _ => 0)
  else if off = 0x30000 then planeMapWord s
  else if 0x40000 ≤ off ∧ off < 0x40400 then
    (if h.stacksReady / 2 ^ ((off - 0x40000) / 64) % 2 = 1 then readStackReg (getStack s ((off - 0x40000) / 64)) (off % 64) else 0)
  else if 0x50000 ≤ off ∧ off < 0x90000 then
    (if h.stacksReady / 2 ^ ((off - 0x50000) / 16384) % 2 = 1 then
      readChanWord (getStack s ((off - 0x50000) / 16384)) ((off - 0x50000) / 256 % 64) (off % 256 / 8) else 0)
  else if 0x90000 ≤ off ∧ off < 0x91000 then readPortWord (getPort s ((off - 0x90000) / 64)) (off % 64 / 8)
  else 0

end Sys2Proof.Machine
end

