-- ==== Sys2Proof/Machine/Dispatch.lean ====
section
/-! DEFINITION. The dispatch: one direct call of a meaning for each constructor of `Instr`. -/

namespace Sys2Proof.Machine

def exec (i : Instr) (s : State) : Host.Outcome State Fault Refusal :=
  match i with
  | .sadd f => Sys2Proof.Machine.execSadd f s
  | .ssub f => Sys2Proof.Machine.execSsub f s
  | .smul f => Sys2Proof.Machine.execSmul f s
  | .smulhs f => Sys2Proof.Machine.execSmulhs f s
  | .smulhu f => Sys2Proof.Machine.execSmulhu f s
  | .sdivs f => Sys2Proof.Machine.execSdivs f s
  | .sdivu f => Sys2Proof.Machine.execSdivu f s
  | .srems f => Sys2Proof.Machine.execSrems f s
  | .sremu f => Sys2Proof.Machine.execSremu f s
  | .sand f => Sys2Proof.Machine.execSand f s
  | .sor f => Sys2Proof.Machine.execSor f s
  | .sxor f => Sys2Proof.Machine.execSxor f s
  | .sandn f => Sys2Proof.Machine.execSandn f s
  | .sshl f => Sys2Proof.Machine.execSshl f s
  | .sshr f => Sys2Proof.Machine.execSshr f s
  | .ssra f => Sys2Proof.Machine.execSsra f s
  | .smins f => Sys2Proof.Machine.execSmins f s
  | .smaxs f => Sys2Proof.Machine.execSmaxs f s
  | .sminu f => Sys2Proof.Machine.execSminu f s
  | .smaxu f => Sys2Proof.Machine.execSmaxu f s
  | .sslts f => Sys2Proof.Machine.execSslts f s
  | .ssltu f => Sys2Proof.Machine.execSsltu f s
  | .sseq f => Sys2Proof.Machine.execSseq f s
  | .sclz f => Sys2Proof.Machine.execSclz f s
  | .spopc f => Sys2Proof.Machine.execSpopc f s
  | .sext f => Sys2Proof.Machine.execSext f s
  | .zext f => Sys2Proof.Machine.execZext f s
  | .saddi f => Sys2Proof.Machine.execSaddi f s
  | .sandi f => Sys2Proof.Machine.execSandi f s
  | .sori f => Sys2Proof.Machine.execSori f s
  | .sxori f => Sys2Proof.Machine.execSxori f s
  | .sshli f => Sys2Proof.Machine.execSshli f s
  | .sshri f => Sys2Proof.Machine.execSshri f s
  | .ssrai f => Sys2Proof.Machine.execSsrai f s
  | .sslti f => Sys2Proof.Machine.execSslti f s
  | .sli f => Sys2Proof.Machine.execSli f s
  | .slih f => Sys2Proof.Machine.execSlih f s
  | .saddl f => Sys2Proof.Machine.execSaddl f s
  | .slea f => Sys2Proof.Machine.execSlea f s
  | .sld f => Sys2Proof.Machine.execSld f s
  | .sst f => Sys2Proof.Machine.execSst f s
  | .satom f => Sys2Proof.Machine.execSatom f s
  | .scas f => Sys2Proof.Machine.execScas f s
  | .sprf f => Sys2Proof.Machine.execSprf f s
  | .b f => Sys2Proof.Machine.execB f s
  | .call f => Sys2Proof.Machine.execCall f s
  | .ret f => Sys2Proof.Machine.execRet f s
  | .jr f => Sys2Proof.Machine.execJr f s
  | .beq f => Sys2Proof.Machine.execBeq f s
  | .bne f => Sys2Proof.Machine.execBne f s
  | .blts f => Sys2Proof.Machine.execBlts f s
  | .bges f => Sys2Proof.Machine.execBges f s
  | .bltu f => Sys2Proof.Machine.execBltu f s
  | .bgeu f => Sys2Proof.Machine.execBgeu f s
  | .loop f => Sys2Proof.Machine.execLoop f s
  | .lane f => Sys2Proof.Machine.execLane f s
  | .lwait f => Sys2Proof.Machine.execLwait f s
  | .recv f => Sys2Proof.Machine.execRecv f s
  | .srs f => Sys2Proof.Machine.execSrs f s
  | .sws f => Sys2Proof.Machine.execSws f s
  | .vadd f => Sys2Proof.Machine.execVadd f s
  | .vsub f => Sys2Proof.Machine.execVsub f s
  | .vmul f => Sys2Proof.Machine.execVmul f s
  | .vmulh f => Sys2Proof.Machine.execVmulh f s
  | .vmad f => Sys2Proof.Machine.execVmad f s
  | .vand f => Sys2Proof.Machine.execVand f s
  | .vor f => Sys2Proof.Machine.execVor f s
  | .vxor f => Sys2Proof.Machine.execVxor f s
  | .vshl f => Sys2Proof.Machine.execVshl f s
  | .vshr f => Sys2Proof.Machine.execVshr f s
  | .vsra f => Sys2Proof.Machine.execVsra f s
  | .vmin f => Sys2Proof.Machine.execVmin f s
  | .vmax f => Sys2Proof.Machine.execVmax f s
  | .vabs f => Sys2Proof.Machine.execVabs f s
  | .vneg f => Sys2Proof.Machine.execVneg f s
  | .vclz f => Sys2Proof.Machine.execVclz f s
  | .vpopc f => Sys2Proof.Machine.execVpopc f s
  | .vbfe f => Sys2Proof.Machine.execVbfe f s
  | .vbfi f => Sys2Proof.Machine.execVbfi f s
  | .vadds f => Sys2Proof.Machine.execVadds f s
  | .vsubs f => Sys2Proof.Machine.execVsubs f s
  | .vdot4 f => Sys2Proof.Machine.execVdot4 f s
  | .vcmp f => Sys2Proof.Machine.execVcmp f s
  | .vsel f => Sys2Proof.Machine.execVsel f s
  | .clog f => Sys2Proof.Machine.execClog f s
  | .vfadd f => Sys2Proof.Machine.execVfadd f s
  | .vfsub f => Sys2Proof.Machine.execVfsub f s
  | .vfmul f => Sys2Proof.Machine.execVfmul f s
  | .vfma f => Sys2Proof.Machine.execVfma f s
  | .vfmin f => Sys2Proof.Machine.execVfmin f s
  | .vfmax f => Sys2Proof.Machine.execVfmax f s
  | .vrcp f => Sys2Proof.Machine.execVrcp f s
  | .vrsq f => Sys2Proof.Machine.execVrsq f s
  | .vexp2 f => Sys2Proof.Machine.execVexp2 f s
  | .vlog2 f => Sys2Proof.Machine.execVlog2 f s
  | .vsinp f => Sys2Proof.Machine.execVsinp f s
  | .vcosp f => Sys2Proof.Machine.execVcosp f s
  | .vtanh f => Sys2Proof.Machine.execVtanh f s
  | .vcvt f => Sys2Proof.Machine.execVcvt f s
  | .vqnt f => Sys2Proof.Machine.execVqnt f s
  | .vpal f => Sys2Proof.Machine.execVpal f s
  | .vunpal f => Sys2Proof.Machine.execVunpal f s
  | .vpack f => Sys2Proof.Machine.execVpack f s
  | .vunpk f => Sys2Proof.Machine.execVunpk f s
  | .vmov f => Sys2Proof.Machine.execVmov f s
  | .vshuf f => Sys2Proof.Machine.execVshuf f s
  | .vbcast f => Sys2Proof.Machine.execVbcast f s
  | .vidx f => Sys2Proof.Machine.execVidx f s
  | .vtos f => Sys2Proof.Machine.execVtos f s
  | .vscan f => Sys2Proof.Machine.execVscan f s
  | .vballot f => Sys2Proof.Machine.execVballot f s
  | .ixset f => Sys2Proof.Machine.execIxset f s
  | .adset f => Sys2Proof.Machine.execAdset f s
  | .qmov f => Sys2Proof.Machine.execQmov f s
  | .qadd f => Sys2Proof.Machine.execQadd f s
  | .qsub f => Sys2Proof.Machine.execQsub f s
  | .qand f => Sys2Proof.Machine.execQand f s
  | .qor f => Sys2Proof.Machine.execQor f s
  | .qxor f => Sys2Proof.Machine.execQxor f s
  | .qshl f => Sys2Proof.Machine.execQshl f s
  | .qshr f => Sys2Proof.Machine.execQshr f s
  | .qli f => Sys2Proof.Machine.execQli f s
  | .vtoq f => Sys2Proof.Machine.execVtoq f s
  | .vld f => Sys2Proof.Machine.execVld f s
  | .vst f => Sys2Proof.Machine.execVst f s
  | .vatom f => Sys2Proof.Machine.execVatom f s
  | .vcas f => Sys2Proof.Machine.execVcas f s
  | .vldt f => Sys2Proof.Machine.execVldt f s
  | .vstt f => Sys2Proof.Machine.execVstt f s
  | .vste f => Sys2Proof.Machine.execVste f s
  | .vprf f => Sys2Proof.Machine.execVprf f s
  | .vlda f => Sys2Proof.Machine.execVlda f s
  | .vsta f => Sys2Proof.Machine.execVsta f s
  | .brv f => Sys2Proof.Machine.execBrv f s
  | .jmpv f => Sys2Proof.Machine.execJmpv f s
  | .callv f => Sys2Proof.Machine.execCallv f s
  | .retv f => Sys2Proof.Machine.execRetv f s
  | .regang f => Sys2Proof.Machine.execRegang f s
  | .lend f => Sys2Proof.Machine.execLend f s
  | .sigv f => Sys2Proof.Machine.execSigv f s
  | .brkv f => Sys2Proof.Machine.execBrkv f s
  | .trapv f => Sys2Proof.Machine.execTrapv f s
  | .nopv f => Sys2Proof.Machine.execNopv f s
  | .tdef f => Sys2Proof.Machine.execTdef f s
  | .tinv f => Sys2Proof.Machine.execTinv f s
  | .ctload f => Sys2Proof.Machine.execCtload f s
  | .palld f => Sys2Proof.Machine.execPalld f s
  | .gangset f => Sys2Proof.Machine.execGangset f s
  | .mclr f => Sys2Proof.Machine.execMclr f s
  | .mtab f => Sys2Proof.Machine.execMtab f s
  | .mlut f => Sys2Proof.Machine.execMlut f s
  | .mlutg f => Sys2Proof.Machine.execMlutg f s
  | .mxpq f => Sys2Proof.Machine.execMxpq f s
  | .mout f => Sys2Proof.Machine.execMout f s
  | .tbdrop f => Sys2Proof.Machine.execTbdrop f s
  | .mbatch f => Sys2Proof.Machine.execMbatch f s
  | .mwait f => Sys2Proof.Machine.execMwait f s
  | .mtest f => Sys2Proof.Machine.execMtest f s
  | .cpt f => Sys2Proof.Machine.execCpt f s
  | .cpg f => Sys2Proof.Machine.execCpg f s
  | .cps f => Sys2Proof.Machine.execCps f s
  | .cpb f => Sys2Proof.Machine.execCpb f s
  | .cpmc f => Sys2Proof.Machine.execCpmc f s
  | .send f => Sys2Proof.Machine.execSend f s
  | .chpost f => Sys2Proof.Machine.execChpost f s
  | .chpoll f => Sys2Proof.Machine.execChpoll f s
  | .fence f => Sys2Proof.Machine.execFence f s
  | .fenceo f => Sys2Proof.Machine.execFenceo f s
  | .fencea f => Sys2Proof.Machine.execFencea f s
  | .bar f => Sys2Proof.Machine.execBar f s
  | .step f => Sys2Proof.Machine.execStep f s
  | .sig f => Sys2Proof.Machine.execSig f s
  | .hbeat f => Sys2Proof.Machine.execHbeat f s
  | .yield f => Sys2Proof.Machine.execYield f s
  | .waitev f => Sys2Proof.Machine.execWaitev f s
  | .qput f => Sys2Proof.Machine.execQput f s
  | .trap f => Sys2Proof.Machine.execTrap f s
  | .exit f => Sys2Proof.Machine.execExit f s
  | .brk f => Sys2Proof.Machine.execBrk f s
  | .nop f => Sys2Proof.Machine.execNop f s
  | .dtload f => Sys2Proof.Machine.execDtload f s
  | .capset f => Sys2Proof.Machine.execCapset f s
  | .sbload f => Sys2Proof.Machine.execSbload f s
  | .sbflow f => Sys2Proof.Machine.execSbflow f s
  | .boxAdd f => Sys2Proof.Machine.execBoxAdd f s
  | .boxSub f => Sys2Proof.Machine.execBoxSub f s
  | .boxMul f => Sys2Proof.Machine.execBoxMul f s
  | .boxMin f => Sys2Proof.Machine.execBoxMin f s
  | .boxMax f => Sys2Proof.Machine.execBoxMax f s
  | .boxAnd f => Sys2Proof.Machine.execBoxAnd f s
  | .boxOr f => Sys2Proof.Machine.execBoxOr f s
  | .boxXor f => Sys2Proof.Machine.execBoxXor f s
  | .boxShl f => Sys2Proof.Machine.execBoxShl f s
  | .boxShr f => Sys2Proof.Machine.execBoxShr f s
  | .boxCmp f => Sys2Proof.Machine.execBoxCmp f s
  | .boxSel f => Sys2Proof.Machine.execBoxSel f s
  | .boxAddi f => Sys2Proof.Machine.execBoxAddi f s
  | .boxLdi f => Sys2Proof.Machine.execBoxLdi f s
  | .boxLdiH f => Sys2Proof.Machine.execBoxLdiH f s
  | .boxGetl f => Sys2Proof.Machine.execBoxGetl f s
  | .boxSetl f => Sys2Proof.Machine.execBoxSetl f s
  | .boxPld f => Sys2Proof.Machine.execBoxPld f s
  | .boxPst f => Sys2Proof.Machine.execBoxPst f s
  | .boxFldVector f => Sys2Proof.Machine.execBoxFldVector f s
  | .boxFldScalar f => Sys2Proof.Machine.execBoxFldScalar f s
  | .boxFstVector f => Sys2Proof.Machine.execBoxFstVector f s
  | .boxFstScalar f => Sys2Proof.Machine.execBoxFstScalar f s
  | .boxFinc f => Sys2Proof.Machine.execBoxFinc f s
  | .boxHrd f => Sys2Proof.Machine.execBoxHrd f s
  | .boxHwr f => Sys2Proof.Machine.execBoxHwr f s
  | .boxQordaTrap f => Sys2Proof.Machine.execBoxQordaTrap f s
  | .boxEmit f => Sys2Proof.Machine.execBoxEmit f s
  | .boxPass f => Sys2Proof.Machine.execBoxPass f s
  | .boxDrop f => Sys2Proof.Machine.execBoxDrop f s
  | .boxBr f => Sys2Proof.Machine.execBoxBr f s
  | .boxRep f => Sys2Proof.Machine.execBoxRep f s
  | .windowWriteAccept n => Sys2Proof.Machine.execWindowWriteAccept n s
  | .loadDataReturn wid n lanes fromL1 => Sys2Proof.Machine.execLoadDataReturn wid n lanes fromL1 s
  | .recvFill wid => Sys2Proof.Machine.execRecvFill wid s
  | .lwaitComplete wid => Sys2Proof.Machine.execLwaitComplete wid s
  | .mwaitComplete wid => Sys2Proof.Machine.execMwaitComplete wid s
  | .fenceaComplete wid => Sys2Proof.Machine.execFenceaComplete wid s
  | .barrierComplete lid level unit => Sys2Proof.Machine.execBarrierComplete lid level unit s
  | .waitevWake wid => Sys2Proof.Machine.execWaitevWake wid s
  | .laneBlockStart wid => Sys2Proof.Machine.execLaneBlockStart wid s
  | .waveClear core pipe => Sys2Proof.Machine.execWaveClear core pipe s
  | .mclrExecute wid => Sys2Proof.Machine.execMclrExecute wid s
  | .mtabExecute wid => Sys2Proof.Machine.execMtabExecute wid s
  | .mlutExecute wid => Sys2Proof.Machine.execMlutExecute wid s
  | .mlutgLatchComplete wid => Sys2Proof.Machine.execMlutgLatchComplete wid s
  | .mxpqExecute wid => Sys2Proof.Machine.execMxpqExecute wid s
  | .moutExecute wid => Sys2Proof.Machine.execMoutExecute wid s
  | .tbdropExecute wid => Sys2Proof.Machine.execTbdropExecute wid s
  | .copyUnit wid op => Sys2Proof.Machine.execCopyUnit wid op s
  | .cpmcComplete wid op => Sys2Proof.Machine.execCpmcComplete wid op s
  | .sendInject wid op => Sys2Proof.Machine.execSendInject wid op s
  | .encoderTileWrite wid => Sys2Proof.Machine.execEncoderTileWrite wid s
  | .logReplay wid n => Sys2Proof.Machine.execLogReplay wid n s
  | .walkerMonitorWake line => Sys2Proof.Machine.execWalkerMonitorWake line s
  | .walkerRewalkTimer wid n => Sys2Proof.Machine.execWalkerRewalkTimer wid n s
  | .faultRecordHeldWrite ctx => Sys2Proof.Machine.execFaultRecordHeldWrite ctx s
  | .snapshotPageCopy ctx va => Sys2Proof.Machine.execSnapshotPageCopy ctx va s
  | .launchTake => Sys2Proof.Machine.execLaunchTake s
  | .cpMemoryRetry lid => Sys2Proof.Machine.execCpMemoryRetry lid s
  | .waitEventSatisfied lid => Sys2Proof.Machine.execWaitEventSatisfied lid s
  | .teamPlace => Sys2Proof.Machine.execTeamPlace s
  | .teamRetire team => Sys2Proof.Machine.execTeamRetire team s
  | .splitChange core => Sys2Proof.Machine.execSplitChange core s
  | .teamSave team => Sys2Proof.Machine.execTeamSave team s
  | .teamRestore team => Sys2Proof.Machine.execTeamRestore team s
  | .launchComplete lid => Sys2Proof.Machine.execLaunchComplete lid s
  | .watchdogFire lid => Sys2Proof.Machine.execWatchdogFire lid s
  | .launchKill lid => Sys2Proof.Machine.execLaunchKill lid s
  | .launchRollback lid => Sys2Proof.Machine.execLaunchRollback lid s
  | .qtailWrite q v => Sys2Proof.Machine.execQtailWrite q v s
  | .contextCreate ctx => Sys2Proof.Machine.execContextCreate ctx s
  | .contextDestroy ctx => Sys2Proof.Machine.execContextDestroy ctx s
  | .contextHold ctx => Sys2Proof.Machine.execContextHold ctx s
  | .contextRelease ctx => Sys2Proof.Machine.execContextRelease ctx s
  | .unserviceable ctx => Sys2Proof.Machine.execUnserviceable ctx s
  | .invalidate ctx => Sys2Proof.Machine.execInvalidate ctx s
  | .debugWrite ctx => Sys2Proof.Machine.execDebugWrite ctx s
  | .replayEnable ctx => Sys2Proof.Machine.execReplayEnable ctx s
  | .resetGeneration ctx => Sys2Proof.Machine.execResetGeneration ctx s
  | .replayIntervalStart wid => Sys2Proof.Machine.execReplayIntervalStart wid s
  | .replayRun lid wave interval out => Sys2Proof.Machine.execReplayRun lid wave interval out s
  | .traceSampleTick ctx => Sys2Proof.Machine.execTraceSampleTick ctx s
  | .readPacket p => Sys2Proof.Machine.execReadPacket p s
  | .readData p => Sys2Proof.Machine.execReadData p s
  | .writePacket p => Sys2Proof.Machine.execWritePacket p s
  | .maskedWrite p => Sys2Proof.Machine.execMaskedWrite p s
  | .atomicPacket p => Sys2Proof.Machine.execAtomicPacket p s
  | .atomicResult p => Sys2Proof.Machine.execAtomicResult p s
  | .writeAcknowledgment p => Sys2Proof.Machine.execWriteAcknowledgment p s
  | .refusal p => Sys2Proof.Machine.execRefusal p s
  | .retryAfterResend id => Sys2Proof.Machine.execRetryAfterResend id s
  | .invalidatePacket p => Sys2Proof.Machine.execInvalidatePacket p s
  | .invalidateAcknowledgment p => Sys2Proof.Machine.execInvalidateAcknowledgment p s
  | .messagePacket p => Sys2Proof.Machine.execMessagePacket p s
  | .messageAcknowledgment p => Sys2Proof.Machine.execMessageAcknowledgment p s
  | .emittedPacket p => Sys2Proof.Machine.execEmittedPacket p s
  | .managementPacket p => Sys2Proof.Machine.execManagementPacket p s
  | .heldMessageRetry ring job => Sys2Proof.Machine.execHeldMessageRetry ring job s
  | .linkReplay port flits => Sys2Proof.Machine.execLinkReplay port flits s
  | .portRetire port => Sys2Proof.Machine.execPortRetire port s
  | .planeDead plane => Sys2Proof.Machine.execPlaneDead plane s
  | .planeMapChange map => Sys2Proof.Machine.execPlaneMapChange map s
  | .lostPacketResend id path => Sys2Proof.Machine.execLostPacketResend id path s
  | .packageUnreachable pkg => Sys2Proof.Machine.execPackageUnreachable pkg s
  | .boxPacketRun box => Sys2Proof.Machine.execBoxPacketRun box s
  | .pseudoChannelDrop stack => Sys2Proof.Machine.execPseudoChannelDrop stack s
  | .patrolRead stack channel line found => Sys2Proof.Machine.execPatrolRead stack channel line found s
  | .ecsCountRead stack channel banks => Sys2Proof.Machine.execEcsCountRead stack channel banks s
  | .powerEpoch dieDemand stackDemand dieTemp => Sys2Proof.Machine.execPowerEpoch dieDemand stackDemand dieTemp s
  | .thermalTrip die => Sys2Proof.Machine.execThermalTrip die s
  | .counterReprogram n v => Sys2Proof.Machine.execCounterReprogram n v s
  | .timeSeriesTick => Sys2Proof.Machine.execTimeSeriesTick s
  | .linkEyeUpdate port margin => Sys2Proof.Machine.execLinkEyeUpdate port margin s
  | .fieldTestRequest v => Sys2Proof.Machine.execFieldTestRequest v s
  | .fieldTestInterval => Sys2Proof.Machine.execFieldTestInterval s
  | .fieldTestRun => Sys2Proof.Machine.execFieldTestRun s
  | .fieldTestComplete failed element => Sys2Proof.Machine.execFieldTestComplete failed element s
  | .deviceReset => Sys2Proof.Machine.execDeviceReset s
  | .functionReady f => Sys2Proof.Machine.execFunctionReady f s
  | .firmwareUpdate image => Sys2Proof.Machine.execFirmwareUpdate image s
  | .attestationRequest nonce => Sys2Proof.Machine.execAttestationRequest nonce s
  | .hostWindowAccess off data len => Sys2Proof.Machine.execHostWindowAccess off data len s
  | .registerWrite off v => Sys2Proof.Machine.execRegisterWrite off v s
  | .storePerformed wid n scope => Sys2Proof.Machine.execStorePerformed wid n scope s
  | .linkRetrain port lanes margin => Sys2Proof.Machine.execLinkRetrain port lanes margin s

end Sys2Proof.Machine
end

