-- ==== Sys2Proof/Machine/Debug.lean ====
section
/-! DEFINITION. What surrounds an instruction or an event: breakpoints, watchpoints and their holds (R345 to R351),
the reasons of samples (R354), and what passes with time (R325, R352, R497). -/

namespace Sys2Proof.Machine

/-! ## The bytes that an instruction or operation accesses (R348) -/

/-- Bytes accessed at a generic address; `eng`: by an engine, a decoder or the encoder; `dec`: by a decoder. -/
structure Touch where
  addr : Nat
  len : Nat
  rd : Bool
  wr : Bool
  eng : Bool := false
  dec : Bool := false
  deriving DecidableEq, Repr

def kindReads : AccessKind → Bool
  | .store => false
  | _ => true

def kindWrites : AccessKind → Bool
  | .load _ => false
  | _ => true

/-- The stream that an index entry names, if its eight bytes can be read now. -/
def streamTouch (s : State) (w : Wave) (x : Context) (base entryAt : Nat) : List Touch :=
  match readRange s w noWave x entryAt 8 with
  | .error _ => []
  | .ok bs =>
    match entryClass (natOfBytes bs) with
    | .stream _ len off => [{ addr := base + 16 * off, len := roundUp len 128 / 8, rd := true, wr := false, eng := true, dec := true }]
    | _ => []

/-- The bytes of one lane of an access; a lane of a tile load names the bytes its value came from. -/
def laneTouch (s : State) (w : Wave) (x : Context) (a : Access) (l : LaneAcc) : List Touch :=
  match l.ready with
  | none => [{ addr := l.addr, len := a.width, rd := kindReads a.kind, wr := kindWrites a.kind }]
  | some _ =>
    if l.bad then [{ addr := l.addr, len := 1, rd := true, wr := false }]
    else if 254 * 2 ^ 56 ≤ l.addr then
      if 255 * 2 ^ 56 ≤ l.addr then
        { addr := l.addr % 2 ^ 56, len := 8, rd := true, wr := false, eng := true, dec := true } :: streamTouch s w x l.cmp (l.addr % 2 ^ 56)
      else []
    else
      { addr := l.addr, len := l.data, rd := true, wr := false }
        :: (if l.cmp = 0 then [] else [{ addr := l.cmp, len := 1, rd := true, wr := false }])

def accessTouches (s : State) (w : Wave) (x : Context) (a : Access) : List Touch :=
  if a.accTile.isSome then [] else a.lanes.flatMap (laneTouch s w x a)

/-- A region of storage that a generic address names. -/
def regionTouch (eng : Bool) (r : Region) : List Touch :=
  if r.space < 2 then [{ addr := r.space * 2 ^ 56 + r.addr, len := r.len, rd := !r.write, wr := r.write, eng := eng }] else []

def logTouches (s : State) (w : Wave) (x : Context) (e : LogEntry) : List Touch :=
  match e.body with
  | .access a => accessTouches s w x a
  | .instr i srcs => (instrRegion i srcs).flatMap (regionTouch false)
  | .tile r =>
    if r.t.kind = 2 then []
    else if r.t.kind = 5 then
      (distinctTiles r.lanes []).flatMap (fun p =>
        let a := indexEntryAt r.t p.1 p.2
        { addr := a, len := 8, rd := true, wr := false, eng := true, dec := true } :: streamTouch s w x r.t.base a)
    else r.lanes.flatMap (fun l =>
      let p := laneSpan r l
      { addr := p.1, len := p.2.1, rd := r.op == .load, wr := r.op != .load }
        :: (if p.2.2 = 0 then [] else [{ addr := p.2.2, len := 1, rd := r.op == .load, wr := r.op != .load }]))

/-- The bytes of a buffered store; an element narrower than a byte is written (R168). -/
def storeTouch (b : BufStore) : Touch :=
  { addr := b.va, len := b.bytes.length, wr := true,
    rd := match b.rmw with | none => false | some (.insert, _, _) => false | some _ => true }

/-- The image that a control-stream instruction reads. -/
def imageTouches (i : Instr) (w : Wave) : List Touch :=
  match i with
  | .tdef f | .ctload f | .palld f | .qput f | .sbload f | .sbflow f | .waitev f =>
    (instrRegion i [sVal w f.a.toNat]).flatMap (regionTouch false)
  | .dtload f | .capset f =>
    if sVal w f.a.toNat = 0 then [] else (instrRegion i [sVal w f.a.toNat]).flatMap (regionTouch false)
  | _ => []

/-- What an issued instruction accesses, from the wave before and after it. -/
def issueTouches (s : State) (x : Context) (i : Instr) (w w' : Wave) : List Touch :=
  (w'.loads.filter (fun a => decide (w.seq ≤ a.seq))).flatMap (accessTouches s w' x)
    ++ (w'.stores.filter (fun b => decide (w.seq ≤ b.seq))).map storeTouch
    ++ (if w'.log.any (fun e => decide (w.seq ≤ e.seq)) then
          (w'.log.filter (fun e => decide (w.seq ≤ e.seq))).flatMap (logTouches s w' x)
        else imageTouches i w)

/-! ## Filters (R346 to R348) -/

def debugReg (x : Context) (n : Nat) : Nat := (Cells.get 0 x.debug n).toNat

/-- Breakpoint `n` matches the instruction at which an instance stands. -/
def bkptMatches (x : Context) (a : Actor) (st : Standing) (n : Nat) : Bool :=
  let c := debugReg x (8 + n)
  let stream := c / 2 % 4
  decide (c % 2 = 1) && decide (st.pc = debugReg x n)
    && (decide (c / 2 ^ 8 % 2 = 0) || decide (c / 2 ^ 9 % 2 ^ 14 = actorWave a))
    && (if st.stream then
          decide (stream ≠ 0) && (decide (c / 8 % 2 = 0) || decide (c / 16 % 16 = st.path)) && (!st.cont || decide (c / 2 ^ 23 % 2 = 1))
        else decide (stream ≠ 1) && decide (c / 8 % 2 = 0))

/-- The lowest watched address that an access hits, for watchpoint `n`. -/
def watchHit (x : Context) (n : Nat) (t : Touch) : Option Nat :=
  let c := debugReg x (20 + n)
  let base := debugReg x (16 + n)
  if c % 2 = 1 ∧ ((c / 2 % 2 = 1 ∧ t.rd = true) ∨ (c / 4 % 2 = 1 ∧ t.wr = true)) ∧ (t.eng = false ∨ c / 2 ^ 20 % 2 = 1)
      ∧ rangesMeet t.addr t.len base (2 ^ (c / 16 % 32)) = true then some (max t.addr base)
  else none

def lowest : List Nat → Option Nat
  | [] => none
  | a :: r => some (r.foldl min a)

/-- The lowest hitting address of watchpoint `n` among some accesses. -/
def watchAddr (x : Context) (ts : List Touch) (n : Nat) : Option Nat := lowest (ts.filterMap (watchHit x n))

/-- A hit: the fault's detail, its hold and whether it only writes a trace record. -/
structure Hit where
  detail : Nat
  hold : Nat
  traceOnly : Bool
  deriving DecidableEq, Repr

def watchDetailOf (n addr : Nat) : Nat := 2 ^ 7 + n * 2 ^ 8 + 2 ^ 11 + addr % 2 ^ 64 * 2 ^ 64

def bkptHits (x : Context) (a : Actor) (st : Standing) : List Hit :=
  ((List.range 8).filter (bkptMatches x a st)).map (fun n =>
    { detail := 2 ^ 7 + n * 2 ^ 8, hold := debugReg x (8 + n) / 2 ^ 24 % 4, traceOnly := false })

def watchHits (x : Context) (ts : List Touch) : List Hit :=
  (List.range 4).filterMap (fun n => (watchAddr x ts n).map (fun a =>
    { detail := watchDetailOf n a, hold := debugReg x (20 + n) / 2 ^ 22 % 4, traceOnly := decide (debugReg x (20 + n) / 2 ^ 21 % 2 = 1) }))

/-! ## Taking a hit (R349, R350, R353) -/

/-- The trace record of a hit. -/
def hitTrace (s : State) (c : Nat) (a : Actor) (st : Standing) (qentry detail : Nat) : State :=
  traceEvent s c 6 false (fun q => traceNat s.timebase (detail / 2 ^ 64) qentry (if st.stream then st.active else 0) st.pc
    (detail % 2 ^ 12) q (actorWave a) st.path st.cont st.stream 6)

/-- A hit that holds the wave, or the launch, is one stop of it all: it takes the place of the instance's own (R350). -/
def holdOthers (s : State) (a : Actor) (hold : Nat) : State :=
  match hold with
  | 1 => releaseActor (modWave s (actorWave a) (holdWave 1)) a
  | 2 =>
    (match getWave s (actorWave a) with
     | some w => (match getTeam s w.team with | some t => releaseActor (holdLaunch s t.lid) a | none => s)
     | none => s)
  | _ => s

/-- Raise 0x1B for a hit. -/
def takeHit (s : State) (c : Nat) (a : Actor) (st : Standing) (unit qentry : Nat) (h : Hit) (deferred : Bool) : State :=
  hitTrace (holdOthers (takeFault s a st unit 0x1B h.detail none deferred) a h.hold) c a st qentry h.detail

/-- The hits of an issued instruction: the first that stops, in the order of R349, is raised; those that only trace are traced. -/
def takeHits (s : State) (c : Nat) (a : Actor) (st : Standing) (qentry : Nat) (hs : List Hit) : State :=
  let t := (hs.filter (fun h => h.traceOnly)).foldl (fun t h => hitTrace t c a st qentry h.detail) s
  match hs.find? (fun h => !h.traceOnly) with
  | some h => takeHit t c a st (actorUnit t a) qentry h false
  | none => t

/-! ## Hits of engine operations (R351) -/

/-- A delivering instruction covers a hit: its batch, or everything. -/
def coversHit (batch : Option Nat) (h : EngineHit) : Bool := match batch with | some n => h.batch == some n | none => true

/-- Deliver the covered hits of a wave: each is a deferred 0x1B record and holds the control stream. -/
def deliverHits (s : State) (wid : Nat) (batch : Option Nat) : State :=
  match getWave s wid with
  | none => s
  | some w =>
    match launchOf s w, ctxRec s w with
    | some (_, l), some (c, x) =>
      let t := modWave s wid (fun w => { w with engineHits := w.engineHits.filter (fun h => !(coversHit batch h)) })
      (w.engineHits.filter (coversHit batch)).foldl (fun t h =>
        takeHit t c (.control wid) ⟨h.pc, 0, 0, 0, false, false⟩ h.unit l.qentry
          { detail := h.detail, hold := debugReg x (20 + h.detail / 2 ^ 8 % 8) / 2 ^ 22 % 4, traceOnly := false } true) t
    | _, _ => s

/-- The instruction that delivers, and the batch it covers. -/
def deliveryOf (i : Instr) : Option (Option Nat) :=
  match i with
  | .mwait f | .mtest f => some (some f.aux.toNat)
  | .step _ | .exit _ => some none
  | _ => none

/-- The bytes of one tile's fetch or write by an engine. -/
def tileTouches (s : State) (w : Wave) (x : Context) (t : Tensor) (tr tc : Nat) (write : Bool) : List Touch :=
  match t.kind with
  | 2 => []
  | 5 =>
    { addr := indexEntryAt t tr tc, len := 8, rd := !write, wr := write, eng := true, dec := !write } :: streamTouch s w x t.base (indexEntryAt t tr tc)
  | _ => (tileRegions t tr tc write).flatMap (regionTouch true)

/-- The runs of a copy that were read and are written while its progress went from `p` to `q` (R238, R241). -/
def streamTouches (e : EngineItem) (p q : Nat) : List Touch :=
  let r := copyStreams e
  (sliceRuns (fun a k => a + k) p (q - p) r.1).flatMap (fun z => regionTouch true (regionAt z.1 z.2 false))
    ++ (sliceRuns CopyDst.add p (q - p) r.2).flatMap (fun z => match z.1 with | .gen a => regionTouch true (regionAt a z.2 true) | _ => [])

/-- A list that an operation has read. -/
def listTouch (e y : EngineItem) : List Touch :=
  if e.members.isSome ∨ y.members.isNone then []
  else
    match e.op with
    | .cpg _ _ list count _ => regionTouch true (regionAt list (4 * count) false)
    | .cps _ _ list count _ => regionTouch true (regionAt list (4 * count) false)
    | .cpmc _ _ list _ _ => regionTouch true (regionAt list (2 + 2 * (y.members.getD []).length) false)
    | _ => []

/-- The units of a multicast copy that were sent. -/
def castTouches (s : State) (e y : EngineItem) : List Touch :=
  match e.op with
  | .cpmc src dst _ _ _ =>
    let n := 32 * (y.progress - e.progress)
    regionTouch true (regionAt (src + 32 * e.progress) n false)
      ++ (if (y.members.getD []).contains s.pkg then regionTouch true (regionAt (dst + 32 * e.progress) n true) else [])
  | _ => []

/-- The status area that a multicast copy wrote as it completed (R423). -/
def castStatus (e : EngineItem) : List Touch :=
  match e.op with
  | .cpmc _ _ list _ _ =>
    let n := (e.members.getD []).length
    regionTouch true (regionAt (roundUp (list + 2 + 2 * n) 8) (8 * ceilDiv n 64) true)
  | _ => []

/-- What a lookup-accumulate read as it began: its B tile, and the A tile of a table that it rebuilt (R217, R221). -/
def lookupTouches (s : State) (w : Wave) (x : Context) (e : EngineItem) : List Touch :=
  match e.op with
  | .mlut _ slot _ b _ _ row col _ _ =>
    tileTouches s w x b row col false ++
      (match (getTeam s w.team).bind (fun t => Tbl.find? t.tables slot) with
       | some r => if r.state = .dropped then tileTouches s w x r.a r.row r.col false else []
       | none => [])
  | _ => []

/-- What an operation accessed that ran as one turn. -/
def wholeTouches (s : State) (w : Wave) (x : Context) (op : EngineOp) : List Touch :=
  match op with
  | .mtab _ _ a row col _ _ _ => tileTouches s w x a row col false
  | .mxpq _ d _ src _ _ row col => tileTouches s w x src row col false ++ tileTouches s w x d col row true
  | .mout _ d row col _ _ _ _ => tileTouches s w x d row col true
  | .cpt _ d _ src row col drow dcol =>
    if 8 ≤ fmtBits d.fmt then [] else tileTouches s w x src row col false ++ (if d.kind = 4 then [] else tileTouches s w x d drow dcol true)
  | _ => []

/-- What an operation of a wave accessed in this event. -/
def itemTouches (s : State) (x : Context) (w w' : Wave) (e : EngineItem) : List Touch :=
  match List.find? (fun y : EngineItem => y.id == e.id) w'.engine with
  | none =>
    if e.injected then castStatus e
    else (if e.adding.isNone then lookupTouches s w x e else []) ++ wholeTouches s w x e.op
  | some y =>
    (if e.adding.isNone ∧ y.adding.isSome then lookupTouches s w x e else []) ++ listTouch e y ++ streamTouches y e.progress y.progress
      ++ castTouches s e y
      ++ (match e.op with
          | .send _ _ src len _ => if e.injected = false ∧ y.injected = true then regionTouch true (regionAt src len false) else []
          | _ => [])

/-- The open tile that the encoder served in this event, and what it accessed (R199). -/
def encoderTouches (t t' : Team) (w w' : Wave) : List (OpenTile × List Touch) :=
  if w'.asyncerr ≠ w.asyncerr then []
  else
    (t.openTiles.filter (fun o => o.complete == some w.uid)).filterMap (fun o =>
      let now := List.find? (sameTile o) t'.openTiles
      let touch := fun (addr len : Nat) (rd : Bool) => some (o, [({ addr := addr, len := len, rd := rd, wr := true, eng := true } : Touch)])
      match o.append with
      | none => if now.any (fun z => z.append.isSome) then touch (o.t.addr + 24) 8 true else none
      | some p =>
        if o.phase = 0 ∧ now.any (fun z => z.phase == 1) = true then
          touch (tensorAddr o.t (o.t.base + p)) (formStream o.ct (tileBlocks o)).2.2.length false
        else if o.phase = 1 ∧ now.any (fun z => z.phase == 1) = false then touch (indexEntryAt o.t o.row o.col) 8 false
        else none)

def hitNumber (h : Hit) : Nat := h.detail / 2 ^ 8 % 8

/-- The record of an orphan hit: PC of the operation in the launch, and the watchpoint (R351, R353). -/
def orphanTrace (s : State) (c wid : Nat) (l : Launch) (pc detail : Nat) : State :=
  traceEvent s c 9 true (fun q =>
    traceNat s.timebase (detail / 2 ^ 64) l.qentry 0 pc (detail / 2 ^ 8 % 8 + (pc - l.e.ctrl) % 2 ^ 32 * 2 ^ 32) q wid 0 false false 9)

/-- A hit by an operation: recorded for delivery, or written as an orphan's. -/
def engineHit (s : State) (c wid : Nat) (l : Launch) (orphan : Bool) (pc unit op : Nat) (batch : Option Nat) (h : Hit) : State :=
  if orphan then orphanTrace s c wid l pc h.detail
  else if h.traceOnly then hitTrace s c (.control wid) ⟨pc, 0, 0, 0, false, false⟩ l.qentry h.detail
  else
    modWave s wid (fun w => { w with engineHits := w.engineHits ++ [{ detail := h.detail, unit := unit, pc := pc, op := op, batch := batch }] })

/-- The hits of an operation at watchpoints that it has not hit before (R351). -/
def newHits (x : Context) (old : List Nat) (ts : List Touch) : List Hit := (watchHits x ts).filter (fun h => !(old.contains (hitNumber h)))

/-- An open tile of the encoder remembers the watchpoints that its writing has hit. -/
def noteTileHits (team : Nat) (o : OpenTile) (ns : List Nat) (s : State) : State :=
  modTeam s team (fun t => { t with openTiles := t.openTiles.map (fun z =>
    if sameTile o z then { z with hits := ns ++ z.hits } else z) })

/-- The engine and encoder hits of one wave in an event. An operation that faulted is none (R230). -/
def engineAfter (s : State) (t : State) (wid : Nat) (w : Wave) : State :=
  match getWave t wid, launchOf t w, ctxRec t w, getTeam s w.team, getTeam t w.team with
  | some w', some (_, l), some (c, x), some tm, some tm' =>
    if w'.uid ≠ w.uid ∨ (x.debug).isEmpty = true ∨ w'.engineFaults ≠ w.engineFaults then t
    else
      let orphan := w.ctl == .exited || !(launchLive t w)
      let t := w.engine.foldl (fun t e =>
        let hs := newHits x e.hits (itemTouches s x w w' e)
        modItem wid e.id (fun e => { e with hits := hs.map hitNumber ++ e.hits })
          (hs.foldl (fun t h => engineHit t c wid l orphan e.pc (engineUnit wid e.op 0x1B) e.id e.batch h) t)) t
      (encoderTouches tm tm' w w').foldl (fun t o =>
        let hs := newHits x o.1.hits o.2
        noteTileHits w.team o.1 (hs.map hitNumber)
          (hs.foldl (fun t h => engineHit t c wid l orphan o.1.pc (clusterUnit 6 (clusterOf wid)) 0 none h) t)) t
  | _, _, _, _, _ => t

/-- The launch of a wave has been stopped: the hits that await delivery are orphans (R351). -/
def orphanHits (s : State) (wid : Nat) (w : Wave) : State :=
  match launchOf s w, ctxOf s w with
  | some (_, l), some c => w.engineHits.foldl (fun t h => orphanTrace t c wid l h.pc h.detail) s
  | _, _ => s

/-! ## Stops and waits -/

/-- No context watches anything. -/
def watchesNothing (s : State) : Bool := s.contexts.all (fun c => (c.2.debug).isEmpty)

/-- The number of stops that hold an instance, and whether it is stopped at a fault. -/
def stoppedBy (s : State) (a : Actor) : List Nat × Bool :=
  match getWave s (actorWave a), a with
  | some w, .control _ => (w.held, w.faulted)
  | some w, .path _ e => (match Tbl.find? w.paths e with | some p => (p.held, p.faulted) | none => ([], false))
  | some w, .cont _ l => (match Tbl.find? w.conts l with | some k => (k.held, k.faulted) | none => ([], false))
  | _, _ => ([], false)

/-- The control stream waits: the instruction at its PC is not complete (R103). -/
def ctlWaits (w : Wave) : Bool :=
  match w.ctl with
  | .lwait => true
  | .mwait _ => true
  | .fencea _ _ => true
  | .barrier _ => true
  | .waitev _ _ _ _ => true
  | _ => false

/-- Hits await the `EXIT` at which a control stream stands: they are delivered before it (R351). -/
def exitHits (s : State) (wid : Nat) (i : Instr) : Bool :=
  match i, getWave s wid with
  | .exit _, some w => !w.engineHits.isEmpty && w.engine.isEmpty
  | _, _ => false

/-! ## Samples (R354) -/

/-- The context of a wave takes samples. -/
def sampled (s : State) (w : Wave) : Bool :=
  match ctxRec s w with
  | some (_, x) => debugReg x 24 / 2 ^ 13 % 32 != 0
  | none => false

/-! ## Time -/

/-- System software reads its rings at times of its own: the consumer indices advance by free amounts (R325, R352). -/
def advanceRings (s : State) : State :=
  let cs := (s.contexts.zipIdx).map (fun p =>
    let x := p.1.2
    (p.1.1, { x with
      faultCons := x.faultCons + Config.freeNat (s.freeCtr + 2 * p.2) % (x.faultProd - x.faultCons + 1)
      traceCons := x.traceCons + Config.freeNat (s.freeCtr + 2 * p.2 + 1) % (x.traceProd - x.traceCons + 1) }))
  { s with contexts := cs, freeCtr := s.freeCtr + 2 * s.contexts.length }

/-- A programmable counter after some cycles, with its select word: busy and stall cycles and traffic are free (R496, R497). -/
def counterAfter (sel word cycles free : Nat) : Nat :=
  let ev := sel / 2 ^ 24 % 256
  if sel % 2 = 0 then word
  else if ev = 4 then countUp word free
  else if ev < 2 then countUp word (free % (cycles + 1))
  else word

/-- The programmable counters of busy and stall cycles and of traffic advance by free amounts. -/
def advanceCounters (s : State) (cycles : Nat) : State :=
  if s.hub.csel.isEmpty then s
  else
    let c := s.freeCtr
    let next := fun (m : Cells Dword) k => Cells.set 0 m k
      (BitVec.ofNat 64 (counterAfter (Cells.get 0 s.hub.csel k).toNat (Cells.get 0 m k).toNat cycles (Config.freeNat (c + k))))
    modHub { s with freeCtr := c + 8 } (fun h => { h with ccnt := (List.range 8).foldl next h.ccnt })

end Sys2Proof.Machine
end

