-- ==== Sys2Proof/Machine/Intervals.lean ====
section
/-! DEFINITION. What follows an instruction or an event: the lines that it leaves in L2 (R292), the log of a replay interval (R355 to
R357), and the breakpoints and watchpoints that are met (R349, R351). -/

namespace Sys2Proof.Machine

/-! ## Lines of the log (R356). Log entry 34. -/

/-- The lines that an access touches, as generic addresses / 128. -/
def linesOf (t : Touch) : List Nat :=
  if t.len = 0 then [] else (List.range ((t.addr + t.len - 1) / 128 - t.addr / 128 + 1)).map (fun k => t.addr / 128 + k)

/-! ## What reads of images, tiles and engines leave in L2 (R292). Log entry 26. -/

/-- One line that is read through the slice of a wave's cluster; a decoder's read of a page of class Denup is evict-last where no hint
is named. -/
def allocLine (wid : Nat) (w : Wave) (x : Context) (hint : Nat) (k : Touch) (s : State) (line : Nat) : State :=
  match translate s x .read (128 * line) with
  | .to (.glob p cls) =>
    let named := pageHint s w (128 * line) hint
    loadL2 s (clusterOf wid) (p / 128) (if named = 0 ∧ k.dec = true ∧ cls = 2 then 2 else named) cls
      (touchedSectors (max k.addr (128 * line) - 128 * line) (min (k.addr + k.len) (128 * line + 128) - 128 * line))
  | .to (.remote q a) => touchCopy s q a (pageHint s w (128 * line) hint)
  | _ => s

def allocTouch (wid : Nat) (w : Wave) (x : Context) (hint : Nat) (s : State) (k : Touch) : State :=
  if k.rd && decide (k.addr / 2 ^ 56 = 0) then (linesOf k).foldl (allocLine wid w x hint k) s else s

/-- The accesses that entered the wave with their values: tile loads. -/
def formedAccesses (w w' : Wave) : List Access :=
  w'.loads.filter (fun a => !(w.loads.any (fun b => b.seq == a.seq)) && a.accTile.isNone && a.lanes.any (fun l => l.ready.isSome))

/-- The lines that tile loads of a wave read as they were formed. -/
def allocFormed (s : State) (x : Context) (wid : Nat) (w w' : Wave) (t : State) : State :=
  (formedAccesses w w').foldl (fun t a =>
    ((a.lanes.filter (fun l => l.ready.isSome)).flatMap (laneTouch s w' x a)).foldl (allocTouch wid w' x a.hint) t) t

/-- What an instruction read as it issued. -/
def allocInstr (s t : State) (a : Actor) (i : Instr) : State :=
  match getWave s (actorWave a), getWave t (actorWave a) with
  | some w, some w' =>
    (match ctxRec s w with
     | some (_, x) =>
       let t := allocFormed s x (actorWave a) w w' t
       if w'.log.any (fun e => decide (w.seq ≤ e.seq)) then t else (imageTouches i w).foldl (allocTouch (actorWave a) w' x 0) t
     | none => t)
  | _, _ => t

/-- What a wave's engine operations and replayed tile loads read in an event. -/
def allocEvent (s t : State) (wid : Nat) (w : Wave) : State :=
  match getWave t wid, ctxRec s w with
  | some w', some (_, x) =>
    if w'.uid ≠ w.uid then t
    else
      w.engine.foldl (fun t e => (itemTouches s x w w' e).foldl (allocTouch wid w' x (opHint e.op)) t) (allocFormed s x wid w w' t)
  | _, _ => t

/-! ## Replay logs -/

/-- A global or scratchpad line as wave `wid` sees it; a line of any other space is not logged. -/
def lineSeen (s : State) (wid : Nat) (w : Wave) (x : Context) (k : Nat) : Option (List Byte) :=
  let n := if 128 * k / 2 ^ 56 = 1 then min 128 (spadSizeOf s w - 128 * k % 2 ^ 56) else 128
  match readRange s w wid x (128 * k) n with
  | .ok bs => some bs
  | .error _ => none

/-- Replace bytes `lo` up to `hi` of a line by those of another. -/
def patchLine (old new : List Byte) (lo hi : Nat) : List Byte := old.take lo ++ (new.take hi).drop lo ++ old.drop hi

/-- A load of part of line `k`: the whole line is logged at its first load, and later the bytes returned where they differ. -/
def noteLine (bytes : Nat → Option (List Byte)) (t : Touch) (z : Interval) (k : Nat) : Interval :=
  match bytes k with
  | none => z
  | some bs =>
    let lo := max t.addr (128 * k) - 128 * k
    let hi := min (t.addr + t.len) (128 * k + 128) - 128 * k
    match Tbl.find? z.images k with
    | none => { z with images := Tbl.put z.images k bs, log := z.log ++ [.image k bs] }
    | some old =>
      if (old.take hi).drop lo = (bs.take hi).drop lo then z
      else { z with images := Tbl.put z.images k (patchLine old bs lo hi), log := z.log ++ [.refresh (128 * k + lo) ((bs.take hi).drop lo)] }

/-- A write of the wave itself keeps the image up to date. -/
def patchImage (bytes : Nat → Option (List Byte)) (t : Touch) (z : Interval) (k : Nat) : Interval :=
  match bytes k, Tbl.find? z.images k with
  | some bs, some old =>
    { z with images := Tbl.put z.images k
               (patchLine old bs (max t.addr (128 * k) - 128 * k) (min (t.addr + t.len) (128 * k + 128) - 128 * k)) }
  | _, _ => z

def noteRead (bytes : Nat → Option (List Byte)) (z : Interval) (t : Touch) : Interval := (linesOf t).foldl (noteLine bytes t) z

def noteWrite (bytes : Nat → Option (List Byte)) (z : Interval) (t : Touch) : Interval := (linesOf t).foldl (patchImage bytes t) z

def noteEntry (e : IntervalEntry) (z : Interval) : Interval := { z with log := z.log ++ [e] }

/-! ## What an instruction logs -/

/-- The special registers whose reads are logged: PATHS, QUEUES, BATCHST, UNACK, ASYNCERR, HBWIN, CLOCK, TIMEBASE. -/
def srsLogged (n : Nat) : Bool := [0x005, 0x006, 0x030, 0x032, 0x040, 0x041, 0x042, 0x050].contains n

/-- The bytes that have been read for accesses that entered the wave with their values: tile loads. -/
def formedReads (s : State) (x : Context) (w w' : Wave) : List Touch :=
  (formedAccesses w w').flatMap (fun a =>
    (a.lanes.filter (fun l => l.ready.isSome)).flatMap (laneTouch s w' x a))

/-- A store's bytes as a replay writes them: the pieces of a 128-bit store follow one another. -/
def storeEntries (addr width data : Nat) : List (Nat × Nat × Nat) :=
  if width = 16 then (List.range 4).map (fun j => (addr + 4 * j, 4, data / 2 ^ (32 * j) % 2 ^ 32)) else [(addr, width, data % 2 ^ (8 * width))]

/-- Stores to pages that are not present: they wait in the operand log. -/
def loggedStores (w w' : Wave) : List (Nat × Nat × Nat) :=
  (w'.log.filter (fun e => decide (w.seq ≤ e.seq))).flatMap (fun e =>
    match e.body with
    | .access a => (match a.kind with | .store => a.lanes.flatMap (fun l => storeEntries l.addr a.width l.data) | _ => [])
    | _ => [])

/-- The stores of an issued instruction, as a replay writes them: address, width, data (R357). The pieces of a 128-bit access
follow one another. -/
def intervalStores (i : Instr) (w w' : Wave) : List (Nat × Nat × Nat) :=
  let wide := match i with | .vst f => decide (widthBytes f.width.toNat = 16) | _ => false
  (w'.stores.filter (fun b => decide (w.seq ≤ b.seq) && b.rmw.isNone)).map (fun b =>
    (if wide then b.va + 4 * (b.seq % 4) else b.va, b.bytes.length, natOfBytes b.bytes)) ++ loggedStores w w'

/-- What an issued instruction adds to the log, from states `s` before it and `t` after it. -/
def noteIssue (s t : State) (x : Context) (i : Instr) (wid : Nat) (w w' : Wave) (z : Interval) : Interval :=
  let direct := if w'.log.any (fun e => decide (w.seq ≤ e.seq)) then [] else (imageTouches i w).filter (fun k => k.rd)
  let z := (formedReads s x w w' ++ direct).foldl (noteRead (lineSeen s wid w x)) z
  let z := match i with
    | .srs f => if srsLogged f.num.toNat then noteEntry (.value ((special s wid w f.num.toNat).getD 0)) z else z
    | _ => z
  let z := { z with stores := z.stores ++ intervalStores i w w' }
  ((w'.stores.filter (fun b => decide (w.seq ≤ b.seq) && b.rmw.isNone)).map storeTouch).foldl (noteWrite (lineSeen t wid w' x)) z

/-- Change a wave's running interval. -/
def modInterval (t : State) (lid wave number : Nat) (f : Interval → Interval) : State :=
  { t with intervals := t.intervals.map (fun z =>
      if z.lid = lid ∧ z.wave = wave ∧ z.number = number ∧ z.status = 0 then f z else z) }

/-- The next interval begins at a `BAR` or `STEP` that has completed (R355). -/
def markDue (t : State) (wid : Nat) : State := modWave t wid (fun w => { w with intervalDue := true })

/-- The instruction is a barrier that completed as it issued. -/
def barrierDone (i : Instr) (w' : Wave) : Bool :=
  match i with
  | .bar _ | .step _ => w'.ctl == .running
  | _ => false

/-- The log takes an issued instruction; the interval ends where its instance faults, or where the wave exits. -/
def logInstr (s t : State) (a : Actor) (i : Instr) : State :=
  match getWave s (actorWave a), getWave t (actorWave a) with
  | some w, some w' =>
    (match launchOf s w, ctxRec s w, getTeam s w.team with
     | some (lid, l), some (_, x), some tm =>
       if w.interval = 0 then t
       else
         let faulted := (stoppedBy t a).2
         let t := modInterval t lid (waveIndex tm l w) w.interval (fun z =>
           if faulted then { z with status := 2 }
           else
             let z := noteIssue s t x i (actorWave a) w w' z
             if w'.ctl = .exited then { z with status := 1 } else z)
         if barrierDone i w' && !faulted then markDue t (actorWave a) else t
     | _, _, _ => t)
  | _, _ => t

/-- What follows an instruction that instance `a` executed in state `s`, with outcome `t`: L2 holds what it read, its interval's log
takes it, and the breakpoints and watchpoints that it meets are taken (R349, R356). -/
def afterInstr (s t : State) (a : Actor) (i : Instr) : State :=
  if t.stalled || t.actor == .none then t
  else
    let t := allocInstr s t a i
    let t := if s.intervals.isEmpty then t else logInstr s t a i
    if watchesNothing s then t
    else
      match getWave s (actorWave a), getWave t (actorWave a) with
      | some w, some w' =>
        (match launchOf s w, ctxRec s w with
         | some (_, l), some (c, x) =>
           if (x.debug).isEmpty || stoppedBy t a != stoppedBy s a || (ctlWaits w' && !(isLane a)) then t
           else
             let st := standing s a
             let t := takeHits t c a st l.qentry (bkptHits x a st ++ watchHits x (issueTouches t x i w w'))
             (match deliveryOf i with
              | some b => deliverHits t (actorWave a) b
              | none => t)
         | _, _ => t)
      | _, _ => t

/-! ## What an event logs -/

/-- A lane's destination has its value. -/
def delivered (w' : Wave) (a : Access) (l : LaneAcc) : Bool :=
  match a.dest with
  | .none => true
  | .sreg n => !(Cells.get false w'.sEmpty n)
  | .vregs => !(vIsEmpty w' l.reg l.lane)

/-- The value in a lane's destination. -/
def deliveredValue (w' : Wave) (a : Access) (l : LaneAcc) : Nat :=
  match a.dest with
  | .none => 0
  | .sreg n => (sVal w' n).toNat
  | .vregs => natOfBytes ((List.range (wordCount a)).flatMap (fun j => bytesOfNat 4 (vVal w' (l.reg + j) l.lane).toNat))

/-- A line as a load found it that the core's own copy served (R290). -/
def cachedLine (s : State) (wid : Nat) (w : Wave) (a : Access) (l : LaneAcc) : Option (List Byte) :=
  match l.place with
  | .glob p g => readFromL1 s wid a.seq w (.glob (p / 128 * 128) g) 128
  | _ => none

/-- A lane of an access that returned: a load reads its line; an atomic, and an element of a tile with a pending batch, is a
value. -/
def noteLane (s t : State) (x : Context) (wid : Nat) (w w' : Wave) (a : Access) (fromL1 : Bool) (z : Interval) (l : LaneAcc) : Interval :=
  if !(delivered w' a l) then z
  else
    match a.accTile, a.kind with
    | some tile, _ => if pendingInto s w.team tile then noteEntry (.value (deliveredValue w' a l)) z else z
    | none, .atomic _ =>
      let z := if a.dest = .none then z else noteEntry (.value (deliveredValue w' a l)) z
      noteWrite (lineSeen t wid w' x) z { addr := l.addr, len := a.width, rd := true, wr := true }
    | none, _ =>
      if l.ready.isSome then z
      else
        noteRead (fun k => if fromL1 then cachedLine s wid w a l else lineSeen s wid { w with seq := a.seq } x k) z
          { addr := l.addr, len := a.width, rd := true, wr := false }

/-- The PCs at which a wave's instances stand. -/
def boundaryOf (w : Wave) : List Nat := w.pc.toNat :: w.paths.map (fun p => p.2.pc)

/-- What the event itself delivers to a wave. -/
def noteDelivery (s t : State) (i : Instr) (x : Context) (wid : Nat) (w w' : Wave) (z : Interval) : Interval :=
  match i with
  | .loadDataReturn k n lanes fromL1 =>
    if k = wid then
      (match w.loads[n]? with
       | some a => (a.lanes.filter (fun l => !(laneBit l.lane &&& lanes == 0))).foldl (noteLane s t x wid w w' a fromL1) z
       | none => z)
    else z
  | .windowWriteAccept n =>
    (match s.windowWrites[n]? with
     | some q => if q.target = wid ∧ (windowTarget s q).isSome = true then noteEntry (.window q.reg q.words (boundaryOf w)) z else z
     | none => z)
  | .storePerformed k n _ =>
    if k = wid then
      (match w.stores[n]? with
       | some b => if b.rmw.isSome then noteWrite (lineSeen t wid w' x) z (storeTouch b) else z
       | none => z)
    else z
  | _ => z

/-- The operand log's entries that this event replayed: the images they read, and the stores of tiles. -/
def noteReplayed (s : State) (x : Context) (wid : Nat) (w w' : Wave) (z : Interval) : Interval :=
  let gone := w.log.filter (fun e => !(w'.log.any (fun y => y.seq == e.seq)))
  let reads := gone.flatMap (fun e => match e.body with | .instr i srcs => (instrRegion i srcs).flatMap (regionTouch false) | _ => [])
  let z := (formedReads s x w w' ++ reads.filter (fun k => k.rd)).foldl (noteRead (lineSeen s wid w x)) z
  if gone.any (fun e => match e.body with | .tile _ => true | _ => false) then
    { z with stores := z.stores ++ (w'.stores.filter (fun b => b.rmw.isNone && !(w.stores.any (fun c => c.seq == b.seq)))).map (fun b =>
        (b.va, b.bytes.length, natOfBytes b.bytes)) }
  else z

/-- What the wave's engine operations read and wrote in this event. -/
def noteEngine (s t : State) (x : Context) (w w' : Wave) (z : Interval) : Interval :=
  w.engine.foldl (fun z e => (itemTouches s x w w' e).foldl (fun z k =>
    if k.rd then noteRead (lineSeen s noWave w x) z k else noteWrite (lineSeen t noWave w' x) z k) z) z

/-- The event that a wait of the control stream read as it ended (R253). -/
def noteWait (s : State) (x : Context) (wid : Nat) (w w' : Wave) (z : Interval) : Interval :=
  match w.ctl, w'.ctl with
  | .waitev addr _ _ _, .running => noteRead (lineSeen s wid w x) z { addr := addr, len := 8, rd := true, wr := false }
  | _, _ => z

/-- An instance of the wave is stopped at a fault. -/
def anyFaulted (w : Wave) : Bool := w.faulted || w.paths.any (fun p => p.2.faulted) || w.conts.any (fun k => k.2.faulted)

/-- The control stream left a `BAR` or `STEP` in this event. -/
def leftBarrier (w w' : Wave) : Bool := match w.ctl, w'.ctl with | .barrier _, .running => !(w'.faulted) | _, _ => false

/-- The log of one wave's interval takes an event. -/
def logEvent (s : State) (i : Instr) (t : State) (wid : Nat) (w : Wave) : State :=
  match getWave t wid, launchOf s w, ctxRec s w, getTeam s w.team with
  | some w', some (lid, l), some (_, x), some tm =>
    if w.interval = 0 ∨ w'.uid ≠ w.uid then t
    else
      let u := modInterval t lid (waveIndex tm l w) w.interval (fun z =>
        let z := noteWait s x wid w w' (noteEngine s t x w w' (noteReplayed s x wid w w' (noteDelivery s t i x wid w w' z)))
        if anyFaulted w' && !(anyFaulted w) then { z with status := 2 } else z)
      if leftBarrier w w' then markDue u wid else u
  | _, _, _, _ => t

/-- A wait of the control stream has ended in this event: its instruction is complete now. -/
def waitEnded (s t : State) (wid : Nat) (w : Wave) : State :=
  match getWave t wid, launchOf t w, ctxRec t w with
  | some w', some (_, l), some (c, x) =>
    if (x.debug).isEmpty || w'.uid != w.uid || !(ctlWaits w) || ctlWaits w' || w'.held != w.held || w'.faulted then t
    else
      let st := standing s (.control wid)
      let ts := match w.ctl with
        | .waitev addr _ _ _ => [{ addr := addr, len := 8, rd := true, wr := false : Touch }]
        | _ => []
      let t := takeHits t c (.control wid) st l.qentry (bkptHits x (.control wid) st ++ watchHits x ts)
      (match w.ctl with
       | .mwait n => deliverHits t wid (some n)
       | .barrier 0 => deliverHits t wid none
       | _ => t)
  | _, _, _ => t

/-- The launch of a wave has been stopped in this event. -/
def stoppedNow (s t : State) (w : Wave) : Bool :=
  let at_ := fun u : State => match launchOf u w with | some (_, l) => l.stopped | none => false
  !(at_ s) && at_ t

/-- The hits that await delivery in the waves of a launch that has been stopped are orphans (R351). -/
def orphansOf (s t : State) : State :=
  let saved := s.teams.flatMap (fun k => match k.2.saved with | some (_, ws) => k.2.waves.zip ws | none => [])
  let t := (s.waves ++ saved).foldl (fun t p => if stoppedNow s t p.2 then orphanHits t p.1 p.2 else t) t
  { t with waves := t.waves.map (fun p => (p.1, if stoppedNow s t p.2 then { p.2 with engineHits := [] } else p.2)) }

/-- What follows an event: L2 holds what engines read, the logs of the intervals take it, engine operations and the encoder may have hit watchpoints, and
waits may have ended. -/
def afterTurn (s : State) (i : Instr) (t : State) : State :=
  if t.stalled then t
  else
    let t := s.waves.foldl (fun t p => allocEvent s t p.1 p.2) t
    let t := if s.intervals.isEmpty then t else s.waves.foldl (fun t p => logEvent s i t p.1 p.2) t
    if watchesNothing s then t
    else orphansOf s (s.waves.foldl (fun t p => waitEnded s (engineAfter s t p.1 p.2) p.1 p.2) t)

/-! ## Selections -/

/-- The wave of an interval waits at an instruction boundary of all its instances for its next interval to begin (R355). -/
def intervalWaits (s : State) (w : Wave) (l : Launch) : Bool := (replayOf s l).isSome && (decide (w.interval = 0) || w.intervalDue)

/-- A choice stands in the log before what the chosen instruction logged. -/
def logChoice (s t : State) (w : Wave) (e : IntervalEntry) : State :=
  match launchOf s w, getTeam s w.team with
  | some (lid, l), some tm =>
    let same := fun z : Interval => z.lid == lid && z.wave == waveIndex tm l w && z.number == w.interval
    let n := match List.find? (fun z => same z && z.status == 0) s.intervals with | some z => z.log.length | none => 0
    { t with intervals := t.intervals.map (fun z =>
        if same z ∧ s.intervals.any (fun y => same y && y.status == 0) = true then { z with log := z.log.take n ++ e :: z.log.drop n } else z) }
  | _, _ => t

end Sys2Proof.Machine
end

