-- ==== Sys2Proof/Machine/Issue.lean ====
section
/-! DEFINITION. What one turn does: the selection of the unit whose turn it is (R267, R270,
R274, R277), the passage of time, and the placing of an instruction where the next step fetches. -/

namespace Sys2Proof.Machine

/-! ## One instance issues -/

/-- An instance that may issue at all: valid, running, not held, not stopped at a fault, its launch running and not stopped, the stores
that came with a moved wave performed, and no replay interval of its wave about to begin (R273, R277, R316, R336, R355). -/
def mayIssue (s : State) (a : Actor) : Bool :=
  match getWave s (actorWave a) with
  | none => false
  | some w =>
    (match launchOf s w with
     | some (_, l) => l.state == .running && !l.stopped && !(w.moved && !(storesSettled w)) && !(intervalWaits s w l)
     | none => false) &&
    (match a with
     | .control _ => w.ctl == .running && w.held.isEmpty && !w.faulted && w.fetchWait.isNone
     | .path _ e =>
       (match Tbl.find? w.paths e with
        | some p => w.blockRunning && p.state == .running && p.held.isEmpty && !p.faulted && p.fetchWait.isNone
        | none => false)
     | .cont _ l =>
       (match Tbl.find? w.conts l with
        | some k => w.blockRunning && k.state == .running && k.held.isEmpty && !k.faulted && k.fetchWait.isNone
        | none => false)
     | _ => false)

/-- Apply a change of state to the next state of an outcome. -/
def thenState (f : State → State) : Out → Out
  | .next t => .next (f t)
  | o => o

/-- An instance of the wave issues: the wave has resumed (R316), and its control stream leaves the boundary of a `YIELD` (R257). -/
def leaveYield (s : State) (a : Actor) : State :=
  modWave s (actorWave a) (fun w => { w with moved := false, yielded := w.yielded && isLane a })

/-- Fetch the next instruction of an instance and execute it. -/
def runActor (s : State) (a : Actor) : Out :=
  match getWave s (actorWave a) with
  | none => stall s
  | some w =>
    match launchOf s w, ctxRec s w with
    | some (_, l), some (_, x) =>
      let s := leaveYield { s with actor := a } a
      (match fetchInstr s x w.decode (isLane a) (fetchAddr s a w l) with
       | .wait => stall s
       | .instr i =>
         if exitHits s (actorWave a) i then .next (deliverHits s (actorWave a) none)
         else thenState (fun t => afterInstr s t a i) (exec i s)
       | .fault c d u => .next (raiseFault s a c d none u)
       | .absent addr e =>
         .next { setFetchWait (takeFault s a (standing s a) (unitFor s a 0x0A) 0x0A (addrDetail addr false true) none false) a
           (some (addr, e)) with actor := .none })
    | _, _ => stall s

/-- What an instance does when its unit looks at it. -/
inductive Tried where
  /-- it is not ready -/
  | no
  /-- it is not ready yet: it has asked for a line, or met a page of its instructions that is not present -/
  | asked (t : State)
  /-- its next instruction issues, or faults -/
  | issued (o : Out)

/-- Look at an instance: its next instruction issues if it is ready (R273). -/
def attempt (s : State) (a : Actor) : Tried :=
  if mayIssue s a then
    match runActor s a with
    | .next t => if t.stalled then .no else if t.actor = .none then .asked t else .issued (.next t)
    | o => .issued o
  else .no

/-- The instance is ready (R273). -/
def isReady (s : State) (a : Actor) : Bool :=
  match attempt s a with
  | .issued _ => true
  | _ => false

/-- The first ready instance of a list, with its place; and the state after those before it have been looked at. -/
def firstReady (s : State) : List (Nat × Actor) → State × Option (Nat × Out)
  | [] => (s, none)
  | (k, a) :: r =>
    match attempt s a with
    | .issued o => (s, some (k, o))
    | .asked t => firstReady t r
    | .no => firstReady s r

/-- Nothing has issued: what was asked for stands. -/
def noneIssued (s t : State) : Out := if t = s then stall s else .next t

/-- The numbers after `p`, cyclically among `n`. -/
def after (p n : Nat) : List Nat := (List.range n).map (fun k => (p + 1 + k) % n)

/-! ## The lane pipes (R274), the yard core (R267, R270), the scalar unit (R277) -/

/-- A wave's ready path by R274: the pointer's own path as the second of a pair, else the first ready one after it. -/
def selectPath (s : State) (wid : Nat) (w : Wave) : State × Option (Nat × Bool × Out) :=
  let second := if w.pair then firstReady s [(w.pathPtr, .path wid w.pathPtr)] else (s, none)
  match second with
  | (t, some r) => (t, some (r.1, false, r.2))
  | (t, none) =>
    let r := firstReady t ((after w.pathPtr 16).map (fun e => (e, .path wid e)))
    (r.1, r.2.map (fun x => (x.1, true, x.2)))

/-- The pointers after a selection (R274). -/
def selected (core pipe k wid p : Nat) (pair : Bool) (t : State) : State :=
  let t := modWave t wid (fun w => { w with pathPtr := p, pair := pair })
  let c := getCore t core
  setCore t core { c with pipePtr := Cells.set 7 c.pipePtr pipe k }

/-- The waves of a lane pipe from the slot after its pointer, cyclically; the first with a ready path issues. -/
def selectPipe (s : State) (core pipe : Nat) : List Nat → State × Option Out
  | [] => (s, none)
  | k :: r =>
    let wid := core * 32 + pipe * 8 + k
    match getWave s wid with
    | none => selectPipe s core pipe r
    | some w =>
      match selectPath s wid w with
      | (t, some (p, pair, o)) => (t, some (thenState (selected core pipe k wid p pair) o))
      | (t, none) => selectPipe t core pipe r

/-- The wave as it would be if none of its registers were empty. -/
def fullRegs (w : Wave) : Wave :=
  { w with sEmpty := [], qEmpty := [], vEmpty := [], paths := w.paths.map (fun p => (p.1, { p.2 with q12Full := true })) }

/-- And with room in its operand log and its return queue. -/
def roomyLog (w : Wave) : Wave := { w with log := [], returnQueue := [] }

/-- A path of the wave would be ready if the wave were as `f` makes it. -/
def readyWith (s : State) (wid : Nat) (f : Wave → Wave) : Bool := (List.range 16).any (fun e => isReady (modWave s wid f) (.path wid e))

/-- Why the pipe issued nothing for a wave in a selection: ready and not selected, every path parked or held, a full log or queue, an empty
register; the rule lists no other reason (R354). -/
def sampleCode (s : State) (wid : Nat) (w : Wave) : Option Nat :=
  if readyWith s wid id then some 5
  else if w.paths.all (fun p => p.2.state != .running || !p.2.held.isEmpty) then some 3
  else if readyWith s wid roomyLog then some 2
  else if readyWith s wid (fun w => fullRegs (roomyLog w)) then some 1
  else none

/-- Note what a selection did for a wave; a reason that the rule does not list is a free value. -/
def noteSample (s : State) (wid : Nat) (w : Wave) (issued : Bool) (t : State) : State :=
  match (if issued then some 0 else sampleCode s wid w) with
  | some n => modWave t wid (fun w => { w with sample := n })
  | none => let r := freeNatOf t; modWave r.2 wid (fun w => { w with sample := r.1 % 8 })

/-- The waves of the pipe whose context samples note what the selection did for them. -/
def markSamples (s : State) (core pipe : Nat) (issued : Bool) (t : State) : State :=
  (s.waves.filter (fun p => p.1 / 8 == core * 4 + pipe && sampled s p.2)).foldl (fun t p =>
    noteSample s p.1 p.2 (issued && Cells.get 7 (getCore t core).pipePtr pipe == p.1 % 8) t) t

/-- The log of the wave that was served takes the choice, if more than one of its paths was ready (R356). -/
def noteChoice (s : State) (core pipe : Nat) (t : State) : State :=
  let wid := core * 32 + pipe * 8 + Cells.get 7 (getCore t core).pipePtr pipe
  if t.stalled || s.intervals.isEmpty then t
  else
    match getWave s wid, getWave t wid with
    | some w, some w' =>
      if w.interval ≠ 0 ∧ 1 < ((List.range 16).filter (fun e => isReady s (.path wid e))).length then
        logChoice s t w (.choice w'.pathPtr)
      else t
    | _, _ => t

/-- What follows a selection of a lane pipe: its samples, and its place in the log of an interval. -/
def afterSelection (s : State) (core pipe : Nat) (t : State) : State := noteChoice s core pipe (markSamples s core pipe true t)

/-- The log of the wave whose continuation the yard core served takes the choice (R356). -/
def noteYard (s : State) (core k : Nat) (t : State) : State :=
  let wid := core * 32 + k / 96
  if s.intervals.isEmpty then t
  else
    match getWave s wid with
    | some w => if w.interval ≠ 0 ∧ (Tbl.find? w.conts (k % 96)).isSome = true then logChoice s t w (.yard (k % 96)) else t
    | none => t

/-- One selection of a lane pipe (R274); a pipe out of service issues nothing (R270). -/
def runPipe (s : State) (core pipe : Nat) : Out :=
  let c := getCore s core
  if c.pipesDown.contains pipe || decide (4 ≤ pipe) then stall s
  else
    match selectPipe s core pipe (after (Cells.get 7 c.pipePtr pipe) 8) with
    | (t, some o) => thenState (afterSelection t core pipe) o
    | (t, none) => .next (markSamples t core pipe false { t with stalled := decide (t = s) })

/-- The continuations of a wave, in ascending lane order. -/
def contActors (wid : Nat) (w : Wave) : List (Nat × Actor) := w.conts.map (fun k => (wid % 32 * 96 + k.1, Actor.cont wid k.1))

/-- The paths that the yard core runs because their pipe is out of service (R270). Log entry 17. -/
def downActors (s : State) (core wid : Nat) (w : Wave) : List (Nat × Actor) :=
  if (getCore s core).pipesDown.contains (slotOf wid / 8) then
    w.paths.map (fun p => (wid % 32 * 96 + lowestBit p.2.owned.toNat 96, Actor.path wid p.1))
  else []
where
  lowestBit (m : Nat) : Nat → Nat
    | 0 => 0
    | n + 1 => if m % 2 = 1 then 0 else 1 + lowestBit (m / 2) n

/-- Everything the yard core of a core may serve, by slot and then lane. -/
def yardActors (s : State) (core : Nat) : List (Nat × Actor) :=
  (List.range 32).flatMap (fun k =>
    match getWave s (core * 32 + k) with
    | some w => contActors (core * 32 + k) w ++ downActors s core (core * 32 + k) w
    | none => [])

/-- The yard core serves the first ready one after its pointer, round robin (R267). -/
def runYard (s : State) (core : Nat) : Out :=
  let c := getCore s core
  let xs := yardActors s core
  match firstReady s (xs.filter (fun x => decide (c.yardPtr < x.1)) ++ xs.filter (fun x => decide (x.1 ≤ c.yardPtr))) with
  | (u, some (k, o)) => thenState (fun t => noteYard u core k (setCore t core { getCore t core with yardPtr := k })) o
  | (t, none) => noneIssued s t

/-- The scalar unit issues one control-stream instruction (R277). -/
def runScalar (s : State) (core : Nat) : Out :=
  let c := getCore s core
  match firstReady s ((after c.scalarPtr 32).map (fun k => (k, Actor.control (core * 32 + k)))) with
  | (_, some (k, o)) => thenState (fun t => setCore t core { getCore t core with scalarPtr := k }) o
  | (t, none) => noneIssued s t

/-! ## Signal boxes and time -/

/-- A signal box executes the next word of its kernel (R437); a word that is invalid ends the packet as a trap (R447). -/
def runBox (s : State) (sel : Nat) : Out :=
  match Tbl.find? s.boxes sel with
  | some b =>
    (match b.run with
     | some r =>
       (match decodeBox ((b.kernel.getD r.pc 0).toNat) with
        | some i => exec i { s with actor := .box sel }
        | none => .next (trapRun s sel r 8 0 0))
     | none => stall s)
  | none => stall s

/-- Every placed team of a launch is saved: its clocks pause (R375). -/
def allSaved (s : State) (lid : Nat) : Bool :=
  let ts := s.teams.filter (fun t => t.2.lid == lid)
  !ts.isEmpty && ts.all (fun t => t.2.saved.isSome)

/-- The clocks of a launch after whole microseconds (R375). -/
def tickLaunch (s : State) (us : Nat) (p : Nat × Launch) : Nat × Launch :=
  if p.2.state = .running ∧ p.2.started = true ∧ allSaved s p.1 = false then
    (p.1, { p.2 with elapsed := p.2.elapsed + us, hbLeft := p.2.hbLeft - us })
  else p

/-- Time passes: cycles of 5/7 ns; the clocks of the launches and the delays of refused packets and held messages run (R3, R64, R332, R375,
R431). -/
def runTick (s : State) (cycles : Nat) : Out :=
  let us := (s.subMicro + cycles) / 1400
  let s := advanceCounters (advanceRings s) cycles
  .next
    { s with
      clock := s.clock + cycles
      timebase := s.timebase + ((s.clock + cycles) * 5 / 7 - s.clock * 5 / 7)
      subMicro := (s.subMicro + cycles) % 1400
      launches := s.launches.map (tickLaunch s us)
      fabric := { s.fabric with
        sent := s.fabric.sent.map (fun x => (x.1, { x.2 with retry := x.2.retry.map (fun n => n - cycles) }))
        heldMsgs := s.fabric.heldMsgs.map (fun h => { h with left := h.left - cycles }) } }

/-- The copies of a scalar unit differ: fault 0x15 at the instruction, which has no effect (R459). Log entry 70. -/
def lockstepError (s : State) (wid : Nat) (v0 v1 : Dword) : Out :=
  if mayIssue s (.control wid) = true ∧ v0 ≠ v1 then
    .next (raiseFault { s with actor := .control wid } (.control wid) 0x15 (v0.toNat + v1.toNat % 2 ^ 63 * 2 ^ 64 + 2 ^ 127) none none)
  else stall s

/-- A demand read of a line in HBM meets an error: one that is corrected is counted, one that is not poisons the line (R457, R480). Log
entry 70. -/
def readError (s : State) (line : Nat) (found : ScrubOutcome) : Out :=
  match homeChannel s (128 * line) with
  | none => stall s
  | some (k, p) =>
    let x := getStack s k
    match found with
    | .clean => stall s
    | .corrected row bank => .next (setStack s k (rowCount p row (bankCount p bank 1 (chanCount p 0 1 x))))
    | .uncorrectable => .next { setStack s k (chanCount p 1 1 x) with tags := Cells.set 0 s.tags line (getTag s line ||| 8) }

/-- A step of a device unit: an instruction that has no words. -/
def isDeviceStep (i : Instr) : Bool := (encode i).isNone

/-- A stored sector whose check value ceases to match: from now on a consumer of it meets fault 0x17 (R455, R457). Whether a bit of the
data or of the check value has changed is never seen. Log entry 70. -/
def checkError (s : State) (at_ : StoredSector) (d : Half) : Out :=
  let flip := fun (m : Cells Half) k => Cells.set 0 m k (Cells.get 0 m k ^^^ d)
  match at_ with
  | .hbm q =>
    if livePhys s (32 * q) = true ∧ (getTag s (q / 4)).toNat % 8 = 0 then .next { s with checks := flip s.checks q } else stall s
  | .l2 c q =>
    (match Tbl.find? (getCluster s c).l2 (q / 4) with
     | some r => if q / 4 < peerLines ∧ r.valid.getLsbD (q % 4) = true then .next (setL2 s c (q / 4) { r with diff := flip r.diff (q % 4) }) else stall s
     | none => stall s)
  | .l1 c q =>
    let k := getCore s c
    if (Tbl.find? k.l1 (q / 4)).isSome then .next (setCore s c { k with l1Checks := flip k.l1Checks q }) else stall s
  | .spad t q =>
    (match getTeam s t with
     | some x => if 32 * q < x.spadSize then .next (modTeam s t (fun x => { x with spadChecks := flip x.spadChecks q })) else stall s
     | none => stall s)
  | .acc t q =>
    (match getTeam s t with
     | some x => if q < 32 * x.accCount then .next (modTeam s t (fun x => { x with accChecks := flip x.accChecks q })) else stall s
     | none => stall s)
  | .weights c q =>
    if c < 128 ∧ 32 * q < weightBytes then
      .next (setCluster s c { getCluster s c with wbChecks := flip (getCluster s c).wbChecks q })
    else stall s

/-- The expanders of a compressed line that is read disagree: the line is poisoned (R456). -/
def expandError (s : State) (line : Nat) : Out :=
  if (getTag s line).toNat = 0 ∨ 8 ≤ (getTag s line).toNat then stall s
  else .next { s with tags := Cells.set 0 s.tags line (getTag s line ||| 8) }

/-- The encoder's output for a dirty line of class line does not expand to the line: it is written raw, and poisoned (R456). -/
def encodeError (s : State) (c line : Nat) : Out :=
  match Tbl.find? (getCluster s c).l2 line with
  | some r =>
    if r.dirty ≠ 0 ∧ r.cls = 0 then .next (retag (evictL2 s c line r) 0 line true true) else stall s
  | none => stall s

/-- One turn. -/
def runTurn (s : State) : Turn → Out
  | .scalar core => runScalar s core
  | .pipe core pipe => runPipe s core pipe
  | .yard core => runYard s core
  | .box sel => runBox s sel
  | .event i => if isDeviceStep i then thenState (afterTurn s i) (exec i s) else stall s
  | .tick n => runTick s n
  | .cacheWalk c va => .next (cacheWalk s c va)
  | .evictWalk c va => .next (evictWalk s c va)
  | .lockstepError wid v0 v1 => lockstepError s wid v0 v1
  | .readError k found => readError s k found
  | .checkError a d => checkError s a d
  | .expandError k => expandError s k
  | .encodeError c k => encodeError s c k
  | .hostWrite => hostWrite s
  | .evictLine c k => (match evictTurn s c k with | some t => .next t | none => stall s)

/-- The turn that comes next and the state without it: the head of the agenda, or a free choice (log entry 1). -/
def nextTurn (s : State) : Turn × State :=
  match s.agenda with
  | t :: r => (t, { s with agenda := r, actor := .none, stalled := false })
  | [] => (Config.freeTurn s.freeCtr, { s with freeCtr := s.freeCtr + 1, actor := .none, stalled := false })

/-- The instruction word placed where the next step fetches: for the control stream, a lane path or a signal box, by the
stream the word belongs to (R84, R439). -/
def placeWord (s : State) (nbits w : Nat) : State :=
  let x := w % 2 ^ nbits
  let lane := match opFormat (x / 4 % 1024) with | some f => f.isLane | none => false
  match (if nbits ≤ 32 then decodeBox x else none) with
  | some _ => placedBox s x
  | none => if lane then placed s placedLane x 12 (.pipe 0 0) else placed s placedControl x 12 (.scalar 0)

end Sys2Proof.Machine
end

