-- ==== Sys2Proof/Machine/Step.lean ====
section
/-! DEFINITION. One step: the next turn of the schedule is run. -/

namespace Sys2Proof.Machine

/-- One step of the device: the turn at the head of the agenda, or a free choice of turn when none is listed. -/
def step (s : State) : Host.Outcome State Fault Refusal := runTurn (nextTurn s).2 (nextTurn s).1

/-- The state with an instruction stored where the next step fetches, and the wave, path or signal box that fetches it. -/
def State.withFetchWord (s : State) (nbits w : Nat) : State := placeWord s nbits w

end Sys2Proof.Machine
end

