-- ==== Sys2Proof/Safety.lean ====
section
/-! DEFINITION. What counts as a safe run, and the conditions on the state and the operands in whose terms claims are stated: which
instance is about to execute, and that its operands can be read. -/

namespace Sys2Proof.Machine

/-! ## Runs -/

/-- The model goes on: it neither faults nor refuses. (A fault of a program is a next state, in which its record is written.) -/
def Goes (o : Out) : Prop := ∃ t, o = .next t

/-- The step did something: a unit that has nothing ready, or waits, leaves the state marked `stalled`. -/
def Acts (o : Out) : Prop := ∃ t, o = .next t ∧ t.stalled = false

/-- `n` steps that all go on. -/
def SafeRun : Nat → State → Prop
  | 0, _ => True
  | n + 1, s => ∃ t, step s = .next t ∧ SafeRun n t

/-- Device memory, its line tags and the differences of its check values are in canonical form, so that equal contents are equal data
(R293, R454). -/
abbrev State.memOk (s : State) : Prop := Memory.wf s.mem = true ∧ Cells.wf 0 s.tags = true ∧ Cells.wf 0 s.checks = true

/-- The byte of device memory at a physical address. -/
def byteAt (s : State) (a : Nat) : Byte := Cells.get memDefault s.mem a

/-- What a unit's act leaves: where everything already is as the act would leave it, the unit marks that it had nothing to do. -/
def orIdle (s u : State) : State := if u = s then { s with stalled := true } else u

/-- Acts in the order of a list, from one state to another; `R` says what each does. -/
def InTurn {α : Type} (R : α → State → State → Prop) : List α → State → State → Prop
  | [], s, t => t = s
  | x :: r, s, t => ∃ u, R x s u ∧ InTurn R r u t

/-! ## The instance that executes -/

/-- The control stream of wave `wid` executes, and `w` is its wave. -/
abbrev AtControl (s : State) (wid : Nat) (w : Wave) : Prop := s.actor = .control wid ∧ getWave s wid = some w

/-- A path or a continuation executes, and `L` is what it brings. -/
abbrev AtLane (s : State) (L : LaneCtx) : Prop := laneCtx s = some L

/-- The wave belongs to a team `t` of launch `l` in context `c`. -/
abbrev InContext (s : State) (w : Wave) (c : Nat) (x : Context) : Prop := ctxRec s w = some (c, x)

/-- The word at an address, as the instances of context `x` fetch it, is `w` (R68, R396). -/
def WordAt (s : State) (x : Context) (addr w : Nat) : Prop :=
  addr < 2 ^ 56 ∧ ∃ p, translate s x .fetch addr = .to p ∧ placePoisoned s p 4 = false ∧ natOfBytes (readBase s p 4) = w

/-! ## Operands that can be read (R49 to R56) -/

/-- A lane operand can be used in some lanes: a uniform register is full; a register is allocated, and full in each of them; an
index lies inside its array. -/
abbrev OperandReady (L : LaneCtx) (lanes : List Nat) (o : Operand) : Prop :=
  match o with
  | .q n => qFull L n.toNat = true
  | .imm _ => True
  | .v n => n.toNat < L.alloc ∧ ∀ l ∈ lanes, vIsEmpty L.w n.toNat l = false
  | .ix a x k => ∀ l ∈ lanes, ∃ r, regOf L.w (.ix a x k) l = some r ∧ vIsEmpty L.w r l = false

/-- The memory gate of R273 and R327 is open: the operand log of the wave has room. -/
abbrev MemoryOpen (w : Wave) : Prop := w.log.length < 8

/-- An instruction that acts on memory at its issue also needs that every acquire before it in the order of its instance has been made
(R306). -/
abbrev MemoryNow (w : Wave) (a : Actor) : Prop := acquired w (syncsBefore w a) = true ∧ w.log.length < 8

/-- The issues of a `.W` instruction in the order of its groups, all of which complete (R61). -/
abbrev IssuesInTurn (issue : Nat → List Nat → State → Res State) : List (Nat × List Nat) → State → State → Prop :=
  InTurn (fun p s t => issue p.1 p.2 s = .ok t)

/-- `n` bytes at the address that lane `p.1` presents in `p.2` lead to place `q`: aperture 1 to the team's scratchpad and aperture 2 to
the lane's stack, within their sizes, and aperture 0 where the translation says; the address is aligned (R154). -/
def LeadsTo (s : State) (L : LaneCtx) (want : Want) (n : Nat) (p : Nat × Nat) (q : Place) : Prop :=
  p.2 % n = 0 ∧
    ((∃ off, p.2 = 2 ^ 56 + off ∧ off < 2 ^ 56 ∧ off < spadSizeOf s L.w ∧ q = .spad L.w.team off)
      ∨ (∃ off, p.2 = 2 * 2 ^ 56 + off ∧ off < 2 ^ 56 ∧ off < stackSizeOf s L.w ∧ q = .stack L.wid p.1 off)
      ∨ (p.2 < 2 ^ 56 ∧ ∃ c x, InContext s L.w c x ∧ translate s x want p.2 = .to q))

/-- `n` bytes at a generic address that an instruction of the control stream can read, and what they are (R105, R206). -/
def ImageAt (s : State) (wid : Nat) (w : Wave) (addr align n : Nat) (bs : List Byte) : Prop :=
  logBlocks s w addr n = false ∧ (∃ p, reachControl s w .read addr align = .ok (.at p))
    ∧ ∃ c x, InContext s w c x ∧ readRange s w wid x addr n = .ok bs

/-- The wave names an installed tensor, and nothing it depends on is still being installed (R206, R207). -/
abbrev TensorReady (s : State) (w : Wave) (tid : Nat) (t : Tensor) : Prop :=
  tensorOf s w tid = some t ∧ installPending w tid = false ∧ installPending w (72 + t.palette) = false
    ∧ installPending w (64 + t.codeTable) = false

/-- A tile lies inside its tensor (R204). -/
abbrev TileInside (t : Tensor) (row col : Nat) : Prop := row < tileRowCount t ∧ col < tileColCount t

/-- An engine operation can be issued: no block of the wave is unfinished, its queue has a free entry and no fault of an earlier
operation awaits delivery (R203, R230, R236). -/
abbrev EngineReady (w : Wave) (matrix : Bool) : Prop := w.laneQueue = [] ∧ queueFree w matrix = true ∧ w.engineFault = none

/-- The state after an engine operation entered its queue, the wave moving on (R203, R214). -/
def issued (s : State) (wid : Nat) (w : Wave) (i : Instr) (op : EngineOp) : State :=
  setWave (modTeam { s with nextUid := s.nextUid + 1 } w.team (issueRecord s.nextUid op)) wid
    (finishControl i { w with engine := w.engine ++ [newItem s.nextUid w op] })

/-- The head `e` of the matrix queue of wave `wid` is taken up: nothing that it waits for is missing, it is the turn of the wave's queue in
its cluster, and the unit is neither fenced nor under test (R227, R336, R502). -/
def MatrixRuns (s : State) (wid : Nat) (w : Wave) (x : Context) (e : EngineItem) : Prop :=
  getWave s wid = some w ∧ matrixHead w = some e ∧ (∃ c, InContext s w c x) ∧ takesHead s wid w = true ∧ servedNow s wid w = true
    ∧ unitRuns s wid = true

/-- A matrix operation has completed: it leaves the wave, which records what it met, and the unit has served the wave's queue (R30, R227,
R231). -/
def matrixDone (wid : Nat) (e : EngineItem) (t : State) : State := servedAt wid (finishItem wid e.id (modWave t wid (hazardFlag e)))

/-- Operation `op` of wave `wid`, in its copy queue, can take its next unit, and it is the turn of the wave's queue (R236, R239). -/
def CopyRuns (s : State) (wid op : Nat) (w : Wave) (c : Nat) (x : Context) (e : EngineItem) : Prop :=
  getWave s wid = some w ∧ InContext s w c x ∧ List.find? (fun e : EngineItem => e.id == op) (copyItems s w) = some e
    ∧ copyServed s wid e = true

/-- A word of the kernel of box `sel` executes: `x` is the box and `r` the run of its packet (R437). -/
abbrev AtBox (s : State) (sel : Nat) (x : SigBox) (r : BoxRun) : Prop := s.actor = .box sel ∧ getBox s sel = x ∧ x.run = some r

/-! ## Frames -/

/-- Everything outside the waves is as it was: memory, its tags and its check values, every byte read by its address; teams, launches, contexts, cores,
clusters, stacks, hub, fabric and boxes; and every wave but `wid`. -/
def SameOutside (s t : State) (wid : Nat) : Prop :=
  (∀ a, byteAt t a = byteAt s a) ∧ t.tags = s.tags ∧ t.checks = s.checks ∧ (∀ k, k ≠ wid → getWave t k = getWave s k) ∧ t.teams = s.teams
    ∧ t.launches = s.launches ∧ t.contexts = s.contexts ∧ t.cores = s.cores ∧ t.clusters = s.clusters ∧ t.hub = s.hub
    ∧ t.hbm = s.hbm ∧ t.fabric = s.fabric ∧ t.boxes = s.boxes ∧ t.windowWrites = s.windowWrites

/-- Memory, its tags and check values, every team's storage, the fabric and the contexts are as they were. -/
def SameMemory (s t : State) : Prop :=
  (∀ a, byteAt t a = byteAt s a) ∧ t.tags = s.tags ∧ t.checks = s.checks ∧ t.teams = s.teams ∧ t.fabric = s.fabric ∧ t.contexts = s.contexts

/-- A move of lines between memory, the slices and the caches: no byte changes, and nothing outside them. -/
def OnlyCaches (s t : State) : Prop :=
  t.mem = s.mem ∧ t.waves = s.waves ∧ t.teams = s.teams ∧ t.contexts = s.contexts ∧ t.launches = s.launches

/-- A wave's flags, modes, special registers, gang registers, engine operations, logs and buffers are as they were. -/
def SameControl (w u : Wave) : Prop :=
  u.satf = w.satf ∧ u.satarm = w.satarm ∧ u.rmode = w.rmode ∧ u.asyncerr = w.asyncerr ∧ u.engGen = w.engGen ∧ u.g = w.g
    ∧ u.gangUids = w.gangUids ∧ u.log = w.log ∧ u.loads = w.loads ∧ u.stores = w.stores ∧ u.engine = w.engine
    ∧ u.returnQueue = w.returnQueue ∧ u.recvs = w.recvs ∧ u.decode = w.decode ∧ u.ctl = w.ctl

/-- A wave's lane registers, conditions, index and array registers and generators are as they were. -/
def SameLanes (w u : Wave) : Prop :=
  u.v = w.v ∧ u.vEmpty = w.vEmpty ∧ u.c = w.c ∧ u.ix = w.ix ∧ u.ad = w.ad ∧ u.laneGen = w.laneGen

/-- A wave's s registers but `d` keep their values and their full bits. -/
def SameScalars (w u : Wave) (d : Nat) : Prop := ∀ n, n ≠ d → sVal u n = sVal w n ∧ sFull u n = sFull w n

/-- A wave's q registers are as they were, but those of the running block that wait for the s register `d` (R53). -/
def SameUniform (w u : Wave) (d : Nat) : Prop :=
  ∀ q, (∀ k, (q, k) ∈ w.qAwait → k ≠ d) →
    Cells.get 0 u.q q = Cells.get 0 w.q q ∧ Cells.get false u.qEmpty q = Cells.get false w.qEmpty q

/-- The paths and continuations of a wave are as they were. -/
def SamePaths (w u : Wave) : Prop := u.paths = w.paths ∧ u.conts = w.conts ∧ u.blockRunning = w.blockRunning

end Sys2Proof.Machine
end

