-- ==== Sys2Proof/Certificates/Slice0/Obligations.lean ====
section
/-! DEFINITION. The statements for the provers. Each formalises rules of spec/, which its docstring names. -/

open Sys2Proof Sys2Proof.Machine

/-! ## The control stream: results -/

/-- R99, R100: a register-register integer instruction, or SCLZ or SPOPC, whose sources and destination are full writes its result to `d` and
the control stream moves on; nothing else changes. Division by zero and the one quotient that overflows have the results of R100. Each
has the opcode of the table in a C3 word of length 0b00, and a unary form names no `b`. -/
def Obligations.ScalarRegisterResults : Prop :=
  ∀ (s : State) (wid : Nat) (w : Wave) (f : C3), AtControl s wid w → sFull w f.a.toNat = true → sFull w f.d.toNat = true →
    let a := sVal w f.a.toNat
    let b := sVal w f.b.toNat
    let codes (i : Instr) (op : Nat) : Prop := thoyxCode i = some (op, 0, encC3 f)
    let does (i : Instr) (v : Dword) : Prop := exec i s = .next (setWave s wid (finishControl i (writeS f.d.toNat v w)))
    let gives (op : Nat) (i : Instr) (v : Dword) : Prop := codes i op ∧ does i v
    gives 0x018 (.sclz f) (BitVec.ofNat 64 (clz 64 a.toNat)) ∧ gives 0x019 (.spopc f) (BitVec.ofNat 64 (popCount 64 a.toNat))
      ∧ (∀ i ∈ [Instr.sclz f, .spopc f], i.wf = true → f.b = 0 ∧ f.eb = false)
      ∧ (sFull w f.b.toNat = true →
        gives 0x001 (.sadd f) (a + b) ∧ gives 0x002 (.ssub f) (a - b) ∧ gives 0x003 (.smul f) (a * b)
        ∧ gives 0x004 (.smulhs f) (BitVec.ofInt 64 (a.toInt * b.toInt / 2 ^ 64))
        ∧ gives 0x005 (.smulhu f) (BitVec.ofNat 64 (a.toNat * b.toNat / 2 ^ 64))
        ∧ gives 0x006 (.sdivs f) (if b = 0 then BitVec.allOnes 64 else BitVec.ofInt 64 (a.toInt.tdiv b.toInt))
        ∧ gives 0x007 (.sdivu f) (if b = 0 then BitVec.allOnes 64 else BitVec.ofNat 64 (a.toNat / b.toNat))
        ∧ gives 0x008 (.srems f) (if b = 0 then a else BitVec.ofInt 64 (a.toInt - a.toInt.tdiv b.toInt * b.toInt))
        ∧ gives 0x009 (.sremu f) (if b = 0 then a else BitVec.ofNat 64 (a.toNat % b.toNat))
        ∧ (a = BitVec.intMin 64 → b = BitVec.allOnes 64 → does (.sdivs f) (BitVec.intMin 64) ∧ does (.srems f) 0)
        ∧ gives 0x00A (.sand f) (a &&& b) ∧ gives 0x00B (.sor f) (a ||| b) ∧ gives 0x00C (.sxor f) (a ^^^ b)
        ∧ gives 0x00D (.sandn f) (a &&& ~~~b)
        ∧ gives 0x00E (.sshl f) (a <<< (b.toNat % 64)) ∧ gives 0x00F (.sshr f) (a >>> (b.toNat % 64))
        ∧ gives 0x010 (.ssra f) (a.sshiftRight (b.toNat % 64))
        ∧ gives 0x011 (.smins f) (if a.toInt ≤ b.toInt then a else b) ∧ gives 0x012 (.smaxs f) (if a.toInt ≤ b.toInt then b else a)
        ∧ gives 0x013 (.sminu f) (if a.toNat ≤ b.toNat then a else b) ∧ gives 0x014 (.smaxu f) (if a.toNat ≤ b.toNat then b else a)
        ∧ gives 0x015 (.sslts f) (if a.toInt < b.toInt then 1 else 0) ∧ gives 0x016 (.ssltu f) (if a.toNat < b.toNat then 1 else 0)
        ∧ gives 0x017 (.sseq f) (if a = b then 1 else 0))

/-- R101, R102: the immediate and extension instructions whose source and destination are full write their results to `d`, and the control
stream moves on. A word of one of them with a shift count of 64 or more, or with a field width of 0 or above 64, raises fault 0x04, whose
detail holds the word and bit number 25. -/
def Obligations.ScalarImmediateResults : Prop :=
  ∀ (s : State) (wid : Nat) (w : Wave) (f : CI), AtControl s wid w →
    let a := sVal w f.a.toNat
    let n := f.imm.toNat
    let gives (i : Instr) (v : Dword) : Prop := exec i s = .next (setWave s wid (finishControl i (writeS f.d.toNat v w)))
    (sFull w f.a.toNat = true → sFull w f.d.toNat = true →
      gives (.saddi f) (a + f.imm.signExtend 64) ∧ gives (.sandi f) (a &&& f.imm.signExtend 64)
      ∧ gives (.sori f) (a ||| f.imm.signExtend 64) ∧ gives (.sxori f) (a ^^^ f.imm.signExtend 64)
      ∧ gives (.sslti f) (if a.toInt < f.imm.toInt then 1 else 0)
      ∧ (n < 64 → gives (.sshli f) (a <<< n) ∧ gives (.sshri f) (a >>> n) ∧ gives (.ssrai f) (a.sshiftRight n))
      ∧ (0 < n → n ≤ 64 → gives (.sext f) (BitVec.ofInt 64 (sextNat a.toNat n)) ∧ gives (.zext f) (BitVec.ofNat 64 (a.toNat % 2 ^ n))))
    ∧ (∀ p ∈ [(Instr.saddi f, 0x020), (.sandi f, 0x021), (.sori f, 0x022), (.sxori f, 0x023), (.sshli f, 0x024), (.sshri f, 0x025),
          (.ssrai f, 0x026), (.sslti f, 0x027), (.sext f, 0x01A), (.zext f, 0x01B)], thoyxCode p.1 = some (p.2, 0, encCI f))
    ∧ ∀ op, (op ∈ [0x024, 0x025, 0x026] ∧ 64 ≤ n) ∨ (op ∈ [0x01A, 0x01B] ∧ (n = 0 ∨ 64 < n)) →
        let u := leaveYield s (.control wid)
        ∀ lid l c x, launchOf s w = some (lid, l) → ctxRec s w = some (c, x) → w.decode = .map1 →
          WordAt u x w.pc.toNat (4 * op + encCI f) →
          runActor s (.control wid) = .next (raiseFault u (.control wid) 0x04 (4 * op + encCI f + 25 * 2 ^ 32) none none)

/-- R103: the literal instructions whose sources and destination are full.

R42, R49, R53: writing an s register changes that register alone and marks it full; s63 discards the write, reads 0 and is always
full; a q register of the running block that waits for the register receives the value.

R51, R52: for the register-register instructions, an empty source read with e = 0 and an empty destination wait with no effect; with
every destination full and no source to wait for, an empty source read with e = 1 raises 0x05 for its register, `a` before `b`. -/
def Obligations.ScalarLiteralsWritesAndEmptyOperands : Prop :=
  (∀ (s : State) (wid : Nat) (w : Wave) (k : CL), AtControl s wid w → sFull w k.d.toNat = true →
      let a := sVal w k.a.toNat
      let b := sVal w k.b.toNat
      let gives (i : Instr) (v : Dword) : Prop := exec i s = .next (setWave s wid (finishControl i (writeS k.d.toNat v w)))
      gives (.sli k) (k.lit.signExtend 64)
        ∧ (sFull w k.a.toNat = true →
          gives (.slih k) ((k.lit.zeroExtend 64 <<< 32) ||| (a.truncate 32).zeroExtend 64)
            ∧ gives (.saddl k) (a + k.lit.signExtend 64)
            ∧ (sFull w k.b.toNat = true →
              gives (.slea k) (a + (b <<< (k.lit.toNat / 2 ^ 29)) + BitVec.ofInt 64 (sextNat k.lit.toNat 29)))))
  ∧
  (∀ (w : Wave) (n m : Nat) (v : Dword),
      sVal (writeS n v w) m = (if m = 63 then 0 else if m = n then v else sVal w m)
        ∧ sFull (writeS n v w) m = (m == 63 || m == n || sFull w m)
        ∧ (writeS 63 v w = w)
        ∧ (n ≠ 63 → ∀ q, (q, n) ∈ w.qAwait → Cells.get 0 (writeS n v w).q q = v ∧ Cells.get false (writeS n v w).qEmpty q = false)
        ∧ ∀ q, (∀ k, (q, k) ∈ w.qAwait → k ≠ n) →
            Cells.get 0 (writeS n v w).q q = Cells.get 0 w.q q ∧ Cells.get false (writeS n v w).qEmpty q = Cells.get false w.qEmpty q)
  ∧
  (∀ (s : State) (wid : Nat) (w : Wave) (f : C3), AtControl s wid w →
      ∀ i ∈ [Instr.sadd f, .ssub f, .smul f, .smulhs f, .smulhu f, .sdivs f, .sdivu f, .srems f, .sremu f, .sand f, .sor f, .sxor f,
          .sandn f, .sshl f, .sshr f, .ssra f, .smins f, .smaxs f, .sminu f, .smaxu f, .sslts f, .ssltu f, .sseq f],
        ((f.ea = false ∧ sFull w f.a.toNat = false) ∨ (f.eb = false ∧ sFull w f.b.toNat = false) ∨ sFull w f.d.toNat = false →
          exec i s = .next { s with stalled := true })
        ∧ (sFull w f.d.toNat = true → (f.ea = true ∨ sFull w f.a.toNat = true) → (f.eb = true ∨ sFull w f.b.toNat = true) →
            (sFull w f.a.toNat = false →
              exec i s = .next (raiseFault s (.control wid) 0x05 (f.a.toNat * 2 ^ 96) none none))
            ∧ (sFull w f.a.toNat = true → sFull w f.b.toNat = false →
              exec i s = .next (raiseFault s (.control wid) 0x05 (f.b.toNat * 2 ^ 96) none none))))

/-- The frame of the scalar integer instructions that complete: every s register but `d` keeps its value and its full bit; flags, modes,
special and lane registers, the paths, the logs and the buffers of the wave, every other wave, and every byte of memory are
unchanged. A q register of the running block that waited for `d` is filled (R53). -/
def Obligations.ScalarIntegerFrame : Prop :=
  ∀ (s t : State) (wid : Nat) (w : Wave) (f : C3) (g : CI), AtControl s wid w →
    let after (t : State) (d : Nat) : Prop := SameOutside s t wid ∧ ∃ u, getWave t wid = some u ∧ SameControl w u ∧ SameLanes w u
      ∧ SamePaths w u ∧ SameScalars w u d ∧ SameUniform w u d
    (∀ i ∈ [Instr.sadd f, .ssub f, .smul f, .smulhs f, .smulhu f, .sdivs f, .sdivu f, .srems f, .sremu f, .sand f, .sor f, .sxor f,
        .sandn f, .sshl f, .sshr f, .ssra f, .smins f, .smaxs f, .sminu f, .smaxu f, .sslts f, .ssltu f, .sseq f],
      sFull w f.a.toNat = true → sFull w f.b.toNat = true → sFull w f.d.toNat = true → exec i s = .next t → after t f.d.toNat)
    ∧ (∀ i ∈ [Instr.sext g, .zext g, .saddi g, .sandi g, .sori g, .sxori g, .sshli g, .sshri g, .ssrai g, .sslti g],
      sFull w g.a.toNat = true → sFull w g.d.toNat = true → exec i s = .next t → after t g.d.toNat)

/-! ## The control stream: branches, memory, the lane interface, special registers -/

/-- R109 to R112, R461: branches, calls and loops. A transfer that is taken sets the PC to its target and SIGC to all ones; a branch not
taken moves on. CALL writes the return address PC + 4 to s62. JR and RET go to `a` when it is a multiple of 4 and raise 0x08 otherwise. -/
def Obligations.BranchResults : Prop :=
  ∀ (s : State) (wid : Nat) (w : Wave) (j : CJ) (r : C3) (f : CB), AtControl s wid w →
    let off : Dword := f.off.signExtend 64
    let target : Dword := w.pc + BitVec.ofInt 64 (j.off.toInt * 4)
    exec (.b j) s = .next (setWave s wid { w with pc := target, sigc := 0xFFFFFFFF#32 })
    ∧ (sFull w 62 = true →
        exec (.call j) s = .next (setWave s wid { writeS 62 (w.pc + 4) w with pc := target, sigc := 0xFFFFFFFF#32 }))
    ∧ (sFull w r.a.toNat = true →
        let a := sVal w r.a.toNat
        let go : Out := if a.toNat % 4 = 0 then .next (setWave s wid { w with pc := a, sigc := 0xFFFFFFFF#32 })
          else .next (raiseFault s (.control wid) 0x08 a.toNat none none)
        exec (.jr r) s = go ∧ exec (.ret r) s = go)
    ∧ (sFull w f.a.toNat = true → sFull w f.b.toNat = true →
        let a := sVal w f.a.toNat
        let b := sVal w f.b.toNat
        let goes (i : Instr) (c : Prop) : Prop :=
          (c → exec i s = .next (setWave s wid { w with pc := w.pc + off, sigc := 0xFFFFFFFF#32 }))
            ∧ (¬c → exec i s = .next (setWave s wid (finishControl i w)))
        goes (.beq f) (a = b) ∧ goes (.bne f) (a ≠ b) ∧ goes (.blts f) (a.toInt < b.toInt) ∧ goes (.bges f) (b.toInt ≤ a.toInt)
          ∧ goes (.bltu f) (a.toNat < b.toNat) ∧ goes (.bgeu f) (b.toNat ≤ a.toNat))
    ∧ (sFull w f.a.toNat = true →
        let a := sVal w f.a.toNat
        let w' := writeS f.a.toNat (a - 1) w
        (a ≠ 1 → exec (.loop f) s = .next (setWave s wid { w' with pc := w.pc + off, sigc := 0xFFFFFFFF#32 }))
          ∧ (a = 1 → exec (.loop f) s = .next (setWave s wid (finishControl (.loop f) w'))))

/-- R104 to R107, R281, R283: a scalar memory instruction whose address leads to a place issues its access there: a load and a returning
atomic go in flight, at their effective scope, and leave `d` empty until their data returns, and a store and an atomic that returns nothing
(d = s63) enter the store buffer. The address leads to the team's scratchpad in aperture 1, within its size and aligned, and in aperture 0
where the translation says. Nothing else changes. SPRF moves on, and moves lines between memory and the caches alone. -/
def Obligations.ScalarMemoryIssues : Prop :=
  ∀ (s : State) (wid : Nat) (w : Wave) (f : CM) (p : Place), AtControl s wid w → sFull w f.a.toNat = true →
    let addr := (sVal w f.a.toNat + f.disp.signExtend 64).toNat
    let n := 2 ^ f.width.toNat
    let b := (sVal w f.b.toNat).toNat
    let leads (want : Want) : Prop := reachControl s w want addr n = .ok (.at p)
    let acc (kind : AccessKind) (dest : Dest) (data cmp : Nat) : Access :=
      { kind := kind, actor := .control wid, pc := w.pc.toNat, block := 0, seq := w.seq, width := n, dest := dest,
        scope := f.scope.toNat, order := f.order.toNat, hint := f.hint.toNat, after := syncsBefore w (.control wid),
        lanes := [{ lane := 0, addr := addr, place := p, reg := 0, data := data, cmp := cmp }] }
    let flying (a : Access) : Wave :=
      noteSync (.control wid) a.order w.seq { w with loads := w.loads ++ [{ a with scope := placeScope p a.scope }] }
    let dest : Dest := if f.d = 63 then .none else .sreg f.d.toNat
    let back (a : Access) : Wave := if f.d = 63 then nextSeq (issueAccess a w) else emptyS f.d.toNat (nextSeq (issueAccess a w))
    let next (i : Instr) (u : Wave) : Out := .next (setWave s wid (finishControl i u))
    (MemoryOpen w → logBlocks s w addr n = false →
      (sFull w f.d.toNat = true → leads .read →
        exec (.sld f) s = next (.sld f) (emptyS f.d.toNat (nextSeq (flying (acc (.load f.sx) (.sreg f.d.toNat) 0 0)))))
      ∧ (sFull w f.b.toNat = true → leads .write → exec (.sst f) s = next (.sst f) (nextSeq (issueAccess (acc .store .none b 0) w)))
      ∧ (sFull w f.b.toNat = true → sFull w f.d.toNat = true → leads .atomic →
        exec (.satom f) s = next (.satom f) (back (acc (.atomic (atomicOf f.aop.toNat)) dest b 0))
        ∧ exec (.scas f) s = next (.scas f) (back (acc (.atomic .cas) dest (sVal w f.d.toNat).toNat b))))
    ∧ (∀ want, addr % n = 0 →
        (∀ off, addr = 2 ^ 56 + off → off < 2 ^ 56 → off < spadSizeOf s w → reachControl s w want addr n = .ok (.at (.spad w.team off)))
        ∧ (∀ c x, addr < 2 ^ 56 → InContext s w c x → translate s x want addr = .to p → leads want))
    ∧ ∃ t, OnlyCaches s t ∧ exec (.sprf f) s = .next (modWave t wid (finishControl (.sprf f)))

/-- R53, R113 to R116: LANE appends the block to the lane queue with its captured sources, LWAIT completes when the queue is empty and no
lane instruction is logged and waits at the instruction otherwise, RECV joins the receivers and leaves `d` empty; LANE and RECV wait
while eight entries are held. -/
def Obligations.LaneInterface : Prop :=
  ∀ (s : State) (wid : Nat) (w : Wave) (q : CQ) (f : C3), AtControl s wid w →
    let cap (n : Nat) : Capture := if sFull w n then .val (sVal w n) else .await n
    ((q.e = true → sFull w q.a.toNat = true ∧ sFull w q.b.toNat = true ∧ sFull w q.c.toNat = true) →
      (w.laneQueue.length < 8 → exec (.lane q) s
        = .next (setWave s wid (finishControl (.lane q) { w with laneQueue := w.laneQueue ++
            [{ off := q.off.toNat, srcs := [cap q.a.toNat, cap q.b.toNat, cap q.c.toNat], syncs := syncsBefore w (.control wid),
               seq := w.seq }] })))
      ∧ (8 ≤ w.laneQueue.length → exec (.lane q) s = .next { s with stalled := true }))
    ∧ (w.laneQueue = [] → (∀ e ∈ w.log, isLaneActor e.actor = false) →
        exec (.lwait f) s = .next (setWave s wid (finishControl (.lwait f) (joinBlocks w))))
    ∧ (w.laneQueue ≠ [] ∨ (∃ e ∈ w.log, isLaneActor e.actor = true) → exec (.lwait f) s = .next (setWave s wid { w with ctl := .lwait }))
    ∧ (sFull w f.d.toNat = true →
        (w.recvs.length < 8 → exec (.recv f) s
          = .next (setWave s wid (finishControl (.recv f) (emptyS f.d.toNat { w with recvs := w.recvs ++ [f.d.toNat] }))))
        ∧ (8 ≤ w.recvs.length → exec (.recv f) s = .next { s with stalled := true }))

/-- R23, R63 to R65, R117, R118: SRS writes the value of a special register that R64 lists to `r`, and the registers read as listed here;
for a number that is not listed SRS and SWS raise 0x04. SWS raises 0x0B for a register that cannot be written. It writes ASYNCERR at
once, cleared by a value whose low byte is 0; SATF, SATARM and RMODE are written when the lane queue is empty and no lane instruction is
logged, and SWS waits before that; a rounding mode of 5 or more raises 0x04. -/
def Obligations.SpecialRegisters : Prop :=
  ∀ (s : State) (wid : Nat) (w : Wave) (f : CS) (lid : Nat) (l : Launch) (t : Team), AtControl s wid w → launchOf s w = some (lid, l) →
    getTeam s w.team = some t →
    let num := f.num.toNat
    let v := sVal w f.r.toNat
    let plain : List (Nat × Nat) := [(0x000, wid), (0x001, t.index), (0x002, l.e.teams), (0x003, l.e.args), (0x004, wid / 32), (0x005, s.clock),
      (0x006, s.timebase), (0x007, w.w), (0x008, l.e.waves), (0x009, regAlloc l), (0x00A, t.spadSize), (0x00B, l.qentry),
      (0x00C, l.e.seed), (0x00D, l.e.flags % 32), (0x010, w.satf.toNat), (0x011, w.satarm.toNat), (0x012, w.engGen.toNat),
      (0x013, w.rmode.toNat), (0x020, w.sigc.toNat), (0x030, w.highWater * 256 + max 1 w.paths.length), (0x031, w.shunted),
      (0x032, w.laneQueue.length + w.returnQueue.length * 256), (0x042, w.asyncerr.toNat),
      (0x051, if flagPersistent l then 0 else l.e.timeLimit)]
    let listed : Prop := num ∈ plain.map (fun p => p.1) ++ [0x040, 0x041, 0x050]
    let raises (i : Instr) (code detail : Nat) : Prop := exec i s = .next (raiseFault s (.control wid) code detail none none)
    let next (u : Wave) : Out := .next (setWave s wid (finishControl (.sws f) u))
    let quiet : Prop := w.laneQueue = [] ∧ ∀ e ∈ w.log, isLaneActor e.actor = false
    (∀ p ∈ plain, special s wid w p.1 = some p.2)
    ∧ (listed → sFull w f.r.toNat = true → ∃ x, special s wid w num = some x
        ∧ exec (.srs f) s = .next (setWave s wid (finishControl (.srs f) (writeS f.r.toNat (BitVec.ofNat 64 x) w))))
    ∧ (¬listed → raises (.srs f) 0x04 (detail04 w (.srs f) 18 false num) ∧ raises (.sws f) 0x04 (detail04 w (.sws f) 18 false num))
    ∧ (listed → num ∉ [0x010, 0x011, 0x013, 0x042] → raises (.sws f) 0x0B num)
    ∧ (num ∈ [0x010, 0x011, 0x013] → ¬quiet → exec (.sws f) s = .next { s with stalled := true })
    ∧ (sFull w f.r.toNat = true →
        (num = 0x042 → exec (.sws f) s = next { w with asyncerr := if v.toNat % 256 = 0 then 0 else v.truncate 32 })
        ∧ (quiet →
          (num = 0x010 → exec (.sws f) s = next { w with satf := v.truncate 4 })
          ∧ (num = 0x011 → exec (.sws f) s = next { w with satarm := v.truncate 4 })
          ∧ (num = 0x013 → (v.toNat < 5 → exec (.sws f) s = next { w with rmode := v.truncate 3 })
              ∧ (5 ≤ v.toNat → raises (.sws f) 0x04 (detail04 w (.sws f) 12 true v.toNat)))))

/-! ## The lane stream: results -/

/-- R119, R122 to R125: an integer lane instruction whose operands are ready writes `D` in every active lane, computed element by
element of type T from the lane's own sources, and the path moves on; nothing else changes but the flags the spec names. -/
def Obligations.LaneIntegerResults : Prop :=
  ∀ (s : State) (L : LaneCtx) (f : V3), AtLane s L → OperandReady L L.lanes f.d → OperandReady L L.lanes f.a →
    let t := f.t.toNat
    let n := elemBits t
    let a (l : Nat) : Word := srcWord L f.lit ⟨f.a, f.ea, t⟩ l
    let b (l : Nat) : Word := srcWord L f.lit ⟨f.b, f.eb, t⟩ l
    let c (l : Nat) : Word := srcWord L f.lit ⟨f.c, f.ec, t⟩ l
    let gives (i : Instr) (g : Nat → LaneOut) : Prop :=
      exec i s = .next (setWave s L.wid (finishLane i L.actor (putLanes f.d g L.w L.all L.w)))
    let elems (i : Instr) (e : Nat → Nat → Nat) : Prop := gives i (fun l => packed t (fun k => (e l k, 0)))
    let A (l k : Nat) : Int := elemInt t (a l) k
    let B (l k : Nat) : Int := elemInt t (b l) k
    (elems (.vabs f) (fun l k => intToNat ((A l k).natAbs : Nat) n) ∧ elems (.vneg f) (fun l k => intToNat (-(A l k)) n)
      ∧ elems (.vclz f) (fun l k => clz n (elem t (a l) k)) ∧ elems (.vpopc f) (fun l k => popCount n (elem t (a l) k)))
    ∧ (OperandReady L L.lanes f.b →
      elems (.vadd f) (fun l k => intToNat (A l k + B l k) n) ∧ elems (.vsub f) (fun l k => intToNat (A l k - B l k) n)
      ∧ elems (.vmul f) (fun l k => intToNat (A l k * B l k) n)
      ∧ elems (.vmulh f) (fun l k => intToNat (A l k * B l k / ((2 ^ n : Nat) : Int)) n)
      ∧ elems (.vand f) (fun l k => Nat.land (elem t (a l) k) (elem t (b l) k))
      ∧ elems (.vor f) (fun l k => Nat.lor (elem t (a l) k) (elem t (b l) k))
      ∧ elems (.vxor f) (fun l k => Nat.xor (elem t (a l) k) (elem t (b l) k))
      ∧ elems (.vshl f) (fun l k => elem t (a l) k * 2 ^ (elem t (b l) k % n) % 2 ^ n)
      ∧ elems (.vshr f) (fun l k => elem t (a l) k / 2 ^ (elem t (b l) k % n))
      ∧ elems (.vsra f) (fun l k => intToNat (A l k / ((2 ^ (elem t (b l) k % n) : Nat) : Int)) n)
      ∧ elems (.vmin f) (fun l k => if A l k ≤ B l k then elem t (a l) k else elem t (b l) k)
      ∧ elems (.vmax f) (fun l k => if A l k ≤ B l k then elem t (b l) k else elem t (a l) k)
      ∧ gives (.vadds f) (fun l => packed t (fun k => satInt (elemSigned t) n (A l k + B l k)))
      ∧ gives (.vsubs f) (fun l => packed t (fun k => satInt (elemSigned t) n (A l k - B l k)))
      ∧ gives (.vbfe f) (fun l =>
          let p := (b l).toNat % 32
          let w := min ((b l).toNat / 256 % 64) (32 - p)
          let v := (a l).toNat / 2 ^ p % 2 ^ w
          { x := if w = 0 then 0 else if f.t = 0 then BitVec.ofNat 32 (intToNat (sextNat v w) 32) else BitVec.ofNat 32 v })
      ∧ (OperandReady L L.lanes f.c →
        elems (.vmad f) (fun l k => intToNat (A l k * B l k + elemInt t (c l) k) n)
        ∧ gives (.vbfi f) (fun l =>
          let p := (b l).toNat % 32
          let w := min ((b l).toNat / 256 % 64) (32 - p)
          let m : Word := BitVec.ofNat 32 (2 ^ w - 1)
          { x := (a l &&& ~~~(m <<< p)) ||| ((c l &&& m) <<< p) })
        ∧ (t ≠ 7 → gives (.vdot4 f) (fun l =>
          let r := satInt true 32 ((srcWord L f.lit ⟨f.c, f.ec, 0⟩ l).toInt
            + (A l 0 * B l 0 + A l 1 * B l 1 + A l 2 * B l 2 + A l 3 * B l 3))
          { x := BitVec.ofNat 32 r.1, flags := r.2 }))
        ∧ (t = 7 → gives (.vdot4 f) (fun l => dotBf16 (modeOf L.w f.m) f.sat
          { lane := l, a := a l, b := b l, c := srcWord L f.lit ⟨f.c, f.ec, 6⟩ l,
            d := match regOf L.w f.d l with | some r => vVal L.w r l | none => 0, gen := laneGenOf s L.w l }))))

/-- R119, R129 to R131: a floating-point lane instruction whose operands are ready: each element is computed exactly and rounded once by
the mode, drawing from the lane's generator under SR; minima and maxima choose a pattern; a special function is one of R38. -/
def Obligations.LaneFloatResults : Prop :=
  ∀ (s : State) (L : LaneCtx) (f : V3), AtLane s L → OperandReady L L.lanes f.d → OperandReady L L.lanes f.a →
    let t := f.t.toNat
    let mode := modeOf L.w f.m
    let a (l : Nat) : Word := srcWord L f.lit ⟨f.a, f.ea, t⟩ l
    let b (l : Nat) : Word := srcWord L f.lit ⟨f.b, f.eb, t⟩ l
    let c (l : Nat) : Word := srcWord L f.lit ⟨f.c, f.ec, t⟩ l
    let gives (i : Instr) (g : Nat → LaneOut) : Prop :=
      exec i s = .next (setWave s L.wid (finishLane i L.actor (putLanes f.d g L.w L.all L.w)))
    let rounds (i : Instr) (v : Nat → Nat → Fp) : Prop :=
      gives i (fun l => roundElems t mode f.sat (v l) (laneGenOf s L.w l))
    let A (l k : Nat) : Fp := fpElem t (a l) k
    let B (l k : Nat) : Fp := fpElem t (b l) k
    (∀ p ∈ [(Instr.vrcp f, spRcp), (.vrsq f, spRsq), (.vexp2 f, spExp2), (.vlog2 f, spLog2), (.vsinp f, spSinp), (.vcosp f, spCosp),
          (.vtanh f, spTanh)],
        gives p.1 (fun l => packed t (fun k =>
          if t = 7 then
            let r := p.2 (elem t (a l) k * 2 ^ 16)
            let q := roundFp .bf16 0 0 false (fpOfFp32 r.bits)
            (q.bits, roundedFlags r ||| roundedFlags q)
          else ((p.2 (elem t (a l) k)).bits, roundedFlags (p.2 (elem t (a l) k))))))
    ∧ (OperandReady L L.lanes f.b →
        rounds (.vfadd f) (fun l k => fpAdd mode (A l k) (B l k)) ∧ rounds (.vfsub f) (fun l k => fpAdd mode (A l k) (fpNeg (B l k)))
        ∧ rounds (.vfmul f) (fun l k => fpMul (A l k) (B l k))
        ∧ gives (.vfmin f) (fun l => packed t (fun k => (fpMinMax (fmtOf t) false (elem t (a l) k) (elem t (b l) k), 0)))
        ∧ gives (.vfmax f) (fun l => packed t (fun k => (fpMinMax (fmtOf t) true (elem t (a l) k) (elem t (b l) k), 0)))
        ∧ (OperandReady L L.lanes f.c → rounds (.vfma f) (fun l k => fpAdd mode (fpMul (A l k) (B l k)) (fpElem t (c l) k))))

/-- R119, R132 to R137, R61: the conversions and the palette instructions whose operands are ready. A palette instruction issues once, or
under `.W` once for each palette number in the order of the lowest lane of each, each issue over its own lanes; no install of those
palettes may be pending and each number lies below 4. An issue that waits is left with those behind it, and they go on from there. -/
def Obligations.LaneConversionResults : Prop :=
  ∀ (s : State) (L : LaneCtx) (f : V3), AtLane s L → OperandReady L L.lanes f.d → OperandReady L L.lanes f.a →
    let t := f.t.toNat
    let st := stypeOf f.c
    let mode := modeOf L.w f.m
    let into (r : Reads) (l : Nat) : LaneIn := laneIn s L r f l
    let gives (i : Instr) (g : Nat → LaneOut) : Prop :=
      exec i s = .next (setWave s L.wid (finishLane i L.actor (putLanes f.d g L.w L.all L.w)))
    let g1 (l : Nat) : Word := genStep (laneGenOf s L.w l)
    let m := if isFpType t || isFpType st then mode else 0
    let groups := if f.w then groupsOf (uniformValue L f.lit f.c) 96 L.lanes else [(uniformValue L f.lit f.c 0, L.lanes)]
    let part (u : State) (p : Nat × List Nat) : LaneCtx := LaneCtx.over L u p.2
    let issue (r : Reads) (g : Palette → LaneIn → LaneOut) (u : State) (p : Nat × List Nat) : State := modWave u L.wid
      (putLanes f.d (fun l => g (paletteOf u (part u p).w p.1) (laneIn u (part u p) r f l)) (part u p).w (part u p).all)
    let ends (i : Instr) (u : State) : State :=
      modWave u L.wid (fun w => if f.w then setRest L.actor [] (finishLane i L.actor w) else finishLane i L.actor w)
    let issues (i : Instr) (r : Reads) (g : Palette → LaneIn → LaneOut) : Prop := exec i s = .next (ends i (groups.foldl (issue r g) s))
    let vpal := fun (p : Palette) (x : LaneIn) => palEncode p t x
    let vunpal := fun (p : Palette) (x : LaneIn) => palDecode p t x
    (gives (.vcvt f) (fun l =>
      { packed t (fun k => cvtElem st t m (drawOf (if k = 0 then g1 l else genStep (g1 l))) (into { a := some st } l).a k) with
        gen := if m = 4 then some (if elemCount t = 2 then genStep (g1 l) else g1 l) else none }))
    ∧ (OperandReady L L.lanes f.b → OperandReady L L.lanes f.c → gives (.vqnt f) (fun l => quantise t mode (into { a := some 6, b := some 0, c := some 0 } l)))
    ∧ (OperandReady L L.lanes f.b → t ≠ 7 → gives (.vpack f) (fun l => packed t (packElem t st (into { a := some st, b := some st } l))))
    ∧ (OperandReady L L.lanes f.b → t = 7 → gives (.vpack f) (fun l =>
        let x := into { a := some st, b := some st } l
        roundElems 7 mode f.sat (fun k => fpOfFp32 (if k = 0 then x.a else x.b).toNat) x.gen))
    ∧ (OperandReady L L.lanes f.b → gives (.vunpk f) (fun l => packed t (unpackElem t st (into { a := some st, b := some 0 } l))))
    ∧ (OperandReady L L.lanes f.c → (f.w = true → L.rest = []) → (∀ p ∈ groups, p.1 < 4 ∧ installPending L.w (72 + p.1) = false) →
        (OperandReady L L.lanes f.b → issues (.vpal f) { a := some t, b := some 0 } vpal) ∧ issues (.vunpal f) { a := some t } vunpal)
    ∧ (f.w = true → L.rest ≠ [] → OperandReady L [] f.c → ∀ u,
        (OperandReady L [] f.b → IssuesInTurn (paletteIssue (.vpal f) f { a := some t, b := some 0 } L vpal) L.rest s u →
          exec (.vpal f) s = .next (ends (.vpal f) u))
        ∧ (IssuesInTurn (paletteIssue (.vunpal f) f { a := some t } L vunpal) L.rest s u → exec (.vunpal f) s = .next (ends (.vunpal f) u)))

/-- R126, R128, R139, R142: comparisons, logic on conditions, VSHUF and VBALLOT. VCMP and CLOG write a condition in the active lanes; the
others write `D`. VSHUF reads `A` in the lanes that `B` selects, and 0 beyond them. -/
def Obligations.LaneMoveResults : Prop :=
  ∀ (s : State) (L : LaneCtx) (f : V3), AtLane s L →
    let t := f.t.toNat
    let a (l : Nat) : Word := srcWord L f.lit ⟨f.a, f.ea, t⟩ l
    let b (l : Nat) : Word := srcWord L f.lit ⟨f.b, f.eb, t⟩ l
    let b0 (l : Nat) : Word := srcWord L f.lit ⟨f.b, f.eb, 0⟩ l
    let a0 (l : Nat) : Word := srcWord L f.lit ⟨f.a, f.ea, 0⟩ l
    let gives (i : Instr) (g : Nat → LaneOut) : Prop :=
      exec i s = .next (setWave s L.wid (finishLane i L.actor (putLanes f.d g L.w L.all L.w)))
    let conds (i : Instr) (g : Nat → Bool) : Prop :=
      exec i s = .next (setWave s L.wid (finishLane i L.actor (writeCond (condOf f.d) g L.all L.w)))
    let half (l : Nat) : Nat := if L.shadow && decide (48 ≤ l) then 48 else 0
    conds (.clog f) (fun l => condOp f.m.toNat (condAt L.w (condOf f.a) l) (condAt L.w (condOf f.b) l))
    ∧ (OperandReady L L.lanes f.a → OperandReady L L.lanes f.b → conds (.vcmp f) (fun l => compareWords t f.m.toNat (a l) (b l)))
    ∧ (OperandReady L L.lanes f.d → OperandReady L L.lanes f.b →
        gives (.vballot f) (fun l => { x := BitVec.ofNat 32 (ballotWord (ballot L (condOf f.a) (half l)) ((b0 l).toNat % 4)) })
        ∧ ((∀ js : List Nat, (∀ j ∈ js, j < visibleLanes L ∧ ∃ l ∈ L.lanes, (b0 l).toNat = j) → OperandReady L js f.a) →
          gives (.vshuf f) (fun l => if (b0 l).toNat < visibleLanes L then { x := a0 (sameHalf l (b0 l).toNat L.shadow) } else { x := 0 })))

/-- R127, R138, R140, R141: the moves and selections of one operand word. VMOV copies `a`, VSEL takes `a` where the condition `C` holds and `b`
elsewhere, VBCAST gives every active lane register `A` of the lowest active one and writes nothing without one, VIDX adds to `a` the lane's
number, counted in its half in shadow mode, times `b`. The type only widens an immediate, and only the fields that the rules name may be
set. -/
def Obligations.LaneSelections : Prop :=
  ∀ (s : State) (L : LaneCtx) (f : V3), AtLane s L →
    let t := f.t.toNat
    let a (l : Nat) : Word := srcWord L f.lit ⟨f.a, f.ea, t⟩ l
    let b (l : Nat) : Word := srcWord L f.lit ⟨f.b, f.eb, t⟩ l
    let gives (i : Instr) (g : Nat → LaneOut) : Prop :=
      exec i s = .next (setWave s L.wid (finishLane i L.actor (putLanes f.d g L.w L.all L.w)))
    let half (l : Nat) : Nat := if L.shadow && decide (48 ≤ l) then 48 else 0
    let plain : Prop := f.m = 0 ∧ f.sat = false ∧ f.w = false
    (OperandReady L L.lanes f.d → OperandReady L L.lanes f.a →
      gives (.vmov f) (fun l => { x := a l })
      ∧ (∀ k r, L.lanes = k :: r → t = 0 → gives (.vbcast f) (fun l => { x := a (sameHalf l k L.shadow) }))
      ∧ (L.lanes = [] → exec (.vbcast f) s = .next (setWave s L.wid (finishLane (.vbcast f) L.actor L.w)))
      ∧ (OperandReady L L.lanes f.b →
        gives (.vsel f) (fun l => { x := if condAt L.w (condOf f.c) l then a l else b l })
        ∧ (t < 2 → gives (.vidx f) (fun l => { x := a l + BitVec.ofNat 32 (l - half l) * b l }))))
    ∧ (∀ o e u l, (∀ i, o ≠ .imm i) → srcWord L f.lit ⟨o, e, t⟩ l = srcWord L f.lit ⟨o, e, u⟩ l)
    ∧ opNumber (.vsel f) = 0x119 ∧ opNumber (.vmov f) = 0x138 ∧ opNumber (.vbcast f) = 0x13A ∧ opNumber (.vidx f) = 0x13B
    ∧ ((Instr.vsel f).wf = true → plain ∧ (t = 0 ∨ t = 1 ∨ t = 6 ∨ t = 7) ∧ ∃ n, f.c = .q n ∧ n.toNat < 8)
    ∧ ((Instr.vmov f).wf = true → plain ∧ t < 8)
    ∧ ((Instr.vbcast f).wf = true → plain ∧ t = 0 ∧ f.b = .v 0 ∧ f.c = .v 0)
    ∧ ((Instr.vidx f).wf = true → plain ∧ t < 2 ∧ f.c = .v 0)

/-- R143 to R147: the reductions VTOS and VTOQ and the scan VSCAN. VTOS waits while the return queue is full; in shadow mode the two halves
must agree, and 0x15 is raised when they do not.

R45, R148 to R151: IXSET writes an ix register in every active lane, ADSET an array descriptor within the allocation, and a q
instruction computes once for the path and writes its q register or mask word. -/
def Obligations.LaneReductionAndUniformResults : Prop :=
  (∀ (s : State) (L : LaneCtx) (f : V3), AtLane s L → OperandReady L L.lanes f.a →
      let value (half : Nat) : Nat := intToNat (reduceAll f.m.toNat f.t.toNat (reduceOps L f half)).1 64
      let flags : BitVec 4 := (reduceAll f.m.toNat f.t.toNat (reduceOps L f 0)).2
      let next (i : Instr) (u : Wave) : Out := .next (setWave s L.wid (finishLane i L.actor (setFlags flags u)))
      ((L.shadow = true → value 0 = value 48) →
        (L.w.returnQueue.length < 8 →
          exec (.vtos f) s = next (.vtos f) { L.w with returnQueue := L.w.returnQueue ++ [BitVec.ofNat 64 (value 0)] })
        ∧ (8 ≤ L.w.returnQueue.length → exec (.vtos f) s = .next { s with stalled := true })
        ∧ ∀ n, f.d = .q n → qFull L n.toNat = true →
            exec (.vtoq f) s = next (.vtoq f) (writeQ L n.toNat (BitVec.ofNat 64 (value 0)) L.w))
      ∧ (L.shadow = true → value 0 ≠ value 48 → L.w.returnQueue.length < 8 →
          exec (.vtos f) s = .next (raiseFault s L.actor 0x15 (value 0 + value 48 * 2 ^ 64) none none))
      ∧ (OperandReady L L.lanes f.d →
          exec (.vscan f) s = .next (setWave s L.wid (finishLane (.vscan f) L.actor (putLanes f.d (fun l =>
            let half := if L.shadow && decide (48 ≤ l) then 48 else 0
            let r := (scanAll f.m.toNat f.t.toNat (reduceOps L f half)).getD (L.lanes.idxOf (l - half)) (0, 0)
            { x := BitVec.ofNat 32 (intToNat r.1 32), flags := r.2 }) L.w L.all L.w)))))
  ∧
  (∀ (s : State) (L : LaneCtx) (f : V3), AtLane s L →
      let a := srcDword L f.a
      let b := srcDword L f.b
      (OperandReady L L.lanes f.a →
        exec (.ixset f) s = .next (setWave s L.wid (finishLane (.ixset f) L.actor
          (writeIx (smallOf f.d) (fun l => (srcWord L f.lit ⟨f.a, f.ea, 0⟩ l).truncate 16) L.all L.w))))
      ∧ (OperandReady L L.lanes f.a → OperandReady L L.lanes f.b → a.toNat ≤ 255 → b.toNat ≤ 256 → a.toNat + b.toNat ≤ L.alloc →
          exec (.adset f) s = .next (setWave s L.wid (finishLane (.adset f) L.actor
            { L.w with ad := Cells.set 0 L.w.ad (smallOf f.d) (BitVec.ofNat 64 (a.toNat + b.toNat * 256)) })))
      ∧ ∀ n, f.d = .q n → qFull L n.toNat = true → OperandReady L [] f.a →
          let gives (i : Instr) (v : Dword) : Prop := exec i s = .next (setWave s L.wid (finishLane i L.actor (writeQ L n.toNat v L.w)))
          gives (.qmov f) a ∧ gives (.qli f) ((f.lit.getD 0).signExtend 64)
            ∧ (OperandReady L [] f.b →
              gives (.qadd f) (a + b) ∧ gives (.qsub f) (a - b) ∧ gives (.qand f) (a &&& b) ∧ gives (.qor f) (a ||| b)
              ∧ gives (.qxor f) (a ^^^ b) ∧ gives (.qshl f) (a <<< (b.toNat % 64)) ∧ gives (.qshr f) (a >>> (b.toNat % 64))))

/-! ## The lane stream: memory, tiles, accumulators and paths -/

/-- R153 to R160, R164: a lane memory instruction whose operands are ready and whose every active lane leads to a place issues one access
for all of them, lowest lane first: VLD and a returning atomic leave their destinations empty in those lanes until the data returns;
VST and an atomic that returns nothing enter the store buffer; with no active lane nothing is issued. VPRF moves on, and moves lines
between memory and the caches alone. -/
def Obligations.LaneMemoryIssues : Prop :=
  ∀ (s : State) (L : LaneCtx) (f : VM) (x : VMX), AtLane s L → x.m = f →
    (∀ q ∈ addrSrcs f, OperandReady L L.lanes q.o) → (f.am = true → ∀ n, f.a = .v n → n.toNat + 1 < L.alloc) →
    let k := widthRegs f.width.toNat
    let n := 2 ^ f.width.toNat
    let addr := laneAddr L f
    let ready (o : Operand) : Prop := ∀ r ∈ regsFrom o k, OperandReady L L.lanes r
    let agree (g : Nat → Nat) : Prop := L.shadow = true → ∀ l ∈ L.lanes, g l = g (l + 48)
    let none0 : Nat → Nat := fun _ => 0
    let data (l : Nat) : Nat := laneData L f.d f.ed k l
    let stored (l : Nat) : Nat := data l % 2 ^ (8 * n)
    let dest : Dest := if x.b = .imm 0 then .none else .vregs
    let back (u : Wave) : Wave := if x.b = .imm 0 then u else emptyLanesOf x.b k L.w L.all u
    (∀ (c : Nat) (y : Context) (goal : Nat → Place), InContext s L.w c y → MemoryOpen L.w → (∀ l ∈ L.lanes, logBlocks s L.w (addr l) n = false) →
      let leads (want : Want) : Prop := ∀ l ∈ L.lanes, LeadsTo s L want n (l, addr l) (goal l)
      let acc (kind : AccessKind) (dest : Dest) (o : Operand) (data cmp : Nat → Nat) : Access :=
        laneAccess L kind dest n f.scope.toNat f.order.toNat f.hint.toNat
          (L.lanes.map (fun l => { laneAcc L o addr data cmp l with place := goal l }))
      let gives (i : Instr) (a : Access) (mark : Wave → Wave) : Prop :=
        exec i s = .next (setWave s L.wid (finishLane i L.actor (if L.lanes = [] then L.w else mark (nextSeq (issueAccess a L.w)))))
      (leads .read → ready f.d → gives (.vld f) (acc (.load f.sx) .vregs f.d none0 none0) (emptyLanesOf f.d k L.w L.all))
      ∧ (leads .write → ready f.d → agree addr → agree stored → gives (.vst f) (acc .store .none f.d stored none0) (fun u => u))
      ∧ (leads .atomic → ready f.d → (x.b ≠ .imm 0 → ready x.b) → agree addr → agree data →
        gives (.vatom x) (acc (.atomic (atomicOf x.aop.toNat)) dest x.b data none0) back
        ∧ (ready x.c → agree (laneData L x.c x.ec k) →
          gives (.vcas x) (acc (.atomic .cas) dest x.b data (laneData L x.c x.ec k)) back)))
    ∧ ∃ t, OnlyCaches s t ∧ exec (.vprf f) s = .next (modWave t L.wid (finishLane (.vprf f) L.actor))

/-- R165 to R169, R61: VLDT, VSTT and VSTE. The plain form issues once with the tensor number of its field, the `.W` form once for each
number in its W register, in the order of the lowest lane; an instruction left at an issue that waited goes on with those that remain. Each
issue needs a valid tensor that suits the access, ready operands, coordinates inside it and no page that is absent: a load enters with the
values read and leaves its destination empty, a store puts its elements in the store buffer and sets the flags of narrowing, and an encoding
stages its blocks, which must be whole groups of 16, inside the tile and not yet staged. -/
def Obligations.TileInstructions : Prop :=
  ∀ (s : State) (L : LaneCtx) (f : VT), AtLane s L → (∀ n, (f.a = .v n ∨ f.b = .v n ∨ f.d = .v n) → n.toNat < L.alloc) →
    (if f.w then f.wreg.toNat < L.alloc ∧ (L.rest = [] → OperandReady L L.lanes (.v f.wreg))
      else (f.tq = true → qFull L (f.tid.toNat % 16) = true)) →
    let number (l : Nat) : Nat := (vVal L.w f.wreg.toNat l).toNat
    let groups := if f.w then (if L.rest = [] then groupsOf number 96 L.lanes else L.rest) else [(uniformVal L f.tq f.tid.toNat, L.lanes)]
    let ends (i : Instr) (u : State) : State :=
      modWave u L.wid (fun w => if f.w then setRest L.actor [] (finishLane i L.actor w) else finishLane i L.actor w)
    let part (u : State) (ls : List Nat) : LaneCtx := LaneCtx.over L u ls
    let req (u : State) (op : TileOp) (v : Nat) (t : Tensor) (ls : List Nat) : TileReq := tileReq u (part u ls) f op v t ls
    let access (u : State) (r : TileReq) (ls : List Nat) (lanes : List LaneAcc) : Access :=
      tileAccess L.actor L.pc (q3Of (part u ls).w % 2 ^ 32) L.entry (part u ls).w.seq r lanes
    let usable (u : State) (op : TileOp) (v : Nat) (t : Tensor) (ls : List Nat) : Prop :=
      let M := part u ls
      OperandReady M ls f.a ∧ OperandReady M ls f.b ∧ OperandReady M ls f.d ∧ MemoryOpen M.w
        ∧ v < 64 ∧ installPending M.w v = false ∧ tensorOf u M.w v = some t ∧ tensorSuits op f.mode.toNat t = true
        ∧ installPending M.w (72 + t.palette) = false ∧ installPending M.w (64 + t.codeTable) = false
        ∧ ∀ e ∈ M.w.log, ∀ a ∈ logRegions e.body, ∀ b ∈ reqRegions (req u op v t ls), locationsMeet u M.w a b = false
    let agree (u : State) (ls : List Nat) : Prop := let M := part u ls
      M.shadow = true → ∀ l ∈ ls, rowOf M f l = rowOf M f (l + 48) ∧ colOf M f l = colOf M f (l + 48)
        ∧ srcWord M none ⟨f.d, f.ed, 0⟩ l = srcWord M none ⟨f.d, f.ed, 0⟩ (l + 48)
    let loads (v : Nat) (ls : List Nat) (u u' : State) : Prop :=
      ∃ t c x, ∃ value : LaneAcc → Nat × BitVec 4, InContext u (part u ls).w c x ∧ usable u .load v t ls ∧
        let M := part u ls
        let r := req u .load v t ls
        (∀ l ∈ r.lanes, coordBad r l = none) ∧ tileReady u M.w r = true ∧ misalignedLanes r = []
          ∧ laneValues u M.w L.wid x r = r.lanes.map (fun l => (l, .ok (value l)))
          ∧ u' = setWave u L.wid (emptyLanesOf f.d 1 M.w M.all (nextSeq (if ls = [] then M.w else { M.w with loads := M.w.loads ++
              [{ access u r ls (r.lanes.map (fun l => deliveredLane r (l, .ok (value l)))) with
                 flags := r.lanes.foldl (fun g l => g ||| (value l).2) 0 }] })))
    let stores (v : Nat) (ls : List Nat) (u u' : State) : Prop :=
      ∃ t c x, ∃ goal : Nat × Nat → Place, InContext u (part u ls).w c x ∧ usable u .store v t ls ∧ agree u ls ∧
        let M := part u ls
        let r := req u .store v t ls
        let es := r.lanes.map (laneElems r)
        let ps := es.flatMap (fun e => e.1)
        (∀ l ∈ r.lanes, coordBad r l = none) ∧ (f.mode = 2 → f.base.toNat % packedCount t = 0)
          ∧ (∀ e ∈ ps, LeadsTo u M .write (elemBytes t) (e.lane, e.addr) (goal (e.lane, e.addr)))
          ∧ u' = setWave u L.wid (nextSeq (setFlags (es.foldl (fun g e => g ||| e.2) 0)
              (bufferElems M.w (access u r ls []) M.w.seq (ps.map (fun e => (e, goal (e.lane, e.addr)))))))
    let stages (v : Nat) (ls : List Nat) (u u' : State) : Prop :=
      ∃ t c x l bs team, InContext u (part u ls).w c x ∧ usable u .encode v t ls ∧ agree u ls ∧ ls.head? = some l ∧
        let M := part u ls
        let r := req u .encode v t ls
        let row := rowOf M f l
        let col := colOf M f l
        let tile := openTileOf team r row col
        row < tileRowCount t ∧ col < tileColCount t ∧ tileReady u M.w r = true ∧ getTeam u M.w.team = some team
          ∧ readStream u M.w L.wid x t (indexEntryAt t row col) 8 = .ok bs ∧ entryClass (natOfBytes bs) = .invalid
          ∧ ls.length % 16 = 0 ∧ (tile = none → team.openTiles.length < 4)
          ∧ (∀ g < ls.length / 16, f.base.toNat + g < blockCount t ∧ ∀ o, tile = some o → Tbl.find? o.blocks (f.base.toNat + g) = none)
          ∧ u' = modWave (stageIssue u L.wid M.w L.pc r) L.wid nextSeq
    let same : Prop := f.w = true → L.rest = [] → L.shadow = true → ∀ l ∈ L.lanes, number l = number (l + 48)
    ∀ t, (InTurn (fun p => loads p.1 p.2) groups s t → exec (.vldt f) s = .next (ends (.vldt f) t))
      ∧ (same → InTurn (fun p => stores p.1 p.2) groups s t → exec (.vstt f) s = .next (ends (.vstt f) t))
      ∧ (same → InTurn (fun p => stages p.1 p.2) groups s t → exec (.vste f) s = .next (ends (.vste f) t))

/-- R170, R171, R61: VLDA issues a load of the named elements and leaves its destination empty; VSTA writes each lane's word to the element it
names, lanes in ascending order, and no other element; while a batch that accumulates into the tile is pending it writes an undefined
value instead and sets SATF bit 2. The plain form issues once with the tile of its field, the `.W` form once for each number in its W
register. A tile number lies below the team's tiles, a row and a column below 16. -/
def Obligations.AccumulatorAccess : Prop :=
  ∀ (s : State) (L : LaneCtx) (f : VT), AtLane s L → (∀ n, (f.a = .v n ∨ f.b = .v n ∨ f.d = .v n) → n.toNat < L.alloc) →
    (if f.w then f.wreg.toNat < L.alloc ∧ (L.rest = [] → OperandReady L L.lanes (.v f.wreg))
      else (f.aq = true → qFull L (f.acc.toNat % 16) = true)) →
    let number (l : Nat) : Nat := (vVal L.w f.wreg.toNat l).toNat
    let groups := if f.w then (if L.rest = [] then groupsOf number 96 L.lanes else L.rest) else [(uniformVal L f.aq f.acc.toNat, L.lanes)]
    let ends (i : Instr) (u : State) : State :=
      modWave u L.wid (fun w => if f.w then setRest L.actor [] (finishLane i L.actor w) else finishLane i L.actor w)
    let part (u : State) (ls : List Nat) : LaneCtx := LaneCtx.over L u ls
    let word (u : State) (ls : List Nat) (l : Nat) : Word := srcWord (part u ls) none ⟨f.d, f.ed, 0⟩ l
    let key (u : State) (tile : Nat) (ls : List Nat) (l : Nat) : Nat := tile * 256 + rowOf (part u ls) f l * 16 + colOf (part u ls) f l
    let usable (tile : Nat) (ls : List Nat) (u : State) : Prop :=
      let M := part u ls
      OperandReady M ls f.a ∧ OperandReady M ls f.b ∧ OperandReady M ls f.d ∧ tile < accCountOf u M.w
        ∧ ∀ l ∈ ls, rowOf M f l < 16 ∧ colOf M f l < 16
    let loads (tile : Nat) (ls : List Nat) (u u' : State) : Prop :=
      let M := part u ls
      usable tile ls u ∧ MemoryOpen M.w ∧ u' = setWave u L.wid (if ls = [] then M.w else
        emptyLanesOf f.d 1 M.w M.all (nextSeq (enterAccess { laneAccess M (.load false) .vregs 4 0 0 0
          (ls.map (laneAcc M f.d (key u tile ls) (fun _ => 0) (fun _ => 0))) with accTile := some tile } M.w)))
    let agree (u : State) (ls : List Nat) : Prop := let M := part u ls
      M.shadow = true → ∀ l ∈ ls, rowOf M f l = rowOf M f (l + 48) ∧ colOf M f l = colOf M f (l + 48) ∧ word u ls l = word u ls (l + 48)
    let stores (tile : Nat) (ls : List Nat) (u u' : State) : Prop :=
      let M := part u ls
      let hot := pendingInto u M.w.team tile
      let t := ls.foldl (fun t l => modWave (storeAcc t M.w.team (key u tile ls l) (word u ls l) hot) L.wid (markAcc (key u tile ls l))) u
      usable tile ls u ∧ agree u ls ∧ (∀ a ∈ M.w.loads, a.accTile ≠ some tile)
        ∧ u' = if hot = true ∧ ls ≠ [] then modWave t L.wid (setFlags 4) else t
    let same : Prop := f.w = true → L.rest = [] → L.shadow = true → ∀ l ∈ L.lanes, number l = number (l + 48)
    ∀ t, (InTurn (fun p => loads p.1 p.2) groups s t → exec (.vlda f) s = .next (ends (.vlda f) t))
      ∧ (same → InTurn (fun p => stores p.1 p.2) groups s t → exec (.vsta f) s = .next (ends (.vsta f) t))

/-- R172, R173, R176 to R178, R460: the transfers of a path. JMPV and a BRV that every active lane takes go to the target with a fresh
signature; a BRV that none takes moves on; one that some lanes of a path take splits it; CALLV saves PC + 8 in q12; RETV goes to q12, raising
0x08 unless it is a multiple of 4; CALLV and RETV wait while q12 is empty; SIGV moves on from a signature that equals its literal and raises
0x14 otherwise, and resets the signature in both cases; NOPV moves on. A continuation runs these with its one lane. -/
def Obligations.PathTransfers : Prop :=
  ∀ (s : State) (L : LaneCtx) (f : VB) (v : V3), AtLane s L →
    let target : Nat := (((L.pc : Int) + f.off.toInt) % (2 ^ 64 : Int)).toNat
    let holds (l : Nat) : Bool := condAt L.w f.c.toNat l != f.sense
    let sig := foldSig L.sig (opNumber (.brv f))
    let moved (pc : Nat) (sig : Word) (u : Wave) : State := setWave s L.wid (setPcSig L.actor pc sig u)
    let goes (i : Instr) (pc : Nat) (sig : Word) (u : Wave) : Prop := exec i s = .next (moved pc sig u)
    ((L.shadow = true → ∀ l ∈ L.lanes, holds l = holds (l + 48)) →
      ((∀ l ∈ L.lanes, holds l = false) → goes (.brv f) (L.pc + 8) sig L.w)
      ∧ (L.lanes ≠ [] → (∀ l ∈ L.lanes, holds l = true) → goes (.brv f) target 0xFFFFFFFF#32 L.w)
      ∧ (∀ wid e, L.actor = .path wid e → (∃ l ∈ L.lanes, holds l = true) → (∃ l ∈ L.lanes, holds l = false) →
          exec (.brv f) s
            = .next (splitPath s L e (L.lanes.filter holds) (L.lanes.filter (fun l => !(holds l))) target (L.pc + 8) sig)))
    ∧ (∀ wid l, L.actor = .cont wid l → L.lanes.length ≤ 1)
    ∧ goes (.jmpv f) target 0xFFFFFFFF#32 L.w
    ∧ (L.q12Full = true → goes (.callv f) target 0xFFFFFFFF#32 (writeQ L 12 (BitVec.ofNat 64 (L.pc + 8)) L.w)
        ∧ (L.q12.toNat % 4 = 0 → goes (.retv f) L.q12.toNat 0xFFFFFFFF#32 L.w)
        ∧ (L.q12.toNat % 4 ≠ 0 → exec (.retv f) s = .next (raiseFault s L.actor 0x08 L.q12.toNat none none)))
    ∧ (L.q12Full = false → exec (.callv f) s = .next { s with stalled := true } ∧ exec (.retv f) s = .next { s with stalled := true })
    ∧ (L.sig.toNat = (v.lit.getD 0).toNat → goes (.sigv v) (L.pc + byteLength (.sigv v)) 0xFFFFFFFF#32 L.w)
    ∧ (L.sig.toNat ≠ (v.lit.getD 0).toNat → exec (.sigv v) s
        = .next (raiseFault (moved L.pc 0xFFFFFFFF#32 L.w) L.actor 0x14 ((v.lit.getD 0).toNat + L.sig.toNat * 2 ^ 32) none none))
    ∧ exec (.nopv v) s = .next (setWave s L.wid (finishLane (.nopv v) L.actor L.w))

/-- R174, R175, R264, R265, R268: REGANG and LEND park the path or continuation, a path with every owned lane active again, and those that
meet there merge; a root that is complete passes a REGANG at once.

R334, R177, R178: a TRAPV whose condition holds in some active lane, and a BRKV, move on and take fault 0x1A or 0x1B for the instruction
they stand at; a TRAPV that no lane takes only moves on. -/
def Obligations.LaneMeetingsAndTraps : Prop :=
  (∀ (s : State) (L : LaneCtx) (f : VB), AtLane s L →
      let sig := foldSig (foldSig L.sig (opNumber (.regang f))) (0x8000 + f.jid.toNat)
      (rootComplete L = false →
        exec (.regang f) s = .next (settle (.regang L.pc) L.wid (setWave s L.wid (park L (.atRegang f.jid.toNat) sig L.w))))
      ∧ (∀ wid p, L.actor = .path wid 0 → Tbl.find? L.w.paths 0 = some p → p.owned = p.split → p.join = 0 →
          exec (.regang f) s = .next (setWave s L.wid { L.w with paths := Tbl.modify L.w.paths 0 (fun p =>
            { p with pc := L.pc + 8, sig := sig, active := launchMask L.shadow }) }))
      ∧ exec (.lend f) s
          = .next (settle .lend L.wid (setWave s L.wid (park L .atLend (foldSig L.sig (opNumber (.lend f))) L.w))))
  ∧
  (∀ (s : State) (L : LaneCtx) (f : VB), AtLane s L →
      let holds (l : Nat) : Bool := condAt L.w f.c.toNat l != f.sense
      let past (i : Instr) : State := setWave s L.wid (finishLane i L.actor L.w)
      let trap (i : Instr) (code detail : Nat) (mask : Option Nat) : Prop :=
        exec i s = .next (takeFault (past i) L.actor (standing s L.actor) (actorUnit s L.actor) code detail mask false)
      ((L.shadow = true → ∀ l ∈ L.lanes, holds l = holds (l + 48)) →
        ((∀ l ∈ L.lanes, holds l = false) → exec (.trapv f) s = .next (past (.trapv f)))
        ∧ ((∃ l ∈ L.lanes, holds l = true) → trap (.trapv f) 0x1A (f.off.toNat / 4) (some (maskOf (L.lanes.filter holds)))))
      ∧ trap (.brkv f) 0x1B (f.off.toNat / 4 * 2 ^ 64) none)

/-! ## The control stream: tables and gangs -/

/-- R206, R207, R209 to R211: TDEF, CTLOAD and PALLD read the image at src(a) and install what it describes in the wave's context; a descriptor
or a code image that fails its checks raises 0x11 or 0x16 instead; TINV removes a descriptor; GANGSET records a gang word and the waves that
hold its member slots, raises 0x04 for a word with a bit above its fields and 0x10 for one that breaks the other rules of R211. While an
install of the entry is pending, each waits. -/
def Obligations.TableInstalls : Prop :=
  ∀ (s : State) (wid : Nat) (w : Wave) (f : CE) (c : Nat) (x : Context), AtControl s wid w → InContext s w c x →
    let a := sVal w f.a.toNat
    let puts (i : Instr) (g : Context → Context) : Prop := exec i s = .next (modWave (modCtx s c g) wid (finishControl i))
    let raises (i : Instr) (code detail : Nat) : Prop := exec i s = .next (raiseFault s (.control wid) code detail none none)
    let waits (i : Instr) : Prop := exec i s = .next { s with stalled := true }
    (installPending w f.t.toNat = true → waits (.tinv f) ∧ (sFull w f.a.toNat = true → waits (.tdef f)))
    ∧ (sFull w f.a.toNat = true → (installPending w (64 + f.aux.toNat % 8) = true → waits (.ctload f))
        ∧ (installPending w (72 + f.aux.toNat % 4) = true → waits (.palld f)))
    ∧ (installPending w f.t.toNat = false →
        exec (.tinv f) s = .next (modCtx (setWave s wid (finishControl (.tinv f) w)) c
          (fun y => { y with tensors := Tbl.del y.tensors f.t.toNat })))
    ∧ (sFull w f.a.toNat = true →
      (MemoryNow w (.control wid) →
        (∀ bs, installPending w f.t.toNat = false → ImageAt s wid w a.toNat 64 64 bs →
          (∀ t, checkDescriptor bs f.t.toNat a.toNat = .ok t → puts (.tdef f) (fun y => { y with tensors := Tbl.put y.tensors f.t.toNat t }))
          ∧ (∀ d, checkDescriptor bs f.t.toNat a.toNat = .error d → raises (.tdef f) 0x11 d))
        ∧ (∀ bs, installPending w (64 + f.aux.toNat % 8) = false → ImageAt s wid w a.toNat 32 32 bs →
          (codeImageBad bs = none → puts (.ctload f) (fun y =>
            { y with codeTables := Tbl.put y.codeTables (f.aux.toNat % 8) (codeTableOf bs) }))
          ∧ (∀ k, codeImageBad bs = some k → raises (.ctload f) 0x16 k))
        ∧ (∀ bs, installPending w (72 + f.aux.toNat % 4) = false → ImageAt s wid w a.toNat 32 32 bs →
          let version (y : Context) : Nat := (match Tbl.find? y.palettes (f.aux.toNat % 4) with | some p => p.version | none => 0) + 1
          let image (y : Context) : Palette := { entries := halves bs 16, count := f.opts.toNat % 32, version := version y }
          puts (.palld f) (fun y => { y with palettes := Tbl.put y.palettes (f.aux.toNat % 4) (image y) })))
      ∧ (2 ^ 45 ≤ a.toNat → raises (.gangset f) 0x04 (detail04 w (.gangset f) 18 true a.toNat))
      ∧ (a.toNat < 2 ^ 45 →
        (gangOk wid a.toNat = true → exec (.gangset f) s = .next (setWave s wid (finishControl (.gangset f)
          { w with g := Cells.set 0 w.g (f.aux.toNat % 4) a,
                   gangUids := Tbl.put w.gangUids (f.aux.toNat % 4) (gangHolders s wid a.toNat) })))
        ∧ (gangOk wid a.toNat = false → raises (.gangset f) 0x10 (gangDetail (f.aux.toNat % 4) 0 0 a.toNat))))

/-! ## The control stream: engine operations -/

/-- R203, R213 to R226: a matrix operation whose sources are full and whose operands pass their checks enters the wave's matrix queue with
all it names captured, and the control stream moves on: the operation's effect comes when the matrix unit executes it. MTAB leaves its
slot's record pending. Each form reads the sources it has: MCLR `c`, TBDROP none, MTAB and MXPQ `a` and `b`, the others all three. -/
def Obligations.MatrixIssues : Prop :=
  ∀ (s : State) (wid : Nat) (w : Wave) (f : CE) (team : Team), AtControl s wid w → EngineReady w true →
    getTeam s w.team = some team →
    let ab : Prop := sFull w f.a.toNat = true ∧ sFull w f.b.toNat = true
    let full : Prop := ab ∧ sFull w f.c.toNat = true
    let a := (sVal w f.a.toNat).toNat
    let b := (sVal w f.b.toNat).toNat
    let tile := optTile f + (sVal w f.c.toNat).toNat
    let slot := optSlot f
    let tid := f.t.toNat
    let part := f.aux.toNat % 4
    let enters (i : Instr) (op : EngineOp) : Prop := exec i s = .next (issued s wid w i op)
    (sFull w f.c.toNat = true → tile + (f.aux.toNat + 1) ≤ team.accCount → enters (.mclr f) (.mclr tile (f.aux.toNat + 1)))
    ∧ (f.aux.toNat % 2 = 1 → enters (.tbdrop f) (.tbdrop true 0))
    ∧ (f.aux.toNat % 2 = 0 → slot < team.slotCount → enters (.tbdrop f) (.tbdrop false slot))
    ∧ (∀ t, TensorReady s w tid t → TileInside t a b →
        let prod := decide (f.aux.toNat % 2 = 1)
        let pal := f.aux.toNat / 2 % 4
        (ab → slot < team.slotCount → mtabSuits prod t = true → (prod = true → installPending w (72 + pal) = false) →
          enters (.mtab f) (.mtab prod tid t a b pal (paletteOf s w pal) slot))
        ∧ (let round := f.opts.toNat / 512 % 8
           let sat := decide (f.opts.toNat / 2 ^ 12 % 2 = 1)
           let iacc := decide (f.opts.toNat / 2 ^ 13 % 2 = 1)
           full → tile < team.accCount → (t.kind = 0 ∨ t.kind = 1) → t.blockLen = 0 → t.trows = 16 → t.tcols = 16 → 4 ≤ t.fmt → t.fmt ≤ 0x0B →
           (iacc = true → intFmt t.fmt = true → round = 0 ∨ round = 7) →
            enters (.mout f) (.mout tid t a b tile (if round = 7 then w.rmode.toNat else round) sat iacc))
        ∧ (∀ r pair, full → tile < team.accCount → slot < team.slotCount → Tbl.find? team.slots slot = some r →
            (t.kind = 0 ∨ t.kind = 1 ∨ denupKind t.kind = true) → tileN t = 16 → pairOf r t t.palette = some pair →
            (part + 1) * tileK t ≤ tableExtent r → tileK t % groupLen pair = 0 →
            let op (gang : Option (Nat × Nat × List Nat × Nat)) : EngineOp :=
              .mlut tile slot tid t (codeTableAt s w t.codeTable) (paletteOf s w t.palette) a b part gang
            enters (.mlut f) (op none)
            ∧ (let g := f.aux.toNat / 4
               let word := (Cells.get 0 w.g g).toNat
               let us := (Tbl.find? w.gangUids g).getD []
               let k := Cells.get 0 w.gangCount (gangKey us)
               gangCountOf word ≠ 0 →
               exec (.mlutg f) s = .next (issued s wid { w with gangCount := Cells.set 0 w.gangCount (gangKey us) (k + 1) } (.mlutg f)
                 (op (some (g, word, us, k)))))))
    ∧ (∀ src d, ab → TensorReady s w (f.opts.toNat % 64) src → TensorReady s w tid d → TileInside src a b → TileInside d b a →
        codedFmt src.fmt = true → (src.kind = 0 ∨ src.kind = 1 ∨ denupKind src.kind = true) → src.blockLen ≠ 0 →
        (d.kind = 0 ∨ d.kind = 1) → d.fmt = src.fmt → (src.fmt = 3 → d.palette = src.palette) → d.trows = src.tcols → d.tcols = src.trows →
        d.kaxis = 1 - src.kaxis → d.blockLen ≠ 0 → tileK d % max 1 d.blockLen = 0 →
        enters (.mxpq f) (.mxpq tid d (f.opts.toNat % 64) src (codeTableAt s w src.codeTable) (paletteOf s w src.palette) a b))

/-- R214 to R226, R216: the issue checks of the matrix operations, in the order of their rules: a tile number at or beyond the team's tiles, a
slot at or beyond its slots and coordinates outside a tensor raise 0x12; a slot with no record raises 0x0E, a tensor that is not
installed 0x11 and an empty gang 0x10. A full matrix queue waits. -/
def Obligations.MatrixIssueTraps : Prop :=
  ∀ (s : State) (wid : Nat) (w : Wave) (f : CE) (team : Team), AtControl s wid w → w.laneQueue = [] →
    getTeam s w.team = some team →
    let ab : Prop := sFull w f.a.toNat = true ∧ sFull w f.b.toNat = true
    let full : Prop := ab ∧ sFull w f.c.toNat = true
    let a := (sVal w f.a.toNat).toNat
    let b := (sVal w f.b.toNat).toNat
    let tile := optTile f + (sVal w f.c.toNat).toNat
    let slot := optSlot f
    let tid := f.t.toNat
    let raises (i : Instr) (code detail : Nat) : Prop := exec i s = .next (raiseFault s (.control wid) code detail none none)
    let lut : List Instr := [.mlut f, .mlutg f]
    (full → team.accCount ≤ tile → ∀ i ∈ Instr.mout f :: lut, raises i 0x12 (tile % 2 ^ 64))
    ∧ (sFull w f.c.toNat = true → team.accCount < tile + (f.aux.toNat + 1) → raises (.mclr f) 0x12 (max tile team.accCount % 2 ^ 64))
    ∧ (full → tile < team.accCount → team.slotCount ≤ slot → ∀ i ∈ lut, raises i 0x12 slot)
    ∧ (team.slotCount ≤ slot → (ab → raises (.mtab f) 0x12 slot) ∧ (f.aux.toNat % 2 = 0 → raises (.tbdrop f) 0x12 slot))
    ∧ (full → tile < team.accCount → slot < team.slotCount → Tbl.find? team.slots slot = none → ∀ i ∈ lut, raises i 0x0E (1 + slot * 2 ^ 8))
    ∧ (installPending w tid = false → tensorOf s w tid = none →
        (ab → slot < team.slotCount → raises (.mtab f) 0x11 (tensorDetail tid 0))
        ∧ (full → tile < team.accCount → raises (.mout f) 0x11 (tensorDetail tid 0)))
    ∧ (∀ t, ab → TensorReady s w tid t → slot < team.slotCount → mtabSuits false t = true → f.aux.toNat % 2 = 0 →
        (tileRowCount t ≤ a → raises (.mtab f) 0x12 (rangeDetail a tid))
        ∧ (a < tileRowCount t → tileColCount t ≤ b → raises (.mtab f) 0x12 (rangeDetail b tid)))
    ∧ (∀ t r pair, full → TensorReady s w tid t → TileInside t a b → tile < team.accCount → slot < team.slotCount →
        Tbl.find? team.slots slot = some r → (t.kind = 0 ∨ t.kind = 1 ∨ denupKind t.kind = true) → tileN t = 16 →
        pairOf r t t.palette = some pair → (f.aux.toNat % 4 + 1) * tileK t ≤ tableExtent r → tileK t % groupLen pair = 0 →
        let word := (Cells.get 0 w.g (f.aux.toNat / 4)).toNat
        gangCountOf word = 0 → raises (.mlutg f) 0x10 (gangDetail (f.aux.toNat / 4) 0 0 word))
    ∧ (sFull w f.c.toNat = true → queueFree w true = false → tile + (f.aux.toNat + 1) ≤ team.accCount → exec (.mclr f) s = .next { s with stalled := true })

/-- R228 to R230: MBATCH closes every operation that belongs to no batch into batch n, waiting while n is pending; MWAIT completes when
batch n is not pending, and acquires what its operations wrote, and otherwise waits at the instruction; MTEST writes whether it is complete. A fault that an
operation found is delivered by MWAIT and MTEST: its record names the operation's PC and its unit, as a deferred fault. -/
def Obligations.Batches : Prop :=
  ∀ (s : State) (wid : Nat) (w : Wave) (f : CE), AtControl s wid w →
    let n := f.aux.toNat
    let tiles : List (Option Nat × Nat) := w.doneTiles.filter (fun d => match d.1 with | some m => batchPending w m | none => true)
    let close (e : EngineItem) : EngineItem := if e.batch = none then { e with batch := some n } else e
    let hit (h : EngineHit) : EngineHit := if h.batch = none ∧ h.op ≠ 0 then { h with batch := some n } else h
    (batchPending w n = false → exec (.mbatch f) s = .next (setWave s wid (finishControl (.mbatch f)
        { w with engine := w.engine.map close, engineHits := w.engineHits.map hit,
                 doneTiles := tiles.map (fun d => (some (d.1.getD n), d.2)) })))
    ∧ (batchPending w n = true → exec (.mbatch f) s = .next { s with stalled := true })
    ∧ (w.engineFault = none →
        (batchPending w n = false → exec (.mwait f) s = .next (acquireAt (setWave s wid (finishControl (.mwait f) w)) wid 1))
        ∧ (batchPending w n = true → exec (.mwait f) s = .next (setWave s wid { w with ctl := .mwait n }))
        ∧ (sFull w f.d.toNat = true → exec (.mtest f) s = .next (setWave s wid (finishControl (.mtest f)
            (writeS f.d.toNat (if batchPending w n then 0 else 1) w)))))
    ∧ ∀ i pc unit, w.engineFault = some (i, pc, unit) →
        let t := modWave (takeFault s (.control wid) { pc := pc, block := 0, active := 0, path := 0, cont := false, stream := false } unit
          i.code i.detail none true) wid (fun u => { u with engineFault := none, ctl := .running })
        exec (.mwait f) s = .next t ∧ exec (.mtest f) s = .next t

/-- R54, R235, R236, R241, R242, R244, R245, R288: a copy or a SEND whose sources are full and whose operands pass their checks enters the wave's copy queue with all it names
captured; its bytes move when the copy engine executes it. -/
def Obligations.CopyIssues : Prop :=
  ∀ (s : State) (wid : Nat) (w : Wave) (f : CE), AtControl s wid w → EngineReady w false →
    sFull w f.a.toNat = true → sFull w f.b.toNat = true → sFull w f.c.toNat = true →
    let a := (sVal w f.a.toNat).toNat
    let b := (sVal w f.b.toNat).toNat
    let c := (sVal w f.c.toNat).toNat
    let enters (i : Instr) (op : EngineOp) : Prop := exec i s = .next (issued s wid w i op)
    let window (addr n : Nat) : Prop := addr % 2 ^ 56 / 2 ^ 33 = 0 ∧ winRegion addr ≠ 3 ∧ addr % 2 ^ 22 + n ≤ 2 ^ 22
      ∧ (winRegion addr = 0 → addr % 2 ^ 17 + n ≤ 98304 ∧ addr % 2 ^ 17 % 384 = 0 ∧ n % 384 = 0)
    (∀ src d, TensorReady s w (f.opts.toNat % 64) src → TensorReady s w f.t.toNat d → TileInside src a b →
        TileInside d (c % 2 ^ 32) (c / 2 ^ 32) → src.kind < 2 → src.blockLen = 0 → (d.kind < 2 ∨ d.kind = 4) → d.blockLen = 0 →
        d.fmt = src.fmt → d.trows = src.trows → d.tcols = src.tcols →
        (d.kind = 4 → ∀ r ∈ winRuns d (c % 2 ^ 32) (c / 2 ^ 32), window r.1 r.2) →
        enters (.cpt f) (.cpt f.t.toNat d (f.opts.toNat % 64) src a b (c % 2 ^ 32) (c / 2 ^ 32)))
    ∧ (∀ t, TensorReady s w f.t.toNat t → t.kind < 2 → t.blockLen = 0 → t.cols * fmtBits t.fmt % 32 = 0 → apertureOf a < 2 → a % 4 = 0 →
        c % 4 = 0 → c + b * rowBytes t ≤ spadSizeOf s w → b ≤ 65536 →
        enters (.cpg f) (.cpg f.t.toNat t a b c) ∧ enters (.cps f) (.cps f.t.toNat t a b c))
    ∧ (let wb := decide (f.opts.toNat % 2 = 1)
       inGlobalOrSpad s w a (c % 2 ^ 32) = true → (wb = true ∨ apertureOf b = 3 ∨ inGlobalOrSpad s w b (c % 2 ^ 32) = true) →
       a % 4 = 0 → b % 4 = 0 → c % 4 = 0 → c < 2 ^ 32 → (wb = true → b + c ≤ weightBytes) →
       (wb = false → apertureOf b = 3 → c ≠ 0 → window b c) → enters (.cpb f) (.cpb a b c wb (f.aux.toNat % 4)))
    ∧ (inGlobalOrSpad s w a (32 * (f.opts.toNat + 1)) = true → apertureOf c = 0 → a % 32 = 0 → b % 32 = 0 → c % 4 = 0 →
        enters (.cpmc f) (.cpmc a b c (f.opts.toNat + 1) (f.aux.toNat % 4)))
    ∧ (∀ n x cap, InContext s w n x → Tbl.find? x.caps (f.opts.toNat % 256) = some cap → cap.kind = 1 → cap.perms % 2 = 1 → b ≤ 4096 →
        b % 32 = 0 → inGlobalOrSpad s w a b = true → a % 32 = 0 → b ≤ cap.allowance →
        enters (.send f) (.send (f.opts.toNat % 256) cap a b (c % 2 ^ 16)))

/-- R243 to R247: CHPOST posts a receive buffer at the end of its ring and writes 1, or writes 0 when the ring's depth is reached; CHPOLL
takes the oldest buffer once a message has been placed in it and writes its descriptor, and otherwise writes 0. A capability that is
absent or does not allow the instruction raises 0x0C. -/
def Obligations.Channels : Prop :=
  ∀ (s : State) (wid : Nat) (w : Wave) (f : CE) (c : Nat) (x : Context), AtControl s wid w → InContext s w c x →
    sFull w f.d.toNat = true →
    let ab : Prop := sFull w f.a.toNat = true ∧ sFull w f.b.toNat = true
    let k := f.opts.toNat % 256
    let a := (sVal w f.a.toNat).toNat
    let n := (sVal w f.b.toNat).toNat
    let posted := (Tbl.find? x.posted k).getD []
    let past (i : Instr) (v : Dword) (t : State) : State := setWave t wid (finishControl i (writeS f.d.toNat v w))
    let ring (ps : List Posted) : State := modCtx s c (fun y => { y with posted := Tbl.put y.posted k ps })
    let quietWave := quiet w = true ∧ releaseReady s wid w w.seq 5 = true
    (∀ cap, Tbl.find? x.caps k = some cap → (cap.kind = 2 ∨ cap.kind = 3) →
      (ab → cap.perms / 2 % 2 = 1 → quietWave → 32 ≤ n → n ≤ 4096 → n % 32 = 0 → apertureOf a = 0 → a % 32 = 0 →
        (posted.length < cap.depth →
          exec (.chpost f) s = .next (past (.chpost f) 1 (ring (posted ++ [{ addr := a, len := n, placed := none }]))))
        ∧ (cap.depth ≤ posted.length → exec (.chpost f) s = .next (past (.chpost f) 0 s)))
      ∧ (cap.perms / 2 ^ 2 % 2 = 1 → acquired w (syncsBefore w (.control wid)) = true →
        (∀ p r src tag len trunc, posted = p :: r → p.placed = some (src, tag, len, trunc) →
          exec (.chpoll f) s = .next (acquireAt (past (.chpoll f) (BitVec.ofNat 64 (2 ^ 63 + (if trunc then 2 ^ 62 else 0)
            + src % 2 ^ 16 * 2 ^ 40 + tag % 2 ^ 16 * 2 ^ 24 + len % 2 ^ 13)) (ring r)) wid 5))
        ∧ ((∀ p r, posted = p :: r → p.placed = none) → exec (.chpoll f) s = .next (past (.chpoll f) 0 s))))
    ∧ (∀ cap, Tbl.find? x.caps k = some cap →
        (ab → quiet w = true → (cap.kind ≠ 2 ∧ cap.kind ≠ 3) ∨ cap.perms / 2 % 2 ≠ 1 →
          exec (.chpost f) s = .next (raiseFault s (.control wid) 0x0C (k + 2 ^ 8) none none))
        ∧ (acquired w (syncsBefore w (.control wid)) = true → (cap.kind ≠ 2 ∧ cap.kind ≠ 3) ∨ cap.perms / 2 ^ 2 % 2 ≠ 1 →
          exec (.chpoll f) s = .next (raiseFault s (.control wid) 0x0C (k + 2 ^ 8) none none)))
    ∧ (Tbl.find? x.caps k = none →
        (ab → quiet w = true → exec (.chpost f) s = .next (raiseFault s (.control wid) 0x0C k none none))
        ∧ (acquired w (syncsBefore w (.control wid)) = true → exec (.chpoll f) s = .next (raiseFault s (.control wid) 0x0C k none none)))

/-! ## The control stream: fences, barriers, events and the end of a wave -/

/-- R235, R248 to R250, R314: FENCE, once no block and no logged access remains, orders the accesses of the blocks that have ended before what
the control stream does next; as a release it makes later stores wait for earlier accesses; as an acquire it waits for the wave's loads and
drops the copies of the core; as both it waits until every store is performed at its scope; promoted, it waits for the writes that the
releases seen by those loads cover. FENCEO completes when loads have their values and every store and atomic is performed where the engines
read; FENCEA completes when no copy or channel operation is unfinished and nothing of its scopes is unacknowledged, and reports and clears
ASYNCERR; until then the wave waits at it. -/
def Obligations.Fences : Prop :=
  ∀ (s : State) (wid : Nat) (w : Wave) (f : CI), AtControl s wid w →
    let scope := f.imm.toNat % 8
    let order := f.imm.toNat / 8 % 4
    let v := joinBlocks w
    let released : Wave := { v with fences := Cells.set 0 v.fences scope v.seq }
    let next (i : Instr) (u : Wave) : State := setWave s wid (finishControl i u)
    let acquired (i : Instr) (u : Wave) : State := acquireAt (setWave s wid { finishControl i u with readRels := [] }) wid scope
    let waits (i : Instr) : Prop := exec i s = .next { s with stalled := true }
    let seen : Prop := f.imm.toNat / 32 % 2 = 1 → promoted s w scope = true
    (w.laneQueue = [] → w.log = [] →
      (seen → (order = 0 → exec (.fence f) s = .next (next (.fence f) v))
        ∧ (order = 1 → w.loads = [] → exec (.fence f) s = .next (acquired (.fence f) v))
        ∧ (order = 2 → exec (.fence f) s = .next (next (.fence f) released))
        ∧ (order = 3 → w.loads = [] → (∀ b ∈ w.stores, scope ≤ b.perf) → exec (.fence f) s = .next (acquired (.fence f) released)))
      ∧ (w.loads ≠ [] → (order = 1 ∨ order = 3 → waits (.fence f)) ∧ waits (.fenceo f))
      ∧ (order = 3 → (∃ b ∈ w.stores, b.perf < scope) → waits (.fence f))
      ∧ (f.imm.toNat / 32 % 2 = 1 → promoted s w scope = false → waits (.fence f))
      ∧ (w.loads = [] → (∀ b ∈ w.stores, 4 ≤ b.perf) → exec (.fenceo f) s = .next (next (.fenceo f) (joinBlocks { w with dirty := [] })))
      ∧ ((∃ b ∈ w.stores, b.perf < 4) → waits (.fenceo f)))
    ∧ (w.laneQueue ≠ [] ∨ w.log ≠ [] → waits (.fence f) ∧ waits (.fenceo f))
    ∧ (sFull w f.d.toNat = true →
        let done : Prop := w.laneQueue = [] ∧ w.log = [] ∧ (∀ e ∈ w.engine, isMatrix e.op = true)
          ∧ ∀ c, 1 ≤ c → c ≤ scope → c ≤ 5 → unack s w c = 0
        let clear : Wave := joinBlocks { w with asyncerr := 0, ctl := .running }
        (done → (f.d ≠ 63 → exec (.fencea f) s = .next (next (.fencea f) (writeS f.d.toNat (w.asyncerr.zeroExtend 64) clear)))
          ∧ (f.d = 63 → w.asyncerr.toNat % 256 = 0 → exec (.fencea f) s = .next (next (.fencea f) clear))
          ∧ (f.d = 63 → w.asyncerr.toNat % 256 ≠ 0 → exec (.fencea f) s
              = .next (raiseFault (setWave s wid clear) (.control wid) (w.asyncerr.toNat % 256) w.asyncerr.toNat none none)))
        ∧ (¬done → exec (.fencea f) s = .next (setWave s wid { w with ctl := .fencea scope f.d.toNat })))

/-- R32, R251, R252: a wave that reaches BAR or STEP with a SATF bit that SATARM arms raises 0x13; otherwise it stands at the barrier, and the
waves that stand there and whose arrivals every participant has matched leave, each acquiring at the level's scope and counting the
arrival. A participant has matched an arrival when it has left as many barriers of the level, or stands at the next with its waits over
and its earlier accesses performed at the level's scope; a saved one keeps its arrivals. A level above 1 outside a co-resident launch, and
STEP outside a superstep launch, raise 0x04; a STEP delivers a fault of an engine operation that awaits it.

R106, R253: WAITEV reads the event at src(a): at or above the target src(b) it acquires, writes the value and moves on; below it the wave
waits at the instruction. -/
def Obligations.BarriersAndEventWaits : Prop :=
  (∀ (s : State) (wid : Nat) (w : Wave) (f : CI) (lid : Nat) (l : Launch), AtControl s wid w → launchOf s w = some (lid, l) →
      let level := f.imm.toNat % 8
      let armed := (w.satf &&& w.satarm).toNat
      let at_ (n : Nat) : State := setWave s wid { w with ctl := .barrier n }
      let here (n : Nat) : List (Nat × Wave) := barWaves (at_ n) lid n (barUnit n wid w)
      let away (n : Nat) : List Wave := savedWaves (at_ n) lid n (barUnit n wid w)
      let all (n : Nat) : Nat := commonArrivals (at_ n) lid n (barUnit n wid w)
      let left (n : Nat) (u : Wave) : Nat := Cells.get 0 u.barArrivals n
      let leaves (n : Nat) : List (Nat × Wave) := (here n).filter (fun p => p.2.ctl == .barrier n && decide (left n p.2 < all n))
      let arrives (i : Instr) (n : Nat) : Prop :=
        (armed ≠ 0 → exec i s = .next (raiseFault s (.control wid) 0x13 armed none none))
        ∧ (armed = 0 → exec i s = .next (leaveAll n (leaves n) (at_ n)))
      let raises (i : Instr) : Prop :=
        exec i s = .next (raiseFault s (.control wid) 0x04 (detail04 w i 25 false 0) none none)
      (level = 1 ∨ flagCoresident l = true → arrives (.bar f) level)
      ∧ (level ≠ 1 → flagCoresident l = false → raises (.bar f))
      ∧ (flagCoresident l = true → flagSuperstep l = true → (w.engineFault = none → arrives (.step f) 0)
          ∧ (∀ i pc unit, w.engineFault = some (i, pc, unit) → armed = 0 → exec (.step f) s = .next (modWave (takeFault s (.control wid)
              { pc := pc, block := 0, active := 0, path := 0, cont := false, stream := false } unit i.code i.detail none true) wid
              (fun u => { u with engineFault := none, ctl := .running }))))
      ∧ (flagCoresident l = false ∨ flagSuperstep l = false → raises (.step f))
      ∧ ∀ n, (∀ p ∈ here n, all n ≤ left n p.2
            ∨ (all n = left n p.2 + 1 ∧ p.2.ctl = .barrier n ∧ quiet p.2 = true ∧ releaseReady (at_ n) p.1 p.2 p.2.seq (levelScope n) = true
              ∧ (n = 0 → (∀ b < 16, batchPending p.2 b = false) ∧ p.2.engineFault = none ∧ allAcked (at_ n) p.2 5 = true)))
          ∧ ∀ u ∈ away n, all n ≤ left n u ∨ (all n = left n u + 1 ∧ u.ctl = .barrier n ∧ quiet u = true))
  ∧
  (∀ (s : State) (wid : Nat) (w : Wave) (f : CE) (bs : List Byte), AtControl s wid w → MemoryNow w (.control wid) →
      sFull w f.a.toNat = true → sFull w f.b.toNat = true → sFull w f.d.toNat = true →
      let a := (sVal w f.a.toNat).toNat
      let target := (sVal w f.b.toNat).toNat
      let scope := f.opts.toNat % 8
      ImageAt s wid w a 8 8 bs →
        (target ≤ natOfBytes bs → exec (.waitev f) s = .next (modWave (acquireAt s wid scope) wid (fun u =>
            finishControl (.waitev f) (writeS f.d.toNat (BitVec.ofNat 64 (natOfBytes bs)) { u with ctl := .running }))))
        ∧ (natOfBytes bs < target → exec (.waitev f) s = .next (setWave s wid { w with ctl := .waitev a target scope f.d.toNat })))

/-- R255 to R259, R334: SIG resets a signature that equals its literal and raises 0x14 otherwise, resetting it too; HBEAT restarts the window of a persistent
launch; YIELD marks a boundary; NOP moves on; TRAP and BRK move on and take fault 0x1A or 0x1B for the instruction they stand at, which
holds the control stream; EXIT ends the wave once nothing of it is unfinished, and raises a recorded asynchronous error. -/
def Obligations.SystemInstructions : Prop :=
  ∀ (s : State) (wid : Nat) (w : Wave) (k : CL) (c : C3) (f : CI) (lid : Nat) (l : Launch), AtControl s wid w →
    launchOf s w = some (lid, l) →
    let past (i : Instr) (u : Wave) : State := setWave s wid (finishControl i u)
    let trap (i : Instr) (code detail : Nat) : Prop := exec i s = .next (takeFault (past i w) (.control wid)
      { pc := w.pc.toNat, block := 0, active := 0, path := 0, cont := false, stream := false } (coreUnit 0 (wid / 32) 0) code detail none false)
    (w.sigc = k.lit → exec (.sig k) s
        = .next (setWave s wid { w with pc := w.pc + BitVec.ofNat 64 (byteLength (.sig k)), sigc := 0xFFFFFFFF#32 }))
    ∧ (w.sigc ≠ k.lit → exec (.sig k) s = .next (raiseFault (setWave s wid { w with sigc := 0xFFFFFFFF#32 }) (.control wid) 0x14
        (k.lit.toNat + w.sigc.toNat * 2 ^ 32) none none))
    ∧ (flagPersistent l = true → exec (.hbeat c) s
        = .next (modLaunch (past (.hbeat c) w) lid (fun l => { l with hbLeft := l.e.hbWindow })))
    ∧ (flagPersistent l = false → exec (.hbeat c) s = .next (past (.hbeat c) w))
    ∧ exec (.yield c) s = .next (past (.yield c) { w with yielded := true })
    ∧ exec (.nop c) s = .next (past (.nop c) w)
    ∧ (sFull w f.a.toNat = true → trap (.trap f) 0x1A (f.imm.toNat + (sVal w f.a.toNat).toNat * 2 ^ 64))
    ∧ trap (.brk f) 0x1B f.imm.toNat
    ∧ (w.laneQueue = [] → w.log = [] → w.engineFault = none → w.engine = [] → allAcked s w 5 = true →
        (w.asyncerr.toNat % 256 = 0 → exec (.exit c) s
          = .next (closeTiles (past (.exit c) { w with ctl := .exited, returnQueue := [] }) w.team))
        ∧ (w.asyncerr.toNat % 256 ≠ 0 → exec (.exit c) s
          = .next (raiseFault s (.control wid) (w.asyncerr.toNat % 256) w.asyncerr.toNat none none)))

/-- R85 to R87, R243, R254, R260, R358: DTLOAD and CAPSET act on the context that src(b) names, raising 0x12 when there is none: address 0 restores
map 1 or removes the capability, an image that passes its checks takes its place, and one that fails raises 0x04. QPUT copies an entry
to the tail of a queue of its context that is fed by the device and live, writing 1, or writes 0 when the queue is full; any other queue
raises 0x0B.

R260, R433 to R435, R446: SBLOAD and SBFLOW write a status to `d`: 1 for a selector of no box, the reason and the word of an image that
fails, 10 while bindings exist, 11 and the byte of a record that fails, 12 to 16 for a bind that its box or its job does not allow, 17 for a
flow that is not bound, 18 for a copy that a page denies or that meets poison; otherwise SBLOAD loads the kernel of an idle box, and SBFLOW
binds its flow with its records kept, zeroed or copied in, or unbinds it once its packets have ended, its records copied out if asked, and
the status is 0. -/
def Obligations.PrivilegedInstallsAndBoxLoads : Prop :=
  (∀ (s : State) (wid : Nat) (w : Wave) (f : CE), AtControl s wid w → MemoryNow w (.control wid) → sFull w f.a.toNat = true →
      let a := sVal w f.a.toNat
      let n := (sVal w f.b.toNat).toNat
      let k := f.opts.toNat % 256
      let q := f.opts.toNat % 64
      let puts (i : Instr) (g : Context → Context) : Prop := exec i s = .next (modWave (modCtx s n g) wid (finishControl i))
      let raises (i : Instr) (code detail : Nat) : Prop := exec i s = .next (raiseFault s (.control wid) code detail none none)
      (sFull w f.b.toNat = true →
        (getCtx s n = none → ∀ i ∈ [Instr.dtload f, .capset f], raises i 0x12 (rangeDetail n 0))
        ∧ (∀ x, getCtx s n = some x →
          (a = 0 → puts (.dtload f) (fun y => { y with decode := .map1 })
            ∧ puts (.capset f) (fun y => { y with caps := Tbl.del y.caps k, posted := Tbl.del y.posted k }))
          ∧ (∀ bs, a ≠ 0 → ImageAt s wid w a.toNat 64 2048 bs →
              (decodeImageBad ((halves bs 1024).map (fun e => e.toNat)) = none → puts (.dtload f) (fun y => { y with decode := .image (halves bs 1024) }))
              ∧ ∀ b, decodeImageBad ((halves bs 1024).map (fun e => e.toNat)) = some b → raises (.dtload f) 0x04 (detail04 w (.dtload f) 18 true b))
          ∧ (∀ bs, a ≠ 0 → ImageAt s wid w a.toNat 32 32 bs →
              (capImageBad bs = none → puts (.capset f) (fun y => { y with
                caps := if (capOfImage bs).kind = 0 then Tbl.del y.caps k else Tbl.put y.caps k (capOfImage bs), posted := Tbl.del y.posted k }))
              ∧ ∀ b, capImageBad bs = some b → raises (.capset f) 0x04 (detail04 w (.capset f) 18 true b))))
      ∧ (∀ c x, sFull w f.d.toNat = true → quiet w = true → releaseReady s wid w w.seq 4 = true → apertureOf a.toNat = 0 → a.toNat % 128 = 0 →
          InContext s w c x →
          (queueLive s q = false ∨ (getQueue s q).deviceFed = false ∨ (getQueue s q).ctx ≠ c → raises (.qput f) 0x0B q)
          ∧ (∀ bs, ImageAt s wid w a.toNat 128 128 bs → queueLive s q = true → (getQueue s q).deviceFed = true → (getQueue s q).ctx = c →
            (enqueued (getQueue s q) + 1 = queueSize (getQueue s q) → exec (.qput f) s
              = .next (modWave s wid (fun u => finishControl (.qput f) (writeS f.d.toNat 0 u))))
            ∧ (enqueued (getQueue s q) + 1 ≠ queueSize (getQueue s q) → exec (.qput f) s
              = .next (modWave (modQueue (writePhys s ((getQueue s q).base + 128 * (getQueue s q).tail) bs) q
                  (fun y => { y with tail := (y.tail + 1) % queueSize y })) wid
                  (fun u => finishControl (.qput f) (writeS f.d.toNat 1 u)))))))
  ∧
  (∀ (s : State) (wid : Nat) (w : Wave) (f : CE) (c : Nat) (y : Context), AtControl s wid w → InContext s w c y →
      MemoryNow w (.control wid) → sFull w f.a.toNat = true → sFull w f.b.toNat = true → sFull w f.d.toNat = true →
      let a := (sVal w f.a.toNat).toNat
      let sel := (sVal w f.b.toNat).toNat
      let x := getBox s sel
      let gives (i : Instr) (t : State) (v : Nat) : Prop :=
        exec i s = .next (modWave t wid (fun u => finishControl i (writeS f.d.toNat (BitVec.ofNat 64 v) u)))
      (128 ≤ sel → gives (.sbload f) s 1 ∧ gives (.sbflow f) s 1)
      ∧ (sel < 128 → apertureOf a = 0 →
          (∀ h bs, ImageAt s wid w a 64 4 h →
            let n := natOfBytes h % 256
            let words := if 1 ≤ n ∧ n ≤ 64 then n + 1 else 1
            ImageAt s wid w a 64 (4 * words) bs →
            let ws := lineWords bs words 0
            (∀ r i, imageFailure ws = some (r, i) → gives (.sbload f) s (r + i % 256 * 2 ^ 8))
            ∧ (imageFailure ws = none → x.bindings ≠ [] → gives (.sbload f) s 10)
            ∧ (imageFailure ws = none → x.bindings = [] → x.run = none → x.offered = [] →
                gives (.sbload f) (setBox s sel { x with kernel := ws.map (BitVec.ofNat 32) }) 0))
          ∧ (∀ bs, ImageAt s wid w a 64 64 bs →
            let b := bindingOf bs
            let op := (bs.getD 14 0).toNat
            let init := (bs.getD 12 0).toNat
            let mem := natOfBytes ((bs.drop 16).take 8)
            let size := b.partCount * 256
            let bound (recs : Cells Byte) : State := setBox s sel { x with recs := recs, bindings := x.bindings ++ [b] }
            let copied (bytes : List Byte) : Cells Byte := writeRecs x.recs (b.partBase * 256) bytes
            (∀ k, recordBad bs = some k → gives (.sbflow f) s (11 + k % 256 * 2 ^ 8))
            ∧ (recordBad bs = none → op = 0 →
                if x.kernel = [] then gives (.sbflow f) s 12
                else if dieConflict s sel b then gives (.sbflow f) s 13
                else if partConflict x b then gives (.sbflow f) s 14
                else if eventOk s b = false then gives (.sbflow f) s 15
                else if 8 ≤ x.bindings.length then gives (.sbflow f) s 16
                else (init = 0 → gives (.sbflow f) (bound x.recs) 0)
                  ∧ (init = 1 → gives (.sbflow f) (bound (copied (List.replicate size 0))) 0)
                  ∧ (init = 2 → (∀ bytes, readRange s w wid y mem size = .ok bytes → gives (.sbflow f) (bound (copied bytes)) 0)
                    ∧ (∀ p, readRange s w wid y mem size = .error (.denied p) → gives (.sbflow f) s 18)
                    ∧ (∀ p q, readRange s w wid y mem size = .error (.poisoned p q) → gives (.sbflow f) s 18)))
            ∧ (recordBad bs = none → op ≠ 0 →
                let same (c : Binding) : Bool := c.job == b.job && c.flowLo == b.flowLo
                (List.find? same x.bindings = none → gives (.sbflow f) s 17)
                ∧ (∀ c, List.find? same x.bindings = some c → x.run = none → x.offered = [] →
                    let freed := setBox s sel { x with bindings := x.bindings.erase c }
                    let out := (List.range size).map (fun i => Cells.get 0 x.recs (b.partBase * 256 + i))
                    (op = 1 → gives (.sbflow f) freed 0)
                    ∧ (op = 2 → (∀ t, copyLines wid w y (size / 128) freed mem out = .ok t →
                          gives (.sbflow f) (modWave t wid (markWrite mem size)) 0)
                        ∧ (∀ p, copyLines wid w y (size / 128) freed mem out = .error (.denied p) → gives (.sbflow f) s 18)))))))

/-! ## Signal boxes -/

/-- R437, R438, R440: a QR word computes its result in one f register (s = 1) or in each of the 16 lanes of an e register (s = 0, with b an
f register where bs = 1), and the kernel goes on to the next word; ADD, SUB and MUL do so with ck = 0 (BoxOverflowTraps says what they do with
ck = 1). Integers wrap modulo 2³²; type 2 is FP32, rounded to nearest even. CMP gives all ones or zero: its condition compares signed,
unsigned or FP32 values, and with a NaN only NE holds.

R440, R447: with ck = 1, ADD, SUB and MUL trap with reason 4 and write nothing when in the f register, or in some lane, the exact integer
result lies outside the type's range, an FP32 infinity comes from finite operands, or a NaN from operands that are none; otherwise the results
are written. -/
def Obligations.BoxArithmetic : Prop :=
  (∀ (s : State) (sel : Nat) (x : SigBox) (r : BoxRun) (f : QR), AtBox s sel x r →
      let go (i : Instr) (r' : BoxRun) : Prop := exec i s = .next (setBox s sel { x with run := some (stepRep (r.pc + 1) r') })
      let gives (i : Instr) (g : Word → Word → Word → Word) : Prop :=
        (f.s = true → go i (setF f.d.toNat (g (getF r f.a.toNat) (getF r f.b.toNat) (getF r f.c.toNat)) r))
        ∧ (f.s = false → go i (setLanes f.d.toNat ((List.range 16).map (fun l =>
            g (getE r f.a.toNat l) (if f.bs then getF r f.b.toNat else getE r f.b.toNat l) (getE r f.c.toNat l))) r))
      let value (v : Word) : Int := if f.ty = 0 then v.toInt else (v.toNat : Int)
      let fp (v : Word) : Fp := fpOfFp32 v.toNat
      let below (a b : Word) : Bool := if f.ty = 2 then fpLt (fp a) (fp b) else decide (value a < value b)
      let same (a b : Word) : Bool := if f.ty = 2 then fpEq (fp a) (fp b) else decide (a = b)
      let nan (a b : Word) : Bool := f.ty == 2 && ((fp a).isNaN || (fp b).isNaN)
      let holds (a b : Word) : Bool := ((fun c : Nat => if c = 0 then same a b else if c = 1 then !(same a b) else if c = 2 then below a b
        else if c = 3 then below a b || same a b else if c = 4 then !(below a b) && !(same a b) && !(nan a b)
        else if c = 5 then !(below a b) && !(nan a b) else false) f.cond.toNat)
      (f.ck = false → f.ty ≠ 2 →
          gives (.boxAdd f) (fun a b _ => a + b) ∧ gives (.boxSub f) (fun a b _ => a - b) ∧ gives (.boxMul f) (fun a b _ => a * b))
      ∧ (f.ck = false → f.ty = 2 → gives (.boxAdd f) (fun a b _ => BitVec.ofNat 32 (addRNE a.toNat b.toNat).bits)
          ∧ gives (.boxSub f) (fun a b _ => BitVec.ofNat 32 (subRNE a.toNat b.toNat).bits)
          ∧ gives (.boxMul f) (fun a b _ => BitVec.ofNat 32 (mulRNE (fp a) (fp b)).bits))
      ∧ (f.ty = 2 → gives (.boxMin f) (fun a b _ => BitVec.ofNat 32 (fpMinMax .fp32 false a.toNat b.toNat))
          ∧ gives (.boxMax f) (fun a b _ => BitVec.ofNat 32 (fpMinMax .fp32 true a.toNat b.toNat)))
      ∧ (f.ty ≠ 2 → gives (.boxMin f) (fun a b _ => if value b < value a then b else a)
          ∧ gives (.boxMax f) (fun a b _ => if value a < value b then b else a))
      ∧ (f.ty = 0 → gives (.boxShr f) (fun a b _ => a.sshiftRight (b.toNat % 32)))
      ∧ (f.ty = 1 → gives (.boxShr f) (fun a b _ => a >>> (b.toNat % 32)))
      ∧ gives (.boxAnd f) (fun a b _ => a &&& b) ∧ gives (.boxOr f) (fun a b _ => a ||| b) ∧ gives (.boxXor f) (fun a b _ => a ^^^ b)
      ∧ gives (.boxShl f) (fun a b _ => a <<< (b.toNat % 32)) ∧ gives (.boxSel f) (fun a b c => if c ≠ 0 then a else b)
      ∧ gives (.boxCmp f) (fun a b _ => if holds a b then 0xFFFFFFFF#32 else 0))
  ∧
  (∀ (s : State) (sel : Nat) (x : SigBox) (r : BoxRun) (f : QR), AtBox s sel x r → f.ck = true →
      let pairs : List (Word × Word) := if f.s then [(getF r f.a.toNat, getF r f.b.toNat)] else
        (List.range 16).map (fun l => (getE r f.a.toNat l, if f.bs then getF r f.b.toNat else getE r f.b.toNat l))
      let writes (vs : List Word) : BoxRun := if f.s then setF f.d.toNat (vs.headD 0) r else setLanes f.d.toNat vs r
      let settles (i : Instr) (g : Word → Word → Word) (bad : Word → Word → Prop) : Prop :=
        ((∃ p ∈ pairs, bad p.1 p.2) → exec i s = .next (trapRun s sel r 4 0 0))
        ∧ ((∀ p ∈ pairs, ¬bad p.1 p.2) → exec i s
            = .next (setBox s sel { x with run := some (stepRep (r.pc + 1) (writes (pairs.map (fun p => g p.1 p.2)))) }))
      let value (v : Word) : Int := if f.ty = 0 then v.toInt else (v.toNat : Int)
      let out (z : Int) : Prop := ¬(if f.ty = 0 then -(2 ^ 31 : Int) ≤ z ∧ z < 2 ^ 31 else 0 ≤ z ∧ z < 2 ^ 32)
      let finite (v : Word) : Prop := ∃ s m e, fpOfFp32 v.toNat = .fin s m e
      let special (z : Rounded) (a b : Word) : Prop :=
        ((∃ g, fpOfFp32 z.bits = .inf g) ∧ finite a ∧ finite b)
          ∨ (fpOfFp32 z.bits = .nan ∧ fpOfFp32 a.toNat ≠ .nan ∧ fpOfFp32 b.toNat ≠ .nan)
      let times (a b : Word) : Rounded := mulRNE (fpOfFp32 a.toNat) (fpOfFp32 b.toNat)
      (f.ty ≠ 2 → settles (.boxAdd f) (fun a b => a + b) (fun a b => out (value a + value b))
        ∧ settles (.boxSub f) (fun a b => a - b) (fun a b => out (value a - value b))
        ∧ settles (.boxMul f) (fun a b => a * b) (fun a b => out (value a * value b)))
      ∧ (f.ty = 2 → settles (.boxAdd f) (fun a b => BitVec.ofNat 32 (addRNE a.toNat b.toNat).bits) (fun a b => special (addRNE a.toNat b.toNat) a b)
        ∧ settles (.boxSub f) (fun a b => BitVec.ofNat 32 (subRNE a.toNat b.toNat).bits) (fun a b => special (subRNE a.toNat b.toNat) a b)
        ∧ settles (.boxMul f) (fun a b => BitVec.ofNat 32 (times a b).bits) (fun a b => special (times a b) a b)))

/-- R441 to R443: the QI words write registers, the payload buffer, the flow-state records and the header values they name; a payload chunk
at or beyond 64, a record outside the binding's partition and a header value outside its limits trap with reasons 3, 2 and 5. HWR may write
the length (1: a multiple of 32 up to 4,096, in a message not 0), the destination (3) and the flow (5), not of a message, and the tag (6); no image that loads holds an HWR of another value, which would trap too. -/
def Obligations.BoxData : Prop :=
  ∀ (s : State) (sel : Nat) (x : SigBox) (r : BoxRun) (f : QI), AtBox s sel x r →
    let on (i : Instr) (y : SigBox) (r' : BoxRun) : Prop := exec i s = .next (setBox s sel { y with run := some (stepRep (r.pc + 1) r') })
    let go (i : Instr) (r' : BoxRun) : Prop := on i x r'
    let traps (i : Instr) (reason value : Nat) : Prop := exec i s = .next (trapRun s sel r reason 0 value)
    let d := f.d.toNat
    let each (i : Instr) (src : Nat) (g : Word → Word) : Prop :=
      (f.s = true → go i (setF d (g (getF r src)) r))
        ∧ (f.s = false → go i (setLanes d ((List.range 16).map (fun l => g (getE r src l))) r))
    let chunk := ((if f.x then (getF r f.a.toNat).toNat else 0) + f.imm.toNat % 64) % 2 ^ 32
    let rec_ := (getF r (if f.x then f.a.toNat else 0)).toNat
    let at_ := (r.binding.partBase + rec_) * 256
    let word := at_ + 4 * (f.imm.toNat % 64)
    let vector := at_ + 64 * (f.imm.toNat % 4)
    each (.boxAddi f) f.a.toNat (fun a => a + f.imm.signExtend 32) ∧ each (.boxLdi f) d (fun _ => f.imm.signExtend 32)
    ∧ each (.boxLdiH f) d (fun v => (f.imm.zeroExtend 32 <<< 16) ||| (v &&& 0xFFFF))
    ∧ go (.boxGetl f) (setF d (getE r f.a.toNat (f.imm.toNat % 16)) r)
    ∧ go (.boxSetl f) (setE d (f.imm.toNat % 16) (getF r f.a.toNat) r)
    ∧ (chunk < 64 → go (.boxPld f) (setLanes d (cellLanes r.buf (64 * chunk)) r)
        ∧ go (.boxPst f) { r with buf := setCellLanes r.buf (64 * chunk) ((List.range 16).map (getE r d)) })
    ∧ (64 ≤ chunk → traps (.boxPld f) 3 0 ∧ traps (.boxPst f) 3 0)
    ∧ (rec_ < r.binding.partCount → go (.boxFldVector f) (setLanes d (cellLanes x.recs vector) r)
        ∧ go (.boxFldScalar f) (setF d (cellWord x.recs word) r)
        ∧ on (.boxFstVector f) { x with recs := setCellLanes x.recs vector ((List.range 16).map (getE r d)) } r
        ∧ on (.boxFstScalar f) { x with recs := setCellWord x.recs word (getF r d) } r
        ∧ on (.boxFinc f) { x with recs := setCellWord x.recs word (cellWord x.recs word + (f.imm.extractLsb' 6 10).signExtend 32) }
            (setF d (cellWord x.recs word) r))
    ∧ (r.binding.partCount ≤ rec_ → ∀ i ∈ [Instr.boxFldVector f, .boxFldScalar f, .boxFstVector f, .boxFstScalar f, .boxFinc f],
        traps i 2 rec_)
    ∧ go (.boxHrd f) (setF d (BitVec.ofNat 32 (headerValue r (f.imm.toNat % 8))) r)
    ∧ (let h := f.imm.toNat % 8
       let v := (getF r f.a.toNat).toNat
       let message : Prop := r.pkt.kind = 0x0B
       let writes (ok : Prop) (r' : BoxRun) : Prop := (ok → go (.boxHwr f) r') ∧ (¬ok → traps (.boxHwr f) 5 0)
       (h = 1 → writes (v ≤ 4096 ∧ v % 32 = 0 ∧ (message → v ≠ 0)) { r with len := v })
       ∧ (h = 3 → writes (v < 4096 ∧ ¬message) { r with dest := v })
       ∧ (h = 5 → writes (v < 2 ^ 16 ∧ ¬message) { r with flow := v })
       ∧ (h = 6 → writes (v < 2 ^ 16) { r with tag := v })
       ∧ (h ∉ [1, 3, 5, 6] → traps (.boxHwr f) 5 0))

/-- R431, R437, R444, R445, R447: TRAP and DROP end the packet's run, PASS sends it on with the values the kernel gave it, where a usable path leads
on (without one it is lost), or places it where it has arrived, EMIT sends a packet and the kernel goes on, BR goes to its target when its condition holds, and REP runs its body once
for each 64 bytes of payload. -/
def Obligations.BoxFates : Prop :=
  ∀ (s : State) (sel : Nat) (x : SigBox) (r : BoxRun) (f : QI) (g : QB), AtBox s sel x r →
    let at_ (pc : Nat) (r' : BoxRun) : State := setBox s sel { x with run := some (stepRep pc r') }
    let a := getF r g.a.toNat
    let b := getF r g.b.toNat
    let k := g.off.toNat % 32
    let n := (r.len + 63) / 64
    exec (.boxQordaTrap f) s = .next (trapRun s sel r 1 f.imm.toNat 0)
    ∧ (r.pkt.kind ≠ 0x0B → exec (.boxDrop f) s = .next (setBox s sel { x with run := none }))
    ∧ (r.pkt.kind = 0x0B → exec (.boxDrop f) s = .next (answerMessage (setBox s sel { x with run := none }) r.pkt 0 0))
    ∧ (r.pkt.kind ≠ 0x0B → (r.stage ≠ 0 ∨ r.dest ≠ s.pkg) →
        (r.dest = s.pkg ∨ pathUsable s r.pkt.plane r.dest r.pkt.path = true → exec (.boxPass f) s
          = .next (modFabric (setBox s sel { x with run := none }) (fun y => { y with out := y.out ++ [runPacket r] })))
        ∧ (r.dest ≠ s.pkg → pathUsable s r.pkt.plane r.dest r.pkt.path = false → exec (.boxPass f) s
          = .next (setBox s sel { x with run := none })))
    ∧ (r.pkt.kind ≠ 0x0B → r.stage = 0 → r.dest = s.pkg → ∀ t, placeEmitted (setBox s sel { x with run := none }) (runPacket r) = .ok t →
        exec (.boxPass f) s = .next t)
    ∧ (r.pkt.kind = 0x0B → ∃ t, placeMessage (setBox s sel { x with run := none }) (runPacket r) true = .next t
        ∧ exec (.boxPass f) s = .next t)
    ∧ exec (.boxEmit f) s = .next (emitPacket (at_ (r.pc + 1) r) r)
    ∧ (branchTaken g.cond.toNat a b = true → exec (.boxBr g) s = .next (at_ (r.pc + g.off.toNat) r))
    ∧ (branchTaken g.cond.toNat a b = false → exec (.boxBr g) s = .next (at_ (r.pc + 1) r))
    ∧ (n = 0 → exec (.boxRep g) s = .next (at_ (r.pc + 1 + k) r))
    ∧ (n ≠ 0 → exec (.boxRep g) s
        = .next (at_ (r.pc + 1) (setF g.cond.toNat 0 { r with rep := some (r.pc + 1, k, n, 0, g.cond.toNat) })))
    ∧ (branchTaken 0 a b = decide (a = b)) ∧ (branchTaken 1 a b = decide (a ≠ b)) ∧ (branchTaken 2 a b = decide (a.toInt < b.toInt))
    ∧ (branchTaken 3 a b = decide (a.toInt ≤ b.toInt)) ∧ (branchTaken 4 a b = decide (b.toInt < a.toInt))
    ∧ (branchTaken 5 a b = decide (b.toInt ≤ a.toInt)) ∧ (branchTaken 6 a b = decide (a.toNat < b.toNat)) ∧ branchTaken 7 a b = true

/-! ## Device events: the return of data and the performing of stores -/

/-- R50, R106, R158, R290, R299, R313: the data of some lanes of a load returns, when no lane shares a request with one that is left out. Each
lane has its value and its destination is filled: from the L1 copy of its core, where that is chosen, or from memory, with the stores that the
wave sees over them; a lane of an accumulator load the element; one of a peer's page the copy that is held, which is asked for when there is
none; poisoned data delivers nothing. A store that a load at CLUSTER scope or wider would return is performed at DEVICE scope first.

R107, R159, R160, R306, R307: the lanes of a returning atomic act in ascending order. One on local memory acts when no earlier access of
the wave and no store of another wave holds it up, its releases are complete and no peer holds a copy: memory takes the new value, the lane
has the old one and the wave has read the releases under it; poisoned data is left alone. One on a peer's page is sent to its home, and has
the value that the home answers. -/
def Obligations.LoadAndAtomicReturns : Prop :=
  (∀ (s : State) (wid i : Nat) (lanes : Mask) (fromL1 : Bool) (w : Wave) (a : Access), getWave s wid = some w → w.loads[i]? = some a →
      (∀ op, a.kind ≠ .atomic op) →
      let first := firstPieces a.lanes
      let now := first.filter (fun l => !(laneBit l.lane &&& lanes == 0))
      now ≠ [] → (a.accTile = none → splitsRequest wid a.width first now = false) →
      let event : Instr := .loadDataReturn wid i lanes fromL1
      let filled := if fromL1 then s else now.foldl (fun t l => refreshL1 t wid a l) s
      let fresh (l : LaneAcc) : Prop := l.bad = false ∧ l.ready = none
      let has (l : LaneAcc) (v : Option Nat) : Prop :=
        (l.bad = true ∧ v = none) ∨ (l.bad = false ∧ ∃ n, l.ready = some n ∧ v = some n)
        ∨ (fresh l ∧ a.accTile ≠ none ∧ ∃ t, getTeam s w.team = some t
            ∧ v = if accFails t l.addr then none else some (Cells.get 0 t.acc l.addr).toNat)
        ∨ (fresh l ∧ a.accTile = none ∧ laneClear w a false l = true ∧
            ((∃ q b line p, l.place = .remote q b ∧ heldCopy s q b = some (line, p)
                ∧ v = if p then none else some (natOfBytes ((line.drop (b % 128)).take a.width)))
              ∨ (fromL1 = false ∧ (∀ q b, l.place ≠ .remote q b)
                ∧ v = if placePoisoned s l.place a.width then none else some (natOfBytes (readAs s wid a.seq l.place a.width)))
              ∨ (fromL1 = true ∧ a.scope ≤ 1 ∧ ∃ b c bs, l.place = .glob b c ∧ readFromL1 s wid a.seq w l.place a.width = some bs
                ∧ v = if l1Fails (getCore s (coreOf wid)) b a.width then none else some (natOfBytes bs))))
      (narrowUnder s wid a now = none →
        (∀ value : LaneAcc → Option Nat, (∀ l ∈ now, has l (value l)) → exec event s
          = .next (orIdle s (deliverAll wid a (lanePoison s wid w a fromL1) filled (now.map (fun l => (l, value l))))))
        ∧ (∀ l r q b, now = l :: r → l.place = .remote q b → fresh l → a.accTile = none → laneClear w a false l = true → heldCopy s q b = none →
            s.fabric.unreachable.contains (q % 65536) = false → lineFree s q b = true → (∀ l ∈ a.lanes, l.asked = false) →
            ∃ t, exec event s = .next t ∧ t.fabric.nextId = s.fabric.nextId + 1 ∧ t.mem = s.mem))
      ∧ (∀ o b u, narrowUnder s wid a now = some (o, b) → getWave s o = some u → (∀ q c, b.place ≠ .remote q c) → b.perf < 4 → b.rmw = none →
          canPerform { s with fabric := { s.fabric with directory := [] } } o u b 4 = true →
          peersHolding s b.place b.bytes.length = false → exec event s = .next (performStore s o b 4)))
  ∧
  (∀ (s : State) (wid i : Nat) (lanes : Mask) (fromL1 : Bool) (w : Wave) (a : Access) (op : AtomicOp), getWave s wid = some w →
      w.loads[i]? = some a → a.kind = .atomic op → a.accTile = none →
      let first := firstPieces a.lanes
      let now := first.filter (fun l => !(laneBit l.lane &&& lanes == 0))
      now ≠ [] → splitsRequest wid a.width first now = false → narrowUnder s wid a now = none →
      let n := a.width
      let acts (l : LaneAcc) (t u : State) : Prop :=
        let r := atomicAt t wid l.place op n l.data l.cmp (pageHint t w l.addr a.hint)
        let releases := releasePairs w.uid a.seq a.order (barsOf w a.order a.scope a.seq)
        l.bad = false ∧
          ((∃ v, l.ready = some v ∧ u = laneDone (modWave t wid (setFlags (atomicNew op (8 * n) v l.data l.cmp).2)) wid a l v)
          ∨ (l.ready = none ∧ laneClear w a true l = true ∧ releasesReady t wid w a = true ∧ (∀ q b, l.place ≠ .remote q b)
            ∧ baseClear t l.place n = true ∧ peersHolding t l.place n = false ∧
            ((placePoisoned t l.place n = true ∧ u = laneBad t wid a l (poisonFrom t l.place n))
              ∨ (placePoisoned t l.place n = false
                ∧ u = noteReads wid (releasesUnder t wid l.place n) (laneDone (beginReleases r.2 l.place releases) wid a l r.1))))
          ∨ (l.ready = none ∧ laneClear w a true l = true ∧ releasesReady t wid w a = true ∧ l.asked = false ∧ ∃ q b, l.place = .remote q b
            ∧ t.fabric.unreachable.contains (q % 65536) = false ∧ lineFree t q b = true ∧ atomicsOut t q b < 1024
            ∧ u = modWave (sendAtomic t w op q b n a.order l.data l.cmp
                ((barsOf w a.order a.scope a.seq).any (fun c => decide (5 ≤ c.2))) (.rmw w.uid a.seq l.lane)) wid
                (setAccLanes a.seq (fun k => some (if k.lane = l.lane then { k with asked := true } else k)))))
      ∀ t, InTurn acts now s t → exec (.loadDataReturn wid i lanes fromL1) s = .next (orIdle s (settleAccess t wid a)))

/-- R290, R315, R411, R415, R417: a buffered store becomes performed at a wider scope once what it must follow is performed, and from DEVICE on
its bytes are in memory; at narrower scopes memory keeps its bytes. An atomic acts at DEVICE scope, and not on poisoned bytes. A store to a
peer's page is sent to its home with those of its instruction to the line, and counts as performed here; an atomic to one is sent by itself. -/
def Obligations.StoresPerform : Prop :=
  ∀ (s : State) (wid i scope : Nat) (w : Wave) (b : BufStore), getWave s wid = some w → w.stores[i]? = some b →
    let event : Instr := .storePerformed wid i scope
    let n := b.bytes.length
    ((∀ q a, b.place ≠ .remote q a) → 0 < scope → scope ≤ 5 → b.perf < scope →
      let at_ := if b.rmw.isSome then max 4 scope else scope
      canPerform { s with fabric := { s.fabric with directory := [] } } wid w b at_ = true →
      (4 ≤ at_ → peersHolding s b.place n = false) →
      ((isAtomic b = true → b.perf < 4 → placePoisoned s b.place n = false) →
        (b.rmw = none ∨ b.perf < 4 → exec event s = .next (performStore s wid b at_))
        ∧ (b.rmw ≠ none → 4 ≤ b.perf → exec event s
            = .next (modWave s wid (fun w => setStore w b.seq (fun b => if b.scope ≤ at_ then none else some { b with perf := at_ })))))
      ∧ (isAtomic b = true → b.perf < 4 → placePoisoned s b.place n = true → exec event s = .next (atomicPoison s wid w b))
      ∧ (b.rmw = none → scope < 4 → (∃ a c, b.place = .glob a c) → ∃ t, exec event s = .next t ∧ ∀ a, byteAt t a = byteAt s a)
      ∧ (b.rmw = none → 4 ≤ scope → b.perf < 4 → ∀ a c, b.place = .glob a c → ∃ t, exec event s = .next t
          ∧ (∀ k (h : k < b.bytes.length), byteAt t (a + k) = b.bytes[k])
          ∧ (∀ k, k < a ∨ a + b.bytes.length ≤ k → byteAt t k = byteAt s k)))
    ∧ (∀ q a, b.place = .remote q a → b.sent = none → lineBehind w b = false → acquired w b.after = true →
        (∀ c ∈ b.bars, releaseReady s wid w c.1 c.2 = true) → (∀ x ∈ w.loads, b.seq ≤ x.seq ∨ accMeets x b.place n = false) →
        s.fabric.unreachable.contains (q % 65536) = false → lineFree s q a = true →
        let ordered := b.bars.any (fun c => decide (5 ≤ c.2))
        let id := s.fabric.nextId
        (b.rmw = none → exec event s = .next (markSent wid id (requestStores w b) (sendPacket (dropCopy s q a)
          { lineDraft q (jobOf s w) (a / 128 * 128) (lineCells (requestStores w b)) with ordered := ordered } (.store w.uid b.seq))))
        ∧ (∀ op d c, b.rmw = some (op, d, c) → op ≠ .insert → atomicsOut s q a < 1024 → exec event s
            = .next (markSent wid id [b] (sendAtomic s w op q a n b.order d c ordered (.store w.uid b.seq)))))

/-- R44, R53, R114, R116, R263, R304: the oldest waiting RECV takes the oldest value of the return queue; the next queued block begins, once the
accesses of the control stream before its LANE are visible to the lanes, with its captured sources in q0 to q2, its number in q3 and one root
path at the block's offset.

R41, R48, R115, R229, R230, R250 to R253: a wait of the control stream ends when its condition holds. LWAIT: no block and no logged lane
access is left; MWAIT: its batch is complete, and it acquires at CORE scope; MWAIT and STEP deliver a fault of the wave's operations; FENCEA:
no copy or channel operation is unfinished and nothing of its scopes is unacknowledged, and it reports and clears ASYNCERR; a barrier: every
participant has arrived as often, and the waves that stand at it leave; WAITEV: the event has reached its target; a pipe's clear engine ends
the clearing of the first wave of its queue, all of whose registers then have their reset values. While the condition fails the wait goes on. -/
def Obligations.QueueEventsAndWaitCompletions : Prop :=
  (∀ (s : State) (wid : Nat) (w : Wave), getWave s wid = some w →
      (∀ n ns v vs, w.recvs = n :: ns → w.returnQueue = v :: vs →
        exec (.recvFill wid) s = .next (setWave s wid (writeS n v { w with recvs := ns, returnQueue := vs })))
      ∧ (∀ e r, w.laneQueue = e :: r → w.blockRunning = false → w.ctl ≠ .clearing → launchLive s w = true → laneVisible w e = true →
          let u := blockQ e (startBlock e.off (launchMask (isShadow s w)) e.syncs w)
          exec (.laneBlockStart wid) s = .next (traceActor (setWave s wid u) (.path wid 0)
            (standing (setWave s wid u) (.path wid 0)) 1 w.blockSeq 0 false)
          ∧ (∃ p, u.paths = [(0, p)] ∧ p.pc = e.off ∧ p.owned = launchMask (isShadow s w) ∧ p.state = .running)
          ∧ (∀ k v, k < 3 → e.srcs[k]? = some (.val v) → e.srcs.length = 3 → Cells.get 0 u.q k = v ∧ Cells.get false u.qEmpty k = false)
          ∧ Cells.get 0 u.q 3 = BitVec.ofNat 64 w.blockSeq ∧ u.blockSeq = (w.blockSeq + 1) % 2 ^ 64))
  ∧
  (∀ (s : State) (wid : Nat) (w : Wave), getWave s wid = some w → launchLive s w = true →
      let run : Wave := { w with ctl := .running }
      let waits (i : Instr) : Prop := exec i s = .next { s with stalled := true }
      let quietLanes : Prop := w.laneQueue = [] ∧ ∀ e ∈ w.log, isLaneActor e.actor = false
      (w.ctl = .lwait →
          (quietLanes → exec (.lwaitComplete wid) s = .next (setWave s wid (finishControl (.lwait zC3) (joinBlocks run))))
          ∧ (¬quietLanes → waits (.lwaitComplete wid)))
      ∧ (∀ n, w.ctl = .mwait n → w.engineFault = none →
          (batchPending w n = true → waits (.mwaitComplete wid))
          ∧ (batchPending w n = false → exec (.mwaitComplete wid) s
              = .next (acquireAt (setWave s wid (finishControl (.mwait zCE) run)) wid 1)))
      ∧ (∀ n i pc unit, w.ctl = .mwait n ∨ w.ctl = .barrier 0 → w.engineFault = some (i, pc, unit) →
          exec (.mwaitComplete wid) s = .next (modWave (takeFault s (.control wid) ⟨pc, 0, 0, 0, false, false⟩ unit i.code i.detail none true) wid
            (fun w => { w with engineFault := none, ctl := .running })))
      ∧ (∀ scope d, w.ctl = .fencea scope d →
          let done : Prop := w.laneQueue = [] ∧ w.log = [] ∧ (∀ e ∈ w.engine, isMatrix e.op = true)
            ∧ ∀ c, 1 ≤ c → c ≤ scope → c ≤ 5 → unack s w c = 0
          let clear : Wave := joinBlocks { w with asyncerr := 0, ctl := .running }
          let next (u : State) : Prop := exec (.fenceaComplete wid) s = .next u
          (¬done → waits (.fenceaComplete wid))
          ∧ (done → (d ≠ 63 → next (setWave s wid (finishControl (.fencea zCI) (writeS d (w.asyncerr.zeroExtend 64) clear))))
              ∧ (d = 63 → w.asyncerr.toNat % 256 = 0 → next (setWave s wid (finishControl (.fencea zCI) clear)))
              ∧ (d = 63 → w.asyncerr.toNat % 256 ≠ 0 →
                  next (raiseFault (setWave s wid clear) (.control wid) (w.asyncerr.toNat % 256) w.asyncerr.toNat none none))))
      ∧ (∀ lid level unit,
          let leaves := (barWaves s lid level unit).filter (fun p =>
            p.2.ctl == .barrier level && decide (Cells.get 0 p.2.barArrivals level < commonArrivals s lid level unit))
          (leaves = [] → waits (.barrierComplete lid level unit))
          ∧ (leaves ≠ [] → exec (.barrierComplete lid level unit) s = .next (leaveAll level leaves s)))
      ∧ (∀ a target scope d bs, w.ctl = .waitev a target scope d → a < 2 ^ 64 → target < 2 ^ 64 → scope < 8 → d < 64 → ImageAt s wid w a 8 8 bs →
          (target ≤ natOfBytes bs → exec (.waitevWake wid) s = .next (modWave (acquireAt s wid scope) wid (fun u =>
              finishControl (.waitev zCE) (writeS d (BitVec.ofNat 64 (natOfBytes bs)) { u with ctl := .running }))))
          ∧ (natOfBytes bs < target → exec (.waitevWake wid) s = .next (orIdle s (setWave s wid w))))
      ∧ (∀ core pipe r, Tbl.find? (getCore s core).clearQ pipe = some (wid :: r) → w.ctl = .clearing →
          ∃ t u, exec (.waveClear core pipe) s = .next t ∧ getWave t wid = some u ∧ u.ctl = .running
            ∧ (∀ n l, vVal u n l = 0 ∧ vIsEmpty u n l = false) ∧ (∀ n, sVal u n = 0 ∧ sFull u n = true) ∧ (∀ n < 7, condMask u n = 0)
            ∧ Tbl.find? (getCore t core).clearQ pipe = (if r = [] then none else some r)))

/-- R328 to R330: a logged entry whose page has become valid replays when its location meets no earlier entry's, and one that releases when it
is the oldest: an access enters where its addresses lead now and leaves the log, other entries have their effect; the entry stays, with the
place where the walk stopped, when a page is still absent, or raises its fault at the instance that issued it. A write to a monitored line of
page-table entries, or the walkers' timer, makes the walkers of what waits there walk again.

R325, R326, R400, R466: a record that could not be written is written when the fault queue has a free slot: the oldest one behind which
no store is missing, its wave's earlier stores and those of other waves that it could read being performed at SYSTEM scope. The page at
an address of an armed context is copied to the snapshot pool before its first write, and its leaf takes the context's generation; a pool
that is too small makes a record of code 0x12 that ends the launch. -/
def Obligations.LogsRecordsAndSnapshots : Prop :=
  (∀ (s : State) (wid i line : Nat) (w : Wave), getWave s wid = some w →
      (∀ e, w.log[i]? = some e → e.awake = true → launchLive s w = true → logBehind s w e = false → (logReleases e = true → i = 0) →
        let event : Instr := .logReplay wid i
        let enters (a : Access) : Prop := exec event s = .next (dropEntry wid e.seq (setWave s wid (enterAccess a w)))
        (∀ a l p, e.body = .access a → isLaneActor a.actor = false → a.actor = .control wid → a.lanes = [l] →
            reachControl s w (wantOf a) l.addr a.width = .ok (.at p) → enters { a with lanes := [{ l with place := p }] })
        ∧ (∀ a ps, e.body = .access a → isLaneActor a.actor = true →
            reachLanes s wid w (wantOf a) a.width (a.lanes.map (fun l => (l.lane, l.addr))) = .ok (.at ps) →
            enters { a with lanes := placeLanes ps a.lanes })
        ∧ (∀ t, replayEntry s wid w e = .done t → exec event s = .next t)
        ∧ (∀ va n, replayEntry s wid w e = .absent va n → exec event s = .next (keepEntry wid e.seq va n s))
        ∧ (∀ c d m u, replayEntry s wid w e = .stop (.fault c d m u) →
            exec event s = .next (takeFault (dropEntry wid e.seq s) e.actor (standingAt s e.actor e.pc e.block e.path e.mask)
              (u.getD (unitFor s e.actor c)) c d m false)))
      ∧ exec (.walkerMonitorWake line) s
          = .next (orIdle s { s with waves := s.waves.map (fun p => (p.1, wakeWave s (some line) (fun _ => true) true p.2)) })
      ∧ (let u := wakeWave s none (fun k => k == i) (decide (8 ≤ i)) w
         (u ≠ w → exec (.walkerRewalkTimer wid i) s = .next (setWave s wid u))
         ∧ (u = w → exec (.walkerRewalkTimer wid i) s = .next { s with stalled := true })))
  ∧
  (∀ (s : State) (c va : Nat) (x : Context), getCtx s c = some x →
      let ready (r : FaultRecord) : Prop := ∀ uid bar, r.after = some (uid, bar) → ∀ p : Nat × Wave, p ∈ s.waves → p.2.uid = uid →
        (∀ b ∈ p.2.stores, b.seq < bar → 5 ≤ b.perf)
        ∧ ∀ o : Nat × Wave, o ∈ s.waves → o.1 ≠ p.1 → ∀ b ∈ o.2.stores, readable s o.1 p.1 b = true → 5 ≤ b.perf
      (∀ pre r post, x.heldFaults = pre ++ r :: post → (∀ q ∈ pre, ¬ready q) → ready r →
        (faultRoom x = true →
          let y : Context := { x with heldFaults := pre ++ post }
          exec (.faultRecordHeldWrite c) s = .next (putFault { s with contexts := Tbl.put s.contexts c y } c y r))
        ∧ (faultRoom x = false → exec (.faultRecordHeldWrite c) s = .next { s with stalled := true }))
      ∧ (∀ lid y l, x.armed = some lid → getLaunch s lid = some y → y.ending = none → walkCtx s x (va % 2 ^ 56) = .leaf l →
          l.remote = false → l.w = true → l.gen ≠ x.generation → livePhys s l.addr = true →
          let n := 2 ^ l.shift / 2 ^ 17
          let page := l.addr / 2 ^ l.shift * 2 ^ l.shift
          (x.pool < x.poolUsed + n → ∃ r, exec (.snapshotPageCopy c va) s = .next (writeFault s c r) ∧ r.code = 0x12 ∧ r.detail = x.pool
              ∧ r.ends = true ∧ r.lid = some lid ∧ r.qentry = y.qentry)
          ∧ (∀ us, x.poolUsed + n ≤ x.pool → poolUnits s x x.poolUsed n = some us →
              let t := us.zipIdx.foldl (fun t p => copyPhysLines 1 t (page + p.2 * 2 ^ 17) p.1 1024) s
              let leaf := bytesOfNat 8 (readPhysNat t l.entry 8 % 2 ^ 48 + x.generation * 2 ^ 48)
              exec (.snapshotPageCopy c va) s = .next (dropLeaf (modCtx (writePhys t l.entry leaf) c (fun x =>
                { x with snapshots := x.snapshots ++ [(page, 2 ^ l.shift, x.poolUsed, l.cls)], poolUsed := x.poolUsed + n })) x.ptroot (va % 2 ^ 56)
                (readPhysNat t l.entry 8)))))

/-! ## Device events: the matrix unit and the encoder -/

/-- R222, R224, R225: MCLR zeroes its tiles and clears their poison, and no other element changes; TBDROP drops the tables of its slot or of
every slot, but none that is still to be built; MOUT converts the 256 elements of its tile, writes them into its tensor and sets the SATF bits
of the conversions, an element that a write met being undefined. A poisoned tile fails MOUT with 0x17.

R35, R37, R182, R215, R217, R221, R231: MTAB builds the tables of its A tile into its slot, undefined ones if a write met the tile. The
first turn of MLUT obtains its B tile and its tables and begins to add, fails on a poisoned tile, and ends at once when the tile is zero; each
later turn adds to every element of the accumulator tile one group of the products of its row of the tables with its column of the B
tile, an element that a store met being undefined; the last one sets the SATF bits of all the sums. -/
def Obligations.TileAndLookupExecution : Prop :=
  (∀ (s : State) (wid : Nat) (w : Wave) (x : Context) (e : EngineItem) (y : Team), MatrixRuns s wid w x e → getTeam s w.team = some y →
      (∀ t k, e.op = .mclr t k → ∃ z u, (∀ n, n ≠ w.team → getTeam u n = getTeam s n) ∧ getTeam u w.team = some z
          ∧ (∀ j, Cells.get 0 z.acc j = if t * 256 ≤ j ∧ j < (t + k) * 256 then 0 else Cells.get 0 y.acc j)
          ∧ (∀ j, Cells.get false z.accPoison j = if t * 32 ≤ j ∧ j < (t + k) * 32 then false else Cells.get false y.accPoison j)
          ∧ (∀ j, Cells.get 0 z.accChecks j = if t * 32 ≤ j ∧ j < (t + k) * 32 then 0 else Cells.get 0 y.accChecks j)
          ∧ { y with acc := z.acc, accPoison := z.accPoison, accChecks := z.accChecks } = z ∧ { u with teams := s.teams } = s
          ∧ exec (.mclrExecute wid) s = .next (matrixDone wid e u))
      ∧ (∀ all slot, e.op = .tbdrop all slot →
          let drops (r : Nat × SlotRec) : Nat × SlotRec :=
            if (all = true ∨ r.1 = slot) ∧ r.2.state ≠ .pending then (r.1, { r.2 with state := .dropped, entries := [] }) else r
          exec (.tbdropExecute wid) s
            = .next (matrixDone wid e (modTeam s w.team (fun z => { z with slots := z.slots.map drops, tables := z.tables.map drops }))))
      ∧ (∀ tid d row col tile mode sat iacc, e.op = .mout tid d row col tile mode sat iacc →
          let old := (List.range 256).map (fun i => (Cells.get 0 y.acc (tile * 256 + i)).toNat)
          let out := moutElems d.fmt mode sat iacc old w.engGen
          let met : Prop := e.hazard ≠ 0 ∨ e.unseen ≠ []
          let value (i v : Nat) : Nat :=
            if e.hazard ≠ 0 ∨ e.unseen.contains i = true then (Config.freeWord (s.freeCtr + i)).toNat % 2 ^ fmtBits d.fmt else v
          let cells := out.1.zipIdx.map (fun p => (row * 16 + p.2 / 16, col * 16 + p.2 % 16, value p.2 p.1.1, false))
          let flags := out.1.foldl (fun f o => f ||| o.2) 0
          (tilePoisoned y tile = false → ∀ u, engineElems wid w x e d s cells = .ok u →
            exec (.moutExecute wid) s = .next (matrixDone wid e
              (modWave (if met then spendFree 256 u else u) wid (fun w => setFlags flags { w with engGen := out.2 }))))
          ∧ (tilePoisoned y tile = true →
              exec (.moutExecute wid) s = .next (engineFail s wid e 0x17 (tilePoison y tile) (engineUnit wid e.op 0x17)))))
  ∧
  (∀ (s : State) (wid : Nat) (w : Wave) (x : Context) (e : EngineItem) (y : Team), MatrixRuns s wid w x e → getTeam s w.team = some y →
      (∀ prod aTid a row col pal p slot, e.op = .mtab prod aTid a row col pal p slot →
          let r := { pendingRec e.id prod aTid a row col pal p .undefined with regions := tileVersions y a row col }
          (e.hazard = 0 → ∀ b, buildTables s wid w x r = .ok b →
            let built : SlotRec := { r with state := .built, entries := b.1 }
            exec (.mtabExecute wid) s = .next (matrixDone wid e (modWave (modTeam s w.team (placeTable slot built)) wid (setFlags b.2))))
          ∧ (e.hazard ≠ 0 → exec (.mtabExecute wid) s = .next (matrixDone wid e (modTeam s w.team (placeTable slot r)))))
      ∧ (∀ tile slot bTid b ct pal row col p, e.op = .mlut tile slot bTid b ct pal row col p none →
          let failed (code detail : Nat) : State := engineFail s wid e code detail (engineUnit wid e.op code)
          (e.adding = none → ∀ d u, fetchB s w wid x bTid b ct pal row col = .ok d → usableTable s wid w x slot = .ok u →
            let t := modTeam s w.team (placeTable slot u.1)
            (pairOf u.1 b b.palette = none → exec (.mlutExecute wid) s = .next (failed 0x11 (tensorDetail bTid slot)))
            ∧ ∀ pair, pairOf u.1 b b.palette = some pair →
              (d.zero = true → exec (.mlutExecute wid) s = .next (servedAt wid (finishTile wid w e tile u.2 t)))
              ∧ (d.zero = false → tilePoisoned y tile = true → e.hazard = 0 →
                  exec (.mlutExecute wid) s = .next (failed 0x17 (tilePoison y tile)))
              ∧ (d.zero = false → tilePoisoned y tile = false ∨ e.hazard ≠ 0 → exec (.mlutExecute wid) s = .next (servedAt wid
                  (modItem wid e.id (fun e => { e with started := true, adding := some ⟨u.1, d, 0, u.2⟩ }) t))))
          ∧ (∀ z pair, e.adding = some z → pairOf z.table b b.palette = some pair →
            let met (i : Nat) : Prop := Cells.get false y.accHot (tile * 256 + i) = true ∨ e.unseen.contains i = true
            let sum (i : Nat) : Nat × BitVec 4 :=
              addGroup pair p z.table b z.tile (i / 16) (i % 16) ((Cells.get 0 y.acc (tile * 256 + i)).toNat, 0) z.done
            let out (i : Nat) : Nat × BitVec 4 := if met i then ((Config.freeWord (s.freeCtr + i)).toNat, 0) else sum i
            let flags := (List.range 256).foldl (fun f i => f ||| (out i).2) z.flags
            let t := spendFree 256 (modTeam s w.team (writeTile tile (fun i => if i < 256 then BitVec.ofNat 32 (out i).1 else 0)))
            addNext s wid w e tile p b z = (if groupCount pair b z.tile ≤ z.done + 1 then finishTile wid w e tile flags t
                else modItem wid e.id (fun e => { e with adding := some { z with done := z.done + 1, flags := flags } }) t)
              ∧ exec (.mlutExecute wid) s = .next (servedAt wid (addNext s wid w e tile p b z)))))

/-- R218, R219, R227: at its turn, an operation of a gang whose recorded members are all at the latch begins for all of them at once, each with
its own tables and accumulator tile and one shared B tile, and each member then adds its groups. A member that has departed fails it with
0x10 reason 2; members that do not match fail with reason 1; a failure of the shared tile fails every member alike; a member that fails by itself
has its own fault, and the others 0x10 reason 3.

R226: MXPQ reads its source tile, and writes tile (b, a) of its destination: each block of the transposed values under a scale of its own,
its codes and its scale byte; the SATF bits of the conversions are set, and what a write met is undefined.

R197, R199, R415: for the oldest tile that the wave completed, the encoder takes the space of its stream from the tensor's append pointer,
in memory here or at a peer by an atomic; then it writes the stream, then the index entry, each when the peer has acknowledged
the one before, and the tile leaves it. Poison, an append pointer that no entry can hold, and a peer that is unreachable discard the tile. -/
def Obligations.GangAndEncoderExecution : Prop :=
  (∀ (s : State) (wid k : Nat) (w w' : Wave) (c : Nat) (x : Context) (e : EngineItem), getWave s wid = some w → latchHead s w.uid = some (k, w', e) →
      InContext s w c x → takesHead s wid w = true → servedNow s wid w = true → unitRuns s wid = true →
      ∀ tile slot bTid b ct pal row col p g word us n, e.op = .mlut tile slot bTid b ct pal row col p (some (g, word, us, n)) →
      let waves := gangWaves s wid word us
      let gone := waves.find? (fun p => departed s p.2)
      let unready (m : Nat × Wave × EngineItem) : Bool := waitsForTable s m.1 m.2.1 m.2.2
      let served (t : State) : State := if t.stalled = true then t else servedAt wid t
      (e.adding = none →
        (∀ q, gone = some q →
          exec (.mlutgLatchComplete wid) s = .next (served (engineFail s wid e 0x10 (gangDetail g 2 q.1 0) (engineUnit wid e.op 0x10))))
        ∧ ∀ m0 r, gone = none → sortMembers (latched s w waves) = m0 :: r → (∀ m ∈ m0 :: r, unready m = false) →
          let ms := m0 :: r
          (∀ m, r.find? (fun m => !(gangMatch s m0 m)) = some m → exec (.mlutgLatchComplete wid) s
              = .next (served (failMembers (fun q => (0x10, gangDetail (gangRegOf q.2.2) 1 (m.1 % 128) 0, none)) ms s)))
          ∧ ((∀ m ∈ r, gangMatch s m0 m = true) →
              (∀ code detail lanes u, fetchB s w wid x bTid b ct pal row col = .error (.fault code detail lanes u) →
                exec (.mlutgLatchComplete wid) s = .next (served (failMembers (fun _ => (code, detail, u)) ms s)))
              ∧ ∀ d, fetchB s w wid x bTid b ct pal row col = .ok d →
                (∀ t, (∀ m ∈ ms, ownFailure s m = .ok ()) → membersBegin d s ms = .ok t → exec (.mlutgLatchComplete wid) s = .next (served t))
                ∧ ∀ m, List.find? (fun m => (faultOf (ownFailure s m)).isSome) ms = some m →
                  let own (q : Nat × Wave × EngineItem) : Nat × Nat × Option Nat :=
                    (faultOf (ownFailure s q)).getD (0x10, gangDetail (gangRegOf q.2.2) 3 (m.1 % 128) 0, none)
                  exec (.mlutgLatchComplete wid) s = .next (served (failMembers own ms s))))
      ∧ (∀ z, e.adding = some z → exec (.mlutgLatchComplete wid) s = .next (addNext s wid w e tile p b z)))
  ∧
  (∀ (s : State) (wid : Nat) (w : Wave) (x : Context) (e : EngineItem) (dTid : Nat) (d : Tensor) (sTid : Nat) (src : Tensor) (ct : CodeTable)
      (p : Palette) (a b : Nat), MatrixRuns s wid w x e → e.op = .mxpq dTid d sTid src ct p a b →
      ∀ tile, fetchB s w wid x sTid src ct p a b = .ok tile →
      let block (z : Nat × Nat) : List (Nat × BitVec 4) := (List.range d.blockLen).map (fun j =>
        if d.kaxis = 0 then xposeValue src p tile z.2 (z.1 + j) else xposeValue src p tile (z.2 + j) z.1)
      let code (z : Nat × Nat) : Nat × List Nat × BitVec 4 := xposeBlock d p ((block z).map (fun v => v.1))
      let free (k : Nat) : Nat := (Config.freeWord (s.freeCtr + k)).toNat
      let out := (blockCells d).zipIdx.map (fun z => if e.hazard = 0 then (z.1, (code z.1).1, (code z.1).2.1)
        else (z.1, free (64 * z.2) % 256, (List.range d.blockLen).map (fun j => free (64 * z.2 + 1 + j) % 2 ^ fmtBits d.fmt)))
      let flags := (blockCells d).foldl (fun f z => f ||| (block z).foldl (fun f v => f ||| v.2) (code z).2.2) 0
      ∀ u, xposeWrite wid w x e d b a s out = .ok u → exec (.mxpqExecute wid) s
        = .next (matrixDone wid e (modWave (if e.hazard = 0 then u else spendFree (64 * (blockCells d).length) u) wid (setFlags flags))))
  ∧
  (∀ (s : State) (wid : Nat) (w : Wave) (c : Nat) (x : Context) (y : Team) (o : OpenTile), getWave s wid = some w → InContext s w c x →
      getTeam s w.team = some y → underTest s 6 (clusterOf wid) = false →
      List.find? (fun o : OpenTile => o.complete == some w.uid) y.openTiles = some o →
      let st := formStream o.ct (tileBlocks o)
      let size := 16 * ceilDiv st.2.1 128
      let lost (code member : Nat) : State := discardTile s w.team w.uid o code member
      let writes (addr : Nat) (bs : List Byte) (n : Nat) : Prop :=
        (∀ code member, encoderBlocked s w x (addr + bs.length) (bs.length / 128 + 2) addr = some (code, member) →
          exec (.encoderTileWrite wid) s = .next (lost code member))
        ∧ (encoderBlocked s w x (addr + bs.length) (bs.length / 128 + 2) addr = none → ∀ t,
          engineWriteAll s wid w x (encoderItem w) addr (cleanBytes bs) = .ok t →
          exec (.encoderTileWrite wid) s = .next (if n = 2 ∧ encoderOut t w = false then closeTile t w.team w.uid o else tilePhase w.team o n t))
      (o.append = none → ∀ q, writeTarget s w x (o.t.addr + 24) 8 = .ok q →
        (∀ r a, q = .remote r a →
          (s.fabric.unreachable.contains (r % 65536) = true → exec (.encoderTileWrite wid) s = .next (lost 0x0B (r % 65536)))
          ∧ (s.fabric.unreachable.contains (r % 65536) = false → o.asked = false → lineFree s r a = true → atomicsOut s r a < 1024 →
              exec (.encoderTileWrite wid) s = .next (modTile
                (sendAtomic s w .add r a 8 0 size 0 false (.encode w.team w.uid o.tid o.t.addr o.row o.col)) w.team o
                (fun o => some { o with asked := true }))))
        ∧ ((∀ r a, q ≠ .remote r a) → ownStoreWaits w w.seq q 8 = false → narrowMeets s (engineOf wid) q 8 = false → peersHolding s q 8 = false →
            (placePoisoned s q 8 = true → exec (.encoderTileWrite wid) s = .next (lost 0x17 s.pkg))
            ∧ (placePoisoned s q 8 = false →
                let old := natOfBytes (readBase s q 8)
                let bs := bytesOfNat 8 (old + size)
                exec (.encoderTileWrite wid) s = .next (modTile
                  (coreL1Write (allocWritten (writePlace s q bs false) wid w q (o.t.addr + 24) 8 0) (coreOf wid) q bs) w.team o
                  (fun o => some { o with append := some old })))))
      ∧ (∀ q, o.append = some q → (q % 16 ≠ 0 ∨ 2 ^ 36 ≤ q / 16) → exec (.encoderTileWrite wid) s = .next (lost 0x12 s.pkg))
      ∧ (∀ q, o.append = some q → q % 16 = 0 → q / 16 < 2 ^ 36 → encoderOut s w = false →
          (o.phase = 0 → writes (tensorAddr o.t (o.t.base + q)) st.2.2 1)
          ∧ (o.phase = 1 → writes (indexEntryAt o.t o.row o.col) (bytesOfNat 8 (q / 16 + st.2.1 * 2 ^ 36 + b2n st.1 * 2 ^ 61)) 2)
          ∧ (2 ≤ o.phase → exec (.encoderTileWrite wid) s = .next (closeTile s w.team w.uid o))))

/-! ## Device events: the copy engine and the queues of a context -/

/-- R236 to R242, R422, R423: at its turn a copy writes one word of the unit in hand, any of them; when none is left it closes the lines that they
filled, and reads its next unit, at most 4 KiB of its source runs, or 3,840 bytes of registers; after its last it completes. The runs are those of the
range, of the rows of the list, which is read once, or of the rows of the tile; elements narrower than a byte move as one tile. A multicast copy sends up to 128 units of 32
bytes to every member that has not failed. A fault leaves the bytes that the copy would have written undefined and awaits delivery. A
multicast copy completes when every member has answered: those that failed are recorded in ASYNCERR (0x18) and, 64 to a word, in
the status area.

R54, R239, R245, R289, R420: SEND injects its message once no earlier one of the capability waits, its allowance has room and the pair has fewer than
1024 unacknowledged: the bytes are counted in flight and the message takes the next number of its pair; its bytes are undefined if a write met
them. To a package that no plane reaches it is not sent: 0x0C in ASYNCERR. A register-file write through the window is accepted when
no earlier one of its wave to that register waits and the target's register is full in every lane, and refused with 0x0B when there is no target. -/
def Obligations.CopyAndSendExecution : Prop :=
  (∀ (s : State) (wid op : Nat) (w : Wave) (c : Nat) (x : Context) (e0 e : EngineItem),
      let went (t : State) : State := copyServedAt wid t
      let taken := modItem wid e.id (fun y => { y with members := e.members }) s
      let total := runsLength (copyStreams e).1
      (CopyRuns s wid op w c x e0 → withList s wid w x e0 = .ok e →
        (∀ src dst len wb g, e.op = .cpb src dst len wb g →
          copyStreams e = ([(src, len)], [(if wb then .weights dst else if apertureOf dst = 3 then .window dst else .gen dst, len)]))
        ∧ (∀ tid t list n off, e.op = .cpg tid t list n off →
            (e0.members = none → rowList s wid w x t tid list n = .ok (e.members.getD []))
            ∧ copyStreams e = ((e.members.getD []).map (fun k => ((elemAt t k 0).1, rowBytes t)),
              (List.range (e.members.getD []).length).map (fun i => (.gen (2 ^ 56 + (off + i * rowBytes t)), rowBytes t))))
        ∧ (∀ tid t list n off, e.op = .cps tid t list n off →
            (e0.members = none → rowList s wid w x t tid list n = .ok (e.members.getD []))
            ∧ copyStreams e = ((List.range (e.members.getD []).length).map (fun i => (2 ^ 56 + (off + i * rowBytes t), rowBytes t)),
              (e.members.getD []).map (fun k => (.gen (elemAt t k 0).1, rowBytes t))))
        ∧ (∀ dTid d sTid src row col drow dcol, e.op = .cpt dTid d sTid src row col drow dcol →
            (8 ≤ fmtBits d.fmt → copyStreams e =
              ((List.range src.trows).map (fun r => (rowStart src row col r, src.tcols * (fmtBits d.fmt / 8))),
               if d.kind = 4 then (winRuns d drow dcol).map (fun r => (.window r.1, r.2))
               else (List.range d.trows).map (fun r => (.gen (rowStart d drow dcol r), src.tcols * (fmtBits d.fmt / 8)))))
            ∧ (fmtBits d.fmt < 8 → ∀ t, copyTile taken wid w c x e d src row col drow dcol = .ok t →
                exec (.copyUnit wid op) s = .next (went (copyDone wid e t))))
        ∧ (∀ src dst list units g, e.op = .cpmc src dst list units g →
            let n := min 128 (units - e.progress)
            (e0.members = none → memberList s wid w x list = .ok (e.members.getD []))
            ∧ ∀ t, castUnits wid w x e src dst (castMembers e) n e.progress taken = .ok t →
              let sent := modItem wid e.id (fun e =>
                { e with started := true, progress := e.progress + n, injected := decide (units ≤ e.progress + n) }) t
              exec (.copyUnit wid op) s = .next (went (if units ≤ e.progress + n then modWave sent wid (hazardFlag e) else sent)))
        ∧ ((∀ src dst list units g, e.op ≠ .cpmc src dst list units g) → (∀ k cap src len tag, e.op ≠ .send k cap src len tag) →
            (∀ dTid d sTid src row col drow dcol, e.op = .cpt dTid d sTid src row col drow dcol → 8 ≤ fmtBits d.fmt) →
            (∀ z r t, e.words = z :: r →
              let i := Config.freeNat s.freeCtr % e.words.length
              let k := e.words.getD i z
              writeWord (spendFree 1 taken) wid w c x e k.dst k.bytes = .ok t →
              exec (.copyUnit wid op) s = .next (went (modItem wid e.id (fun e' => { e' with words := e.words.eraseIdx i }) t)))
            ∧ (∀ t, e.words = [] → closeLines wid w x e e.lines taken = .ok t →
                let e' := { e with lines := [] }
                let u := modItem wid e.id (fun e => { e with lines := [] }) t
                (total ≤ e.progress → exec (.copyUnit wid op) s = .next (went (copyDone wid e' u)))
                ∧ (e.progress < total →
                    let n := min (total - e.progress) (if (copyStreams e).2.any (fun d => toRegisters d.1) then 3840 else 4096)
                    let dst := sliceRuns CopyDst.add e.progress n (copyStreams e).2
                    let src := sliceRuns (fun a k => a + k) e.progress n (copyStreams e).1
                    ∀ bs, readUnit u wid w x (dst.any (fun d => toRegisters d.1)) src = .ok bs →
                    let words := unitWords u w x e' u.freeCtr dst bs
                    exec (.copyUnit wid op) s = .next (went (modItem wid e.id (fun e =>
                      { e with started := true, progress := e.progress + n, words := words.1, lines := words.2 }) (spendFree n u)))))))
      ∧ (CopyRuns s wid op w c x e0 → ∀ code detail lanes unit t, copyBody s wid w c x e0 = .error (.fault code detail lanes unit) →
          scramble s wid w c x e0 code = .ok t →
          exec (.copyUnit wid op) s = .next (engineFail (went t) wid e0 code detail (unit.getD (engineUnit wid e0.op code))))
      ∧ (∀ src dst list units g u, getWave s wid = some w → InContext s w c x →
          List.find? (fun e : EngineItem => e.id == op && e.injected) w.engine = some e → e.op = .cpmc src dst list units g →
          castPending s w.uid op = false →
          let ms := e.members.getD []
          let failed := e.failed.eraseDups
          let t := failed.foldl (fun s i => modWave s wid (asyncError 0x18 (ms.getD i 0))) s
          let words := (List.range (ceilDiv ms.length 64)).flatMap (fun k => bytesOfNat 8 (statusWord failed k))
          engineWriteAll t wid w x e (roundUp (list + 2 + 2 * ms.length) 8) (cleanBytes words) = .ok u →
          exec (.cpmcComplete wid op) s = .next (finishItem wid op u)))
  ∧
  (∀ (s : State) (wid op i : Nat) (w : Wave) (c : Nat) (x : Context) (e : EngineItem),
      (∀ k cap src len tag, getWave s wid = some w → InContext s w c x → launchLive s w = true → itemReady s w e = true →
        List.find? (fun e : EngineItem => e.id == op && !e.injected) w.engine = some e → e.op = .send k cap src len tag →
        sendBehind w e k = false → Cells.get 0 x.inflight k + len ≤ cap.allowance →
        let key := cap.pkg * 65536 + cap.ring
        let n := Cells.get 0 s.fabric.seqOut key
        (s.fabric.unreachable.contains cap.pkg = true →
          exec (.sendInject wid op) s = .next (modWave (finishItem wid op s) wid (asyncError 0x0C cap.pkg)))
        ∧ ∀ bs, s.fabric.unreachable.contains cap.pkg = false → messagesOut s cap.pkg cap.ring < 1024 → copyBytes s wid w x src len = .ok bs →
          ∃ t, exec (.sendInject wid op) s = .next t
            ∧ Cells.get 0 t.fabric.seqOut key = (n + 1) % 65536
            ∧ (∃ y, getCtx t c = some y ∧ Cells.get 0 y.inflight k = Cells.get 0 x.inflight k + len)
            ∧ ∃ r, Tbl.find? t.fabric.sent s.fabric.nextId = some r ∧ r.pkt.kind = 0x0B ∧ r.pkt.dest = cap.pkg ∧ r.pkt.tag = cap.ring
                ∧ r.pkt.seq = n
                ∧ r.pkt.payload = if e.hazard = 0 then bs.map (fun b => b.1) else (List.range len).map (fun i => Config.freeByte (s.freeCtr + i)))
      ∧ (∀ z, s.windowWrites[i]? = some z →
          (s.windowWrites.take i).any (fun y => y.uid == z.uid && y.target == z.target && y.reg == z.reg) = false →
          let rest : State := { s with windowWrites := s.windowWrites.eraseIdx i }
          (windowTarget s z = none → exec (.windowWriteAccept i) s = .next (windowSettle (recordAsync rest z.uid 0x0B s.pkg) z))
          ∧ (∀ v, windowTarget s z = some v → v.ctl ≠ .clearing → (∀ l, l < 96 → vIsEmpty v z.reg l = false) →
              exec (.windowWriteAccept i) s = .next (windowSettle (modWave rest z.target (setRegister z.reg 0 z.words)) z))))

/-! ## Device events: launches, from their queues to their ends -/

/-- R361 to R365, R369, R400, R465, R487, R504: when the queue that is served next has no launch that can go on, the entry at its head is looked
at. An entry with a bad field is refused with the code and the byte offset of the first (R363). An entry with no wait event and no install
list starts when cores are ready and it fits them: its eligible cores are fixed, its teams wait, and its queue's head moves; a restartable one
takes the next generation of its context and is armed, waits while another is, and is refused when no generation is left. An
entry that cannot start is watched.

R361, R365, R376, R487, R504: a launch that waits for its event, when its queue is served next, goes on when the event has reached its value and is
cancelled when bit 63 of it is set; below it, it goes on waiting. An access of the command processor is repeated when its page is
valid, a read as soon as its queue is served next. -/
def Obligations.LaunchTaking : Prop :=
  (∀ (s : State) (n : Nat), s.stalled = false → served s = true → nextQueue s = some n → goesOn s n = none →
      let q := getQueue s n
      let qentry := q.base + 128 * q.head
      let bs := readPhys s qentry 128
      let e := entryOf bs
      let u := freshUid s
      let l := newLaunch n q qentry e
      let t : State := { u.2 with launches := Tbl.put u.2.launches u.1 l }
      let refused (t : State) (code off : Nat) : State := modLaunch (advanceHead (launchRecord t u.1 l code off true) l) u.1
        (fun x => { x with state := .refused, donePending := true, cpWait := none })
      (∀ code off, entryBad bs e = some (code, off) → exec .launchTake s = .next (refused t code off))
      ∧ (∀ v, entryBad bs e = none → advanceLaunch t u.1 l = .next v → exec .launchTake s = .next (if v.stalled then t else v))
      ∧ (∀ x, entryBad bs e = none → getCtx t l.ctx = some x → behindRollback t u.1 l = false → e.waitAddr = 0 → e.install = 0 →
          let cs := eligibleCores t l
          let ready : Launch := { l with phase := 2 }
          let v : State := { t with launches := Tbl.put t.launches u.1 ready }
          let starts (v : State) : State :=
            let h := freshUid (advanceHead v ready)
            modLaunch h.2 u.1 (fun y => { y with
              state := .running, eligible := eligibleCores t l, waitingTeams := List.range y.e.teams, savedTeams := [], retired := 0,
              started := false, elapsed := 0, hbLeft := y.e.hbWindow, order := h.1, requeued := false, cursor := 0, cpWait := none })
          (cs = [] → exec .launchTake s = .next t)
          ∧ (cs ≠ [] → ∀ off, fitBad t l cs = some off → exec .launchTake s = .next (refused t 0x12 off))
          ∧ (cs ≠ [] → fitBad t l cs = none →
              (flagRestartable l = false → exec .launchTake s = .next (starts v))
              ∧ (flagRestartable l = true → x.armed ≠ none → exec .launchTake s = .next t)
              ∧ (flagRestartable l = true → x.armed = none → x.generation = 65535 → exec .launchTake s = .next (refuseLaunch v u.1 ready 0x12 23))
              ∧ (flagRestartable l = true → x.armed = none → x.generation ≠ 65535 → exec .launchTake s = .next
                  (starts (modCtx v l.ctx (fun x => { x with generation := x.generation + 1, armed := some u.1 })))))))
  ∧
  (∀ (s : State) (lid : Nat) (l : Launch) (x : Context), s.stalled = false → getLaunch s lid = some l → getCtx s l.ctx = some x →
      behindRollback s lid l = false →
      (l.state = .waiting → l.cpWait = none → served s = true → l.phase = 0 → l.e.waitAddr ≠ 0 →
        ∀ bs, deviceRead s x l.e.waitAddr 8 = .ok bs →
        let v := natOfBytes bs
        (v < 2 ^ 63 → v < l.e.waitValue → exec (.waitEventSatisfied lid) s = .next { s with stalled := true })
        ∧ (nextQueue s = some l.queue → goesOn s l.queue = some lid →
            (2 ^ 63 ≤ v → exec (.waitEventSatisfied lid) s = .next (modLaunch (advanceHead s l) lid
              (fun x => { x with state := .cancelled, donePending := true, cpWait := none })))
            ∧ (v < 2 ^ 63 → l.e.waitValue ≤ v →
                let past : Launch := { l with phase := 1 }
                ∀ u, afterEvent { s with launches := Tbl.put s.launches lid past } lid past x = .next u →
                  exec (.waitEventSatisfied lid) s = .next u)))
      ∧ (∀ addr write entry, l.cpWait = some (addr, write, entry) →
          let again : Launch := { l with cpWait := none }
          let t : State := { s with launches := Tbl.put s.launches lid again }
          let valid (p : Place) : Prop := translate s x (if write then .atomic else .read) (addr % 2 ^ 56) = .to p
          (∀ k, translate s x (if write then .atomic else .read) (addr % 2 ^ 56) = .absent k →
            exec (.cpMemoryRetry lid) s = .next { s with stalled := true })
          ∧ (∀ p u, valid p → write = true → exec (.launchComplete lid) t = .next u →
              exec (.cpMemoryRetry lid) s = .next (if u.stalled then t else u))
          ∧ (∀ p, valid p → write = false →
              (nextQueue t ≠ some l.queue → exec (.cpMemoryRetry lid) s = .next t)
              ∧ ∀ u, nextQueue t = some l.queue → advanceLaunch t lid again = .next u →
                exec (.cpMemoryRetry lid) s = .next (if u.stalled then t else u))))

/-- R259, R335, R336, R365, R375, R470: a launch whose teams have all retired is complete and adds done_add to its completion event; a
refused, cancelled or killed one sets bit 63 of it; its armed state ends. The watchdog makes a record for every instance of the launch's waves
and ends it, by a kill, or by a rollback where it may be restarted and a hardware error is held. A launch that is to be killed is
first stopped: its operand logs are emptied. Once it stands still, its teams and resources are freed and it is killed.

R464, R468: a launch that rolls back is first stopped; once it stands still and nothing of it is unacknowledged, it has the pages of its snapshot
restored, after the lines of them that peers hold are evicted, loses its resources and is enqueued again at the head of its
queue, without the core that is blamed. -/
def Obligations.LaunchEnds : Prop :=
  (∀ (s : State) (lid : Nat) (l : Launch), getLaunch s lid = some l →
      let ended (st : LaunchState) : State :=
        modCtx (modLaunch (disarm s lid l) lid (fun y => { y with state := st, donePending := false, cpWait := none })) l.ctx
          (fun x => { x with replays := x.replays.filter (fun r => r.1 != l.qentry) })
      let retired : Prop := l.state = .running ∧ l.retired = l.e.teams ∧ l.ending = none
      let written : Prop := l.e.doneAddr ≠ 0 ∧ l.e.doneAddr < 2 ^ 56 ∧ l.e.doneAddr % 8 = 0
      (l.cpWait = none →
        (l.e.doneAddr = 0 →
          (retired → exec (.launchComplete lid) s = .next (ended .complete))
          ∧ (l.state = .refused ∨ l.state = .cancelled ∨ l.state = .killed → l.donePending = true →
              exec (.launchComplete lid) s = .next (ended l.state)))
        ∧ ∀ x, getCtx s l.ctx = some x → written →
          (retired → ∀ u, deviceAtomic (ended .complete) x l.e.doneAddr 1 l.e.doneAdd = .ok u → exec (.launchComplete lid) s = .next u)
          ∧ (l.state = .refused ∨ l.state = .cancelled ∨ l.state = .killed → l.donePending = true →
              ∀ u, deviceAtomic (ended l.state) x l.e.doneAddr 3 (2 ^ 63) = .ok u → exec (.launchComplete lid) s = .next u))
      ∧ (∀ reason, watchReason l = some reason →
          let rb := flagRestartable l && hardwareHeld s l lid && decide (l.rollbacks < 3)
          exec (.watchdogFire lid) s = .next ((watchRecords s lid l reason).foldl (fun t r => writeFault t l.ctx r)
            (endLaunch s lid (if rb then .rollback none else .kill))))
      ∧ (l.state = .running → l.ending = some .kill →
          (l.stopped = false → exec (.launchKill lid) s = .next (stopLaunch s lid)
            ∧ ∀ p : Nat × Wave, p ∈ (stopLaunch s lid).waves →
                ∀ y, getTeam (stopLaunch s lid) p.2.team = some y → y.lid = lid → p.2.log = [])
          ∧ (l.stopped = true → launchStopped s lid l = true →
              exec (.launchKill lid) s = .next (modLaunch (freeLaunch s lid l) lid (fun y =>
                { y with state := .killed, donePending := true, waitingTeams := [], savedTeams := [], ending := none, stopped := false })))))
  ∧
  (∀ (s : State) (lid : Nat) (l : Launch) (x : Context) (blamed : Option Nat), getLaunch s lid = some l → getCtx s l.ctx = some x →
      l.ending = some (.rollback blamed) → l.state = .running →
      (l.stopped = false → exec (.launchRollback lid) s = .next (stopLaunch s lid))
      ∧ (l.stopped = true → launchStopped s lid l = true → launchQuiet s lid = true →
        let restored := if x.armed = some lid then restorePages s x else s
        (snapshotHeld s x = none → exec (.launchRollback lid) s = .next (modLaunch (disarm (freeLaunch restored lid l) lid l) lid (fun y =>
          { y with state := .waiting, phase := 1, installed := 0, requeued := true, ending := none, stopped := false,
                   rollbacks := y.rollbacks + 1, excluded := (match blamed with | some c => [c] | none => []) ++ y.excluded,
                   waitingTeams := [], savedTeams := [], eligible := [], retired := 0, started := false, elapsed := 0, hbLeft := 0,
                   cursor := 0 })))
        ∧ (∀ k, snapshotHeld s x = some k → exec (.launchRollback lid) s = evictLine s k ∧ Goes (evictLine s k))))

/-- R358 to R360, R485, R486: a host write of a queue's tail, once every earlier write of the host is performed, moves it forward over entries that
fit; otherwise, and on a queue that the device feeds, it is ignored and sets the queue's error bit.

R296, R297, R340, R359, R360, R379, R380, R466, R475, R483, R485, R486, R488: a read of the host through the memory window changes nothing. A write within one line
is performed under the class of its page, once no peer holds the line and no snapshot copy is due, and else, or behind another that waits, is posted; one outside
the live ranges is dropped. A 64-bit write of a register has its effect: a queue's base while the
queue is not enabled, its control word, a context's descriptor and parameters while the hub is ready, a ready stack's patrol control and drop word, the package limit in its
range, the error bits that a 1 clears. A queue, hub or stack that is not ready ignores a write. -/
def Obligations.QueueTailsAndHostAccesses : Prop :=
  (∀ (s : State) (n : Nat) (v : Dword),
      let q := getQueue s n
      let size := 2 ^ q.log2
      let tail := v.toNat % 2 ^ 16
      let used := (q.tail + 2 ^ 16 - q.head) % size
      let forward := (tail + 2 ^ 16 - q.tail) % size
      let fits : Prop := queueLive s n = true ∧ q.deviceFed = false ∧ tail < size ∧ forward ≤ size - 1 - used
      (s.hub.posted ≠ [] → exec (.qtailWrite n v) s = .next { s with stalled := true })
      ∧ (s.hub.posted = [] →
          (fits → exec (.qtailWrite n v) s = .next (modQueue s n (fun q => { q with tail := tail })))
          ∧ (¬fits → exec (.qtailWrite n v) s = .next (modHub s (fun h => { h with qerr := Nat.lor h.qerr (2 ^ (n % 64)) })))))
  ∧
  (∀ (s : State) (off len n : Nat) (v : Dword) (bs : List Byte),
      (off + len ≤ 2 ^ 36 → exec (.hostWindowAccess off none len) s = .next s)
      ∧ (let pa := s.hub.winBase + off
         let waits : Prop := hostMustWait s pa = true ∨ holdersOf s (pa / 128) ≠ [] ∨ s.hub.posted ≠ []
         bs.length = len → 0 < len → off + len ≤ 2 ^ 36 → pa % 128 + len ≤ 128 →
         (livePhys s pa = false → exec (.hostWindowAccess off (some bs) len) s = .next s)
         ∧ (livePhys s pa = true → waits → exec (.hostWindowAccess off (some bs) len) s
            = .next (modHub s (fun h => { h with posted := h.posted ++ [(pa, bs)] })))
         ∧ (livePhys s pa = true → ¬waits →
            exec (.hostWindowAccess off (some bs) len) s = .next (writePhysCls s (pageClass s pa) pa bs false)
            ∧ (∀ k (h : k < bs.length), byteAt (writePhysCls s (pageClass s pa) pa bs false) (pa + k) = bs[k])
            ∧ (∀ a, a < pa ∨ pa + len ≤ a → byteAt (writePhysCls s (pageClass s pa) pa bs false) a = byteAt s a)))
      ∧ (n < 64 →
          let q := getQueue s n
          let word := v.toNat
          (s.hub.queuesReady / 2 ^ n % 2 = 0 → ∀ r, r < 3 → exec (.registerWrite (0x10000 + 32 * n + 8 * r) v) s = .next s)
          ∧ (s.hub.queuesReady / 2 ^ n % 2 = 1 →
              (q.enable = false → word % 4096 = 0 → exec (.registerWrite (0x10000 + 32 * n) v) s
                = .next (modQueue s n (fun x => { x with base := word })))
              ∧ (q.enable = true ∨ word % 4096 ≠ 0 → exec (.registerWrite (0x10000 + 32 * n) v) s = .next s)
              ∧ (let ctx := if q.enable then q.ctx else word / 2 ^ 48 % 2 ^ 16
                 let log2 := word / 2 ^ 8 % 32
                 exec (.registerWrite (0x10000 + 32 * n + 8) v) s = .next (modQueue s n (fun _ =>
                  { q with ctx := ctx, log2 := if q.enable = false ∧ 4 ≤ log2 ∧ log2 ≤ 16 then log2 else q.log2, prio := word / 2 ^ 4 % 4,
                           deviceFed := if q.enable then q.deviceFed else decide (word / 2 ^ 3 % 2 = 1),
                           enable := decide (word % 2 = 1) && (getCtx s ctx).isSome }))))
          ∧ exec (.registerWrite (0x10000 + 32 * n + 24) v) s = exec (.qtailWrite n v) s)
      ∧ (1 ≤ n → n < 1024 →
          (s.hub.hubReady = false → ∀ r, r < 4 → exec (.registerWrite (0x20000 + 64 * n + 8 * r) v) s = .next s)
          ∧ (s.hub.hubReady = true →
            exec (.registerWrite (0x20000 + 64 * n) v) s = .next (modBlock s n (fun b => { b with cdesc := v }))
            ∧ exec (.registerWrite (0x20000 + 64 * n + 8) v) s = .next (modBlock s n (fun b => { b with param0 := v }))
            ∧ exec (.registerWrite (0x20000 + 64 * n + 16) v) s = .next (modBlock s n (fun b => { b with param1 := v }))))
      ∧ (n < 16 →
          let x := getStack s n
          let word := v.toNat
          let period := word / 2 % 2 ^ 10
          (s.hub.stacksReady / 2 ^ n % 2 = 0 → ∀ r, r < 8 → exec (.registerWrite (0x40000 + 64 * n + 8 * r) v) s = .next s)
          ∧ (s.hub.stacksReady / 2 ^ n % 2 = 1 →
            exec (.registerWrite (0x40000 + 64 * n) v) s = .next (setStack s n
              { x with enable := decide (word % 2 = 1), period := if 1 ≤ period ∧ period ≤ 720 then period else x.period })
            ∧ exec (.registerWrite (0x40000 + 64 * n + 32) v) s = .next (
                if word / 2 ^ 7 % 2 = 0 then setStack s n { x with dropCh := word % 64 }
                else if x.busy then setStack s n { x with result := 4 } else startDrop s n (word % 64))))
      ∧ exec (.registerWrite 0x410 v) s = .next (modHub s (fun h => { h with qerr := Nat.land h.qerr (2 ^ 64 - 1 - v.toNat) }))
      ∧ (400 ≤ v.toNat % 4096 → v.toNat % 4096 ≤ 2800 →
          exec (.registerWrite 0x800 v) s = .next (modHub s (fun h => { h with plimitNext := v.toNat % 4096 })))
      ∧ (v.toNat % 4096 < 400 ∨ 2800 < v.toNat % 4096 → exec (.registerWrite 0x800 v) s = .next s))

/-! ## Device events: teams -/

/-- R48, R365, R367 to R373, R391: the distributor's next move is made while queues are served and no pseudo-channel is dropped: a fresh team is
placed, or a split is asked for, by TEAM_PLACE; a saved team is placed by TEAM_RESTORE. A fresh team on a core holds the registers, the scratchpad, the
tiles and the slots that its launch's entry asks for, its waves wait to be cleared, and the core's L1 is empty.

R259, R367, R370: a team retires when every wave has exited and nothing of it is unfinished: its resources are free, its core offers
them, and the launch counts it.

R371, R372, R386 to R390, R482: a pending split takes effect once no granule of the rows that change hands is allocated, and L1 copies are
dropped where L1 shrinks. A team that is chosen, or any team while a pseudo-channel is dropped, is saved with those it must be saved with:
it leaves its core, its waves are kept, and it waits for placement again. -/
def Obligations.Teams : Prop :=
  (∀ (s : State), served s = true → (∀ k ∈ s.hbm, k.2.busy = false) →
      let r := nextMove s
      (r.1 ≠ s → savedKeys r.1 = savedKeys s → exec .teamPlace s = .next r.1)
      ∧ (r.1 = s → exec .teamPlace s = .next { s with stalled := true })
      ∧ (∀ key, r.2 = true → key ∈ savedKeys s → key ∉ savedKeys r.1 → exec (.teamRestore key) s = .next r.1)
      ∧ (∀ lid l idx c z t, lowestTeam l = some idx → seatOfTeam s lid l idx c = some z → placeOn s lid l c = some t →
          (∀ key y f ws, savedTeam s l idx = some (key, y, f, ws) → t = placeSaved s lid l key y f ws c z)
          ∧ (savedTeam s l idx = none →
              let key := (freshUid s).1
              let wids := seatWids c z
              getTeam t key
                  = some (newTeam lid idx c wids (l.e.waves * ceilDiv l.e.regs 8) (z.spad * 7936) l.e.spad z.acc l.e.acc z.table l.e.tslots)
                ∧ (∀ k ∈ wids, ∃ w, getWave t k = some w ∧ w.team = key ∧ w.ctl = .clearing ∧ w.held = l.stops)
                ∧ (getCore t c).l1 = [])))
  ∧
  (∀ (s : State) (key : Nat) (t : Team) (l : Launch), getTeam s key = some t → getLaunch s t.lid = some l → t.saved = none →
      teamWaves s key ≠ [] →
      ((∀ p ∈ teamWaves s key, p.2.ctl = .exited ∧ p.2.engine = [] ∧ p.2.stores = [] ∧ p.2.encoderPending = 0) →
        ∃ u, exec (.teamRetire key) s = .next u ∧ getTeam u key = none ∧ (∀ p ∈ u.waves, p.2.team ≠ key)
          ∧ (∃ m, getLaunch u t.lid = some m ∧ m.retired = l.retired + 1) ∧ t.core ∈ u.hub.freedCores ∧ (∀ a, byteAt u a = byteAt s a))
      ∧ ((∃ p ∈ teamWaves s key, p.2.ctl ≠ .exited) → exec (.teamRetire key) s = .next { s with stalled := true }))
  ∧
  (∀ (s : State) (c key : Nat),
      (∀ w, (getCore s c).pendingSplit = some w → (∀ t ∈ teamsOn s c, t.spadBase + t.spadSize ≤ w / 32 * 7936) →
        exec (.splitChange c) s = .next (setCore s c
          { getCore s c with split := w, pendingSplit := none, l1 := if (getCore s c).split < w then [] else (getCore s c).l1 }))
      ∧ (dropRunning s = true → ∀ t, saveTeams (savedWith s key) s = some t → exec (.teamSave key) s = .next t)
      ∧ (∀ p ks t, p ∈ waitingLaunches (requestSplits s) → chosenFor (requestSplits s) p = some ks → key ∈ ks →
          saveTeams (savedWith s key) s = some t → exec (.teamSave key) s = .next t)
      ∧ (∀ x l i base t, getTeam s key = some t → getLaunch s t.lid = some l → getCtx s l.ctx = some x → freeFrame x = some i →
          frameAt s x i = some base → t.saved = none → teamSavable s key = true →
          ∃ u y, saveTeam s key = some u ∧ getTeam u key = some y ∧ (∀ p ∈ u.waves, p.2.team ≠ key)
            ∧ y.saved = some (i, t.waves.filterMap (fun k => (getWave s k).map savedWave))
            ∧ ∃ m, getLaunch u t.lid = some m ∧ m.waitingTeams = t.index :: l.waitingTeams ∧ m.savedTeams = key :: l.savedTeams))

/-! ## Device events: contexts, replay and samples -/

/-- R331, R379 to R384, R398, R400, R474: a command written to a context's control block while the hub is ready and the block is not busy is done (result
0) or refused (result 1), and a refused one changes only the block. Every command but create is refused for a context that does not exist.
Create enters the context of a descriptor that R382 to R384 and R474 allow; destroy removes an idle context with its launches; unserviceable ends the launches that hold a
logged entry where the walk of the address stops; invalidate, once the accesses of the range are performed, leaves no cached entry of it,
so that every walk of an address of the range reads the tables in memory, and marks the block busy until then; replay enable enters a region for an
entry that has not been taken; generation reset makes the generation 1.

R346, R347, R350, R381: hold adds one stop to a control stream or a path, to a wave or to a launch that exists, with a trace record of
kind 7, and release takes one away, with one of kind 8; a release of what is not held, and level 3, are refused. A debug register takes a value that R345 to
R347 and R352 allow (debugOk), the others keep theirs, and any other value is refused. -/
def Obligations.ContextsAndDebug : Prop :=
  (∀ (s : State) (c : Nat), s.hub.hubReady = true → (getBlock s c).busy = false →
      let b := getBlock s c
      let base := b.param0.toNat
      let len := b.param1.toNat
      let done (code : Nat) (t : State) : Out := .next (modBlock t c (fun b => { b with command := code, busy := false, result := 0 }))
      let refused (code : Nat) : Out := .next (modBlock s c (fun b => { b with command := code, busy := false, result := 1 }))
      (getCtx s c = none → exec (.contextDestroy c) s = refused 2 ∧ exec (.contextHold c) s = refused 3 ∧ exec (.contextRelease c) s = refused 4
        ∧ exec (.unserviceable c) s = refused 5 ∧ exec (.invalidate c) s = refused 6 ∧ exec (.debugWrite c) s = refused 7
        ∧ exec (.replayEnable c) s = refused 8 ∧ exec (.resetGeneration c) s = refused 9)
      ∧ (let a := b.cdesc.toNat
         let may : Prop := c ≠ 0 ∧ c < 1024 ∧ getCtx s c = none ∧ a % 64 = 0 ∧ bytesPoisoned s a 64 = false
         let fits (x : Context) : Prop := areasOk s x = true ∧ ∀ p ∈ s.contexts, p.2.job ≠ x.job
         (¬may → exec (.contextCreate c) s = refused 1)
         ∧ (descriptorContext (readPhys s a 64) = none → exec (.contextCreate c) s = refused 1)
         ∧ ∀ x, descriptorContext (readPhys s a 64) = some x →
            (¬fits x → exec (.contextCreate c) s = refused 1)
            ∧ (may → fits x → exec (.contextCreate c) s = done 1 { s with contexts := Tbl.put s.contexts c x }))
      ∧ ∀ x, getCtx s c = some x →
        (contextIdle s c = true → exec (.contextDestroy c) s
          = done 2 { s with contexts := Tbl.del s.contexts c, launches := s.launches.filter (fun l => l.2.ctx != c) })
        ∧ (contextIdle s c = false → exec (.contextDestroy c) s = refused 2)
        ∧ (∀ entry, walkCtx s x (base % 2 ^ 56) = .absent entry → exec (.unserviceable c) s
            = done 5 ((s.launches.filter (fun p => p.2.ctx == c && p.2.state == .running)).foldl (fun s p =>
                match firstWaiting s p.1 entry with
                | some (wid, e) => endUnserviceable s p.1 p.2 wid e
                | none => s) s))
        ∧ ((∀ entry, walkCtx s x (base % 2 ^ 56) ≠ .absent entry) → exec (.unserviceable c) s = done 5 s)
        ∧ (base % 2 ^ 17 ≠ 0 ∨ len % 2 ^ 17 ≠ 0 → exec (.invalidate c) s = refused 6)
        ∧ (base % 2 ^ 17 = 0 → len % 2 ^ 17 = 0 →
            let t := dropTranslations s x.ptroot base len
            (rangeSettled s c base len = false → exec (.invalidate c) s
              = .next (modBlock s c (fun b => { b with command := 6, busy := true })))
            ∧ (rangeSettled s c base len = true → exec (.invalidate c) s = done 6 t
              ∧ ∀ va, (len = 0 ∨ (base ≤ va ∧ va < base + len)) → walkCtx t x va = walkCtx { t with translations := [] } x va))
        ∧ (let size := if len % 32 = 0 then 32 else len % 32
           let may : Prop := entryWaits s c base = true ∧ len < 2 ^ 56 ∧ len / 32 % 2 ^ 15 = 0 ∧ 20 ≤ size
           (may → exec (.replayEnable c) s = done 8 (modCtx s c (fun x =>
              { x with replays := (base, len / 2 ^ 20 * 2 ^ 20, size) :: x.replays.filter (fun r => r.1 != base) })))
           ∧ (¬may → exec (.replayEnable c) s = refused 8))
        ∧ exec (.resetGeneration c) s = done 9 (modCtx s c (fun x => { x with generation := 1 })))
  ∧
  (∀ (s : State) (c : Nat) (x : Context), getCtx s c = some x → s.hub.hubReady = true → (getBlock s c).busy = false →
      let b := getBlock s c
      let z := stoppedOf b
      let a : Actor := if z.lane then .path z.wid z.entry else .control z.wid
      let done (code : Nat) (t : State) : Out := .next (modBlock t c (fun b => { b with command := code, busy := false, result := 0 }))
      let refused (code : Nat) : Out := .next (modBlock s c (fun b => { b with command := code, busy := false, result := 1 }))
      let none_ := exec (.contextHold c) s = refused 3 ∧ exec (.contextRelease c) s = refused 4
      (launchAt s c z.qentry = none → none_)
      ∧ (z.level = 3 → none_)
      ∧ (∀ lid l, launchAt s c z.qentry = some (lid, l) →
        (∀ w n, z.level = 0 → getWave s z.wid = some w → (launchOf s w).map (fun p => p.1) = some lid → actorHeld s a = some n →
          exec (.contextHold c) s = done 3 (stopTrace (holdActor s a) c z 7) ∧ actorHeld (holdActor s a) a = some (0 :: n)
          ∧ (0 ∈ n → exec (.contextRelease c) s = done 4 (stopTrace (releaseActor s a) c z 8) ∧ actorHeld (releaseActor s a) a = some (n.erase 0))
          ∧ (0 ∉ n → exec (.contextRelease c) s = refused 4))
        ∧ (z.level = 0 → actorHeld s a = none → none_)
        ∧ (∀ w, z.level = 1 → getWave s z.wid = some w → (launchOf s w).map (fun p => p.1) = some lid →
            exec (.contextHold c) s = done 3 (stopTrace (setWave s z.wid { w with
              held := 1 :: w.held, stops := 1 :: w.stops, paths := w.paths.map (fun p => (p.1, { p.2 with held := 1 :: p.2.held })),
              conts := w.conts.map (fun k => (k.1, { k.2 with held := 1 :: k.2.held })) }) c z 7)
            ∧ (1 ∈ w.stops → exec (.contextRelease c) s = done 4 (stopTrace (setWave s z.wid { w with
                held := w.held.erase 1, stops := w.stops.erase 1, paths := w.paths.map (fun p => (p.1, releasePath 1 p.2)),
                conts := w.conts.map (fun k => (k.1, { k.2 with held := k.2.held.erase 1 })) }) c z 8))
            ∧ (1 ∉ w.stops → exec (.contextRelease c) s = refused 4))
        ∧ (z.level = 0 ∨ z.level = 1 → (∀ w, getWave s z.wid = some w → (launchOf s w).map (fun p => p.1) ≠ some lid) → none_)
        ∧ (z.level = 2 →
            exec (.contextHold c) s = done 3 (stopTrace (modLaunch (modLaunchWaves s lid (holdWave 2)) lid
              (fun l => { l with stops := 2 :: l.stops })) c z 7)
            ∧ (2 ∈ l.stops → exec (.contextRelease c) s = done 4 (stopTrace (modLaunch (modLaunchWaves s lid (releaseWave 2)) lid
              (fun l => { l with stops := l.stops.erase 2 })) c z 8))
            ∧ (2 ∉ l.stops → exec (.contextRelease c) s = refused 4)))
      ∧ (let n := b.param0.toNat % 256
         (debugOk x n b.param1.toNat = true → exec (.debugWrite c) s = done 7 (modCtx s c (fun x => { x with debug := Cells.set 0 x.debug n b.param1 }))
            ∧ (∃ y, getCtx (modCtx s c (fun x => { x with debug := Cells.set 0 x.debug n b.param1 })) c = some y
              ∧ Cells.get 0 y.debug n = b.param1 ∧ ∀ m, m ≠ n → Cells.get 0 y.debug m = Cells.get 0 x.debug m))
         ∧ (debugOk x n b.param1.toNat = false → exec (.debugWrite c) s = refused 7)))

/-- R354 to R357: an interval of a launch whose replay is enabled starts at a boundary of the wave: its number rises, and the interval before
it is closed; while the next interval is due, no instance of the wave issues. The replay of a closed interval performs the stores of the logged run, in
their order, and ends with status fault (2) where the run met one, else complete (0). A sample tick writes a sample for each wave of a
context whose sampling is on. -/
def Obligations.ReplayEvents : Prop :=
  ∀ (s : State) (wid : Nat) (w : Wave) (lid : Nat) (l : Launch) (t : Team) (base log2 : Nat), getWave s wid = some w →
    launchOf s w = some (lid, l) → getTeam s w.team = some t →
    (replayOf s l = some (base, log2) → w.ctl ≠ .exited → w.ctl ≠ .clearing → launchLive s w = true →
      ∃ u v z, exec (.replayIntervalStart wid) s = .next u ∧ getWave u wid = some v ∧ v.interval = w.interval + 1 ∧ v.intervalDue = false
        ∧ u.intervals = s.intervals.map (fun y => if y.lid = lid ∧ y.wave = waveIndex t l w ∧ y.status = 0 then { y with status := 1 } else y) ++ [z]
        ∧ z.lid = lid ∧ z.wave = waveIndex t l w ∧ z.number = w.interval + 1 ∧ z.start = w ∧ z.stores = [] ∧ z.log = [] ∧ z.status = 0)
    ∧ (replayOf s l = some (base, log2) → w.interval = 0 ∨ w.intervalDue = true → ∀ a, actorWave a = wid → mayIssue s a = false)
    ∧ (∀ wave interval out z, s.intervals.find? (fun z => z.lid == lid && z.wave == wave && z.number == interval) = some z →
        (z.status ≠ 0 → ∃ u, exec (.replayRun lid wave interval out) s = .next u ∧ u.replayed = z.stores
          ∧ u.replayStatus = if z.status = 2 then 2 else 0)
        ∧ (z.status = 0 → exec (.replayRun lid wave interval out) s = .next { s with stalled := true }))
    ∧ (∀ c x, getCtx s c = some x →
        ((Cells.get 0 x.debug 24).toNat / 2 ^ 13 % 32 ≠ 0 → exec (.traceSampleTick c) s
          = .next ((s.waves.filter (fun p => ctxOf s p.2 == some c)).foldl (fun t p =>
              match launchOf s p.2 with | some (_, l) => sampleWave t c p.1 p.2 l | none => t) s))
        ∧ ((Cells.get 0 x.debug 24).toNat / 2 ^ 13 % 32 = 0 → exec (.traceSampleTick c) s = .next { s with stalled := true }))

/-! ## Device events: packets at their home and at their initiator -/

/-- R406, R409, R425: a packet that no junction die may pass is dropped and counted on its plane; one of another package goes on when a usable
path leads there, and is else lost.

R332, R399, R413, R414, R418, R421: a request is acted on at its home. A read is answered with its line, and its reader is entered in
the directory, after the fifth holder is told to drop the line. A write or masked write, once no peer holds the line, is performed, recorded where it
is a release, and acknowledged. An atomic is performed once for its tag, is answered from the record when it comes again, and with poison where
it meets poison. An invalidation drops the copy, and a read of the line under way makes none; it is acknowledged. A job without a context is
refused (reason 2), a page that is not present too (reason 0, with a record), and an access that the page does not allow (reason 1). -/
def Obligations.RequestPackets : Prop :=
  (∀ (s : State) (p : Packet),
      let kinds : List (Nat × Instr) := [(1, .readPacket p), (2, .readData p), (3, .writePacket p), (4, .maskedWrite p), (5, .atomicPacket p),
        (6, .atomicResult p), (7, .writeAcknowledgment p), (8, .refusal p), (9, .invalidatePacket p), (10, .invalidateAcknowledgment p),
        (11, .messagePacket p), (12, .messageAcknowledgment p), (13, .emittedPacket p), (14, .managementPacket p)]
      (packetOk p = false → ∀ k ∈ kinds, exec k.2 s = .next (countDropped s p.plane))
      ∧ (packetOk p = true → p.dest ≠ s.pkg → p.kind ≠ 13 → ∀ k ∈ kinds, p.kind = k.1 →
          (pathUsable s p.plane p.dest p.path = true → exec k.2 s = .next (modFabric s (fun f => { f with out := f.out ++ [p] })))
          ∧ (pathUsable s p.plane p.dest p.path = false → exec k.2 s = .next s)))
  ∧
  (∀ (s : State) (p : Packet), packetOk p = true → p.dest = s.pkg →
      let n := natOfBytes (p.payload.take 8)
      let width := n / 2 ^ 8 % 256
      let fresh : Prop := List.find? (fun a : Nat × Nat × Nat × Nat => a.1 == p.source && a.2.1 == p.plane && a.2.2.1 == p.tag) s.fabric.atomAnswers = none
        ∧ atomicOk p = true
      let asks (i : Instr) (want : Want) : Prop :=
        (ctxWithJob s p.job = none → exec i s = .next (refusePacket s p 2))
        ∧ ∀ c x, ctxWithJob s p.job = some (c, x) →
          (∀ a k, deviceTarget s x want p.addr = .error (.absent a k) →
            exec i s = .next (refusePacket (refusalRecord s c 0x0A p.plane p.addr (wantWrites want)) p 0))
          ∧ (∀ a, deviceTarget s x want p.addr = .error (.denied a) → exec i s = .next (refusePacket s p 1))
      let found (want : Want) (pa cls : Nat) : Prop :=
        ∃ c x, ctxWithJob s p.job = some (c, x) ∧ deviceTarget s x want p.addr = .ok (.glob pa cls)
      let released (line : Nat) (t : State) : State :=
        if p.ordered = true ∧ t.fabric.released.contains (line, p.source) = false then
          modFabric t (fun f => { f with released := f.released ++ [(line, p.source)] })
        else t
      let write (i : Instr) : Prop := ∀ pa cls, found .write pa cls →
        (holdersOf s (pa / 128) ≠ [] → exec i s = evictLine s (pa / 128) ∧ Goes (evictLine s (pa / 128)))
        ∧ (holdersOf s (pa / 128) = [] →
            let t := (packetRuns p).foldl (fun s r => writePlace s (.glob (pa / 128 * 128 + r.1) cls) r.2 p.poisoned) s
            exec i s = .next (sendReply (released (pa / 128) t) p 0x07 false []))
      (p.kind = 1 → asks (.readPacket p) .read ∧ ∀ pa cls, found .read pa cls →
        let line := Place.glob (pa / 128 * 128) cls
        let hs := holdersOf s (pa / 128)
        let others := hs.filter (fun h => h.1 != p.source)
        let many : Prop := 4 ≤ (others.map (fun h => h.1)).eraseDups.length
        let reader := (p.source, p.job, p.addr / 128 * 128)
        (¬many → exec (.readPacket p) s = .next (sendReply (modFabric s (fun f =>
            { f with directory := Tbl.put f.directory (pa / 128) (hs.filter (fun k => k != reader) ++ [reader]) }))
            p 0x02 (placePoisoned s line 128) (readBase s line 128)))
        ∧ (∀ h r, many → others = h :: r →
            exec (.readPacket p) s = evictSome s (hs.filter (fun k => k.1 == h.1)) ∧ Goes (exec (.readPacket p) s)))
      ∧ (p.kind = 3 → asks (.writePacket p) .write ∧ write (.writePacket p))
      ∧ (p.kind = 4 → asks (.maskedWrite p) .write ∧ write (.maskedWrite p))
      ∧ (p.kind = 5 →
          (∀ a b d old, List.find? (fun a : Nat × Nat × Nat × Nat => a.1 == p.source && a.2.1 == p.plane && a.2.2.1 == p.tag)
              s.fabric.atomAnswers = some (a, b, d, old) → exec (.atomicPacket p) s = .next (atomicReply s p false old))
          ∧ (fresh → asks (.atomicPacket p) .atomic)
          ∧ ∀ pa cls, fresh → found .atomic pa cls →
            let place := Place.glob pa cls
            (holdersOf s (pa / 128) ≠ [] → exec (.atomicPacket p) s = evictLine s (pa / 128) ∧ Goes (evictLine s (pa / 128)))
            ∧ (holdersOf s (pa / 128) = [] → placePoisoned s place width = true → exec (.atomicPacket p) s = .next (atomicReply s p true 0))
            ∧ (holdersOf s (pa / 128) = [] → placePoisoned s place width = false →
                let old := natOfBytes (readBase s place width)
                let opnd := natOfBytes ((p.payload.drop 8).take 8)
                let cmp := natOfBytes ((p.payload.drop 16).take 8)
                let op := if n % 256 = 15 then AtomicOp.cas else atomicOf (n % 256)
                let t := if op = .cas ∧ old ≠ cmp % 2 ^ (8 * width) then s
                  else writePlace s place (bytesOfNat width (atomicNew op (8 * width) old opnd cmp).1) false
                exec (.atomicPacket p) s = .next (atomicReply (modFabric (released (pa / 128) t) (keepAnswer p old)) p false old)))
      ∧ (p.kind = 9 →
          let mine (x : Sent) : Bool := x.pkt.kind == 1 && x.pkt.dest == p.source && x.pkt.job == p.job && x.pkt.addr / 128 == p.addr / 128
          exec (.invalidatePacket p) s = .next (sendReply (modFabric (dropCopy s (p.job * 65536 + p.source) p.addr) (fun f =>
            { f with sent := f.sent.map (fun y => if mine y.2 then (y.1, { y.2 with stale := true }) else y) })) p 0x0A false [])))

/-- R199, R245, R332, R333, R411, R412, R414, R415, R421: an answer settles the packet that it belongs to. Data reaches the lanes that asked, and
a copy of the line is kept, unless the load allocates none, a write of this package to the line is unacknowledged or the line has been asked
back. The result of an atomic reaches its lane, or the tile that took space by it, or sets the flags of one that returns nothing, which a poisoned one
faults. A write acknowledgment and a message acknowledgment end what they answer; an invalidation's takes the holder from the
directory. A refusal of reason 0 delays the packet by its hint; another makes its load's data poisoned, drops its store with 0x0B in
ASYNCERR, and ends its message with 0x0C. A delayed packet goes out again when its delay is over and no earlier one to its line or ring
waits. An answer to nothing changes nothing. -/
def Obligations.AnswerPackets : Prop :=
  ∀ (s : State) (p : Packet), packetOk p = true → p.dest = s.pkg →
    let old := natOfBytes (p.payload.take 8)
    let n := natOfBytes (p.payload.take 2)
    ((p.kind = 2 → answered s p [1] = none → exec (.readData p) s = .next s)
      ∧ (p.kind = 6 → answered s p [5] = none → exec (.atomicResult p) s = .next s)
      ∧ (p.kind = 7 → answered s p [3, 4] = none → exec (.writeAcknowledgment p) s = .next s)
      ∧ (p.kind = 8 → answered s p [1, 3, 4, 5] = none → exec (.refusal p) s = .next s)
      ∧ (p.kind = 10 → answered s p [9] = none → exec (.invalidateAcknowledgment p) s = .next s)
      ∧ (p.kind = 12 → answered s p [0x0B] = none → exec (.messageAcknowledgment p) s = .next s))
    ∧ (∀ id x, p.kind = 2 → answered s p [1] = some (id, x) →
        let hint := match x.purpose with | .load uid seq => loadHint s uid seq | _ => 0
        let done := settled s id
        let kept := if x.stale = false ∧ hint ≠ 3 ∧ lineBusy done (peerOf x.pkt) x.pkt.addr = false then
          keepCopy done (peerOf x.pkt) x.pkt.addr hint p.payload p.poisoned else done
        (∀ uid seq, x.purpose = .load uid seq → exec (.readData p) s = .next (fillLoad x p.payload p.poisoned uid seq kept))
        ∧ ((∀ uid seq, x.purpose ≠ .load uid seq) → exec (.readData p) s = .next kept))
    ∧ (∀ id x, p.kind = 6 → answered s p [5] = some (id, x) →
        (∀ uid seq lane, x.purpose = .rmw uid seq lane →
          exec (.atomicResult p) s = .next (modUid (settled s id) uid (setAccLanes seq (fun l =>
            some (if l.lane = lane then { l with ready := if p.poisoned then none else some old, bad := p.poisoned } else l)))))
        ∧ (∀ team uid tid desc row col, x.purpose = .encode team uid tid desc row col →
          exec (.atomicResult p) s = .next (fillAppend (settled s id) team uid tid desc row col old p.poisoned))
        ∧ (∀ uid seq, x.purpose = .store uid seq →
          (p.poisoned = false → exec (.atomicResult p) s = .next (dropCarried (atomicFlags (settled s id) uid id old) uid id))
          ∧ (p.poisoned = true → ∀ k w b r, List.find? (fun p : Nat × Wave => p.2.uid == uid) s.waves = some (k, w) → carried s uid id = b :: r →
              exec (.atomicResult p) s = .next (resultPoisoned (dropCarried (settled s id) uid id) b))))
    ∧ (∀ id x, p.kind = 7 → answered s p [3, 4] = some (id, x) →
        (∀ uid seq, x.purpose = .store uid seq → exec (.writeAcknowledgment p) s
          = .next (modUid (settled s id) uid (fun w => { w with stores := w.stores.filter (fun b => b.sent != some id) })))
        ∧ ((∀ uid seq, x.purpose ≠ .store uid seq) → exec (.writeAcknowledgment p) s = .next (settled s id)))
    ∧ (∀ id x, p.kind = 8 → answered s p [1, 3, 4, 5] = some (id, x) →
        (n / 2 ^ 8 = 0 → exec (.refusal p) s = .next (modFabric s (fun f =>
          { f with sent := Tbl.modify f.sent id (fun x => { x with retry := some (1400 * max n 1) }) })))
        ∧ (n / 2 ^ 8 ≠ 0 → exec (.refusal p) s = .next (failSent s id x)))
    ∧ (∀ id x,
        (∀ uid seq, x.purpose = .load uid seq → failSent s id x = fillLoad x [] true uid seq (settled s id))
        ∧ (∀ uid seq, x.purpose = .store uid seq → failSent s id x = modUid (dropCarried (settled s id) uid id) uid (asyncError 0x0B x.pkt.dest))
        ∧ (∀ uid op c k, x.purpose = .message uid op c k → failSent s id x = messageOver (settled s id) x true))
    ∧ (∀ id x, p.kind = 10 → answered s p [9] = some (id, x) →
        exec (.invalidateAcknowledgment p) s = .next (modFabric (settled s id) (fun f => { f with directory :=
          (f.directory.map (fun d => (d.1, d.2.filter (fun k => k != (x.pkt.dest, x.pkt.job, x.pkt.addr))))).filter (fun d => !d.2.isEmpty) })))
    ∧ (∀ id x, p.kind = 12 → answered s p [0x0B] = some (id, x) →
        (n % 256 = 1 → exec (.messageAcknowledgment p) s = .next (modFabric s (fun f =>
          { f with sent := Tbl.modify f.sent id (fun x => { x with retry := some (1400 * max (n / 256) 1) }) })))
        ∧ (n % 256 ≠ 1 → exec (.messageAcknowledgment p) s = .next (messageOver (settled s id) x (n % 256 == 2))))
    ∧ (∀ id x uid op c k failed, x.purpose = .message uid op c k → messageOver (settled s id) x failed
        = modUid (modCtx (settled s id) c (fun y => { y with inflight := Cells.set 0 y.inflight k (Cells.get 0 y.inflight k - x.pkt.length) })) uid
            (fun w =>
              let w := { w with engine := w.engine.filter (fun e => e.id != op) }
              if failed then asyncError 0x0C x.pkt.dest w else w))
    ∧ (∀ id x, Tbl.find? s.fabric.sent id = some x → x.retry = some 0 → x.lost = false → pathUsable s x.pkt.plane x.pkt.dest x.pkt.path = true →
        (∀ y ∈ s.fabric.sent, y.1 < id → y.2.retry ≠ none → y.2.pkt.dest = x.pkt.dest →
          ¬(memoryKind y.2.pkt.kind = true ∧ memoryKind x.pkt.kind = true ∧ y.2.pkt.addr / 128 = x.pkt.addr / 128)
          ∧ ¬(y.2.pkt.kind = 0x0B ∧ x.pkt.kind = 0x0B ∧ y.2.pkt.tag = x.pkt.tag)) →
        exec (.retryAfterResend id) s
          = .next (modFabric s (fun f => { f with sent := Tbl.put f.sent id { x with retry := none }, out := f.out ++ [x.pkt] })))

/-- R409, R419, R420, R428, R430 to R432, R437: a message in its turn is offered to the box that it matches, or placed in its ring and answered;
without a context or a ring it is answered as refused (2), and without a buffer refused to be sent again; one that
was placed before is answered again, and one ahead of its turn, or behind one that its ring holds, waits. An emitted packet is offered to the
box that it matches, or goes into the ring of its flow, or is dropped and counted. A management packet's entries are written to the
routes, those of retired ports being removed. A held message is offered to placement again when its delay
is over. An idle box starts its kernel over the oldest packet
offered to it.

R402, R408, R424 to R428, R436, R500: a link's replays, margins and retraining are counted; a link without lanes or a retired port takes
its route entries out of use; a plane without ports is neither live nor ready, its boxes lose their kernels and bindings, and the host has its interrupt; a new map of live planes is
installed once every packet of the planes it changes is answered or lost, which then are; a lost packet goes out again on a usable path of the plane that the
map names, behind no earlier one of its order; an unreachable package holds no line any more, and every packet that waits for it fails. -/
def Obligations.MessagesAndLinks : Prop :=
  (∀ (s : State) (p : Packet) (box : Nat),
      (packetOk p = true → p.dest = s.pkg →
        let ahead := (p.seq + 65536 - Cells.get 0 s.fabric.seqIn (seqKey p.source p.tag)) % 65536
        let held := s.fabric.heldMsgs.any (fun h => h.pkt.tag == p.tag && h.pkt.job == p.job)
        let free (t : State) : State := modFabric t (fun f => { f with heldMsgs := f.heldMsgs.filter (fun h => !(h.pkt == p)) })
        (p.kind = 11 → ahead = 0 →
          (messageInBox s p = true → exec (.messagePacket p) s = .next s)
          ∧ (messageInBox s p = false → held = true → exec (.messagePacket p) s = .next { s with stalled := true })
          ∧ (messageInBox s p = false → held = false →
            (∀ sel b, matchBox s p 0 = some (sel, b) →
              exec (.messagePacket p) s = .next (setBox s sel { getBox s sel with offered := (getBox s sel).offered ++ [(p, b, 0)] }))
            ∧ (matchBox s p 0 = none → ctxWithJob s p.job = none → exec (.messagePacket p) s = .next (answerMessage (free s) p 2 0))
            ∧ (∀ c x, matchBox s p 0 = none → ctxWithJob s p.job = some (c, x) →
              (ringOf x p.tag = none → exec (.messagePacket p) s = .next (answerMessage (free s) p 2 0))
              ∧ ∀ k, ringOf x p.tag = some k →
                (∀ t, placeRing s c x k p.source p.addr p.payload p.poisoned = .placed t →
                  exec (.messagePacket p) s = .next (answerMessage (free t) p 0 0))
                ∧ (placeRing s c x k p.source p.addr p.payload p.poisoned = .noBuffer →
                  exec (.messagePacket p) s = .next (refuseMessage s p false)))))
        ∧ (p.kind = 11 → 0 < ahead → ahead < 32768 → exec (.messagePacket p) s = .next { s with stalled := true })
        ∧ (p.kind = 11 → 32768 ≤ ahead → ∀ a b d n,
            List.find? (fun a : Nat × Nat × Nat × Nat => a.1 == p.source && a.2.1 == p.tag && a.2.2.1 == p.seq) s.fabric.msgAnswers = some (a, b, d, n) →
            exec (.messagePacket p) s = .next (sendReply s p 0x0C false (bytesOfNat 2 n ++ List.replicate 30 0)))
        ∧ (p.kind = 13 →
            (∀ sel b, matchBox s p 0 = some (sel, b) →
              exec (.emittedPacket p) s = .next (setBox s sel { getBox s sel with offered := (getBox s sel).offered ++ [(p, b, 0)] }))
            ∧ (matchBox s p 0 = none → ctxWithJob s p.job = none → exec (.emittedPacket p) s = .next (countDropped s p.plane))
            ∧ (∀ c x, matchBox s p 0 = none → ctxWithJob s p.job = some (c, x) →
              (ringOf x p.tag = none → exec (.emittedPacket p) s = .next (countDropped s p.plane))
              ∧ ∀ k, ringOf x p.tag = some k →
                (∀ t, placeRing s c x k p.source p.addr p.payload p.poisoned = .placed t → exec (.emittedPacket p) s = .next t)
                ∧ (placeRing s c x k p.source p.addr p.payload p.poisoned = .noBuffer → exec (.emittedPacket p) s = .next (countDropped s p.plane))))
        ∧ (p.kind = 14 →
            let enter (t : Tbl Nat) (r : Nat × Nat) : Tbl Nat :=
              if r.2 < 64 ∧ (getPort s r.2).retired = false then Tbl.put t r.1 r.2 else Tbl.del t r.1
            exec (.managementPacket p) s
              = .next (modFabric s (fun f => { f with routes := (Config.routeUpdate p.payload).foldl enter f.routes }))))
      ∧ (∀ ring job h t, List.find? (fun h : HeldMsg => h.pkt.tag == ring && h.pkt.job == job) s.fabric.heldMsgs = some h →
          (h.left ≠ 0 → exec (.heldMessageRetry ring job) s = .next { s with stalled := true })
          ∧ (h.left = 0 → placeMessage s h.pkt true = .next t → exec (.heldMessageRetry ring job) s = .next (orIdle s t)))
      ∧ (∀ q b stage rest, (getBox s box).run = none → (getBox s box).offered = (q, b, stage) :: rest →
          exec (.boxPacketRun box) s = .next (setBox s box { getBox s box with offered := rest, run := some (startRun q b stage) })))
  ∧
  (∀ (s : State) (port n margin : Nat), port < 64 →
      let retires (t : State) : State :=
        modFabric (modPort t port (fun x => { x with retired := true })) (fun f => { f with routes := f.routes.filter (fun r => r.2 != port) })
      (0 < n → exec (.linkReplay port n) s = .next (modPort s port (fun x => { x with corrected := countUp x.corrected n })))
      ∧ exec (.linkEyeUpdate port margin) s = .next (modPort s port (fun x => { x with margin := min 255 margin }))
      ∧ (n = 0 ∨ n = 1 ∨ n = 2 ∨ n = 4 →
          let t := modPort s port (fun x => { x with lanes := n, retrains := countUp x.retrains 1, margin := min 255 margin })
          exec (.linkRetrain port n margin) s = .next (if n = 0 then retires t else t))
      ∧ ((getPort s port).retired = false → exec (.portRetire port) s = .next (retires s))
      ∧ (∀ plane, plane < 8 → planeLive s plane = true → (∀ k, k < 8 → (getPort s (plane * 8 + k)).retired = true) →
          let t := modHub s (fun h =>
            { h with planesLive := h.planesLive - 2 ^ plane, planesReady := h.planesReady - h.planesReady / 2 ^ plane % 2 * 2 ^ plane })
          exec (.planeDead plane) s = .next (raiseMsi ((planeBoxes plane).foldl dropBox t) 0)
          ∧ planeLive t plane = false
          ∧ ∀ u sel, (getBox (dropBox u sel) sel).kernel = [] ∧ (getBox (dropBox u sel) sel).bindings = [])
      ∧ (∀ map, map.length = 8 → (∀ q ∈ map, q < 8 ∧ planeLive s q = true) →
          let changes (x : Nat × Sent) : Bool := (changedPlanes s map).contains (logicalOf x.2.pkt)
          changedPlanes s map ≠ [] →
          (∀ x ∈ s.fabric.sent, changes x = true → x.2.lost = true ∨ pathUsable s x.2.pkt.plane x.2.pkt.dest x.2.pkt.path = false) →
          exec (.planeMapChange map) s = .next (modHub (modFabric s (fun f =>
              { f with sent := f.sent.map (fun x => if changes x then (x.1, { x.2 with lost := true }) else x) }))
            (fun h => { h with planeMap := map, mapVersion := (h.mapVersion + 1) % 2 ^ 24 })))
      ∧ (∀ id path x, Tbl.find? s.fabric.sent id = some x → path < 4 →
          let plane := physPlane s (logicalOf x.pkt)
          x.lost = true ∨ pathUsable s x.pkt.plane x.pkt.dest x.pkt.path = false ∨ x.pkt.plane ≠ plane →
          (∀ y ∈ s.fabric.sent, y.1 < id → isLost s y.2 = true → sameOrder y.2.pkt x.pkt = false) → pathUsable s plane x.pkt.dest path = true →
          let q : Packet := { x.pkt with plane := plane, path := path }
          let again : Sent := { x with pkt := q, lost := false, retry := none }
          exec (.lostPacketResend id path) s = .next (modFabric s (fun f => { f with sent := Tbl.put f.sent id again, out := f.out ++ [q] })))
      ∧ (∀ pkg, pkg ≠ s.pkg → pkg < 4096 → s.fabric.unreachable.contains pkg = false →
          let t := modFabric s (fun f => { f with unreachable := f.unreachable ++ [pkg], directory :=
            (f.directory.map (fun d => (d.1, d.2.filter (fun h => h.1 != pkg)))).filter (fun d => !d.2.isEmpty) })
          exec (.packageUnreachable pkg) s = .next ((t.fabric.sent.filter (fun x => x.2.pkt.dest == pkg)).foldl (fun t x => failSent t x.1 x.2) t)))

/-! ## Device events: memory service, power, counters, field test, bring-up and the host -/

/-- R474 to R478, R480 to R482: a patrol read steps its stack's pass, counts what it corrects, for the channel, its bank and its row, and counts
and poisons a line that it cannot correct; the counts of the on-die scrub are added. A drop of a channel that is live, not in use and not the
last starts, and any other is refused with its reason; it saves every team that is placed, then takes the channel out of service.

R488 to R490, R494, R495, R497, R498: an epoch puts the package limit into force, gives the thermal field and marks the dies at 105 °C or more as
hot; a trip stops the serving of queues and kills every launch that is under way, with a record; a select word that fits in 32 bits is written and clears its counter, the increments
that meet the clear being lost, and any other is ignored; the time series writes
a frame that fits its ring whole, and counts one that does not. (The shares of dies and stacks, and what the busy and stall counters
advance by, are free values of the model: log entries 2 and 30.) -/
def Obligations.MemoryServiceAndPower : Prop :=
  (∀ (s : State) (k channel line : Nat) (banks : List Nat), k < 16 →
      let x := getStack s k
      (x.enable = true → channel ∈ dataChannels x → line < chanLines →
        let total := (dataChannels x).length * chanLines
        let y : Stack :=
          if x.progress + 1 < total then { x with progress := x.progress + 1 } else { x with progress := 0, passes := x.passes + 1 }
        exec (.patrolRead k channel line .clean) s = .next (setStack s k y)
        ∧ (∀ row bank, exec (.patrolRead k channel line (.corrected row bank)) s
            = .next (setStack s k (rowCount channel row (bankCount channel bank 1 (chanCount channel 0 1 y)))))
        ∧ (∀ l, physLine y k channel line = some l → ∃ t, exec (.patrolRead k channel line .uncorrectable) s = .next t
            ∧ getStack t k = chanCount channel 1 1 y ∧ linePoisoned t l = true ∧ (∀ m, m ≠ l → getTag t m = getTag s m) ∧ t.mem = s.mem)
        ∧ (physLine y k channel line = none →
            exec (.patrolRead k channel line .uncorrectable) s = .next (setStack s k (chanCount channel 1 1 y))))
      ∧ (channel ∈ reservedChannels x → banks.length ≤ 32 →
          exec (.ecsCountRead k channel banks) s = .next (setStack s k (banks.zipIdx.foldl (fun x b => bankCount channel b.2 b.1 x)
            (chanCount channel 2 (banks.foldl (fun a b => a + b) 0) x))))
      ∧ (x.busy = false →
          let ch := (failingChannel s k).getD x.dropCh
          let ends (y : Stack) : Prop := exec (.pseudoChannelDrop k) s = .next (setStack s k y)
          let live : Prop := x.live / 2 ^ ch % 2 = 1
          (¬live → ends { x with dropCh := ch, result := 1 })
          ∧ (live → reservedInUse s k ch = true → ends { x with dropCh := ch, result := 2 })
          ∧ (live → reservedInUse s k ch = false → x.live = 2 ^ ch → ends { x with dropCh := ch, result := 3 })
          ∧ (live → reservedInUse s k ch = false → x.live ≠ 2 ^ ch → ends { x with dropCh := ch, busy := true, result := 0 }))
      ∧ (x.busy = true → (∀ t ∈ s.teams, t.2.saved ≠ none) →
          let t := writeBackRange s (k * 64 * gib) ((k + 1) * 64 * gib)
          let y := getStack t k
          exec (.pseudoChannelDrop k) s
            = .next (raiseMsi (setStack t k { y with live := y.live - 2 ^ y.dropCh, busy := false, result := 0 }) 0))
      ∧ (x.busy = true → ∀ t, (∃ u ∈ s.teams, u.2.saved = none) →
          saveTeams ((s.teams.filter (fun t => t.2.saved.isNone)).map (fun t => t.1)) s = some t → exec (.pseudoChannelDrop k) s = .next t))
  ∧
  (∀ (s : State) (dies hbm temps : List Nat) (i : Nat) (v : Dword),
      (∃ t, exec (.powerEpoch dies hbm temps) s = .next t ∧ t.hub.plimit = s.hub.plimitNext
        ∧ t.hub.thermal = (if s.hub.thermal = 2 then 2 else if ∃ d ∈ temps, 105 ≤ d then 1 else if s.hub.thermal = 1 ∧ ∃ d ∈ temps, 100 ≤ d then 1 else 0)
        ∧ (∀ d, d ∈ t.hub.hot ↔ d < 8 ∧ 105 ≤ temps.getD d 0)
        ∧ t.mem = s.mem ∧ t.waves = s.waves)
      ∧ (∀ die, die < 8 → s.hub.thermal ≠ 2 →
          let hot := modHub s (fun h => { h with thermal := 2 })
          let ends (p : Nat × Launch) : Bool := p.2.state == .waiting || (p.2.state == .running && !(p.2.started && p.2.retired == p.2.e.teams))
          let kills (l : Launch) : Launch :=
            if l.state = .waiting then { l with state := .killed, donePending := true, cpWait := none, waitingTeams := [], ending := some .kill }
            else { l with ending := some .kill }
          exec (.thermalTrip die) s = .next (raiseMsi (s.launches.foldl (fun t p =>
            if ends p then writeFault (modLaunch t p.1 kills) p.2.ctx (tripRecord (modLaunch t p.1 kills) p.1 p.2) else t) hot) 0))
      ∧ (i < 8 → v.toNat < 2 ^ 32 → exec (.counterReprogram i v) s = .next (modHub { s with freeCtr := s.freeCtr + 1 } (fun h =>
          { h with csel := Cells.set 0 h.csel i (v &&& ~~~(0x1E : Dword))
                   ccnt := Cells.set 0 h.ccnt i (clearCounter (incrementsMet s i) (Cells.get 0 h.ccnt i)) })))
      ∧ (∀ m (c : Dword), (clearCounter m c).toNat = min 0x7FFF (c.toNat / 2 ^ 48 % 2 ^ 15 + m) * 2 ^ 48)
      ∧ (i < 8 → 2 ^ 32 ≤ v.toNat → exec (.counterReprogram i v) s = .next s)
      ∧ (let ctl := s.hub.tsctl.toNat
         ctl % 2 = 1 → s.clock % 2 ^ (ctl / 2 ^ 8 % 32) = 0 →
         let count := 2 * allUnits.length + 8
         let len := 64 + 16 * count
         let size := 2 ^ (ctl / 2 ^ 3 % 32) - 64
         let base := s.hub.tsbase.toNat
         let fits := s.hub.tsWrite + len ≤ readPhysNat s (base + 8) 8 + size
         let latched : State := { s with unitCounters := unitsRun s, freeCtr := s.freeCtr + count }
         let frame := frameHeader s count ++ frameEntries (unitsRun s) s.hub.ccnt
         (fits → exec .timeSeriesTick s = .next (modHub (writePhys (ringWrite latched (base + 64) size s.hub.tsWrite frame) base
              (bytesOfNat 8 (s.hub.tsWrite + len))) (fun h => { h with tsWrite := h.tsWrite + len, tsTicks := h.tsTicks + 1, tsDropped := 0 })))
         ∧ (¬fits → exec .timeSeriesTick s = .next (modHub latched (fun h =>
              { h with tsTicks := h.tsTicks + 1, tsDropped := h.tsDropped + 1 })))))

/-- R501 to R503: a test that a control word asks for waits in the queue of tests, and a word with a nonzero bit above bit 31 or a kind or class that does not
exist is ignored; an interval puts a memory test of every unit into the queue. The first test starts when its unit is free, and a lane pipe
under a memory test is out of service meanwhile; at its end its record is written, a unit that failed is fenced, and a lane pipe that passed is in service again.

R484 to R486, R491 to R493: a function whose firmware runs becomes ready and shows it in its bit; an image that verifies and is no older than
the last is staged, another is not; a reset keeps device memory and starts everything else from its reset values (log entry 30 for what the
root of trust does, which the spec leaves open); an attestation request reports over its nonce and spends a signature, or answers status 3 when none is left. -/
def Obligations.FieldTestsAndBringUp : Prop :=
  (∀ (s : State) (v : Dword) (failed : Bool) (element : Nat),
      (let n := v.toNat
       let asked : FieldTest := { kind := n / 2 ^ 28 % 8, cls := n / 2 ^ 24 % 16, die := n / 2 ^ 21 % 8, index := n / 2 ^ 9 % 4096, running := false }
       let may : Prop := n < 2 ^ 32 ∧ asked.kind < 2 ∧ asked.cls < 10
       (¬may → exec (.fieldTestRequest v) s = .next s)
       ∧ (may → exec (.fieldTestRequest v) s = .next (modHub s (fun h =>
          { h with ftctl := v &&& 0x7FFFFE00, tests := if n / 2 ^ 31 % 2 = 1 then h.tests ++ [asked] else h.tests }))))
      ∧ (s.hub.ftint ≠ 0 → exec .fieldTestInterval s = .next (modHub s (fun h =>
          { h with tests := h.tests ++ allUnits.map (fun u => ⟨1, u.1, u.2.1, u.2.2, false⟩) })))
      ∧ (∀ t rest, s.hub.tests = t :: rest → t.running = false → (needsCore t = true → teamsOn s (testCore t) = []) →
          let k := getCore s (testCore t)
          let run := modHub s (fun h => { h with tests := { t with running := true } :: rest })
          (t.cls ≠ 1 ∨ t.kind ≠ 1 → exec .fieldTestRun s = .next run)
          ∧ (t.cls = 1 → t.kind = 1 → exec .fieldTestRun s = .next (setCore run (testCore t)
              { k with pipesDown := (t.index % 64) :: k.pipesDown.filter (fun p => p != t.index % 64) })))
      ∧ (∀ t rest, s.hub.tests = t :: rest → t.running = true →
          let slot := s.hub.testsDone % (Config.testRingSlots + 1)
          let written := writePhys s (s.hub.tbase.toNat + 64 * slot) (testRecord s t failed element)
          let after := modHub written (fun h => { h with tests := rest, testsDone := h.testsDone + 1 })
          let k := getCore after (testCore t)
          (failed = true → exec (.fieldTestComplete failed element) s = .next (fenceUnit after (t.cls * 4096 + t.index) 1 t.die))
          ∧ (failed = false → t.cls ≠ 1 ∨ t.kind ≠ 1 → exec (.fieldTestComplete failed element) s = .next after)
          ∧ (failed = false → t.cls = 1 → t.kind = 1 → exec (.fieldTestComplete failed element) s = .next (setCore after (testCore t)
              { k with pipesDown := k.pipesDown.filter (fun p => p != t.index % 64 || k.pipesFenced.contains p) }))))
  ∧
  (∀ (s : State) (nonce image : List Byte) (d : Nat),
      (s.hub.fwStatus = 0 →
        (d < 16 → exec (.functionReady (.domain d)) s = .next (raiseMsi (modHub s (fun h => { h with domainsReady := Nat.lor h.domainsReady (2 ^ d) })) 0))
        ∧ (d < 16 → s.hub.configOk = true → (getStack s d).live ≠ 0 → exec (.functionReady (.stack d)) s
            = .next (raiseMsi (modHub s (fun h => { h with stacksReady := Nat.lor h.stacksReady (2 ^ d) })) 0))
        ∧ (d < 8 → planeLive s d = true → exec (.functionReady (.plane d)) s
            = .next (raiseMsi (modHub s (fun h => { h with planesReady := Nat.lor h.planesReady (2 ^ d) })) 0))
        ∧ exec (.functionReady .hub) s = .next (raiseMsi (modHub s (fun h => { h with hubReady := true })) 0)
        ∧ (d < 64 → exec (.functionReady (.queue d)) s = .next (modHub s (fun h => { h with queuesReady := Nat.lor h.queuesReady (2 ^ d) })))
        ∧ (∀ c, c < 512 → d < 4 → d ∉ (getCore s c).pipesFenced → exec (.functionReady (.lanePipe c d)) s
            = .next (setCore s c { getCore s c with pipesDown := (getCore s c).pipesDown.filter (fun q => q != d) })))
      ∧ (Config.imageVerifies image = true → s.hub.fwVersion ≤ Config.imageVersion image →
          exec (.firmwareUpdate image) s = .next (modHub s (fun h => { h with fwStaged := some image })))
      ∧ (Config.imageVerifies image = false ∨ Config.imageVersion image < s.hub.fwVersion → exec (.firmwareUpdate image) s = .next s)
      ∧ exec .deviceReset s = .next { State.reset with
          agenda := s.agenda, freeCtr := s.freeCtr, pkg := s.pkg, mem := s.mem, tags := s.tags, checks := s.checks, hub := bootHub s.hub,
          hbm := bootStacks (bootHub s.hub).configOk }
      ∧ (nonce.length = 48 → s.hub.lmsLeft = 0 →
          exec (.attestationRequest nonce) s = .next (modHub s (fun h => { h with nonce := nonce, attestStatus := 3, report := [] })))
      ∧ (nonce.length = 48 → s.hub.lmsLeft ≠ 0 → ∃ t, exec (.attestationRequest nonce) s = .next t ∧ t.hub.nonce = nonce
          ∧ t.hub.attestStatus = 0 ∧ t.hub.lmsLeft = s.hub.lmsLeft - 1 ∧ nonce <+: t.hub.report ∧ { t with hub := s.hub } = s))

/-! ## The whole machine -/

/-- R256: for a wave of a persistent launch, whichever it is, HBEAT sets the launch's remaining heartbeat time to its window; for a wave
of a launch that is not persistent it has no effect. The control stream moves on, and no other launch and no other wave changes. -/
def Obligations.HeartbeatRenewal : Prop :=
  ∀ (s : State) (wid : Nat) (w : Wave) (c : C3) (lid : Nat) (l : Launch), AtControl s wid w → launchOf s w = some (lid, l) →
    ∃ t, exec (.hbeat c) s = .next t
      ∧ getLaunch t lid = some (if flagPersistent l then { l with hbLeft := l.e.hbWindow } else l)
      ∧ (∀ k, k ≠ lid → getLaunch t k = getLaunch s k)
      ∧ getWave t wid = some (finishControl (.hbeat c) w)
      ∧ (∀ k, k ≠ wid → getWave t k = getWave s k)
      ∧ (flagPersistent l = false → t = setWave s wid (finishControl (.hbeat c) w))

/-- R66 to R69, R267, R277, R396, R437: an instance that may issue and whose bytes at its program counter decode to an instruction executes that
instruction, and what follows an instruction (`afterInstr`: the debug unit and the interval log) follows it; an instance that may not
issue, or whose instruction waits, does nothing. Words that do not decode, and a page of them that is not present, are its fault. The words are fetched
little-endian through the context's translation, and the first gives the length. A signal box executes the word of its kernel at its program
counter, and a device unit's turn executes its step. -/
def Obligations.StepRunsTheDecodedInstruction : Prop :=
  (∀ (s : State) (a : Actor), mayIssue s a = false → attempt s a = .no)
  ∧ (∀ (s : State) (a : Actor) (w : Wave) (lid c : Nat) (l : Launch) (x : Context), mayIssue s a = true →
    getWave s (actorWave a) = some w → launchOf s w = some (lid, l) → ctxRec s w = some (c, x) →
    let u := leaveYield { s with actor := a } a
    let fetched := fetchInstr u x w.decode (isLane a) (fetchAddr u a w l)
    let looks (t : State) : Prop := runActor s a = .next t
      ∧ attempt s a = (if t.stalled = true then .no else if t.actor = .none then .asked t else .issued (.next t))
    (∀ i t, fetched = .instr i → exitHits u (actorWave a) i = false → exec i u = .next t → looks (afterInstr u t a i))
    ∧ (∀ i, fetched = .instr i → exitHits u (actorWave a) i = true → looks (deliverHits u (actorWave a) none))
    ∧ (∀ code detail unit, fetched = .fault code detail unit → looks (raiseFault u a code detail none unit))
    ∧ (∀ addr entry, fetched = .absent addr entry → ∃ t, t.actor = .none ∧ looks t
        ∧ t = { setFetchWait (takeFault u a (standing u a) (unitFor u a 0x0A) 0x0A (addrDetail addr false true) none false) a (some (addr, entry)) with
                  actor := .none })
    ∧ fetched ≠ .wait)
  ∧ (∀ (s : State) (x : Context) (d : DecodeTable) (lane : Bool) (addr w : Nat) (i : Instr), addr < 2 ^ 64 → w < 2 ^ (32 * (w % 4 + 1)) →
    (∀ k, k ≤ w % 4 → WordAt s x ((addr + 4 * k) % 2 ^ 64) (w / 2 ^ (32 * k) % 2 ^ 32)) →
    decodeThoyx (lookupIn d) lane x.privileged w = .ok i → fetchInstr s x d lane addr = .instr i)
  ∧ (∀ (s : State) (r : List Turn) (i : Instr), s.agenda = .event i :: r → encode i = none →
    let u := { s with agenda := r, actor := .none, stalled := false }
    ∀ t, exec i u = .next t → step s = .next (afterTurn u i t))
  ∧ (∀ (s : State) (r : List Turn) (sel : Nat) (b : SigBox) (k : BoxRun) (i : Instr), s.agenda = .box sel :: r →
    Tbl.find? s.boxes sel = some b → b.run = some k → decodeBox ((b.kernel.getD k.pc 0).toNat) = some i →
    step s = exec i { s with agenda := r, actor := .box sel, stalled := false })

/-- R267, R270, R273, R274, R277, R292: which ready instance a turn serves. The scalar unit serves the first ready control stream after the slot it
served last, a lane pipe in service the first wave after its pointer that has a ready path, and of that wave the path after its pointer,
or that path itself once more as the second of a pair; a pipe out of service serves nothing. The yard core serves the first ready
one after its pointer. An instance that is looked at before and is not ready changes nothing, or asks for a line or waits at a page of its instructions; where none is ready, no pointer moves. Whichever is served, what follows the selection (`afterSelection`, `noteYard`: samples and the log of an interval)
follows it. R292: an L2 slice that evicts a line evicts one of the earliest class of victims, and changes no byte. -/
def Obligations.TurnSelections : Prop :=
  ∀ (s : State) (r : List Turn) (core : Nat),
    let u := { s with agenda := r, actor := .none, stalled := false }
    let passes (as : List Actor) (x y : State) : Prop := InTurn (fun a x y => (attempt x a = .no ∧ y = x) ∨ attempt x a = .asked y) as x y
    let control (j : Nat) : Actor := .control (core * 32 + j)
    (s.agenda = .scalar core :: r →
      (∀ pre post k v t, after (getCore s core).scalarPtr 32 = pre ++ k :: post → passes (pre.map control) u v →
        attempt v (control k) = .issued (.next t) → step s = .next (setCore t core { getCore t core with scalarPtr := k }))
      ∧ (∀ v, passes ((after (getCore s core).scalarPtr 32).map control) u v → step s = .next (orIdle u v)))
    ∧ (∀ pipe, s.agenda = .pipe core pipe :: r → pipe < 4 → (getCore s core).pipesDown.contains pipe = false →
        let wid (j : Nat) : Nat := core * 32 + pipe * 8 + j
        let skips (js : List Nat) (x y : State) : Prop := InTurn (fun j x y => (getWave x (wid j) = none ∧ y = x)
          ∨ ∃ w, getWave x (wid j) = some w ∧ selectPath x (wid j) w = (y, none)) js x y
        let order := after (Cells.get 7 (getCore s core).pipePtr pipe) 8
        (∀ pre post k w e p v z t, order = pre ++ k :: post → skips pre u v → getWave v (wid k) = some w →
          selectPath v (wid k) w = (z, some (e, p, .next t)) →
          let y := modWave t (wid k) (fun w => { w with pathPtr := e, pair := p })
          step s = .next (afterSelection z core pipe (setCore y core { getCore y core with
            pipePtr := Cells.set 7 (getCore y core).pipePtr pipe k })))
        ∧ (∀ v, skips order u v → step s = .next (markSamples v core pipe false { v with stalled := decide (v = u) })))
    ∧ (∀ pipe, s.agenda = .pipe core pipe :: r → (getCore s core).pipesDown.contains pipe = true → step s = .next { u with stalled := true })
    ∧ (∀ x wid w o, w.pair = true → attempt x (.path wid w.pathPtr) = .issued o → selectPath x wid w = (x, some (w.pathPtr, false, o)))
    ∧ (∀ x wid w y, passes (if w.pair then [.path wid w.pathPtr] else []) x y →
        (∀ pre post e z o, after w.pathPtr 16 = pre ++ e :: post → passes (pre.map (Actor.path wid)) y z → attempt z (.path wid e) = .issued o →
          selectPath x wid w = (z, some (e, true, o)))
        ∧ ∀ z, passes ((after w.pathPtr 16).map (Actor.path wid)) y z → selectPath x wid w = (z, none))
    ∧ (s.agenda = .yard core :: r →
        let order := (yardActors s core).filter (fun x => decide ((getCore s core).yardPtr < x.1))
          ++ (yardActors s core).filter (fun x => decide (x.1 ≤ (getCore s core).yardPtr))
        (∀ pre post k a v t, order = pre ++ (k, a) :: post → passes (pre.map (fun p => p.2)) u v → attempt v a = .issued (.next t) →
          step s = .next (noteYard v core k (setCore t core { getCore t core with yardPtr := k })))
        ∧ ∀ v, passes (order.map (fun p => p.2)) u v → step s = .next (orIdle u v))
    ∧ (∀ line, s.agenda = .evictLine core line :: r →
        (∀ x, Tbl.find? (getCluster s core).l2 line = some x →
          (∀ p ∈ (getCluster s core).l2, victimRank x.retention ≤ victimRank p.2.retention) →
            step s = .next (evictL2 u core line x) ∧ ∀ a, byteAt (evictL2 u core line x) a = byteAt s a)
        ∧ (∀ x m y, Tbl.find? (getCluster s core).l2 line = some x → (m, y) ∈ (getCluster s core).l2 →
            victimRank y.retention < victimRank x.retention → step s = .next { u with stalled := true })
        ∧ (Tbl.find? (getCluster s core).l2 line = none → step s = .next { u with stalled := true }))

/-- R66, R69, R71, R78, R84, R438, R439: words written from the encoding tables decode to the instructions they stand for: one of each format
of both streams and of the signal boxes. A word of no instruction is refused by the first check that fails. -/
def Obligations.WordsDecode : Prop :=
  -- SADD s3, s1, s2 · SADDI s5, s4, #-1 with e on A · B -2
  decodeTableWord 32 (0x001 * 2 ^ 2 + 3 * 2 ^ 12 + 1 * 2 ^ 18 + 2 * 2 ^ 24) = some (.sadd { d := 3, a := 1, b := 2, ea := false, eb := false })
  ∧ decodeTableWord 32 (0x020 * 2 ^ 2 + 5 * 2 ^ 12 + 4 * 2 ^ 18 + 1 * 2 ^ 24 + 127 * 2 ^ 25)
      = some (.saddi { d := 5, a := 4, ea := true, imm := 127 })
  ∧ decodeTableWord 32 (0x040 * 2 ^ 2 + 0xFFFFE * 2 ^ 12) = some (.b { off := 0xFFFFE })
  -- SLI s6, #0x89ABCDEF
  ∧ decodeTableWord 64 (1 + 0x028 * 2 ^ 2 + 6 * 2 ^ 12 + 0x89ABCDEF * 2 ^ 32)
      = some (.sli { d := 6, a := 0, b := 0, ea := false, eb := false, lit := 0x89ABCDEF })
  -- VADD v9, v10, q3, T 1
  ∧ decodeTableWord 64 (1 + 0x100 * 2 ^ 2 + 9 * 2 ^ 12 + 10 * 2 ^ 22 + (2 * 256 + 3) * 2 ^ 32 + 1 * 2 ^ 55)
      = some (.vadd { d := .v 9, a := .v 10, b := .q 3, c := .v 0, ea := false, eb := false, ec := false, t := 1, m := 0, w := false,
                      sat := false, lit := none })
  -- BRV.NOT c2, 4 bytes on
  ∧ decodeTableWord 64 (1 + 0x170 * 2 ^ 2 + 2 * 2 ^ 12 + 1 * 2 ^ 15 + 4 * 2 ^ 32)
      = some (.brv { c := 2, sense := true, jid := 0, off := 4 })
  -- a signal box: ADD r3, r1, r2 and the branch that is always taken, 5 words on
  ∧ decodeTableWord 32 (0x01 * 2 ^ 26 + 3 * 2 ^ 21 + 1 * 2 ^ 17 + 2 * 2 ^ 13)
      = some (.boxAdd { s := false, d := 3, a := 1, b := 2, bs := false, ty := 0, ck := false, cond := 0, c := 0 })
  ∧ decodeTableWord 32 (0x20 * 2 ^ 26 + 7 * 2 ^ 22 + 5) = some (.boxBr { cond := 7, a := 0, b := 0, off := 5 })
  -- the refusals, in their order
  ∧ decodeThoyx map1 false false (3 + 0x001 * 2 ^ 2) = .error .illegalLength
  ∧ decodeThoyx map1 false false (0x0FF * 2 ^ 2) = .error .unmapped
  ∧ decodeThoyx map1 false false (0x100 * 2 ^ 2) = .error .stream
  ∧ decodeThoyx map1 false false (1 + 0x001 * 2 ^ 2) = .error (.field 0)
  ∧ decodeThoyx map1 false false (1 + 0x3C8 * 2 ^ 2 + 2 ^ 63) = .error (.privileged 0x3C8)
  ∧ decodeThoyx map1 false true (1 + 0x3C8 * 2 ^ 2 + 2 ^ 63) = .error (.field 49)

/-- R66, R69, R71, R78, R84: decode and encode agree on every well-formed instruction of both streams, with every operand at every value
the encoding admits: in its own stream it decodes back to itself, from the words and under the length that encode it; the other
stream refuses it, and an unprivileged context refuses a privileged one. -/
def Obligations.EncodingsRoundTrip : Prop :=
  ∀ (i : Instr) (op len x : Nat), thoyxCode i = some (op, len, x) → i.wf = true →
    let w := len + 4 * op + x
    encode i = some (byteLength i * 8, w) ∧ len < 3 ∧ w % 4 = len ∧ w / 4 % 1024 = op ∧ w < 2 ^ (8 * byteLength i)
      ∧ ∃ lane : Bool, (∀ p, decodeThoyx map1 (!lane) p w = .error .stream)
        ∧ decodeThoyx map1 lane true w = .ok i
        ∧ decodeThoyx map1 lane false w = (if 0x3C8 ≤ op then .error (.privileged op) else .ok i)

/-- R438 to R443, R446: decode and encode agree on every well-formed instruction of a signal box. -/
def Obligations.BoxEncodingsRoundTrip : Prop :=
  ∀ (i : Instr) (w : Nat), boxCode i = some w → i.wf = true →
    decodeBox w = some i ∧ boxWordReason w = none ∧ w < 2 ^ 32 ∧ encode i = some (32, w)

/-- R69, R70, R84, R85: decoding is total, and a word that is refused is refused for the first check of R69 that fails: the illegal length, an
opcode the context's table does not map, the other stream, a length the format does not allow, privilege, then the fields. What is
accepted is well formed, of its own stream and length, and privileged only where the context is. -/
def Obligations.DecodeChecks : Prop :=
  ∀ (look : Nat → Option Nat) (lane priv : Bool) (w : Nat),
    let opcode := w / 4 % 1024
    (w % 4 = 3 → decodeThoyx look lane priv w = .error .illegalLength)
    ∧ (w % 4 ≠ 3 → look opcode = none → decodeThoyx look lane priv w = .error .unmapped)
    ∧ (∀ op f, w % 4 ≠ 3 → look opcode = some op → opFormat op = some f →
        (f.isLane ≠ lane → decodeThoyx look lane priv w = .error .stream)
        ∧ (f.isLane = lane → w % 4 ∉ f.lengths → decodeThoyx look lane priv w = .error (.field 0))
        ∧ (f.isLane = lane → w % 4 ∈ f.lengths → 0x3C8 ≤ op → priv = false →
            decodeThoyx look lane priv w = .error (.privileged op))
        ∧ (f.isLane = lane → w % 4 ∈ f.lengths → (op < 0x3C8 ∨ priv = true) →
            let i := f.build (w % 4) (w % 2 ^ (32 * (w % 4 + 1)))
            (∃ b, decodeThoyx look lane priv w = .error (.field b)) ∨ (decodeThoyx look lane priv w = .ok i ∧ i.wf = true)))
    ∧ ∀ i, decodeThoyx look lane priv w = .ok i → i.wf = true ∧ ∃ op f, look opcode = some op ∧ opFormat op = some f ∧ f.isLane = lane
        ∧ w % 4 ∈ f.lengths ∧ (0x3C8 ≤ op → priv = true)

/-- R321, R323 to R327, R334, R335: taking a fault precisely. The record is laid out as R323 says. It is written at the producer index of the
context's fault queue, which advances, or held while the queue is full, a store before it (of its wave, or of another that it could read) is not performed at SYSTEM scope, or an older
record could be written first, and no other byte of memory changes. The instance stops at the instruction, or is held by a trap or breakpoint, or goes on waiting for its page; its registers and
its signature are as they were. A written record of another code ends the launch, in a kill or, for 0x14, 0x15 and 0x17 in a
restartable launch that has rolled back fewer than three times, in a roll-back. -/
def Obligations.FaultEntry : Prop :=
  ∀ (s : State) (wid : Nat) (w : Wave) (code detail c lid : Nat) (x : Context) (l : Launch),
    getWave s wid = some w → ctxOf s w = some c → getCtx s c = some x → launchOf s w = some (lid, l) →
    let survives : Bool := decide (code = 0x0A ∨ code = 0x1A ∨ code = 0x1B)
    let unit : Nat := if code = 0x0A then 0x7000 + wid / 32 % 64 * 64 else if code = 0x0D then 0x4000 + wid / 128 * 8 else wid / 32 % 64 * 64
    let rec' : FaultRecord := { timebase := s.timebase, qentry := l.qentry, detail := detail, block := 0, mask := 0, pc := w.pc.toNat, unit := unit, wave := wid, ends := !survives, deferred := false, cont := false, path := 0, stream := false, code := code, lid := some lid, after := some (w.uid, w.seq) }
    let t := raiseFault s (.control wid) code detail none none
    let at' : Nat := x.faultq + 64 * (x.faultProd % 2 ^ x.faultqLog2)
    let room : Prop := x.faultProd - x.faultCons < 2 ^ x.faultqLog2 ∧ recordReady s rec' = true ∧ ∀ r ∈ x.heldFaults, recordReady s r = false
    (room → (∀ k, k < 64 → byteAt t (at' + k) = BitVec.ofNat 8 (faultNat rec' / 2 ^ (8 * k)))
        ∧ (∀ a, a < at' ∨ at' + 64 ≤ a → byteAt t a = byteAt s a)
        ∧ (∃ y, getCtx t c = some y ∧ y.faultProd = x.faultProd + 1 ∧ y.heldFaults = x.heldFaults)
        ∧ (l.ending = none → ∃ m, getLaunch t lid = some m ∧ m.ending = (if survives then none
            else if (code = 0x14 ∨ code = 0x15 ∨ code = 0x17) ∧ flagRestartable l = true ∧ l.rollbacks < 3
              then some (.rollback (if unitOfCore rec'.unit then some (coreOfUnit (dieOf wid) rec'.unit) else none)) else some .kill)))
    ∧ (¬ room → (∀ a, byteAt t a = byteAt s a) ∧ getLaunch t lid = getLaunch s lid
        ∧ ∃ y, getCtx t c = some y ∧ y.faultProd = x.faultProd ∧ y.heldFaults = x.heldFaults ++ [rec'])
    ∧ getWave t wid = some (if code = 0x0A then w else if code = 0x1A ∨ code = 0x1B then { w with held := 0 :: w.held }
        else { w with faulted := true })
    ∧ (∀ k, k ≠ wid → getWave t k = getWave s k)
    ∧ (∀ r : FaultRecord, let n := faultNat r
        n < 2 ^ 512 ∧ n % 2 ^ 8 = r.code % 2 ^ 8 ∧ n / 2 ^ 8 % 2 = b2n r.stream ∧ n / 2 ^ 9 % 2 ^ 4 = r.path % 2 ^ 4
        ∧ n / 2 ^ 13 % 2 = b2n r.cont ∧ n / 2 ^ 14 % 2 = b2n r.deferred ∧ n / 2 ^ 15 % 2 = b2n r.ends
        ∧ n / 2 ^ 16 % 2 ^ 14 = r.wave % 2 ^ 14 ∧ n / 2 ^ 30 % 2 ^ 2 = 0 ∧ n / 2 ^ 32 % 2 ^ 16 = r.unit % 2 ^ 16
        ∧ n / 2 ^ 48 % 2 ^ 16 = 0 ∧ n / 2 ^ 64 % 2 ^ 64 = r.pc % 2 ^ 64 ∧ n / 2 ^ 128 % 2 ^ 96 = r.mask % 2 ^ 96
        ∧ n / 2 ^ 224 % 2 ^ 32 = r.block % 2 ^ 32 ∧ n / 2 ^ 256 % 2 ^ 128 = r.detail % 2 ^ 128
        ∧ n / 2 ^ 384 % 2 ^ 64 = r.qentry % 2 ^ 64 ∧ n / 2 ^ 448 = r.timebase % 2 ^ 64)

/-- R293 and the model's own form of memory: every step of the machine, of every unit in it, keeps the list of device memory, the list
of line tags and the list of differences of check values in canonical form. -/
def Obligations.MemoryStaysCanonical : Prop :=
  ∀ s t : State, s.memOk → step s = .next t → t.memOk

/-- R359, R408, R485, R486, R488, R497, R498, R500, R501: after reset the registers of the hub read as their tables state: only the host port is
ready and nothing else, every plane carries itself and is live, the limits, sizes and periods have their stated values and the rest is
zero. Memory, tags and check values are in canonical form. -/
def Obligations.ResetState : Prop :=
  let reads (off : Nat) : Nat := registerRead State.reset off
  State.reset.memOk
  ∧ reads 0x400 = 2 ^ 44 ∧ reads 0x408 = 0 ∧ reads 0x410 = 0 ∧ reads 0x418 = 0
  ∧ reads 0x30000 = 0xFF * 2 ^ 32 + 0x76543210
  ∧ reads 0x800 = 2800 ∧ reads 0xC80 = 10 * 2 ^ 8 + 20 * 2 ^ 3 ∧ reads 0xC88 = 0 ∧ reads 0xD00 = 0 ∧ reads 0xD08 = 24
  ∧ (∀ i, i < 8 → reads (0xC00 + 16 * i) = 0 ∧ reads (0xC00 + 16 * i + 8) = 0)
  ∧ (∀ q, getQueue State.reset q = { base := 0, ctx := 0, log2 := 4, prio := 0, deviceFed := false, enable := false, head := 0, tail := 0 })
  ∧ (∀ p, p < 64 → reads (0x90000 + 64 * p) = 0 ∧ reads (0x90000 + 64 * p + 8) = 0 ∧ reads (0x90000 + 64 * p + 24) = 0
      ∧ reads (0x90000 + 64 * p + 16) / 2 ^ 8 = 4)
  ∧ (∀ c, getCtx State.reset c = none) ∧ (∀ k, getWave State.reset k = none) ∧ (∀ k, getLaunch State.reset k = none)
end

