-- ==== Sys2Proof/Laws/Boxes.lean ====
section
/-! SUPPORT. What executing a word of a kernel does (R437), and that writing registers keeps the word's index. -/

namespace Sys2Proof.Machine

/-- Executing a word of a running kernel: each way a word can end. -/
theorem runWord_run {s : State} {sel : Nat} {x : SigBox} {r : BoxRun} {body : SigBox → BoxRun → BoxEnd} (h : AtBox s sel x r) :
    runWord s body = (match body x r with
      | .go x r => .next (setBox s sel { x with run := some (stepRep (r.pc + 1) r) })
      | .jump x r pc => .next (setBox s sel { x with run := some (stepRep pc r) })
      | .trap n c v => .next (trapRun s sel r n c v)
      | .pass => passRun s sel r
      | .drop => .next (settleMessage (endRun s sel) r.pkt)
      | .emit => .next (emitPacket (setBox s sel { x with run := some (stepRep (r.pc + 1) r) }) r)) := by
  obtain ⟨h1, h2, h3⟩ := h
  simp only [runWord, h1, h2, h3] <;> rfl

@[simp] theorem setF_pc (n : Nat) (v : Word) (r : BoxRun) : (setF n v r).pc = r.pc := rfl

@[simp] theorem setE_pc (n l : Nat) (v : Word) (r : BoxRun) : (setE n l v r).pc = r.pc := rfl

@[simp] theorem setLanes_pc (n : Nat) (vs : List Word) (r : BoxRun) : (setLanes n vs r).pc = r.pc := by
  unfold setLanes
  generalize vs.zipIdx = l
  induction l generalizing r with
  | nil => rfl
  | cons a t ih => rw [List.foldl_cons, ih]; rfl

end Sys2Proof.Machine
end

