-- ==== Sys2Proof/Laws/Dispatch.lean ====
section
/-! SUPPORT. What `exec` is for each instruction: one equation per constructor, so that no proof unfolds the dispatch. -/

namespace Sys2Proof.Machine

theorem exec_sadd (f : C3) (s : State) : exec (.sadd f) s = execSadd f s := rfl
theorem exec_ssub (f : C3) (s : State) : exec (.ssub f) s = execSsub f s := rfl
theorem exec_smul (f : C3) (s : State) : exec (.smul f) s = execSmul f s := rfl
theorem exec_smulhs (f : C3) (s : State) : exec (.smulhs f) s = execSmulhs f s := rfl
theorem exec_smulhu (f : C3) (s : State) : exec (.smulhu f) s = execSmulhu f s := rfl
theorem exec_sdivs (f : C3) (s : State) : exec (.sdivs f) s = execSdivs f s := rfl
theorem exec_sdivu (f : C3) (s : State) : exec (.sdivu f) s = execSdivu f s := rfl
theorem exec_srems (f : C3) (s : State) : exec (.srems f) s = execSrems f s := rfl
theorem exec_sremu (f : C3) (s : State) : exec (.sremu f) s = execSremu f s := rfl
theorem exec_sand (f : C3) (s : State) : exec (.sand f) s = execSand f s := rfl
theorem exec_sor (f : C3) (s : State) : exec (.sor f) s = execSor f s := rfl
theorem exec_sxor (f : C3) (s : State) : exec (.sxor f) s = execSxor f s := rfl
theorem exec_sandn (f : C3) (s : State) : exec (.sandn f) s = execSandn f s := rfl
theorem exec_sshl (f : C3) (s : State) : exec (.sshl f) s = execSshl f s := rfl
theorem exec_sshr (f : C3) (s : State) : exec (.sshr f) s = execSshr f s := rfl
theorem exec_ssra (f : C3) (s : State) : exec (.ssra f) s = execSsra f s := rfl
theorem exec_smins (f : C3) (s : State) : exec (.smins f) s = execSmins f s := rfl
theorem exec_smaxs (f : C3) (s : State) : exec (.smaxs f) s = execSmaxs f s := rfl
theorem exec_sminu (f : C3) (s : State) : exec (.sminu f) s = execSminu f s := rfl
theorem exec_smaxu (f : C3) (s : State) : exec (.smaxu f) s = execSmaxu f s := rfl
theorem exec_sslts (f : C3) (s : State) : exec (.sslts f) s = execSslts f s := rfl
theorem exec_ssltu (f : C3) (s : State) : exec (.ssltu f) s = execSsltu f s := rfl
theorem exec_sseq (f : C3) (s : State) : exec (.sseq f) s = execSseq f s := rfl
theorem exec_sclz (f : C3) (s : State) : exec (.sclz f) s = execSclz f s := rfl
theorem exec_spopc (f : C3) (s : State) : exec (.spopc f) s = execSpopc f s := rfl
theorem exec_sext (f : CI) (s : State) : exec (.sext f) s = execSext f s := rfl
theorem exec_zext (f : CI) (s : State) : exec (.zext f) s = execZext f s := rfl
theorem exec_saddi (f : CI) (s : State) : exec (.saddi f) s = execSaddi f s := rfl
theorem exec_sandi (f : CI) (s : State) : exec (.sandi f) s = execSandi f s := rfl
theorem exec_sori (f : CI) (s : State) : exec (.sori f) s = execSori f s := rfl
theorem exec_sxori (f : CI) (s : State) : exec (.sxori f) s = execSxori f s := rfl
theorem exec_sshli (f : CI) (s : State) : exec (.sshli f) s = execSshli f s := rfl
theorem exec_sshri (f : CI) (s : State) : exec (.sshri f) s = execSshri f s := rfl
theorem exec_ssrai (f : CI) (s : State) : exec (.ssrai f) s = execSsrai f s := rfl
theorem exec_sslti (f : CI) (s : State) : exec (.sslti f) s = execSslti f s := rfl
theorem exec_sli (f : CL) (s : State) : exec (.sli f) s = execSli f s := rfl
theorem exec_slih (f : CL) (s : State) : exec (.slih f) s = execSlih f s := rfl
theorem exec_saddl (f : CL) (s : State) : exec (.saddl f) s = execSaddl f s := rfl
theorem exec_slea (f : CL) (s : State) : exec (.slea f) s = execSlea f s := rfl
theorem exec_sld (f : CM) (s : State) : exec (.sld f) s = execSld f s := rfl
theorem exec_sst (f : CM) (s : State) : exec (.sst f) s = execSst f s := rfl
theorem exec_satom (f : CM) (s : State) : exec (.satom f) s = execSatom f s := rfl
theorem exec_scas (f : CM) (s : State) : exec (.scas f) s = execScas f s := rfl
theorem exec_sprf (f : CM) (s : State) : exec (.sprf f) s = execSprf f s := rfl
theorem exec_b (f : CJ) (s : State) : exec (.b f) s = execB f s := rfl
theorem exec_call (f : CJ) (s : State) : exec (.call f) s = execCall f s := rfl
theorem exec_ret (f : C3) (s : State) : exec (.ret f) s = execRet f s := rfl
theorem exec_jr (f : C3) (s : State) : exec (.jr f) s = execJr f s := rfl
theorem exec_beq (f : CB) (s : State) : exec (.beq f) s = execBeq f s := rfl
theorem exec_bne (f : CB) (s : State) : exec (.bne f) s = execBne f s := rfl
theorem exec_blts (f : CB) (s : State) : exec (.blts f) s = execBlts f s := rfl
theorem exec_bges (f : CB) (s : State) : exec (.bges f) s = execBges f s := rfl
theorem exec_bltu (f : CB) (s : State) : exec (.bltu f) s = execBltu f s := rfl
theorem exec_bgeu (f : CB) (s : State) : exec (.bgeu f) s = execBgeu f s := rfl
theorem exec_loop (f : CB) (s : State) : exec (.loop f) s = execLoop f s := rfl
theorem exec_lane (f : CQ) (s : State) : exec (.lane f) s = execLane f s := rfl
theorem exec_lwait (f : C3) (s : State) : exec (.lwait f) s = execLwait f s := rfl
theorem exec_recv (f : C3) (s : State) : exec (.recv f) s = execRecv f s := rfl
theorem exec_srs (f : CS) (s : State) : exec (.srs f) s = execSrs f s := rfl
theorem exec_sws (f : CS) (s : State) : exec (.sws f) s = execSws f s := rfl
theorem exec_vadd (f : V3) (s : State) : exec (.vadd f) s = execVadd f s := rfl
theorem exec_vsub (f : V3) (s : State) : exec (.vsub f) s = execVsub f s := rfl
theorem exec_vmul (f : V3) (s : State) : exec (.vmul f) s = execVmul f s := rfl
theorem exec_vmulh (f : V3) (s : State) : exec (.vmulh f) s = execVmulh f s := rfl
theorem exec_vmad (f : V3) (s : State) : exec (.vmad f) s = execVmad f s := rfl
theorem exec_vand (f : V3) (s : State) : exec (.vand f) s = execVand f s := rfl
theorem exec_vor (f : V3) (s : State) : exec (.vor f) s = execVor f s := rfl
theorem exec_vxor (f : V3) (s : State) : exec (.vxor f) s = execVxor f s := rfl
theorem exec_vshl (f : V3) (s : State) : exec (.vshl f) s = execVshl f s := rfl
theorem exec_vshr (f : V3) (s : State) : exec (.vshr f) s = execVshr f s := rfl
theorem exec_vsra (f : V3) (s : State) : exec (.vsra f) s = execVsra f s := rfl
theorem exec_vmin (f : V3) (s : State) : exec (.vmin f) s = execVmin f s := rfl
theorem exec_vmax (f : V3) (s : State) : exec (.vmax f) s = execVmax f s := rfl
theorem exec_vabs (f : V3) (s : State) : exec (.vabs f) s = execVabs f s := rfl
theorem exec_vneg (f : V3) (s : State) : exec (.vneg f) s = execVneg f s := rfl
theorem exec_vclz (f : V3) (s : State) : exec (.vclz f) s = execVclz f s := rfl
theorem exec_vpopc (f : V3) (s : State) : exec (.vpopc f) s = execVpopc f s := rfl
theorem exec_vbfe (f : V3) (s : State) : exec (.vbfe f) s = execVbfe f s := rfl
theorem exec_vbfi (f : V3) (s : State) : exec (.vbfi f) s = execVbfi f s := rfl
theorem exec_vadds (f : V3) (s : State) : exec (.vadds f) s = execVadds f s := rfl
theorem exec_vsubs (f : V3) (s : State) : exec (.vsubs f) s = execVsubs f s := rfl
theorem exec_vdot4 (f : V3) (s : State) : exec (.vdot4 f) s = execVdot4 f s := rfl
theorem exec_vcmp (f : V3) (s : State) : exec (.vcmp f) s = execVcmp f s := rfl
theorem exec_vsel (f : V3) (s : State) : exec (.vsel f) s = execVsel f s := rfl
theorem exec_clog (f : V3) (s : State) : exec (.clog f) s = execClog f s := rfl
theorem exec_vfadd (f : V3) (s : State) : exec (.vfadd f) s = execVfadd f s := rfl
theorem exec_vfsub (f : V3) (s : State) : exec (.vfsub f) s = execVfsub f s := rfl
theorem exec_vfmul (f : V3) (s : State) : exec (.vfmul f) s = execVfmul f s := rfl
theorem exec_vfma (f : V3) (s : State) : exec (.vfma f) s = execVfma f s := rfl
theorem exec_vfmin (f : V3) (s : State) : exec (.vfmin f) s = execVfmin f s := rfl
theorem exec_vfmax (f : V3) (s : State) : exec (.vfmax f) s = execVfmax f s := rfl
theorem exec_vrcp (f : V3) (s : State) : exec (.vrcp f) s = execVrcp f s := rfl
theorem exec_vrsq (f : V3) (s : State) : exec (.vrsq f) s = execVrsq f s := rfl
theorem exec_vexp2 (f : V3) (s : State) : exec (.vexp2 f) s = execVexp2 f s := rfl
theorem exec_vlog2 (f : V3) (s : State) : exec (.vlog2 f) s = execVlog2 f s := rfl
theorem exec_vsinp (f : V3) (s : State) : exec (.vsinp f) s = execVsinp f s := rfl
theorem exec_vcosp (f : V3) (s : State) : exec (.vcosp f) s = execVcosp f s := rfl
theorem exec_vtanh (f : V3) (s : State) : exec (.vtanh f) s = execVtanh f s := rfl
theorem exec_vcvt (f : V3) (s : State) : exec (.vcvt f) s = execVcvt f s := rfl
theorem exec_vqnt (f : V3) (s : State) : exec (.vqnt f) s = execVqnt f s := rfl
theorem exec_vpal (f : V3) (s : State) : exec (.vpal f) s = execVpal f s := rfl
theorem exec_vunpal (f : V3) (s : State) : exec (.vunpal f) s = execVunpal f s := rfl
theorem exec_vpack (f : V3) (s : State) : exec (.vpack f) s = execVpack f s := rfl
theorem exec_vunpk (f : V3) (s : State) : exec (.vunpk f) s = execVunpk f s := rfl
theorem exec_vmov (f : V3) (s : State) : exec (.vmov f) s = execVmov f s := rfl
theorem exec_vshuf (f : V3) (s : State) : exec (.vshuf f) s = execVshuf f s := rfl
theorem exec_vbcast (f : V3) (s : State) : exec (.vbcast f) s = execVbcast f s := rfl
theorem exec_vidx (f : V3) (s : State) : exec (.vidx f) s = execVidx f s := rfl
theorem exec_vtos (f : V3) (s : State) : exec (.vtos f) s = execVtos f s := rfl
theorem exec_vscan (f : V3) (s : State) : exec (.vscan f) s = execVscan f s := rfl
theorem exec_vballot (f : V3) (s : State) : exec (.vballot f) s = execVballot f s := rfl
theorem exec_ixset (f : V3) (s : State) : exec (.ixset f) s = execIxset f s := rfl
theorem exec_adset (f : V3) (s : State) : exec (.adset f) s = execAdset f s := rfl
theorem exec_qmov (f : V3) (s : State) : exec (.qmov f) s = execQmov f s := rfl
theorem exec_qadd (f : V3) (s : State) : exec (.qadd f) s = execQadd f s := rfl
theorem exec_qsub (f : V3) (s : State) : exec (.qsub f) s = execQsub f s := rfl
theorem exec_qand (f : V3) (s : State) : exec (.qand f) s = execQand f s := rfl
theorem exec_qor (f : V3) (s : State) : exec (.qor f) s = execQor f s := rfl
theorem exec_qxor (f : V3) (s : State) : exec (.qxor f) s = execQxor f s := rfl
theorem exec_qshl (f : V3) (s : State) : exec (.qshl f) s = execQshl f s := rfl
theorem exec_qshr (f : V3) (s : State) : exec (.qshr f) s = execQshr f s := rfl
theorem exec_qli (f : V3) (s : State) : exec (.qli f) s = execQli f s := rfl
theorem exec_vtoq (f : V3) (s : State) : exec (.vtoq f) s = execVtoq f s := rfl
theorem exec_vld (f : VM) (s : State) : exec (.vld f) s = execVld f s := rfl
theorem exec_vst (f : VM) (s : State) : exec (.vst f) s = execVst f s := rfl
theorem exec_vatom (f : VMX) (s : State) : exec (.vatom f) s = execVatom f s := rfl
theorem exec_vcas (f : VMX) (s : State) : exec (.vcas f) s = execVcas f s := rfl
theorem exec_vldt (f : VT) (s : State) : exec (.vldt f) s = execVldt f s := rfl
theorem exec_vstt (f : VT) (s : State) : exec (.vstt f) s = execVstt f s := rfl
theorem exec_vste (f : VT) (s : State) : exec (.vste f) s = execVste f s := rfl
theorem exec_vprf (f : VM) (s : State) : exec (.vprf f) s = execVprf f s := rfl
theorem exec_vlda (f : VT) (s : State) : exec (.vlda f) s = execVlda f s := rfl
theorem exec_vsta (f : VT) (s : State) : exec (.vsta f) s = execVsta f s := rfl
theorem exec_brv (f : VB) (s : State) : exec (.brv f) s = execBrv f s := rfl
theorem exec_jmpv (f : VB) (s : State) : exec (.jmpv f) s = execJmpv f s := rfl
theorem exec_callv (f : VB) (s : State) : exec (.callv f) s = execCallv f s := rfl
theorem exec_retv (f : VB) (s : State) : exec (.retv f) s = execRetv f s := rfl
theorem exec_regang (f : VB) (s : State) : exec (.regang f) s = execRegang f s := rfl
theorem exec_lend (f : VB) (s : State) : exec (.lend f) s = execLend f s := rfl
theorem exec_sigv (f : V3) (s : State) : exec (.sigv f) s = execSigv f s := rfl
theorem exec_brkv (f : VB) (s : State) : exec (.brkv f) s = execBrkv f s := rfl
theorem exec_trapv (f : VB) (s : State) : exec (.trapv f) s = execTrapv f s := rfl
theorem exec_nopv (f : V3) (s : State) : exec (.nopv f) s = execNopv f s := rfl
theorem exec_tdef (f : CE) (s : State) : exec (.tdef f) s = execTdef f s := rfl
theorem exec_tinv (f : CE) (s : State) : exec (.tinv f) s = execTinv f s := rfl
theorem exec_ctload (f : CE) (s : State) : exec (.ctload f) s = execCtload f s := rfl
theorem exec_palld (f : CE) (s : State) : exec (.palld f) s = execPalld f s := rfl
theorem exec_gangset (f : CE) (s : State) : exec (.gangset f) s = execGangset f s := rfl
theorem exec_mclr (f : CE) (s : State) : exec (.mclr f) s = execMclr f s := rfl
theorem exec_mtab (f : CE) (s : State) : exec (.mtab f) s = execMtab f s := rfl
theorem exec_mlut (f : CE) (s : State) : exec (.mlut f) s = execMlut f s := rfl
theorem exec_mlutg (f : CE) (s : State) : exec (.mlutg f) s = execMlutg f s := rfl
theorem exec_mxpq (f : CE) (s : State) : exec (.mxpq f) s = execMxpq f s := rfl
theorem exec_mout (f : CE) (s : State) : exec (.mout f) s = execMout f s := rfl
theorem exec_tbdrop (f : CE) (s : State) : exec (.tbdrop f) s = execTbdrop f s := rfl
theorem exec_mbatch (f : CE) (s : State) : exec (.mbatch f) s = execMbatch f s := rfl
theorem exec_mwait (f : CE) (s : State) : exec (.mwait f) s = execMwait f s := rfl
theorem exec_mtest (f : CE) (s : State) : exec (.mtest f) s = execMtest f s := rfl
theorem exec_cpt (f : CE) (s : State) : exec (.cpt f) s = execCpt f s := rfl
theorem exec_cpg (f : CE) (s : State) : exec (.cpg f) s = execCpg f s := rfl
theorem exec_cps (f : CE) (s : State) : exec (.cps f) s = execCps f s := rfl
theorem exec_cpb (f : CE) (s : State) : exec (.cpb f) s = execCpb f s := rfl
theorem exec_cpmc (f : CE) (s : State) : exec (.cpmc f) s = execCpmc f s := rfl
theorem exec_send (f : CE) (s : State) : exec (.send f) s = execSend f s := rfl
theorem exec_chpost (f : CE) (s : State) : exec (.chpost f) s = execChpost f s := rfl
theorem exec_chpoll (f : CE) (s : State) : exec (.chpoll f) s = execChpoll f s := rfl
theorem exec_fence (f : CI) (s : State) : exec (.fence f) s = execFence f s := rfl
theorem exec_fenceo (f : CI) (s : State) : exec (.fenceo f) s = execFenceo f s := rfl
theorem exec_fencea (f : CI) (s : State) : exec (.fencea f) s = execFencea f s := rfl
theorem exec_bar (f : CI) (s : State) : exec (.bar f) s = execBar f s := rfl
theorem exec_step (f : CI) (s : State) : exec (.step f) s = execStep f s := rfl
theorem exec_sig (f : CL) (s : State) : exec (.sig f) s = execSig f s := rfl
theorem exec_hbeat (f : C3) (s : State) : exec (.hbeat f) s = execHbeat f s := rfl
theorem exec_yield (f : C3) (s : State) : exec (.yield f) s = execYield f s := rfl
theorem exec_waitev (f : CE) (s : State) : exec (.waitev f) s = execWaitev f s := rfl
theorem exec_qput (f : CE) (s : State) : exec (.qput f) s = execQput f s := rfl
theorem exec_trap (f : CI) (s : State) : exec (.trap f) s = execTrap f s := rfl
theorem exec_exit (f : C3) (s : State) : exec (.exit f) s = execExit f s := rfl
theorem exec_brk (f : CI) (s : State) : exec (.brk f) s = execBrk f s := rfl
theorem exec_nop (f : C3) (s : State) : exec (.nop f) s = execNop f s := rfl
theorem exec_dtload (f : CE) (s : State) : exec (.dtload f) s = execDtload f s := rfl
theorem exec_capset (f : CE) (s : State) : exec (.capset f) s = execCapset f s := rfl
theorem exec_sbload (f : CE) (s : State) : exec (.sbload f) s = execSbload f s := rfl
theorem exec_sbflow (f : CE) (s : State) : exec (.sbflow f) s = execSbflow f s := rfl
theorem exec_boxAdd (f : QR) (s : State) : exec (.boxAdd f) s = execBoxAdd f s := rfl
theorem exec_boxSub (f : QR) (s : State) : exec (.boxSub f) s = execBoxSub f s := rfl
theorem exec_boxMul (f : QR) (s : State) : exec (.boxMul f) s = execBoxMul f s := rfl
theorem exec_boxMin (f : QR) (s : State) : exec (.boxMin f) s = execBoxMin f s := rfl
theorem exec_boxMax (f : QR) (s : State) : exec (.boxMax f) s = execBoxMax f s := rfl
theorem exec_boxAnd (f : QR) (s : State) : exec (.boxAnd f) s = execBoxAnd f s := rfl
theorem exec_boxOr (f : QR) (s : State) : exec (.boxOr f) s = execBoxOr f s := rfl
theorem exec_boxXor (f : QR) (s : State) : exec (.boxXor f) s = execBoxXor f s := rfl
theorem exec_boxShl (f : QR) (s : State) : exec (.boxShl f) s = execBoxShl f s := rfl
theorem exec_boxShr (f : QR) (s : State) : exec (.boxShr f) s = execBoxShr f s := rfl
theorem exec_boxCmp (f : QR) (s : State) : exec (.boxCmp f) s = execBoxCmp f s := rfl
theorem exec_boxSel (f : QR) (s : State) : exec (.boxSel f) s = execBoxSel f s := rfl
theorem exec_boxAddi (f : QI) (s : State) : exec (.boxAddi f) s = execBoxAddi f s := rfl
theorem exec_boxLdi (f : QI) (s : State) : exec (.boxLdi f) s = execBoxLdi f s := rfl
theorem exec_boxLdiH (f : QI) (s : State) : exec (.boxLdiH f) s = execBoxLdiH f s := rfl
theorem exec_boxGetl (f : QI) (s : State) : exec (.boxGetl f) s = execBoxGetl f s := rfl
theorem exec_boxSetl (f : QI) (s : State) : exec (.boxSetl f) s = execBoxSetl f s := rfl
theorem exec_boxPld (f : QI) (s : State) : exec (.boxPld f) s = execBoxPld f s := rfl
theorem exec_boxPst (f : QI) (s : State) : exec (.boxPst f) s = execBoxPst f s := rfl
theorem exec_boxFldVector (f : QI) (s : State) : exec (.boxFldVector f) s = execBoxFldVector f s := rfl
theorem exec_boxFldScalar (f : QI) (s : State) : exec (.boxFldScalar f) s = execBoxFldScalar f s := rfl
theorem exec_boxFstVector (f : QI) (s : State) : exec (.boxFstVector f) s = execBoxFstVector f s := rfl
theorem exec_boxFstScalar (f : QI) (s : State) : exec (.boxFstScalar f) s = execBoxFstScalar f s := rfl
theorem exec_boxFinc (f : QI) (s : State) : exec (.boxFinc f) s = execBoxFinc f s := rfl
theorem exec_boxHrd (f : QI) (s : State) : exec (.boxHrd f) s = execBoxHrd f s := rfl
theorem exec_boxHwr (f : QI) (s : State) : exec (.boxHwr f) s = execBoxHwr f s := rfl
theorem exec_boxQordaTrap (f : QI) (s : State) : exec (.boxQordaTrap f) s = execBoxQordaTrap f s := rfl
theorem exec_boxEmit (f : QI) (s : State) : exec (.boxEmit f) s = execBoxEmit f s := rfl
theorem exec_boxPass (f : QI) (s : State) : exec (.boxPass f) s = execBoxPass f s := rfl
theorem exec_boxDrop (f : QI) (s : State) : exec (.boxDrop f) s = execBoxDrop f s := rfl
theorem exec_boxBr (f : QB) (s : State) : exec (.boxBr f) s = execBoxBr f s := rfl
theorem exec_boxRep (f : QB) (s : State) : exec (.boxRep f) s = execBoxRep f s := rfl
theorem exec_windowWriteAccept (i : Nat) (s : State) : exec (.windowWriteAccept i) s = execWindowWriteAccept i s := rfl
theorem exec_loadDataReturn (wid i : Nat) (lanes : Mask) (fromL1 : Bool) (s : State) : exec (.loadDataReturn wid i lanes fromL1) s = execLoadDataReturn wid i lanes fromL1 s := rfl
theorem exec_recvFill (wid : Nat) (s : State) : exec (.recvFill wid) s = execRecvFill wid s := rfl
theorem exec_lwaitComplete (wid : Nat) (s : State) : exec (.lwaitComplete wid) s = execLwaitComplete wid s := rfl
theorem exec_mwaitComplete (wid : Nat) (s : State) : exec (.mwaitComplete wid) s = execMwaitComplete wid s := rfl
theorem exec_fenceaComplete (wid : Nat) (s : State) : exec (.fenceaComplete wid) s = execFenceaComplete wid s := rfl
theorem exec_barrierComplete (lid level unit : Nat) (s : State) : exec (.barrierComplete lid level unit) s = execBarrierComplete lid level unit s := rfl
theorem exec_waitevWake (wid : Nat) (s : State) : exec (.waitevWake wid) s = execWaitevWake wid s := rfl
theorem exec_laneBlockStart (wid : Nat) (s : State) : exec (.laneBlockStart wid) s = execLaneBlockStart wid s := rfl
theorem exec_waveClear (core pipe : Nat) (s : State) : exec (.waveClear core pipe) s = execWaveClear core pipe s := rfl
theorem exec_mclrExecute (wid : Nat) (s : State) : exec (.mclrExecute wid) s = execMclrExecute wid s := rfl
theorem exec_mtabExecute (wid : Nat) (s : State) : exec (.mtabExecute wid) s = execMtabExecute wid s := rfl
theorem exec_mlutExecute (wid : Nat) (s : State) : exec (.mlutExecute wid) s = execMlutExecute wid s := rfl
theorem exec_mlutgLatchComplete (wid : Nat) (s : State) : exec (.mlutgLatchComplete wid) s = execMlutgLatchComplete wid s := rfl
theorem exec_mxpqExecute (wid : Nat) (s : State) : exec (.mxpqExecute wid) s = execMxpqExecute wid s := rfl
theorem exec_moutExecute (wid : Nat) (s : State) : exec (.moutExecute wid) s = execMoutExecute wid s := rfl
theorem exec_tbdropExecute (wid : Nat) (s : State) : exec (.tbdropExecute wid) s = execTbdropExecute wid s := rfl
theorem exec_copyUnit (wid op : Nat) (s : State) : exec (.copyUnit wid op) s = execCopyUnit wid op s := rfl
theorem exec_cpmcComplete (wid op : Nat) (s : State) : exec (.cpmcComplete wid op) s = execCpmcComplete wid op s := rfl
theorem exec_sendInject (wid op : Nat) (s : State) : exec (.sendInject wid op) s = execSendInject wid op s := rfl
theorem exec_encoderTileWrite (wid : Nat) (s : State) : exec (.encoderTileWrite wid) s = execEncoderTileWrite wid s := rfl
theorem exec_logReplay (wid i : Nat) (s : State) : exec (.logReplay wid i) s = execLogReplay wid i s := rfl
theorem exec_walkerMonitorWake (line : Nat) (s : State) : exec (.walkerMonitorWake line) s = execWalkerMonitorWake line s := rfl
theorem exec_walkerRewalkTimer (wid i : Nat) (s : State) : exec (.walkerRewalkTimer wid i) s = execWalkerRewalkTimer wid i s := rfl
theorem exec_faultRecordHeldWrite (ctx : Nat) (s : State) : exec (.faultRecordHeldWrite ctx) s = execFaultRecordHeldWrite ctx s := rfl
theorem exec_snapshotPageCopy (ctx va : Nat) (s : State) : exec (.snapshotPageCopy ctx va) s = execSnapshotPageCopy ctx va s := rfl
theorem exec_launchTake (s : State) : exec .launchTake s = execLaunchTake s := rfl
theorem exec_cpMemoryRetry (lid : Nat) (s : State) : exec (.cpMemoryRetry lid) s = execCpMemoryRetry lid s := rfl
theorem exec_waitEventSatisfied (lid : Nat) (s : State) : exec (.waitEventSatisfied lid) s = execWaitEventSatisfied lid s := rfl
theorem exec_teamPlace (s : State) : exec .teamPlace s = execTeamPlace s := rfl
theorem exec_teamRetire (team : Nat) (s : State) : exec (.teamRetire team) s = execTeamRetire team s := rfl
theorem exec_splitChange (core : Nat) (s : State) : exec (.splitChange core) s = execSplitChange core s := rfl
theorem exec_teamSave (team : Nat) (s : State) : exec (.teamSave team) s = execTeamSave team s := rfl
theorem exec_teamRestore (team : Nat) (s : State) : exec (.teamRestore team) s = execTeamRestore team s := rfl
theorem exec_launchComplete (lid : Nat) (s : State) : exec (.launchComplete lid) s = execLaunchComplete lid s := rfl
theorem exec_watchdogFire (lid : Nat) (s : State) : exec (.watchdogFire lid) s = execWatchdogFire lid s := rfl
theorem exec_launchKill (lid : Nat) (s : State) : exec (.launchKill lid) s = execLaunchKill lid s := rfl
theorem exec_launchRollback (lid : Nat) (s : State) : exec (.launchRollback lid) s = execLaunchRollback lid s := rfl
theorem exec_qtailWrite (q : Nat) (v : Dword) (s : State) : exec (.qtailWrite q v) s = execQtailWrite q v s := rfl
theorem exec_contextCreate (ctx : Nat) (s : State) : exec (.contextCreate ctx) s = execContextCreate ctx s := rfl
theorem exec_contextDestroy (ctx : Nat) (s : State) : exec (.contextDestroy ctx) s = execContextDestroy ctx s := rfl
theorem exec_contextHold (ctx : Nat) (s : State) : exec (.contextHold ctx) s = execContextHold ctx s := rfl
theorem exec_contextRelease (ctx : Nat) (s : State) : exec (.contextRelease ctx) s = execContextRelease ctx s := rfl
theorem exec_unserviceable (ctx : Nat) (s : State) : exec (.unserviceable ctx) s = execUnserviceable ctx s := rfl
theorem exec_invalidate (ctx : Nat) (s : State) : exec (.invalidate ctx) s = execInvalidate ctx s := rfl
theorem exec_debugWrite (ctx : Nat) (s : State) : exec (.debugWrite ctx) s = execDebugWrite ctx s := rfl
theorem exec_replayEnable (ctx : Nat) (s : State) : exec (.replayEnable ctx) s = execReplayEnable ctx s := rfl
theorem exec_resetGeneration (ctx : Nat) (s : State) : exec (.resetGeneration ctx) s = execResetGeneration ctx s := rfl
theorem exec_replayIntervalStart (wid : Nat) (s : State) : exec (.replayIntervalStart wid) s = execReplayIntervalStart wid s := rfl
theorem exec_replayRun (lid wave interval out : Nat) (s : State) : exec (.replayRun lid wave interval out) s = execReplayRun lid wave interval out s := rfl
theorem exec_traceSampleTick (ctx : Nat) (s : State) : exec (.traceSampleTick ctx) s = execTraceSampleTick ctx s := rfl
theorem exec_readPacket (p : Packet) (s : State) : exec (.readPacket p) s = execReadPacket p s := rfl
theorem exec_readData (p : Packet) (s : State) : exec (.readData p) s = execReadData p s := rfl
theorem exec_writePacket (p : Packet) (s : State) : exec (.writePacket p) s = execWritePacket p s := rfl
theorem exec_maskedWrite (p : Packet) (s : State) : exec (.maskedWrite p) s = execMaskedWrite p s := rfl
theorem exec_atomicPacket (p : Packet) (s : State) : exec (.atomicPacket p) s = execAtomicPacket p s := rfl
theorem exec_atomicResult (p : Packet) (s : State) : exec (.atomicResult p) s = execAtomicResult p s := rfl
theorem exec_writeAcknowledgment (p : Packet) (s : State) : exec (.writeAcknowledgment p) s = execWriteAcknowledgment p s := rfl
theorem exec_refusal (p : Packet) (s : State) : exec (.refusal p) s = execRefusal p s := rfl
theorem exec_retryAfterResend (id : Nat) (s : State) : exec (.retryAfterResend id) s = execRetryAfterResend id s := rfl
theorem exec_invalidatePacket (p : Packet) (s : State) : exec (.invalidatePacket p) s = execInvalidatePacket p s := rfl
theorem exec_invalidateAcknowledgment (p : Packet) (s : State) : exec (.invalidateAcknowledgment p) s = execInvalidateAcknowledgment p s := rfl
theorem exec_messagePacket (p : Packet) (s : State) : exec (.messagePacket p) s = execMessagePacket p s := rfl
theorem exec_messageAcknowledgment (p : Packet) (s : State) : exec (.messageAcknowledgment p) s = execMessageAcknowledgment p s := rfl
theorem exec_emittedPacket (p : Packet) (s : State) : exec (.emittedPacket p) s = execEmittedPacket p s := rfl
theorem exec_managementPacket (p : Packet) (s : State) : exec (.managementPacket p) s = execManagementPacket p s := rfl
theorem exec_heldMessageRetry (ring job : Nat) (s : State) : exec (.heldMessageRetry ring job) s = execHeldMessageRetry ring job s := rfl
theorem exec_linkReplay (port flits : Nat) (s : State) : exec (.linkReplay port flits) s = execLinkReplay port flits s := rfl
theorem exec_portRetire (port : Nat) (s : State) : exec (.portRetire port) s = execPortRetire port s := rfl
theorem exec_planeDead (plane : Nat) (s : State) : exec (.planeDead plane) s = execPlaneDead plane s := rfl
theorem exec_planeMapChange (map : List Nat) (s : State) : exec (.planeMapChange map) s = execPlaneMapChange map s := rfl
theorem exec_lostPacketResend (id path : Nat) (s : State) : exec (.lostPacketResend id path) s = execLostPacketResend id path s := rfl
theorem exec_packageUnreachable (pkg : Nat) (s : State) : exec (.packageUnreachable pkg) s = execPackageUnreachable pkg s := rfl
theorem exec_boxPacketRun (box : Nat) (s : State) : exec (.boxPacketRun box) s = execBoxPacketRun box s := rfl
theorem exec_pseudoChannelDrop (stack : Nat) (s : State) : exec (.pseudoChannelDrop stack) s = execPseudoChannelDrop stack s := rfl
theorem exec_patrolRead (stack channel line : Nat) (found : ScrubOutcome) (s : State) : exec (.patrolRead stack channel line found) s = execPatrolRead stack channel line found s := rfl
theorem exec_ecsCountRead (stack channel : Nat) (banks : List Nat) (s : State) : exec (.ecsCountRead stack channel banks) s = execEcsCountRead stack channel banks s := rfl
theorem exec_powerEpoch (dieDemand stackDemand dieTemp : List Nat) (s : State) : exec (.powerEpoch dieDemand stackDemand dieTemp) s = execPowerEpoch dieDemand stackDemand dieTemp s := rfl
theorem exec_thermalTrip (die : Nat) (s : State) : exec (.thermalTrip die) s = execThermalTrip die s := rfl
theorem exec_counterReprogram (i : Nat) (v : Dword) (s : State) : exec (.counterReprogram i v) s = execCounterReprogram i v s := rfl
theorem exec_timeSeriesTick (s : State) : exec .timeSeriesTick s = execTimeSeriesTick s := rfl
theorem exec_linkEyeUpdate (port margin : Nat) (s : State) : exec (.linkEyeUpdate port margin) s = execLinkEyeUpdate port margin s := rfl
theorem exec_fieldTestRequest (v : Dword) (s : State) : exec (.fieldTestRequest v) s = execFieldTestRequest v s := rfl
theorem exec_fieldTestInterval (s : State) : exec .fieldTestInterval s = execFieldTestInterval s := rfl
theorem exec_fieldTestRun (s : State) : exec .fieldTestRun s = execFieldTestRun s := rfl
theorem exec_fieldTestComplete (failed : Bool) (element : Nat) (s : State) : exec (.fieldTestComplete failed element) s = execFieldTestComplete failed element s := rfl
theorem exec_deviceReset (s : State) : exec .deviceReset s = execDeviceReset s := rfl
theorem exec_functionReady (f : Function) (s : State) : exec (.functionReady f) s = execFunctionReady f s := rfl
theorem exec_firmwareUpdate (image : List Byte) (s : State) : exec (.firmwareUpdate image) s = execFirmwareUpdate image s := rfl
theorem exec_attestationRequest (nonce : List Byte) (s : State) : exec (.attestationRequest nonce) s = execAttestationRequest nonce s := rfl
theorem exec_hostWindowAccess (off : Nat) (data : Option (List Byte)) (len : Nat) (s : State) : exec (.hostWindowAccess off data len) s = execHostWindowAccess off data len s := rfl
theorem exec_registerWrite (off : Nat) (v : Dword) (s : State) : exec (.registerWrite off v) s = execRegisterWrite off v s := rfl
theorem exec_storePerformed (wid i scope : Nat) (s : State) : exec (.storePerformed wid i scope) s = execStorePerformed wid i scope s := rfl
theorem exec_linkRetrain (port lanes margin : Nat) (s : State) : exec (.linkRetrain port lanes margin) s = execLinkRetrain port lanes margin s := rfl

end Sys2Proof.Machine
end

