-- ==== Sys2Proof/Laws/PerInstr.lean ====
section
/-! SUPPORT. A family of per-instruction laws: WordFits, the words of an instruction fit in the number of bits that its length
gives (R66, R438). -/

namespace Sys2Proof.Laws

/-- The words that encode the instruction fit in its length. -/
def WordFits.Statement (i : Instr) : Prop := ∀ n w, encode i = some (n, w) → w < 2 ^ n

/-! ## The fields of each format fit -/

theorem b2n_lt (b : Bool) : b2n b < 2 := by cases b <;> decide

theorem encOperand_lt (o : Operand) : encOperand o < 1024 := by
  cases o <;> simp only [encOperand] <;> omega

theorem encC3_lt (f : C3) : 4092 + encC3 f < 2 ^ 32 := by
  have h1 := f.d.isLt; have h2 := f.a.isLt; have h3 := f.b.isLt; have h4 := b2n_lt f.ea; have h5 := b2n_lt f.eb
  simp only [encC3]; omega

theorem encCI_lt (f : CI) : 4092 + encCI f < 2 ^ 32 := by
  have h1 := f.d.isLt; have h2 := f.a.isLt; have h3 := f.imm.isLt; have h4 := b2n_lt f.ea
  simp only [encCI]; omega

theorem encCJ_lt (f : CJ) : 4092 + encCJ f < 2 ^ 32 := by
  have h1 := f.off.isLt
  simp only [encCJ]; omega

theorem encCS_lt (f : CS) : 4092 + encCS f < 2 ^ 32 := by
  have h1 := f.r.isLt; have h2 := f.num.isLt; have h4 := b2n_lt f.ea
  simp only [encCS]; omega

theorem encCL_lt (f : CL) : 4093 + encCL f < 2 ^ 64 := by
  have h1 := f.d.isLt; have h2 := f.a.isLt; have h3 := f.b.isLt; have h4 := b2n_lt f.ea; have h5 := b2n_lt f.eb
  have h6 := f.lit.isLt
  simp only [encCL]; omega

theorem encCB_lt (f : CB) : 4093 + encCB f < 2 ^ 64 := by
  have h1 := f.a.isLt; have h2 := f.b.isLt; have h3 := f.off.isLt; have h4 := b2n_lt f.ea; have h5 := b2n_lt f.eb
  simp only [encCB]; omega

theorem encCM_lt (f : CM) : 4093 + encCM f < 2 ^ 64 := by
  have h1 := f.d.isLt; have h2 := f.a.isLt; have h3 := f.b.isLt; have h4 := b2n_lt f.ea; have h5 := b2n_lt f.eb
  have h6 := f.width.isLt; have h7 := b2n_lt f.sx; have h8 := f.scope.isLt; have h9 := f.order.isLt
  have h10 := f.aop.isLt; have h11 := f.hint.isLt; have h12 := f.disp.isLt
  simp only [encCM]; omega

theorem encCE_lt (f : CE) : 4093 + encCE f < 2 ^ 64 := by
  have h1 := f.d.isLt; have h2 := f.a.isLt; have h3 := f.b.isLt; have h4 := b2n_lt f.ea; have h5 := b2n_lt f.eb
  have h6 := f.c.isLt; have h7 := b2n_lt f.ec; have h8 := f.t.isLt; have h9 := f.aux.isLt; have h10 := f.opts.isLt
  simp only [encCE]; omega

theorem encCQ_lt (f : CQ) : 4093 + encCQ f < 2 ^ 64 := by
  have h1 := f.a.isLt; have h2 := f.b.isLt; have h3 := f.c.isLt; have h4 := b2n_lt f.e; have h5 := f.off.isLt
  simp only [encCQ]; omega

theorem encV3_lt (f : V3) : (if f.lit.isSome then 2 else 1) + 4092 + encV3 f < 2 ^ (32 * ((if f.lit.isSome then 2 else 1) + 1)) := by
  have h1 := encOperand_lt f.d; have h2 := encOperand_lt f.a; have h3 := encOperand_lt f.b; have h4 := encOperand_lt f.c
  have h5 := b2n_lt f.ea; have h6 := b2n_lt f.eb; have h7 := b2n_lt f.ec; have h8 := f.t.isLt; have h9 := f.m.isLt
  have h10 := b2n_lt f.w; have h11 := b2n_lt f.sat
  cases h : f.lit with
  | none => simp only [encV3, h]; simp; omega
  | some l => have h12 := l.isLt; simp only [encV3, h]; simp; omega

theorem encVB_lt (f : VB) : 4093 + encVB f < 2 ^ 64 := by
  have h1 := f.c.isLt; have h2 := b2n_lt f.sense; have h3 := f.jid.isLt; have h4 := f.off.isLt
  simp only [encVB]; omega

theorem encVM_lt (f : VM) : 4093 + encVM f < 2 ^ 64 := by
  have h1 := encOperand_lt f.d; have h2 := encOperand_lt f.a; have h3 := f.qb.isLt; have h4 := b2n_lt f.am
  have h5 := f.scale.isLt; have h6 := f.width.isLt; have h7 := b2n_lt f.sx; have h8 := f.scope.isLt
  have h9 := f.order.isLt; have h10 := f.hint.isLt; have h11 := b2n_lt f.ea; have h12 := b2n_lt f.ed; have h13 := f.disp.isLt
  simp only [encVM]; omega

theorem encVMX_lt (f : VMX) : 4094 + encVMX f < 2 ^ 96 := by
  have h0 := encVM_lt f.m; have h1 := encOperand_lt f.b; have h2 := encOperand_lt f.c; have h3 := b2n_lt f.eb
  have h4 := b2n_lt f.ec; have h5 := f.aop.isLt
  simp only [encVMX]; omega

theorem encVT_lt (f : VT) : 4094 + encVT f < 2 ^ 96 := by
  have h1 := encOperand_lt f.d; have h2 := encOperand_lt f.a; have h3 := encOperand_lt f.b; have h4 := f.tid.isLt
  have h5 := f.mode.isLt; have h6 := f.hint.isLt; have h7 := b2n_lt f.ea; have h8 := b2n_lt f.eb; have h9 := b2n_lt f.ed
  have h10 := f.wreg.isLt; have h11 := f.base.isLt; have h12 := f.acc.isLt; have h13 := b2n_lt f.w; have h14 := b2n_lt f.wsel
  have h15 := b2n_lt f.tq; have h16 := b2n_lt f.aq; have h17 := b2n_lt f.ew
  simp only [encVT]; omega

theorem encQR_lt (f : QR) : encQR f < 2 ^ 26 := by
  have h1 := b2n_lt f.s; have h2 := f.d.isLt; have h3 := f.a.isLt; have h4 := f.b.isLt; have h5 := b2n_lt f.bs
  have h6 := f.ty.isLt; have h7 := b2n_lt f.ck; have h8 := f.cond.isLt; have h9 := f.c.isLt
  simp only [encQR]; omega

theorem encQI_lt (f : QI) : encQI f < 2 ^ 26 := by
  have h1 := b2n_lt f.s; have h2 := f.d.isLt; have h3 := f.a.isLt; have h4 := b2n_lt f.x; have h5 := f.imm.isLt
  simp only [encQI]; omega

theorem encQB_lt (f : QB) : encQB f < 2 ^ 26 := by
  have h1 := f.cond.isLt; have h2 := f.a.isLt; have h3 := f.b.isLt; have h4 := f.off.isLt
  simp only [encQB]; omega

/-! ## From a code to the words -/

theorem fits_of_code {i : Instr} {op len x : Nat} (h : thoyxCode i = some (op, len, x))
    (hx : len + 4 * op + x < 2 ^ (32 * (len + 1))) : WordFits.Statement i := by
  intro n w e
  simp only [encode, encodeAt, h, id, Option.some.injEq, Prod.mk.injEq] at e
  obtain ⟨rfl, rfl⟩ := e
  exact hx

theorem fits_of_box {i : Instr} {x : Nat} (h : thoyxCode i = none) (hb : boxCode i = some x) (hx : x < 2 ^ 32) : WordFits.Statement i := by
  intro n w e
  simp only [encode, encodeAt, h, hb, Option.map_some, Option.some.injEq, Prod.mk.injEq] at e
  obtain ⟨rfl, rfl⟩ := e
  exact hx

theorem fits_of_step {i : Instr} (h : thoyxCode i = none) (hb : boxCode i = none) : WordFits.Statement i := by
  intro n w e
  simp [encode, encodeAt, h, hb] at e

/-! ## Every instruction -/

theorem WordFits.sadd (f : C3) : WordFits.Statement (.sadd f) := fits_of_code rfl (by have := encC3_lt f; omega)

theorem WordFits.ssub (f : C3) : WordFits.Statement (.ssub f) := fits_of_code rfl (by have := encC3_lt f; omega)

theorem WordFits.smul (f : C3) : WordFits.Statement (.smul f) := fits_of_code rfl (by have := encC3_lt f; omega)

theorem WordFits.smulhs (f : C3) : WordFits.Statement (.smulhs f) := fits_of_code rfl (by have := encC3_lt f; omega)

theorem WordFits.smulhu (f : C3) : WordFits.Statement (.smulhu f) := fits_of_code rfl (by have := encC3_lt f; omega)

theorem WordFits.sdivs (f : C3) : WordFits.Statement (.sdivs f) := fits_of_code rfl (by have := encC3_lt f; omega)

theorem WordFits.sdivu (f : C3) : WordFits.Statement (.sdivu f) := fits_of_code rfl (by have := encC3_lt f; omega)

theorem WordFits.srems (f : C3) : WordFits.Statement (.srems f) := fits_of_code rfl (by have := encC3_lt f; omega)

theorem WordFits.sremu (f : C3) : WordFits.Statement (.sremu f) := fits_of_code rfl (by have := encC3_lt f; omega)

theorem WordFits.sand (f : C3) : WordFits.Statement (.sand f) := fits_of_code rfl (by have := encC3_lt f; omega)

theorem WordFits.sor (f : C3) : WordFits.Statement (.sor f) := fits_of_code rfl (by have := encC3_lt f; omega)

theorem WordFits.sxor (f : C3) : WordFits.Statement (.sxor f) := fits_of_code rfl (by have := encC3_lt f; omega)

theorem WordFits.sandn (f : C3) : WordFits.Statement (.sandn f) := fits_of_code rfl (by have := encC3_lt f; omega)

theorem WordFits.sshl (f : C3) : WordFits.Statement (.sshl f) := fits_of_code rfl (by have := encC3_lt f; omega)

theorem WordFits.sshr (f : C3) : WordFits.Statement (.sshr f) := fits_of_code rfl (by have := encC3_lt f; omega)

theorem WordFits.ssra (f : C3) : WordFits.Statement (.ssra f) := fits_of_code rfl (by have := encC3_lt f; omega)

theorem WordFits.smins (f : C3) : WordFits.Statement (.smins f) := fits_of_code rfl (by have := encC3_lt f; omega)

theorem WordFits.smaxs (f : C3) : WordFits.Statement (.smaxs f) := fits_of_code rfl (by have := encC3_lt f; omega)

theorem WordFits.sminu (f : C3) : WordFits.Statement (.sminu f) := fits_of_code rfl (by have := encC3_lt f; omega)

theorem WordFits.smaxu (f : C3) : WordFits.Statement (.smaxu f) := fits_of_code rfl (by have := encC3_lt f; omega)

theorem WordFits.sslts (f : C3) : WordFits.Statement (.sslts f) := fits_of_code rfl (by have := encC3_lt f; omega)

theorem WordFits.ssltu (f : C3) : WordFits.Statement (.ssltu f) := fits_of_code rfl (by have := encC3_lt f; omega)

theorem WordFits.sseq (f : C3) : WordFits.Statement (.sseq f) := fits_of_code rfl (by have := encC3_lt f; omega)

theorem WordFits.sclz (f : C3) : WordFits.Statement (.sclz f) := fits_of_code rfl (by have := encC3_lt f; omega)

theorem WordFits.spopc (f : C3) : WordFits.Statement (.spopc f) := fits_of_code rfl (by have := encC3_lt f; omega)

theorem WordFits.sext (f : CI) : WordFits.Statement (.sext f) := fits_of_code rfl (by have := encCI_lt f; omega)

theorem WordFits.zext (f : CI) : WordFits.Statement (.zext f) := fits_of_code rfl (by have := encCI_lt f; omega)

theorem WordFits.saddi (f : CI) : WordFits.Statement (.saddi f) := fits_of_code rfl (by have := encCI_lt f; omega)

theorem WordFits.sandi (f : CI) : WordFits.Statement (.sandi f) := fits_of_code rfl (by have := encCI_lt f; omega)

theorem WordFits.sori (f : CI) : WordFits.Statement (.sori f) := fits_of_code rfl (by have := encCI_lt f; omega)

theorem WordFits.sxori (f : CI) : WordFits.Statement (.sxori f) := fits_of_code rfl (by have := encCI_lt f; omega)

theorem WordFits.sshli (f : CI) : WordFits.Statement (.sshli f) := fits_of_code rfl (by have := encCI_lt f; omega)

theorem WordFits.sshri (f : CI) : WordFits.Statement (.sshri f) := fits_of_code rfl (by have := encCI_lt f; omega)

theorem WordFits.ssrai (f : CI) : WordFits.Statement (.ssrai f) := fits_of_code rfl (by have := encCI_lt f; omega)

theorem WordFits.sslti (f : CI) : WordFits.Statement (.sslti f) := fits_of_code rfl (by have := encCI_lt f; omega)

theorem WordFits.sli (f : CL) : WordFits.Statement (.sli f) := fits_of_code rfl (by have := encCL_lt f; omega)

theorem WordFits.slih (f : CL) : WordFits.Statement (.slih f) := fits_of_code rfl (by have := encCL_lt f; omega)

theorem WordFits.saddl (f : CL) : WordFits.Statement (.saddl f) := fits_of_code rfl (by have := encCL_lt f; omega)

theorem WordFits.slea (f : CL) : WordFits.Statement (.slea f) := fits_of_code rfl (by have := encCL_lt f; omega)

theorem WordFits.sld (f : CM) : WordFits.Statement (.sld f) := fits_of_code rfl (by have := encCM_lt f; omega)

theorem WordFits.sst (f : CM) : WordFits.Statement (.sst f) := fits_of_code rfl (by have := encCM_lt f; omega)

theorem WordFits.satom (f : CM) : WordFits.Statement (.satom f) := fits_of_code rfl (by have := encCM_lt f; omega)

theorem WordFits.scas (f : CM) : WordFits.Statement (.scas f) := fits_of_code rfl (by have := encCM_lt f; omega)

theorem WordFits.sprf (f : CM) : WordFits.Statement (.sprf f) := fits_of_code rfl (by have := encCM_lt f; omega)

theorem WordFits.b (f : CJ) : WordFits.Statement (.b f) := fits_of_code rfl (by have := encCJ_lt f; omega)

theorem WordFits.call (f : CJ) : WordFits.Statement (.call f) := fits_of_code rfl (by have := encCJ_lt f; omega)

theorem WordFits.ret (f : C3) : WordFits.Statement (.ret f) := fits_of_code rfl (by have := encC3_lt f; omega)

theorem WordFits.jr (f : C3) : WordFits.Statement (.jr f) := fits_of_code rfl (by have := encC3_lt f; omega)

theorem WordFits.beq (f : CB) : WordFits.Statement (.beq f) := fits_of_code rfl (by have := encCB_lt f; omega)

theorem WordFits.bne (f : CB) : WordFits.Statement (.bne f) := fits_of_code rfl (by have := encCB_lt f; omega)

theorem WordFits.blts (f : CB) : WordFits.Statement (.blts f) := fits_of_code rfl (by have := encCB_lt f; omega)

theorem WordFits.bges (f : CB) : WordFits.Statement (.bges f) := fits_of_code rfl (by have := encCB_lt f; omega)

theorem WordFits.bltu (f : CB) : WordFits.Statement (.bltu f) := fits_of_code rfl (by have := encCB_lt f; omega)

theorem WordFits.bgeu (f : CB) : WordFits.Statement (.bgeu f) := fits_of_code rfl (by have := encCB_lt f; omega)

theorem WordFits.loop (f : CB) : WordFits.Statement (.loop f) := fits_of_code rfl (by have := encCB_lt f; omega)

theorem WordFits.lane (f : CQ) : WordFits.Statement (.lane f) := fits_of_code rfl (by have := encCQ_lt f; omega)

theorem WordFits.lwait (f : C3) : WordFits.Statement (.lwait f) := fits_of_code rfl (by have := encC3_lt f; omega)

theorem WordFits.recv (f : C3) : WordFits.Statement (.recv f) := fits_of_code rfl (by have := encC3_lt f; omega)

theorem WordFits.srs (f : CS) : WordFits.Statement (.srs f) := fits_of_code rfl (by have := encCS_lt f; omega)

theorem WordFits.sws (f : CS) : WordFits.Statement (.sws f) := fits_of_code rfl (by have := encCS_lt f; omega)

theorem WordFits.vadd (f : V3) : WordFits.Statement (.vadd f) := fits_of_code rfl (by have := encV3_lt f; revert this; cases f.lit <;> simp <;> omega)

theorem WordFits.vsub (f : V3) : WordFits.Statement (.vsub f) := fits_of_code rfl (by have := encV3_lt f; revert this; cases f.lit <;> simp <;> omega)

theorem WordFits.vmul (f : V3) : WordFits.Statement (.vmul f) := fits_of_code rfl (by have := encV3_lt f; revert this; cases f.lit <;> simp <;> omega)

theorem WordFits.vmulh (f : V3) : WordFits.Statement (.vmulh f) := fits_of_code rfl (by have := encV3_lt f; revert this; cases f.lit <;> simp <;> omega)

theorem WordFits.vmad (f : V3) : WordFits.Statement (.vmad f) := fits_of_code rfl (by have := encV3_lt f; revert this; cases f.lit <;> simp <;> omega)

theorem WordFits.vand (f : V3) : WordFits.Statement (.vand f) := fits_of_code rfl (by have := encV3_lt f; revert this; cases f.lit <;> simp <;> omega)

theorem WordFits.vor (f : V3) : WordFits.Statement (.vor f) := fits_of_code rfl (by have := encV3_lt f; revert this; cases f.lit <;> simp <;> omega)

theorem WordFits.vxor (f : V3) : WordFits.Statement (.vxor f) := fits_of_code rfl (by have := encV3_lt f; revert this; cases f.lit <;> simp <;> omega)

theorem WordFits.vshl (f : V3) : WordFits.Statement (.vshl f) := fits_of_code rfl (by have := encV3_lt f; revert this; cases f.lit <;> simp <;> omega)

theorem WordFits.vshr (f : V3) : WordFits.Statement (.vshr f) := fits_of_code rfl (by have := encV3_lt f; revert this; cases f.lit <;> simp <;> omega)

theorem WordFits.vsra (f : V3) : WordFits.Statement (.vsra f) := fits_of_code rfl (by have := encV3_lt f; revert this; cases f.lit <;> simp <;> omega)

theorem WordFits.vmin (f : V3) : WordFits.Statement (.vmin f) := fits_of_code rfl (by have := encV3_lt f; revert this; cases f.lit <;> simp <;> omega)

theorem WordFits.vmax (f : V3) : WordFits.Statement (.vmax f) := fits_of_code rfl (by have := encV3_lt f; revert this; cases f.lit <;> simp <;> omega)

theorem WordFits.vabs (f : V3) : WordFits.Statement (.vabs f) := fits_of_code rfl (by have := encV3_lt f; revert this; cases f.lit <;> simp <;> omega)

theorem WordFits.vneg (f : V3) : WordFits.Statement (.vneg f) := fits_of_code rfl (by have := encV3_lt f; revert this; cases f.lit <;> simp <;> omega)

theorem WordFits.vclz (f : V3) : WordFits.Statement (.vclz f) := fits_of_code rfl (by have := encV3_lt f; revert this; cases f.lit <;> simp <;> omega)

theorem WordFits.vpopc (f : V3) : WordFits.Statement (.vpopc f) := fits_of_code rfl (by have := encV3_lt f; revert this; cases f.lit <;> simp <;> omega)

theorem WordFits.vbfe (f : V3) : WordFits.Statement (.vbfe f) := fits_of_code rfl (by have := encV3_lt f; revert this; cases f.lit <;> simp <;> omega)

theorem WordFits.vbfi (f : V3) : WordFits.Statement (.vbfi f) := fits_of_code rfl (by have := encV3_lt f; revert this; cases f.lit <;> simp <;> omega)

theorem WordFits.vadds (f : V3) : WordFits.Statement (.vadds f) := fits_of_code rfl (by have := encV3_lt f; revert this; cases f.lit <;> simp <;> omega)

theorem WordFits.vsubs (f : V3) : WordFits.Statement (.vsubs f) := fits_of_code rfl (by have := encV3_lt f; revert this; cases f.lit <;> simp <;> omega)

theorem WordFits.vdot4 (f : V3) : WordFits.Statement (.vdot4 f) := fits_of_code rfl (by have := encV3_lt f; revert this; cases f.lit <;> simp <;> omega)

theorem WordFits.vcmp (f : V3) : WordFits.Statement (.vcmp f) := fits_of_code rfl (by have := encV3_lt f; revert this; cases f.lit <;> simp <;> omega)

theorem WordFits.vsel (f : V3) : WordFits.Statement (.vsel f) := fits_of_code rfl (by have := encV3_lt f; revert this; cases f.lit <;> simp <;> omega)

theorem WordFits.clog (f : V3) : WordFits.Statement (.clog f) := fits_of_code rfl (by have := encV3_lt f; revert this; cases f.lit <;> simp <;> omega)

theorem WordFits.vfadd (f : V3) : WordFits.Statement (.vfadd f) := fits_of_code rfl (by have := encV3_lt f; revert this; cases f.lit <;> simp <;> omega)

theorem WordFits.vfsub (f : V3) : WordFits.Statement (.vfsub f) := fits_of_code rfl (by have := encV3_lt f; revert this; cases f.lit <;> simp <;> omega)

theorem WordFits.vfmul (f : V3) : WordFits.Statement (.vfmul f) := fits_of_code rfl (by have := encV3_lt f; revert this; cases f.lit <;> simp <;> omega)

theorem WordFits.vfma (f : V3) : WordFits.Statement (.vfma f) := fits_of_code rfl (by have := encV3_lt f; revert this; cases f.lit <;> simp <;> omega)

theorem WordFits.vfmin (f : V3) : WordFits.Statement (.vfmin f) := fits_of_code rfl (by have := encV3_lt f; revert this; cases f.lit <;> simp <;> omega)

theorem WordFits.vfmax (f : V3) : WordFits.Statement (.vfmax f) := fits_of_code rfl (by have := encV3_lt f; revert this; cases f.lit <;> simp <;> omega)

theorem WordFits.vrcp (f : V3) : WordFits.Statement (.vrcp f) := fits_of_code rfl (by have := encV3_lt f; revert this; cases f.lit <;> simp <;> omega)

theorem WordFits.vrsq (f : V3) : WordFits.Statement (.vrsq f) := fits_of_code rfl (by have := encV3_lt f; revert this; cases f.lit <;> simp <;> omega)

theorem WordFits.vexp2 (f : V3) : WordFits.Statement (.vexp2 f) := fits_of_code rfl (by have := encV3_lt f; revert this; cases f.lit <;> simp <;> omega)

theorem WordFits.vlog2 (f : V3) : WordFits.Statement (.vlog2 f) := fits_of_code rfl (by have := encV3_lt f; revert this; cases f.lit <;> simp <;> omega)

theorem WordFits.vsinp (f : V3) : WordFits.Statement (.vsinp f) := fits_of_code rfl (by have := encV3_lt f; revert this; cases f.lit <;> simp <;> omega)

theorem WordFits.vcosp (f : V3) : WordFits.Statement (.vcosp f) := fits_of_code rfl (by have := encV3_lt f; revert this; cases f.lit <;> simp <;> omega)

theorem WordFits.vtanh (f : V3) : WordFits.Statement (.vtanh f) := fits_of_code rfl (by have := encV3_lt f; revert this; cases f.lit <;> simp <;> omega)

theorem WordFits.vcvt (f : V3) : WordFits.Statement (.vcvt f) := fits_of_code rfl (by have := encV3_lt f; revert this; cases f.lit <;> simp <;> omega)

theorem WordFits.vqnt (f : V3) : WordFits.Statement (.vqnt f) := fits_of_code rfl (by have := encV3_lt f; revert this; cases f.lit <;> simp <;> omega)

theorem WordFits.vpal (f : V3) : WordFits.Statement (.vpal f) := fits_of_code rfl (by have := encV3_lt f; revert this; cases f.lit <;> simp <;> omega)

theorem WordFits.vunpal (f : V3) : WordFits.Statement (.vunpal f) := fits_of_code rfl (by have := encV3_lt f; revert this; cases f.lit <;> simp <;> omega)

theorem WordFits.vpack (f : V3) : WordFits.Statement (.vpack f) := fits_of_code rfl (by have := encV3_lt f; revert this; cases f.lit <;> simp <;> omega)

theorem WordFits.vunpk (f : V3) : WordFits.Statement (.vunpk f) := fits_of_code rfl (by have := encV3_lt f; revert this; cases f.lit <;> simp <;> omega)

theorem WordFits.vmov (f : V3) : WordFits.Statement (.vmov f) := fits_of_code rfl (by have := encV3_lt f; revert this; cases f.lit <;> simp <;> omega)

theorem WordFits.vshuf (f : V3) : WordFits.Statement (.vshuf f) := fits_of_code rfl (by have := encV3_lt f; revert this; cases f.lit <;> simp <;> omega)

theorem WordFits.vbcast (f : V3) : WordFits.Statement (.vbcast f) := fits_of_code rfl (by have := encV3_lt f; revert this; cases f.lit <;> simp <;> omega)

theorem WordFits.vidx (f : V3) : WordFits.Statement (.vidx f) := fits_of_code rfl (by have := encV3_lt f; revert this; cases f.lit <;> simp <;> omega)

theorem WordFits.vtos (f : V3) : WordFits.Statement (.vtos f) := fits_of_code rfl (by have := encV3_lt f; revert this; cases f.lit <;> simp <;> omega)

theorem WordFits.vscan (f : V3) : WordFits.Statement (.vscan f) := fits_of_code rfl (by have := encV3_lt f; revert this; cases f.lit <;> simp <;> omega)

theorem WordFits.vballot (f : V3) : WordFits.Statement (.vballot f) := fits_of_code rfl (by have := encV3_lt f; revert this; cases f.lit <;> simp <;> omega)

theorem WordFits.ixset (f : V3) : WordFits.Statement (.ixset f) := fits_of_code rfl (by have := encV3_lt f; revert this; cases f.lit <;> simp <;> omega)

theorem WordFits.adset (f : V3) : WordFits.Statement (.adset f) := fits_of_code rfl (by have := encV3_lt f; revert this; cases f.lit <;> simp <;> omega)

theorem WordFits.qmov (f : V3) : WordFits.Statement (.qmov f) := fits_of_code rfl (by have := encV3_lt f; revert this; cases f.lit <;> simp <;> omega)

theorem WordFits.qadd (f : V3) : WordFits.Statement (.qadd f) := fits_of_code rfl (by have := encV3_lt f; revert this; cases f.lit <;> simp <;> omega)

theorem WordFits.qsub (f : V3) : WordFits.Statement (.qsub f) := fits_of_code rfl (by have := encV3_lt f; revert this; cases f.lit <;> simp <;> omega)

theorem WordFits.qand (f : V3) : WordFits.Statement (.qand f) := fits_of_code rfl (by have := encV3_lt f; revert this; cases f.lit <;> simp <;> omega)

theorem WordFits.qor (f : V3) : WordFits.Statement (.qor f) := fits_of_code rfl (by have := encV3_lt f; revert this; cases f.lit <;> simp <;> omega)

theorem WordFits.qxor (f : V3) : WordFits.Statement (.qxor f) := fits_of_code rfl (by have := encV3_lt f; revert this; cases f.lit <;> simp <;> omega)

theorem WordFits.qshl (f : V3) : WordFits.Statement (.qshl f) := fits_of_code rfl (by have := encV3_lt f; revert this; cases f.lit <;> simp <;> omega)

theorem WordFits.qshr (f : V3) : WordFits.Statement (.qshr f) := fits_of_code rfl (by have := encV3_lt f; revert this; cases f.lit <;> simp <;> omega)

theorem WordFits.qli (f : V3) : WordFits.Statement (.qli f) := fits_of_code rfl (by have := encV3_lt f; revert this; cases f.lit <;> simp <;> omega)

theorem WordFits.vtoq (f : V3) : WordFits.Statement (.vtoq f) := fits_of_code rfl (by have := encV3_lt f; revert this; cases f.lit <;> simp <;> omega)

theorem WordFits.vld (f : VM) : WordFits.Statement (.vld f) := fits_of_code rfl (by have := encVM_lt f; omega)

theorem WordFits.vst (f : VM) : WordFits.Statement (.vst f) := fits_of_code rfl (by have := encVM_lt f; omega)

theorem WordFits.vatom (f : VMX) : WordFits.Statement (.vatom f) := fits_of_code rfl (by have := encVMX_lt f; omega)

theorem WordFits.vcas (f : VMX) : WordFits.Statement (.vcas f) := fits_of_code rfl (by have := encVMX_lt f; omega)

theorem WordFits.vldt (f : VT) : WordFits.Statement (.vldt f) := fits_of_code rfl (by have := encVT_lt f; omega)

theorem WordFits.vstt (f : VT) : WordFits.Statement (.vstt f) := fits_of_code rfl (by have := encVT_lt f; omega)

theorem WordFits.vste (f : VT) : WordFits.Statement (.vste f) := fits_of_code rfl (by have := encVT_lt f; omega)

theorem WordFits.vprf (f : VM) : WordFits.Statement (.vprf f) := fits_of_code rfl (by have := encVM_lt f; omega)

theorem WordFits.vlda (f : VT) : WordFits.Statement (.vlda f) := fits_of_code rfl (by have := encVT_lt f; omega)

theorem WordFits.vsta (f : VT) : WordFits.Statement (.vsta f) := fits_of_code rfl (by have := encVT_lt f; omega)

theorem WordFits.brv (f : VB) : WordFits.Statement (.brv f) := fits_of_code rfl (by have := encVB_lt f; omega)

theorem WordFits.jmpv (f : VB) : WordFits.Statement (.jmpv f) := fits_of_code rfl (by have := encVB_lt f; omega)

theorem WordFits.callv (f : VB) : WordFits.Statement (.callv f) := fits_of_code rfl (by have := encVB_lt f; omega)

theorem WordFits.retv (f : VB) : WordFits.Statement (.retv f) := fits_of_code rfl (by have := encVB_lt f; omega)

theorem WordFits.regang (f : VB) : WordFits.Statement (.regang f) := fits_of_code rfl (by have := encVB_lt f; omega)

theorem WordFits.lend (f : VB) : WordFits.Statement (.lend f) := fits_of_code rfl (by have := encVB_lt f; omega)

theorem WordFits.sigv (f : V3) : WordFits.Statement (.sigv f) := fits_of_code rfl (by have := encV3_lt f; revert this; cases f.lit <;> simp <;> omega)

theorem WordFits.brkv (f : VB) : WordFits.Statement (.brkv f) := fits_of_code rfl (by have := encVB_lt f; omega)

theorem WordFits.trapv (f : VB) : WordFits.Statement (.trapv f) := fits_of_code rfl (by have := encVB_lt f; omega)

theorem WordFits.nopv (f : V3) : WordFits.Statement (.nopv f) := fits_of_code rfl (by have := encV3_lt f; revert this; cases f.lit <;> simp <;> omega)

theorem WordFits.tdef (f : CE) : WordFits.Statement (.tdef f) := fits_of_code rfl (by have := encCE_lt f; omega)

theorem WordFits.tinv (f : CE) : WordFits.Statement (.tinv f) := fits_of_code rfl (by have := encCE_lt f; omega)

theorem WordFits.ctload (f : CE) : WordFits.Statement (.ctload f) := fits_of_code rfl (by have := encCE_lt f; omega)

theorem WordFits.palld (f : CE) : WordFits.Statement (.palld f) := fits_of_code rfl (by have := encCE_lt f; omega)

theorem WordFits.gangset (f : CE) : WordFits.Statement (.gangset f) := fits_of_code rfl (by have := encCE_lt f; omega)

theorem WordFits.mclr (f : CE) : WordFits.Statement (.mclr f) := fits_of_code rfl (by have := encCE_lt f; omega)

theorem WordFits.mtab (f : CE) : WordFits.Statement (.mtab f) := fits_of_code rfl (by have := encCE_lt f; omega)

theorem WordFits.mlut (f : CE) : WordFits.Statement (.mlut f) := fits_of_code rfl (by have := encCE_lt f; omega)

theorem WordFits.mlutg (f : CE) : WordFits.Statement (.mlutg f) := fits_of_code rfl (by have := encCE_lt f; omega)

theorem WordFits.mxpq (f : CE) : WordFits.Statement (.mxpq f) := fits_of_code rfl (by have := encCE_lt f; omega)

theorem WordFits.mout (f : CE) : WordFits.Statement (.mout f) := fits_of_code rfl (by have := encCE_lt f; omega)

theorem WordFits.tbdrop (f : CE) : WordFits.Statement (.tbdrop f) := fits_of_code rfl (by have := encCE_lt f; omega)

theorem WordFits.mbatch (f : CE) : WordFits.Statement (.mbatch f) := fits_of_code rfl (by have := encCE_lt f; omega)

theorem WordFits.mwait (f : CE) : WordFits.Statement (.mwait f) := fits_of_code rfl (by have := encCE_lt f; omega)

theorem WordFits.mtest (f : CE) : WordFits.Statement (.mtest f) := fits_of_code rfl (by have := encCE_lt f; omega)

theorem WordFits.cpt (f : CE) : WordFits.Statement (.cpt f) := fits_of_code rfl (by have := encCE_lt f; omega)

theorem WordFits.cpg (f : CE) : WordFits.Statement (.cpg f) := fits_of_code rfl (by have := encCE_lt f; omega)

theorem WordFits.cps (f : CE) : WordFits.Statement (.cps f) := fits_of_code rfl (by have := encCE_lt f; omega)

theorem WordFits.cpb (f : CE) : WordFits.Statement (.cpb f) := fits_of_code rfl (by have := encCE_lt f; omega)

theorem WordFits.cpmc (f : CE) : WordFits.Statement (.cpmc f) := fits_of_code rfl (by have := encCE_lt f; omega)

theorem WordFits.send (f : CE) : WordFits.Statement (.send f) := fits_of_code rfl (by have := encCE_lt f; omega)

theorem WordFits.chpost (f : CE) : WordFits.Statement (.chpost f) := fits_of_code rfl (by have := encCE_lt f; omega)

theorem WordFits.chpoll (f : CE) : WordFits.Statement (.chpoll f) := fits_of_code rfl (by have := encCE_lt f; omega)

theorem WordFits.fence (f : CI) : WordFits.Statement (.fence f) := fits_of_code rfl (by have := encCI_lt f; omega)

theorem WordFits.fenceo (f : CI) : WordFits.Statement (.fenceo f) := fits_of_code rfl (by have := encCI_lt f; omega)

theorem WordFits.fencea (f : CI) : WordFits.Statement (.fencea f) := fits_of_code rfl (by have := encCI_lt f; omega)

theorem WordFits.bar (f : CI) : WordFits.Statement (.bar f) := fits_of_code rfl (by have := encCI_lt f; omega)

theorem WordFits.step (f : CI) : WordFits.Statement (.step f) := fits_of_code rfl (by have := encCI_lt f; omega)

theorem WordFits.sig (f : CL) : WordFits.Statement (.sig f) := fits_of_code rfl (by have := encCL_lt f; omega)

theorem WordFits.hbeat (f : C3) : WordFits.Statement (.hbeat f) := fits_of_code rfl (by have := encC3_lt f; omega)

theorem WordFits.yield (f : C3) : WordFits.Statement (.yield f) := fits_of_code rfl (by have := encC3_lt f; omega)

theorem WordFits.waitev (f : CE) : WordFits.Statement (.waitev f) := fits_of_code rfl (by have := encCE_lt f; omega)

theorem WordFits.qput (f : CE) : WordFits.Statement (.qput f) := fits_of_code rfl (by have := encCE_lt f; omega)

theorem WordFits.trap (f : CI) : WordFits.Statement (.trap f) := fits_of_code rfl (by have := encCI_lt f; omega)

theorem WordFits.exit (f : C3) : WordFits.Statement (.exit f) := fits_of_code rfl (by have := encC3_lt f; omega)

theorem WordFits.brk (f : CI) : WordFits.Statement (.brk f) := fits_of_code rfl (by have := encCI_lt f; omega)

theorem WordFits.nop (f : C3) : WordFits.Statement (.nop f) := fits_of_code rfl (by have := encC3_lt f; omega)

theorem WordFits.dtload (f : CE) : WordFits.Statement (.dtload f) := fits_of_code rfl (by have := encCE_lt f; omega)

theorem WordFits.capset (f : CE) : WordFits.Statement (.capset f) := fits_of_code rfl (by have := encCE_lt f; omega)

theorem WordFits.sbload (f : CE) : WordFits.Statement (.sbload f) := fits_of_code rfl (by have := encCE_lt f; omega)

theorem WordFits.sbflow (f : CE) : WordFits.Statement (.sbflow f) := fits_of_code rfl (by have := encCE_lt f; omega)

theorem WordFits.boxAdd (f : QR) : WordFits.Statement (.boxAdd f) := fits_of_box rfl rfl (by have := encQR_lt f; omega)

theorem WordFits.boxSub (f : QR) : WordFits.Statement (.boxSub f) := fits_of_box rfl rfl (by have := encQR_lt f; omega)

theorem WordFits.boxMul (f : QR) : WordFits.Statement (.boxMul f) := fits_of_box rfl rfl (by have := encQR_lt f; omega)

theorem WordFits.boxMin (f : QR) : WordFits.Statement (.boxMin f) := fits_of_box rfl rfl (by have := encQR_lt f; omega)

theorem WordFits.boxMax (f : QR) : WordFits.Statement (.boxMax f) := fits_of_box rfl rfl (by have := encQR_lt f; omega)

theorem WordFits.boxAnd (f : QR) : WordFits.Statement (.boxAnd f) := fits_of_box rfl rfl (by have := encQR_lt f; omega)

theorem WordFits.boxOr (f : QR) : WordFits.Statement (.boxOr f) := fits_of_box rfl rfl (by have := encQR_lt f; omega)

theorem WordFits.boxXor (f : QR) : WordFits.Statement (.boxXor f) := fits_of_box rfl rfl (by have := encQR_lt f; omega)

theorem WordFits.boxShl (f : QR) : WordFits.Statement (.boxShl f) := fits_of_box rfl rfl (by have := encQR_lt f; omega)

theorem WordFits.boxShr (f : QR) : WordFits.Statement (.boxShr f) := fits_of_box rfl rfl (by have := encQR_lt f; omega)

theorem WordFits.boxCmp (f : QR) : WordFits.Statement (.boxCmp f) := fits_of_box rfl rfl (by have := encQR_lt f; omega)

theorem WordFits.boxSel (f : QR) : WordFits.Statement (.boxSel f) := fits_of_box rfl rfl (by have := encQR_lt f; omega)

theorem WordFits.boxAddi (f : QI) : WordFits.Statement (.boxAddi f) := fits_of_box rfl rfl (by have := encQI_lt f; omega)

theorem WordFits.boxLdi (f : QI) : WordFits.Statement (.boxLdi f) := fits_of_box rfl rfl (by have := encQI_lt f; omega)

theorem WordFits.boxLdiH (f : QI) : WordFits.Statement (.boxLdiH f) := fits_of_box rfl rfl (by have := encQI_lt f; omega)

theorem WordFits.boxGetl (f : QI) : WordFits.Statement (.boxGetl f) := fits_of_box rfl rfl (by have := encQI_lt f; omega)

theorem WordFits.boxSetl (f : QI) : WordFits.Statement (.boxSetl f) := fits_of_box rfl rfl (by have := encQI_lt f; omega)

theorem WordFits.boxPld (f : QI) : WordFits.Statement (.boxPld f) := fits_of_box rfl rfl (by have := encQI_lt f; omega)

theorem WordFits.boxPst (f : QI) : WordFits.Statement (.boxPst f) := fits_of_box rfl rfl (by have := encQI_lt f; omega)

theorem WordFits.boxFldVector (f : QI) : WordFits.Statement (.boxFldVector f) := fits_of_box rfl rfl (by have := encQI_lt f; omega)

theorem WordFits.boxFldScalar (f : QI) : WordFits.Statement (.boxFldScalar f) := fits_of_box rfl rfl (by have := encQI_lt f; omega)

theorem WordFits.boxFstVector (f : QI) : WordFits.Statement (.boxFstVector f) := fits_of_box rfl rfl (by have := encQI_lt f; omega)

theorem WordFits.boxFstScalar (f : QI) : WordFits.Statement (.boxFstScalar f) := fits_of_box rfl rfl (by have := encQI_lt f; omega)

theorem WordFits.boxFinc (f : QI) : WordFits.Statement (.boxFinc f) := fits_of_box rfl rfl (by have := encQI_lt f; omega)

theorem WordFits.boxHrd (f : QI) : WordFits.Statement (.boxHrd f) := fits_of_box rfl rfl (by have := encQI_lt f; omega)

theorem WordFits.boxHwr (f : QI) : WordFits.Statement (.boxHwr f) := fits_of_box rfl rfl (by have := encQI_lt f; omega)

theorem WordFits.boxQordaTrap (f : QI) : WordFits.Statement (.boxQordaTrap f) := fits_of_box rfl rfl (by have := encQI_lt f; omega)

theorem WordFits.boxEmit (f : QI) : WordFits.Statement (.boxEmit f) := fits_of_box rfl rfl (by have := encQI_lt f; omega)

theorem WordFits.boxPass (f : QI) : WordFits.Statement (.boxPass f) := fits_of_box rfl rfl (by have := encQI_lt f; omega)

theorem WordFits.boxDrop (f : QI) : WordFits.Statement (.boxDrop f) := fits_of_box rfl rfl (by have := encQI_lt f; omega)

theorem WordFits.boxBr (f : QB) : WordFits.Statement (.boxBr f) := fits_of_box rfl rfl (by have := encQB_lt f; omega)

theorem WordFits.boxRep (f : QB) : WordFits.Statement (.boxRep f) := fits_of_box rfl rfl (by have := encQB_lt f; omega)

theorem WordFits.windowWriteAccept (i : Nat) : WordFits.Statement (.windowWriteAccept i) := fits_of_step rfl rfl

theorem WordFits.loadDataReturn (wid i : Nat) (lanes : Mask) (fromL1 : Bool) : WordFits.Statement (.loadDataReturn wid i lanes fromL1) := fits_of_step rfl rfl

theorem WordFits.recvFill (wid : Nat) : WordFits.Statement (.recvFill wid) := fits_of_step rfl rfl

theorem WordFits.lwaitComplete (wid : Nat) : WordFits.Statement (.lwaitComplete wid) := fits_of_step rfl rfl

theorem WordFits.mwaitComplete (wid : Nat) : WordFits.Statement (.mwaitComplete wid) := fits_of_step rfl rfl

theorem WordFits.fenceaComplete (wid : Nat) : WordFits.Statement (.fenceaComplete wid) := fits_of_step rfl rfl

theorem WordFits.barrierComplete (lid level unit : Nat) : WordFits.Statement (.barrierComplete lid level unit) := fits_of_step rfl rfl

theorem WordFits.waitevWake (wid : Nat) : WordFits.Statement (.waitevWake wid) := fits_of_step rfl rfl

theorem WordFits.laneBlockStart (wid : Nat) : WordFits.Statement (.laneBlockStart wid) := fits_of_step rfl rfl

theorem WordFits.waveClear (core pipe : Nat) : WordFits.Statement (.waveClear core pipe) := fits_of_step rfl rfl

theorem WordFits.mclrExecute (wid : Nat) : WordFits.Statement (.mclrExecute wid) := fits_of_step rfl rfl

theorem WordFits.mtabExecute (wid : Nat) : WordFits.Statement (.mtabExecute wid) := fits_of_step rfl rfl

theorem WordFits.mlutExecute (wid : Nat) : WordFits.Statement (.mlutExecute wid) := fits_of_step rfl rfl

theorem WordFits.mlutgLatchComplete (wid : Nat) : WordFits.Statement (.mlutgLatchComplete wid) := fits_of_step rfl rfl

theorem WordFits.mxpqExecute (wid : Nat) : WordFits.Statement (.mxpqExecute wid) := fits_of_step rfl rfl

theorem WordFits.moutExecute (wid : Nat) : WordFits.Statement (.moutExecute wid) := fits_of_step rfl rfl

theorem WordFits.tbdropExecute (wid : Nat) : WordFits.Statement (.tbdropExecute wid) := fits_of_step rfl rfl

theorem WordFits.copyUnit (wid op : Nat) : WordFits.Statement (.copyUnit wid op) := fits_of_step rfl rfl

theorem WordFits.cpmcComplete (wid op : Nat) : WordFits.Statement (.cpmcComplete wid op) := fits_of_step rfl rfl

theorem WordFits.sendInject (wid op : Nat) : WordFits.Statement (.sendInject wid op) := fits_of_step rfl rfl

theorem WordFits.encoderTileWrite (wid : Nat) : WordFits.Statement (.encoderTileWrite wid) := fits_of_step rfl rfl

theorem WordFits.logReplay (wid i : Nat) : WordFits.Statement (.logReplay wid i) := fits_of_step rfl rfl

theorem WordFits.walkerMonitorWake (line : Nat) : WordFits.Statement (.walkerMonitorWake line) := fits_of_step rfl rfl

theorem WordFits.walkerRewalkTimer (wid i : Nat) : WordFits.Statement (.walkerRewalkTimer wid i) := fits_of_step rfl rfl

theorem WordFits.faultRecordHeldWrite (ctx : Nat) : WordFits.Statement (.faultRecordHeldWrite ctx) := fits_of_step rfl rfl

theorem WordFits.snapshotPageCopy (ctx va : Nat) : WordFits.Statement (.snapshotPageCopy ctx va) := fits_of_step rfl rfl

theorem WordFits.launchTake : WordFits.Statement (.launchTake) := fits_of_step rfl rfl

theorem WordFits.cpMemoryRetry (lid : Nat) : WordFits.Statement (.cpMemoryRetry lid) := fits_of_step rfl rfl

theorem WordFits.waitEventSatisfied (lid : Nat) : WordFits.Statement (.waitEventSatisfied lid) := fits_of_step rfl rfl

theorem WordFits.teamPlace : WordFits.Statement (.teamPlace) := fits_of_step rfl rfl

theorem WordFits.teamRetire (team : Nat) : WordFits.Statement (.teamRetire team) := fits_of_step rfl rfl

theorem WordFits.splitChange (core : Nat) : WordFits.Statement (.splitChange core) := fits_of_step rfl rfl

theorem WordFits.teamSave (team : Nat) : WordFits.Statement (.teamSave team) := fits_of_step rfl rfl

theorem WordFits.teamRestore (team : Nat) : WordFits.Statement (.teamRestore team) := fits_of_step rfl rfl

theorem WordFits.launchComplete (lid : Nat) : WordFits.Statement (.launchComplete lid) := fits_of_step rfl rfl

theorem WordFits.watchdogFire (lid : Nat) : WordFits.Statement (.watchdogFire lid) := fits_of_step rfl rfl

theorem WordFits.launchKill (lid : Nat) : WordFits.Statement (.launchKill lid) := fits_of_step rfl rfl

theorem WordFits.launchRollback (lid : Nat) : WordFits.Statement (.launchRollback lid) := fits_of_step rfl rfl

theorem WordFits.qtailWrite (q : Nat) (v : Dword) : WordFits.Statement (.qtailWrite q v) := fits_of_step rfl rfl

theorem WordFits.contextCreate (ctx : Nat) : WordFits.Statement (.contextCreate ctx) := fits_of_step rfl rfl

theorem WordFits.contextDestroy (ctx : Nat) : WordFits.Statement (.contextDestroy ctx) := fits_of_step rfl rfl

theorem WordFits.contextHold (ctx : Nat) : WordFits.Statement (.contextHold ctx) := fits_of_step rfl rfl

theorem WordFits.contextRelease (ctx : Nat) : WordFits.Statement (.contextRelease ctx) := fits_of_step rfl rfl

theorem WordFits.unserviceable (ctx : Nat) : WordFits.Statement (.unserviceable ctx) := fits_of_step rfl rfl

theorem WordFits.invalidate (ctx : Nat) : WordFits.Statement (.invalidate ctx) := fits_of_step rfl rfl

theorem WordFits.debugWrite (ctx : Nat) : WordFits.Statement (.debugWrite ctx) := fits_of_step rfl rfl

theorem WordFits.replayEnable (ctx : Nat) : WordFits.Statement (.replayEnable ctx) := fits_of_step rfl rfl

theorem WordFits.resetGeneration (ctx : Nat) : WordFits.Statement (.resetGeneration ctx) := fits_of_step rfl rfl

theorem WordFits.replayIntervalStart (wid : Nat) : WordFits.Statement (.replayIntervalStart wid) := fits_of_step rfl rfl

theorem WordFits.replayRun (lid wave interval out : Nat) : WordFits.Statement (.replayRun lid wave interval out) := fits_of_step rfl rfl

theorem WordFits.traceSampleTick (ctx : Nat) : WordFits.Statement (.traceSampleTick ctx) := fits_of_step rfl rfl

theorem WordFits.readPacket (p : Packet) : WordFits.Statement (.readPacket p) := fits_of_step rfl rfl

theorem WordFits.readData (p : Packet) : WordFits.Statement (.readData p) := fits_of_step rfl rfl

theorem WordFits.writePacket (p : Packet) : WordFits.Statement (.writePacket p) := fits_of_step rfl rfl

theorem WordFits.maskedWrite (p : Packet) : WordFits.Statement (.maskedWrite p) := fits_of_step rfl rfl

theorem WordFits.atomicPacket (p : Packet) : WordFits.Statement (.atomicPacket p) := fits_of_step rfl rfl

theorem WordFits.atomicResult (p : Packet) : WordFits.Statement (.atomicResult p) := fits_of_step rfl rfl

theorem WordFits.writeAcknowledgment (p : Packet) : WordFits.Statement (.writeAcknowledgment p) := fits_of_step rfl rfl

theorem WordFits.refusal (p : Packet) : WordFits.Statement (.refusal p) := fits_of_step rfl rfl

theorem WordFits.retryAfterResend (id : Nat) : WordFits.Statement (.retryAfterResend id) := fits_of_step rfl rfl

theorem WordFits.invalidatePacket (p : Packet) : WordFits.Statement (.invalidatePacket p) := fits_of_step rfl rfl

theorem WordFits.invalidateAcknowledgment (p : Packet) : WordFits.Statement (.invalidateAcknowledgment p) := fits_of_step rfl rfl

theorem WordFits.messagePacket (p : Packet) : WordFits.Statement (.messagePacket p) := fits_of_step rfl rfl

theorem WordFits.messageAcknowledgment (p : Packet) : WordFits.Statement (.messageAcknowledgment p) := fits_of_step rfl rfl

theorem WordFits.emittedPacket (p : Packet) : WordFits.Statement (.emittedPacket p) := fits_of_step rfl rfl

theorem WordFits.managementPacket (p : Packet) : WordFits.Statement (.managementPacket p) := fits_of_step rfl rfl

theorem WordFits.heldMessageRetry (ring job : Nat) : WordFits.Statement (.heldMessageRetry ring job) := fits_of_step rfl rfl

theorem WordFits.linkReplay (port flits : Nat) : WordFits.Statement (.linkReplay port flits) := fits_of_step rfl rfl

theorem WordFits.portRetire (port : Nat) : WordFits.Statement (.portRetire port) := fits_of_step rfl rfl

theorem WordFits.planeDead (plane : Nat) : WordFits.Statement (.planeDead plane) := fits_of_step rfl rfl

theorem WordFits.planeMapChange (map : List Nat) : WordFits.Statement (.planeMapChange map) := fits_of_step rfl rfl

theorem WordFits.lostPacketResend (id path : Nat) : WordFits.Statement (.lostPacketResend id path) := fits_of_step rfl rfl

theorem WordFits.packageUnreachable (pkg : Nat) : WordFits.Statement (.packageUnreachable pkg) := fits_of_step rfl rfl

theorem WordFits.boxPacketRun (box : Nat) : WordFits.Statement (.boxPacketRun box) := fits_of_step rfl rfl

theorem WordFits.pseudoChannelDrop (stack : Nat) : WordFits.Statement (.pseudoChannelDrop stack) := fits_of_step rfl rfl

theorem WordFits.patrolRead (stack channel line : Nat) (found : ScrubOutcome) : WordFits.Statement (.patrolRead stack channel line found) := fits_of_step rfl rfl

theorem WordFits.ecsCountRead (stack channel : Nat) (banks : List Nat) : WordFits.Statement (.ecsCountRead stack channel banks) := fits_of_step rfl rfl

theorem WordFits.powerEpoch (dieDemand stackDemand dieTemp : List Nat) : WordFits.Statement (.powerEpoch dieDemand stackDemand dieTemp) := fits_of_step rfl rfl

theorem WordFits.thermalTrip (die : Nat) : WordFits.Statement (.thermalTrip die) := fits_of_step rfl rfl

theorem WordFits.counterReprogram (i : Nat) (v : Dword) : WordFits.Statement (.counterReprogram i v) := fits_of_step rfl rfl

theorem WordFits.timeSeriesTick : WordFits.Statement (.timeSeriesTick) := fits_of_step rfl rfl

theorem WordFits.linkEyeUpdate (port margin : Nat) : WordFits.Statement (.linkEyeUpdate port margin) := fits_of_step rfl rfl

theorem WordFits.fieldTestRequest (v : Dword) : WordFits.Statement (.fieldTestRequest v) := fits_of_step rfl rfl

theorem WordFits.fieldTestInterval : WordFits.Statement (.fieldTestInterval) := fits_of_step rfl rfl

theorem WordFits.fieldTestRun : WordFits.Statement (.fieldTestRun) := fits_of_step rfl rfl

theorem WordFits.fieldTestComplete (failed : Bool) (element : Nat) : WordFits.Statement (.fieldTestComplete failed element) := fits_of_step rfl rfl

theorem WordFits.deviceReset : WordFits.Statement (.deviceReset) := fits_of_step rfl rfl

theorem WordFits.functionReady (f : Function) : WordFits.Statement (.functionReady f) := fits_of_step rfl rfl

theorem WordFits.firmwareUpdate (image : List Byte) : WordFits.Statement (.firmwareUpdate image) := fits_of_step rfl rfl

theorem WordFits.attestationRequest (nonce : List Byte) : WordFits.Statement (.attestationRequest nonce) := fits_of_step rfl rfl

theorem WordFits.hostWindowAccess (off : Nat) (data : Option (List Byte)) (len : Nat) : WordFits.Statement (.hostWindowAccess off data len) := fits_of_step rfl rfl

theorem WordFits.registerWrite (off : Nat) (v : Dword) : WordFits.Statement (.registerWrite off v) := fits_of_step rfl rfl

theorem WordFits.storePerformed (wid i scope : Nat) : WordFits.Statement (.storePerformed wid i scope) := fits_of_step rfl rfl

theorem WordFits.linkRetrain (port lanes margin : Nat) : WordFits.Statement (.linkRetrain port lanes margin) := fits_of_step rfl rfl

end Sys2Proof.Laws
end

