-- ==== Sys2Proof/Laws/Encodings.lean ====
section
/-! SUPPORT. Each format's fields are read back from the words that encode them, and the bits a format leaves out are zero there;
what is left of decoding once the operation and the length are known. -/

namespace Sys2Proof.Laws

/-! ## Single fields -/

theorem bitField_eq {n : Nat} (x : BitVec n) {w lo r q : Nat} (h : w = r + 2 ^ lo * (x.toNat + 2 ^ n * q)) (hr : r < 2 ^ lo) :
    bitField w lo n = x := by
  apply BitVec.eq_of_toNat_eq
  have hx := x.isLt
  have hd : w / 2 ^ lo = x.toNat + 2 ^ n * q := by
    rw [h, Nat.add_comm, Nat.mul_add_div (Nat.two_pow_pos lo), Nat.div_eq_of_lt hr, Nat.add_zero]
  rw [bitField, BitVec.toNat_ofNat, hd, Nat.add_mul_mod_self_left, Nat.mod_eq_of_lt hx]

theorem bitAt_eq (b : Bool) {w lo r q : Nat} (h : w = r + 2 ^ lo * (b2n b + 2 * q)) (hr : r < 2 ^ lo) : bitAt w lo = b := by
  have hd : w / 2 ^ lo = b2n b + 2 * q := by
    rw [h, Nat.add_comm, Nat.mul_add_div (Nat.two_pow_pos lo), Nat.div_eq_of_lt hr, Nat.add_zero]
  rw [bitAt, hd, Nat.add_mul_mod_self_left]
  cases b <;> rfl

theorem decOperand_eq (o : Operand) {w lo r q : Nat} (h : w = r + 2 ^ lo * (encOperand o + 1024 * q)) (hr : r < 2 ^ lo) :
    decOperand w lo = o := by
  have ho := encOperand_lt o
  have hd : w / 2 ^ lo % 1024 = encOperand o := by
    rw [h, Nat.add_comm, Nat.mul_add_div (Nat.two_pow_pos lo), Nat.div_eq_of_lt hr, Nat.add_zero, Nat.add_mul_mod_self_left,
      Nat.mod_eq_of_lt ho]
  unfold decOperand
  rw [hd]
  cases o with
  | v n =>
    have := n.isLt
    have e : encOperand (.v n) / 256 = 0 := by simp only [encOperand]; omega
    simp only [e]
    have : BitVec.ofNat 8 (encOperand (.v n)) = n := by
      apply BitVec.eq_of_toNat_eq; simp only [encOperand, BitVec.toNat_ofNat]; omega
    rw [this]
  | ix a x k =>
    have h1 := a.isLt; have h2 := x.isLt; have h3 := k.isLt
    have e : encOperand (.ix a x k) / 256 = 1 := by simp only [encOperand]; omega
    simp only [e]
    have ea : bitField (encOperand (.ix a x k)) 6 2 = a := by
      apply BitVec.eq_of_toNat_eq; simp only [bitField, encOperand, BitVec.toNat_ofNat]; omega
    have ex : bitField (encOperand (.ix a x k)) 4 2 = x := by
      apply BitVec.eq_of_toNat_eq; simp only [bitField, encOperand, BitVec.toNat_ofNat]; omega
    have ek : BitVec.ofNat 4 (encOperand (.ix a x k)) = k := by
      apply BitVec.eq_of_toNat_eq; simp only [encOperand, BitVec.toNat_ofNat]; omega
    rw [ea, ex, ek]
  | q n =>
    have := n.isLt
    have e : encOperand (.q n) / 256 = 2 := by simp only [encOperand]; omega
    simp only [e]
    have : BitVec.ofNat 4 (encOperand (.q n)) = n := by
      apply BitVec.eq_of_toNat_eq; simp only [encOperand, BitVec.toNat_ofNat]; omega
    rw [this]
  | imm b =>
    have := b.isLt
    have e : encOperand (.imm b) / 256 = 3 := by simp only [encOperand]; omega
    simp only [e]
    have : BitVec.ofNat 8 (encOperand (.imm b)) = b := by
      apply BitVec.eq_of_toNat_eq; simp only [encOperand, BitVec.toNat_ofNat]; omega
    rw [this]

/-- [7:4] of an encoded operand field pass the check of R76. -/
theorem operandCheck_ok (o : Operand) {w lo r q : Nat} (h : w = r + 2 ^ lo * (encOperand o + 1024 * q)) (hr : r < 2 ^ lo) :
    (operandCheck w lo).2 = true := by
  have ho := encOperand_lt o
  have hd : w / 2 ^ lo % 1024 = encOperand o := by
    rw [h, Nat.add_comm, Nat.mul_add_div (Nat.two_pow_pos lo), Nat.div_eq_of_lt hr, Nat.add_zero, Nat.add_mul_mod_self_left,
      Nat.mod_eq_of_lt ho]
  simp only [operandCheck, hd]
  cases o with
  | v n =>
    have := n.isLt
    have e : ¬ encOperand (.v n) / 256 = 2 := by simp only [encOperand]; omega
    simp [e]
  | ix a x k =>
    have h1 := a.isLt; have h2 := x.isLt; have h3 := k.isLt
    have e : ¬ encOperand (.ix a x k) / 256 = 2 := by simp only [encOperand]; omega
    simp [e]
  | q n =>
    have := n.isLt
    have e : encOperand (.q n) / 16 % 16 = 0 := by simp only [encOperand]; omega
    simp [e]
  | imm b =>
    have := b.isLt
    have e : ¬ encOperand (.imm b) / 256 = 2 := by simp only [encOperand]; omega
    simp [e]

/-! ## Formats: the fields are read back above the length and opcode `lo` of the first word, or the opcode `q` of a kernel word -/

theorem decC3_enc {lo : Nat} (h : lo < 4096) (f : C3) : decC3 (lo + encC3 f) = f := by
  obtain ⟨d, a, b, ea, eb⟩ := f
  have h1 := d.isLt; have h2 := a.isLt; have h3 := b.isLt; have h4 := b2n_lt ea
  have h5 := b2n_lt eb
  simp only [decC3, encC3, C3.mk.injEq]
  refine ⟨bitField_eq (q := a.toNat * 2 ^ 0 + b.toNat * 2 ^ 6 + b2n ea * 2 ^ 12 + b2n eb * 2 ^ 13) d
      (r := lo) (by omega) (by omega),
    bitField_eq (q := b.toNat * 2 ^ 0 + b2n ea * 2 ^ 6 + b2n eb * 2 ^ 7) a
      (r := lo + d.toNat * 2 ^ 12) (by omega) (by omega),
    bitField_eq (q := b2n ea * 2 ^ 0 + b2n eb * 2 ^ 1) b
      (r := lo + d.toNat * 2 ^ 12 + a.toNat * 2 ^ 18) (by omega) (by omega),
    bitAt_eq (q := b2n eb * 2 ^ 0) ea
      (r := lo + d.toNat * 2 ^ 12 + a.toNat * 2 ^ 18 + b.toNat * 2 ^ 24) (by omega) (by omega),
    bitAt_eq (q := 0) eb
      (r := lo + d.toNat * 2 ^ 12 + a.toNat * 2 ^ 18 + b.toNat * 2 ^ 24 + b2n ea * 2 ^ 30) (by omega) (by omega)⟩

theorem decCI_enc {lo : Nat} (h : lo < 4096) (f : CI) : decCI (lo + encCI f) = f := by
  obtain ⟨d, a, ea, imm⟩ := f
  have h1 := d.isLt; have h2 := a.isLt; have h3 := b2n_lt ea; have h4 := imm.isLt
  simp only [decCI, encCI, CI.mk.injEq]
  refine ⟨bitField_eq (q := a.toNat * 2 ^ 0 + b2n ea * 2 ^ 6 + imm.toNat * 2 ^ 7) d
      (r := lo) (by omega) (by omega),
    bitField_eq (q := b2n ea * 2 ^ 0 + imm.toNat * 2 ^ 1) a
      (r := lo + d.toNat * 2 ^ 12) (by omega) (by omega),
    bitAt_eq (q := imm.toNat * 2 ^ 0) ea
      (r := lo + d.toNat * 2 ^ 12 + a.toNat * 2 ^ 18) (by omega) (by omega),
    bitField_eq (q := 0) imm
      (r := lo + d.toNat * 2 ^ 12 + a.toNat * 2 ^ 18 + b2n ea * 2 ^ 24) (by omega) (by omega)⟩

theorem decCJ_enc {lo : Nat} (h : lo < 4096) (f : CJ) : decCJ (lo + encCJ f) = f := by
  obtain ⟨off⟩ := f
  have h1 := off.isLt
  simp only [decCJ, encCJ, CJ.mk.injEq]
  exact bitField_eq (q := 0) off
      (r := lo) (by omega) (by omega)

theorem decCS_enc {lo : Nat} (h : lo < 4096) (f : CS) : decCS (lo + encCS f) = f := by
  obtain ⟨r, num, ea⟩ := f
  have h1 := r.isLt; have h2 := num.isLt; have h3 := b2n_lt ea
  simp only [decCS, encCS, CS.mk.injEq]
  refine ⟨bitField_eq (q := num.toNat * 2 ^ 0 + b2n ea * 2 ^ 10) r
      (r := lo) (by omega) (by omega),
    bitField_eq (q := b2n ea * 2 ^ 0) num
      (r := lo + r.toNat * 2 ^ 12) (by omega) (by omega),
    bitAt_eq (q := 0) ea
      (r := lo + r.toNat * 2 ^ 12 + num.toNat * 2 ^ 18) (by omega) (by omega)⟩

theorem decCL_enc {lo : Nat} (h : lo < 4096) (f : CL) : decCL (lo + encCL f) = f := by
  obtain ⟨d, a, b, ea, eb, lit⟩ := f
  have h1 := d.isLt; have h2 := a.isLt; have h3 := b.isLt; have h4 := b2n_lt ea
  have h5 := b2n_lt eb; have h6 := lit.isLt
  simp only [decCL, encCL, CL.mk.injEq]
  refine ⟨bitField_eq (q := a.toNat * 2 ^ 0 + b.toNat * 2 ^ 6 + b2n ea * 2 ^ 12 + b2n eb * 2 ^ 13 + lit.toNat * 2 ^ 14) d
      (r := lo) (by omega) (by omega),
    bitField_eq (q := b.toNat * 2 ^ 0 + b2n ea * 2 ^ 6 + b2n eb * 2 ^ 7 + lit.toNat * 2 ^ 8) a
      (r := lo + d.toNat * 2 ^ 12) (by omega) (by omega),
    bitField_eq (q := b2n ea * 2 ^ 0 + b2n eb * 2 ^ 1 + lit.toNat * 2 ^ 2) b
      (r := lo + d.toNat * 2 ^ 12 + a.toNat * 2 ^ 18) (by omega) (by omega),
    bitAt_eq (q := b2n eb * 2 ^ 0 + lit.toNat * 2 ^ 1) ea
      (r := lo + d.toNat * 2 ^ 12 + a.toNat * 2 ^ 18 + b.toNat * 2 ^ 24) (by omega) (by omega),
    bitAt_eq (q := lit.toNat * 2 ^ 0) eb
      (r := lo + d.toNat * 2 ^ 12 + a.toNat * 2 ^ 18 + b.toNat * 2 ^ 24 + b2n ea * 2 ^ 30) (by omega) (by omega),
    bitField_eq (q := 0) lit
      (r := lo + d.toNat * 2 ^ 12 + a.toNat * 2 ^ 18 + b.toNat * 2 ^ 24 + b2n ea * 2 ^ 30 + b2n eb * 2 ^ 31) (by omega) (by omega)⟩

theorem decCB_enc {lo : Nat} (h : lo < 4096) (f : CB) : decCB (lo + encCB f) = f := by
  obtain ⟨a, b, ea, eb, off⟩ := f
  have h1 := a.isLt; have h2 := b.isLt; have h3 := b2n_lt ea; have h4 := b2n_lt eb
  have h5 := off.isLt
  simp only [decCB, encCB, CB.mk.injEq]
  refine ⟨bitField_eq (q := b.toNat * 2 ^ 0 + b2n ea * 2 ^ 6 + b2n eb * 2 ^ 7 + off.toNat * 2 ^ 14) a
      (r := lo) (by omega) (by omega),
    bitField_eq (q := b2n ea * 2 ^ 0 + b2n eb * 2 ^ 1 + off.toNat * 2 ^ 8) b
      (r := lo + a.toNat * 2 ^ 12) (by omega) (by omega),
    bitAt_eq (q := b2n eb * 2 ^ 0 + off.toNat * 2 ^ 7) ea
      (r := lo + a.toNat * 2 ^ 12 + b.toNat * 2 ^ 18) (by omega) (by omega),
    bitAt_eq (q := off.toNat * 2 ^ 6) eb
      (r := lo + a.toNat * 2 ^ 12 + b.toNat * 2 ^ 18 + b2n ea * 2 ^ 24) (by omega) (by omega),
    bitField_eq (q := 0) off
      (r := lo + a.toNat * 2 ^ 12 + b.toNat * 2 ^ 18 + b2n ea * 2 ^ 24 + b2n eb * 2 ^ 25) (by omega) (by omega)⟩

theorem decCM_enc {lo : Nat} (h : lo < 4096) (f : CM) : decCM (lo + encCM f) = f := by
  obtain ⟨d, a, b, ea, eb, width, sx, scope, order, aop, hint, disp⟩ := f
  have h1 := d.isLt; have h2 := a.isLt; have h3 := b.isLt; have h4 := b2n_lt ea
  have h5 := b2n_lt eb; have h6 := width.isLt; have h7 := b2n_lt sx; have h8 := scope.isLt
  have h9 := order.isLt; have h10 := aop.isLt; have h11 := hint.isLt; have h12 := disp.isLt
  simp only [decCM, encCM, CM.mk.injEq]
  refine ⟨bitField_eq (q := a.toNat * 2 ^ 0 + b.toNat * 2 ^ 6 + b2n ea * 2 ^ 12 + b2n eb * 2 ^ 13 + width.toNat * 2 ^ 14 + b2n sx * 2 ^ 16 + scope.toNat * 2 ^ 17 + order.toNat * 2 ^ 20 + aop.toNat * 2 ^ 22 + hint.toNat * 2 ^ 26 + disp.toNat * 2 ^ 30) d
      (r := lo) (by omega) (by omega),
    bitField_eq (q := b.toNat * 2 ^ 0 + b2n ea * 2 ^ 6 + b2n eb * 2 ^ 7 + width.toNat * 2 ^ 8 + b2n sx * 2 ^ 10 + scope.toNat * 2 ^ 11 + order.toNat * 2 ^ 14 + aop.toNat * 2 ^ 16 + hint.toNat * 2 ^ 20 + disp.toNat * 2 ^ 24) a
      (r := lo + d.toNat * 2 ^ 12) (by omega) (by omega),
    bitField_eq (q := b2n ea * 2 ^ 0 + b2n eb * 2 ^ 1 + width.toNat * 2 ^ 2 + b2n sx * 2 ^ 4 + scope.toNat * 2 ^ 5 + order.toNat * 2 ^ 8 + aop.toNat * 2 ^ 10 + hint.toNat * 2 ^ 14 + disp.toNat * 2 ^ 18) b
      (r := lo + d.toNat * 2 ^ 12 + a.toNat * 2 ^ 18) (by omega) (by omega),
    bitAt_eq (q := b2n eb * 2 ^ 0 + width.toNat * 2 ^ 1 + b2n sx * 2 ^ 3 + scope.toNat * 2 ^ 4 + order.toNat * 2 ^ 7 + aop.toNat * 2 ^ 9 + hint.toNat * 2 ^ 13 + disp.toNat * 2 ^ 17) ea
      (r := lo + d.toNat * 2 ^ 12 + a.toNat * 2 ^ 18 + b.toNat * 2 ^ 24) (by omega) (by omega),
    bitAt_eq (q := width.toNat * 2 ^ 0 + b2n sx * 2 ^ 2 + scope.toNat * 2 ^ 3 + order.toNat * 2 ^ 6 + aop.toNat * 2 ^ 8 + hint.toNat * 2 ^ 12 + disp.toNat * 2 ^ 16) eb
      (r := lo + d.toNat * 2 ^ 12 + a.toNat * 2 ^ 18 + b.toNat * 2 ^ 24 + b2n ea * 2 ^ 30) (by omega) (by omega),
    bitField_eq (q := b2n sx * 2 ^ 0 + scope.toNat * 2 ^ 1 + order.toNat * 2 ^ 4 + aop.toNat * 2 ^ 6 + hint.toNat * 2 ^ 10 + disp.toNat * 2 ^ 14) width
      (r := lo + d.toNat * 2 ^ 12 + a.toNat * 2 ^ 18 + b.toNat * 2 ^ 24 + b2n ea * 2 ^ 30 + b2n eb * 2 ^ 31) (by omega) (by omega),
    bitAt_eq (q := scope.toNat * 2 ^ 0 + order.toNat * 2 ^ 3 + aop.toNat * 2 ^ 5 + hint.toNat * 2 ^ 9 + disp.toNat * 2 ^ 13) sx
      (r := lo + d.toNat * 2 ^ 12 + a.toNat * 2 ^ 18 + b.toNat * 2 ^ 24 + b2n ea * 2 ^ 30 + b2n eb * 2 ^ 31 + width.toNat * 2 ^ 32) (by omega) (by omega),
    bitField_eq (q := order.toNat * 2 ^ 0 + aop.toNat * 2 ^ 2 + hint.toNat * 2 ^ 6 + disp.toNat * 2 ^ 10) scope
      (r := lo + d.toNat * 2 ^ 12 + a.toNat * 2 ^ 18 + b.toNat * 2 ^ 24 + b2n ea * 2 ^ 30 + b2n eb * 2 ^ 31 + width.toNat * 2 ^ 32 + b2n sx * 2 ^ 34) (by omega) (by omega),
    bitField_eq (q := aop.toNat * 2 ^ 0 + hint.toNat * 2 ^ 4 + disp.toNat * 2 ^ 8) order
      (r := lo + d.toNat * 2 ^ 12 + a.toNat * 2 ^ 18 + b.toNat * 2 ^ 24 + b2n ea * 2 ^ 30 + b2n eb * 2 ^ 31 + width.toNat * 2 ^ 32 + b2n sx * 2 ^ 34 + scope.toNat * 2 ^ 35) (by omega) (by omega),
    bitField_eq (q := hint.toNat * 2 ^ 0 + disp.toNat * 2 ^ 4) aop
      (r := lo + d.toNat * 2 ^ 12 + a.toNat * 2 ^ 18 + b.toNat * 2 ^ 24 + b2n ea * 2 ^ 30 + b2n eb * 2 ^ 31 + width.toNat * 2 ^ 32 + b2n sx * 2 ^ 34 + scope.toNat * 2 ^ 35 + order.toNat * 2 ^ 38) (by omega) (by omega),
    bitField_eq (q := disp.toNat * 2 ^ 2) hint
      (r := lo + d.toNat * 2 ^ 12 + a.toNat * 2 ^ 18 + b.toNat * 2 ^ 24 + b2n ea * 2 ^ 30 + b2n eb * 2 ^ 31 + width.toNat * 2 ^ 32 + b2n sx * 2 ^ 34 + scope.toNat * 2 ^ 35 + order.toNat * 2 ^ 38 + aop.toNat * 2 ^ 40) (by omega) (by omega),
    bitField_eq (q := 0) disp
      (r := lo + d.toNat * 2 ^ 12 + a.toNat * 2 ^ 18 + b.toNat * 2 ^ 24 + b2n ea * 2 ^ 30 + b2n eb * 2 ^ 31 + width.toNat * 2 ^ 32 + b2n sx * 2 ^ 34 + scope.toNat * 2 ^ 35 + order.toNat * 2 ^ 38 + aop.toNat * 2 ^ 40 + hint.toNat * 2 ^ 44) (by omega) (by omega)⟩

theorem decCE_enc {lo : Nat} (h : lo < 4096) (f : CE) : decCE (lo + encCE f) = f := by
  obtain ⟨d, a, b, ea, eb, c, ec, t, aux, opts⟩ := f
  have h1 := d.isLt; have h2 := a.isLt; have h3 := b.isLt; have h4 := b2n_lt ea
  have h5 := b2n_lt eb; have h6 := c.isLt; have h7 := b2n_lt ec; have h8 := t.isLt
  have h9 := aux.isLt; have h10 := opts.isLt
  simp only [decCE, encCE, CE.mk.injEq]
  refine ⟨bitField_eq (q := a.toNat * 2 ^ 0 + b.toNat * 2 ^ 6 + b2n ea * 2 ^ 12 + b2n eb * 2 ^ 13 + c.toNat * 2 ^ 14 + b2n ec * 2 ^ 20 + t.toNat * 2 ^ 21 + aux.toNat * 2 ^ 27 + opts.toNat * 2 ^ 31) d
      (r := lo) (by omega) (by omega),
    bitField_eq (q := b.toNat * 2 ^ 0 + b2n ea * 2 ^ 6 + b2n eb * 2 ^ 7 + c.toNat * 2 ^ 8 + b2n ec * 2 ^ 14 + t.toNat * 2 ^ 15 + aux.toNat * 2 ^ 21 + opts.toNat * 2 ^ 25) a
      (r := lo + d.toNat * 2 ^ 12) (by omega) (by omega),
    bitField_eq (q := b2n ea * 2 ^ 0 + b2n eb * 2 ^ 1 + c.toNat * 2 ^ 2 + b2n ec * 2 ^ 8 + t.toNat * 2 ^ 9 + aux.toNat * 2 ^ 15 + opts.toNat * 2 ^ 19) b
      (r := lo + d.toNat * 2 ^ 12 + a.toNat * 2 ^ 18) (by omega) (by omega),
    bitAt_eq (q := b2n eb * 2 ^ 0 + c.toNat * 2 ^ 1 + b2n ec * 2 ^ 7 + t.toNat * 2 ^ 8 + aux.toNat * 2 ^ 14 + opts.toNat * 2 ^ 18) ea
      (r := lo + d.toNat * 2 ^ 12 + a.toNat * 2 ^ 18 + b.toNat * 2 ^ 24) (by omega) (by omega),
    bitAt_eq (q := c.toNat * 2 ^ 0 + b2n ec * 2 ^ 6 + t.toNat * 2 ^ 7 + aux.toNat * 2 ^ 13 + opts.toNat * 2 ^ 17) eb
      (r := lo + d.toNat * 2 ^ 12 + a.toNat * 2 ^ 18 + b.toNat * 2 ^ 24 + b2n ea * 2 ^ 30) (by omega) (by omega),
    bitField_eq (q := b2n ec * 2 ^ 0 + t.toNat * 2 ^ 1 + aux.toNat * 2 ^ 7 + opts.toNat * 2 ^ 11) c
      (r := lo + d.toNat * 2 ^ 12 + a.toNat * 2 ^ 18 + b.toNat * 2 ^ 24 + b2n ea * 2 ^ 30 + b2n eb * 2 ^ 31) (by omega) (by omega),
    bitAt_eq (q := t.toNat * 2 ^ 0 + aux.toNat * 2 ^ 6 + opts.toNat * 2 ^ 10) ec
      (r := lo + d.toNat * 2 ^ 12 + a.toNat * 2 ^ 18 + b.toNat * 2 ^ 24 + b2n ea * 2 ^ 30 + b2n eb * 2 ^ 31 + c.toNat * 2 ^ 32) (by omega) (by omega),
    bitField_eq (q := aux.toNat * 2 ^ 0 + opts.toNat * 2 ^ 4) t
      (r := lo + d.toNat * 2 ^ 12 + a.toNat * 2 ^ 18 + b.toNat * 2 ^ 24 + b2n ea * 2 ^ 30 + b2n eb * 2 ^ 31 + c.toNat * 2 ^ 32 + b2n ec * 2 ^ 38) (by omega) (by omega),
    bitField_eq (q := opts.toNat * 2 ^ 0) aux
      (r := lo + d.toNat * 2 ^ 12 + a.toNat * 2 ^ 18 + b.toNat * 2 ^ 24 + b2n ea * 2 ^ 30 + b2n eb * 2 ^ 31 + c.toNat * 2 ^ 32 + b2n ec * 2 ^ 38 + t.toNat * 2 ^ 39) (by omega) (by omega),
    bitField_eq (q := 0) opts
      (r := lo + d.toNat * 2 ^ 12 + a.toNat * 2 ^ 18 + b.toNat * 2 ^ 24 + b2n ea * 2 ^ 30 + b2n eb * 2 ^ 31 + c.toNat * 2 ^ 32 + b2n ec * 2 ^ 38 + t.toNat * 2 ^ 39 + aux.toNat * 2 ^ 45) (by omega) (by omega)⟩

theorem decCQ_enc {lo : Nat} (h : lo < 4096) (f : CQ) : decCQ (lo + encCQ f) = f := by
  obtain ⟨a, b, c, e, off⟩ := f
  have h1 := a.isLt; have h2 := b.isLt; have h3 := c.isLt; have h4 := b2n_lt e
  have h5 := off.isLt
  simp only [decCQ, encCQ, CQ.mk.injEq]
  refine ⟨bitField_eq (q := b.toNat * 2 ^ 0 + c.toNat * 2 ^ 6 + b2n e * 2 ^ 12 + off.toNat * 2 ^ 14) a
      (r := lo) (by omega) (by omega),
    bitField_eq (q := c.toNat * 2 ^ 0 + b2n e * 2 ^ 6 + off.toNat * 2 ^ 8) b
      (r := lo + a.toNat * 2 ^ 12) (by omega) (by omega),
    bitField_eq (q := b2n e * 2 ^ 0 + off.toNat * 2 ^ 2) c
      (r := lo + a.toNat * 2 ^ 12 + b.toNat * 2 ^ 18) (by omega) (by omega),
    bitAt_eq (q := off.toNat * 2 ^ 1) e
      (r := lo + a.toNat * 2 ^ 12 + b.toNat * 2 ^ 18 + c.toNat * 2 ^ 24) (by omega) (by omega),
    bitField_eq (q := 0) off
      (r := lo + a.toNat * 2 ^ 12 + b.toNat * 2 ^ 18 + c.toNat * 2 ^ 24 + b2n e * 2 ^ 30) (by omega) (by omega)⟩

theorem decVB_enc {lo : Nat} (h : lo < 4096) (f : VB) : decVB (lo + encVB f) = f := by
  obtain ⟨c, sense, jid, off⟩ := f
  have h1 := c.isLt; have h2 := b2n_lt sense; have h3 := jid.isLt; have h4 := off.isLt
  simp only [decVB, encVB, VB.mk.injEq]
  refine ⟨bitField_eq (q := b2n sense * 2 ^ 0 + jid.toNat * 2 ^ 1 + off.toNat * 2 ^ 17) c
      (r := lo) (by omega) (by omega),
    bitAt_eq (q := jid.toNat * 2 ^ 0 + off.toNat * 2 ^ 16) sense
      (r := lo + c.toNat * 2 ^ 12) (by omega) (by omega),
    bitField_eq (q := off.toNat * 2 ^ 8) jid
      (r := lo + c.toNat * 2 ^ 12 + b2n sense * 2 ^ 15) (by omega) (by omega),
    bitField_eq (q := 0) off
      (r := lo + c.toNat * 2 ^ 12 + b2n sense * 2 ^ 15 + jid.toNat * 2 ^ 16) (by omega) (by omega)⟩

theorem decQR_enc (q : Nat) (f : QR) : decQR (q * 2 ^ 26 + encQR f) = f := by
  obtain ⟨s, d, a, b, bs, ty, ck, cond, c⟩ := f
  have h1 := c.isLt; have h2 := cond.isLt; have h3 := b2n_lt ck; have h4 := ty.isLt
  have h5 := b2n_lt bs; have h6 := b.isLt; have h7 := a.isLt; have h8 := d.isLt
  have h9 := b2n_lt s
  simp only [decQR, encQR, QR.mk.injEq]
  refine ⟨bitAt_eq (q := q * 2 ^ 0) s
      (r := c.toNat * 2 ^ 2 + cond.toNat * 2 ^ 6 + b2n ck * 2 ^ 9 + ty.toNat * 2 ^ 10 + b2n bs * 2 ^ 12 + b.toNat * 2 ^ 13 + a.toNat * 2 ^ 17 + d.toNat * 2 ^ 21) (by omega) (by omega),
    bitField_eq (q := b2n s * 2 ^ 0 + q * 2 ^ 1) d
      (r := c.toNat * 2 ^ 2 + cond.toNat * 2 ^ 6 + b2n ck * 2 ^ 9 + ty.toNat * 2 ^ 10 + b2n bs * 2 ^ 12 + b.toNat * 2 ^ 13 + a.toNat * 2 ^ 17) (by omega) (by omega),
    bitField_eq (q := d.toNat * 2 ^ 0 + b2n s * 2 ^ 4 + q * 2 ^ 5) a
      (r := c.toNat * 2 ^ 2 + cond.toNat * 2 ^ 6 + b2n ck * 2 ^ 9 + ty.toNat * 2 ^ 10 + b2n bs * 2 ^ 12 + b.toNat * 2 ^ 13) (by omega) (by omega),
    bitField_eq (q := a.toNat * 2 ^ 0 + d.toNat * 2 ^ 4 + b2n s * 2 ^ 8 + q * 2 ^ 9) b
      (r := c.toNat * 2 ^ 2 + cond.toNat * 2 ^ 6 + b2n ck * 2 ^ 9 + ty.toNat * 2 ^ 10 + b2n bs * 2 ^ 12) (by omega) (by omega),
    bitAt_eq (q := b.toNat * 2 ^ 0 + a.toNat * 2 ^ 4 + d.toNat * 2 ^ 8 + b2n s * 2 ^ 12 + q * 2 ^ 13) bs
      (r := c.toNat * 2 ^ 2 + cond.toNat * 2 ^ 6 + b2n ck * 2 ^ 9 + ty.toNat * 2 ^ 10) (by omega) (by omega),
    bitField_eq (q := b2n bs * 2 ^ 0 + b.toNat * 2 ^ 1 + a.toNat * 2 ^ 5 + d.toNat * 2 ^ 9 + b2n s * 2 ^ 13 + q * 2 ^ 14) ty
      (r := c.toNat * 2 ^ 2 + cond.toNat * 2 ^ 6 + b2n ck * 2 ^ 9) (by omega) (by omega),
    bitAt_eq (q := ty.toNat * 2 ^ 0 + b2n bs * 2 ^ 2 + b.toNat * 2 ^ 3 + a.toNat * 2 ^ 7 + d.toNat * 2 ^ 11 + b2n s * 2 ^ 15 + q * 2 ^ 16) ck
      (r := c.toNat * 2 ^ 2 + cond.toNat * 2 ^ 6) (by omega) (by omega),
    bitField_eq (q := b2n ck * 2 ^ 0 + ty.toNat * 2 ^ 1 + b2n bs * 2 ^ 3 + b.toNat * 2 ^ 4 + a.toNat * 2 ^ 8 + d.toNat * 2 ^ 12 + b2n s * 2 ^ 16 + q * 2 ^ 17) cond
      (r := c.toNat * 2 ^ 2) (by omega) (by omega),
    bitField_eq (q := cond.toNat * 2 ^ 0 + b2n ck * 2 ^ 3 + ty.toNat * 2 ^ 4 + b2n bs * 2 ^ 6 + b.toNat * 2 ^ 7 + a.toNat * 2 ^ 11 + d.toNat * 2 ^ 15 + b2n s * 2 ^ 19 + q * 2 ^ 20) c
      (r := 0) (by omega) (by omega)⟩

theorem decQI_enc (q : Nat) (f : QI) : decQI (q * 2 ^ 26 + encQI f) = f := by
  obtain ⟨s, d, a, x, imm⟩ := f
  have h1 := imm.isLt; have h2 := b2n_lt x; have h3 := a.isLt; have h4 := d.isLt
  have h5 := b2n_lt s
  simp only [decQI, encQI, QI.mk.injEq]
  refine ⟨bitAt_eq (q := q * 2 ^ 0) s
      (r := imm.toNat * 2 ^ 0 + b2n x * 2 ^ 16 + a.toNat * 2 ^ 17 + d.toNat * 2 ^ 21) (by omega) (by omega),
    bitField_eq (q := b2n s * 2 ^ 0 + q * 2 ^ 1) d
      (r := imm.toNat * 2 ^ 0 + b2n x * 2 ^ 16 + a.toNat * 2 ^ 17) (by omega) (by omega),
    bitField_eq (q := d.toNat * 2 ^ 0 + b2n s * 2 ^ 4 + q * 2 ^ 5) a
      (r := imm.toNat * 2 ^ 0 + b2n x * 2 ^ 16) (by omega) (by omega),
    bitAt_eq (q := a.toNat * 2 ^ 0 + d.toNat * 2 ^ 4 + b2n s * 2 ^ 8 + q * 2 ^ 9) x
      (r := imm.toNat * 2 ^ 0) (by omega) (by omega),
    bitField_eq (q := b2n x * 2 ^ 0 + a.toNat * 2 ^ 1 + d.toNat * 2 ^ 5 + b2n s * 2 ^ 9 + q * 2 ^ 10) imm
      (r := 0) (by omega) (by omega)⟩

theorem decQB_enc (q : Nat) (f : QB) : decQB (q * 2 ^ 26 + encQB f) = f := by
  obtain ⟨cond, a, b, off⟩ := f
  have h1 := off.isLt; have h2 := b.isLt; have h3 := a.isLt; have h4 := cond.isLt
  simp only [decQB, encQB, QB.mk.injEq]
  refine ⟨bitField_eq (q := q * 2 ^ 0) cond
      (r := off.toNat * 2 ^ 0 + b.toNat * 2 ^ 14 + a.toNat * 2 ^ 18) (by omega) (by omega),
    bitField_eq (q := cond.toNat * 2 ^ 0 + q * 2 ^ 4) a
      (r := off.toNat * 2 ^ 0 + b.toNat * 2 ^ 14) (by omega) (by omega),
    bitField_eq (q := a.toNat * 2 ^ 0 + cond.toNat * 2 ^ 4 + q * 2 ^ 8) b
      (r := off.toNat * 2 ^ 0) (by omega) (by omega),
    bitField_eq (q := b.toNat * 2 ^ 8 + a.toNat * 2 ^ 12 + cond.toNat * 2 ^ 16 + q * 2 ^ 20) off
      (r := 0) (by omega) (by omega)⟩

theorem decV3_short {lo : Nat} (h : lo < 4096) (d : Operand) (a : Operand) (b : Operand) (c : Operand) (ea : Bool) (eb : Bool) (ec : Bool) (t : BitVec 4) (m : BitVec 3) (w : Bool) (sat : Bool) :
    decV3 false (lo + encV3 (V3.mk d a b c ea eb ec t m w sat none)) = V3.mk d a b c ea eb ec t m w sat none := by
  have h1 := encOperand_lt d; have h2 := encOperand_lt a; have h3 := encOperand_lt b; have h4 := encOperand_lt c
  have h5 := b2n_lt ea; have h6 := b2n_lt eb; have h7 := b2n_lt ec; have h8 := t.isLt
  have h9 := m.isLt; have h10 := b2n_lt w; have h11 := b2n_lt sat
  simp only [decV3, encV3, V3.mk.injEq, Bool.false_eq_true, if_false, and_true]
  refine ⟨decOperand_eq (q := encOperand a * 2 ^ 0 + encOperand b * 2 ^ 10 + encOperand c * 2 ^ 20 + b2n ea * 2 ^ 30 + b2n eb * 2 ^ 31 + b2n ec * 2 ^ 32 + t.toNat * 2 ^ 33 + m.toNat * 2 ^ 37 + b2n w * 2 ^ 40 + b2n sat * 2 ^ 41) d
      (r := lo) (by omega) (by omega),
    decOperand_eq (q := encOperand b * 2 ^ 0 + encOperand c * 2 ^ 10 + b2n ea * 2 ^ 20 + b2n eb * 2 ^ 21 + b2n ec * 2 ^ 22 + t.toNat * 2 ^ 23 + m.toNat * 2 ^ 27 + b2n w * 2 ^ 30 + b2n sat * 2 ^ 31) a
      (r := lo + encOperand d * 2 ^ 12) (by omega) (by omega),
    decOperand_eq (q := encOperand c * 2 ^ 0 + b2n ea * 2 ^ 10 + b2n eb * 2 ^ 11 + b2n ec * 2 ^ 12 + t.toNat * 2 ^ 13 + m.toNat * 2 ^ 17 + b2n w * 2 ^ 20 + b2n sat * 2 ^ 21) b
      (r := lo + encOperand d * 2 ^ 12 + encOperand a * 2 ^ 22) (by omega) (by omega),
    decOperand_eq (q := b2n ea * 2 ^ 0 + b2n eb * 2 ^ 1 + b2n ec * 2 ^ 2 + t.toNat * 2 ^ 3 + m.toNat * 2 ^ 7 + b2n w * 2 ^ 10 + b2n sat * 2 ^ 11) c
      (r := lo + encOperand d * 2 ^ 12 + encOperand a * 2 ^ 22 + encOperand b * 2 ^ 32) (by omega) (by omega),
    bitAt_eq (q := b2n eb * 2 ^ 0 + b2n ec * 2 ^ 1 + t.toNat * 2 ^ 2 + m.toNat * 2 ^ 6 + b2n w * 2 ^ 9 + b2n sat * 2 ^ 10) ea
      (r := lo + encOperand d * 2 ^ 12 + encOperand a * 2 ^ 22 + encOperand b * 2 ^ 32 + encOperand c * 2 ^ 42) (by omega) (by omega),
    bitAt_eq (q := b2n ec * 2 ^ 0 + t.toNat * 2 ^ 1 + m.toNat * 2 ^ 5 + b2n w * 2 ^ 8 + b2n sat * 2 ^ 9) eb
      (r := lo + encOperand d * 2 ^ 12 + encOperand a * 2 ^ 22 + encOperand b * 2 ^ 32 + encOperand c * 2 ^ 42 + b2n ea * 2 ^ 52) (by omega) (by omega),
    bitAt_eq (q := t.toNat * 2 ^ 0 + m.toNat * 2 ^ 4 + b2n w * 2 ^ 7 + b2n sat * 2 ^ 8) ec
      (r := lo + encOperand d * 2 ^ 12 + encOperand a * 2 ^ 22 + encOperand b * 2 ^ 32 + encOperand c * 2 ^ 42 + b2n ea * 2 ^ 52 + b2n eb * 2 ^ 53) (by omega) (by omega),
    bitField_eq (q := m.toNat * 2 ^ 0 + b2n w * 2 ^ 3 + b2n sat * 2 ^ 4) t
      (r := lo + encOperand d * 2 ^ 12 + encOperand a * 2 ^ 22 + encOperand b * 2 ^ 32 + encOperand c * 2 ^ 42 + b2n ea * 2 ^ 52 + b2n eb * 2 ^ 53 + b2n ec * 2 ^ 54) (by omega) (by omega),
    bitField_eq (q := b2n w * 2 ^ 0 + b2n sat * 2 ^ 1) m
      (r := lo + encOperand d * 2 ^ 12 + encOperand a * 2 ^ 22 + encOperand b * 2 ^ 32 + encOperand c * 2 ^ 42 + b2n ea * 2 ^ 52 + b2n eb * 2 ^ 53 + b2n ec * 2 ^ 54 + t.toNat * 2 ^ 55) (by omega) (by omega),
    bitAt_eq (q := b2n sat * 2 ^ 0) w
      (r := lo + encOperand d * 2 ^ 12 + encOperand a * 2 ^ 22 + encOperand b * 2 ^ 32 + encOperand c * 2 ^ 42 + b2n ea * 2 ^ 52 + b2n eb * 2 ^ 53 + b2n ec * 2 ^ 54 + t.toNat * 2 ^ 55 + m.toNat * 2 ^ 59) (by omega) (by omega),
    bitAt_eq (q := 0) sat
      (r := lo + encOperand d * 2 ^ 12 + encOperand a * 2 ^ 22 + encOperand b * 2 ^ 32 + encOperand c * 2 ^ 42 + b2n ea * 2 ^ 52 + b2n eb * 2 ^ 53 + b2n ec * 2 ^ 54 + t.toNat * 2 ^ 55 + m.toNat * 2 ^ 59 + b2n w * 2 ^ 62) (by omega) (by omega)⟩

theorem decV3_long {lo : Nat} (h : lo < 4096) (d : Operand) (a : Operand) (b : Operand) (c : Operand) (ea : Bool) (eb : Bool) (ec : Bool) (t : BitVec 4) (m : BitVec 3) (w : Bool) (sat : Bool) (l : BitVec 32) :
    decV3 true (lo + encV3 (V3.mk d a b c ea eb ec t m w sat (some l))) = V3.mk d a b c ea eb ec t m w sat (some l) := by
  have h1 := encOperand_lt d; have h2 := encOperand_lt a; have h3 := encOperand_lt b; have h4 := encOperand_lt c
  have h5 := b2n_lt ea; have h6 := b2n_lt eb; have h7 := b2n_lt ec; have h8 := t.isLt
  have h9 := m.isLt; have h10 := b2n_lt w; have h11 := b2n_lt sat; have h12 := l.isLt
  simp only [decV3, encV3, V3.mk.injEq, if_true, Option.some.injEq]
  refine ⟨decOperand_eq (q := encOperand a * 2 ^ 0 + encOperand b * 2 ^ 10 + encOperand c * 2 ^ 20 + b2n ea * 2 ^ 30 + b2n eb * 2 ^ 31 + b2n ec * 2 ^ 32 + t.toNat * 2 ^ 33 + m.toNat * 2 ^ 37 + b2n w * 2 ^ 40 + b2n sat * 2 ^ 41 + l.toNat * 2 ^ 42) d
      (r := lo) (by omega) (by omega),
    decOperand_eq (q := encOperand b * 2 ^ 0 + encOperand c * 2 ^ 10 + b2n ea * 2 ^ 20 + b2n eb * 2 ^ 21 + b2n ec * 2 ^ 22 + t.toNat * 2 ^ 23 + m.toNat * 2 ^ 27 + b2n w * 2 ^ 30 + b2n sat * 2 ^ 31 + l.toNat * 2 ^ 32) a
      (r := lo + encOperand d * 2 ^ 12) (by omega) (by omega),
    decOperand_eq (q := encOperand c * 2 ^ 0 + b2n ea * 2 ^ 10 + b2n eb * 2 ^ 11 + b2n ec * 2 ^ 12 + t.toNat * 2 ^ 13 + m.toNat * 2 ^ 17 + b2n w * 2 ^ 20 + b2n sat * 2 ^ 21 + l.toNat * 2 ^ 22) b
      (r := lo + encOperand d * 2 ^ 12 + encOperand a * 2 ^ 22) (by omega) (by omega),
    decOperand_eq (q := b2n ea * 2 ^ 0 + b2n eb * 2 ^ 1 + b2n ec * 2 ^ 2 + t.toNat * 2 ^ 3 + m.toNat * 2 ^ 7 + b2n w * 2 ^ 10 + b2n sat * 2 ^ 11 + l.toNat * 2 ^ 12) c
      (r := lo + encOperand d * 2 ^ 12 + encOperand a * 2 ^ 22 + encOperand b * 2 ^ 32) (by omega) (by omega),
    bitAt_eq (q := b2n eb * 2 ^ 0 + b2n ec * 2 ^ 1 + t.toNat * 2 ^ 2 + m.toNat * 2 ^ 6 + b2n w * 2 ^ 9 + b2n sat * 2 ^ 10 + l.toNat * 2 ^ 11) ea
      (r := lo + encOperand d * 2 ^ 12 + encOperand a * 2 ^ 22 + encOperand b * 2 ^ 32 + encOperand c * 2 ^ 42) (by omega) (by omega),
    bitAt_eq (q := b2n ec * 2 ^ 0 + t.toNat * 2 ^ 1 + m.toNat * 2 ^ 5 + b2n w * 2 ^ 8 + b2n sat * 2 ^ 9 + l.toNat * 2 ^ 10) eb
      (r := lo + encOperand d * 2 ^ 12 + encOperand a * 2 ^ 22 + encOperand b * 2 ^ 32 + encOperand c * 2 ^ 42 + b2n ea * 2 ^ 52) (by omega) (by omega),
    bitAt_eq (q := t.toNat * 2 ^ 0 + m.toNat * 2 ^ 4 + b2n w * 2 ^ 7 + b2n sat * 2 ^ 8 + l.toNat * 2 ^ 9) ec
      (r := lo + encOperand d * 2 ^ 12 + encOperand a * 2 ^ 22 + encOperand b * 2 ^ 32 + encOperand c * 2 ^ 42 + b2n ea * 2 ^ 52 + b2n eb * 2 ^ 53) (by omega) (by omega),
    bitField_eq (q := m.toNat * 2 ^ 0 + b2n w * 2 ^ 3 + b2n sat * 2 ^ 4 + l.toNat * 2 ^ 5) t
      (r := lo + encOperand d * 2 ^ 12 + encOperand a * 2 ^ 22 + encOperand b * 2 ^ 32 + encOperand c * 2 ^ 42 + b2n ea * 2 ^ 52 + b2n eb * 2 ^ 53 + b2n ec * 2 ^ 54) (by omega) (by omega),
    bitField_eq (q := b2n w * 2 ^ 0 + b2n sat * 2 ^ 1 + l.toNat * 2 ^ 2) m
      (r := lo + encOperand d * 2 ^ 12 + encOperand a * 2 ^ 22 + encOperand b * 2 ^ 32 + encOperand c * 2 ^ 42 + b2n ea * 2 ^ 52 + b2n eb * 2 ^ 53 + b2n ec * 2 ^ 54 + t.toNat * 2 ^ 55) (by omega) (by omega),
    bitAt_eq (q := b2n sat * 2 ^ 0 + l.toNat * 2 ^ 1) w
      (r := lo + encOperand d * 2 ^ 12 + encOperand a * 2 ^ 22 + encOperand b * 2 ^ 32 + encOperand c * 2 ^ 42 + b2n ea * 2 ^ 52 + b2n eb * 2 ^ 53 + b2n ec * 2 ^ 54 + t.toNat * 2 ^ 55 + m.toNat * 2 ^ 59) (by omega) (by omega),
    bitAt_eq (q := l.toNat * 2 ^ 0) sat
      (r := lo + encOperand d * 2 ^ 12 + encOperand a * 2 ^ 22 + encOperand b * 2 ^ 32 + encOperand c * 2 ^ 42 + b2n ea * 2 ^ 52 + b2n eb * 2 ^ 53 + b2n ec * 2 ^ 54 + t.toNat * 2 ^ 55 + m.toNat * 2 ^ 59 + b2n w * 2 ^ 62) (by omega) (by omega),
    bitField_eq (q := 0) l
      (r := lo + encOperand d * 2 ^ 12 + encOperand a * 2 ^ 22 + encOperand b * 2 ^ 32 + encOperand c * 2 ^ 42 + b2n ea * 2 ^ 52 + b2n eb * 2 ^ 53 + b2n ec * 2 ^ 54 + t.toNat * 2 ^ 55 + m.toNat * 2 ^ 59 + b2n w * 2 ^ 62 + b2n sat * 2 ^ 63) (by omega) (by omega)⟩

theorem decVM_d {lo : Nat} (h : lo < 4096) (f : VM) : decOperand (lo + encVM f) 12 = f.d := by
  simp only [encVM]
  exact decOperand_eq (q := encOperand f.a * 2 ^ 0 + f.qb.toNat * 2 ^ 10 + b2n f.am * 2 ^ 14 + f.scale.toNat * 2 ^ 15 + f.width.toNat * 2 ^ 17 + b2n f.sx * 2 ^ 20 + f.scope.toNat * 2 ^ 21 + f.order.toNat * 2 ^ 24 + f.hint.toNat * 2 ^ 26 + b2n f.ea * 2 ^ 28 + b2n f.ed * 2 ^ 29 + f.disp.toNat * 2 ^ 30) f.d
      (r := lo) (by omega) (by omega)

theorem decVM_a {lo : Nat} (h : lo < 4096) (f : VM) : decOperand (lo + encVM f) 22 = f.a := by
  have h1 := encOperand_lt f.d
  simp only [encVM]
  exact decOperand_eq (q := f.qb.toNat * 2 ^ 0 + b2n f.am * 2 ^ 4 + f.scale.toNat * 2 ^ 5 + f.width.toNat * 2 ^ 7 + b2n f.sx * 2 ^ 10 + f.scope.toNat * 2 ^ 11 + f.order.toNat * 2 ^ 14 + f.hint.toNat * 2 ^ 16 + b2n f.ea * 2 ^ 18 + b2n f.ed * 2 ^ 19 + f.disp.toNat * 2 ^ 20) f.a
      (r := lo + encOperand f.d * 2 ^ 12) (by omega) (by omega)

theorem decVM_qb {lo : Nat} (h : lo < 4096) (f : VM) : bitField (lo + encVM f) 32 4 = f.qb := by
  have h1 := encOperand_lt f.d; have h2 := encOperand_lt f.a
  simp only [encVM]
  exact bitField_eq (q := b2n f.am * 2 ^ 0 + f.scale.toNat * 2 ^ 1 + f.width.toNat * 2 ^ 3 + b2n f.sx * 2 ^ 6 + f.scope.toNat * 2 ^ 7 + f.order.toNat * 2 ^ 10 + f.hint.toNat * 2 ^ 12 + b2n f.ea * 2 ^ 14 + b2n f.ed * 2 ^ 15 + f.disp.toNat * 2 ^ 16) f.qb
      (r := lo + encOperand f.d * 2 ^ 12 + encOperand f.a * 2 ^ 22) (by omega) (by omega)

theorem decVM_am {lo : Nat} (h : lo < 4096) (f : VM) : bitAt (lo + encVM f) 36 = f.am := by
  have h1 := encOperand_lt f.d; have h2 := encOperand_lt f.a; have h3 := f.qb.isLt
  simp only [encVM]
  exact bitAt_eq (q := f.scale.toNat * 2 ^ 0 + f.width.toNat * 2 ^ 2 + b2n f.sx * 2 ^ 5 + f.scope.toNat * 2 ^ 6 + f.order.toNat * 2 ^ 9 + f.hint.toNat * 2 ^ 11 + b2n f.ea * 2 ^ 13 + b2n f.ed * 2 ^ 14 + f.disp.toNat * 2 ^ 15) f.am
      (r := lo + encOperand f.d * 2 ^ 12 + encOperand f.a * 2 ^ 22 + f.qb.toNat * 2 ^ 32) (by omega) (by omega)

theorem decVM_scale {lo : Nat} (h : lo < 4096) (f : VM) : bitField (lo + encVM f) 37 2 = f.scale := by
  have h1 := encOperand_lt f.d; have h2 := encOperand_lt f.a; have h3 := f.qb.isLt; have h4 := b2n_lt f.am
  simp only [encVM]
  exact bitField_eq (q := f.width.toNat * 2 ^ 0 + b2n f.sx * 2 ^ 3 + f.scope.toNat * 2 ^ 4 + f.order.toNat * 2 ^ 7 + f.hint.toNat * 2 ^ 9 + b2n f.ea * 2 ^ 11 + b2n f.ed * 2 ^ 12 + f.disp.toNat * 2 ^ 13) f.scale
      (r := lo + encOperand f.d * 2 ^ 12 + encOperand f.a * 2 ^ 22 + f.qb.toNat * 2 ^ 32 + b2n f.am * 2 ^ 36) (by omega) (by omega)

theorem decVM_width {lo : Nat} (h : lo < 4096) (f : VM) : bitField (lo + encVM f) 39 3 = f.width := by
  have h1 := encOperand_lt f.d; have h2 := encOperand_lt f.a; have h3 := f.qb.isLt; have h4 := b2n_lt f.am
  have h5 := f.scale.isLt
  simp only [encVM]
  exact bitField_eq (q := b2n f.sx * 2 ^ 0 + f.scope.toNat * 2 ^ 1 + f.order.toNat * 2 ^ 4 + f.hint.toNat * 2 ^ 6 + b2n f.ea * 2 ^ 8 + b2n f.ed * 2 ^ 9 + f.disp.toNat * 2 ^ 10) f.width
      (r := lo + encOperand f.d * 2 ^ 12 + encOperand f.a * 2 ^ 22 + f.qb.toNat * 2 ^ 32 + b2n f.am * 2 ^ 36 + f.scale.toNat * 2 ^ 37) (by omega) (by omega)

theorem decVM_sx {lo : Nat} (h : lo < 4096) (f : VM) : bitAt (lo + encVM f) 42 = f.sx := by
  have h1 := encOperand_lt f.d; have h2 := encOperand_lt f.a; have h3 := f.qb.isLt; have h4 := b2n_lt f.am
  have h5 := f.scale.isLt; have h6 := f.width.isLt
  simp only [encVM]
  exact bitAt_eq (q := f.scope.toNat * 2 ^ 0 + f.order.toNat * 2 ^ 3 + f.hint.toNat * 2 ^ 5 + b2n f.ea * 2 ^ 7 + b2n f.ed * 2 ^ 8 + f.disp.toNat * 2 ^ 9) f.sx
      (r := lo + encOperand f.d * 2 ^ 12 + encOperand f.a * 2 ^ 22 + f.qb.toNat * 2 ^ 32 + b2n f.am * 2 ^ 36 + f.scale.toNat * 2 ^ 37 + f.width.toNat * 2 ^ 39) (by omega) (by omega)

theorem decVM_scope {lo : Nat} (h : lo < 4096) (f : VM) : bitField (lo + encVM f) 43 3 = f.scope := by
  have h1 := encOperand_lt f.d; have h2 := encOperand_lt f.a; have h3 := f.qb.isLt; have h4 := b2n_lt f.am
  have h5 := f.scale.isLt; have h6 := f.width.isLt; have h7 := b2n_lt f.sx
  simp only [encVM]
  exact bitField_eq (q := f.order.toNat * 2 ^ 0 + f.hint.toNat * 2 ^ 2 + b2n f.ea * 2 ^ 4 + b2n f.ed * 2 ^ 5 + f.disp.toNat * 2 ^ 6) f.scope
      (r := lo + encOperand f.d * 2 ^ 12 + encOperand f.a * 2 ^ 22 + f.qb.toNat * 2 ^ 32 + b2n f.am * 2 ^ 36 + f.scale.toNat * 2 ^ 37 + f.width.toNat * 2 ^ 39 + b2n f.sx * 2 ^ 42) (by omega) (by omega)

theorem decVM_order {lo : Nat} (h : lo < 4096) (f : VM) : bitField (lo + encVM f) 46 2 = f.order := by
  have h1 := encOperand_lt f.d; have h2 := encOperand_lt f.a; have h3 := f.qb.isLt; have h4 := b2n_lt f.am
  have h5 := f.scale.isLt; have h6 := f.width.isLt; have h7 := b2n_lt f.sx; have h8 := f.scope.isLt
  simp only [encVM]
  exact bitField_eq (q := f.hint.toNat * 2 ^ 0 + b2n f.ea * 2 ^ 2 + b2n f.ed * 2 ^ 3 + f.disp.toNat * 2 ^ 4) f.order
      (r := lo + encOperand f.d * 2 ^ 12 + encOperand f.a * 2 ^ 22 + f.qb.toNat * 2 ^ 32 + b2n f.am * 2 ^ 36 + f.scale.toNat * 2 ^ 37 + f.width.toNat * 2 ^ 39 + b2n f.sx * 2 ^ 42 + f.scope.toNat * 2 ^ 43) (by omega) (by omega)

theorem decVM_hint {lo : Nat} (h : lo < 4096) (f : VM) : bitField (lo + encVM f) 48 2 = f.hint := by
  have h1 := encOperand_lt f.d; have h2 := encOperand_lt f.a; have h3 := f.qb.isLt; have h4 := b2n_lt f.am
  have h5 := f.scale.isLt; have h6 := f.width.isLt; have h7 := b2n_lt f.sx; have h8 := f.scope.isLt
  have h9 := f.order.isLt
  simp only [encVM]
  exact bitField_eq (q := b2n f.ea * 2 ^ 0 + b2n f.ed * 2 ^ 1 + f.disp.toNat * 2 ^ 2) f.hint
      (r := lo + encOperand f.d * 2 ^ 12 + encOperand f.a * 2 ^ 22 + f.qb.toNat * 2 ^ 32 + b2n f.am * 2 ^ 36 + f.scale.toNat * 2 ^ 37 + f.width.toNat * 2 ^ 39 + b2n f.sx * 2 ^ 42 + f.scope.toNat * 2 ^ 43 + f.order.toNat * 2 ^ 46) (by omega) (by omega)

theorem decVM_ea {lo : Nat} (h : lo < 4096) (f : VM) : bitAt (lo + encVM f) 50 = f.ea := by
  have h1 := encOperand_lt f.d; have h2 := encOperand_lt f.a; have h3 := f.qb.isLt; have h4 := b2n_lt f.am
  have h5 := f.scale.isLt; have h6 := f.width.isLt; have h7 := b2n_lt f.sx; have h8 := f.scope.isLt
  have h9 := f.order.isLt; have h10 := f.hint.isLt
  simp only [encVM]
  exact bitAt_eq (q := b2n f.ed * 2 ^ 0 + f.disp.toNat * 2 ^ 1) f.ea
      (r := lo + encOperand f.d * 2 ^ 12 + encOperand f.a * 2 ^ 22 + f.qb.toNat * 2 ^ 32 + b2n f.am * 2 ^ 36 + f.scale.toNat * 2 ^ 37 + f.width.toNat * 2 ^ 39 + b2n f.sx * 2 ^ 42 + f.scope.toNat * 2 ^ 43 + f.order.toNat * 2 ^ 46 + f.hint.toNat * 2 ^ 48) (by omega) (by omega)

theorem decVM_ed {lo : Nat} (h : lo < 4096) (f : VM) : bitAt (lo + encVM f) 51 = f.ed := by
  have h1 := encOperand_lt f.d; have h2 := encOperand_lt f.a; have h3 := f.qb.isLt; have h4 := b2n_lt f.am
  have h5 := f.scale.isLt; have h6 := f.width.isLt; have h7 := b2n_lt f.sx; have h8 := f.scope.isLt
  have h9 := f.order.isLt; have h10 := f.hint.isLt; have h11 := b2n_lt f.ea
  simp only [encVM]
  exact bitAt_eq (q := f.disp.toNat * 2 ^ 0) f.ed
      (r := lo + encOperand f.d * 2 ^ 12 + encOperand f.a * 2 ^ 22 + f.qb.toNat * 2 ^ 32 + b2n f.am * 2 ^ 36 + f.scale.toNat * 2 ^ 37 + f.width.toNat * 2 ^ 39 + b2n f.sx * 2 ^ 42 + f.scope.toNat * 2 ^ 43 + f.order.toNat * 2 ^ 46 + f.hint.toNat * 2 ^ 48 + b2n f.ea * 2 ^ 50) (by omega) (by omega)

theorem decVM_disp {lo : Nat} (h : lo < 4096) (f : VM) : bitField (lo + encVM f) 52 12 = f.disp := by
  have h1 := encOperand_lt f.d; have h2 := encOperand_lt f.a; have h3 := f.qb.isLt; have h4 := b2n_lt f.am
  have h5 := f.scale.isLt; have h6 := f.width.isLt; have h7 := b2n_lt f.sx; have h8 := f.scope.isLt
  have h9 := f.order.isLt; have h10 := f.hint.isLt; have h11 := b2n_lt f.ea; have h12 := b2n_lt f.ed
  simp only [encVM]
  exact bitField_eq (q := 0) f.disp
      (r := lo + encOperand f.d * 2 ^ 12 + encOperand f.a * 2 ^ 22 + f.qb.toNat * 2 ^ 32 + b2n f.am * 2 ^ 36 + f.scale.toNat * 2 ^ 37 + f.width.toNat * 2 ^ 39 + b2n f.sx * 2 ^ 42 + f.scope.toNat * 2 ^ 43 + f.order.toNat * 2 ^ 46 + f.hint.toNat * 2 ^ 48 + b2n f.ea * 2 ^ 50 + b2n f.ed * 2 ^ 51) (by omega) (by omega)

theorem decVM_enc {lo : Nat} (h : lo < 4096) (f : VM) : decVM (lo + encVM f) = f := by
  simp only [decVM, decVM_d h, decVM_a h, decVM_qb h, decVM_am h, decVM_scale h, decVM_width h, decVM_sx h, decVM_scope h, decVM_order h, decVM_hint h, decVM_ea h, decVM_ed h, decVM_disp h]

theorem decVT_d {lo : Nat} (h : lo < 4096) (f : VT) : decOperand (lo + encVT f) 12 = f.d := by
  simp only [encVT]
  exact decOperand_eq (q := encOperand f.a * 2 ^ 0 + encOperand f.b * 2 ^ 10 + f.tid.toNat * 2 ^ 20 + f.mode.toNat * 2 ^ 26 + f.hint.toNat * 2 ^ 29 + b2n f.ea * 2 ^ 31 + b2n f.eb * 2 ^ 32 + b2n f.ed * 2 ^ 33 + f.wreg.toNat * 2 ^ 34 + f.base.toNat * 2 ^ 42 + f.acc.toNat * 2 ^ 58 + b2n f.w * 2 ^ 67 + b2n f.wsel * 2 ^ 68 + b2n f.tq * 2 ^ 69 + b2n f.aq * 2 ^ 70 + b2n f.ew * 2 ^ 71) f.d
      (r := lo) (by omega) (by omega)

theorem decVT_a {lo : Nat} (h : lo < 4096) (f : VT) : decOperand (lo + encVT f) 22 = f.a := by
  have h1 := encOperand_lt f.d
  simp only [encVT]
  exact decOperand_eq (q := encOperand f.b * 2 ^ 0 + f.tid.toNat * 2 ^ 10 + f.mode.toNat * 2 ^ 16 + f.hint.toNat * 2 ^ 19 + b2n f.ea * 2 ^ 21 + b2n f.eb * 2 ^ 22 + b2n f.ed * 2 ^ 23 + f.wreg.toNat * 2 ^ 24 + f.base.toNat * 2 ^ 32 + f.acc.toNat * 2 ^ 48 + b2n f.w * 2 ^ 57 + b2n f.wsel * 2 ^ 58 + b2n f.tq * 2 ^ 59 + b2n f.aq * 2 ^ 60 + b2n f.ew * 2 ^ 61) f.a
      (r := lo + encOperand f.d * 2 ^ 12) (by omega) (by omega)

theorem decVT_b {lo : Nat} (h : lo < 4096) (f : VT) : decOperand (lo + encVT f) 32 = f.b := by
  have h1 := encOperand_lt f.d; have h2 := encOperand_lt f.a
  simp only [encVT]
  exact decOperand_eq (q := f.tid.toNat * 2 ^ 0 + f.mode.toNat * 2 ^ 6 + f.hint.toNat * 2 ^ 9 + b2n f.ea * 2 ^ 11 + b2n f.eb * 2 ^ 12 + b2n f.ed * 2 ^ 13 + f.wreg.toNat * 2 ^ 14 + f.base.toNat * 2 ^ 22 + f.acc.toNat * 2 ^ 38 + b2n f.w * 2 ^ 47 + b2n f.wsel * 2 ^ 48 + b2n f.tq * 2 ^ 49 + b2n f.aq * 2 ^ 50 + b2n f.ew * 2 ^ 51) f.b
      (r := lo + encOperand f.d * 2 ^ 12 + encOperand f.a * 2 ^ 22) (by omega) (by omega)

theorem decVT_tid {lo : Nat} (h : lo < 4096) (f : VT) : bitField (lo + encVT f) 42 6 = f.tid := by
  have h1 := encOperand_lt f.d; have h2 := encOperand_lt f.a; have h3 := encOperand_lt f.b
  simp only [encVT]
  exact bitField_eq (q := f.mode.toNat * 2 ^ 0 + f.hint.toNat * 2 ^ 3 + b2n f.ea * 2 ^ 5 + b2n f.eb * 2 ^ 6 + b2n f.ed * 2 ^ 7 + f.wreg.toNat * 2 ^ 8 + f.base.toNat * 2 ^ 16 + f.acc.toNat * 2 ^ 32 + b2n f.w * 2 ^ 41 + b2n f.wsel * 2 ^ 42 + b2n f.tq * 2 ^ 43 + b2n f.aq * 2 ^ 44 + b2n f.ew * 2 ^ 45) f.tid
      (r := lo + encOperand f.d * 2 ^ 12 + encOperand f.a * 2 ^ 22 + encOperand f.b * 2 ^ 32) (by omega) (by omega)

theorem decVT_mode {lo : Nat} (h : lo < 4096) (f : VT) : bitField (lo + encVT f) 48 3 = f.mode := by
  have h1 := encOperand_lt f.d; have h2 := encOperand_lt f.a; have h3 := encOperand_lt f.b; have h4 := f.tid.isLt
  simp only [encVT]
  exact bitField_eq (q := f.hint.toNat * 2 ^ 0 + b2n f.ea * 2 ^ 2 + b2n f.eb * 2 ^ 3 + b2n f.ed * 2 ^ 4 + f.wreg.toNat * 2 ^ 5 + f.base.toNat * 2 ^ 13 + f.acc.toNat * 2 ^ 29 + b2n f.w * 2 ^ 38 + b2n f.wsel * 2 ^ 39 + b2n f.tq * 2 ^ 40 + b2n f.aq * 2 ^ 41 + b2n f.ew * 2 ^ 42) f.mode
      (r := lo + encOperand f.d * 2 ^ 12 + encOperand f.a * 2 ^ 22 + encOperand f.b * 2 ^ 32 + f.tid.toNat * 2 ^ 42) (by omega) (by omega)

theorem decVT_hint {lo : Nat} (h : lo < 4096) (f : VT) : bitField (lo + encVT f) 51 2 = f.hint := by
  have h1 := encOperand_lt f.d; have h2 := encOperand_lt f.a; have h3 := encOperand_lt f.b; have h4 := f.tid.isLt
  have h5 := f.mode.isLt
  simp only [encVT]
  exact bitField_eq (q := b2n f.ea * 2 ^ 0 + b2n f.eb * 2 ^ 1 + b2n f.ed * 2 ^ 2 + f.wreg.toNat * 2 ^ 3 + f.base.toNat * 2 ^ 11 + f.acc.toNat * 2 ^ 27 + b2n f.w * 2 ^ 36 + b2n f.wsel * 2 ^ 37 + b2n f.tq * 2 ^ 38 + b2n f.aq * 2 ^ 39 + b2n f.ew * 2 ^ 40) f.hint
      (r := lo + encOperand f.d * 2 ^ 12 + encOperand f.a * 2 ^ 22 + encOperand f.b * 2 ^ 32 + f.tid.toNat * 2 ^ 42 + f.mode.toNat * 2 ^ 48) (by omega) (by omega)

theorem decVT_ea {lo : Nat} (h : lo < 4096) (f : VT) : bitAt (lo + encVT f) 53 = f.ea := by
  have h1 := encOperand_lt f.d; have h2 := encOperand_lt f.a; have h3 := encOperand_lt f.b; have h4 := f.tid.isLt
  have h5 := f.mode.isLt; have h6 := f.hint.isLt
  simp only [encVT]
  exact bitAt_eq (q := b2n f.eb * 2 ^ 0 + b2n f.ed * 2 ^ 1 + f.wreg.toNat * 2 ^ 2 + f.base.toNat * 2 ^ 10 + f.acc.toNat * 2 ^ 26 + b2n f.w * 2 ^ 35 + b2n f.wsel * 2 ^ 36 + b2n f.tq * 2 ^ 37 + b2n f.aq * 2 ^ 38 + b2n f.ew * 2 ^ 39) f.ea
      (r := lo + encOperand f.d * 2 ^ 12 + encOperand f.a * 2 ^ 22 + encOperand f.b * 2 ^ 32 + f.tid.toNat * 2 ^ 42 + f.mode.toNat * 2 ^ 48 + f.hint.toNat * 2 ^ 51) (by omega) (by omega)

theorem decVT_eb {lo : Nat} (h : lo < 4096) (f : VT) : bitAt (lo + encVT f) 54 = f.eb := by
  have h1 := encOperand_lt f.d; have h2 := encOperand_lt f.a; have h3 := encOperand_lt f.b; have h4 := f.tid.isLt
  have h5 := f.mode.isLt; have h6 := f.hint.isLt; have h7 := b2n_lt f.ea
  simp only [encVT]
  exact bitAt_eq (q := b2n f.ed * 2 ^ 0 + f.wreg.toNat * 2 ^ 1 + f.base.toNat * 2 ^ 9 + f.acc.toNat * 2 ^ 25 + b2n f.w * 2 ^ 34 + b2n f.wsel * 2 ^ 35 + b2n f.tq * 2 ^ 36 + b2n f.aq * 2 ^ 37 + b2n f.ew * 2 ^ 38) f.eb
      (r := lo + encOperand f.d * 2 ^ 12 + encOperand f.a * 2 ^ 22 + encOperand f.b * 2 ^ 32 + f.tid.toNat * 2 ^ 42 + f.mode.toNat * 2 ^ 48 + f.hint.toNat * 2 ^ 51 + b2n f.ea * 2 ^ 53) (by omega) (by omega)

theorem decVT_ed {lo : Nat} (h : lo < 4096) (f : VT) : bitAt (lo + encVT f) 55 = f.ed := by
  have h1 := encOperand_lt f.d; have h2 := encOperand_lt f.a; have h3 := encOperand_lt f.b; have h4 := f.tid.isLt
  have h5 := f.mode.isLt; have h6 := f.hint.isLt; have h7 := b2n_lt f.ea; have h8 := b2n_lt f.eb
  simp only [encVT]
  exact bitAt_eq (q := f.wreg.toNat * 2 ^ 0 + f.base.toNat * 2 ^ 8 + f.acc.toNat * 2 ^ 24 + b2n f.w * 2 ^ 33 + b2n f.wsel * 2 ^ 34 + b2n f.tq * 2 ^ 35 + b2n f.aq * 2 ^ 36 + b2n f.ew * 2 ^ 37) f.ed
      (r := lo + encOperand f.d * 2 ^ 12 + encOperand f.a * 2 ^ 22 + encOperand f.b * 2 ^ 32 + f.tid.toNat * 2 ^ 42 + f.mode.toNat * 2 ^ 48 + f.hint.toNat * 2 ^ 51 + b2n f.ea * 2 ^ 53 + b2n f.eb * 2 ^ 54) (by omega) (by omega)

theorem decVT_wreg {lo : Nat} (h : lo < 4096) (f : VT) : bitField (lo + encVT f) 56 8 = f.wreg := by
  have h1 := encOperand_lt f.d; have h2 := encOperand_lt f.a; have h3 := encOperand_lt f.b; have h4 := f.tid.isLt
  have h5 := f.mode.isLt; have h6 := f.hint.isLt; have h7 := b2n_lt f.ea; have h8 := b2n_lt f.eb
  have h9 := b2n_lt f.ed
  simp only [encVT]
  exact bitField_eq (q := f.base.toNat * 2 ^ 0 + f.acc.toNat * 2 ^ 16 + b2n f.w * 2 ^ 25 + b2n f.wsel * 2 ^ 26 + b2n f.tq * 2 ^ 27 + b2n f.aq * 2 ^ 28 + b2n f.ew * 2 ^ 29) f.wreg
      (r := lo + encOperand f.d * 2 ^ 12 + encOperand f.a * 2 ^ 22 + encOperand f.b * 2 ^ 32 + f.tid.toNat * 2 ^ 42 + f.mode.toNat * 2 ^ 48 + f.hint.toNat * 2 ^ 51 + b2n f.ea * 2 ^ 53 + b2n f.eb * 2 ^ 54 + b2n f.ed * 2 ^ 55) (by omega) (by omega)

theorem decVT_base {lo : Nat} (h : lo < 4096) (f : VT) : bitField (lo + encVT f) 64 16 = f.base := by
  have h1 := encOperand_lt f.d; have h2 := encOperand_lt f.a; have h3 := encOperand_lt f.b; have h4 := f.tid.isLt
  have h5 := f.mode.isLt; have h6 := f.hint.isLt; have h7 := b2n_lt f.ea; have h8 := b2n_lt f.eb
  have h9 := b2n_lt f.ed; have h10 := f.wreg.isLt
  simp only [encVT]
  exact bitField_eq (q := f.acc.toNat * 2 ^ 0 + b2n f.w * 2 ^ 9 + b2n f.wsel * 2 ^ 10 + b2n f.tq * 2 ^ 11 + b2n f.aq * 2 ^ 12 + b2n f.ew * 2 ^ 13) f.base
      (r := lo + encOperand f.d * 2 ^ 12 + encOperand f.a * 2 ^ 22 + encOperand f.b * 2 ^ 32 + f.tid.toNat * 2 ^ 42 + f.mode.toNat * 2 ^ 48 + f.hint.toNat * 2 ^ 51 + b2n f.ea * 2 ^ 53 + b2n f.eb * 2 ^ 54 + b2n f.ed * 2 ^ 55 + f.wreg.toNat * 2 ^ 56) (by omega) (by omega)

theorem decVT_acc {lo : Nat} (h : lo < 4096) (f : VT) : bitField (lo + encVT f) 80 9 = f.acc := by
  have h1 := encOperand_lt f.d; have h2 := encOperand_lt f.a; have h3 := encOperand_lt f.b; have h4 := f.tid.isLt
  have h5 := f.mode.isLt; have h6 := f.hint.isLt; have h7 := b2n_lt f.ea; have h8 := b2n_lt f.eb
  have h9 := b2n_lt f.ed; have h10 := f.wreg.isLt; have h11 := f.base.isLt
  simp only [encVT]
  exact bitField_eq (q := b2n f.w * 2 ^ 0 + b2n f.wsel * 2 ^ 1 + b2n f.tq * 2 ^ 2 + b2n f.aq * 2 ^ 3 + b2n f.ew * 2 ^ 4) f.acc
      (r := lo + encOperand f.d * 2 ^ 12 + encOperand f.a * 2 ^ 22 + encOperand f.b * 2 ^ 32 + f.tid.toNat * 2 ^ 42 + f.mode.toNat * 2 ^ 48 + f.hint.toNat * 2 ^ 51 + b2n f.ea * 2 ^ 53 + b2n f.eb * 2 ^ 54 + b2n f.ed * 2 ^ 55 + f.wreg.toNat * 2 ^ 56 + f.base.toNat * 2 ^ 64) (by omega) (by omega)

theorem decVT_w {lo : Nat} (h : lo < 4096) (f : VT) : bitAt (lo + encVT f) 89 = f.w := by
  have h1 := encOperand_lt f.d; have h2 := encOperand_lt f.a; have h3 := encOperand_lt f.b; have h4 := f.tid.isLt
  have h5 := f.mode.isLt; have h6 := f.hint.isLt; have h7 := b2n_lt f.ea; have h8 := b2n_lt f.eb
  have h9 := b2n_lt f.ed; have h10 := f.wreg.isLt; have h11 := f.base.isLt; have h12 := f.acc.isLt
  simp only [encVT]
  exact bitAt_eq (q := b2n f.wsel * 2 ^ 0 + b2n f.tq * 2 ^ 1 + b2n f.aq * 2 ^ 2 + b2n f.ew * 2 ^ 3) f.w
      (r := lo + encOperand f.d * 2 ^ 12 + encOperand f.a * 2 ^ 22 + encOperand f.b * 2 ^ 32 + f.tid.toNat * 2 ^ 42 + f.mode.toNat * 2 ^ 48 + f.hint.toNat * 2 ^ 51 + b2n f.ea * 2 ^ 53 + b2n f.eb * 2 ^ 54 + b2n f.ed * 2 ^ 55 + f.wreg.toNat * 2 ^ 56 + f.base.toNat * 2 ^ 64 + f.acc.toNat * 2 ^ 80) (by omega) (by omega)

theorem decVT_wsel {lo : Nat} (h : lo < 4096) (f : VT) : bitAt (lo + encVT f) 90 = f.wsel := by
  have h1 := encOperand_lt f.d; have h2 := encOperand_lt f.a; have h3 := encOperand_lt f.b; have h4 := f.tid.isLt
  have h5 := f.mode.isLt; have h6 := f.hint.isLt; have h7 := b2n_lt f.ea; have h8 := b2n_lt f.eb
  have h9 := b2n_lt f.ed; have h10 := f.wreg.isLt; have h11 := f.base.isLt; have h12 := f.acc.isLt
  have h13 := b2n_lt f.w
  simp only [encVT]
  exact bitAt_eq (q := b2n f.tq * 2 ^ 0 + b2n f.aq * 2 ^ 1 + b2n f.ew * 2 ^ 2) f.wsel
      (r := lo + encOperand f.d * 2 ^ 12 + encOperand f.a * 2 ^ 22 + encOperand f.b * 2 ^ 32 + f.tid.toNat * 2 ^ 42 + f.mode.toNat * 2 ^ 48 + f.hint.toNat * 2 ^ 51 + b2n f.ea * 2 ^ 53 + b2n f.eb * 2 ^ 54 + b2n f.ed * 2 ^ 55 + f.wreg.toNat * 2 ^ 56 + f.base.toNat * 2 ^ 64 + f.acc.toNat * 2 ^ 80 + b2n f.w * 2 ^ 89) (by omega) (by omega)

theorem decVT_tq {lo : Nat} (h : lo < 4096) (f : VT) : bitAt (lo + encVT f) 91 = f.tq := by
  have h1 := encOperand_lt f.d; have h2 := encOperand_lt f.a; have h3 := encOperand_lt f.b; have h4 := f.tid.isLt
  have h5 := f.mode.isLt; have h6 := f.hint.isLt; have h7 := b2n_lt f.ea; have h8 := b2n_lt f.eb
  have h9 := b2n_lt f.ed; have h10 := f.wreg.isLt; have h11 := f.base.isLt; have h12 := f.acc.isLt
  have h13 := b2n_lt f.w; have h14 := b2n_lt f.wsel
  simp only [encVT]
  exact bitAt_eq (q := b2n f.aq * 2 ^ 0 + b2n f.ew * 2 ^ 1) f.tq
      (r := lo + encOperand f.d * 2 ^ 12 + encOperand f.a * 2 ^ 22 + encOperand f.b * 2 ^ 32 + f.tid.toNat * 2 ^ 42 + f.mode.toNat * 2 ^ 48 + f.hint.toNat * 2 ^ 51 + b2n f.ea * 2 ^ 53 + b2n f.eb * 2 ^ 54 + b2n f.ed * 2 ^ 55 + f.wreg.toNat * 2 ^ 56 + f.base.toNat * 2 ^ 64 + f.acc.toNat * 2 ^ 80 + b2n f.w * 2 ^ 89 + b2n f.wsel * 2 ^ 90) (by omega) (by omega)

theorem decVT_aq {lo : Nat} (h : lo < 4096) (f : VT) : bitAt (lo + encVT f) 92 = f.aq := by
  have h1 := encOperand_lt f.d; have h2 := encOperand_lt f.a; have h3 := encOperand_lt f.b; have h4 := f.tid.isLt
  have h5 := f.mode.isLt; have h6 := f.hint.isLt; have h7 := b2n_lt f.ea; have h8 := b2n_lt f.eb
  have h9 := b2n_lt f.ed; have h10 := f.wreg.isLt; have h11 := f.base.isLt; have h12 := f.acc.isLt
  have h13 := b2n_lt f.w; have h14 := b2n_lt f.wsel; have h15 := b2n_lt f.tq
  simp only [encVT]
  exact bitAt_eq (q := b2n f.ew * 2 ^ 0) f.aq
      (r := lo + encOperand f.d * 2 ^ 12 + encOperand f.a * 2 ^ 22 + encOperand f.b * 2 ^ 32 + f.tid.toNat * 2 ^ 42 + f.mode.toNat * 2 ^ 48 + f.hint.toNat * 2 ^ 51 + b2n f.ea * 2 ^ 53 + b2n f.eb * 2 ^ 54 + b2n f.ed * 2 ^ 55 + f.wreg.toNat * 2 ^ 56 + f.base.toNat * 2 ^ 64 + f.acc.toNat * 2 ^ 80 + b2n f.w * 2 ^ 89 + b2n f.wsel * 2 ^ 90 + b2n f.tq * 2 ^ 91) (by omega) (by omega)

theorem decVT_ew {lo : Nat} (h : lo < 4096) (f : VT) : bitAt (lo + encVT f) 93 = f.ew := by
  have h1 := encOperand_lt f.d; have h2 := encOperand_lt f.a; have h3 := encOperand_lt f.b; have h4 := f.tid.isLt
  have h5 := f.mode.isLt; have h6 := f.hint.isLt; have h7 := b2n_lt f.ea; have h8 := b2n_lt f.eb
  have h9 := b2n_lt f.ed; have h10 := f.wreg.isLt; have h11 := f.base.isLt; have h12 := f.acc.isLt
  have h13 := b2n_lt f.w; have h14 := b2n_lt f.wsel; have h15 := b2n_lt f.tq; have h16 := b2n_lt f.aq
  simp only [encVT]
  exact bitAt_eq (q := 0) f.ew
      (r := lo + encOperand f.d * 2 ^ 12 + encOperand f.a * 2 ^ 22 + encOperand f.b * 2 ^ 32 + f.tid.toNat * 2 ^ 42 + f.mode.toNat * 2 ^ 48 + f.hint.toNat * 2 ^ 51 + b2n f.ea * 2 ^ 53 + b2n f.eb * 2 ^ 54 + b2n f.ed * 2 ^ 55 + f.wreg.toNat * 2 ^ 56 + f.base.toNat * 2 ^ 64 + f.acc.toNat * 2 ^ 80 + b2n f.w * 2 ^ 89 + b2n f.wsel * 2 ^ 90 + b2n f.tq * 2 ^ 91 + b2n f.aq * 2 ^ 92) (by omega) (by omega)

theorem decVT_enc {lo : Nat} (h : lo < 4096) (f : VT) : decVT (lo + encVT f) = f := by
  simp only [decVT, decVT_d h, decVT_a h, decVT_b h, decVT_tid h, decVT_mode h, decVT_hint h, decVT_ea h, decVT_eb h, decVT_ed h, decVT_wreg h, decVT_base h, decVT_acc h, decVT_w h, decVT_wsel h, decVT_tq h, decVT_aq h, decVT_ew h]

theorem decVMX_m_d {lo : Nat} (h : lo < 4096) (f : VMX) : decOperand (lo + encVMX f) 12 = f.m.d := by
  simp only [encVMX, encVM]
  exact decOperand_eq (q := encOperand f.m.a * 2 ^ 0 + f.m.qb.toNat * 2 ^ 10 + b2n f.m.am * 2 ^ 14 + f.m.scale.toNat * 2 ^ 15 + f.m.width.toNat * 2 ^ 17 + b2n f.m.sx * 2 ^ 20 + f.m.scope.toNat * 2 ^ 21 + f.m.order.toNat * 2 ^ 24 + f.m.hint.toNat * 2 ^ 26 + b2n f.m.ea * 2 ^ 28 + b2n f.m.ed * 2 ^ 29 + f.m.disp.toNat * 2 ^ 30 + encOperand f.b * 2 ^ 42 + encOperand f.c * 2 ^ 52 + b2n f.eb * 2 ^ 62 + b2n f.ec * 2 ^ 63 + f.aop.toNat * 2 ^ 64) f.m.d
      (r := lo) (by omega) (by omega)

theorem decVMX_m_a {lo : Nat} (h : lo < 4096) (f : VMX) : decOperand (lo + encVMX f) 22 = f.m.a := by
  have h1 := encOperand_lt f.m.d
  simp only [encVMX, encVM]
  exact decOperand_eq (q := f.m.qb.toNat * 2 ^ 0 + b2n f.m.am * 2 ^ 4 + f.m.scale.toNat * 2 ^ 5 + f.m.width.toNat * 2 ^ 7 + b2n f.m.sx * 2 ^ 10 + f.m.scope.toNat * 2 ^ 11 + f.m.order.toNat * 2 ^ 14 + f.m.hint.toNat * 2 ^ 16 + b2n f.m.ea * 2 ^ 18 + b2n f.m.ed * 2 ^ 19 + f.m.disp.toNat * 2 ^ 20 + encOperand f.b * 2 ^ 32 + encOperand f.c * 2 ^ 42 + b2n f.eb * 2 ^ 52 + b2n f.ec * 2 ^ 53 + f.aop.toNat * 2 ^ 54) f.m.a
      (r := lo + encOperand f.m.d * 2 ^ 12) (by omega) (by omega)

theorem decVMX_m_qb {lo : Nat} (h : lo < 4096) (f : VMX) : bitField (lo + encVMX f) 32 4 = f.m.qb := by
  have h1 := encOperand_lt f.m.d; have h2 := encOperand_lt f.m.a
  simp only [encVMX, encVM]
  exact bitField_eq (q := b2n f.m.am * 2 ^ 0 + f.m.scale.toNat * 2 ^ 1 + f.m.width.toNat * 2 ^ 3 + b2n f.m.sx * 2 ^ 6 + f.m.scope.toNat * 2 ^ 7 + f.m.order.toNat * 2 ^ 10 + f.m.hint.toNat * 2 ^ 12 + b2n f.m.ea * 2 ^ 14 + b2n f.m.ed * 2 ^ 15 + f.m.disp.toNat * 2 ^ 16 + encOperand f.b * 2 ^ 28 + encOperand f.c * 2 ^ 38 + b2n f.eb * 2 ^ 48 + b2n f.ec * 2 ^ 49 + f.aop.toNat * 2 ^ 50) f.m.qb
      (r := lo + encOperand f.m.d * 2 ^ 12 + encOperand f.m.a * 2 ^ 22) (by omega) (by omega)

theorem decVMX_m_am {lo : Nat} (h : lo < 4096) (f : VMX) : bitAt (lo + encVMX f) 36 = f.m.am := by
  have h1 := encOperand_lt f.m.d; have h2 := encOperand_lt f.m.a; have h3 := f.m.qb.isLt
  simp only [encVMX, encVM]
  exact bitAt_eq (q := f.m.scale.toNat * 2 ^ 0 + f.m.width.toNat * 2 ^ 2 + b2n f.m.sx * 2 ^ 5 + f.m.scope.toNat * 2 ^ 6 + f.m.order.toNat * 2 ^ 9 + f.m.hint.toNat * 2 ^ 11 + b2n f.m.ea * 2 ^ 13 + b2n f.m.ed * 2 ^ 14 + f.m.disp.toNat * 2 ^ 15 + encOperand f.b * 2 ^ 27 + encOperand f.c * 2 ^ 37 + b2n f.eb * 2 ^ 47 + b2n f.ec * 2 ^ 48 + f.aop.toNat * 2 ^ 49) f.m.am
      (r := lo + encOperand f.m.d * 2 ^ 12 + encOperand f.m.a * 2 ^ 22 + f.m.qb.toNat * 2 ^ 32) (by omega) (by omega)

theorem decVMX_m_scale {lo : Nat} (h : lo < 4096) (f : VMX) : bitField (lo + encVMX f) 37 2 = f.m.scale := by
  have h1 := encOperand_lt f.m.d; have h2 := encOperand_lt f.m.a; have h3 := f.m.qb.isLt; have h4 := b2n_lt f.m.am
  simp only [encVMX, encVM]
  exact bitField_eq (q := f.m.width.toNat * 2 ^ 0 + b2n f.m.sx * 2 ^ 3 + f.m.scope.toNat * 2 ^ 4 + f.m.order.toNat * 2 ^ 7 + f.m.hint.toNat * 2 ^ 9 + b2n f.m.ea * 2 ^ 11 + b2n f.m.ed * 2 ^ 12 + f.m.disp.toNat * 2 ^ 13 + encOperand f.b * 2 ^ 25 + encOperand f.c * 2 ^ 35 + b2n f.eb * 2 ^ 45 + b2n f.ec * 2 ^ 46 + f.aop.toNat * 2 ^ 47) f.m.scale
      (r := lo + encOperand f.m.d * 2 ^ 12 + encOperand f.m.a * 2 ^ 22 + f.m.qb.toNat * 2 ^ 32 + b2n f.m.am * 2 ^ 36) (by omega) (by omega)

theorem decVMX_m_width {lo : Nat} (h : lo < 4096) (f : VMX) : bitField (lo + encVMX f) 39 3 = f.m.width := by
  have h1 := encOperand_lt f.m.d; have h2 := encOperand_lt f.m.a; have h3 := f.m.qb.isLt; have h4 := b2n_lt f.m.am
  have h5 := f.m.scale.isLt
  simp only [encVMX, encVM]
  exact bitField_eq (q := b2n f.m.sx * 2 ^ 0 + f.m.scope.toNat * 2 ^ 1 + f.m.order.toNat * 2 ^ 4 + f.m.hint.toNat * 2 ^ 6 + b2n f.m.ea * 2 ^ 8 + b2n f.m.ed * 2 ^ 9 + f.m.disp.toNat * 2 ^ 10 + encOperand f.b * 2 ^ 22 + encOperand f.c * 2 ^ 32 + b2n f.eb * 2 ^ 42 + b2n f.ec * 2 ^ 43 + f.aop.toNat * 2 ^ 44) f.m.width
      (r := lo + encOperand f.m.d * 2 ^ 12 + encOperand f.m.a * 2 ^ 22 + f.m.qb.toNat * 2 ^ 32 + b2n f.m.am * 2 ^ 36 + f.m.scale.toNat * 2 ^ 37) (by omega) (by omega)

theorem decVMX_m_sx {lo : Nat} (h : lo < 4096) (f : VMX) : bitAt (lo + encVMX f) 42 = f.m.sx := by
  have h1 := encOperand_lt f.m.d; have h2 := encOperand_lt f.m.a; have h3 := f.m.qb.isLt; have h4 := b2n_lt f.m.am
  have h5 := f.m.scale.isLt; have h6 := f.m.width.isLt
  simp only [encVMX, encVM]
  exact bitAt_eq (q := f.m.scope.toNat * 2 ^ 0 + f.m.order.toNat * 2 ^ 3 + f.m.hint.toNat * 2 ^ 5 + b2n f.m.ea * 2 ^ 7 + b2n f.m.ed * 2 ^ 8 + f.m.disp.toNat * 2 ^ 9 + encOperand f.b * 2 ^ 21 + encOperand f.c * 2 ^ 31 + b2n f.eb * 2 ^ 41 + b2n f.ec * 2 ^ 42 + f.aop.toNat * 2 ^ 43) f.m.sx
      (r := lo + encOperand f.m.d * 2 ^ 12 + encOperand f.m.a * 2 ^ 22 + f.m.qb.toNat * 2 ^ 32 + b2n f.m.am * 2 ^ 36 + f.m.scale.toNat * 2 ^ 37 + f.m.width.toNat * 2 ^ 39) (by omega) (by omega)

theorem decVMX_m_scope {lo : Nat} (h : lo < 4096) (f : VMX) : bitField (lo + encVMX f) 43 3 = f.m.scope := by
  have h1 := encOperand_lt f.m.d; have h2 := encOperand_lt f.m.a; have h3 := f.m.qb.isLt; have h4 := b2n_lt f.m.am
  have h5 := f.m.scale.isLt; have h6 := f.m.width.isLt; have h7 := b2n_lt f.m.sx
  simp only [encVMX, encVM]
  exact bitField_eq (q := f.m.order.toNat * 2 ^ 0 + f.m.hint.toNat * 2 ^ 2 + b2n f.m.ea * 2 ^ 4 + b2n f.m.ed * 2 ^ 5 + f.m.disp.toNat * 2 ^ 6 + encOperand f.b * 2 ^ 18 + encOperand f.c * 2 ^ 28 + b2n f.eb * 2 ^ 38 + b2n f.ec * 2 ^ 39 + f.aop.toNat * 2 ^ 40) f.m.scope
      (r := lo + encOperand f.m.d * 2 ^ 12 + encOperand f.m.a * 2 ^ 22 + f.m.qb.toNat * 2 ^ 32 + b2n f.m.am * 2 ^ 36 + f.m.scale.toNat * 2 ^ 37 + f.m.width.toNat * 2 ^ 39 + b2n f.m.sx * 2 ^ 42) (by omega) (by omega)

theorem decVMX_m_order {lo : Nat} (h : lo < 4096) (f : VMX) : bitField (lo + encVMX f) 46 2 = f.m.order := by
  have h1 := encOperand_lt f.m.d; have h2 := encOperand_lt f.m.a; have h3 := f.m.qb.isLt; have h4 := b2n_lt f.m.am
  have h5 := f.m.scale.isLt; have h6 := f.m.width.isLt; have h7 := b2n_lt f.m.sx; have h8 := f.m.scope.isLt
  simp only [encVMX, encVM]
  exact bitField_eq (q := f.m.hint.toNat * 2 ^ 0 + b2n f.m.ea * 2 ^ 2 + b2n f.m.ed * 2 ^ 3 + f.m.disp.toNat * 2 ^ 4 + encOperand f.b * 2 ^ 16 + encOperand f.c * 2 ^ 26 + b2n f.eb * 2 ^ 36 + b2n f.ec * 2 ^ 37 + f.aop.toNat * 2 ^ 38) f.m.order
      (r := lo + encOperand f.m.d * 2 ^ 12 + encOperand f.m.a * 2 ^ 22 + f.m.qb.toNat * 2 ^ 32 + b2n f.m.am * 2 ^ 36 + f.m.scale.toNat * 2 ^ 37 + f.m.width.toNat * 2 ^ 39 + b2n f.m.sx * 2 ^ 42 + f.m.scope.toNat * 2 ^ 43) (by omega) (by omega)

theorem decVMX_m_hint {lo : Nat} (h : lo < 4096) (f : VMX) : bitField (lo + encVMX f) 48 2 = f.m.hint := by
  have h1 := encOperand_lt f.m.d; have h2 := encOperand_lt f.m.a; have h3 := f.m.qb.isLt; have h4 := b2n_lt f.m.am
  have h5 := f.m.scale.isLt; have h6 := f.m.width.isLt; have h7 := b2n_lt f.m.sx; have h8 := f.m.scope.isLt
  have h9 := f.m.order.isLt
  simp only [encVMX, encVM]
  exact bitField_eq (q := b2n f.m.ea * 2 ^ 0 + b2n f.m.ed * 2 ^ 1 + f.m.disp.toNat * 2 ^ 2 + encOperand f.b * 2 ^ 14 + encOperand f.c * 2 ^ 24 + b2n f.eb * 2 ^ 34 + b2n f.ec * 2 ^ 35 + f.aop.toNat * 2 ^ 36) f.m.hint
      (r := lo + encOperand f.m.d * 2 ^ 12 + encOperand f.m.a * 2 ^ 22 + f.m.qb.toNat * 2 ^ 32 + b2n f.m.am * 2 ^ 36 + f.m.scale.toNat * 2 ^ 37 + f.m.width.toNat * 2 ^ 39 + b2n f.m.sx * 2 ^ 42 + f.m.scope.toNat * 2 ^ 43 + f.m.order.toNat * 2 ^ 46) (by omega) (by omega)

theorem decVMX_m_ea {lo : Nat} (h : lo < 4096) (f : VMX) : bitAt (lo + encVMX f) 50 = f.m.ea := by
  have h1 := encOperand_lt f.m.d; have h2 := encOperand_lt f.m.a; have h3 := f.m.qb.isLt; have h4 := b2n_lt f.m.am
  have h5 := f.m.scale.isLt; have h6 := f.m.width.isLt; have h7 := b2n_lt f.m.sx; have h8 := f.m.scope.isLt
  have h9 := f.m.order.isLt; have h10 := f.m.hint.isLt
  simp only [encVMX, encVM]
  exact bitAt_eq (q := b2n f.m.ed * 2 ^ 0 + f.m.disp.toNat * 2 ^ 1 + encOperand f.b * 2 ^ 13 + encOperand f.c * 2 ^ 23 + b2n f.eb * 2 ^ 33 + b2n f.ec * 2 ^ 34 + f.aop.toNat * 2 ^ 35) f.m.ea
      (r := lo + encOperand f.m.d * 2 ^ 12 + encOperand f.m.a * 2 ^ 22 + f.m.qb.toNat * 2 ^ 32 + b2n f.m.am * 2 ^ 36 + f.m.scale.toNat * 2 ^ 37 + f.m.width.toNat * 2 ^ 39 + b2n f.m.sx * 2 ^ 42 + f.m.scope.toNat * 2 ^ 43 + f.m.order.toNat * 2 ^ 46 + f.m.hint.toNat * 2 ^ 48) (by omega) (by omega)

theorem decVMX_m_ed {lo : Nat} (h : lo < 4096) (f : VMX) : bitAt (lo + encVMX f) 51 = f.m.ed := by
  have h1 := encOperand_lt f.m.d; have h2 := encOperand_lt f.m.a; have h3 := f.m.qb.isLt; have h4 := b2n_lt f.m.am
  have h5 := f.m.scale.isLt; have h6 := f.m.width.isLt; have h7 := b2n_lt f.m.sx; have h8 := f.m.scope.isLt
  have h9 := f.m.order.isLt; have h10 := f.m.hint.isLt; have h11 := b2n_lt f.m.ea
  simp only [encVMX, encVM]
  exact bitAt_eq (q := f.m.disp.toNat * 2 ^ 0 + encOperand f.b * 2 ^ 12 + encOperand f.c * 2 ^ 22 + b2n f.eb * 2 ^ 32 + b2n f.ec * 2 ^ 33 + f.aop.toNat * 2 ^ 34) f.m.ed
      (r := lo + encOperand f.m.d * 2 ^ 12 + encOperand f.m.a * 2 ^ 22 + f.m.qb.toNat * 2 ^ 32 + b2n f.m.am * 2 ^ 36 + f.m.scale.toNat * 2 ^ 37 + f.m.width.toNat * 2 ^ 39 + b2n f.m.sx * 2 ^ 42 + f.m.scope.toNat * 2 ^ 43 + f.m.order.toNat * 2 ^ 46 + f.m.hint.toNat * 2 ^ 48 + b2n f.m.ea * 2 ^ 50) (by omega) (by omega)

theorem decVMX_m_disp {lo : Nat} (h : lo < 4096) (f : VMX) : bitField (lo + encVMX f) 52 12 = f.m.disp := by
  have h1 := encOperand_lt f.m.d; have h2 := encOperand_lt f.m.a; have h3 := f.m.qb.isLt; have h4 := b2n_lt f.m.am
  have h5 := f.m.scale.isLt; have h6 := f.m.width.isLt; have h7 := b2n_lt f.m.sx; have h8 := f.m.scope.isLt
  have h9 := f.m.order.isLt; have h10 := f.m.hint.isLt; have h11 := b2n_lt f.m.ea; have h12 := b2n_lt f.m.ed
  simp only [encVMX, encVM]
  exact bitField_eq (q := encOperand f.b * 2 ^ 0 + encOperand f.c * 2 ^ 10 + b2n f.eb * 2 ^ 20 + b2n f.ec * 2 ^ 21 + f.aop.toNat * 2 ^ 22) f.m.disp
      (r := lo + encOperand f.m.d * 2 ^ 12 + encOperand f.m.a * 2 ^ 22 + f.m.qb.toNat * 2 ^ 32 + b2n f.m.am * 2 ^ 36 + f.m.scale.toNat * 2 ^ 37 + f.m.width.toNat * 2 ^ 39 + b2n f.m.sx * 2 ^ 42 + f.m.scope.toNat * 2 ^ 43 + f.m.order.toNat * 2 ^ 46 + f.m.hint.toNat * 2 ^ 48 + b2n f.m.ea * 2 ^ 50 + b2n f.m.ed * 2 ^ 51) (by omega) (by omega)

theorem decVMX_b {lo : Nat} (h : lo < 4096) (f : VMX) : decOperand (lo + encVMX f) 64 = f.b := by
  have h1 := encOperand_lt f.m.d; have h2 := encOperand_lt f.m.a; have h3 := f.m.qb.isLt; have h4 := b2n_lt f.m.am
  have h5 := f.m.scale.isLt; have h6 := f.m.width.isLt; have h7 := b2n_lt f.m.sx; have h8 := f.m.scope.isLt
  have h9 := f.m.order.isLt; have h10 := f.m.hint.isLt; have h11 := b2n_lt f.m.ea; have h12 := b2n_lt f.m.ed
  have h13 := f.m.disp.isLt
  simp only [encVMX, encVM]
  exact decOperand_eq (q := encOperand f.c * 2 ^ 0 + b2n f.eb * 2 ^ 10 + b2n f.ec * 2 ^ 11 + f.aop.toNat * 2 ^ 12) f.b
      (r := lo + encOperand f.m.d * 2 ^ 12 + encOperand f.m.a * 2 ^ 22 + f.m.qb.toNat * 2 ^ 32 + b2n f.m.am * 2 ^ 36 + f.m.scale.toNat * 2 ^ 37 + f.m.width.toNat * 2 ^ 39 + b2n f.m.sx * 2 ^ 42 + f.m.scope.toNat * 2 ^ 43 + f.m.order.toNat * 2 ^ 46 + f.m.hint.toNat * 2 ^ 48 + b2n f.m.ea * 2 ^ 50 + b2n f.m.ed * 2 ^ 51 + f.m.disp.toNat * 2 ^ 52) (by omega) (by omega)

theorem decVMX_c {lo : Nat} (h : lo < 4096) (f : VMX) : decOperand (lo + encVMX f) 74 = f.c := by
  have h1 := encOperand_lt f.m.d; have h2 := encOperand_lt f.m.a; have h3 := f.m.qb.isLt; have h4 := b2n_lt f.m.am
  have h5 := f.m.scale.isLt; have h6 := f.m.width.isLt; have h7 := b2n_lt f.m.sx; have h8 := f.m.scope.isLt
  have h9 := f.m.order.isLt; have h10 := f.m.hint.isLt; have h11 := b2n_lt f.m.ea; have h12 := b2n_lt f.m.ed
  have h13 := f.m.disp.isLt; have h14 := encOperand_lt f.b
  simp only [encVMX, encVM]
  exact decOperand_eq (q := b2n f.eb * 2 ^ 0 + b2n f.ec * 2 ^ 1 + f.aop.toNat * 2 ^ 2) f.c
      (r := lo + encOperand f.m.d * 2 ^ 12 + encOperand f.m.a * 2 ^ 22 + f.m.qb.toNat * 2 ^ 32 + b2n f.m.am * 2 ^ 36 + f.m.scale.toNat * 2 ^ 37 + f.m.width.toNat * 2 ^ 39 + b2n f.m.sx * 2 ^ 42 + f.m.scope.toNat * 2 ^ 43 + f.m.order.toNat * 2 ^ 46 + f.m.hint.toNat * 2 ^ 48 + b2n f.m.ea * 2 ^ 50 + b2n f.m.ed * 2 ^ 51 + f.m.disp.toNat * 2 ^ 52 + encOperand f.b * 2 ^ 64) (by omega) (by omega)

theorem decVMX_eb {lo : Nat} (h : lo < 4096) (f : VMX) : bitAt (lo + encVMX f) 84 = f.eb := by
  have h1 := encOperand_lt f.m.d; have h2 := encOperand_lt f.m.a; have h3 := f.m.qb.isLt; have h4 := b2n_lt f.m.am
  have h5 := f.m.scale.isLt; have h6 := f.m.width.isLt; have h7 := b2n_lt f.m.sx; have h8 := f.m.scope.isLt
  have h9 := f.m.order.isLt; have h10 := f.m.hint.isLt; have h11 := b2n_lt f.m.ea; have h12 := b2n_lt f.m.ed
  have h13 := f.m.disp.isLt; have h14 := encOperand_lt f.b; have h15 := encOperand_lt f.c
  simp only [encVMX, encVM]
  exact bitAt_eq (q := b2n f.ec * 2 ^ 0 + f.aop.toNat * 2 ^ 1) f.eb
      (r := lo + encOperand f.m.d * 2 ^ 12 + encOperand f.m.a * 2 ^ 22 + f.m.qb.toNat * 2 ^ 32 + b2n f.m.am * 2 ^ 36 + f.m.scale.toNat * 2 ^ 37 + f.m.width.toNat * 2 ^ 39 + b2n f.m.sx * 2 ^ 42 + f.m.scope.toNat * 2 ^ 43 + f.m.order.toNat * 2 ^ 46 + f.m.hint.toNat * 2 ^ 48 + b2n f.m.ea * 2 ^ 50 + b2n f.m.ed * 2 ^ 51 + f.m.disp.toNat * 2 ^ 52 + encOperand f.b * 2 ^ 64 + encOperand f.c * 2 ^ 74) (by omega) (by omega)

theorem decVMX_ec {lo : Nat} (h : lo < 4096) (f : VMX) : bitAt (lo + encVMX f) 85 = f.ec := by
  have h1 := encOperand_lt f.m.d; have h2 := encOperand_lt f.m.a; have h3 := f.m.qb.isLt; have h4 := b2n_lt f.m.am
  have h5 := f.m.scale.isLt; have h6 := f.m.width.isLt; have h7 := b2n_lt f.m.sx; have h8 := f.m.scope.isLt
  have h9 := f.m.order.isLt; have h10 := f.m.hint.isLt; have h11 := b2n_lt f.m.ea; have h12 := b2n_lt f.m.ed
  have h13 := f.m.disp.isLt; have h14 := encOperand_lt f.b; have h15 := encOperand_lt f.c; have h16 := b2n_lt f.eb
  simp only [encVMX, encVM]
  exact bitAt_eq (q := f.aop.toNat * 2 ^ 0) f.ec
      (r := lo + encOperand f.m.d * 2 ^ 12 + encOperand f.m.a * 2 ^ 22 + f.m.qb.toNat * 2 ^ 32 + b2n f.m.am * 2 ^ 36 + f.m.scale.toNat * 2 ^ 37 + f.m.width.toNat * 2 ^ 39 + b2n f.m.sx * 2 ^ 42 + f.m.scope.toNat * 2 ^ 43 + f.m.order.toNat * 2 ^ 46 + f.m.hint.toNat * 2 ^ 48 + b2n f.m.ea * 2 ^ 50 + b2n f.m.ed * 2 ^ 51 + f.m.disp.toNat * 2 ^ 52 + encOperand f.b * 2 ^ 64 + encOperand f.c * 2 ^ 74 + b2n f.eb * 2 ^ 84) (by omega) (by omega)

theorem decVMX_aop {lo : Nat} (h : lo < 4096) (f : VMX) : bitField (lo + encVMX f) 86 4 = f.aop := by
  have h1 := encOperand_lt f.m.d; have h2 := encOperand_lt f.m.a; have h3 := f.m.qb.isLt; have h4 := b2n_lt f.m.am
  have h5 := f.m.scale.isLt; have h6 := f.m.width.isLt; have h7 := b2n_lt f.m.sx; have h8 := f.m.scope.isLt
  have h9 := f.m.order.isLt; have h10 := f.m.hint.isLt; have h11 := b2n_lt f.m.ea; have h12 := b2n_lt f.m.ed
  have h13 := f.m.disp.isLt; have h14 := encOperand_lt f.b; have h15 := encOperand_lt f.c; have h16 := b2n_lt f.eb
  have h17 := b2n_lt f.ec
  simp only [encVMX, encVM]
  exact bitField_eq (q := 0) f.aop
      (r := lo + encOperand f.m.d * 2 ^ 12 + encOperand f.m.a * 2 ^ 22 + f.m.qb.toNat * 2 ^ 32 + b2n f.m.am * 2 ^ 36 + f.m.scale.toNat * 2 ^ 37 + f.m.width.toNat * 2 ^ 39 + b2n f.m.sx * 2 ^ 42 + f.m.scope.toNat * 2 ^ 43 + f.m.order.toNat * 2 ^ 46 + f.m.hint.toNat * 2 ^ 48 + b2n f.m.ea * 2 ^ 50 + b2n f.m.ed * 2 ^ 51 + f.m.disp.toNat * 2 ^ 52 + encOperand f.b * 2 ^ 64 + encOperand f.c * 2 ^ 74 + b2n f.eb * 2 ^ 84 + b2n f.ec * 2 ^ 85) (by omega) (by omega)

theorem decVMX_enc {lo : Nat} (h : lo < 4096) (f : VMX) : decVMX (lo + encVMX f) = f := by
  simp only [decVMX, decVM, decVMX_m_d h, decVMX_m_a h, decVMX_m_qb h, decVMX_m_am h, decVMX_m_scale h, decVMX_m_width h, decVMX_m_sx h, decVMX_m_scope h, decVMX_m_order h, decVMX_m_hint h, decVMX_m_ea h, decVMX_m_ed h, decVMX_m_disp h, decVMX_b h, decVMX_c h, decVMX_eb h, decVMX_ec h, decVMX_aop h]

end Sys2Proof.Laws
end

