-- ==== Sys2Proof/Laws/State.lean ====
section
/-! SUPPORT. One lemma per field per update: what each named update of the state and of a wave leaves alone, and what it
changes. Proofs cite these and unfold no record update. -/

namespace Sys2Proof.Machine

/-! ## setWave -/

@[simp] theorem setWave_agenda (s : State) (k : Nat) (w : Wave) : (setWave s k w).agenda = s.agenda := rfl
@[simp] theorem setWave_actor (s : State) (k : Nat) (w : Wave) : (setWave s k w).actor = s.actor := rfl
@[simp] theorem setWave_stalled (s : State) (k : Nat) (w : Wave) : (setWave s k w).stalled = s.stalled := rfl
@[simp] theorem setWave_freeCtr (s : State) (k : Nat) (w : Wave) : (setWave s k w).freeCtr = s.freeCtr := rfl
@[simp] theorem setWave_nextUid (s : State) (k : Nat) (w : Wave) : (setWave s k w).nextUid = s.nextUid := rfl
@[simp] theorem setWave_nextTicket (s : State) (k : Nat) (w : Wave) : (setWave s k w).nextTicket = s.nextTicket := rfl
@[simp] theorem setWave_clock (s : State) (k : Nat) (w : Wave) : (setWave s k w).clock = s.clock := rfl
@[simp] theorem setWave_timebase (s : State) (k : Nat) (w : Wave) : (setWave s k w).timebase = s.timebase := rfl
@[simp] theorem setWave_subMicro (s : State) (k : Nat) (w : Wave) : (setWave s k w).subMicro = s.subMicro := rfl
@[simp] theorem setWave_pkg (s : State) (k : Nat) (w : Wave) : (setWave s k w).pkg = s.pkg := rfl
@[simp] theorem setWave_mem (s : State) (k : Nat) (w : Wave) : (setWave s k w).mem = s.mem := rfl
@[simp] theorem setWave_tags (s : State) (k : Nat) (w : Wave) : (setWave s k w).tags = s.tags := rfl
@[simp] theorem setWave_checks (s : State) (k : Nat) (w : Wave) : (setWave s k w).checks = s.checks := rfl
@[simp] theorem setWave_releases (s : State) (k : Nat) (w : Wave) : (setWave s k w).releases = s.releases := rfl
@[simp] theorem setWave_translations (s : State) (k : Nat) (w : Wave) : (setWave s k w).translations = s.translations := rfl
@[simp] theorem setWave_waves (s : State) (k : Nat) (w : Wave) : (setWave s k w).waves = Tbl.put s.waves k w := rfl
@[simp] theorem setWave_teams (s : State) (k : Nat) (w : Wave) : (setWave s k w).teams = s.teams := rfl
@[simp] theorem setWave_launches (s : State) (k : Nat) (w : Wave) : (setWave s k w).launches = s.launches := rfl
@[simp] theorem setWave_contexts (s : State) (k : Nat) (w : Wave) : (setWave s k w).contexts = s.contexts := rfl
@[simp] theorem setWave_cores (s : State) (k : Nat) (w : Wave) : (setWave s k w).cores = s.cores := rfl
@[simp] theorem setWave_clusters (s : State) (k : Nat) (w : Wave) : (setWave s k w).clusters = s.clusters := rfl
@[simp] theorem setWave_windowWrites (s : State) (k : Nat) (w : Wave) : (setWave s k w).windowWrites = s.windowWrites := rfl
@[simp] theorem setWave_hub (s : State) (k : Nat) (w : Wave) : (setWave s k w).hub = s.hub := rfl
@[simp] theorem setWave_hbm (s : State) (k : Nat) (w : Wave) : (setWave s k w).hbm = s.hbm := rfl
@[simp] theorem setWave_fabric (s : State) (k : Nat) (w : Wave) : (setWave s k w).fabric = s.fabric := rfl
@[simp] theorem setWave_boxes (s : State) (k : Nat) (w : Wave) : (setWave s k w).boxes = s.boxes := rfl
@[simp] theorem setWave_unitCounters (s : State) (k : Nat) (w : Wave) : (setWave s k w).unitCounters = s.unitCounters := rfl
@[simp] theorem setWave_intervals (s : State) (k : Nat) (w : Wave) : (setWave s k w).intervals = s.intervals := rfl
@[simp] theorem setWave_replayed (s : State) (k : Nat) (w : Wave) : (setWave s k w).replayed = s.replayed := rfl
@[simp] theorem setWave_replayStatus (s : State) (k : Nat) (w : Wave) : (setWave s k w).replayStatus = s.replayStatus := rfl

/-! ## modWave -/

@[simp] theorem modWave_agenda (s : State) (k : Nat) (f : Wave → Wave) : (modWave s k f).agenda = s.agenda := rfl
@[simp] theorem modWave_actor (s : State) (k : Nat) (f : Wave → Wave) : (modWave s k f).actor = s.actor := rfl
@[simp] theorem modWave_stalled (s : State) (k : Nat) (f : Wave → Wave) : (modWave s k f).stalled = s.stalled := rfl
@[simp] theorem modWave_freeCtr (s : State) (k : Nat) (f : Wave → Wave) : (modWave s k f).freeCtr = s.freeCtr := rfl
@[simp] theorem modWave_nextUid (s : State) (k : Nat) (f : Wave → Wave) : (modWave s k f).nextUid = s.nextUid := rfl
@[simp] theorem modWave_nextTicket (s : State) (k : Nat) (f : Wave → Wave) : (modWave s k f).nextTicket = s.nextTicket := rfl
@[simp] theorem modWave_clock (s : State) (k : Nat) (f : Wave → Wave) : (modWave s k f).clock = s.clock := rfl
@[simp] theorem modWave_timebase (s : State) (k : Nat) (f : Wave → Wave) : (modWave s k f).timebase = s.timebase := rfl
@[simp] theorem modWave_subMicro (s : State) (k : Nat) (f : Wave → Wave) : (modWave s k f).subMicro = s.subMicro := rfl
@[simp] theorem modWave_pkg (s : State) (k : Nat) (f : Wave → Wave) : (modWave s k f).pkg = s.pkg := rfl
@[simp] theorem modWave_mem (s : State) (k : Nat) (f : Wave → Wave) : (modWave s k f).mem = s.mem := rfl
@[simp] theorem modWave_tags (s : State) (k : Nat) (f : Wave → Wave) : (modWave s k f).tags = s.tags := rfl
@[simp] theorem modWave_checks (s : State) (k : Nat) (f : Wave → Wave) : (modWave s k f).checks = s.checks := rfl
@[simp] theorem modWave_releases (s : State) (k : Nat) (f : Wave → Wave) : (modWave s k f).releases = s.releases := rfl
@[simp] theorem modWave_translations (s : State) (k : Nat) (f : Wave → Wave) : (modWave s k f).translations = s.translations := rfl
@[simp] theorem modWave_waves (s : State) (k : Nat) (f : Wave → Wave) : (modWave s k f).waves = Tbl.modify s.waves k f := rfl
@[simp] theorem modWave_teams (s : State) (k : Nat) (f : Wave → Wave) : (modWave s k f).teams = s.teams := rfl
@[simp] theorem modWave_launches (s : State) (k : Nat) (f : Wave → Wave) : (modWave s k f).launches = s.launches := rfl
@[simp] theorem modWave_contexts (s : State) (k : Nat) (f : Wave → Wave) : (modWave s k f).contexts = s.contexts := rfl
@[simp] theorem modWave_cores (s : State) (k : Nat) (f : Wave → Wave) : (modWave s k f).cores = s.cores := rfl
@[simp] theorem modWave_clusters (s : State) (k : Nat) (f : Wave → Wave) : (modWave s k f).clusters = s.clusters := rfl
@[simp] theorem modWave_windowWrites (s : State) (k : Nat) (f : Wave → Wave) : (modWave s k f).windowWrites = s.windowWrites := rfl
@[simp] theorem modWave_hub (s : State) (k : Nat) (f : Wave → Wave) : (modWave s k f).hub = s.hub := rfl
@[simp] theorem modWave_hbm (s : State) (k : Nat) (f : Wave → Wave) : (modWave s k f).hbm = s.hbm := rfl
@[simp] theorem modWave_fabric (s : State) (k : Nat) (f : Wave → Wave) : (modWave s k f).fabric = s.fabric := rfl
@[simp] theorem modWave_boxes (s : State) (k : Nat) (f : Wave → Wave) : (modWave s k f).boxes = s.boxes := rfl
@[simp] theorem modWave_unitCounters (s : State) (k : Nat) (f : Wave → Wave) : (modWave s k f).unitCounters = s.unitCounters := rfl
@[simp] theorem modWave_intervals (s : State) (k : Nat) (f : Wave → Wave) : (modWave s k f).intervals = s.intervals := rfl
@[simp] theorem modWave_replayed (s : State) (k : Nat) (f : Wave → Wave) : (modWave s k f).replayed = s.replayed := rfl
@[simp] theorem modWave_replayStatus (s : State) (k : Nat) (f : Wave → Wave) : (modWave s k f).replayStatus = s.replayStatus := rfl

/-! ## modTeam -/

@[simp] theorem modTeam_agenda (s : State) (k : Nat) (f : Team → Team) : (modTeam s k f).agenda = s.agenda := rfl
@[simp] theorem modTeam_actor (s : State) (k : Nat) (f : Team → Team) : (modTeam s k f).actor = s.actor := rfl
@[simp] theorem modTeam_stalled (s : State) (k : Nat) (f : Team → Team) : (modTeam s k f).stalled = s.stalled := rfl
@[simp] theorem modTeam_freeCtr (s : State) (k : Nat) (f : Team → Team) : (modTeam s k f).freeCtr = s.freeCtr := rfl
@[simp] theorem modTeam_nextUid (s : State) (k : Nat) (f : Team → Team) : (modTeam s k f).nextUid = s.nextUid := rfl
@[simp] theorem modTeam_nextTicket (s : State) (k : Nat) (f : Team → Team) : (modTeam s k f).nextTicket = s.nextTicket := rfl
@[simp] theorem modTeam_clock (s : State) (k : Nat) (f : Team → Team) : (modTeam s k f).clock = s.clock := rfl
@[simp] theorem modTeam_timebase (s : State) (k : Nat) (f : Team → Team) : (modTeam s k f).timebase = s.timebase := rfl
@[simp] theorem modTeam_subMicro (s : State) (k : Nat) (f : Team → Team) : (modTeam s k f).subMicro = s.subMicro := rfl
@[simp] theorem modTeam_pkg (s : State) (k : Nat) (f : Team → Team) : (modTeam s k f).pkg = s.pkg := rfl
@[simp] theorem modTeam_mem (s : State) (k : Nat) (f : Team → Team) : (modTeam s k f).mem = s.mem := rfl
@[simp] theorem modTeam_tags (s : State) (k : Nat) (f : Team → Team) : (modTeam s k f).tags = s.tags := rfl
@[simp] theorem modTeam_checks (s : State) (k : Nat) (f : Team → Team) : (modTeam s k f).checks = s.checks := rfl
@[simp] theorem modTeam_releases (s : State) (k : Nat) (f : Team → Team) : (modTeam s k f).releases = s.releases := rfl
@[simp] theorem modTeam_translations (s : State) (k : Nat) (f : Team → Team) : (modTeam s k f).translations = s.translations := rfl
@[simp] theorem modTeam_waves (s : State) (k : Nat) (f : Team → Team) : (modTeam s k f).waves = s.waves := rfl
@[simp] theorem modTeam_teams (s : State) (k : Nat) (f : Team → Team) : (modTeam s k f).teams = Tbl.modify s.teams k f := rfl
@[simp] theorem modTeam_launches (s : State) (k : Nat) (f : Team → Team) : (modTeam s k f).launches = s.launches := rfl
@[simp] theorem modTeam_contexts (s : State) (k : Nat) (f : Team → Team) : (modTeam s k f).contexts = s.contexts := rfl
@[simp] theorem modTeam_cores (s : State) (k : Nat) (f : Team → Team) : (modTeam s k f).cores = s.cores := rfl
@[simp] theorem modTeam_clusters (s : State) (k : Nat) (f : Team → Team) : (modTeam s k f).clusters = s.clusters := rfl
@[simp] theorem modTeam_windowWrites (s : State) (k : Nat) (f : Team → Team) : (modTeam s k f).windowWrites = s.windowWrites := rfl
@[simp] theorem modTeam_hub (s : State) (k : Nat) (f : Team → Team) : (modTeam s k f).hub = s.hub := rfl
@[simp] theorem modTeam_hbm (s : State) (k : Nat) (f : Team → Team) : (modTeam s k f).hbm = s.hbm := rfl
@[simp] theorem modTeam_fabric (s : State) (k : Nat) (f : Team → Team) : (modTeam s k f).fabric = s.fabric := rfl
@[simp] theorem modTeam_boxes (s : State) (k : Nat) (f : Team → Team) : (modTeam s k f).boxes = s.boxes := rfl
@[simp] theorem modTeam_unitCounters (s : State) (k : Nat) (f : Team → Team) : (modTeam s k f).unitCounters = s.unitCounters := rfl
@[simp] theorem modTeam_intervals (s : State) (k : Nat) (f : Team → Team) : (modTeam s k f).intervals = s.intervals := rfl
@[simp] theorem modTeam_replayed (s : State) (k : Nat) (f : Team → Team) : (modTeam s k f).replayed = s.replayed := rfl
@[simp] theorem modTeam_replayStatus (s : State) (k : Nat) (f : Team → Team) : (modTeam s k f).replayStatus = s.replayStatus := rfl

/-! ## modLaunch -/

@[simp] theorem modLaunch_agenda (s : State) (k : Nat) (f : Launch → Launch) : (modLaunch s k f).agenda = s.agenda := rfl
@[simp] theorem modLaunch_actor (s : State) (k : Nat) (f : Launch → Launch) : (modLaunch s k f).actor = s.actor := rfl
@[simp] theorem modLaunch_stalled (s : State) (k : Nat) (f : Launch → Launch) : (modLaunch s k f).stalled = s.stalled := rfl
@[simp] theorem modLaunch_freeCtr (s : State) (k : Nat) (f : Launch → Launch) : (modLaunch s k f).freeCtr = s.freeCtr := rfl
@[simp] theorem modLaunch_nextUid (s : State) (k : Nat) (f : Launch → Launch) : (modLaunch s k f).nextUid = s.nextUid := rfl
@[simp] theorem modLaunch_nextTicket (s : State) (k : Nat) (f : Launch → Launch) : (modLaunch s k f).nextTicket = s.nextTicket := rfl
@[simp] theorem modLaunch_clock (s : State) (k : Nat) (f : Launch → Launch) : (modLaunch s k f).clock = s.clock := rfl
@[simp] theorem modLaunch_timebase (s : State) (k : Nat) (f : Launch → Launch) : (modLaunch s k f).timebase = s.timebase := rfl
@[simp] theorem modLaunch_subMicro (s : State) (k : Nat) (f : Launch → Launch) : (modLaunch s k f).subMicro = s.subMicro := rfl
@[simp] theorem modLaunch_pkg (s : State) (k : Nat) (f : Launch → Launch) : (modLaunch s k f).pkg = s.pkg := rfl
@[simp] theorem modLaunch_mem (s : State) (k : Nat) (f : Launch → Launch) : (modLaunch s k f).mem = s.mem := rfl
@[simp] theorem modLaunch_tags (s : State) (k : Nat) (f : Launch → Launch) : (modLaunch s k f).tags = s.tags := rfl
@[simp] theorem modLaunch_checks (s : State) (k : Nat) (f : Launch → Launch) : (modLaunch s k f).checks = s.checks := rfl
@[simp] theorem modLaunch_releases (s : State) (k : Nat) (f : Launch → Launch) : (modLaunch s k f).releases = s.releases := rfl
@[simp] theorem modLaunch_translations (s : State) (k : Nat) (f : Launch → Launch) : (modLaunch s k f).translations = s.translations := rfl
@[simp] theorem modLaunch_waves (s : State) (k : Nat) (f : Launch → Launch) : (modLaunch s k f).waves = s.waves := rfl
@[simp] theorem modLaunch_teams (s : State) (k : Nat) (f : Launch → Launch) : (modLaunch s k f).teams = s.teams := rfl
@[simp] theorem modLaunch_launches (s : State) (k : Nat) (f : Launch → Launch) : (modLaunch s k f).launches = Tbl.modify s.launches k f := rfl
@[simp] theorem modLaunch_contexts (s : State) (k : Nat) (f : Launch → Launch) : (modLaunch s k f).contexts = s.contexts := rfl
@[simp] theorem modLaunch_cores (s : State) (k : Nat) (f : Launch → Launch) : (modLaunch s k f).cores = s.cores := rfl
@[simp] theorem modLaunch_clusters (s : State) (k : Nat) (f : Launch → Launch) : (modLaunch s k f).clusters = s.clusters := rfl
@[simp] theorem modLaunch_windowWrites (s : State) (k : Nat) (f : Launch → Launch) : (modLaunch s k f).windowWrites = s.windowWrites := rfl
@[simp] theorem modLaunch_hub (s : State) (k : Nat) (f : Launch → Launch) : (modLaunch s k f).hub = s.hub := rfl
@[simp] theorem modLaunch_hbm (s : State) (k : Nat) (f : Launch → Launch) : (modLaunch s k f).hbm = s.hbm := rfl
@[simp] theorem modLaunch_fabric (s : State) (k : Nat) (f : Launch → Launch) : (modLaunch s k f).fabric = s.fabric := rfl
@[simp] theorem modLaunch_boxes (s : State) (k : Nat) (f : Launch → Launch) : (modLaunch s k f).boxes = s.boxes := rfl
@[simp] theorem modLaunch_unitCounters (s : State) (k : Nat) (f : Launch → Launch) : (modLaunch s k f).unitCounters = s.unitCounters := rfl
@[simp] theorem modLaunch_intervals (s : State) (k : Nat) (f : Launch → Launch) : (modLaunch s k f).intervals = s.intervals := rfl
@[simp] theorem modLaunch_replayed (s : State) (k : Nat) (f : Launch → Launch) : (modLaunch s k f).replayed = s.replayed := rfl
@[simp] theorem modLaunch_replayStatus (s : State) (k : Nat) (f : Launch → Launch) : (modLaunch s k f).replayStatus = s.replayStatus := rfl

/-! ## modCtx -/

@[simp] theorem modCtx_agenda (s : State) (k : Nat) (f : Context → Context) : (modCtx s k f).agenda = s.agenda := rfl
@[simp] theorem modCtx_actor (s : State) (k : Nat) (f : Context → Context) : (modCtx s k f).actor = s.actor := rfl
@[simp] theorem modCtx_stalled (s : State) (k : Nat) (f : Context → Context) : (modCtx s k f).stalled = s.stalled := rfl
@[simp] theorem modCtx_freeCtr (s : State) (k : Nat) (f : Context → Context) : (modCtx s k f).freeCtr = s.freeCtr := rfl
@[simp] theorem modCtx_nextUid (s : State) (k : Nat) (f : Context → Context) : (modCtx s k f).nextUid = s.nextUid := rfl
@[simp] theorem modCtx_nextTicket (s : State) (k : Nat) (f : Context → Context) : (modCtx s k f).nextTicket = s.nextTicket := rfl
@[simp] theorem modCtx_clock (s : State) (k : Nat) (f : Context → Context) : (modCtx s k f).clock = s.clock := rfl
@[simp] theorem modCtx_timebase (s : State) (k : Nat) (f : Context → Context) : (modCtx s k f).timebase = s.timebase := rfl
@[simp] theorem modCtx_subMicro (s : State) (k : Nat) (f : Context → Context) : (modCtx s k f).subMicro = s.subMicro := rfl
@[simp] theorem modCtx_pkg (s : State) (k : Nat) (f : Context → Context) : (modCtx s k f).pkg = s.pkg := rfl
@[simp] theorem modCtx_mem (s : State) (k : Nat) (f : Context → Context) : (modCtx s k f).mem = s.mem := rfl
@[simp] theorem modCtx_tags (s : State) (k : Nat) (f : Context → Context) : (modCtx s k f).tags = s.tags := rfl
@[simp] theorem modCtx_checks (s : State) (k : Nat) (f : Context → Context) : (modCtx s k f).checks = s.checks := rfl
@[simp] theorem modCtx_releases (s : State) (k : Nat) (f : Context → Context) : (modCtx s k f).releases = s.releases := rfl
@[simp] theorem modCtx_translations (s : State) (k : Nat) (f : Context → Context) : (modCtx s k f).translations = s.translations := rfl
@[simp] theorem modCtx_waves (s : State) (k : Nat) (f : Context → Context) : (modCtx s k f).waves = s.waves := rfl
@[simp] theorem modCtx_teams (s : State) (k : Nat) (f : Context → Context) : (modCtx s k f).teams = s.teams := rfl
@[simp] theorem modCtx_launches (s : State) (k : Nat) (f : Context → Context) : (modCtx s k f).launches = s.launches := rfl
@[simp] theorem modCtx_contexts (s : State) (k : Nat) (f : Context → Context) : (modCtx s k f).contexts = Tbl.modify s.contexts k f := rfl
@[simp] theorem modCtx_cores (s : State) (k : Nat) (f : Context → Context) : (modCtx s k f).cores = s.cores := rfl
@[simp] theorem modCtx_clusters (s : State) (k : Nat) (f : Context → Context) : (modCtx s k f).clusters = s.clusters := rfl
@[simp] theorem modCtx_windowWrites (s : State) (k : Nat) (f : Context → Context) : (modCtx s k f).windowWrites = s.windowWrites := rfl
@[simp] theorem modCtx_hub (s : State) (k : Nat) (f : Context → Context) : (modCtx s k f).hub = s.hub := rfl
@[simp] theorem modCtx_hbm (s : State) (k : Nat) (f : Context → Context) : (modCtx s k f).hbm = s.hbm := rfl
@[simp] theorem modCtx_fabric (s : State) (k : Nat) (f : Context → Context) : (modCtx s k f).fabric = s.fabric := rfl
@[simp] theorem modCtx_boxes (s : State) (k : Nat) (f : Context → Context) : (modCtx s k f).boxes = s.boxes := rfl
@[simp] theorem modCtx_unitCounters (s : State) (k : Nat) (f : Context → Context) : (modCtx s k f).unitCounters = s.unitCounters := rfl
@[simp] theorem modCtx_intervals (s : State) (k : Nat) (f : Context → Context) : (modCtx s k f).intervals = s.intervals := rfl
@[simp] theorem modCtx_replayed (s : State) (k : Nat) (f : Context → Context) : (modCtx s k f).replayed = s.replayed := rfl
@[simp] theorem modCtx_replayStatus (s : State) (k : Nat) (f : Context → Context) : (modCtx s k f).replayStatus = s.replayStatus := rfl

/-! ## setCore -/

@[simp] theorem setCore_agenda (s : State) (k : Nat) (c : Core) : (setCore s k c).agenda = s.agenda := rfl
@[simp] theorem setCore_actor (s : State) (k : Nat) (c : Core) : (setCore s k c).actor = s.actor := rfl
@[simp] theorem setCore_stalled (s : State) (k : Nat) (c : Core) : (setCore s k c).stalled = s.stalled := rfl
@[simp] theorem setCore_freeCtr (s : State) (k : Nat) (c : Core) : (setCore s k c).freeCtr = s.freeCtr := rfl
@[simp] theorem setCore_nextUid (s : State) (k : Nat) (c : Core) : (setCore s k c).nextUid = s.nextUid := rfl
@[simp] theorem setCore_nextTicket (s : State) (k : Nat) (c : Core) : (setCore s k c).nextTicket = s.nextTicket := rfl
@[simp] theorem setCore_clock (s : State) (k : Nat) (c : Core) : (setCore s k c).clock = s.clock := rfl
@[simp] theorem setCore_timebase (s : State) (k : Nat) (c : Core) : (setCore s k c).timebase = s.timebase := rfl
@[simp] theorem setCore_subMicro (s : State) (k : Nat) (c : Core) : (setCore s k c).subMicro = s.subMicro := rfl
@[simp] theorem setCore_pkg (s : State) (k : Nat) (c : Core) : (setCore s k c).pkg = s.pkg := rfl
@[simp] theorem setCore_mem (s : State) (k : Nat) (c : Core) : (setCore s k c).mem = s.mem := rfl
@[simp] theorem setCore_tags (s : State) (k : Nat) (c : Core) : (setCore s k c).tags = s.tags := rfl
@[simp] theorem setCore_checks (s : State) (k : Nat) (c : Core) : (setCore s k c).checks = s.checks := rfl
@[simp] theorem setCore_releases (s : State) (k : Nat) (c : Core) : (setCore s k c).releases = s.releases := rfl
@[simp] theorem setCore_translations (s : State) (k : Nat) (c : Core) : (setCore s k c).translations = s.translations := rfl
@[simp] theorem setCore_waves (s : State) (k : Nat) (c : Core) : (setCore s k c).waves = s.waves := rfl
@[simp] theorem setCore_teams (s : State) (k : Nat) (c : Core) : (setCore s k c).teams = s.teams := rfl
@[simp] theorem setCore_launches (s : State) (k : Nat) (c : Core) : (setCore s k c).launches = s.launches := rfl
@[simp] theorem setCore_contexts (s : State) (k : Nat) (c : Core) : (setCore s k c).contexts = s.contexts := rfl
@[simp] theorem setCore_cores (s : State) (k : Nat) (c : Core) : (setCore s k c).cores = Tbl.put s.cores k c := rfl
@[simp] theorem setCore_clusters (s : State) (k : Nat) (c : Core) : (setCore s k c).clusters = s.clusters := rfl
@[simp] theorem setCore_windowWrites (s : State) (k : Nat) (c : Core) : (setCore s k c).windowWrites = s.windowWrites := rfl
@[simp] theorem setCore_hub (s : State) (k : Nat) (c : Core) : (setCore s k c).hub = s.hub := rfl
@[simp] theorem setCore_hbm (s : State) (k : Nat) (c : Core) : (setCore s k c).hbm = s.hbm := rfl
@[simp] theorem setCore_fabric (s : State) (k : Nat) (c : Core) : (setCore s k c).fabric = s.fabric := rfl
@[simp] theorem setCore_boxes (s : State) (k : Nat) (c : Core) : (setCore s k c).boxes = s.boxes := rfl
@[simp] theorem setCore_unitCounters (s : State) (k : Nat) (c : Core) : (setCore s k c).unitCounters = s.unitCounters := rfl
@[simp] theorem setCore_intervals (s : State) (k : Nat) (c : Core) : (setCore s k c).intervals = s.intervals := rfl
@[simp] theorem setCore_replayed (s : State) (k : Nat) (c : Core) : (setCore s k c).replayed = s.replayed := rfl
@[simp] theorem setCore_replayStatus (s : State) (k : Nat) (c : Core) : (setCore s k c).replayStatus = s.replayStatus := rfl

/-! ## setCluster -/

@[simp] theorem setCluster_agenda (s : State) (k : Nat) (c : Cluster) : (setCluster s k c).agenda = s.agenda := rfl
@[simp] theorem setCluster_actor (s : State) (k : Nat) (c : Cluster) : (setCluster s k c).actor = s.actor := rfl
@[simp] theorem setCluster_stalled (s : State) (k : Nat) (c : Cluster) : (setCluster s k c).stalled = s.stalled := rfl
@[simp] theorem setCluster_freeCtr (s : State) (k : Nat) (c : Cluster) : (setCluster s k c).freeCtr = s.freeCtr := rfl
@[simp] theorem setCluster_nextUid (s : State) (k : Nat) (c : Cluster) : (setCluster s k c).nextUid = s.nextUid := rfl
@[simp] theorem setCluster_nextTicket (s : State) (k : Nat) (c : Cluster) : (setCluster s k c).nextTicket = s.nextTicket := rfl
@[simp] theorem setCluster_clock (s : State) (k : Nat) (c : Cluster) : (setCluster s k c).clock = s.clock := rfl
@[simp] theorem setCluster_timebase (s : State) (k : Nat) (c : Cluster) : (setCluster s k c).timebase = s.timebase := rfl
@[simp] theorem setCluster_subMicro (s : State) (k : Nat) (c : Cluster) : (setCluster s k c).subMicro = s.subMicro := rfl
@[simp] theorem setCluster_pkg (s : State) (k : Nat) (c : Cluster) : (setCluster s k c).pkg = s.pkg := rfl
@[simp] theorem setCluster_mem (s : State) (k : Nat) (c : Cluster) : (setCluster s k c).mem = s.mem := rfl
@[simp] theorem setCluster_tags (s : State) (k : Nat) (c : Cluster) : (setCluster s k c).tags = s.tags := rfl
@[simp] theorem setCluster_checks (s : State) (k : Nat) (c : Cluster) : (setCluster s k c).checks = s.checks := rfl
@[simp] theorem setCluster_releases (s : State) (k : Nat) (c : Cluster) : (setCluster s k c).releases = s.releases := rfl
@[simp] theorem setCluster_translations (s : State) (k : Nat) (c : Cluster) : (setCluster s k c).translations = s.translations := rfl
@[simp] theorem setCluster_waves (s : State) (k : Nat) (c : Cluster) : (setCluster s k c).waves = s.waves := rfl
@[simp] theorem setCluster_teams (s : State) (k : Nat) (c : Cluster) : (setCluster s k c).teams = s.teams := rfl
@[simp] theorem setCluster_launches (s : State) (k : Nat) (c : Cluster) : (setCluster s k c).launches = s.launches := rfl
@[simp] theorem setCluster_contexts (s : State) (k : Nat) (c : Cluster) : (setCluster s k c).contexts = s.contexts := rfl
@[simp] theorem setCluster_cores (s : State) (k : Nat) (c : Cluster) : (setCluster s k c).cores = s.cores := rfl
@[simp] theorem setCluster_clusters (s : State) (k : Nat) (c : Cluster) : (setCluster s k c).clusters = Tbl.put s.clusters k c := rfl
@[simp] theorem setCluster_windowWrites (s : State) (k : Nat) (c : Cluster) : (setCluster s k c).windowWrites = s.windowWrites := rfl
@[simp] theorem setCluster_hub (s : State) (k : Nat) (c : Cluster) : (setCluster s k c).hub = s.hub := rfl
@[simp] theorem setCluster_hbm (s : State) (k : Nat) (c : Cluster) : (setCluster s k c).hbm = s.hbm := rfl
@[simp] theorem setCluster_fabric (s : State) (k : Nat) (c : Cluster) : (setCluster s k c).fabric = s.fabric := rfl
@[simp] theorem setCluster_boxes (s : State) (k : Nat) (c : Cluster) : (setCluster s k c).boxes = s.boxes := rfl
@[simp] theorem setCluster_unitCounters (s : State) (k : Nat) (c : Cluster) : (setCluster s k c).unitCounters = s.unitCounters := rfl
@[simp] theorem setCluster_intervals (s : State) (k : Nat) (c : Cluster) : (setCluster s k c).intervals = s.intervals := rfl
@[simp] theorem setCluster_replayed (s : State) (k : Nat) (c : Cluster) : (setCluster s k c).replayed = s.replayed := rfl
@[simp] theorem setCluster_replayStatus (s : State) (k : Nat) (c : Cluster) : (setCluster s k c).replayStatus = s.replayStatus := rfl

/-! ## setStack -/

@[simp] theorem setStack_agenda (s : State) (k : Nat) (x : Stack) : (setStack s k x).agenda = s.agenda := rfl
@[simp] theorem setStack_actor (s : State) (k : Nat) (x : Stack) : (setStack s k x).actor = s.actor := rfl
@[simp] theorem setStack_stalled (s : State) (k : Nat) (x : Stack) : (setStack s k x).stalled = s.stalled := rfl
@[simp] theorem setStack_freeCtr (s : State) (k : Nat) (x : Stack) : (setStack s k x).freeCtr = s.freeCtr := rfl
@[simp] theorem setStack_nextUid (s : State) (k : Nat) (x : Stack) : (setStack s k x).nextUid = s.nextUid := rfl
@[simp] theorem setStack_nextTicket (s : State) (k : Nat) (x : Stack) : (setStack s k x).nextTicket = s.nextTicket := rfl
@[simp] theorem setStack_clock (s : State) (k : Nat) (x : Stack) : (setStack s k x).clock = s.clock := rfl
@[simp] theorem setStack_timebase (s : State) (k : Nat) (x : Stack) : (setStack s k x).timebase = s.timebase := rfl
@[simp] theorem setStack_subMicro (s : State) (k : Nat) (x : Stack) : (setStack s k x).subMicro = s.subMicro := rfl
@[simp] theorem setStack_pkg (s : State) (k : Nat) (x : Stack) : (setStack s k x).pkg = s.pkg := rfl
@[simp] theorem setStack_mem (s : State) (k : Nat) (x : Stack) : (setStack s k x).mem = s.mem := rfl
@[simp] theorem setStack_tags (s : State) (k : Nat) (x : Stack) : (setStack s k x).tags = s.tags := rfl
@[simp] theorem setStack_checks (s : State) (k : Nat) (x : Stack) : (setStack s k x).checks = s.checks := rfl
@[simp] theorem setStack_releases (s : State) (k : Nat) (x : Stack) : (setStack s k x).releases = s.releases := rfl
@[simp] theorem setStack_translations (s : State) (k : Nat) (x : Stack) : (setStack s k x).translations = s.translations := rfl
@[simp] theorem setStack_waves (s : State) (k : Nat) (x : Stack) : (setStack s k x).waves = s.waves := rfl
@[simp] theorem setStack_teams (s : State) (k : Nat) (x : Stack) : (setStack s k x).teams = s.teams := rfl
@[simp] theorem setStack_launches (s : State) (k : Nat) (x : Stack) : (setStack s k x).launches = s.launches := rfl
@[simp] theorem setStack_contexts (s : State) (k : Nat) (x : Stack) : (setStack s k x).contexts = s.contexts := rfl
@[simp] theorem setStack_cores (s : State) (k : Nat) (x : Stack) : (setStack s k x).cores = s.cores := rfl
@[simp] theorem setStack_clusters (s : State) (k : Nat) (x : Stack) : (setStack s k x).clusters = s.clusters := rfl
@[simp] theorem setStack_windowWrites (s : State) (k : Nat) (x : Stack) : (setStack s k x).windowWrites = s.windowWrites := rfl
@[simp] theorem setStack_hub (s : State) (k : Nat) (x : Stack) : (setStack s k x).hub = s.hub := rfl
@[simp] theorem setStack_hbm (s : State) (k : Nat) (x : Stack) : (setStack s k x).hbm = Tbl.put s.hbm k x := rfl
@[simp] theorem setStack_fabric (s : State) (k : Nat) (x : Stack) : (setStack s k x).fabric = s.fabric := rfl
@[simp] theorem setStack_boxes (s : State) (k : Nat) (x : Stack) : (setStack s k x).boxes = s.boxes := rfl
@[simp] theorem setStack_unitCounters (s : State) (k : Nat) (x : Stack) : (setStack s k x).unitCounters = s.unitCounters := rfl
@[simp] theorem setStack_intervals (s : State) (k : Nat) (x : Stack) : (setStack s k x).intervals = s.intervals := rfl
@[simp] theorem setStack_replayed (s : State) (k : Nat) (x : Stack) : (setStack s k x).replayed = s.replayed := rfl
@[simp] theorem setStack_replayStatus (s : State) (k : Nat) (x : Stack) : (setStack s k x).replayStatus = s.replayStatus := rfl

/-! ## modHub -/

@[simp] theorem modHub_agenda (s : State) (f : Hub → Hub) : (modHub s f).agenda = s.agenda := rfl
@[simp] theorem modHub_actor (s : State) (f : Hub → Hub) : (modHub s f).actor = s.actor := rfl
@[simp] theorem modHub_stalled (s : State) (f : Hub → Hub) : (modHub s f).stalled = s.stalled := rfl
@[simp] theorem modHub_freeCtr (s : State) (f : Hub → Hub) : (modHub s f).freeCtr = s.freeCtr := rfl
@[simp] theorem modHub_nextUid (s : State) (f : Hub → Hub) : (modHub s f).nextUid = s.nextUid := rfl
@[simp] theorem modHub_nextTicket (s : State) (f : Hub → Hub) : (modHub s f).nextTicket = s.nextTicket := rfl
@[simp] theorem modHub_clock (s : State) (f : Hub → Hub) : (modHub s f).clock = s.clock := rfl
@[simp] theorem modHub_timebase (s : State) (f : Hub → Hub) : (modHub s f).timebase = s.timebase := rfl
@[simp] theorem modHub_subMicro (s : State) (f : Hub → Hub) : (modHub s f).subMicro = s.subMicro := rfl
@[simp] theorem modHub_pkg (s : State) (f : Hub → Hub) : (modHub s f).pkg = s.pkg := rfl
@[simp] theorem modHub_mem (s : State) (f : Hub → Hub) : (modHub s f).mem = s.mem := rfl
@[simp] theorem modHub_tags (s : State) (f : Hub → Hub) : (modHub s f).tags = s.tags := rfl
@[simp] theorem modHub_checks (s : State) (f : Hub → Hub) : (modHub s f).checks = s.checks := rfl
@[simp] theorem modHub_releases (s : State) (f : Hub → Hub) : (modHub s f).releases = s.releases := rfl
@[simp] theorem modHub_translations (s : State) (f : Hub → Hub) : (modHub s f).translations = s.translations := rfl
@[simp] theorem modHub_waves (s : State) (f : Hub → Hub) : (modHub s f).waves = s.waves := rfl
@[simp] theorem modHub_teams (s : State) (f : Hub → Hub) : (modHub s f).teams = s.teams := rfl
@[simp] theorem modHub_launches (s : State) (f : Hub → Hub) : (modHub s f).launches = s.launches := rfl
@[simp] theorem modHub_contexts (s : State) (f : Hub → Hub) : (modHub s f).contexts = s.contexts := rfl
@[simp] theorem modHub_cores (s : State) (f : Hub → Hub) : (modHub s f).cores = s.cores := rfl
@[simp] theorem modHub_clusters (s : State) (f : Hub → Hub) : (modHub s f).clusters = s.clusters := rfl
@[simp] theorem modHub_windowWrites (s : State) (f : Hub → Hub) : (modHub s f).windowWrites = s.windowWrites := rfl
@[simp] theorem modHub_hub (s : State) (f : Hub → Hub) : (modHub s f).hub = f s.hub := rfl
@[simp] theorem modHub_hbm (s : State) (f : Hub → Hub) : (modHub s f).hbm = s.hbm := rfl
@[simp] theorem modHub_fabric (s : State) (f : Hub → Hub) : (modHub s f).fabric = s.fabric := rfl
@[simp] theorem modHub_boxes (s : State) (f : Hub → Hub) : (modHub s f).boxes = s.boxes := rfl
@[simp] theorem modHub_unitCounters (s : State) (f : Hub → Hub) : (modHub s f).unitCounters = s.unitCounters := rfl
@[simp] theorem modHub_intervals (s : State) (f : Hub → Hub) : (modHub s f).intervals = s.intervals := rfl
@[simp] theorem modHub_replayed (s : State) (f : Hub → Hub) : (modHub s f).replayed = s.replayed := rfl
@[simp] theorem modHub_replayStatus (s : State) (f : Hub → Hub) : (modHub s f).replayStatus = s.replayStatus := rfl

/-! ## modFabric -/

@[simp] theorem modFabric_agenda (s : State) (f : Fabric → Fabric) : (modFabric s f).agenda = s.agenda := rfl
@[simp] theorem modFabric_actor (s : State) (f : Fabric → Fabric) : (modFabric s f).actor = s.actor := rfl
@[simp] theorem modFabric_stalled (s : State) (f : Fabric → Fabric) : (modFabric s f).stalled = s.stalled := rfl
@[simp] theorem modFabric_freeCtr (s : State) (f : Fabric → Fabric) : (modFabric s f).freeCtr = s.freeCtr := rfl
@[simp] theorem modFabric_nextUid (s : State) (f : Fabric → Fabric) : (modFabric s f).nextUid = s.nextUid := rfl
@[simp] theorem modFabric_nextTicket (s : State) (f : Fabric → Fabric) : (modFabric s f).nextTicket = s.nextTicket := rfl
@[simp] theorem modFabric_clock (s : State) (f : Fabric → Fabric) : (modFabric s f).clock = s.clock := rfl
@[simp] theorem modFabric_timebase (s : State) (f : Fabric → Fabric) : (modFabric s f).timebase = s.timebase := rfl
@[simp] theorem modFabric_subMicro (s : State) (f : Fabric → Fabric) : (modFabric s f).subMicro = s.subMicro := rfl
@[simp] theorem modFabric_pkg (s : State) (f : Fabric → Fabric) : (modFabric s f).pkg = s.pkg := rfl
@[simp] theorem modFabric_mem (s : State) (f : Fabric → Fabric) : (modFabric s f).mem = s.mem := rfl
@[simp] theorem modFabric_tags (s : State) (f : Fabric → Fabric) : (modFabric s f).tags = s.tags := rfl
@[simp] theorem modFabric_checks (s : State) (f : Fabric → Fabric) : (modFabric s f).checks = s.checks := rfl
@[simp] theorem modFabric_releases (s : State) (f : Fabric → Fabric) : (modFabric s f).releases = s.releases := rfl
@[simp] theorem modFabric_translations (s : State) (f : Fabric → Fabric) : (modFabric s f).translations = s.translations := rfl
@[simp] theorem modFabric_waves (s : State) (f : Fabric → Fabric) : (modFabric s f).waves = s.waves := rfl
@[simp] theorem modFabric_teams (s : State) (f : Fabric → Fabric) : (modFabric s f).teams = s.teams := rfl
@[simp] theorem modFabric_launches (s : State) (f : Fabric → Fabric) : (modFabric s f).launches = s.launches := rfl
@[simp] theorem modFabric_contexts (s : State) (f : Fabric → Fabric) : (modFabric s f).contexts = s.contexts := rfl
@[simp] theorem modFabric_cores (s : State) (f : Fabric → Fabric) : (modFabric s f).cores = s.cores := rfl
@[simp] theorem modFabric_clusters (s : State) (f : Fabric → Fabric) : (modFabric s f).clusters = s.clusters := rfl
@[simp] theorem modFabric_windowWrites (s : State) (f : Fabric → Fabric) : (modFabric s f).windowWrites = s.windowWrites := rfl
@[simp] theorem modFabric_hub (s : State) (f : Fabric → Fabric) : (modFabric s f).hub = s.hub := rfl
@[simp] theorem modFabric_hbm (s : State) (f : Fabric → Fabric) : (modFabric s f).hbm = s.hbm := rfl
@[simp] theorem modFabric_fabric (s : State) (f : Fabric → Fabric) : (modFabric s f).fabric = f s.fabric := rfl
@[simp] theorem modFabric_boxes (s : State) (f : Fabric → Fabric) : (modFabric s f).boxes = s.boxes := rfl
@[simp] theorem modFabric_unitCounters (s : State) (f : Fabric → Fabric) : (modFabric s f).unitCounters = s.unitCounters := rfl
@[simp] theorem modFabric_intervals (s : State) (f : Fabric → Fabric) : (modFabric s f).intervals = s.intervals := rfl
@[simp] theorem modFabric_replayed (s : State) (f : Fabric → Fabric) : (modFabric s f).replayed = s.replayed := rfl
@[simp] theorem modFabric_replayStatus (s : State) (f : Fabric → Fabric) : (modFabric s f).replayStatus = s.replayStatus := rfl

/-! ## finishControl -/

@[simp] theorem finishControl_uid (i : Instr) (w : Wave) : (finishControl i w).uid = w.uid := rfl
@[simp] theorem finishControl_team (i : Instr) (w : Wave) : (finishControl i w).team = w.team := rfl
@[simp] theorem finishControl_w (i : Instr) (w : Wave) : (finishControl i w).w = w.w := rfl
@[simp] theorem finishControl_ctl (i : Instr) (w : Wave) : (finishControl i w).ctl = w.ctl := rfl
@[simp] theorem finishControl_held (i : Instr) (w : Wave) : (finishControl i w).held = w.held := rfl
@[simp] theorem finishControl_stops (i : Instr) (w : Wave) : (finishControl i w).stops = w.stops := rfl
@[simp] theorem finishControl_faulted (i : Instr) (w : Wave) : (finishControl i w).faulted = w.faulted := rfl
@[simp] theorem finishControl_fetchWait (i : Instr) (w : Wave) : (finishControl i w).fetchWait = w.fetchWait := rfl
@[simp] theorem finishControl_pc (i : Instr) (w : Wave) : (finishControl i w).pc = w.pc + BitVec.ofNat 64 (byteLength i) := rfl
@[simp] theorem finishControl_s (i : Instr) (w : Wave) : (finishControl i w).s = w.s := rfl
@[simp] theorem finishControl_sEmpty (i : Instr) (w : Wave) : (finishControl i w).sEmpty = w.sEmpty := rfl
@[simp] theorem finishControl_q (i : Instr) (w : Wave) : (finishControl i w).q = w.q := rfl
@[simp] theorem finishControl_qEmpty (i : Instr) (w : Wave) : (finishControl i w).qEmpty = w.qEmpty := rfl
@[simp] theorem finishControl_v (i : Instr) (w : Wave) : (finishControl i w).v = w.v := rfl
@[simp] theorem finishControl_vEmpty (i : Instr) (w : Wave) : (finishControl i w).vEmpty = w.vEmpty := rfl
@[simp] theorem finishControl_c (i : Instr) (w : Wave) : (finishControl i w).c = w.c := rfl
@[simp] theorem finishControl_ix (i : Instr) (w : Wave) : (finishControl i w).ix = w.ix := rfl
@[simp] theorem finishControl_ad (i : Instr) (w : Wave) : (finishControl i w).ad = w.ad := rfl
@[simp] theorem finishControl_g (i : Instr) (w : Wave) : (finishControl i w).g = w.g := rfl
@[simp] theorem finishControl_gangUids (i : Instr) (w : Wave) : (finishControl i w).gangUids = w.gangUids := rfl
@[simp] theorem finishControl_gangCount (i : Instr) (w : Wave) : (finishControl i w).gangCount = w.gangCount := rfl
@[simp] theorem finishControl_satf (i : Instr) (w : Wave) : (finishControl i w).satf = w.satf := rfl
@[simp] theorem finishControl_satarm (i : Instr) (w : Wave) : (finishControl i w).satarm = w.satarm := rfl
@[simp] theorem finishControl_rmode (i : Instr) (w : Wave) : (finishControl i w).rmode = w.rmode := rfl
@[simp] theorem finishControl_asyncerr (i : Instr) (w : Wave) : (finishControl i w).asyncerr = w.asyncerr := rfl
@[simp] theorem finishControl_sigc (i : Instr) (w : Wave) : (finishControl i w).sigc = foldSig w.sigc (opNumber i) := by simp only [finishControl]
@[simp] theorem finishControl_laneGen (i : Instr) (w : Wave) : (finishControl i w).laneGen = w.laneGen := rfl
@[simp] theorem finishControl_engGen (i : Instr) (w : Wave) : (finishControl i w).engGen = w.engGen := rfl
@[simp] theorem finishControl_laneQueue (i : Instr) (w : Wave) : (finishControl i w).laneQueue = w.laneQueue := rfl
@[simp] theorem finishControl_blockRunning (i : Instr) (w : Wave) : (finishControl i w).blockRunning = w.blockRunning := rfl
@[simp] theorem finishControl_blockSeq (i : Instr) (w : Wave) : (finishControl i w).blockSeq = w.blockSeq := rfl
@[simp] theorem finishControl_qAwait (i : Instr) (w : Wave) : (finishControl i w).qAwait = w.qAwait := rfl
@[simp] theorem finishControl_returnQueue (i : Instr) (w : Wave) : (finishControl i w).returnQueue = w.returnQueue := rfl
@[simp] theorem finishControl_recvs (i : Instr) (w : Wave) : (finishControl i w).recvs = w.recvs := rfl
@[simp] theorem finishControl_paths (i : Instr) (w : Wave) : (finishControl i w).paths = w.paths := rfl
@[simp] theorem finishControl_conts (i : Instr) (w : Wave) : (finishControl i w).conts = w.conts := rfl
@[simp] theorem finishControl_pathPtr (i : Instr) (w : Wave) : (finishControl i w).pathPtr = w.pathPtr := rfl
@[simp] theorem finishControl_pair (i : Instr) (w : Wave) : (finishControl i w).pair = w.pair := rfl
@[simp] theorem finishControl_highWater (i : Instr) (w : Wave) : (finishControl i w).highWater = w.highWater := rfl
@[simp] theorem finishControl_shunted (i : Instr) (w : Wave) : (finishControl i w).shunted = w.shunted := rfl
@[simp] theorem finishControl_log (i : Instr) (w : Wave) : (finishControl i w).log = w.log := rfl
@[simp] theorem finishControl_loads (i : Instr) (w : Wave) : (finishControl i w).loads = w.loads := rfl
@[simp] theorem finishControl_stores (i : Instr) (w : Wave) : (finishControl i w).stores = w.stores := rfl
@[simp] theorem finishControl_seq (i : Instr) (w : Wave) : (finishControl i w).seq = w.seq := rfl
@[simp] theorem finishControl_fences (i : Instr) (w : Wave) : (finishControl i w).fences = w.fences := rfl
@[simp] theorem finishControl_syncs (i : Instr) (w : Wave) : (finishControl i w).syncs = w.syncs := rfl
@[simp] theorem finishControl_blockSyncs (i : Instr) (w : Wave) : (finishControl i w).blockSyncs = w.blockSyncs := rfl
@[simp] theorem finishControl_readRels (i : Instr) (w : Wave) : (finishControl i w).readRels = w.readRels := rfl
@[simp] theorem finishControl_encoderPending (i : Instr) (w : Wave) : (finishControl i w).encoderPending = w.encoderPending := rfl
@[simp] theorem finishControl_dirty (i : Instr) (w : Wave) : (finishControl i w).dirty = w.dirty := rfl
@[simp] theorem finishControl_engine (i : Instr) (w : Wave) : (finishControl i w).engine = w.engine := rfl
@[simp] theorem finishControl_doneTiles (i : Instr) (w : Wave) : (finishControl i w).doneTiles = w.doneTiles := rfl
@[simp] theorem finishControl_engineFault (i : Instr) (w : Wave) : (finishControl i w).engineFault = w.engineFault := rfl
@[simp] theorem finishControl_engineFaults (i : Instr) (w : Wave) : (finishControl i w).engineFaults = w.engineFaults := rfl
@[simp] theorem finishControl_engineHits (i : Instr) (w : Wave) : (finishControl i w).engineHits = w.engineHits := rfl
@[simp] theorem finishControl_barArrivals (i : Instr) (w : Wave) : (finishControl i w).barArrivals = w.barArrivals := rfl
@[simp] theorem finishControl_decode (i : Instr) (w : Wave) : (finishControl i w).decode = w.decode := rfl
@[simp] theorem finishControl_yielded (i : Instr) (w : Wave) : (finishControl i w).yielded = w.yielded := rfl
@[simp] theorem finishControl_moved (i : Instr) (w : Wave) : (finishControl i w).moved = w.moved := rfl
@[simp] theorem finishControl_interval (i : Instr) (w : Wave) : (finishControl i w).interval = w.interval := rfl
@[simp] theorem finishControl_intervalDue (i : Instr) (w : Wave) : (finishControl i w).intervalDue = w.intervalDue := rfl
@[simp] theorem finishControl_sample (i : Instr) (w : Wave) : (finishControl i w).sample = w.sample := rfl

/-! ## jumpControl -/

@[simp] theorem jumpControl_uid (t : Dword) (w : Wave) : (jumpControl t w).uid = w.uid := rfl
@[simp] theorem jumpControl_team (t : Dword) (w : Wave) : (jumpControl t w).team = w.team := rfl
@[simp] theorem jumpControl_w (t : Dword) (w : Wave) : (jumpControl t w).w = w.w := rfl
@[simp] theorem jumpControl_ctl (t : Dword) (w : Wave) : (jumpControl t w).ctl = w.ctl := rfl
@[simp] theorem jumpControl_held (t : Dword) (w : Wave) : (jumpControl t w).held = w.held := rfl
@[simp] theorem jumpControl_stops (t : Dword) (w : Wave) : (jumpControl t w).stops = w.stops := rfl
@[simp] theorem jumpControl_faulted (t : Dword) (w : Wave) : (jumpControl t w).faulted = w.faulted := rfl
@[simp] theorem jumpControl_fetchWait (t : Dword) (w : Wave) : (jumpControl t w).fetchWait = w.fetchWait := rfl
@[simp] theorem jumpControl_pc (t : Dword) (w : Wave) : (jumpControl t w).pc = t := rfl
@[simp] theorem jumpControl_s (t : Dword) (w : Wave) : (jumpControl t w).s = w.s := rfl
@[simp] theorem jumpControl_sEmpty (t : Dword) (w : Wave) : (jumpControl t w).sEmpty = w.sEmpty := rfl
@[simp] theorem jumpControl_q (t : Dword) (w : Wave) : (jumpControl t w).q = w.q := rfl
@[simp] theorem jumpControl_qEmpty (t : Dword) (w : Wave) : (jumpControl t w).qEmpty = w.qEmpty := rfl
@[simp] theorem jumpControl_v (t : Dword) (w : Wave) : (jumpControl t w).v = w.v := rfl
@[simp] theorem jumpControl_vEmpty (t : Dword) (w : Wave) : (jumpControl t w).vEmpty = w.vEmpty := rfl
@[simp] theorem jumpControl_c (t : Dword) (w : Wave) : (jumpControl t w).c = w.c := rfl
@[simp] theorem jumpControl_ix (t : Dword) (w : Wave) : (jumpControl t w).ix = w.ix := rfl
@[simp] theorem jumpControl_ad (t : Dword) (w : Wave) : (jumpControl t w).ad = w.ad := rfl
@[simp] theorem jumpControl_g (t : Dword) (w : Wave) : (jumpControl t w).g = w.g := rfl
@[simp] theorem jumpControl_gangUids (t : Dword) (w : Wave) : (jumpControl t w).gangUids = w.gangUids := rfl
@[simp] theorem jumpControl_gangCount (t : Dword) (w : Wave) : (jumpControl t w).gangCount = w.gangCount := rfl
@[simp] theorem jumpControl_satf (t : Dword) (w : Wave) : (jumpControl t w).satf = w.satf := rfl
@[simp] theorem jumpControl_satarm (t : Dword) (w : Wave) : (jumpControl t w).satarm = w.satarm := rfl
@[simp] theorem jumpControl_rmode (t : Dword) (w : Wave) : (jumpControl t w).rmode = w.rmode := rfl
@[simp] theorem jumpControl_asyncerr (t : Dword) (w : Wave) : (jumpControl t w).asyncerr = w.asyncerr := rfl
@[simp] theorem jumpControl_sigc (t : Dword) (w : Wave) : (jumpControl t w).sigc = sigReset := rfl
@[simp] theorem jumpControl_laneGen (t : Dword) (w : Wave) : (jumpControl t w).laneGen = w.laneGen := rfl
@[simp] theorem jumpControl_engGen (t : Dword) (w : Wave) : (jumpControl t w).engGen = w.engGen := rfl
@[simp] theorem jumpControl_laneQueue (t : Dword) (w : Wave) : (jumpControl t w).laneQueue = w.laneQueue := rfl
@[simp] theorem jumpControl_blockRunning (t : Dword) (w : Wave) : (jumpControl t w).blockRunning = w.blockRunning := rfl
@[simp] theorem jumpControl_blockSeq (t : Dword) (w : Wave) : (jumpControl t w).blockSeq = w.blockSeq := rfl
@[simp] theorem jumpControl_qAwait (t : Dword) (w : Wave) : (jumpControl t w).qAwait = w.qAwait := rfl
@[simp] theorem jumpControl_returnQueue (t : Dword) (w : Wave) : (jumpControl t w).returnQueue = w.returnQueue := rfl
@[simp] theorem jumpControl_recvs (t : Dword) (w : Wave) : (jumpControl t w).recvs = w.recvs := rfl
@[simp] theorem jumpControl_paths (t : Dword) (w : Wave) : (jumpControl t w).paths = w.paths := rfl
@[simp] theorem jumpControl_conts (t : Dword) (w : Wave) : (jumpControl t w).conts = w.conts := rfl
@[simp] theorem jumpControl_pathPtr (t : Dword) (w : Wave) : (jumpControl t w).pathPtr = w.pathPtr := rfl
@[simp] theorem jumpControl_pair (t : Dword) (w : Wave) : (jumpControl t w).pair = w.pair := rfl
@[simp] theorem jumpControl_highWater (t : Dword) (w : Wave) : (jumpControl t w).highWater = w.highWater := rfl
@[simp] theorem jumpControl_shunted (t : Dword) (w : Wave) : (jumpControl t w).shunted = w.shunted := rfl
@[simp] theorem jumpControl_log (t : Dword) (w : Wave) : (jumpControl t w).log = w.log := rfl
@[simp] theorem jumpControl_loads (t : Dword) (w : Wave) : (jumpControl t w).loads = w.loads := rfl
@[simp] theorem jumpControl_stores (t : Dword) (w : Wave) : (jumpControl t w).stores = w.stores := rfl
@[simp] theorem jumpControl_seq (t : Dword) (w : Wave) : (jumpControl t w).seq = w.seq := rfl
@[simp] theorem jumpControl_fences (t : Dword) (w : Wave) : (jumpControl t w).fences = w.fences := rfl
@[simp] theorem jumpControl_syncs (t : Dword) (w : Wave) : (jumpControl t w).syncs = w.syncs := rfl
@[simp] theorem jumpControl_blockSyncs (t : Dword) (w : Wave) : (jumpControl t w).blockSyncs = w.blockSyncs := rfl
@[simp] theorem jumpControl_readRels (t : Dword) (w : Wave) : (jumpControl t w).readRels = w.readRels := rfl
@[simp] theorem jumpControl_encoderPending (t : Dword) (w : Wave) : (jumpControl t w).encoderPending = w.encoderPending := rfl
@[simp] theorem jumpControl_dirty (t : Dword) (w : Wave) : (jumpControl t w).dirty = w.dirty := rfl
@[simp] theorem jumpControl_engine (t : Dword) (w : Wave) : (jumpControl t w).engine = w.engine := rfl
@[simp] theorem jumpControl_doneTiles (t : Dword) (w : Wave) : (jumpControl t w).doneTiles = w.doneTiles := rfl
@[simp] theorem jumpControl_engineFault (t : Dword) (w : Wave) : (jumpControl t w).engineFault = w.engineFault := rfl
@[simp] theorem jumpControl_engineFaults (t : Dword) (w : Wave) : (jumpControl t w).engineFaults = w.engineFaults := rfl
@[simp] theorem jumpControl_engineHits (t : Dword) (w : Wave) : (jumpControl t w).engineHits = w.engineHits := rfl
@[simp] theorem jumpControl_barArrivals (t : Dword) (w : Wave) : (jumpControl t w).barArrivals = w.barArrivals := rfl
@[simp] theorem jumpControl_decode (t : Dword) (w : Wave) : (jumpControl t w).decode = w.decode := rfl
@[simp] theorem jumpControl_yielded (t : Dword) (w : Wave) : (jumpControl t w).yielded = w.yielded := rfl
@[simp] theorem jumpControl_moved (t : Dword) (w : Wave) : (jumpControl t w).moved = w.moved := rfl
@[simp] theorem jumpControl_interval (t : Dword) (w : Wave) : (jumpControl t w).interval = w.interval := rfl
@[simp] theorem jumpControl_intervalDue (t : Dword) (w : Wave) : (jumpControl t w).intervalDue = w.intervalDue := rfl
@[simp] theorem jumpControl_sample (t : Dword) (w : Wave) : (jumpControl t w).sample = w.sample := rfl

/-! ## setFlags -/

@[simp] theorem setFlags_uid (f : BitVec 4) (w : Wave) : (setFlags f w).uid = w.uid := rfl
@[simp] theorem setFlags_team (f : BitVec 4) (w : Wave) : (setFlags f w).team = w.team := rfl
@[simp] theorem setFlags_w (f : BitVec 4) (w : Wave) : (setFlags f w).w = w.w := rfl
@[simp] theorem setFlags_ctl (f : BitVec 4) (w : Wave) : (setFlags f w).ctl = w.ctl := rfl
@[simp] theorem setFlags_held (f : BitVec 4) (w : Wave) : (setFlags f w).held = w.held := rfl
@[simp] theorem setFlags_stops (f : BitVec 4) (w : Wave) : (setFlags f w).stops = w.stops := rfl
@[simp] theorem setFlags_faulted (f : BitVec 4) (w : Wave) : (setFlags f w).faulted = w.faulted := rfl
@[simp] theorem setFlags_fetchWait (f : BitVec 4) (w : Wave) : (setFlags f w).fetchWait = w.fetchWait := rfl
@[simp] theorem setFlags_pc (f : BitVec 4) (w : Wave) : (setFlags f w).pc = w.pc := rfl
@[simp] theorem setFlags_s (f : BitVec 4) (w : Wave) : (setFlags f w).s = w.s := rfl
@[simp] theorem setFlags_sEmpty (f : BitVec 4) (w : Wave) : (setFlags f w).sEmpty = w.sEmpty := rfl
@[simp] theorem setFlags_q (f : BitVec 4) (w : Wave) : (setFlags f w).q = w.q := rfl
@[simp] theorem setFlags_qEmpty (f : BitVec 4) (w : Wave) : (setFlags f w).qEmpty = w.qEmpty := rfl
@[simp] theorem setFlags_v (f : BitVec 4) (w : Wave) : (setFlags f w).v = w.v := rfl
@[simp] theorem setFlags_vEmpty (f : BitVec 4) (w : Wave) : (setFlags f w).vEmpty = w.vEmpty := rfl
@[simp] theorem setFlags_c (f : BitVec 4) (w : Wave) : (setFlags f w).c = w.c := rfl
@[simp] theorem setFlags_ix (f : BitVec 4) (w : Wave) : (setFlags f w).ix = w.ix := rfl
@[simp] theorem setFlags_ad (f : BitVec 4) (w : Wave) : (setFlags f w).ad = w.ad := rfl
@[simp] theorem setFlags_g (f : BitVec 4) (w : Wave) : (setFlags f w).g = w.g := rfl
@[simp] theorem setFlags_gangUids (f : BitVec 4) (w : Wave) : (setFlags f w).gangUids = w.gangUids := rfl
@[simp] theorem setFlags_gangCount (f : BitVec 4) (w : Wave) : (setFlags f w).gangCount = w.gangCount := rfl
@[simp] theorem setFlags_satf (f : BitVec 4) (w : Wave) : (setFlags f w).satf = w.satf ||| f := rfl
@[simp] theorem setFlags_satarm (f : BitVec 4) (w : Wave) : (setFlags f w).satarm = w.satarm := rfl
@[simp] theorem setFlags_rmode (f : BitVec 4) (w : Wave) : (setFlags f w).rmode = w.rmode := rfl
@[simp] theorem setFlags_asyncerr (f : BitVec 4) (w : Wave) : (setFlags f w).asyncerr = w.asyncerr := rfl
@[simp] theorem setFlags_sigc (f : BitVec 4) (w : Wave) : (setFlags f w).sigc = w.sigc := rfl
@[simp] theorem setFlags_laneGen (f : BitVec 4) (w : Wave) : (setFlags f w).laneGen = w.laneGen := rfl
@[simp] theorem setFlags_engGen (f : BitVec 4) (w : Wave) : (setFlags f w).engGen = w.engGen := rfl
@[simp] theorem setFlags_laneQueue (f : BitVec 4) (w : Wave) : (setFlags f w).laneQueue = w.laneQueue := rfl
@[simp] theorem setFlags_blockRunning (f : BitVec 4) (w : Wave) : (setFlags f w).blockRunning = w.blockRunning := rfl
@[simp] theorem setFlags_blockSeq (f : BitVec 4) (w : Wave) : (setFlags f w).blockSeq = w.blockSeq := rfl
@[simp] theorem setFlags_qAwait (f : BitVec 4) (w : Wave) : (setFlags f w).qAwait = w.qAwait := rfl
@[simp] theorem setFlags_returnQueue (f : BitVec 4) (w : Wave) : (setFlags f w).returnQueue = w.returnQueue := rfl
@[simp] theorem setFlags_recvs (f : BitVec 4) (w : Wave) : (setFlags f w).recvs = w.recvs := rfl
@[simp] theorem setFlags_paths (f : BitVec 4) (w : Wave) : (setFlags f w).paths = w.paths := rfl
@[simp] theorem setFlags_conts (f : BitVec 4) (w : Wave) : (setFlags f w).conts = w.conts := rfl
@[simp] theorem setFlags_pathPtr (f : BitVec 4) (w : Wave) : (setFlags f w).pathPtr = w.pathPtr := rfl
@[simp] theorem setFlags_pair (f : BitVec 4) (w : Wave) : (setFlags f w).pair = w.pair := rfl
@[simp] theorem setFlags_highWater (f : BitVec 4) (w : Wave) : (setFlags f w).highWater = w.highWater := rfl
@[simp] theorem setFlags_shunted (f : BitVec 4) (w : Wave) : (setFlags f w).shunted = w.shunted := rfl
@[simp] theorem setFlags_log (f : BitVec 4) (w : Wave) : (setFlags f w).log = w.log := rfl
@[simp] theorem setFlags_loads (f : BitVec 4) (w : Wave) : (setFlags f w).loads = w.loads := rfl
@[simp] theorem setFlags_stores (f : BitVec 4) (w : Wave) : (setFlags f w).stores = w.stores := rfl
@[simp] theorem setFlags_seq (f : BitVec 4) (w : Wave) : (setFlags f w).seq = w.seq := rfl
@[simp] theorem setFlags_fences (f : BitVec 4) (w : Wave) : (setFlags f w).fences = w.fences := rfl
@[simp] theorem setFlags_syncs (f : BitVec 4) (w : Wave) : (setFlags f w).syncs = w.syncs := rfl
@[simp] theorem setFlags_blockSyncs (f : BitVec 4) (w : Wave) : (setFlags f w).blockSyncs = w.blockSyncs := rfl
@[simp] theorem setFlags_readRels (f : BitVec 4) (w : Wave) : (setFlags f w).readRels = w.readRels := rfl
@[simp] theorem setFlags_encoderPending (f : BitVec 4) (w : Wave) : (setFlags f w).encoderPending = w.encoderPending := rfl
@[simp] theorem setFlags_dirty (f : BitVec 4) (w : Wave) : (setFlags f w).dirty = w.dirty := rfl
@[simp] theorem setFlags_engine (f : BitVec 4) (w : Wave) : (setFlags f w).engine = w.engine := rfl
@[simp] theorem setFlags_doneTiles (f : BitVec 4) (w : Wave) : (setFlags f w).doneTiles = w.doneTiles := rfl
@[simp] theorem setFlags_engineFault (f : BitVec 4) (w : Wave) : (setFlags f w).engineFault = w.engineFault := rfl
@[simp] theorem setFlags_engineFaults (f : BitVec 4) (w : Wave) : (setFlags f w).engineFaults = w.engineFaults := rfl
@[simp] theorem setFlags_engineHits (f : BitVec 4) (w : Wave) : (setFlags f w).engineHits = w.engineHits := rfl
@[simp] theorem setFlags_barArrivals (f : BitVec 4) (w : Wave) : (setFlags f w).barArrivals = w.barArrivals := rfl
@[simp] theorem setFlags_decode (f : BitVec 4) (w : Wave) : (setFlags f w).decode = w.decode := rfl
@[simp] theorem setFlags_yielded (f : BitVec 4) (w : Wave) : (setFlags f w).yielded = w.yielded := rfl
@[simp] theorem setFlags_moved (f : BitVec 4) (w : Wave) : (setFlags f w).moved = w.moved := rfl
@[simp] theorem setFlags_interval (f : BitVec 4) (w : Wave) : (setFlags f w).interval = w.interval := rfl
@[simp] theorem setFlags_intervalDue (f : BitVec 4) (w : Wave) : (setFlags f w).intervalDue = w.intervalDue := rfl
@[simp] theorem setFlags_sample (f : BitVec 4) (w : Wave) : (setFlags f w).sample = w.sample := rfl

/-! ## nextSeq -/

@[simp] theorem nextSeq_uid (w : Wave) : (nextSeq w).uid = w.uid := rfl
@[simp] theorem nextSeq_team (w : Wave) : (nextSeq w).team = w.team := rfl
@[simp] theorem nextSeq_w (w : Wave) : (nextSeq w).w = w.w := rfl
@[simp] theorem nextSeq_ctl (w : Wave) : (nextSeq w).ctl = w.ctl := rfl
@[simp] theorem nextSeq_held (w : Wave) : (nextSeq w).held = w.held := rfl
@[simp] theorem nextSeq_stops (w : Wave) : (nextSeq w).stops = w.stops := rfl
@[simp] theorem nextSeq_faulted (w : Wave) : (nextSeq w).faulted = w.faulted := rfl
@[simp] theorem nextSeq_fetchWait (w : Wave) : (nextSeq w).fetchWait = w.fetchWait := rfl
@[simp] theorem nextSeq_pc (w : Wave) : (nextSeq w).pc = w.pc := rfl
@[simp] theorem nextSeq_s (w : Wave) : (nextSeq w).s = w.s := rfl
@[simp] theorem nextSeq_sEmpty (w : Wave) : (nextSeq w).sEmpty = w.sEmpty := rfl
@[simp] theorem nextSeq_q (w : Wave) : (nextSeq w).q = w.q := rfl
@[simp] theorem nextSeq_qEmpty (w : Wave) : (nextSeq w).qEmpty = w.qEmpty := rfl
@[simp] theorem nextSeq_v (w : Wave) : (nextSeq w).v = w.v := rfl
@[simp] theorem nextSeq_vEmpty (w : Wave) : (nextSeq w).vEmpty = w.vEmpty := rfl
@[simp] theorem nextSeq_c (w : Wave) : (nextSeq w).c = w.c := rfl
@[simp] theorem nextSeq_ix (w : Wave) : (nextSeq w).ix = w.ix := rfl
@[simp] theorem nextSeq_ad (w : Wave) : (nextSeq w).ad = w.ad := rfl
@[simp] theorem nextSeq_g (w : Wave) : (nextSeq w).g = w.g := rfl
@[simp] theorem nextSeq_gangUids (w : Wave) : (nextSeq w).gangUids = w.gangUids := rfl
@[simp] theorem nextSeq_gangCount (w : Wave) : (nextSeq w).gangCount = w.gangCount := rfl
@[simp] theorem nextSeq_satf (w : Wave) : (nextSeq w).satf = w.satf := rfl
@[simp] theorem nextSeq_satarm (w : Wave) : (nextSeq w).satarm = w.satarm := rfl
@[simp] theorem nextSeq_rmode (w : Wave) : (nextSeq w).rmode = w.rmode := rfl
@[simp] theorem nextSeq_asyncerr (w : Wave) : (nextSeq w).asyncerr = w.asyncerr := rfl
@[simp] theorem nextSeq_sigc (w : Wave) : (nextSeq w).sigc = w.sigc := rfl
@[simp] theorem nextSeq_laneGen (w : Wave) : (nextSeq w).laneGen = w.laneGen := rfl
@[simp] theorem nextSeq_engGen (w : Wave) : (nextSeq w).engGen = w.engGen := rfl
@[simp] theorem nextSeq_laneQueue (w : Wave) : (nextSeq w).laneQueue = w.laneQueue := rfl
@[simp] theorem nextSeq_blockRunning (w : Wave) : (nextSeq w).blockRunning = w.blockRunning := rfl
@[simp] theorem nextSeq_blockSeq (w : Wave) : (nextSeq w).blockSeq = w.blockSeq := rfl
@[simp] theorem nextSeq_qAwait (w : Wave) : (nextSeq w).qAwait = w.qAwait := rfl
@[simp] theorem nextSeq_returnQueue (w : Wave) : (nextSeq w).returnQueue = w.returnQueue := rfl
@[simp] theorem nextSeq_recvs (w : Wave) : (nextSeq w).recvs = w.recvs := rfl
@[simp] theorem nextSeq_paths (w : Wave) : (nextSeq w).paths = w.paths := rfl
@[simp] theorem nextSeq_conts (w : Wave) : (nextSeq w).conts = w.conts := rfl
@[simp] theorem nextSeq_pathPtr (w : Wave) : (nextSeq w).pathPtr = w.pathPtr := rfl
@[simp] theorem nextSeq_pair (w : Wave) : (nextSeq w).pair = w.pair := rfl
@[simp] theorem nextSeq_highWater (w : Wave) : (nextSeq w).highWater = w.highWater := rfl
@[simp] theorem nextSeq_shunted (w : Wave) : (nextSeq w).shunted = w.shunted := rfl
@[simp] theorem nextSeq_log (w : Wave) : (nextSeq w).log = w.log := rfl
@[simp] theorem nextSeq_loads (w : Wave) : (nextSeq w).loads = w.loads := rfl
@[simp] theorem nextSeq_stores (w : Wave) : (nextSeq w).stores = w.stores := rfl
@[simp] theorem nextSeq_seq (w : Wave) : (nextSeq w).seq = w.seq + seqStride := rfl
@[simp] theorem nextSeq_fences (w : Wave) : (nextSeq w).fences = w.fences := rfl
@[simp] theorem nextSeq_syncs (w : Wave) : (nextSeq w).syncs = w.syncs := rfl
@[simp] theorem nextSeq_blockSyncs (w : Wave) : (nextSeq w).blockSyncs = w.blockSyncs := rfl
@[simp] theorem nextSeq_readRels (w : Wave) : (nextSeq w).readRels = w.readRels := rfl
@[simp] theorem nextSeq_encoderPending (w : Wave) : (nextSeq w).encoderPending = w.encoderPending := rfl
@[simp] theorem nextSeq_dirty (w : Wave) : (nextSeq w).dirty = w.dirty := rfl
@[simp] theorem nextSeq_engine (w : Wave) : (nextSeq w).engine = w.engine := rfl
@[simp] theorem nextSeq_doneTiles (w : Wave) : (nextSeq w).doneTiles = w.doneTiles := rfl
@[simp] theorem nextSeq_engineFault (w : Wave) : (nextSeq w).engineFault = w.engineFault := rfl
@[simp] theorem nextSeq_engineFaults (w : Wave) : (nextSeq w).engineFaults = w.engineFaults := rfl
@[simp] theorem nextSeq_engineHits (w : Wave) : (nextSeq w).engineHits = w.engineHits := rfl
@[simp] theorem nextSeq_barArrivals (w : Wave) : (nextSeq w).barArrivals = w.barArrivals := rfl
@[simp] theorem nextSeq_decode (w : Wave) : (nextSeq w).decode = w.decode := rfl
@[simp] theorem nextSeq_yielded (w : Wave) : (nextSeq w).yielded = w.yielded := rfl
@[simp] theorem nextSeq_moved (w : Wave) : (nextSeq w).moved = w.moved := rfl
@[simp] theorem nextSeq_interval (w : Wave) : (nextSeq w).interval = w.interval := rfl
@[simp] theorem nextSeq_intervalDue (w : Wave) : (nextSeq w).intervalDue = w.intervalDue := rfl
@[simp] theorem nextSeq_sample (w : Wave) : (nextSeq w).sample = w.sample := rfl

/-! ## writeV -/

@[simp] theorem writeV_uid (r l : Nat) (x : Word) (w : Wave) : (writeV r l x w).uid = w.uid := rfl
@[simp] theorem writeV_team (r l : Nat) (x : Word) (w : Wave) : (writeV r l x w).team = w.team := rfl
@[simp] theorem writeV_w (r l : Nat) (x : Word) (w : Wave) : (writeV r l x w).w = w.w := rfl
@[simp] theorem writeV_ctl (r l : Nat) (x : Word) (w : Wave) : (writeV r l x w).ctl = w.ctl := rfl
@[simp] theorem writeV_held (r l : Nat) (x : Word) (w : Wave) : (writeV r l x w).held = w.held := rfl
@[simp] theorem writeV_stops (r l : Nat) (x : Word) (w : Wave) : (writeV r l x w).stops = w.stops := rfl
@[simp] theorem writeV_faulted (r l : Nat) (x : Word) (w : Wave) : (writeV r l x w).faulted = w.faulted := rfl
@[simp] theorem writeV_fetchWait (r l : Nat) (x : Word) (w : Wave) : (writeV r l x w).fetchWait = w.fetchWait := rfl
@[simp] theorem writeV_pc (r l : Nat) (x : Word) (w : Wave) : (writeV r l x w).pc = w.pc := rfl
@[simp] theorem writeV_s (r l : Nat) (x : Word) (w : Wave) : (writeV r l x w).s = w.s := rfl
@[simp] theorem writeV_sEmpty (r l : Nat) (x : Word) (w : Wave) : (writeV r l x w).sEmpty = w.sEmpty := rfl
@[simp] theorem writeV_q (r l : Nat) (x : Word) (w : Wave) : (writeV r l x w).q = w.q := rfl
@[simp] theorem writeV_qEmpty (r l : Nat) (x : Word) (w : Wave) : (writeV r l x w).qEmpty = w.qEmpty := rfl
@[simp] theorem writeV_v (r l : Nat) (x : Word) (w : Wave) : (writeV r l x w).v = Cells.set 0 w.v (vKey r l) x := rfl
@[simp] theorem writeV_vEmpty (r l : Nat) (x : Word) (w : Wave) : (writeV r l x w).vEmpty = Cells.set false w.vEmpty (vKey r l) false := rfl
@[simp] theorem writeV_c (r l : Nat) (x : Word) (w : Wave) : (writeV r l x w).c = w.c := rfl
@[simp] theorem writeV_ix (r l : Nat) (x : Word) (w : Wave) : (writeV r l x w).ix = w.ix := rfl
@[simp] theorem writeV_ad (r l : Nat) (x : Word) (w : Wave) : (writeV r l x w).ad = w.ad := rfl
@[simp] theorem writeV_g (r l : Nat) (x : Word) (w : Wave) : (writeV r l x w).g = w.g := rfl
@[simp] theorem writeV_gangUids (r l : Nat) (x : Word) (w : Wave) : (writeV r l x w).gangUids = w.gangUids := rfl
@[simp] theorem writeV_gangCount (r l : Nat) (x : Word) (w : Wave) : (writeV r l x w).gangCount = w.gangCount := rfl
@[simp] theorem writeV_satf (r l : Nat) (x : Word) (w : Wave) : (writeV r l x w).satf = w.satf := rfl
@[simp] theorem writeV_satarm (r l : Nat) (x : Word) (w : Wave) : (writeV r l x w).satarm = w.satarm := rfl
@[simp] theorem writeV_rmode (r l : Nat) (x : Word) (w : Wave) : (writeV r l x w).rmode = w.rmode := rfl
@[simp] theorem writeV_asyncerr (r l : Nat) (x : Word) (w : Wave) : (writeV r l x w).asyncerr = w.asyncerr := rfl
@[simp] theorem writeV_sigc (r l : Nat) (x : Word) (w : Wave) : (writeV r l x w).sigc = w.sigc := rfl
@[simp] theorem writeV_laneGen (r l : Nat) (x : Word) (w : Wave) : (writeV r l x w).laneGen = w.laneGen := rfl
@[simp] theorem writeV_engGen (r l : Nat) (x : Word) (w : Wave) : (writeV r l x w).engGen = w.engGen := rfl
@[simp] theorem writeV_laneQueue (r l : Nat) (x : Word) (w : Wave) : (writeV r l x w).laneQueue = w.laneQueue := rfl
@[simp] theorem writeV_blockRunning (r l : Nat) (x : Word) (w : Wave) : (writeV r l x w).blockRunning = w.blockRunning := rfl
@[simp] theorem writeV_blockSeq (r l : Nat) (x : Word) (w : Wave) : (writeV r l x w).blockSeq = w.blockSeq := rfl
@[simp] theorem writeV_qAwait (r l : Nat) (x : Word) (w : Wave) : (writeV r l x w).qAwait = w.qAwait := rfl
@[simp] theorem writeV_returnQueue (r l : Nat) (x : Word) (w : Wave) : (writeV r l x w).returnQueue = w.returnQueue := rfl
@[simp] theorem writeV_recvs (r l : Nat) (x : Word) (w : Wave) : (writeV r l x w).recvs = w.recvs := rfl
@[simp] theorem writeV_paths (r l : Nat) (x : Word) (w : Wave) : (writeV r l x w).paths = w.paths := rfl
@[simp] theorem writeV_conts (r l : Nat) (x : Word) (w : Wave) : (writeV r l x w).conts = w.conts := rfl
@[simp] theorem writeV_pathPtr (r l : Nat) (x : Word) (w : Wave) : (writeV r l x w).pathPtr = w.pathPtr := rfl
@[simp] theorem writeV_pair (r l : Nat) (x : Word) (w : Wave) : (writeV r l x w).pair = w.pair := rfl
@[simp] theorem writeV_highWater (r l : Nat) (x : Word) (w : Wave) : (writeV r l x w).highWater = w.highWater := rfl
@[simp] theorem writeV_shunted (r l : Nat) (x : Word) (w : Wave) : (writeV r l x w).shunted = w.shunted := rfl
@[simp] theorem writeV_log (r l : Nat) (x : Word) (w : Wave) : (writeV r l x w).log = w.log := rfl
@[simp] theorem writeV_loads (r l : Nat) (x : Word) (w : Wave) : (writeV r l x w).loads = w.loads := rfl
@[simp] theorem writeV_stores (r l : Nat) (x : Word) (w : Wave) : (writeV r l x w).stores = w.stores := rfl
@[simp] theorem writeV_seq (r l : Nat) (x : Word) (w : Wave) : (writeV r l x w).seq = w.seq := rfl
@[simp] theorem writeV_fences (r l : Nat) (x : Word) (w : Wave) : (writeV r l x w).fences = w.fences := rfl
@[simp] theorem writeV_syncs (r l : Nat) (x : Word) (w : Wave) : (writeV r l x w).syncs = w.syncs := rfl
@[simp] theorem writeV_blockSyncs (r l : Nat) (x : Word) (w : Wave) : (writeV r l x w).blockSyncs = w.blockSyncs := rfl
@[simp] theorem writeV_readRels (r l : Nat) (x : Word) (w : Wave) : (writeV r l x w).readRels = w.readRels := rfl
@[simp] theorem writeV_encoderPending (r l : Nat) (x : Word) (w : Wave) : (writeV r l x w).encoderPending = w.encoderPending := rfl
@[simp] theorem writeV_dirty (r l : Nat) (x : Word) (w : Wave) : (writeV r l x w).dirty = w.dirty := rfl
@[simp] theorem writeV_engine (r l : Nat) (x : Word) (w : Wave) : (writeV r l x w).engine = w.engine := rfl
@[simp] theorem writeV_doneTiles (r l : Nat) (x : Word) (w : Wave) : (writeV r l x w).doneTiles = w.doneTiles := rfl
@[simp] theorem writeV_engineFault (r l : Nat) (x : Word) (w : Wave) : (writeV r l x w).engineFault = w.engineFault := rfl
@[simp] theorem writeV_engineFaults (r l : Nat) (x : Word) (w : Wave) : (writeV r l x w).engineFaults = w.engineFaults := rfl
@[simp] theorem writeV_engineHits (r l : Nat) (x : Word) (w : Wave) : (writeV r l x w).engineHits = w.engineHits := rfl
@[simp] theorem writeV_barArrivals (r l : Nat) (x : Word) (w : Wave) : (writeV r l x w).barArrivals = w.barArrivals := rfl
@[simp] theorem writeV_decode (r l : Nat) (x : Word) (w : Wave) : (writeV r l x w).decode = w.decode := rfl
@[simp] theorem writeV_yielded (r l : Nat) (x : Word) (w : Wave) : (writeV r l x w).yielded = w.yielded := rfl
@[simp] theorem writeV_moved (r l : Nat) (x : Word) (w : Wave) : (writeV r l x w).moved = w.moved := rfl
@[simp] theorem writeV_interval (r l : Nat) (x : Word) (w : Wave) : (writeV r l x w).interval = w.interval := rfl
@[simp] theorem writeV_intervalDue (r l : Nat) (x : Word) (w : Wave) : (writeV r l x w).intervalDue = w.intervalDue := rfl
@[simp] theorem writeV_sample (r l : Nat) (x : Word) (w : Wave) : (writeV r l x w).sample = w.sample := rfl

/-! ## emptyV -/

@[simp] theorem emptyV_uid (r l : Nat) (w : Wave) : (emptyV r l w).uid = w.uid := rfl
@[simp] theorem emptyV_team (r l : Nat) (w : Wave) : (emptyV r l w).team = w.team := rfl
@[simp] theorem emptyV_w (r l : Nat) (w : Wave) : (emptyV r l w).w = w.w := rfl
@[simp] theorem emptyV_ctl (r l : Nat) (w : Wave) : (emptyV r l w).ctl = w.ctl := rfl
@[simp] theorem emptyV_held (r l : Nat) (w : Wave) : (emptyV r l w).held = w.held := rfl
@[simp] theorem emptyV_stops (r l : Nat) (w : Wave) : (emptyV r l w).stops = w.stops := rfl
@[simp] theorem emptyV_faulted (r l : Nat) (w : Wave) : (emptyV r l w).faulted = w.faulted := rfl
@[simp] theorem emptyV_fetchWait (r l : Nat) (w : Wave) : (emptyV r l w).fetchWait = w.fetchWait := rfl
@[simp] theorem emptyV_pc (r l : Nat) (w : Wave) : (emptyV r l w).pc = w.pc := rfl
@[simp] theorem emptyV_s (r l : Nat) (w : Wave) : (emptyV r l w).s = w.s := rfl
@[simp] theorem emptyV_sEmpty (r l : Nat) (w : Wave) : (emptyV r l w).sEmpty = w.sEmpty := rfl
@[simp] theorem emptyV_q (r l : Nat) (w : Wave) : (emptyV r l w).q = w.q := rfl
@[simp] theorem emptyV_qEmpty (r l : Nat) (w : Wave) : (emptyV r l w).qEmpty = w.qEmpty := rfl
@[simp] theorem emptyV_v (r l : Nat) (w : Wave) : (emptyV r l w).v = w.v := rfl
@[simp] theorem emptyV_vEmpty (r l : Nat) (w : Wave) : (emptyV r l w).vEmpty = Cells.set false w.vEmpty (vKey r l) true := rfl
@[simp] theorem emptyV_c (r l : Nat) (w : Wave) : (emptyV r l w).c = w.c := rfl
@[simp] theorem emptyV_ix (r l : Nat) (w : Wave) : (emptyV r l w).ix = w.ix := rfl
@[simp] theorem emptyV_ad (r l : Nat) (w : Wave) : (emptyV r l w).ad = w.ad := rfl
@[simp] theorem emptyV_g (r l : Nat) (w : Wave) : (emptyV r l w).g = w.g := rfl
@[simp] theorem emptyV_gangUids (r l : Nat) (w : Wave) : (emptyV r l w).gangUids = w.gangUids := rfl
@[simp] theorem emptyV_gangCount (r l : Nat) (w : Wave) : (emptyV r l w).gangCount = w.gangCount := rfl
@[simp] theorem emptyV_satf (r l : Nat) (w : Wave) : (emptyV r l w).satf = w.satf := rfl
@[simp] theorem emptyV_satarm (r l : Nat) (w : Wave) : (emptyV r l w).satarm = w.satarm := rfl
@[simp] theorem emptyV_rmode (r l : Nat) (w : Wave) : (emptyV r l w).rmode = w.rmode := rfl
@[simp] theorem emptyV_asyncerr (r l : Nat) (w : Wave) : (emptyV r l w).asyncerr = w.asyncerr := rfl
@[simp] theorem emptyV_sigc (r l : Nat) (w : Wave) : (emptyV r l w).sigc = w.sigc := rfl
@[simp] theorem emptyV_laneGen (r l : Nat) (w : Wave) : (emptyV r l w).laneGen = w.laneGen := rfl
@[simp] theorem emptyV_engGen (r l : Nat) (w : Wave) : (emptyV r l w).engGen = w.engGen := rfl
@[simp] theorem emptyV_laneQueue (r l : Nat) (w : Wave) : (emptyV r l w).laneQueue = w.laneQueue := rfl
@[simp] theorem emptyV_blockRunning (r l : Nat) (w : Wave) : (emptyV r l w).blockRunning = w.blockRunning := rfl
@[simp] theorem emptyV_blockSeq (r l : Nat) (w : Wave) : (emptyV r l w).blockSeq = w.blockSeq := rfl
@[simp] theorem emptyV_qAwait (r l : Nat) (w : Wave) : (emptyV r l w).qAwait = w.qAwait := rfl
@[simp] theorem emptyV_returnQueue (r l : Nat) (w : Wave) : (emptyV r l w).returnQueue = w.returnQueue := rfl
@[simp] theorem emptyV_recvs (r l : Nat) (w : Wave) : (emptyV r l w).recvs = w.recvs := rfl
@[simp] theorem emptyV_paths (r l : Nat) (w : Wave) : (emptyV r l w).paths = w.paths := rfl
@[simp] theorem emptyV_conts (r l : Nat) (w : Wave) : (emptyV r l w).conts = w.conts := rfl
@[simp] theorem emptyV_pathPtr (r l : Nat) (w : Wave) : (emptyV r l w).pathPtr = w.pathPtr := rfl
@[simp] theorem emptyV_pair (r l : Nat) (w : Wave) : (emptyV r l w).pair = w.pair := rfl
@[simp] theorem emptyV_highWater (r l : Nat) (w : Wave) : (emptyV r l w).highWater = w.highWater := rfl
@[simp] theorem emptyV_shunted (r l : Nat) (w : Wave) : (emptyV r l w).shunted = w.shunted := rfl
@[simp] theorem emptyV_log (r l : Nat) (w : Wave) : (emptyV r l w).log = w.log := rfl
@[simp] theorem emptyV_loads (r l : Nat) (w : Wave) : (emptyV r l w).loads = w.loads := rfl
@[simp] theorem emptyV_stores (r l : Nat) (w : Wave) : (emptyV r l w).stores = w.stores := rfl
@[simp] theorem emptyV_seq (r l : Nat) (w : Wave) : (emptyV r l w).seq = w.seq := rfl
@[simp] theorem emptyV_fences (r l : Nat) (w : Wave) : (emptyV r l w).fences = w.fences := rfl
@[simp] theorem emptyV_syncs (r l : Nat) (w : Wave) : (emptyV r l w).syncs = w.syncs := rfl
@[simp] theorem emptyV_blockSyncs (r l : Nat) (w : Wave) : (emptyV r l w).blockSyncs = w.blockSyncs := rfl
@[simp] theorem emptyV_readRels (r l : Nat) (w : Wave) : (emptyV r l w).readRels = w.readRels := rfl
@[simp] theorem emptyV_encoderPending (r l : Nat) (w : Wave) : (emptyV r l w).encoderPending = w.encoderPending := rfl
@[simp] theorem emptyV_dirty (r l : Nat) (w : Wave) : (emptyV r l w).dirty = w.dirty := rfl
@[simp] theorem emptyV_engine (r l : Nat) (w : Wave) : (emptyV r l w).engine = w.engine := rfl
@[simp] theorem emptyV_doneTiles (r l : Nat) (w : Wave) : (emptyV r l w).doneTiles = w.doneTiles := rfl
@[simp] theorem emptyV_engineFault (r l : Nat) (w : Wave) : (emptyV r l w).engineFault = w.engineFault := rfl
@[simp] theorem emptyV_engineFaults (r l : Nat) (w : Wave) : (emptyV r l w).engineFaults = w.engineFaults := rfl
@[simp] theorem emptyV_engineHits (r l : Nat) (w : Wave) : (emptyV r l w).engineHits = w.engineHits := rfl
@[simp] theorem emptyV_barArrivals (r l : Nat) (w : Wave) : (emptyV r l w).barArrivals = w.barArrivals := rfl
@[simp] theorem emptyV_decode (r l : Nat) (w : Wave) : (emptyV r l w).decode = w.decode := rfl
@[simp] theorem emptyV_yielded (r l : Nat) (w : Wave) : (emptyV r l w).yielded = w.yielded := rfl
@[simp] theorem emptyV_moved (r l : Nat) (w : Wave) : (emptyV r l w).moved = w.moved := rfl
@[simp] theorem emptyV_interval (r l : Nat) (w : Wave) : (emptyV r l w).interval = w.interval := rfl
@[simp] theorem emptyV_intervalDue (r l : Nat) (w : Wave) : (emptyV r l w).intervalDue = w.intervalDue := rfl
@[simp] theorem emptyV_sample (r l : Nat) (w : Wave) : (emptyV r l w).sample = w.sample := rfl

/-! ## setLaneGen -/

@[simp] theorem setLaneGen_uid (l : Nat) (g : Word) (w : Wave) : (setLaneGen l g w).uid = w.uid := rfl
@[simp] theorem setLaneGen_team (l : Nat) (g : Word) (w : Wave) : (setLaneGen l g w).team = w.team := rfl
@[simp] theorem setLaneGen_w (l : Nat) (g : Word) (w : Wave) : (setLaneGen l g w).w = w.w := rfl
@[simp] theorem setLaneGen_ctl (l : Nat) (g : Word) (w : Wave) : (setLaneGen l g w).ctl = w.ctl := rfl
@[simp] theorem setLaneGen_held (l : Nat) (g : Word) (w : Wave) : (setLaneGen l g w).held = w.held := rfl
@[simp] theorem setLaneGen_stops (l : Nat) (g : Word) (w : Wave) : (setLaneGen l g w).stops = w.stops := rfl
@[simp] theorem setLaneGen_faulted (l : Nat) (g : Word) (w : Wave) : (setLaneGen l g w).faulted = w.faulted := rfl
@[simp] theorem setLaneGen_fetchWait (l : Nat) (g : Word) (w : Wave) : (setLaneGen l g w).fetchWait = w.fetchWait := rfl
@[simp] theorem setLaneGen_pc (l : Nat) (g : Word) (w : Wave) : (setLaneGen l g w).pc = w.pc := rfl
@[simp] theorem setLaneGen_s (l : Nat) (g : Word) (w : Wave) : (setLaneGen l g w).s = w.s := rfl
@[simp] theorem setLaneGen_sEmpty (l : Nat) (g : Word) (w : Wave) : (setLaneGen l g w).sEmpty = w.sEmpty := rfl
@[simp] theorem setLaneGen_q (l : Nat) (g : Word) (w : Wave) : (setLaneGen l g w).q = w.q := rfl
@[simp] theorem setLaneGen_qEmpty (l : Nat) (g : Word) (w : Wave) : (setLaneGen l g w).qEmpty = w.qEmpty := rfl
@[simp] theorem setLaneGen_v (l : Nat) (g : Word) (w : Wave) : (setLaneGen l g w).v = w.v := rfl
@[simp] theorem setLaneGen_vEmpty (l : Nat) (g : Word) (w : Wave) : (setLaneGen l g w).vEmpty = w.vEmpty := rfl
@[simp] theorem setLaneGen_c (l : Nat) (g : Word) (w : Wave) : (setLaneGen l g w).c = w.c := rfl
@[simp] theorem setLaneGen_ix (l : Nat) (g : Word) (w : Wave) : (setLaneGen l g w).ix = w.ix := rfl
@[simp] theorem setLaneGen_ad (l : Nat) (g : Word) (w : Wave) : (setLaneGen l g w).ad = w.ad := rfl
@[simp] theorem setLaneGen_g (l : Nat) (g : Word) (w : Wave) : (setLaneGen l g w).g = w.g := rfl
@[simp] theorem setLaneGen_gangUids (l : Nat) (g : Word) (w : Wave) : (setLaneGen l g w).gangUids = w.gangUids := rfl
@[simp] theorem setLaneGen_gangCount (l : Nat) (g : Word) (w : Wave) : (setLaneGen l g w).gangCount = w.gangCount := rfl
@[simp] theorem setLaneGen_satf (l : Nat) (g : Word) (w : Wave) : (setLaneGen l g w).satf = w.satf := rfl
@[simp] theorem setLaneGen_satarm (l : Nat) (g : Word) (w : Wave) : (setLaneGen l g w).satarm = w.satarm := rfl
@[simp] theorem setLaneGen_rmode (l : Nat) (g : Word) (w : Wave) : (setLaneGen l g w).rmode = w.rmode := rfl
@[simp] theorem setLaneGen_asyncerr (l : Nat) (g : Word) (w : Wave) : (setLaneGen l g w).asyncerr = w.asyncerr := rfl
@[simp] theorem setLaneGen_sigc (l : Nat) (g : Word) (w : Wave) : (setLaneGen l g w).sigc = w.sigc := rfl
@[simp] theorem setLaneGen_laneGen (l : Nat) (g : Word) (w : Wave) : (setLaneGen l g w).laneGen = Cells.set 0 w.laneGen l g := rfl
@[simp] theorem setLaneGen_engGen (l : Nat) (g : Word) (w : Wave) : (setLaneGen l g w).engGen = w.engGen := rfl
@[simp] theorem setLaneGen_laneQueue (l : Nat) (g : Word) (w : Wave) : (setLaneGen l g w).laneQueue = w.laneQueue := rfl
@[simp] theorem setLaneGen_blockRunning (l : Nat) (g : Word) (w : Wave) : (setLaneGen l g w).blockRunning = w.blockRunning := rfl
@[simp] theorem setLaneGen_blockSeq (l : Nat) (g : Word) (w : Wave) : (setLaneGen l g w).blockSeq = w.blockSeq := rfl
@[simp] theorem setLaneGen_qAwait (l : Nat) (g : Word) (w : Wave) : (setLaneGen l g w).qAwait = w.qAwait := rfl
@[simp] theorem setLaneGen_returnQueue (l : Nat) (g : Word) (w : Wave) : (setLaneGen l g w).returnQueue = w.returnQueue := rfl
@[simp] theorem setLaneGen_recvs (l : Nat) (g : Word) (w : Wave) : (setLaneGen l g w).recvs = w.recvs := rfl
@[simp] theorem setLaneGen_paths (l : Nat) (g : Word) (w : Wave) : (setLaneGen l g w).paths = w.paths := rfl
@[simp] theorem setLaneGen_conts (l : Nat) (g : Word) (w : Wave) : (setLaneGen l g w).conts = w.conts := rfl
@[simp] theorem setLaneGen_pathPtr (l : Nat) (g : Word) (w : Wave) : (setLaneGen l g w).pathPtr = w.pathPtr := rfl
@[simp] theorem setLaneGen_pair (l : Nat) (g : Word) (w : Wave) : (setLaneGen l g w).pair = w.pair := rfl
@[simp] theorem setLaneGen_highWater (l : Nat) (g : Word) (w : Wave) : (setLaneGen l g w).highWater = w.highWater := rfl
@[simp] theorem setLaneGen_shunted (l : Nat) (g : Word) (w : Wave) : (setLaneGen l g w).shunted = w.shunted := rfl
@[simp] theorem setLaneGen_log (l : Nat) (g : Word) (w : Wave) : (setLaneGen l g w).log = w.log := rfl
@[simp] theorem setLaneGen_loads (l : Nat) (g : Word) (w : Wave) : (setLaneGen l g w).loads = w.loads := rfl
@[simp] theorem setLaneGen_stores (l : Nat) (g : Word) (w : Wave) : (setLaneGen l g w).stores = w.stores := rfl
@[simp] theorem setLaneGen_seq (l : Nat) (g : Word) (w : Wave) : (setLaneGen l g w).seq = w.seq := rfl
@[simp] theorem setLaneGen_fences (l : Nat) (g : Word) (w : Wave) : (setLaneGen l g w).fences = w.fences := rfl
@[simp] theorem setLaneGen_syncs (l : Nat) (g : Word) (w : Wave) : (setLaneGen l g w).syncs = w.syncs := rfl
@[simp] theorem setLaneGen_blockSyncs (l : Nat) (g : Word) (w : Wave) : (setLaneGen l g w).blockSyncs = w.blockSyncs := rfl
@[simp] theorem setLaneGen_readRels (l : Nat) (g : Word) (w : Wave) : (setLaneGen l g w).readRels = w.readRels := rfl
@[simp] theorem setLaneGen_encoderPending (l : Nat) (g : Word) (w : Wave) : (setLaneGen l g w).encoderPending = w.encoderPending := rfl
@[simp] theorem setLaneGen_dirty (l : Nat) (g : Word) (w : Wave) : (setLaneGen l g w).dirty = w.dirty := rfl
@[simp] theorem setLaneGen_engine (l : Nat) (g : Word) (w : Wave) : (setLaneGen l g w).engine = w.engine := rfl
@[simp] theorem setLaneGen_doneTiles (l : Nat) (g : Word) (w : Wave) : (setLaneGen l g w).doneTiles = w.doneTiles := rfl
@[simp] theorem setLaneGen_engineFault (l : Nat) (g : Word) (w : Wave) : (setLaneGen l g w).engineFault = w.engineFault := rfl
@[simp] theorem setLaneGen_engineFaults (l : Nat) (g : Word) (w : Wave) : (setLaneGen l g w).engineFaults = w.engineFaults := rfl
@[simp] theorem setLaneGen_engineHits (l : Nat) (g : Word) (w : Wave) : (setLaneGen l g w).engineHits = w.engineHits := rfl
@[simp] theorem setLaneGen_barArrivals (l : Nat) (g : Word) (w : Wave) : (setLaneGen l g w).barArrivals = w.barArrivals := rfl
@[simp] theorem setLaneGen_decode (l : Nat) (g : Word) (w : Wave) : (setLaneGen l g w).decode = w.decode := rfl
@[simp] theorem setLaneGen_yielded (l : Nat) (g : Word) (w : Wave) : (setLaneGen l g w).yielded = w.yielded := rfl
@[simp] theorem setLaneGen_moved (l : Nat) (g : Word) (w : Wave) : (setLaneGen l g w).moved = w.moved := rfl
@[simp] theorem setLaneGen_interval (l : Nat) (g : Word) (w : Wave) : (setLaneGen l g w).interval = w.interval := rfl
@[simp] theorem setLaneGen_intervalDue (l : Nat) (g : Word) (w : Wave) : (setLaneGen l g w).intervalDue = w.intervalDue := rfl
@[simp] theorem setLaneGen_sample (l : Nat) (g : Word) (w : Wave) : (setLaneGen l g w).sample = w.sample := rfl

end Sys2Proof.Machine
end

