-- ==== Sys2Proof/Laws/Tables.lean ====
section
/-! SUPPORT. Laws of tables and of cells: what a read gives after a write, and that every update keeps the canonical form. -/

namespace Sys2Proof

/-! ## Reading after an update -/

@[simp] theorem Tbl.find?_nil {α : Type} (k : Nat) : Tbl.find? ([] : Tbl α) k = none := rfl

@[simp] theorem Tbl.find?_put_same {α : Type} (v : α) (k : Nat) : ∀ t : Tbl α, Tbl.find? (Tbl.put t k v) k = some v
  | [] => by simp [Tbl.put, Tbl.find?]
  | (j, w) :: r => by
    simp only [Tbl.put]
    split
    · simp [Tbl.find?]
    · split
      · simp [Tbl.find?]
      · rename_i h; simp only [Tbl.find?, if_neg h]; exact Tbl.find?_put_same v k r

@[simp] theorem Tbl.put_put {α : Type} (u v : α) (k : Nat) : ∀ t : Tbl α, Tbl.put (Tbl.put t k u) k v = Tbl.put t k v
  | [] => by simp [Tbl.put]
  | (m, x) :: r => by
    simp only [Tbl.put]
    split
    · simp [Tbl.put]
    · split
      · simp [Tbl.put]
      · rename_i h1 h2
        simp [Tbl.put, h1, h2, Tbl.put_put u v k r]

@[simp] theorem Tbl.modify_put {α : Type} (u : α) (f : α → α) (k : Nat) : ∀ t : Tbl α, Tbl.modify (Tbl.put t k u) k f = Tbl.put t k (f u)
  | [] => by simp [Tbl.put, Tbl.modify]
  | (m, x) :: r => by
    simp only [Tbl.put]
    split
    · simp [Tbl.modify]
    · split
      · simp [Tbl.modify]
      · rename_i h1 h2
        simp [Tbl.modify, h2, Tbl.modify_put u f k r]

theorem Tbl.find?_put_ne {α : Type} (v : α) {k m : Nat} (h : m ≠ k) : ∀ t : Tbl α, Tbl.find? (Tbl.put t k v) m = Tbl.find? t m
  | [] => by simp [Tbl.put, Tbl.find?, h]
  | (j, w) :: r => by
    simp only [Tbl.put]
    split
    · simp [Tbl.find?, h]
    · split
      · rename_i hk; subst hk; simp [Tbl.find?, h]
      · simp only [Tbl.find?]; split
        · rfl
        · exact Tbl.find?_put_ne v h r

@[simp] theorem Tbl.find?_del_same {α : Type} (k : Nat) : ∀ t : Tbl α, Tbl.find? (Tbl.del t k) k = none
  | [] => rfl
  | (j, w) :: r => by
    simp only [Tbl.del]
    split
    · exact Tbl.find?_del_same k r
    · rename_i h; simp only [Tbl.find?, if_neg h]; exact Tbl.find?_del_same k r

theorem Tbl.find?_del_ne {α : Type} {k m : Nat} (h : m ≠ k) : ∀ t : Tbl α, Tbl.find? (Tbl.del t k) m = Tbl.find? t m
  | [] => rfl
  | (j, w) :: r => by
    simp only [Tbl.del]
    split
    · rename_i hk; subst hk; simp only [Tbl.find?, if_neg h]; exact Tbl.find?_del_ne h r
    · simp only [Tbl.find?]; split
      · rfl
      · exact Tbl.find?_del_ne h r

@[simp] theorem Tbl.find?_modify_same {α : Type} (f : α → α) (k : Nat) :
    ∀ t : Tbl α, Tbl.find? (Tbl.modify t k f) k = (Tbl.find? t k).map f
  | [] => rfl
  | (j, w) :: r => by
    simp only [Tbl.modify]
    split
    · rename_i h; simp [Tbl.find?, h]
    · rename_i h; simp only [Tbl.find?, if_neg h]; exact Tbl.find?_modify_same f k r

theorem Tbl.find?_modify_ne {α : Type} (f : α → α) {k m : Nat} (h : m ≠ k) :
    ∀ t : Tbl α, Tbl.find? (Tbl.modify t k f) m = Tbl.find? t m
  | [] => rfl
  | (j, w) :: r => by
    simp only [Tbl.modify]
    split
    · rename_i hk; subst hk; simp [Tbl.find?, h]
    · simp only [Tbl.find?]; split
      · rfl
      · exact Tbl.find?_modify_ne f h r

@[simp] theorem Cells.get_set_same {α : Type} [DecidableEq α] (d v : α) (m : Cells α) (k : Nat) :
    Cells.get d (Cells.set d m k v) k = v := by
  simp only [Cells.get, Cells.set]
  split
  · rename_i h; simp [h]
  · simp

theorem Cells.get_set_ne {α : Type} [DecidableEq α] (d v : α) (m : Cells α) {k n : Nat} (h : n ≠ k) :
    Cells.get d (Cells.set d m k v) n = Cells.get d m n := by
  simp only [Cells.get, Cells.set]
  split
  · rw [Tbl.find?_del_ne h]
  · rw [Tbl.find?_put_ne _ h]

/-! ## The canonical form -/

theorem Tbl.above_mono {α : Type} {b c : Nat} (h : c ≤ b) : ∀ t : Tbl α, Tbl.above b t = true → Tbl.above c t = true
  | [], _ => rfl
  | (j, w) :: r, ht => by
    simp only [Tbl.above, Bool.and_eq_true, decide_eq_true_eq] at ht ⊢
    exact ⟨by omega, ht.2⟩

theorem Tbl.sorted_of_above {α : Type} {b : Nat} : ∀ t : Tbl α, Tbl.above b t = true → Tbl.sorted t = true
  | [], _ => rfl
  | (j, w) :: r, ht => by
    simp only [Tbl.above, Bool.and_eq_true] at ht
    exact ht.2

theorem Tbl.above_put {α : Type} {b k : Nat} (v : α) (hb : b < k) :
    ∀ t : Tbl α, Tbl.above b t = true → Tbl.above b (Tbl.put t k v) = true
  | [], _ => by simp [Tbl.put, Tbl.above, hb]
  | (j, w) :: r, ht => by
    simp only [Tbl.above, Bool.and_eq_true, decide_eq_true_eq] at ht
    simp only [Tbl.put]
    split
    · rename_i h; simp [Tbl.above, hb, h, ht.2]
    · split
      · rename_i h; subst h; simp [Tbl.above, hb, ht.2]
      · simp only [Tbl.above, Bool.and_eq_true, decide_eq_true_eq]
        exact ⟨ht.1, Tbl.above_put v (by omega) r ht.2⟩

theorem Tbl.sorted_put {α : Type} (k : Nat) (v : α) : ∀ t : Tbl α, Tbl.sorted t = true → Tbl.sorted (Tbl.put t k v) = true
  | [], _ => rfl
  | (j, w) :: r, ht => by
    simp only [Tbl.sorted] at ht
    simp only [Tbl.put]
    split
    · rename_i h; simp [Tbl.sorted, Tbl.above, h, ht]
    · split
      · rename_i h; subst h; simpa [Tbl.sorted] using ht
      · simp only [Tbl.sorted]; exact Tbl.above_put v (by omega) r ht

theorem Tbl.above_del {α : Type} (k : Nat) : ∀ (t : Tbl α) (b : Nat), Tbl.above b t = true → Tbl.above b (Tbl.del t k) = true
  | [], _, _ => rfl
  | (j, w) :: r, b, ht => by
    simp only [Tbl.above, Bool.and_eq_true, decide_eq_true_eq] at ht
    simp only [Tbl.del]
    split
    · exact Tbl.above_mono (by omega) _ (Tbl.above_del k r j ht.2)
    · simp only [Tbl.above, Bool.and_eq_true, decide_eq_true_eq]
      exact ⟨ht.1, Tbl.above_del k r j ht.2⟩

theorem Tbl.sorted_del {α : Type} (k : Nat) : ∀ t : Tbl α, Tbl.sorted t = true → Tbl.sorted (Tbl.del t k) = true
  | [], _ => rfl
  | (j, w) :: r, ht => by
    simp only [Tbl.sorted] at ht
    simp only [Tbl.del]
    split
    · exact Tbl.sorted_of_above _ (Tbl.above_del k r j ht)
    · exact Tbl.above_del k r j ht

theorem Tbl.all_put {α : Type} (p : Nat × α → Bool) (k : Nat) (v : α) (hv : p (k, v) = true) :
    ∀ t : Tbl α, t.all p = true → (Tbl.put t k v).all p = true
  | [], _ => by simp [Tbl.put, hv]
  | (j, w) :: r, ht => by
    simp only [List.all_cons, Bool.and_eq_true] at ht
    simp only [Tbl.put]
    split
    · simp [hv, ht.1, ht.2]
    · split
      · simp [hv, ht.2]
      · simp only [List.all_cons, Bool.and_eq_true]; exact ⟨ht.1, Tbl.all_put p k v hv r ht.2⟩

theorem Tbl.all_del {α : Type} (p : Nat × α → Bool) (k : Nat) : ∀ t : Tbl α, t.all p = true → (Tbl.del t k).all p = true
  | [], _ => rfl
  | (j, w) :: r, ht => by
    simp only [List.all_cons, Bool.and_eq_true] at ht
    simp only [Tbl.del]
    split
    · exact Tbl.all_del p k r ht.2
    · simp only [List.all_cons, Bool.and_eq_true]; exact ⟨ht.1, Tbl.all_del p k r ht.2⟩

/-- Every write of a cell keeps the canonical form. -/
theorem Cells.wf_set {α : Type} [DecidableEq α] (d : α) (m : Cells α) (k : Nat) (v : α) (h : Cells.wf d m = true) :
    Cells.wf d (Cells.set d m k v) = true := by
  simp only [Cells.wf, Bool.and_eq_true] at h ⊢
  simp only [Cells.set]
  split
  · exact ⟨Tbl.sorted_del k m h.1, Tbl.all_del _ k m h.2⟩
  · rename_i hv; exact ⟨Tbl.sorted_put k v m h.1, Tbl.all_put _ k v (by simpa using hv) m h.2⟩

namespace Machine

/-- Every write of bytes keeps the canonical form. -/
theorem cellsWrite_wf (d : Byte) : ∀ (bs : List Byte) (m : List Host.Cell) (a : Nat), Cells.wf d m = true →
    Cells.wf d (cellsWrite d m a bs) = true
  | [], _, _, h => h
  | b :: r, m, a, h => cellsWrite_wf d r _ _ (Cells.wf_set d m a b h)

/-- A byte outside the bytes written reads as before. -/
theorem get_cellsWrite_outside (d : Byte) : ∀ (bs : List Byte) (m : List Host.Cell) (a x : Nat), (x < a ∨ a + bs.length ≤ x) →
    Cells.get d (cellsWrite d m a bs) x = Cells.get d m x
  | [], _, _, _, _ => rfl
  | b :: r, m, a, x, h => by
    simp only [List.length_cons] at h
    rw [cellsWrite, get_cellsWrite_outside d r _ _ _ (by omega), Cells.get_set_ne _ _ _ (by omega)]

/-- A byte written reads as it was written. -/
theorem get_cellsWrite_inside (d : Byte) : ∀ (bs : List Byte) (m : List Host.Cell) (a i : Nat) (h : i < bs.length),
    Cells.get d (cellsWrite d m a bs) (a + i) = bs[i]
  | b :: r, m, a, 0, _ => by
    rw [cellsWrite, get_cellsWrite_outside d r _ _ _ (by omega)]; simp
  | b :: r, m, a, i + 1, h => by
    have := get_cellsWrite_inside d r (Cells.set d m a b) (a + 1) i (by simpa using h)
    simpa [cellsWrite, Nat.add_assoc, Nat.add_comm 1 i] using this

end Machine

end Sys2Proof
end

