-- ==== Sys2Proof/Laws/Running.lean ====
section
/-! SUPPORT. What the shared operations that run an instruction can do, said once: control stream, lane stream and signal box, and
the gates on their operands. -/

namespace Sys2Proof.Machine

/-! ## Bodies of instructions -/

@[simp] theorem res_ok_bind {α β : Type} (a : α) (g : α → Res β) : ((Except.ok a : Res α) >>= g) = g a := rfl

@[simp] theorem res_error_bind {α β : Type} (e : Stop) (g : α → Res β) : ((Except.error e : Res α) >>= g) = .error e := rfl

@[simp] theorem waitUnless_true : waitUnless true = .ok () := rfl

@[simp] theorem waitUnless_false : waitUnless false = .error .wait := rfl

@[simp] theorem ensure_true (c d : Nat) : ensure true c d = .ok () := rfl

@[simp] theorem ensure_false (c d : Nat) : ensure false c d = .error (.fault c d none none) := rfl

/-! ## The control stream -/

theorem runControl_next {s t : State} {wid : Nat} {w : Wave} {body : Nat → Wave → Res State} (h : AtControl s wid w)
    (hb : body wid w = .ok t) : runControl s body = .next t := by
  obtain ⟨h1, h2⟩ := h
  simp only [runControl, h1, h2, hb]

theorem runControl_wait {s : State} {wid : Nat} {w : Wave} {body : Nat → Wave → Res State} (h : AtControl s wid w)
    (hb : body wid w = .error .wait) : runControl s body = stall s := by
  obtain ⟨h1, h2⟩ := h
  simp only [runControl, h1, h2, hb]

theorem runControl_fault {s : State} {wid : Nat} {w : Wave} {body : Nat → Wave → Res State} {c d : Nat} {m u : Option Nat}
    (h : AtControl s wid w) (hb : body wid w = .error (.fault c d m u)) :
    runControl s body = .next (raiseFault s (.control wid) c d m u) := by
  obtain ⟨h1, h2⟩ := h
  simp only [runControl, h1, h2, hb]

/-- Everything a control-stream instruction can answer. -/
theorem runControl_cases {s t : State} {body : Nat → Wave → Res State} (h : runControl s body = .next t) :
    ∃ wid w, AtControl s wid w ∧
      (body wid w = .ok t ∨ (body wid w = .error .wait ∧ t = { s with stalled := true }) ∨
        (∃ p a, body wid w = .error (.request p a) ∧ requestLine s (jobOf s w) p a = .next t) ∨
        (∃ l, body wid w = .error (.evict l) ∧ evictLine s l = .next t) ∨
        ∃ c d m u, body wid w = .error (.fault c d m u) ∧ t = raiseFault s (.control wid) c d m u) := by
  unfold runControl at h
  split at h
  · rename_i wid ha
    split at h
    · rename_i w hw
      refine ⟨wid, w, ⟨ha, hw⟩, ?_⟩
      split at h <;> rename_i hb
      · exact .inl (by rw [hb]; cases h; rfl)
      · exact .inr (.inl ⟨hb, by cases h; rfl⟩)
      · exact .inr (.inr (.inl ⟨_, _, hb, h⟩))
      · exact .inr (.inr (.inr (.inl ⟨_, hb, h⟩)))
      · exact .inr (.inr (.inr (.inr ⟨_, _, _, _, hb, by cases h; rfl⟩)))
    · cases h
  · cases h

/-! ## Scalar operands (R51, R52) -/

theorem srcS_full {w : Wave} {n : Nat} {e : Bool} (h : sFull w n = true) : srcS w n e = .ok (sVal w n) := by
  simp only [srcS, h, if_true]

theorem dstS_full {w : Wave} {n : Nat} (h : sFull w n = true) : dstS w n = .ok () := by
  simp only [dstS, waitUnless, h, if_true]

theorem readyS_full {w : Wave} {srcs : List (Nat × Bool)} {dsts : List Nat} (h : ∀ p ∈ srcs, sFull w p.1 = true)
    (hd : ∀ n ∈ dsts, sFull w n = true) : readyS w srcs dsts = .ok () := by
  have h1 : srcs.all (fun p => p.2 || sFull w p.1) = true := by
    rw [List.all_eq_true]; intro p hp; simp [h p hp]
  have h2 : dsts.all (fun n => sFull w n) = true := by
    rw [List.all_eq_true]; intro n hn; exact hd n hn
  simp only [readyS, waitUnless, h1, h2, Bool.and_self, if_true]

theorem memReady_open {w : Wave} (h : MemoryOpen w) : memReady w = .ok () := by
  simp only [memReady, h, decide_true, waitUnless_true]

theorem memReadyNow_open {w : Wave} {a : Actor} (h : MemoryNow w a) : memReadyNow w a = .ok () := by
  simp only [memReadyNow, h.1, h.2, decide_true, Bool.and_self, waitUnless_true]

/-! ## Shapes of control-stream instructions (R97) -/

theorem alu3_ready {s : State} {wid : Nat} {w : Wave} (i : Instr) {f : C3} (g : Dword → Dword → Dword) (h : AtControl s wid w)
    (ha : sFull w f.a.toNat = true) (hb : sFull w f.b.toNat = true) (hd : sFull w f.d.toNat = true) :
    alu3 i f g s = .next (setWave s wid (finishControl i (writeS f.d.toNat (g (sVal w f.a.toNat) (sVal w f.b.toNat)) w))) := by
  apply runControl_next h
  rw [readyS_full (by simp [ha, hb]) (by simp [hd]), srcS_full ha, srcS_full hb]; rfl

theorem alu2_ready {s : State} {wid : Nat} {w : Wave} (i : Instr) {f : C3} (g : Dword → Dword) (h : AtControl s wid w)
    (ha : sFull w f.a.toNat = true) (hd : sFull w f.d.toNat = true) :
    alu2 i f g s = .next (setWave s wid (finishControl i (writeS f.d.toNat (g (sVal w f.a.toNat)) w))) := by
  apply runControl_next h
  rw [readyS_full (by simp [ha]) (by simp [hd]), srcS_full ha]; rfl

theorem aluI_ready {s : State} {wid : Nat} {w : Wave} (i : Instr) {f : CI} (g : Dword → BitVec 7 → Dword) (h : AtControl s wid w)
    (ha : sFull w f.a.toNat = true) (hd : sFull w f.d.toNat = true) :
    aluI i f g s = .next (setWave s wid (finishControl i (writeS f.d.toNat (g (sVal w f.a.toNat) f.imm) w))) := by
  apply runControl_next h
  rw [readyS_full (by simp [ha]) (by simp [hd]), srcS_full ha]; rfl

/-! ## The lane stream -/

theorem runLane_next {s t : State} {L : LaneCtx} {body : LaneCtx → Res State} (h : AtLane s L) (hb : body L = .ok t) :
    runLane s body = .next t := by
  unfold AtLane at h
  simp only [runLane, h, hb]

theorem runLane_wait {s : State} {L : LaneCtx} {body : LaneCtx → Res State} (h : AtLane s L) (hb : body L = .error .wait) :
    runLane s body = stall s := by
  unfold AtLane at h
  simp only [runLane, h, hb]

theorem runLane_fault {s : State} {L : LaneCtx} {body : LaneCtx → Res State} {c d : Nat} {m u : Option Nat} (h : AtLane s L)
    (hb : body L = .error (.fault c d m u)) : runLane s body = .next (raiseFault s L.actor c d m u) := by
  unfold AtLane at h
  simp only [runLane, h, hb]

/-- Everything a lane instruction can answer. -/
theorem runLane_cases {s t : State} {body : LaneCtx → Res State} (h : runLane s body = .next t) :
    ∃ L, AtLane s L ∧
      (body L = .ok t ∨ (body L = .error .wait ∧ t = { s with stalled := true }) ∨
        (∃ p a, body L = .error (.request p a) ∧ requestLine s (jobOf s L.w) p a = .next t) ∨
        (∃ l, body L = .error (.evict l) ∧ evictLine s l = .next t) ∨
        ∃ c d m u, body L = .error (.fault c d m u) ∧ t = raiseFault s L.actor c d m u) := by
  unfold runLane at h
  split at h
  · cases h
  · rename_i L hL
    refine ⟨L, hL, ?_⟩
    split at h <;> rename_i hb
    · exact .inl (by rw [hb]; cases h; rfl)
    · exact .inr (.inl ⟨hb, by cases h; rfl⟩)
    · exact .inr (.inr (.inl ⟨_, _, hb, h⟩))
    · exact .inr (.inr (.inr (.inl ⟨_, hb, h⟩)))
    · exact .inr (.inr (.inr (.inr ⟨_, _, _, _, hb, by cases h; rfl⟩)))

/-! ## Gates of a lane instruction (R51, R52, R56) -/

theorem emptyLanes_ready {L : LaneCtx} {lanes : List Nat} {o : Operand} (h : OperandReady L lanes o) :
    emptyLanes L.w o lanes = [] := by
  unfold emptyLanes
  rw [List.filter_eq_nil_iff]
  intro l hl
  cases o with
  | v n => simpa [regOf] using h.2 l hl
  | ix a x k => obtain ⟨r, hr, he⟩ := h l hl; simp [hr, he]
  | q n => simp [regOf]
  | imm b => simp [regOf]

theorem srcWaitOk_ready {L : LaneCtx} {lanes : List Nat} {x : Src} (h : OperandReady L lanes x.o) : srcWaitOk L lanes x = true := by
  have he := emptyLanes_ready h
  unfold srcWaitOk
  cases hx : x.o <;> rw [hx] at h he <;> simp_all [OperandReady]

theorem dstWaitOk_ready {L : LaneCtx} {lanes : List Nat} {o : Operand} (h : OperandReady L lanes o) : dstWaitOk L lanes o = true := by
  have he := emptyLanes_ready h
  unfold dstWaitOk
  cases o <;> simp_all [OperandReady]

theorem noBadIndex {L : LaneCtx} {lanes : List Nat} {o : Operand} (h : OperandReady L lanes o)
    (ho : (∃ n, o = .v n) ∨ ∃ a x k, o = .ix a x k) : lanes.filter (fun l => (regOf L.w o l).isNone) = [] := by
  rw [List.filter_eq_nil_iff]
  intro l hl
  obtain ⟨n, rfl⟩ | ⟨a, x, k, rfl⟩ := ho
  · simp [regOf]
  · obtain ⟨r, hr, -⟩ := h l hl; simp [hr]

theorem srcCheck_ready {L : LaneCtx} {lanes : List Nat} {x : Src} (h : OperandReady L lanes x.o) : srcCheck L lanes x = .ok () := by
  have he := emptyLanes_ready h
  unfold srcCheck
  cases hx : x.o with
  | q n => rw [hx] at h; simp only [OperandReady] at h; simp [h]
  | imm b => rfl
  | v n => rw [hx] at h he; simp only [noBadIndex h (.inl ⟨n, rfl⟩), he]; simp
  | ix a y k => rw [hx] at h he; simp only [noBadIndex h (.inr ⟨a, y, k, rfl⟩), he]; simp

theorem dstCheck_ready {L : LaneCtx} {lanes : List Nat} {o : Operand} (h : OperandReady L lanes o) : dstCheck L lanes o = .ok () := by
  unfold dstCheck
  cases o with
  | ix a y k => simp only [noBadIndex h (.inr ⟨a, y, k, rfl⟩)]; simp
  | _ => rfl

theorem allocCheck_ready {L : LaneCtx} {lanes : List Nat} :
    ∀ os : List Operand, (∀ o ∈ os, OperandReady L lanes o) → allocCheck L os = .ok ()
  | [], _ => rfl
  | .v n :: r, h => by
    have h1 : n.toNat < L.alloc := (h (.v n) (by simp)).1
    simp only [allocCheck, h1, if_true]
    exact allocCheck_ready r (fun o ho => h o (by simp [ho]))
  | .ix _ _ _ :: r, h => allocCheck_ready r (fun o ho => h o (by simp [ho]))
  | .q _ :: r, h => allocCheck_ready r (fun o ho => h o (by simp [ho]))
  | .imm _ :: r, h => allocCheck_ready r (fun o ho => h o (by simp [ho]))

theorem forM_ok {α : Type} (g : α → Res Unit) : ∀ xs : List α, (∀ x ∈ xs, g x = .ok ()) → xs.forM g = .ok ()
  | [], _ => rfl
  | x :: r, h => by
    have h1 := h x (by simp)
    have h2 := forM_ok g r (fun y hy => h y (by simp [hy]))
    show (g x >>= fun _ => r.forM g) = _
    rw [h1]
    exact h2

/-- The gates of an issue are open when every operand can be used in its lanes (R51, R52, R56). -/
theorem issueGates_ready {L : LaneCtx} {lanes : List Nat} {srcs : List Src} {dsts : List Operand}
    (hs : ∀ x ∈ srcs, OperandReady L lanes x.o) (hd : ∀ o ∈ dsts, OperandReady L lanes o) : issueGates L lanes srcs dsts = .ok () := by
  have h2 : srcs.all (srcWaitOk L lanes) = true := by
    rw [List.all_eq_true]; intro x hx; exact srcWaitOk_ready (hs x hx)
  have h3 : dsts.all (dstWaitOk L lanes) = true := by
    rw [List.all_eq_true]; intro x hx; exact dstWaitOk_ready (hd x hx)
  have h4 : srcs.forM (srcCheck L lanes) = .ok () := forM_ok _ _ (fun x hx => srcCheck_ready (hs x hx))
  have h5 : dsts.forM (dstCheck L lanes) = .ok () := forM_ok _ _ (fun x hx => dstCheck_ready (hd x hx))
  simp only [issueGates, h2, h3, h4, h5, waitUnless, Bool.and_self, if_true]
  rfl

/-- All gates of a lane instruction are open when every operand can be used. -/
theorem gates_ready {L : LaneCtx} {lanes : List Nat} {srcs : List Src} {dsts : List Operand}
    (hs : ∀ x ∈ srcs, OperandReady L lanes x.o) (hd : ∀ o ∈ dsts, OperandReady L lanes o) : gates L lanes srcs dsts = .ok () := by
  have h1 : allocCheck L (dsts ++ srcs.map (fun x => x.o)) = .ok () := by
    apply allocCheck_ready (lanes := lanes)
    intro o ho
    rw [List.mem_append, List.mem_map] at ho
    obtain ho | ⟨x, hx, rfl⟩ := ho
    · exact hd o ho
    · exact hs x hx
  simp only [gates, h1, issueGates_ready hs hd]
  rfl

/-! ## A wave written twice -/

@[simp] theorem setWave_setWave (s : State) (k : Nat) (u w : Wave) : setWave (setWave s k u) k w = setWave s k w := by
  simp only [setWave, Tbl.put_put]

@[simp] theorem modWave_setWave (s : State) (k : Nat) (u : Wave) (f : Wave → Wave) : modWave (setWave s k u) k f = setWave s k (f u) := by
  simp only [modWave, setWave, Tbl.modify_put]

end Sys2Proof.Machine
end

