-- ==== Sys2Proof/Laws/Engines.lean ====
section
/-! SUPPORT. What the shared operations of the table and engine instructions answer when their operands are ready: sources of a CE
instruction, images read from memory, tensors, and the issue of an engine operation. -/

namespace Sys2Proof.Machine

theorem ctxRes_ok {s : State} {w : Wave} {c : Nat} {x : Context} (h : InContext s w c x) : ctxRes s w = .ok (c, x) := by
  unfold InContext at h
  simp only [ctxRes, h, orStop]

/-- The value that a register field of a CE instruction supplies (R97). -/
def usedVal (w : Wave) (use : Bool) (n : BitVec 6) : Dword := if use then sVal w n.toNat else 0

theorem srcUsed_full {w : Wave} {use : Bool} {n : BitVec 6} {e : Bool} (h : use = true → sFull w n.toNat = true) :
    srcUsed w use n e = .ok (usedVal w use n) := by
  cases use
  · rfl
  · simp only [srcUsed, usedVal, if_true, srcS_full (h rfl)]

/-- Full sources and destinations are read at once (R51, R52). -/
theorem ceSources_full {w : Wave} {f : CE} {a b c : Bool} {ds : List Nat} (ha : a = true → sFull w f.a.toNat = true)
    (hb : b = true → sFull w f.b.toNat = true) (hc : c = true → sFull w f.c.toNat = true) (hd : ∀ n ∈ ds, sFull w n = true) :
    ceSources w f a b c ds = .ok (usedVal w a f.a, usedVal w b f.b, usedVal w c f.c) := by
  have hr : readyS w ((if a then [(f.a.toNat, f.ea)] else []) ++ (if b then [(f.b.toNat, f.eb)] else [])
      ++ (if c then [(f.c.toNat, f.ec)] else [])) ds = .ok () := by
    apply readyS_full _ hd
    intro p hp
    cases a <;> cases b <;> cases c <;> simp_all
    all_goals (try (obtain rfl | rfl := hp <;> assumption))
    all_goals (try (obtain rfl | rfl | rfl := hp <;> assumption))
  simp only [ceSources, hr, srcUsed_full ha, srcUsed_full hb, srcUsed_full hc, res_ok_bind]

/-- An image that can be read is read (R105, R206). -/
theorem readImage_ready {s : State} {wid : Nat} {w : Wave} {addr align n : Nat} {bs : List Byte} (h : ImageAt s wid w addr align n bs) :
    readImage s wid w addr align n = .ok (.bytes bs) := by
  obtain ⟨h1, ⟨p, h2⟩, c, x, h3, h4⟩ := h
  simp only [readImage, h2, res_ok_bind, h1, Bool.not_false, waitUnless_true, ctxRes_ok h3, h4]

theorem withImage_ready {s : State} {wid : Nat} {w : Wave} {addr align n : Nat} {bs : List Byte} {k : List Byte → Res Applied}
    (h : ImageAt s wid w addr align n bs) : withImage s wid w addr align n k = k bs := by
  simp only [withImage, readImage_ready h, res_ok_bind]

/-- An installed tensor is found (R206, R207). -/
theorem tensorFor_ready {s : State} {w : Wave} {tid extra : Nat} {t : Tensor} (h : TensorReady s w tid t) :
    tensorFor s w tid extra = .ok t := by
  obtain ⟨h1, h2, h3, h4⟩ := h
  simp only [tensorFor, h1, h2, h3, h4, Bool.not_false, waitUnless_true, res_ok_bind, Bool.and_self]

theorem tileIn_inside {t : Tensor} {tid tr tc : Nat} (h : TileInside t tr tc) : tileIn t tid tr tc = .ok () := by
  simp only [tileIn, h.1, h.2, decide_true, ensure_true, res_ok_bind]

/-- With no fault awaiting delivery an operation enters its queue (R203, R230). -/
theorem pushEngine_free {i : Instr} {s : State} {wid : Nat} {w : Wave} {op : EngineOp} (h : w.engineFault = none) :
    pushEngine i s wid w op = issued s wid w i op := by
  unfold pushEngine issued
  dsimp only
  split
  · rename_i x hx
    rw [h] at hx
    cases hx
  · rfl

/-- An engine operation that passes its checks enters its queue (R203). -/
theorem engineIssue_ready {i : Instr} {f : CE} {a b c matrix : Bool} {checks : Nat → Wave → Dword → Dword → Dword → Res EngineOp}
    {s : State} {wid : Nat} {w : Wave} {op : EngineOp} (h : AtControl s wid w) (he : EngineReady w matrix)
    (ha : a = true → sFull w f.a.toNat = true) (hb : b = true → sFull w f.b.toNat = true) (hc : c = true → sFull w f.c.toNat = true)
    (ho : checks wid w (usedVal w a f.a) (usedVal w b f.b) (usedVal w c f.c) = .ok op) :
    engineIssue i f a b c matrix checks s = .next (issued s wid w i op) := by
  obtain ⟨h1, h2, h3⟩ := he
  apply runControl_next h
  rw [h1, List.isEmpty_nil, waitUnless_true, res_ok_bind, ceSources_full ha hb hc (fun _ hn => by cases hn), res_ok_bind]
  show (checks wid w _ _ _ >>= _) = _
  rw [ho, res_ok_bind, h2, waitUnless_true, res_ok_bind, pushEngine_free h3]

/-! ## Execution at the head of the matrix queue -/

/-- What an execution of the matrix unit comes to when the head of the queue is taken up. -/
theorem runMatrix_ready {s : State} {wid : Nat} {w : Wave} {x : Context} {e : EngineItem} {want : EngineOp → Bool}
    {body : Wave → Context → EngineItem → Res State} (h : MatrixRuns s wid w x e) (hw : want e.op = true) :
    runMatrix s wid want body = settleItem s wid w e ((body w x e).map (servedAt wid)) := by
  obtain ⟨h1, h2, ⟨c, h3⟩, h4, h5, h6⟩ := h
  have h3' : ctxRec s w = some (c, x) := h3
  simp only [runMatrix, h1, h2, h3', h4, h5, h6, hw]
  rfl

theorem runMatrixWhole_done {s t : State} {wid : Nat} {w : Wave} {x : Context} {e : EngineItem} {want : EngineOp → Bool}
    {body : Wave → Context → EngineItem → Res State} (h : MatrixRuns s wid w x e) (hw : want e.op = true)
    (hb : body w x e = .ok t) : runMatrixWhole s wid want body = .next (matrixDone wid e t) := by
  rw [runMatrixWhole, runMatrix_ready h hw, hb]; rfl

theorem runMatrix_fault {s : State} {wid : Nat} {w : Wave} {x : Context} {e : EngineItem} {want : EngineOp → Bool}
    {body : Wave → Context → EngineItem → Res State} {c d : Nat} {m u : Option Nat} (h : MatrixRuns s wid w x e)
    (hw : want e.op = true) (hb : body w x e = .error (.fault c d m u)) :
    runMatrix s wid want body = .next (engineFail s wid e c d (u.getD (engineUnit wid e.op c))) := by
  rw [runMatrix_ready h hw, hb]; rfl

/-- Elements that settle change a team's accumulator and the free values alone. -/
theorem settleHot_rest (team : Nat) (s : State) : ∃ ts n, settleHot team s = { s with teams := ts, freeCtr := n } := by
  have each : ∀ (ks : Cells Bool) (t : State), ∃ ts n, ks.foldl (fun s k =>
      let r := freeWordOf s
      modTeam r.2 team (fun t => { t with acc := Cells.set 0 t.acc k.1 r.1, accHot := Cells.set false t.accHot k.1 false })) t
      = { t with teams := ts, freeCtr := n } := by
    intro ks
    induction ks with
    | nil => exact fun t => ⟨t.teams, t.freeCtr, rfl⟩
    | cons k ks ih => intro t; obtain ⟨ts, n, h⟩ := ih _; exact ⟨ts, n, h⟩
  unfold settleHot
  split
  · exact ⟨s.teams, s.freeCtr, rfl⟩
  · exact each _ s

/-- An operation that leaves its wave changes no byte of memory. -/
@[simp] theorem finishItem_mem (wid id : Nat) (t : State) : (finishItem wid id t).mem = t.mem := by
  unfold finishItem
  split
  · obtain ⟨ts, n, h⟩ := settleHot_rest (‹Wave›).team (setWave t wid (leaveQueue id ‹Wave›))
    rw [h]; rfl
  · rfl

@[simp] theorem matrixDone_mem (wid : Nat) (e : EngineItem) (t : State) : (matrixDone wid e t).mem = t.mem :=
  finishItem_mem wid e.id (modWave t wid (hazardFlag e))

end Sys2Proof.Machine
end

