-- ==== Sys2Proof/Laws/Memory.lean ====
section
/-! SUPPORT. What each operation on device memory does to the bytes and the tags: a write changes its own bytes alone, and every
operation keeps the canonical form. -/

namespace Sys2Proof.Machine

/-! ## Writes of device memory -/

@[simp] theorem retag_mem (s : State) (cls line : Nat) (whole poison : Bool) : (retag s cls line whole poison).mem = s.mem := rfl

@[simp] theorem setChecks_mem (s : State) (line : Nat) (t : BitVec 4) (d : Nat → Half) : (setChecks s line t d).mem = s.mem := rfl

/-! ### The L2 slices hold no bytes of their own -/

@[simp] theorem setL2_mem (s : State) (c line : Nat) (r : L2Line) : (setL2 s c line r).mem = s.mem := rfl

@[simp] theorem dropOthers_mem (s : State) (c line : Nat) (t : BitVec 4) : (dropOthers s c line t).mem = s.mem := rfl

@[simp] theorem dropL2_mem (s : State) (c line : Nat) : (dropL2 s c line).mem = s.mem := by unfold dropL2; dsimp only; split <;> rfl

/-- Eviction changes no byte of memory. -/
@[simp] theorem evictL2_mem (s : State) (c line : Nat) (r : L2Line) : (evictL2 s c line r).mem = s.mem := by
  unfold evictL2; dsimp only; split <;> simp

@[simp] theorem makeRoom_mem (s : State) (c line : Nat) : (makeRoom s c line).mem = s.mem := by
  unfold makeRoom; dsimp only; repeat' split
  all_goals simp

@[simp] theorem loadL2_mem (s : State) (c line hint cls : Nat) (m : BitVec 4) : (loadL2 s c line hint cls m).mem = s.mem := by
  unfold loadL2; split <;> simp

theorem OnlyCaches.trans {s t u : State} (h : OnlyCaches s t) (g : OnlyCaches t u) : OnlyCaches s u :=
  ⟨g.1.trans h.1, g.2.1.trans h.2.1, g.2.2.1.trans h.2.2.1, g.2.2.2.1.trans h.2.2.2.1, g.2.2.2.2.trans h.2.2.2.2⟩

theorem evictL2_rest (s : State) (c line : Nat) (r : L2Line) : OnlyCaches s (evictL2 s c line r) := by
  have hd : OnlyCaches s (dropL2 s c line) := by unfold dropL2; dsimp only; split <;> exact ⟨rfl, rfl, rfl, rfl, rfl⟩
  unfold evictL2; dsimp only; split <;> exact hd

theorem makeRoom_rest (s : State) (c line : Nat) : OnlyCaches s (makeRoom s c line) := by
  unfold makeRoom; dsimp only; repeat' split
  · exact ⟨rfl, rfl, rfl, rfl, rfl⟩
  · exact evictL2_rest { s with freeCtr := s.freeCtr + 1 } c _ _
  · exact ⟨rfl, rfl, rfl, rfl, rfl⟩

/-- A load through a slice moves lines only. -/
theorem loadL2_rest (s : State) (c line hint cls : Nat) (m : BitVec 4) : OnlyCaches s (loadL2 s c line hint cls m) := by
  unfold loadL2; split
  · exact makeRoom_rest s c line
  · exact ⟨rfl, rfl, rfl, rfl, rfl⟩

/-- A prefetch moves lines into the caches and changes nothing else (R105, R162). -/
theorem prefetchAt_rest (s : State) (wid : Nat) (w : Wave) (hint addr : Nat) : OnlyCaches s (prefetchAt s wid w hint addr) := by
  have line : ∀ h p, OnlyCaches s (prefetchLine s wid h p) := by
    intro h p
    cases p with
    | glob a cls => exact loadL2_rest s (clusterOf wid) (a / 128) h cls 15
    | spad | stack | remote => exact ⟨rfl, rfl, rfl, rfl, rfl⟩
  unfold prefetchAt
  dsimp only
  repeat' split
  · exact ⟨rfl, rfl, rfl, rfl, rfl⟩
  · exact line _ _
  all_goals exact ⟨rfl, rfl, rfl, rfl, rfl⟩

/-- Slices take a line without a change of memory, tags or check values. -/
theorem setL2_foldl (line : Nat) (f : Nat × L2Line → L2Line) : ∀ (hs : List (Nat × L2Line)) (s : State),
    (hs.foldl (fun t h => setL2 t h.1 line (f h)) s).mem = s.mem ∧ (hs.foldl (fun t h => setL2 t h.1 line (f h)) s).tags = s.tags
      ∧ (hs.foldl (fun t h => setL2 t h.1 line (f h)) s).checks = s.checks
  | [], _ => ⟨rfl, rfl, rfl⟩
  | h :: hs, s => setL2_foldl line f hs (setL2 s h.1 line (f h))

@[simp] theorem settleLine_mem (s : State) (cls line lo hi : Nat) (poison : Bool) : (settleLine s cls line lo hi poison).mem = s.mem := by
  unfold settleLine
  split
  · exact (setL2_foldl line _ _ _).1
  · split <;> rfl

@[simp] theorem settleLines_mem (cls pa n : Nat) (poison : Bool) : ∀ (k line : Nat) (s : State),
    (settleLines s cls pa n poison k line).mem = s.mem
  | 0, _, _ => rfl
  | k + 1, line, s => by rw [settleLines, settleLines_mem cls pa n poison k, settleLine_mem]

@[simp] theorem storeLine_mem (s : State) (c line hint cls lo hi : Nat) (req : Option (Nat × Nat)) :
    (storeLine s c line hint cls lo hi req).mem = s.mem := by
  unfold storeLine
  split
  · simp
  · exact settleLine_mem ..

@[simp] theorem endReleases_mem (s : State) (pa n : Nat) : (endReleases s pa n).mem = s.mem := by unfold endReleases; split <;> rfl

/-- A store through a slice: memory takes its bytes. -/
theorem writeL2_mem (s : State) (c hint cls pa : Nat) (bs : List Byte) (req : Option (Nat × Nat)) :
    (writeL2 s c hint cls pa bs req).mem = cellsWrite memDefault s.mem pa bs := storeLine_mem ..

theorem writePhysCls_mem (s : State) (cls pa : Nat) (bs : List Byte) (poison : Bool) :
    (writePhysCls s cls pa bs poison).mem = cellsWrite memDefault s.mem pa bs := by
  unfold writePhysCls
  dsimp only
  split
  · next h => rw [List.eq_nil_of_length_eq_zero h]; rfl
  · rw [settleLines_mem]

/-- A write of device memory leaves every byte outside it as it was. -/
theorem byteAt_writePhysCls_outside {s : State} {cls pa : Nat} {bs : List Byte} {poison : Bool} {a : Nat}
    (h : a < pa ∨ pa + bs.length ≤ a) : byteAt (writePhysCls s cls pa bs poison) a = byteAt s a := by
  rw [byteAt, writePhysCls_mem, get_cellsWrite_outside _ _ _ _ _ h, byteAt]

/-- A byte that a write covers reads as it was written. -/
theorem byteAt_writePhysCls_inside {s : State} {cls pa : Nat} {bs : List Byte} {poison : Bool} {i : Nat} (h : i < bs.length) :
    byteAt (writePhysCls s cls pa bs poison) (pa + i) = bs[i] := by
  rw [byteAt, writePhysCls_mem, get_cellsWrite_inside _ _ _ _ _ h]

/-! ## The canonical form -/

theorem memOk_of_same {s t : State} (h : s.memOk) (hm : t.mem = s.mem) (ht : t.tags = s.tags) (hc : t.checks = s.checks) : t.memOk := by
  unfold State.memOk; rw [hm, ht, hc]; exact h

theorem retag_memOk {s : State} {cls line : Nat} {whole poison : Bool} (h : s.memOk) : (retag s cls line whole poison).memOk :=
  ⟨h.1, Cells.wf_set 0 s.tags line _ h.2.1, h.2.2⟩

theorem setChecks_memOk {s : State} {line : Nat} {t : BitVec 4} {d : Nat → Half} (h : s.memOk) : (setChecks s line t d).memOk := by
  refine ⟨h.1, h.2.1, ?_⟩
  show Cells.wf 0 ((List.range 4).foldl (fun m i => if t.getLsbD i then Cells.set 0 m (4 * line + i) (d i) else m) s.checks) = true
  have : ∀ (l : List Nat) (m : Cells Half), Cells.wf 0 m = true →
      Cells.wf 0 (l.foldl (fun m i => if t.getLsbD i then Cells.set 0 m (4 * line + i) (d i) else m) m) = true := by
    intro l
    induction l with
    | nil => exact fun _ h => h
    | cons i l ih => 
      intro m hm
      apply ih
      dsimp only
      split
      · exact Cells.wf_set 0 m _ _ hm
      · exact hm
  exact this _ _ h.2.2

theorem dropL2_memOk {s : State} {c line : Nat} (h : s.memOk) : (dropL2 s c line).memOk := by
  unfold dropL2; dsimp only; split <;> exact h

theorem evictL2_memOk {s : State} {c line : Nat} {r : L2Line} (h : s.memOk) : (evictL2 s c line r).memOk := by
  unfold evictL2; dsimp only; split
  · exact dropL2_memOk h
  · exact retag_memOk (setChecks_memOk (dropL2_memOk h))

theorem makeRoom_memOk {s : State} {c line : Nat} (h : s.memOk) : (makeRoom s c line).memOk := by
  unfold makeRoom; dsimp only; repeat' split
  · exact h
  · exact evictL2_memOk (s := { s with freeCtr := s.freeCtr + 1 }) h
  · exact h

theorem loadL2_memOk {s : State} {c line hint cls : Nat} {m : BitVec 4} (h : s.memOk) : (loadL2 s c line hint cls m).memOk := by
  unfold loadL2; split
  · exact makeRoom_memOk h
  · exact h

theorem settleLine_memOk {s : State} {cls line lo hi : Nat} {poison : Bool} (h : s.memOk) : (settleLine s cls line lo hi poison).memOk := by
  unfold settleLine
  split
  · dsimp only
    exact memOk_of_same (retag_memOk (cls := cls) (line := line) (whole := true) (poison := poison) (setChecks_memOk h))
      (setL2_foldl line _ _ _).1 (setL2_foldl line _ _ _).2.1 (setL2_foldl line _ _ _).2.2
  · split
    · exact h
    · exact retag_memOk (setChecks_memOk h)

theorem settleLines_memOk {cls pa n : Nat} {poison : Bool} : ∀ {k line : Nat} {s : State}, s.memOk →
    (settleLines s cls pa n poison k line).memOk
  | 0, _, _, h => h
  | k + 1, line, s, h => by
    rw [settleLines]
    exact settleLines_memOk (k := k) (settleLine_memOk (s := s) h)

theorem storeLine_memOk {s : State} {c line hint cls lo hi : Nat} {req : Option (Nat × Nat)} (h : s.memOk) :
    (storeLine s c line hint cls lo hi req).memOk := by
  unfold storeLine
  split
  · exact makeRoom_memOk h
  · exact settleLine_memOk h

theorem endReleases_memOk {s : State} {pa n : Nat} (h : s.memOk) : (endReleases s pa n).memOk := by unfold endReleases; split <;> exact h

/-- Bytes enter memory: its form is kept. -/
theorem bytes_memOk {s t : State} {pa : Nat} {bs : List Byte} (h : s.memOk) (ht : t.memOk) :
    ({ t with mem := cellsWrite memDefault s.mem pa bs } : State).memOk := ⟨cellsWrite_wf memDefault bs s.mem pa h.1, ht.2⟩

theorem writeL2_memOk {s : State} {c hint cls pa : Nat} {bs : List Byte} {req : Option (Nat × Nat)} (h : s.memOk) :
    (writeL2 s c hint cls pa bs req).memOk := storeLine_memOk (bytes_memOk h (endReleases_memOk h))

theorem evictTurn_memOk {s t : State} {c line : Nat} (h : s.memOk) (ht : evictTurn s c line = some t) : t.memOk := by
  unfold evictTurn at ht
  repeat' split at ht
  · cases ht; exact evictL2_memOk h
  · cases ht
  · cases ht

theorem writeBackRange_memOk {s : State} {lo hi : Nat} (h : s.memOk) : (writeBackRange s lo hi).memOk := by
  have lines : ∀ (c : Nat) (rs : List (Nat × L2Line)) (t : State), t.memOk → (rs.foldl (fun t r => evictL2 t c r.1 r.2) t).memOk := by
    intro c rs
    induction rs with
    | nil => exact fun _ h => h
    | cons r rs ih => exact fun t ht => ih _ (evictL2_memOk ht)
  unfold writeBackRange
  generalize hk : s.clusters = ks
  clear hk
  induction ks generalizing s with
  | nil => exact h
  | cons k ks ih => exact ih (lines _ _ _ h)

theorem writePhysCls_memOk {s : State} {cls pa : Nat} {bs : List Byte} {poison : Bool} (h : s.memOk) :
    (writePhysCls s cls pa bs poison).memOk := by
  unfold writePhysCls
  dsimp only
  split
  · exact h
  · exact settleLines_memOk (bytes_memOk h (endReleases_memOk h))

theorem writePhys_memOk {s : State} {pa : Nat} {bs : List Byte} (h : s.memOk) : (writePhys s pa bs).memOk := writePhysCls_memOk h

theorem writePlace_memOk {s : State} {p : Place} {bs : List Byte} {poison : Bool} (h : s.memOk) : (writePlace s p bs poison).memOk := by
  unfold writePlace
  split
  · exact writePhysCls_memOk h
  · exact h
  · split <;> exact h
  · exact h

theorem coreL1Write_memOk {s : State} {core : Nat} {p : Place} {bs : List Byte} (h : s.memOk) : (coreL1Write s core p bs).memOk := by
  unfold coreL1Write
  split
  · dsimp only; split <;> exact h
  · exact h

theorem dropShared_memOk {s : State} {wid scope : Nat} {p : Place} (h : s.memOk) : (dropShared s wid scope p).memOk := by
  unfold dropShared; split <;> exact h

theorem acquireAt_memOk {s : State} {wid scope : Nat} (h : s.memOk) : (acquireAt s wid scope).memOk := by
  unfold acquireAt dropL1; repeat' split
  all_goals exact h

theorem atomicAt_memOk {s : State} {wid : Nat} {p : Place} {op : AtomicOp} {n opnd cmp hint : Nat} (h : s.memOk) :
    (atomicAt s wid p op n opnd cmp hint).2.memOk := by
  have h' : (modWave s wid (setFlags (atomicNew op (8 * n) (natOfBytes (readBase s p n)) opnd cmp).2)).memOk := h
  unfold atomicAt; dsimp only; split <;> split
  · exact loadL2_memOk h'
  · exact coreL1Write_memOk (writeL2_memOk h')
  · exact h'
  · exact writePlace_memOk h'

/-! ## What leaves device memory alone -/

@[simp] theorem coreL1Write_mem (s : State) (core : Nat) (p : Place) (bs : List Byte) : (coreL1Write s core p bs).mem = s.mem := by
  unfold coreL1Write
  split
  · dsimp only; split <;> rfl
  · rfl

@[simp] theorem dropShared_mem (s : State) (wid scope : Nat) (p : Place) : (dropShared s wid scope p).mem = s.mem := by
  unfold dropShared; split <;> rfl

@[simp] theorem acquireAt_mem (s : State) (wid scope : Nat) : (acquireAt s wid scope).mem = s.mem := by
  unfold acquireAt dropL1; repeat' split
  all_goals rfl

@[simp] theorem sendPacket_mem (s : State) (d : Draft) (p : SentFor) : (sendPacket s d p).mem = s.mem := rfl

@[simp] theorem beginReleases_mem (s : State) (p : Place) (rs : List (Nat × Nat)) : (beginReleases s p rs).mem = s.mem := by
  unfold beginReleases; repeat' split
  all_goals rfl

theorem beginReleases_memOk {s : State} {p : Place} {rs : List (Nat × Nat)} (h : s.memOk) : (beginReleases s p rs).memOk := by
  unfold beginReleases; repeat' split
  all_goals exact h

/-- Taking a place in coherence order changes the waves and the number of the next place alone. -/
theorem enterOrder_rest (s : State) (wid : Nat) (b : BufStore) :
    ∃ ws n, enterOrder s wid b = { s with waves := ws, nextTicket := n } := by
  have hz : ∀ t : State, ∃ ws, hazardOthers t wid b = { t with waves := ws } := by
    intro t
    unfold hazardOthers
    split
    · exact ⟨t.waves, rfl⟩
    · exact ⟨t.waves, rfl⟩
    · dsimp only; split
      · exact ⟨t.waves, rfl⟩
      · exact ⟨_, rfl⟩
  unfold enterOrder
  split
  · obtain ⟨ws, h⟩ := hz { s with nextTicket := s.nextTicket + 1 }
    exact ⟨ws, _, h⟩
  · obtain ⟨ws, h⟩ := hz s
    exact ⟨ws, s.nextTicket, h⟩

/-- A buffered store of plain bytes to device memory: its bytes are there once it is performed at DEVICE scope or wider, and
before that memory is as it was (R290, R315). -/
theorem performStore_mem {s : State} {wid scope : Nat} {b : BufStore} {a c : Nat} (hr : b.rmw = none) (hp : b.place = .glob a c) :
    (performStore s wid b scope).mem = if 4 ≤ scope ∧ b.perf < 4 then cellsWrite memDefault s.mem a b.bytes else s.mem := by
  obtain ⟨ws, n, h⟩ := enterOrder_rest s wid b
  unfold performStore
  simp only [hr, hp, h]
  show (if 4 ≤ scope ∧ b.perf < 4 then _ else _ : State).mem = _
  split
  · rw [beginReleases_mem, dropShared_mem, coreL1Write_mem, writeL2_mem]
  · rfl

theorem performStore_memOk {s : State} {wid scope : Nat} {b : BufStore} (h : s.memOk) : (performStore s wid b scope).memOk := by
  obtain ⟨ws, n, he⟩ := enterOrder_rest s wid b
  have h' : (enterOrder s wid b).memOk := by rw [he]; exact h
  unfold performStore
  dsimp only
  split
  · refine beginReleases_memOk ?_
    split
    · exact acquireAt_memOk (atomicAt_memOk h')
    · exact atomicAt_memOk h'
  · split
    · show (if 4 ≤ scope ∧ b.perf < 4 then _ else _ : State).memOk
      split
      · exact beginReleases_memOk (dropShared_memOk (coreL1Write_memOk (writeL2_memOk h')))
      · exact h'
    · exact writePlace_memOk (s := enterOrder s wid b) h'

/-! ## Check values (R454, R455, R457) -/

theorem crcBit_xor (v w : Half) (a b : Bool) : crcBit (v ^^^ w) (a ^^ b) = crcBit v a ^^^ crcBit w b := by
  have left : ∀ x y z : Half, x ^^^ (y ^^^ z) = y ^^^ (x ^^^ z) := by intro x y z; rw [← BitVec.xor_assoc, BitVec.xor_comm x, BitVec.xor_assoc]
  unfold crcBit
  rw [BitVec.getLsbD_xor, BitVec.shiftLeft_xor_distrib]
  cases v.getLsbD 15 <;> cases w.getLsbD 15 <;> cases a <;> cases b <;>
    simp [BitVec.xor_assoc, BitVec.xor_comm, left]

theorem crcByte_xor (v w : Half) (a b : Byte) : crcByte (v ^^^ w) (a ^^^ b) = crcByte v a ^^^ crcByte w b := by
  have h : ∀ (l : List Nat) (v w : Half), l.foldl (fun v i => crcBit v ((a ^^^ b).getLsbD i)) (v ^^^ w)
      = l.foldl (fun v i => crcBit v (a.getLsbD i)) v ^^^ l.foldl (fun v i => crcBit v (b.getLsbD i)) w := by
    intro l
    induction l with
    | nil => exact fun _ _ => rfl
    | cons i l ih => intro v w; rw [List.foldl_cons, List.foldl_cons, List.foldl_cons, BitVec.getLsbD_xor, crcBit_xor, ih]
  exact h _ v w

/-- The check value is linear. -/
theorem checkValue_xor : ∀ (xs ys : List Byte), xs.length = ys.length →
    checkValue (List.zipWith (fun a b => a ^^^ b) xs ys) = checkValue xs ^^^ checkValue ys := by
  have h : ∀ (xs ys : List Byte) (v w : Half), xs.length = ys.length →
      (List.zipWith (fun a b => a ^^^ b) xs ys).foldl crcByte (v ^^^ w) = xs.foldl crcByte v ^^^ ys.foldl crcByte w := by
    intro xs
    induction xs with
    | nil => intro ys v w h; cases ys with | nil => rfl | cons y ys => cases h
    | cons x xs ih =>
      intro ys v w h
      cases ys with
      | nil => cases h
      | cons y ys =>
        rw [List.zipWith_cons_cons, List.foldl_cons, List.foldl_cons, List.foldl_cons, crcByte_xor]
        exact ih ys _ _ (Nat.succ.inj h)
  intro xs ys hl
  exact h xs ys 0 0 hl

/-- A partial write merges the value held with the difference of the bytes: the sector differs afterwards exactly as it did before. -/
theorem mergedCheck_diff {held : Half} {old new : List Byte} (h : old.length = new.length) :
    mergedCheck held old new ^^^ checkValue new = held ^^^ checkValue old := by
  rw [mergedCheck, checkValue_xor _ _ h, BitVec.xor_assoc, BitVec.xor_assoc, BitVec.xor_self, BitVec.xor_zero]

/-- A consumer finds a sector poisoned exactly where the value held beside it is not that of its bytes, or it is marked. -/
theorem sectorFails_iff (s : State) (q : Nat) :
    sectorFails s q = (sectorPoisoned s q || decide (heldCheck s q ≠ checkValue (readPhys s (32 * q) 32))) := by
  have h : ∀ a d : Half, (a ^^^ d ≠ a) ↔ d ≠ 0 := by
    intro a d
    rw [not_iff_not]
    constructor
    · intro h; have := congrArg (fun x => a ^^^ x) h; simpa [← BitVec.xor_assoc] using this
    · rintro rfl; simp
  unfold sectorFails sectorPoisoned heldCheck sectorDiff
  cases sectorHolder s q <;> simp [h]
/-! ## Fault records -/

theorem putFault_memOk {s : State} {c : Nat} {x : Context} {r : FaultRecord} (h : s.memOk) : (putFault s c x r).memOk := by
  have h1 : (writePhys s (x.faultq + 64 * (x.faultProd % 2 ^ x.faultqLog2)) (bytesOfNat 64 (faultNat r))).memOk := writePhys_memOk h
  have count : ∀ {t : State} {e u d n : Nat}, t.memOk → (countEvent t e u d n).memOk := by
    intro t e u d n ht; unfold countEvent; split <;> exact ht
  have fence : ∀ {t : State} {u d f : Nat}, t.memOk → (fenceUnit t u d f).memOk := by
    intro t u d f ht
    have he : (fenceEffect t u f).memOk := by
      unfold fenceEffect; dsimp only; repeat' split
      all_goals exact ht
    exact memOk_of_same he rfl rfl rfl
  have blame : ∀ {t : State} {u d : Nat}, t.memOk → (blameUnit t u d).memOk := by
    intro t u d ht; unfold blameUnit; dsimp only
    split <;> split
    · exact fence (t := modHub t _) ht
    · exact ht
    · exact fence (t := modHub t _) ht
    · exact ht
  have effect : ∀ {t : State}, t.memOk → (recordTakesEffect t r).memOk := by
    intro t ht; unfold recordTakesEffect; repeat' split
    all_goals exact ht
  unfold putFault
  dsimp only
  apply effect
  split
  · exact blame (count h1)
  · exact count h1

theorem writeFault_memOk {s : State} {c : Nat} {r : FaultRecord} (h : s.memOk) : (writeFault s c r).memOk := by
  unfold writeFault
  repeat' split
  · exact h
  · exact putFault_memOk h
  · exact h

theorem takeFault_memOk {s : State} {a : Actor} {st : Standing} {unit code detail : Nat} {mask : Option Nat} {deferred : Bool}
    (h : s.memOk) : (takeFault s a st unit code detail mask deferred).memOk := by
  have hold : ∀ {t : State}, t.memOk → (holdActor t a).memOk := by intro t ht; unfold holdActor modHeld; split <;> exact ht
  have mark : ∀ {t : State}, t.memOk → (markFaulted t a).memOk := by intro t ht; unfold markFaulted; split <;> exact ht
  unfold takeFault
  dsimp only
  repeat' split
  · exact h
  · exact h
  · exact writeFault_memOk h
  · exact hold (writeFault_memOk h)
  · exact mark (writeFault_memOk h)

theorem raiseFault_memOk {s : State} {a : Actor} {code detail : Nat} {mask unit : Option Nat} (h : s.memOk) :
    (raiseFault s a code detail mask unit).memOk := takeFault_memOk h

end Sys2Proof.Machine
end

