-- ==== Sys2Proof/Laws/Packets.lean ====
section
/-! SUPPORT. What a packet that arrives comes to, before its kind has its effect: dropped, passed on, or acted on here; and what
the home makes of its job and address. -/

namespace Sys2Proof.Machine

theorem arrive_here {s : State} {p : Packet} {kind : Nat} {act : State → Out} (h : packetOk p = true) (hk : p.kind = kind)
    (hd : p.dest = s.pkg) : arrive s p kind act = act s := by
  simp [arrive, h, hk, hd]

theorem arrive_bad {s : State} {p : Packet} {kind : Nat} {act : State → Out} (h : packetOk p = false) :
    arrive s p kind act = .next (countDropped s p.plane) := by
  simp [arrive, h]

theorem arrive_passes {s : State} {p : Packet} {kind : Nat} {act : State → Out} (h : packetOk p = true) (hk : p.kind = kind)
    (hd : p.dest ≠ s.pkg) : arrive s p kind act = .next (passOn s p) := by
  simp [arrive, h, hk, hd]

theorem withHome_noContext {s : State} {p : Packet} {want : Want} {k : Nat → Nat → Out} (h : ctxWithJob s p.job = none) :
    withHome s p want k = .next (refusePacket s p 2) := by
  simp [withHome, h]

theorem withHome_at {s : State} {p : Packet} {want : Want} {k : Nat → Nat → Out} {c : Nat} {x : Context} {pa cls : Nat}
    (h : ctxWithJob s p.job = some (c, x)) (ht : deviceTarget s x want p.addr = .ok (.glob pa cls)) : withHome s p want k = k pa cls := by
  simp [withHome, h, ht]

theorem withHome_absent {s : State} {p : Packet} {want : Want} {k : Nat → Nat → Out} {c : Nat} {x : Context} {a n : Nat}
    (h : ctxWithJob s p.job = some (c, x)) (ht : deviceTarget s x want p.addr = .error (.absent a n)) :
    withHome s p want k = .next (refusePacket (refusalRecord s c 0x0A p.plane p.addr (wantWrites want)) p 0) := by
  simp [withHome, h, ht]

end Sys2Proof.Machine
end

