-- ==== Sys2Proof/Laws/RoundTrip.lean ====
section
/-! SUPPORT. What the decoder answers on a word whose fields a format builds: one lemma for every format says that the encoded fields lie above
the opcode, fit in the length and pass the checks of the bits the format leaves out (R69, R76 to R84). -/

namespace Sys2Proof.Laws

open Sys2Proof.Machine

/-- No check fails where all pass. -/
theorem lowestBad_none : ∀ l : List Check, l.all (fun c => c.2) = true → lowestBad l = none := by
  intro l
  induction l with
  | nil => simp [lowestBad]
  | cons c r ih =>
    obtain ⟨b, ok⟩ := c
    cases ok <;> simp only [lowestBad, List.all_cons] <;> simp
    intro h
    exact ih (by simpa using h)

/-- The encoded fields `x` of a format, for a length code: above the opcode, within the length, and with every bit that the format
leaves out zero. -/
structure Fields (f : Fmt) (len x : Nat) (i : Instr) : Prop where
  above : x % 4096 = 0
  fits : x < 2 ^ (32 * (len + 1))
  short : len < 3
  length : f.lengths.contains len = true
  build : ∀ op, op < 1024 → f.build len (len + 4 * op + x) = i
  raw : ∀ op, op < 1024 → (f.rawChecks (len + 4 * op + x)).all (fun c => c.2) = true

/-- A word of a format decodes, in the format's own stream, to the instruction that its fields build, where that is well formed; in the other
stream it is refused, and a privileged operation is refused without privilege (R69, R85). -/
theorem decodeThoyx_fields {i : Instr} {op len x : Nat} {f : Fmt} (h : Fields f len x i) (hf : opFormat op = some f) (hop : op < 1024)
    (hwf : i.wf = true) :
    let w := len + 4 * op + x
    w % 4 = len ∧ w / 4 % 1024 = op ∧ w < 2 ^ (32 * (len + 1))
      ∧ (∀ p, decodeThoyx map1 (!f.isLane) p w = .error .stream)
      ∧ decodeThoyx map1 f.isLane true w = .ok i
      ∧ decodeThoyx map1 f.isLane false w = (if 0x3C8 ≤ op then .error (.privileged op) else .ok i) := by
  have hl := h.short
  have hx4 := h.above
  have hx := h.fits
  have hm : (len + 4 * op + x) % 4 = len := by omega
  have hd : (len + 4 * op + x) / 4 % 1024 = op := by omega
  have hlt : len + 4 * op + x < 2 ^ (32 * (len + 1)) := by
    obtain rfl | rfl | rfl : len = 0 ∨ len = 1 ∨ len = 2 := by omega
    all_goals omega
  have hmap : map1 op = some op := by simp [map1, hf]
  have hwb : wordBits len (len + 4 * op + x) = len + 4 * op + x := Nat.mod_eq_of_lt hlt
  have hb := h.build op hop
  have hchk : lowestBad (f.rawChecks (len + 4 * op + x) ++ checks i) = none := lowestBad_none _ (by
    rw [List.all_append, h.raw op hop]; exact hwf)
  dsimp only
  refine ⟨hm, hd, hlt, fun p => ?_, ?_, ?_⟩
  all_goals simp only [decodeThoyx, hm, hd, hmap, hf, h.length, hwb, hb, hchk, Bool.not_true, Bool.and_false, if_neg (show ¬ len = 3 by omega),
    bne_self_eq_false, Bool.false_eq_true, if_false, Bool.not_false, Bool.and_true, isPrivilegedOp, decide_eq_true_eq]
  cases f.isLane <;> simp

/-! ## The formats -/

theorem fields_c3 (mk : C3 → Instr) (f : C3) : Fields (.c3 mk) 0 (encC3 f) (mk f) := by
  have h1 := f.d.isLt; have h2 := f.a.isLt; have h3 := f.b.isLt; have h4 := b2n_lt f.ea; have h5 := b2n_lt f.eb
  refine ⟨by simp only [encC3]; omega, by simp only [encC3]; omega, by decide, rfl, fun op h => ?_, fun op h => rfl⟩
  exact congrArg mk (decC3_enc (by omega) f)

theorem fields_ci (mk : CI → Instr) (f : CI) : Fields (.ci mk) 0 (encCI f) (mk f) := by
  have h1 := f.d.isLt; have h2 := f.a.isLt; have h3 := f.imm.isLt; have h4 := b2n_lt f.ea
  refine ⟨by simp only [encCI]; omega, by simp only [encCI]; omega, by decide, rfl, fun op h => ?_, fun op h => rfl⟩
  exact congrArg mk (decCI_enc (by omega) f)

theorem fields_cj (mk : CJ → Instr) (f : CJ) : Fields (.cj mk) 0 (encCJ f) (mk f) := by
  have h1 := f.off.isLt
  refine ⟨by simp only [encCJ]; omega, by simp only [encCJ]; omega, by decide, rfl, fun op h => ?_, fun op h => rfl⟩
  exact congrArg mk (decCJ_enc (by omega) f)

theorem fields_cs (mk : CS → Instr) (f : CS) : Fields (.cs mk) 0 (encCS f) (mk f) := by
  have h1 := f.r.isLt; have h2 := f.num.isLt; have h4 := b2n_lt f.ea
  refine ⟨by simp only [encCS]; omega, by simp only [encCS]; omega, by decide, rfl, fun op h => ?_, fun op h => ?_⟩
  · exact congrArg mk (decCS_enc (by omega) f)
  · simp only [Fmt.rawChecks, List.all_cons, List.all_nil, Bool.and_true]
    exact decide_eq_true (by simp only [encCS]; omega)

theorem fields_cl (mk : CL → Instr) (f : CL) : Fields (.cl mk) 1 (encCL f) (mk f) := by
  have h1 := f.d.isLt; have h2 := f.a.isLt; have h3 := f.b.isLt; have h4 := b2n_lt f.ea; have h5 := b2n_lt f.eb; have h6 := f.lit.isLt
  refine ⟨by simp only [encCL]; omega, by simp only [encCL]; omega, by decide, rfl, fun op h => ?_, fun op h => rfl⟩
  exact congrArg mk (decCL_enc (by omega) f)

theorem fields_cb (mk : CB → Instr) (f : CB) : Fields (.cb mk) 1 (encCB f) (mk f) := by
  have h1 := f.a.isLt; have h2 := f.b.isLt; have h4 := b2n_lt f.ea; have h5 := b2n_lt f.eb; have h6 := f.off.isLt
  refine ⟨by simp only [encCB]; omega, by simp only [encCB]; omega, by decide, rfl, fun op h => ?_, fun op h => ?_⟩
  · exact congrArg mk (decCB_enc (by omega) f)
  · simp only [Fmt.rawChecks, List.all_cons, List.all_nil, Bool.and_true]
    exact decide_eq_true (by simp only [encCB]; omega)

theorem fields_cm (mk : CM → Instr) (f : CM) : Fields (.cm mk) 1 (encCM f) (mk f) := by
  have h1 := f.d.isLt; have h2 := f.a.isLt; have h3 := f.b.isLt; have h4 := b2n_lt f.ea; have h5 := b2n_lt f.eb
  have h6 := f.width.isLt; have h7 := b2n_lt f.sx; have h8 := f.scope.isLt; have h9 := f.order.isLt
  have h10 := f.aop.isLt; have h11 := f.hint.isLt; have h12 := f.disp.isLt
  refine ⟨by simp only [encCM]; omega, by simp only [encCM]; omega, by decide, rfl, fun op h => ?_, fun op h => ?_⟩
  · exact congrArg mk (decCM_enc (by omega) f)
  · simp only [Fmt.rawChecks, List.all_cons, List.all_nil, Bool.and_true]
    exact decide_eq_true (by simp only [encCM]; omega)

theorem fields_ce (mk : CE → Instr) (f : CE) : Fields (.ce mk) 1 (encCE f) (mk f) := by
  have h1 := f.d.isLt; have h2 := f.a.isLt; have h3 := f.b.isLt; have h4 := b2n_lt f.ea; have h5 := b2n_lt f.eb
  have h6 := f.c.isLt; have h7 := b2n_lt f.ec; have h8 := f.t.isLt; have h9 := f.aux.isLt; have h10 := f.opts.isLt
  refine ⟨by simp only [encCE]; omega, by simp only [encCE]; omega, by decide, rfl, fun op h => ?_, fun op h => rfl⟩
  exact congrArg mk (decCE_enc (by omega) f)

theorem fields_cq (mk : CQ → Instr) (f : CQ) : Fields (.cq mk) 1 (encCQ f) (mk f) := by
  have h1 := f.a.isLt; have h2 := f.b.isLt; have h3 := f.c.isLt; have h4 := b2n_lt f.e; have h5 := f.off.isLt
  refine ⟨by simp only [encCQ]; omega, by simp only [encCQ]; omega, by decide, rfl, fun op h => ?_, fun op h => ?_⟩
  · exact congrArg mk (decCQ_enc (by omega) f)
  · simp only [Fmt.rawChecks, List.all_cons, List.all_nil, Bool.and_true]
    exact decide_eq_true (by simp only [encCQ]; omega)

theorem fields_vb (mk : VB → Instr) (f : VB) : Fields (.vb mk) 1 (encVB f) (mk f) := by
  have h1 := f.c.isLt; have h2 := b2n_lt f.sense; have h3 := f.jid.isLt; have h4 := f.off.isLt
  refine ⟨by simp only [encVB]; omega, by simp only [encVB]; omega, by decide, rfl, fun op h => ?_, fun op h => ?_⟩
  · exact congrArg mk (decVB_enc (by omega) f)
  · simp only [Fmt.rawChecks, List.all_cons, List.all_nil, Bool.and_true]
    exact decide_eq_true (by simp only [encVB]; omega)

/-- An operand field of a word that lies between what is below it and what is above it passes the check of R76. -/
theorem operandCheck_field (o : Operand) {w lo : Nat} (h : w / 2 ^ lo % 1024 = encOperand o) : (operandCheck w lo).2 = true := by
  refine operandCheck_ok o (r := w % 2 ^ lo) (q := w / 2 ^ lo / 1024) ?_ (Nat.mod_lt _ (Nat.two_pow_pos lo))
  have h1 := Nat.mod_add_div (w / 2 ^ lo) 1024
  have h2 := Nat.mod_add_div w (2 ^ lo)
  rw [h] at h1
  rw [h1]; exact h2.symm

/-- The four operand fields of a V3 word pass. -/
theorem v3_raw (f : V3) (r : Nat) (hr : r < 4096) :
    [operandCheck (r + encV3 f) 12, operandCheck (r + encV3 f) 22, operandCheck (r + encV3 f) 32, operandCheck (r + encV3 f) 42].all (fun c => c.2)
      = true := by
  have h1 := encOperand_lt f.d; have h2 := encOperand_lt f.a; have h3 := encOperand_lt f.b; have h4 := encOperand_lt f.c
  have h5 := b2n_lt f.ea; have h6 := b2n_lt f.eb; have h7 := b2n_lt f.ec; have h8 := f.t.isLt; have h9 := f.m.isLt
  have h10 := b2n_lt f.w; have h11 := b2n_lt f.sat
  simp only [List.all_cons, List.all_nil, Bool.and_true, Bool.and_eq_true]
  cases hl : f.lit with
  | none =>
    exact ⟨operandCheck_field f.d (by simp only [encV3, hl]; omega), operandCheck_field f.a (by simp only [encV3, hl]; omega),
      operandCheck_field f.b (by simp only [encV3, hl]; omega), operandCheck_field f.c (by simp only [encV3, hl]; omega)⟩
  | some l =>
    have := l.isLt
    exact ⟨operandCheck_field f.d (by simp only [encV3, hl]; omega), operandCheck_field f.a (by simp only [encV3, hl]; omega),
      operandCheck_field f.b (by simp only [encV3, hl]; omega), operandCheck_field f.c (by simp only [encV3, hl]; omega)⟩

theorem v3_above (f : V3) : encV3 f % 4096 = 0 ∧ encV3 f < 2 ^ (32 * ((if f.lit.isSome then 2 else 1) + 1)) := by
  have h1 := encOperand_lt f.d; have h2 := encOperand_lt f.a; have h3 := encOperand_lt f.b; have h4 := encOperand_lt f.c
  have h5 := b2n_lt f.ea; have h6 := b2n_lt f.eb; have h7 := b2n_lt f.ec; have h8 := f.t.isLt; have h9 := f.m.isLt
  have h10 := b2n_lt f.w; have h11 := b2n_lt f.sat
  cases hl : f.lit with
  | none => simp only [encV3, hl, Option.isSome_none, Bool.false_eq_true, if_false]; omega
  | some l => have := l.isLt; simp only [encV3, hl, Option.isSome_some, if_true]; omega

theorem decV3_own {lo : Nat} (h : lo < 4096) (f : V3) : decV3 ((if f.lit.isSome then 2 else 1) == 2) (lo + encV3 f) = f := by
  obtain ⟨d, a, b, c, ea, eb, ec, t, m, w, sat, lit⟩ := f
  cases lit with
  | none => exact decV3_short h d a b c ea eb ec t m w sat
  | some l => exact decV3_long h d a b c ea eb ec t m w sat l

theorem fields_v3 (mk : V3 → Instr) (f : V3) : Fields (.v3 mk) (if f.lit.isSome then 2 else 1) (encV3 f) (mk f) := by
  refine ⟨(v3_above f).1, (v3_above f).2, by split <;> decide, by cases f.lit <;> rfl, fun op h => ?_, fun op h => ?_⟩
  · exact congrArg mk (decV3_own (by split <;> omega) f)
  · exact v3_raw f _ (by split <;> omega)

/-- V3 alone: the instruction has no literal. -/
theorem fields_v3s (mk : V3 → Instr) (f : V3) (hl : f.lit = none) :
    Fields (.v3s mk) (if f.lit.isSome then 2 else 1) (encV3 f) (mk f) := by
  have h := fields_v3 mk f
  refine ⟨h.above, h.fits, h.short, by rw [hl]; rfl, h.build, h.raw⟩

/-- V3L alone: the instruction has a literal. -/
theorem fields_v3l (mk : V3 → Instr) (f : V3) (hl : f.lit.isSome = true) :
    Fields (.v3l mk) (if f.lit.isSome then 2 else 1) (encV3 f) (mk f) := by
  have h := fields_v3 mk f
  refine ⟨h.above, h.fits, h.short, by rw [hl]; rfl, h.build, h.raw⟩

theorem fields_vm (mk : VM → Instr) (f : VM) : Fields (.vm mk) 1 (encVM f) (mk f) := by
  have h1 := encOperand_lt f.d; have h2 := encOperand_lt f.a; have h3 := f.qb.isLt; have h4 := b2n_lt f.am; have h5 := f.scale.isLt
  have h6 := f.width.isLt; have h7 := b2n_lt f.sx; have h8 := f.scope.isLt; have h9 := f.order.isLt; have h10 := f.hint.isLt
  have h11 := b2n_lt f.ea; have h12 := b2n_lt f.ed; have h13 := f.disp.isLt
  refine ⟨by simp only [encVM]; omega, by simp only [encVM]; omega, by decide, rfl, fun op h => ?_, fun op h => ?_⟩
  · exact congrArg mk (decVM_enc (by omega) f)
  · simp only [Fmt.rawChecks, List.all_cons, List.all_nil, Bool.and_true, Bool.and_eq_true]
    exact ⟨operandCheck_field f.d (by simp only [encVM]; omega), operandCheck_field f.a (by simp only [encVM]; omega)⟩

theorem fields_vmx (mk : VMX → Instr) (f : VMX) : Fields (.vmx mk) 2 (encVMX f) (mk f) := by
  have h1 := encOperand_lt f.m.d; have h2 := encOperand_lt f.m.a; have h3 := f.m.qb.isLt; have h4 := b2n_lt f.m.am
  have h5 := f.m.scale.isLt; have h6 := f.m.width.isLt; have h7 := b2n_lt f.m.sx; have h8 := f.m.scope.isLt
  have h9 := f.m.order.isLt; have h10 := f.m.hint.isLt; have h11 := b2n_lt f.m.ea; have h12 := b2n_lt f.m.ed
  have h13 := f.m.disp.isLt; have h14 := encOperand_lt f.b; have h15 := encOperand_lt f.c; have h16 := b2n_lt f.eb
  have h17 := b2n_lt f.ec; have h18 := f.aop.isLt
  refine ⟨by simp only [encVMX, encVM]; omega, by simp only [encVMX, encVM]; omega, by decide, rfl, fun op h => ?_, fun op h => ?_⟩
  · exact congrArg mk (decVMX_enc (by omega) f)
  · simp only [Fmt.rawChecks, List.all_cons, List.all_nil, Bool.and_true, Bool.and_eq_true]
    exact ⟨operandCheck_field f.m.d (by simp only [encVMX, encVM]; omega), operandCheck_field f.m.a (by simp only [encVMX, encVM]; omega),
      operandCheck_field f.b (by simp only [encVMX, encVM]; omega), operandCheck_field f.c (by simp only [encVMX, encVM]; omega),
      decide_eq_true (by simp only [encVMX, encVM]; omega)⟩

theorem fields_vt (mk : VT → Instr) (f : VT) : Fields (.vt mk) 2 (encVT f) (mk f) := by
  have h1 := encOperand_lt f.d; have h2 := encOperand_lt f.a; have h3 := encOperand_lt f.b; have h4 := f.tid.isLt
  have h5 := f.mode.isLt; have h6 := f.hint.isLt; have h7 := b2n_lt f.ea; have h8 := b2n_lt f.eb; have h9 := b2n_lt f.ed
  have h10 := f.wreg.isLt; have h11 := f.base.isLt; have h12 := f.acc.isLt; have h13 := b2n_lt f.w; have h14 := b2n_lt f.wsel
  have h15 := b2n_lt f.tq; have h16 := b2n_lt f.aq; have h17 := b2n_lt f.ew
  refine ⟨by simp only [encVT]; omega, by simp only [encVT]; omega, by decide, rfl, fun op h => ?_, fun op h => ?_⟩
  · exact congrArg mk (decVT_enc (by omega) f)
  · simp only [Fmt.rawChecks, List.all_cons, List.all_nil, Bool.and_true, Bool.and_eq_true]
    exact ⟨operandCheck_field f.d (by simp only [encVT]; omega), operandCheck_field f.a (by simp only [encVT]; omega),
      operandCheck_field f.b (by simp only [encVT]; omega), decide_eq_true (by simp only [encVT]; omega)⟩

/-! ## Every Thoyx instruction is an instruction of some format -/

/-- What the words of an instruction are: an opcode of map 1 with its format, and fields of that format. -/
def HasFields (i : Instr) (op len x : Nat) : Prop := ∃ f, opFormat op = some f ∧ op < 1024 ∧ Fields f len x i

theorem codeFields {i : Instr} {op len x op' len' x' : Nat} {f : Fmt} (hc : thoyxCode i = some (op, len, x)) (h : Fields f len x i)
    (hf : opFormat op = some f) (hop : op < 1024) (h' : thoyxCode i = some (op', len', x')) : HasFields i op' len' x' := by
  rw [hc] at h'
  simp only [Option.some.injEq, Prod.mk.injEq] at h'
  obtain ⟨rfl, rfl, rfl⟩ := h'
  exact ⟨f, hf, hop, h⟩

theorem lit_none {i : Instr} {f : V3} {r : List Check} (h : i.wf = true) (hc : checks i = (0, decide (f.lit = none)) :: r) :
    f.lit = none := by
  rw [Instr.wf, hc, List.all_cons, Bool.and_eq_true] at h
  exact of_decide_eq_true h.1

theorem lit_some {i : Instr} {f : V3} {r : List Check} (h : i.wf = true) (hc : checks i = (0, f.lit.isSome) :: r) :
    f.lit.isSome = true := by
  rw [Instr.wf, hc, List.all_cons, Bool.and_eq_true] at h
  exact h.1

theorem hasFields (i : Instr) : ∀ op len x : Nat, thoyxCode i = some (op, len, x) → i.wf = true → HasFields i op len x := by
  cases i with
  | sadd f => exact fun _ _ _ h _ => codeFields rfl (fields_c3 .sadd f) rfl (by decide) h
  | ssub f => exact fun _ _ _ h _ => codeFields rfl (fields_c3 .ssub f) rfl (by decide) h
  | smul f => exact fun _ _ _ h _ => codeFields rfl (fields_c3 .smul f) rfl (by decide) h
  | smulhs f => exact fun _ _ _ h _ => codeFields rfl (fields_c3 .smulhs f) rfl (by decide) h
  | smulhu f => exact fun _ _ _ h _ => codeFields rfl (fields_c3 .smulhu f) rfl (by decide) h
  | sdivs f => exact fun _ _ _ h _ => codeFields rfl (fields_c3 .sdivs f) rfl (by decide) h
  | sdivu f => exact fun _ _ _ h _ => codeFields rfl (fields_c3 .sdivu f) rfl (by decide) h
  | srems f => exact fun _ _ _ h _ => codeFields rfl (fields_c3 .srems f) rfl (by decide) h
  | sremu f => exact fun _ _ _ h _ => codeFields rfl (fields_c3 .sremu f) rfl (by decide) h
  | sand f => exact fun _ _ _ h _ => codeFields rfl (fields_c3 .sand f) rfl (by decide) h
  | sor f => exact fun _ _ _ h _ => codeFields rfl (fields_c3 .sor f) rfl (by decide) h
  | sxor f => exact fun _ _ _ h _ => codeFields rfl (fields_c3 .sxor f) rfl (by decide) h
  | sandn f => exact fun _ _ _ h _ => codeFields rfl (fields_c3 .sandn f) rfl (by decide) h
  | sshl f => exact fun _ _ _ h _ => codeFields rfl (fields_c3 .sshl f) rfl (by decide) h
  | sshr f => exact fun _ _ _ h _ => codeFields rfl (fields_c3 .sshr f) rfl (by decide) h
  | ssra f => exact fun _ _ _ h _ => codeFields rfl (fields_c3 .ssra f) rfl (by decide) h
  | smins f => exact fun _ _ _ h _ => codeFields rfl (fields_c3 .smins f) rfl (by decide) h
  | smaxs f => exact fun _ _ _ h _ => codeFields rfl (fields_c3 .smaxs f) rfl (by decide) h
  | sminu f => exact fun _ _ _ h _ => codeFields rfl (fields_c3 .sminu f) rfl (by decide) h
  | smaxu f => exact fun _ _ _ h _ => codeFields rfl (fields_c3 .smaxu f) rfl (by decide) h
  | sslts f => exact fun _ _ _ h _ => codeFields rfl (fields_c3 .sslts f) rfl (by decide) h
  | ssltu f => exact fun _ _ _ h _ => codeFields rfl (fields_c3 .ssltu f) rfl (by decide) h
  | sseq f => exact fun _ _ _ h _ => codeFields rfl (fields_c3 .sseq f) rfl (by decide) h
  | sclz f => exact fun _ _ _ h _ => codeFields rfl (fields_c3 .sclz f) rfl (by decide) h
  | spopc f => exact fun _ _ _ h _ => codeFields rfl (fields_c3 .spopc f) rfl (by decide) h
  | sext f => exact fun _ _ _ h _ => codeFields rfl (fields_ci .sext f) rfl (by decide) h
  | zext f => exact fun _ _ _ h _ => codeFields rfl (fields_ci .zext f) rfl (by decide) h
  | saddi f => exact fun _ _ _ h _ => codeFields rfl (fields_ci .saddi f) rfl (by decide) h
  | sandi f => exact fun _ _ _ h _ => codeFields rfl (fields_ci .sandi f) rfl (by decide) h
  | sori f => exact fun _ _ _ h _ => codeFields rfl (fields_ci .sori f) rfl (by decide) h
  | sxori f => exact fun _ _ _ h _ => codeFields rfl (fields_ci .sxori f) rfl (by decide) h
  | sshli f => exact fun _ _ _ h _ => codeFields rfl (fields_ci .sshli f) rfl (by decide) h
  | sshri f => exact fun _ _ _ h _ => codeFields rfl (fields_ci .sshri f) rfl (by decide) h
  | ssrai f => exact fun _ _ _ h _ => codeFields rfl (fields_ci .ssrai f) rfl (by decide) h
  | sslti f => exact fun _ _ _ h _ => codeFields rfl (fields_ci .sslti f) rfl (by decide) h
  | sli f => exact fun _ _ _ h _ => codeFields rfl (fields_cl .sli f) rfl (by decide) h
  | slih f => exact fun _ _ _ h _ => codeFields rfl (fields_cl .slih f) rfl (by decide) h
  | saddl f => exact fun _ _ _ h _ => codeFields rfl (fields_cl .saddl f) rfl (by decide) h
  | slea f => exact fun _ _ _ h _ => codeFields rfl (fields_cl .slea f) rfl (by decide) h
  | sld f => exact fun _ _ _ h _ => codeFields rfl (fields_cm .sld f) rfl (by decide) h
  | sst f => exact fun _ _ _ h _ => codeFields rfl (fields_cm .sst f) rfl (by decide) h
  | satom f => exact fun _ _ _ h _ => codeFields rfl (fields_cm .satom f) rfl (by decide) h
  | scas f => exact fun _ _ _ h _ => codeFields rfl (fields_cm .scas f) rfl (by decide) h
  | sprf f => exact fun _ _ _ h _ => codeFields rfl (fields_cm .sprf f) rfl (by decide) h
  | b f => exact fun _ _ _ h _ => codeFields rfl (fields_cj .b f) rfl (by decide) h
  | call f => exact fun _ _ _ h _ => codeFields rfl (fields_cj .call f) rfl (by decide) h
  | ret f => exact fun _ _ _ h _ => codeFields rfl (fields_c3 .ret f) rfl (by decide) h
  | jr f => exact fun _ _ _ h _ => codeFields rfl (fields_c3 .jr f) rfl (by decide) h
  | beq f => exact fun _ _ _ h _ => codeFields rfl (fields_cb .beq f) rfl (by decide) h
  | bne f => exact fun _ _ _ h _ => codeFields rfl (fields_cb .bne f) rfl (by decide) h
  | blts f => exact fun _ _ _ h _ => codeFields rfl (fields_cb .blts f) rfl (by decide) h
  | bges f => exact fun _ _ _ h _ => codeFields rfl (fields_cb .bges f) rfl (by decide) h
  | bltu f => exact fun _ _ _ h _ => codeFields rfl (fields_cb .bltu f) rfl (by decide) h
  | bgeu f => exact fun _ _ _ h _ => codeFields rfl (fields_cb .bgeu f) rfl (by decide) h
  | loop f => exact fun _ _ _ h _ => codeFields rfl (fields_cb .loop f) rfl (by decide) h
  | lane f => exact fun _ _ _ h _ => codeFields rfl (fields_cq .lane f) rfl (by decide) h
  | lwait f => exact fun _ _ _ h _ => codeFields rfl (fields_c3 .lwait f) rfl (by decide) h
  | recv f => exact fun _ _ _ h _ => codeFields rfl (fields_c3 .recv f) rfl (by decide) h
  | srs f => exact fun _ _ _ h _ => codeFields rfl (fields_cs .srs f) rfl (by decide) h
  | sws f => exact fun _ _ _ h _ => codeFields rfl (fields_cs .sws f) rfl (by decide) h
  | vadd f => exact fun _ _ _ h _ => codeFields rfl (fields_v3 .vadd f) rfl (by decide) h
  | vsub f => exact fun _ _ _ h _ => codeFields rfl (fields_v3 .vsub f) rfl (by decide) h
  | vmul f => exact fun _ _ _ h _ => codeFields rfl (fields_v3 .vmul f) rfl (by decide) h
  | vmulh f => exact fun _ _ _ h _ => codeFields rfl (fields_v3 .vmulh f) rfl (by decide) h
  | vmad f => exact fun _ _ _ h _ => codeFields rfl (fields_v3 .vmad f) rfl (by decide) h
  | vand f => exact fun _ _ _ h _ => codeFields rfl (fields_v3 .vand f) rfl (by decide) h
  | vor f => exact fun _ _ _ h _ => codeFields rfl (fields_v3 .vor f) rfl (by decide) h
  | vxor f => exact fun _ _ _ h _ => codeFields rfl (fields_v3 .vxor f) rfl (by decide) h
  | vshl f => exact fun _ _ _ h _ => codeFields rfl (fields_v3 .vshl f) rfl (by decide) h
  | vshr f => exact fun _ _ _ h _ => codeFields rfl (fields_v3 .vshr f) rfl (by decide) h
  | vsra f => exact fun _ _ _ h _ => codeFields rfl (fields_v3 .vsra f) rfl (by decide) h
  | vmin f => exact fun _ _ _ h _ => codeFields rfl (fields_v3 .vmin f) rfl (by decide) h
  | vmax f => exact fun _ _ _ h _ => codeFields rfl (fields_v3 .vmax f) rfl (by decide) h
  | vabs f => exact fun _ _ _ h _ => codeFields rfl (fields_v3 .vabs f) rfl (by decide) h
  | vneg f => exact fun _ _ _ h _ => codeFields rfl (fields_v3 .vneg f) rfl (by decide) h
  | vclz f => exact fun _ _ _ h _ => codeFields rfl (fields_v3 .vclz f) rfl (by decide) h
  | vpopc f => exact fun _ _ _ h _ => codeFields rfl (fields_v3 .vpopc f) rfl (by decide) h
  | vbfe f => exact fun _ _ _ h _ => codeFields rfl (fields_v3 .vbfe f) rfl (by decide) h
  | vbfi f => exact fun _ _ _ h _ => codeFields rfl (fields_v3 .vbfi f) rfl (by decide) h
  | vadds f => exact fun _ _ _ h _ => codeFields rfl (fields_v3 .vadds f) rfl (by decide) h
  | vsubs f => exact fun _ _ _ h _ => codeFields rfl (fields_v3 .vsubs f) rfl (by decide) h
  | vdot4 f => exact fun _ _ _ h _ => codeFields rfl (fields_v3 .vdot4 f) rfl (by decide) h
  | vcmp f => exact fun _ _ _ h _ => codeFields rfl (fields_v3 .vcmp f) rfl (by decide) h
  | vsel f => exact fun _ _ _ h _ => codeFields rfl (fields_v3 .vsel f) rfl (by decide) h
  | clog f => exact fun _ _ _ h _ => codeFields rfl (fields_v3 .clog f) rfl (by decide) h
  | vfadd f => exact fun _ _ _ h _ => codeFields rfl (fields_v3 .vfadd f) rfl (by decide) h
  | vfsub f => exact fun _ _ _ h _ => codeFields rfl (fields_v3 .vfsub f) rfl (by decide) h
  | vfmul f => exact fun _ _ _ h _ => codeFields rfl (fields_v3 .vfmul f) rfl (by decide) h
  | vfma f => exact fun _ _ _ h _ => codeFields rfl (fields_v3 .vfma f) rfl (by decide) h
  | vfmin f => exact fun _ _ _ h _ => codeFields rfl (fields_v3 .vfmin f) rfl (by decide) h
  | vfmax f => exact fun _ _ _ h _ => codeFields rfl (fields_v3 .vfmax f) rfl (by decide) h
  | vrcp f => exact fun _ _ _ h hw => codeFields rfl (fields_v3s .vrcp f (lit_none hw rfl)) rfl (by decide) h
  | vrsq f => exact fun _ _ _ h hw => codeFields rfl (fields_v3s .vrsq f (lit_none hw rfl)) rfl (by decide) h
  | vexp2 f => exact fun _ _ _ h hw => codeFields rfl (fields_v3s .vexp2 f (lit_none hw rfl)) rfl (by decide) h
  | vlog2 f => exact fun _ _ _ h hw => codeFields rfl (fields_v3s .vlog2 f (lit_none hw rfl)) rfl (by decide) h
  | vsinp f => exact fun _ _ _ h hw => codeFields rfl (fields_v3s .vsinp f (lit_none hw rfl)) rfl (by decide) h
  | vcosp f => exact fun _ _ _ h hw => codeFields rfl (fields_v3s .vcosp f (lit_none hw rfl)) rfl (by decide) h
  | vtanh f => exact fun _ _ _ h hw => codeFields rfl (fields_v3s .vtanh f (lit_none hw rfl)) rfl (by decide) h
  | vcvt f => exact fun _ _ _ h _ => codeFields rfl (fields_v3 .vcvt f) rfl (by decide) h
  | vqnt f => exact fun _ _ _ h _ => codeFields rfl (fields_v3 .vqnt f) rfl (by decide) h
  | vpal f => exact fun _ _ _ h _ => codeFields rfl (fields_v3 .vpal f) rfl (by decide) h
  | vunpal f => exact fun _ _ _ h _ => codeFields rfl (fields_v3 .vunpal f) rfl (by decide) h
  | vpack f => exact fun _ _ _ h _ => codeFields rfl (fields_v3 .vpack f) rfl (by decide) h
  | vunpk f => exact fun _ _ _ h _ => codeFields rfl (fields_v3 .vunpk f) rfl (by decide) h
  | vmov f => exact fun _ _ _ h _ => codeFields rfl (fields_v3 .vmov f) rfl (by decide) h
  | vshuf f => exact fun _ _ _ h _ => codeFields rfl (fields_v3 .vshuf f) rfl (by decide) h
  | vbcast f => exact fun _ _ _ h _ => codeFields rfl (fields_v3 .vbcast f) rfl (by decide) h
  | vidx f => exact fun _ _ _ h _ => codeFields rfl (fields_v3 .vidx f) rfl (by decide) h
  | vtos f => exact fun _ _ _ h _ => codeFields rfl (fields_v3 .vtos f) rfl (by decide) h
  | vscan f => exact fun _ _ _ h _ => codeFields rfl (fields_v3 .vscan f) rfl (by decide) h
  | vballot f => exact fun _ _ _ h _ => codeFields rfl (fields_v3 .vballot f) rfl (by decide) h
  | ixset f => exact fun _ _ _ h hw => codeFields rfl (fields_v3s .ixset f (lit_none hw rfl)) rfl (by decide) h
  | adset f => exact fun _ _ _ h hw => codeFields rfl (fields_v3s .adset f (lit_none hw rfl)) rfl (by decide) h
  | qmov f => exact fun _ _ _ h hw => codeFields rfl (fields_v3s .qmov f (lit_none hw rfl)) rfl (by decide) h
  | qadd f => exact fun _ _ _ h hw => codeFields rfl (fields_v3s .qadd f (lit_none hw rfl)) rfl (by decide) h
  | qsub f => exact fun _ _ _ h hw => codeFields rfl (fields_v3s .qsub f (lit_none hw rfl)) rfl (by decide) h
  | qand f => exact fun _ _ _ h hw => codeFields rfl (fields_v3s .qand f (lit_none hw rfl)) rfl (by decide) h
  | qor f => exact fun _ _ _ h hw => codeFields rfl (fields_v3s .qor f (lit_none hw rfl)) rfl (by decide) h
  | qxor f => exact fun _ _ _ h hw => codeFields rfl (fields_v3s .qxor f (lit_none hw rfl)) rfl (by decide) h
  | qshl f => exact fun _ _ _ h hw => codeFields rfl (fields_v3s .qshl f (lit_none hw rfl)) rfl (by decide) h
  | qshr f => exact fun _ _ _ h hw => codeFields rfl (fields_v3s .qshr f (lit_none hw rfl)) rfl (by decide) h
  | qli f => exact fun _ _ _ h hw => codeFields rfl (fields_v3l .qli f (lit_some hw rfl)) rfl (by decide) h
  | vtoq f => exact fun _ _ _ h hw => codeFields rfl (fields_v3s .vtoq f (lit_none hw rfl)) rfl (by decide) h
  | vld f => exact fun _ _ _ h _ => codeFields rfl (fields_vm .vld f) rfl (by decide) h
  | vst f => exact fun _ _ _ h _ => codeFields rfl (fields_vm .vst f) rfl (by decide) h
  | vatom f => exact fun _ _ _ h _ => codeFields rfl (fields_vmx .vatom f) rfl (by decide) h
  | vcas f => exact fun _ _ _ h _ => codeFields rfl (fields_vmx .vcas f) rfl (by decide) h
  | vldt f => exact fun _ _ _ h _ => codeFields rfl (fields_vt .vldt f) rfl (by decide) h
  | vstt f => exact fun _ _ _ h _ => codeFields rfl (fields_vt .vstt f) rfl (by decide) h
  | vste f => exact fun _ _ _ h _ => codeFields rfl (fields_vt .vste f) rfl (by decide) h
  | vprf f => exact fun _ _ _ h _ => codeFields rfl (fields_vm .vprf f) rfl (by decide) h
  | vlda f => exact fun _ _ _ h _ => codeFields rfl (fields_vt .vlda f) rfl (by decide) h
  | vsta f => exact fun _ _ _ h _ => codeFields rfl (fields_vt .vsta f) rfl (by decide) h
  | brv f => exact fun _ _ _ h _ => codeFields rfl (fields_vb .brv f) rfl (by decide) h
  | jmpv f => exact fun _ _ _ h _ => codeFields rfl (fields_vb .jmpv f) rfl (by decide) h
  | callv f => exact fun _ _ _ h _ => codeFields rfl (fields_vb .callv f) rfl (by decide) h
  | retv f => exact fun _ _ _ h _ => codeFields rfl (fields_vb .retv f) rfl (by decide) h
  | regang f => exact fun _ _ _ h _ => codeFields rfl (fields_vb .regang f) rfl (by decide) h
  | lend f => exact fun _ _ _ h _ => codeFields rfl (fields_vb .lend f) rfl (by decide) h
  | sigv f => exact fun _ _ _ h hw => codeFields rfl (fields_v3l .sigv f (lit_some hw rfl)) rfl (by decide) h
  | brkv f => exact fun _ _ _ h _ => codeFields rfl (fields_vb .brkv f) rfl (by decide) h
  | trapv f => exact fun _ _ _ h _ => codeFields rfl (fields_vb .trapv f) rfl (by decide) h
  | nopv f => exact fun _ _ _ h hw => codeFields rfl (fields_v3s .nopv f (lit_none hw rfl)) rfl (by decide) h
  | tdef f => exact fun _ _ _ h _ => codeFields rfl (fields_ce .tdef f) rfl (by decide) h
  | tinv f => exact fun _ _ _ h _ => codeFields rfl (fields_ce .tinv f) rfl (by decide) h
  | ctload f => exact fun _ _ _ h _ => codeFields rfl (fields_ce .ctload f) rfl (by decide) h
  | palld f => exact fun _ _ _ h _ => codeFields rfl (fields_ce .palld f) rfl (by decide) h
  | gangset f => exact fun _ _ _ h _ => codeFields rfl (fields_ce .gangset f) rfl (by decide) h
  | mclr f => exact fun _ _ _ h _ => codeFields rfl (fields_ce .mclr f) rfl (by decide) h
  | mtab f => exact fun _ _ _ h _ => codeFields rfl (fields_ce .mtab f) rfl (by decide) h
  | mlut f => exact fun _ _ _ h _ => codeFields rfl (fields_ce .mlut f) rfl (by decide) h
  | mlutg f => exact fun _ _ _ h _ => codeFields rfl (fields_ce .mlutg f) rfl (by decide) h
  | mxpq f => exact fun _ _ _ h _ => codeFields rfl (fields_ce .mxpq f) rfl (by decide) h
  | mout f => exact fun _ _ _ h _ => codeFields rfl (fields_ce .mout f) rfl (by decide) h
  | tbdrop f => exact fun _ _ _ h _ => codeFields rfl (fields_ce .tbdrop f) rfl (by decide) h
  | mbatch f => exact fun _ _ _ h _ => codeFields rfl (fields_ce .mbatch f) rfl (by decide) h
  | mwait f => exact fun _ _ _ h _ => codeFields rfl (fields_ce .mwait f) rfl (by decide) h
  | mtest f => exact fun _ _ _ h _ => codeFields rfl (fields_ce .mtest f) rfl (by decide) h
  | cpt f => exact fun _ _ _ h _ => codeFields rfl (fields_ce .cpt f) rfl (by decide) h
  | cpg f => exact fun _ _ _ h _ => codeFields rfl (fields_ce .cpg f) rfl (by decide) h
  | cps f => exact fun _ _ _ h _ => codeFields rfl (fields_ce .cps f) rfl (by decide) h
  | cpb f => exact fun _ _ _ h _ => codeFields rfl (fields_ce .cpb f) rfl (by decide) h
  | cpmc f => exact fun _ _ _ h _ => codeFields rfl (fields_ce .cpmc f) rfl (by decide) h
  | send f => exact fun _ _ _ h _ => codeFields rfl (fields_ce .send f) rfl (by decide) h
  | chpost f => exact fun _ _ _ h _ => codeFields rfl (fields_ce .chpost f) rfl (by decide) h
  | chpoll f => exact fun _ _ _ h _ => codeFields rfl (fields_ce .chpoll f) rfl (by decide) h
  | fence f => exact fun _ _ _ h _ => codeFields rfl (fields_ci .fence f) rfl (by decide) h
  | fenceo f => exact fun _ _ _ h _ => codeFields rfl (fields_ci .fenceo f) rfl (by decide) h
  | fencea f => exact fun _ _ _ h _ => codeFields rfl (fields_ci .fencea f) rfl (by decide) h
  | bar f => exact fun _ _ _ h _ => codeFields rfl (fields_ci .bar f) rfl (by decide) h
  | step f => exact fun _ _ _ h _ => codeFields rfl (fields_ci .step f) rfl (by decide) h
  | sig f => exact fun _ _ _ h _ => codeFields rfl (fields_cl .sig f) rfl (by decide) h
  | hbeat f => exact fun _ _ _ h _ => codeFields rfl (fields_c3 .hbeat f) rfl (by decide) h
  | yield f => exact fun _ _ _ h _ => codeFields rfl (fields_c3 .yield f) rfl (by decide) h
  | waitev f => exact fun _ _ _ h _ => codeFields rfl (fields_ce .waitev f) rfl (by decide) h
  | qput f => exact fun _ _ _ h _ => codeFields rfl (fields_ce .qput f) rfl (by decide) h
  | trap f => exact fun _ _ _ h _ => codeFields rfl (fields_ci .trap f) rfl (by decide) h
  | exit f => exact fun _ _ _ h _ => codeFields rfl (fields_c3 .exit f) rfl (by decide) h
  | brk f => exact fun _ _ _ h _ => codeFields rfl (fields_ci .brk f) rfl (by decide) h
  | nop f => exact fun _ _ _ h _ => codeFields rfl (fields_c3 .nop f) rfl (by decide) h
  | dtload f => exact fun _ _ _ h _ => codeFields rfl (fields_ce .dtload f) rfl (by decide) h
  | capset f => exact fun _ _ _ h _ => codeFields rfl (fields_ce .capset f) rfl (by decide) h
  | sbload f => exact fun _ _ _ h _ => codeFields rfl (fields_ce .sbload f) rfl (by decide) h
  | sbflow f => exact fun _ _ _ h _ => codeFields rfl (fields_ce .sbflow f) rfl (by decide) h
  | windowWriteAccept _ => exact fun _ _ _ h => nomatch h
  | loadDataReturn _ _ _ _ => exact fun _ _ _ h => nomatch h
  | recvFill _ => exact fun _ _ _ h => nomatch h
  | lwaitComplete _ => exact fun _ _ _ h => nomatch h
  | mwaitComplete _ => exact fun _ _ _ h => nomatch h
  | fenceaComplete _ => exact fun _ _ _ h => nomatch h
  | barrierComplete _ _ _ => exact fun _ _ _ h => nomatch h
  | waitevWake _ => exact fun _ _ _ h => nomatch h
  | laneBlockStart _ => exact fun _ _ _ h => nomatch h
  | waveClear _ _ => exact fun _ _ _ h => nomatch h
  | mclrExecute _ => exact fun _ _ _ h => nomatch h
  | mtabExecute _ => exact fun _ _ _ h => nomatch h
  | mlutExecute _ => exact fun _ _ _ h => nomatch h
  | mlutgLatchComplete _ => exact fun _ _ _ h => nomatch h
  | mxpqExecute _ => exact fun _ _ _ h => nomatch h
  | moutExecute _ => exact fun _ _ _ h => nomatch h
  | tbdropExecute _ => exact fun _ _ _ h => nomatch h
  | copyUnit _ _ => exact fun _ _ _ h => nomatch h
  | cpmcComplete _ _ => exact fun _ _ _ h => nomatch h
  | sendInject _ _ => exact fun _ _ _ h => nomatch h
  | encoderTileWrite _ => exact fun _ _ _ h => nomatch h
  | logReplay _ _ => exact fun _ _ _ h => nomatch h
  | walkerMonitorWake _ => exact fun _ _ _ h => nomatch h
  | walkerRewalkTimer _ _ => exact fun _ _ _ h => nomatch h
  | faultRecordHeldWrite _ => exact fun _ _ _ h => nomatch h
  | snapshotPageCopy _ _ => exact fun _ _ _ h => nomatch h
  | launchTake => exact fun _ _ _ h => nomatch h
  | cpMemoryRetry _ => exact fun _ _ _ h => nomatch h
  | waitEventSatisfied _ => exact fun _ _ _ h => nomatch h
  | teamPlace => exact fun _ _ _ h => nomatch h
  | teamRetire _ => exact fun _ _ _ h => nomatch h
  | splitChange _ => exact fun _ _ _ h => nomatch h
  | teamSave _ => exact fun _ _ _ h => nomatch h
  | teamRestore _ => exact fun _ _ _ h => nomatch h
  | launchComplete _ => exact fun _ _ _ h => nomatch h
  | watchdogFire _ => exact fun _ _ _ h => nomatch h
  | launchKill _ => exact fun _ _ _ h => nomatch h
  | launchRollback _ => exact fun _ _ _ h => nomatch h
  | qtailWrite _ _ => exact fun _ _ _ h => nomatch h
  | contextCreate _ => exact fun _ _ _ h => nomatch h
  | contextDestroy _ => exact fun _ _ _ h => nomatch h
  | contextHold _ => exact fun _ _ _ h => nomatch h
  | contextRelease _ => exact fun _ _ _ h => nomatch h
  | unserviceable _ => exact fun _ _ _ h => nomatch h
  | invalidate _ => exact fun _ _ _ h => nomatch h
  | debugWrite _ => exact fun _ _ _ h => nomatch h
  | replayEnable _ => exact fun _ _ _ h => nomatch h
  | resetGeneration _ => exact fun _ _ _ h => nomatch h
  | replayIntervalStart _ => exact fun _ _ _ h => nomatch h
  | replayRun _ _ _ _ => exact fun _ _ _ h => nomatch h
  | traceSampleTick _ => exact fun _ _ _ h => nomatch h
  | readPacket _ => exact fun _ _ _ h => nomatch h
  | readData _ => exact fun _ _ _ h => nomatch h
  | writePacket _ => exact fun _ _ _ h => nomatch h
  | maskedWrite _ => exact fun _ _ _ h => nomatch h
  | atomicPacket _ => exact fun _ _ _ h => nomatch h
  | atomicResult _ => exact fun _ _ _ h => nomatch h
  | writeAcknowledgment _ => exact fun _ _ _ h => nomatch h
  | refusal _ => exact fun _ _ _ h => nomatch h
  | retryAfterResend _ => exact fun _ _ _ h => nomatch h
  | invalidatePacket _ => exact fun _ _ _ h => nomatch h
  | invalidateAcknowledgment _ => exact fun _ _ _ h => nomatch h
  | messagePacket _ => exact fun _ _ _ h => nomatch h
  | messageAcknowledgment _ => exact fun _ _ _ h => nomatch h
  | emittedPacket _ => exact fun _ _ _ h => nomatch h
  | managementPacket _ => exact fun _ _ _ h => nomatch h
  | heldMessageRetry _ _ => exact fun _ _ _ h => nomatch h
  | linkReplay _ _ => exact fun _ _ _ h => nomatch h
  | portRetire _ => exact fun _ _ _ h => nomatch h
  | planeDead _ => exact fun _ _ _ h => nomatch h
  | planeMapChange _ => exact fun _ _ _ h => nomatch h
  | lostPacketResend _ _ => exact fun _ _ _ h => nomatch h
  | packageUnreachable _ => exact fun _ _ _ h => nomatch h
  | boxPacketRun _ => exact fun _ _ _ h => nomatch h
  | boxAdd _ => exact fun _ _ _ h => nomatch h
  | boxSub _ => exact fun _ _ _ h => nomatch h
  | boxMul _ => exact fun _ _ _ h => nomatch h
  | boxMin _ => exact fun _ _ _ h => nomatch h
  | boxMax _ => exact fun _ _ _ h => nomatch h
  | boxAnd _ => exact fun _ _ _ h => nomatch h
  | boxOr _ => exact fun _ _ _ h => nomatch h
  | boxXor _ => exact fun _ _ _ h => nomatch h
  | boxShl _ => exact fun _ _ _ h => nomatch h
  | boxShr _ => exact fun _ _ _ h => nomatch h
  | boxCmp _ => exact fun _ _ _ h => nomatch h
  | boxSel _ => exact fun _ _ _ h => nomatch h
  | boxAddi _ => exact fun _ _ _ h => nomatch h
  | boxLdi _ => exact fun _ _ _ h => nomatch h
  | boxLdiH _ => exact fun _ _ _ h => nomatch h
  | boxGetl _ => exact fun _ _ _ h => nomatch h
  | boxSetl _ => exact fun _ _ _ h => nomatch h
  | boxPld _ => exact fun _ _ _ h => nomatch h
  | boxPst _ => exact fun _ _ _ h => nomatch h
  | boxFldVector _ => exact fun _ _ _ h => nomatch h
  | boxFldScalar _ => exact fun _ _ _ h => nomatch h
  | boxFstVector _ => exact fun _ _ _ h => nomatch h
  | boxFstScalar _ => exact fun _ _ _ h => nomatch h
  | boxFinc _ => exact fun _ _ _ h => nomatch h
  | boxHrd _ => exact fun _ _ _ h => nomatch h
  | boxHwr _ => exact fun _ _ _ h => nomatch h
  | boxQordaTrap _ => exact fun _ _ _ h => nomatch h
  | boxEmit _ => exact fun _ _ _ h => nomatch h
  | boxPass _ => exact fun _ _ _ h => nomatch h
  | boxDrop _ => exact fun _ _ _ h => nomatch h
  | boxBr _ => exact fun _ _ _ h => nomatch h
  | boxRep _ => exact fun _ _ _ h => nomatch h
  | pseudoChannelDrop _ => exact fun _ _ _ h => nomatch h
  | patrolRead _ _ _ _ => exact fun _ _ _ h => nomatch h
  | ecsCountRead _ _ _ => exact fun _ _ _ h => nomatch h
  | powerEpoch _ _ _ => exact fun _ _ _ h => nomatch h
  | thermalTrip _ => exact fun _ _ _ h => nomatch h
  | counterReprogram _ _ => exact fun _ _ _ h => nomatch h
  | timeSeriesTick => exact fun _ _ _ h => nomatch h
  | linkEyeUpdate _ _ => exact fun _ _ _ h => nomatch h
  | fieldTestRequest _ => exact fun _ _ _ h => nomatch h
  | fieldTestInterval => exact fun _ _ _ h => nomatch h
  | fieldTestRun => exact fun _ _ _ h => nomatch h
  | fieldTestComplete _ _ => exact fun _ _ _ h => nomatch h
  | deviceReset => exact fun _ _ _ h => nomatch h
  | functionReady _ => exact fun _ _ _ h => nomatch h
  | firmwareUpdate _ => exact fun _ _ _ h => nomatch h
  | attestationRequest _ => exact fun _ _ _ h => nomatch h
  | hostWindowAccess _ _ _ => exact fun _ _ _ h => nomatch h
  | registerWrite _ _ => exact fun _ _ _ h => nomatch h
  | storePerformed _ _ _ => exact fun _ _ _ h => nomatch h
  | linkRetrain _ _ _ => exact fun _ _ _ h => nomatch h

/-! ## Words of the signal boxes -/

theorem qr_op {q : Nat} (hq : q < 64) (f : QR) : (q * 2 ^ 26 + encQR f) / 2 ^ 26 % 64 = q ∧ q * 2 ^ 26 + encQR f < 2 ^ 32 := by
  have h1 := f.d.isLt; have h2 := f.a.isLt; have h3 := f.b.isLt; have h4 := f.c.isLt; have h5 := b2n_lt f.s; have h6 := b2n_lt f.bs
  have h7 := f.ty.isLt; have h8 := b2n_lt f.ck; have h9 := f.cond.isLt
  simp only [encQR]; omega

theorem qi_op {q : Nat} (hq : q < 64) (f : QI) : (q * 2 ^ 26 + encQI f) / 2 ^ 26 % 64 = q ∧ q * 2 ^ 26 + encQI f < 2 ^ 32 := by
  have h1 := f.d.isLt; have h2 := f.a.isLt; have h3 := b2n_lt f.s; have h4 := b2n_lt f.x; have h5 := f.imm.isLt
  simp only [encQI]; omega

theorem qb_op {q : Nat} (hq : q < 64) (f : QB) : (q * 2 ^ 26 + encQB f) / 2 ^ 26 % 64 = q ∧ q * 2 ^ 26 + encQB f < 2 ^ 32 := by
  have h1 := f.cond.isLt; have h2 := f.a.isLt; have h3 := f.b.isLt; have h4 := f.off.isLt
  simp only [encQB]; omega

/-- What the word of a Qorda instruction holds: its form's opcode, and nothing in the bits that the format leaves zero (R438). -/
def HasWord (i : Instr) (w : Nat) : Prop :=
  decodeBoxForm w = some i ∧ w < 2 ^ 32 ∧ (boxRawChecks w).all (fun c => c.2) = true

theorem qr_word {q : Nat} (hq : q < 16) {f : QR} {i : Instr}
    (hb : (q * 2 ^ 26 + encQR f) / 2 ^ 26 % 64 = q → decodeBoxForm (q * 2 ^ 26 + encQR f) = some i) : HasWord i (q * 2 ^ 26 + encQR f) := by
  have h := qr_op (by omega : q < 64) f
  refine ⟨hb h.1, h.2, ?_⟩
  rw [boxRawChecks, h.1, if_pos (by omega), List.all_cons, List.all_nil, Bool.and_true]
  have h7 := f.ty.isLt
  exact decide_eq_true (by simp only [encQR]; omega)

theorem qi_word {q : Nat} (hq : 16 ≤ q) (hq' : q < 32) {f : QI} {i : Instr}
    (hb : (q * 2 ^ 26 + encQI f) / 2 ^ 26 % 64 = q → decodeBoxForm (q * 2 ^ 26 + encQI f) = some i) : HasWord i (q * 2 ^ 26 + encQI f) := by
  have h := qi_op (by omega : q < 64) f
  refine ⟨hb h.1, h.2, ?_⟩
  rw [boxRawChecks, h.1, if_neg (by omega), if_neg (by omega)]
  rfl

theorem qb_word {q : Nat} (hq : 32 ≤ q) (hq' : q < 64) {f : QB} {i : Instr}
    (hb : (q * 2 ^ 26 + encQB f) / 2 ^ 26 % 64 = q → decodeBoxForm (q * 2 ^ 26 + encQB f) = some i) : HasWord i (q * 2 ^ 26 + encQB f) := by
  have h := qb_op (by omega : q < 64) f
  refine ⟨hb h.1, h.2, ?_⟩
  rw [boxRawChecks, h.1, if_neg (by omega), if_pos (by omega), List.all_cons, List.all_nil, Bool.and_true]
  have h1 := f.off.isLt
  exact decide_eq_true (by simp only [encQB]; omega)

theorem first_ok {i : Instr} {k : Nat} {b : Bool} {r : List Check} (h : i.wf = true) (hc : checks i = (k, b) :: r) : b = true := by
  rw [Instr.wf, hc, List.all_cons, Bool.and_eq_true] at h
  exact h.1

theorem not_first {i : Instr} {k : Nat} {b : Bool} {r : List Check} (h : i.wf = true) (hc : checks i = (k, !b) :: r) : b = false := by
  have := first_ok h hc
  cases b
  · rfl
  · cases this

theorem third_ok {i : Instr} {k : Nat} {b : Bool} {x y : Check} {r : List Check} (h : i.wf = true) (hc : checks i = x :: y :: (k, b) :: r) :
    b = true := by
  rw [Instr.wf, hc, List.all_cons, List.all_cons, List.all_cons, Bool.and_eq_true, Bool.and_eq_true, Bool.and_eq_true] at h
  exact h.2.2.1

theorem bit16 (q : Nat) (f : QI) : bitAt (q * 2 ^ 26 + encQI f) 16 = f.x := congrArg QI.x (decQI_enc q f)

theorem bit25 (q : Nat) (f : QI) : bitAt (q * 2 ^ 26 + encQI f) 25 = f.s := congrArg QI.s (decQI_enc q f)

theorem hasWord (i : Instr) : ∀ w : Nat, boxCode i = some w → i.wf = true → HasWord i w := by
  cases i with
  | sadd _ => exact fun _ h => nomatch h
  | ssub _ => exact fun _ h => nomatch h
  | smul _ => exact fun _ h => nomatch h
  | smulhs _ => exact fun _ h => nomatch h
  | smulhu _ => exact fun _ h => nomatch h
  | sdivs _ => exact fun _ h => nomatch h
  | sdivu _ => exact fun _ h => nomatch h
  | srems _ => exact fun _ h => nomatch h
  | sremu _ => exact fun _ h => nomatch h
  | sand _ => exact fun _ h => nomatch h
  | sor _ => exact fun _ h => nomatch h
  | sxor _ => exact fun _ h => nomatch h
  | sandn _ => exact fun _ h => nomatch h
  | sshl _ => exact fun _ h => nomatch h
  | sshr _ => exact fun _ h => nomatch h
  | ssra _ => exact fun _ h => nomatch h
  | smins _ => exact fun _ h => nomatch h
  | smaxs _ => exact fun _ h => nomatch h
  | sminu _ => exact fun _ h => nomatch h
  | smaxu _ => exact fun _ h => nomatch h
  | sslts _ => exact fun _ h => nomatch h
  | ssltu _ => exact fun _ h => nomatch h
  | sseq _ => exact fun _ h => nomatch h
  | sclz _ => exact fun _ h => nomatch h
  | spopc _ => exact fun _ h => nomatch h
  | sext _ => exact fun _ h => nomatch h
  | zext _ => exact fun _ h => nomatch h
  | saddi _ => exact fun _ h => nomatch h
  | sandi _ => exact fun _ h => nomatch h
  | sori _ => exact fun _ h => nomatch h
  | sxori _ => exact fun _ h => nomatch h
  | sshli _ => exact fun _ h => nomatch h
  | sshri _ => exact fun _ h => nomatch h
  | ssrai _ => exact fun _ h => nomatch h
  | sslti _ => exact fun _ h => nomatch h
  | sli _ => exact fun _ h => nomatch h
  | slih _ => exact fun _ h => nomatch h
  | saddl _ => exact fun _ h => nomatch h
  | slea _ => exact fun _ h => nomatch h
  | sld _ => exact fun _ h => nomatch h
  | sst _ => exact fun _ h => nomatch h
  | satom _ => exact fun _ h => nomatch h
  | scas _ => exact fun _ h => nomatch h
  | sprf _ => exact fun _ h => nomatch h
  | b _ => exact fun _ h => nomatch h
  | call _ => exact fun _ h => nomatch h
  | ret _ => exact fun _ h => nomatch h
  | jr _ => exact fun _ h => nomatch h
  | beq _ => exact fun _ h => nomatch h
  | bne _ => exact fun _ h => nomatch h
  | blts _ => exact fun _ h => nomatch h
  | bges _ => exact fun _ h => nomatch h
  | bltu _ => exact fun _ h => nomatch h
  | bgeu _ => exact fun _ h => nomatch h
  | loop _ => exact fun _ h => nomatch h
  | lane _ => exact fun _ h => nomatch h
  | lwait _ => exact fun _ h => nomatch h
  | recv _ => exact fun _ h => nomatch h
  | srs _ => exact fun _ h => nomatch h
  | sws _ => exact fun _ h => nomatch h
  | vadd _ => exact fun _ h => nomatch h
  | vsub _ => exact fun _ h => nomatch h
  | vmul _ => exact fun _ h => nomatch h
  | vmulh _ => exact fun _ h => nomatch h
  | vmad _ => exact fun _ h => nomatch h
  | vand _ => exact fun _ h => nomatch h
  | vor _ => exact fun _ h => nomatch h
  | vxor _ => exact fun _ h => nomatch h
  | vshl _ => exact fun _ h => nomatch h
  | vshr _ => exact fun _ h => nomatch h
  | vsra _ => exact fun _ h => nomatch h
  | vmin _ => exact fun _ h => nomatch h
  | vmax _ => exact fun _ h => nomatch h
  | vabs _ => exact fun _ h => nomatch h
  | vneg _ => exact fun _ h => nomatch h
  | vclz _ => exact fun _ h => nomatch h
  | vpopc _ => exact fun _ h => nomatch h
  | vbfe _ => exact fun _ h => nomatch h
  | vbfi _ => exact fun _ h => nomatch h
  | vadds _ => exact fun _ h => nomatch h
  | vsubs _ => exact fun _ h => nomatch h
  | vdot4 _ => exact fun _ h => nomatch h
  | vcmp _ => exact fun _ h => nomatch h
  | vsel _ => exact fun _ h => nomatch h
  | clog _ => exact fun _ h => nomatch h
  | vfadd _ => exact fun _ h => nomatch h
  | vfsub _ => exact fun _ h => nomatch h
  | vfmul _ => exact fun _ h => nomatch h
  | vfma _ => exact fun _ h => nomatch h
  | vfmin _ => exact fun _ h => nomatch h
  | vfmax _ => exact fun _ h => nomatch h
  | vrcp _ => exact fun _ h => nomatch h
  | vrsq _ => exact fun _ h => nomatch h
  | vexp2 _ => exact fun _ h => nomatch h
  | vlog2 _ => exact fun _ h => nomatch h
  | vsinp _ => exact fun _ h => nomatch h
  | vcosp _ => exact fun _ h => nomatch h
  | vtanh _ => exact fun _ h => nomatch h
  | vcvt _ => exact fun _ h => nomatch h
  | vqnt _ => exact fun _ h => nomatch h
  | vpal _ => exact fun _ h => nomatch h
  | vunpal _ => exact fun _ h => nomatch h
  | vpack _ => exact fun _ h => nomatch h
  | vunpk _ => exact fun _ h => nomatch h
  | vmov _ => exact fun _ h => nomatch h
  | vshuf _ => exact fun _ h => nomatch h
  | vbcast _ => exact fun _ h => nomatch h
  | vidx _ => exact fun _ h => nomatch h
  | vtos _ => exact fun _ h => nomatch h
  | vscan _ => exact fun _ h => nomatch h
  | vballot _ => exact fun _ h => nomatch h
  | ixset _ => exact fun _ h => nomatch h
  | adset _ => exact fun _ h => nomatch h
  | qmov _ => exact fun _ h => nomatch h
  | qadd _ => exact fun _ h => nomatch h
  | qsub _ => exact fun _ h => nomatch h
  | qand _ => exact fun _ h => nomatch h
  | qor _ => exact fun _ h => nomatch h
  | qxor _ => exact fun _ h => nomatch h
  | qshl _ => exact fun _ h => nomatch h
  | qshr _ => exact fun _ h => nomatch h
  | qli _ => exact fun _ h => nomatch h
  | vtoq _ => exact fun _ h => nomatch h
  | vld _ => exact fun _ h => nomatch h
  | vst _ => exact fun _ h => nomatch h
  | vatom _ => exact fun _ h => nomatch h
  | vcas _ => exact fun _ h => nomatch h
  | vldt _ => exact fun _ h => nomatch h
  | vstt _ => exact fun _ h => nomatch h
  | vste _ => exact fun _ h => nomatch h
  | vprf _ => exact fun _ h => nomatch h
  | vlda _ => exact fun _ h => nomatch h
  | vsta _ => exact fun _ h => nomatch h
  | brv _ => exact fun _ h => nomatch h
  | jmpv _ => exact fun _ h => nomatch h
  | callv _ => exact fun _ h => nomatch h
  | retv _ => exact fun _ h => nomatch h
  | regang _ => exact fun _ h => nomatch h
  | lend _ => exact fun _ h => nomatch h
  | sigv _ => exact fun _ h => nomatch h
  | brkv _ => exact fun _ h => nomatch h
  | trapv _ => exact fun _ h => nomatch h
  | nopv _ => exact fun _ h => nomatch h
  | tdef _ => exact fun _ h => nomatch h
  | tinv _ => exact fun _ h => nomatch h
  | ctload _ => exact fun _ h => nomatch h
  | palld _ => exact fun _ h => nomatch h
  | gangset _ => exact fun _ h => nomatch h
  | mclr _ => exact fun _ h => nomatch h
  | mtab _ => exact fun _ h => nomatch h
  | mlut _ => exact fun _ h => nomatch h
  | mlutg _ => exact fun _ h => nomatch h
  | mxpq _ => exact fun _ h => nomatch h
  | mout _ => exact fun _ h => nomatch h
  | tbdrop _ => exact fun _ h => nomatch h
  | mbatch _ => exact fun _ h => nomatch h
  | mwait _ => exact fun _ h => nomatch h
  | mtest _ => exact fun _ h => nomatch h
  | cpt _ => exact fun _ h => nomatch h
  | cpg _ => exact fun _ h => nomatch h
  | cps _ => exact fun _ h => nomatch h
  | cpb _ => exact fun _ h => nomatch h
  | cpmc _ => exact fun _ h => nomatch h
  | send _ => exact fun _ h => nomatch h
  | chpost _ => exact fun _ h => nomatch h
  | chpoll _ => exact fun _ h => nomatch h
  | fence _ => exact fun _ h => nomatch h
  | fenceo _ => exact fun _ h => nomatch h
  | fencea _ => exact fun _ h => nomatch h
  | bar _ => exact fun _ h => nomatch h
  | step _ => exact fun _ h => nomatch h
  | sig _ => exact fun _ h => nomatch h
  | hbeat _ => exact fun _ h => nomatch h
  | yield _ => exact fun _ h => nomatch h
  | waitev _ => exact fun _ h => nomatch h
  | qput _ => exact fun _ h => nomatch h
  | trap _ => exact fun _ h => nomatch h
  | exit _ => exact fun _ h => nomatch h
  | brk _ => exact fun _ h => nomatch h
  | nop _ => exact fun _ h => nomatch h
  | dtload _ => exact fun _ h => nomatch h
  | capset _ => exact fun _ h => nomatch h
  | sbload _ => exact fun _ h => nomatch h
  | sbflow _ => exact fun _ h => nomatch h
  | windowWriteAccept _ => exact fun _ h => nomatch h
  | loadDataReturn _ _ _ _ => exact fun _ h => nomatch h
  | recvFill _ => exact fun _ h => nomatch h
  | lwaitComplete _ => exact fun _ h => nomatch h
  | mwaitComplete _ => exact fun _ h => nomatch h
  | fenceaComplete _ => exact fun _ h => nomatch h
  | barrierComplete _ _ _ => exact fun _ h => nomatch h
  | waitevWake _ => exact fun _ h => nomatch h
  | laneBlockStart _ => exact fun _ h => nomatch h
  | waveClear _ _ => exact fun _ h => nomatch h
  | mclrExecute _ => exact fun _ h => nomatch h
  | mtabExecute _ => exact fun _ h => nomatch h
  | mlutExecute _ => exact fun _ h => nomatch h
  | mlutgLatchComplete _ => exact fun _ h => nomatch h
  | mxpqExecute _ => exact fun _ h => nomatch h
  | moutExecute _ => exact fun _ h => nomatch h
  | tbdropExecute _ => exact fun _ h => nomatch h
  | copyUnit _ _ => exact fun _ h => nomatch h
  | cpmcComplete _ _ => exact fun _ h => nomatch h
  | sendInject _ _ => exact fun _ h => nomatch h
  | encoderTileWrite _ => exact fun _ h => nomatch h
  | logReplay _ _ => exact fun _ h => nomatch h
  | walkerMonitorWake _ => exact fun _ h => nomatch h
  | walkerRewalkTimer _ _ => exact fun _ h => nomatch h
  | faultRecordHeldWrite _ => exact fun _ h => nomatch h
  | snapshotPageCopy _ _ => exact fun _ h => nomatch h
  | launchTake => exact fun _ h => nomatch h
  | cpMemoryRetry _ => exact fun _ h => nomatch h
  | waitEventSatisfied _ => exact fun _ h => nomatch h
  | teamPlace => exact fun _ h => nomatch h
  | teamRetire _ => exact fun _ h => nomatch h
  | splitChange _ => exact fun _ h => nomatch h
  | teamSave _ => exact fun _ h => nomatch h
  | teamRestore _ => exact fun _ h => nomatch h
  | launchComplete _ => exact fun _ h => nomatch h
  | watchdogFire _ => exact fun _ h => nomatch h
  | launchKill _ => exact fun _ h => nomatch h
  | launchRollback _ => exact fun _ h => nomatch h
  | qtailWrite _ _ => exact fun _ h => nomatch h
  | contextCreate _ => exact fun _ h => nomatch h
  | contextDestroy _ => exact fun _ h => nomatch h
  | contextHold _ => exact fun _ h => nomatch h
  | contextRelease _ => exact fun _ h => nomatch h
  | unserviceable _ => exact fun _ h => nomatch h
  | invalidate _ => exact fun _ h => nomatch h
  | debugWrite _ => exact fun _ h => nomatch h
  | replayEnable _ => exact fun _ h => nomatch h
  | resetGeneration _ => exact fun _ h => nomatch h
  | replayIntervalStart _ => exact fun _ h => nomatch h
  | replayRun _ _ _ _ => exact fun _ h => nomatch h
  | traceSampleTick _ => exact fun _ h => nomatch h
  | readPacket _ => exact fun _ h => nomatch h
  | readData _ => exact fun _ h => nomatch h
  | writePacket _ => exact fun _ h => nomatch h
  | maskedWrite _ => exact fun _ h => nomatch h
  | atomicPacket _ => exact fun _ h => nomatch h
  | atomicResult _ => exact fun _ h => nomatch h
  | writeAcknowledgment _ => exact fun _ h => nomatch h
  | refusal _ => exact fun _ h => nomatch h
  | retryAfterResend _ => exact fun _ h => nomatch h
  | invalidatePacket _ => exact fun _ h => nomatch h
  | invalidateAcknowledgment _ => exact fun _ h => nomatch h
  | messagePacket _ => exact fun _ h => nomatch h
  | messageAcknowledgment _ => exact fun _ h => nomatch h
  | emittedPacket _ => exact fun _ h => nomatch h
  | managementPacket _ => exact fun _ h => nomatch h
  | heldMessageRetry _ _ => exact fun _ h => nomatch h
  | linkReplay _ _ => exact fun _ h => nomatch h
  | portRetire _ => exact fun _ h => nomatch h
  | planeDead _ => exact fun _ h => nomatch h
  | planeMapChange _ => exact fun _ h => nomatch h
  | lostPacketResend _ _ => exact fun _ h => nomatch h
  | packageUnreachable _ => exact fun _ h => nomatch h
  | boxPacketRun _ => exact fun _ h => nomatch h
  | boxAdd f => exact fun w h _ => Option.some.inj h ▸ qr_word (by decide) (fun hq => by simp only [decodeBoxForm, hq, decQR_enc])
  | boxSub f => exact fun w h _ => Option.some.inj h ▸ qr_word (by decide) (fun hq => by simp only [decodeBoxForm, hq, decQR_enc])
  | boxMul f => exact fun w h _ => Option.some.inj h ▸ qr_word (by decide) (fun hq => by simp only [decodeBoxForm, hq, decQR_enc])
  | boxMin f => exact fun w h _ => Option.some.inj h ▸ qr_word (by decide) (fun hq => by simp only [decodeBoxForm, hq, decQR_enc])
  | boxMax f => exact fun w h _ => Option.some.inj h ▸ qr_word (by decide) (fun hq => by simp only [decodeBoxForm, hq, decQR_enc])
  | boxAnd f => exact fun w h _ => Option.some.inj h ▸ qr_word (by decide) (fun hq => by simp only [decodeBoxForm, hq, decQR_enc])
  | boxOr f => exact fun w h _ => Option.some.inj h ▸ qr_word (by decide) (fun hq => by simp only [decodeBoxForm, hq, decQR_enc])
  | boxXor f => exact fun w h _ => Option.some.inj h ▸ qr_word (by decide) (fun hq => by simp only [decodeBoxForm, hq, decQR_enc])
  | boxShl f => exact fun w h _ => Option.some.inj h ▸ qr_word (by decide) (fun hq => by simp only [decodeBoxForm, hq, decQR_enc])
  | boxShr f => exact fun w h _ => Option.some.inj h ▸ qr_word (by decide) (fun hq => by simp only [decodeBoxForm, hq, decQR_enc])
  | boxCmp f => exact fun w h _ => Option.some.inj h ▸ qr_word (by decide) (fun hq => by simp only [decodeBoxForm, hq, decQR_enc])
  | boxSel f => exact fun w h _ => Option.some.inj h ▸ qr_word (by decide) (fun hq => by simp only [decodeBoxForm, hq, decQR_enc])
  | boxAddi f => exact fun w h _ => Option.some.inj h ▸ qi_word (by decide) (by decide) (fun hq => by simp only [decodeBoxForm, hq, decQI_enc])
  | boxLdi f =>
    intro w h hw
    obtain rfl := Option.some.inj h
    exact qi_word (by decide) (by decide) (fun hq => by simp only [decodeBoxForm, hq, decQI_enc, (bit16 _ f).trans (not_first hw rfl), Bool.false_eq_true, if_false])
  | boxLdiH f =>
    intro w h hw
    obtain rfl := Option.some.inj h
    exact qi_word (by decide) (by decide) (fun hq => by simp only [decodeBoxForm, hq, decQI_enc, (bit16 _ f).trans (first_ok hw rfl), if_true])
  | boxGetl f => exact fun w h _ => Option.some.inj h ▸ qi_word (by decide) (by decide) (fun hq => by simp only [decodeBoxForm, hq, decQI_enc])
  | boxSetl f => exact fun w h _ => Option.some.inj h ▸ qi_word (by decide) (by decide) (fun hq => by simp only [decodeBoxForm, hq, decQI_enc])
  | boxPld f => exact fun w h _ => Option.some.inj h ▸ qi_word (by decide) (by decide) (fun hq => by simp only [decodeBoxForm, hq, decQI_enc])
  | boxPst f => exact fun w h _ => Option.some.inj h ▸ qi_word (by decide) (by decide) (fun hq => by simp only [decodeBoxForm, hq, decQI_enc])
  | boxFldVector f =>
    intro w h hw
    obtain rfl := Option.some.inj h
    exact qi_word (by decide) (by decide) (fun hq => by simp only [decodeBoxForm, hq, decQI_enc, (bit25 _ f).trans (eq_of_beq (third_ok hw rfl)), Bool.false_eq_true, if_false])
  | boxFldScalar f =>
    intro w h hw
    obtain rfl := Option.some.inj h
    exact qi_word (by decide) (by decide) (fun hq => by simp only [decodeBoxForm, hq, decQI_enc, (bit25 _ f).trans (eq_of_beq (third_ok hw rfl)), if_true])
  | boxFstVector f =>
    intro w h hw
    obtain rfl := Option.some.inj h
    exact qi_word (by decide) (by decide) (fun hq => by simp only [decodeBoxForm, hq, decQI_enc, (bit25 _ f).trans (eq_of_beq (third_ok hw rfl)), Bool.false_eq_true, if_false])
  | boxFstScalar f =>
    intro w h hw
    obtain rfl := Option.some.inj h
    exact qi_word (by decide) (by decide) (fun hq => by simp only [decodeBoxForm, hq, decQI_enc, (bit25 _ f).trans (eq_of_beq (third_ok hw rfl)), if_true])
  | boxFinc f => exact fun w h _ => Option.some.inj h ▸ qi_word (by decide) (by decide) (fun hq => by simp only [decodeBoxForm, hq, decQI_enc])
  | boxHrd f => exact fun w h _ => Option.some.inj h ▸ qi_word (by decide) (by decide) (fun hq => by simp only [decodeBoxForm, hq, decQI_enc])
  | boxHwr f => exact fun w h _ => Option.some.inj h ▸ qi_word (by decide) (by decide) (fun hq => by simp only [decodeBoxForm, hq, decQI_enc])
  | boxQordaTrap f => exact fun w h _ => Option.some.inj h ▸ qi_word (by decide) (by decide) (fun hq => by simp only [decodeBoxForm, hq, decQI_enc])
  | boxEmit f => exact fun w h _ => Option.some.inj h ▸ qi_word (by decide) (by decide) (fun hq => by simp only [decodeBoxForm, hq, decQI_enc])
  | boxPass f => exact fun w h _ => Option.some.inj h ▸ qi_word (by decide) (by decide) (fun hq => by simp only [decodeBoxForm, hq, decQI_enc])
  | boxDrop f => exact fun w h _ => Option.some.inj h ▸ qi_word (by decide) (by decide) (fun hq => by simp only [decodeBoxForm, hq, decQI_enc])
  | boxBr f => exact fun w h _ => Option.some.inj h ▸ qb_word (by decide) (by decide) (fun hq => by simp only [decodeBoxForm, hq, decQB_enc])
  | boxRep f => exact fun w h _ => Option.some.inj h ▸ qb_word (by decide) (by decide) (fun hq => by simp only [decodeBoxForm, hq, decQB_enc])
  | pseudoChannelDrop _ => exact fun _ h => nomatch h
  | patrolRead _ _ _ _ => exact fun _ h => nomatch h
  | ecsCountRead _ _ _ => exact fun _ h => nomatch h
  | powerEpoch _ _ _ => exact fun _ h => nomatch h
  | thermalTrip _ => exact fun _ h => nomatch h
  | counterReprogram _ _ => exact fun _ h => nomatch h
  | timeSeriesTick => exact fun _ h => nomatch h
  | linkEyeUpdate _ _ => exact fun _ h => nomatch h
  | fieldTestRequest _ => exact fun _ h => nomatch h
  | fieldTestInterval => exact fun _ h => nomatch h
  | fieldTestRun => exact fun _ h => nomatch h
  | fieldTestComplete _ _ => exact fun _ h => nomatch h
  | deviceReset => exact fun _ h => nomatch h
  | functionReady _ => exact fun _ h => nomatch h
  | firmwareUpdate _ => exact fun _ h => nomatch h
  | attestationRequest _ => exact fun _ h => nomatch h
  | hostWindowAccess _ _ _ => exact fun _ h => nomatch h
  | registerWrite _ _ => exact fun _ h => nomatch h
  | storePerformed _ _ _ => exact fun _ h => nomatch h
  | linkRetrain _ _ _ => exact fun _ h => nomatch h

end Sys2Proof.Laws
end

