-- ==== Sys2Proof/Tests/Slice0.lean ====
section
/-! SUPPORT. The model's own tests: words written from the spec's encodings, an ill-formed word for each kind of check, a few results
worked out from the spec, and, for every statement that has hypotheses, a state and operands that meet them. -/

namespace Sys2Proof.Tests

open Sys2Proof.Machine

set_option Elab.async false

/-! ## Small states -/

/-- One wave's control stream about to execute at 0x4000, with bytes at a physical address. -/
def ctl (w : Wave) (a : Nat := 0x9000) (bs : List Byte := []) : State :=
  let s := placed State.reset w 0 12 (.scalar 0)
  { s with actor := .control 0, mem := cellsWrite memDefault s.mem a bs }

/-- The wave with s registers written. -/
def regs (xs : List (Nat × Nat)) (w : Wave := placedControl) : Wave := xs.foldl (fun w p => writeS p.1 (BitVec.ofNat 64 p.2) w) w

/-- An s register after an instruction. -/
def sAfter (n : Nat) (o : Out) : Option Nat :=
  match o with | .next t => (getWave t 0).map (fun w => (sVal w n).toNat) | _ => none

/-- The control program counter after an instruction. -/
def pcAfter (o : Out) : Option Nat := match o with | .next t => (getWave t 0).map (fun w => w.pc.toNat) | _ => none

/-- The code and the detail of the fault record that an instruction has written at 0x10000. -/
def faultAfter (o : Out) : Option (Nat × Nat) :=
  match o with
  | .next t => let r := natOfBytes (readPhys t 0x10000 64); some (r % 256, r / 2 ^ 256 % 2 ^ 128)
  | _ => none

def c3 (d a b : Nat) : C3 := { d := BitVec.ofNat 6 d, a := BitVec.ofNat 6 a, b := BitVec.ofNat 6 b, ea := false, eb := false }
def ci (d a imm : Nat) : CI := { d := BitVec.ofNat 6 d, a := BitVec.ofNat 6 a, ea := false, imm := BitVec.ofNat 7 imm }
def cl (d a b lit : Nat) : CL :=
  { d := BitVec.ofNat 6 d, a := BitVec.ofNat 6 a, b := BitVec.ofNat 6 b, ea := false, eb := false, lit := BitVec.ofNat 32 lit }
def cb (a b off : Nat) : CB := { a := BitVec.ofNat 6 a, b := BitVec.ofNat 6 b, ea := false, eb := false, off := BitVec.ofNat 32 off }
def cm (d a b width : Nat) : CM :=
  { d := BitVec.ofNat 6 d, a := BitVec.ofNat 6 a, b := BitVec.ofNat 6 b, ea := false, eb := false, width := BitVec.ofNat 2 width, sx := false,
    scope := 0, order := 0, aop := 0, hint := 0, disp := 0 }
def ce (d a b c t aux opts : Nat) : CE :=
  { d := BitVec.ofNat 6 d, a := BitVec.ofNat 6 a, b := BitVec.ofNat 6 b, ea := false, eb := false, c := BitVec.ofNat 6 c, ec := false,
    t := BitVec.ofNat 6 t, aux := BitVec.ofNat 4 aux, opts := BitVec.ofNat 15 opts }

/-- Whether an instruction word can be fetched at an address. -/
def wordSeen (s : State) (x : Context) (addr w : Nat) : Bool :=
  decide (addr < 2 ^ 56) && match translate s x .fetch addr with
    | .to p => decide (placePoisoned s p 4 = false ∧ natOfBytes (readBase s p 4) = w)
    | _ => false

theorem word_of_seen {s : State} {x : Context} {addr w : Nat} (h : wordSeen s x addr w = true) : WordAt s x addr w := by
  unfold wordSeen at h
  simp only [Bool.and_eq_true, decide_eq_true_eq] at h
  obtain ⟨h1, h2⟩ := h
  split at h2
  · rename_i p e
    exact ⟨h1, p, e, by simpa using h2⟩
  · cases h2

/-! ## The control stream: results -/

/-- R100's example. -/
theorem test_sdivs_truncates : sAfter 3 (exec (.sdivs (c3 3 1 2)) (ctl (regs [(1, 2 ^ 64 - 7), (2, 2)]))) = some (2 ^ 64 - 3) := by decide +kernel
theorem test_srems_sign : sAfter 3 (exec (.srems (c3 3 1 2)) (ctl (regs [(1, 2 ^ 64 - 7), (2, 2)]))) = some (2 ^ 64 - 1) := by decide +kernel
theorem test_sdivu_unsigned : sAfter 3 (exec (.sdivu (c3 3 1 2)) (ctl (regs [(1, 2 ^ 64 - 7), (2, 2)]))) = some 0x7FFFFFFFFFFFFFFC := by
  decide +kernel
theorem test_sdivs_overflow : sAfter 3 (exec (.sdivs (c3 3 1 2)) (ctl (regs [(1, 2 ^ 63), (2, 2 ^ 64 - 1)]))) = some (2 ^ 63) := by
  decide +kernel
theorem test_smulhs_negative : sAfter 3 (exec (.smulhs (c3 3 1 2)) (ctl (regs [(1, 2 ^ 64 - 1), (2, 2)]))) = some (2 ^ 64 - 1) := by
  decide +kernel
theorem test_sshl_ignores_high_bits : sAfter 3 (exec (.sshl (c3 3 1 2)) (ctl (regs [(1, 5), (2, 65)]))) = some 10 := by decide +kernel
theorem test_source_is_destination : sAfter 1 (exec (.sadd (c3 1 1 1)) (ctl (regs [(1, 2 ^ 63 + 3)]))) = some 6 := by decide +kernel
theorem test_s63_discards : sAfter 63 (exec (.saddi (ci 63 1 5)) (ctl (regs [(1, 5)]))) = some 0 := by decide +kernel
theorem test_saddi_sign : sAfter 3 (exec (.saddi (ci 3 1 127)) (ctl (regs [(1, 5)]))) = some 4 := by decide +kernel
/-- R103's example: a scratchpad address in two literals. -/
theorem test_slih_keeps_low : sAfter 1 (exec (.slih (cl 1 1 0 0x01000000)) (ctl (regs [(1, 0x40)]))) = some 0x0100000000000040 := by
  decide +kernel
theorem test_empty_traps : faultAfter (exec (.sadd { c3 3 1 2 with ea := true }) (ctl (emptyS 1 placedControl))) = some (5, 2 ^ 96) := by
  decide +kernel

/-- The conditions of the results of the scalar instructions, for R100's edge cases, and for a register that is empty. -/
theorem witness_scalar_results :
    (let w := regs [(1, 2 ^ 63), (2, 2 ^ 64 - 1)]
     AtControl (ctl w) 0 w ∧ sFull w 1 = true ∧ sFull w 2 = true ∧ sFull w 3 = true ∧ sVal w 1 = BitVec.intMin 64
       ∧ sVal w 2 = BitVec.allOnes 64 ∧ (c3 3 1 2).a.toNat = 1)
    ∧ (let w := regs [(1, 1)]
       AtControl (ctl w) 0 w ∧ sFull w 1 = true ∧ sFull w 2 = true ∧ sVal w 2 = 0)
    ∧ (Instr.sclz (c3 3 1 0)).wf = true ∧ (ci 3 1 63).imm.toNat < 64 ∧ 64 ≤ (ci 3 1 64).imm.toNat ∧ (ci 3 1 0).imm.toNat = 0
    ∧ 0 < (ci 3 1 64).imm.toNat ∧ 64 < (ci 3 1 65).imm.toNat := by decide +kernel

/-- The three ways to wait on an empty register, the two traps, and a q register that waits for an s register. -/
theorem witness_scalar_empty :
    (let w := emptyS 1 placedControl
     AtControl (ctl w) 0 w ∧ (c3 3 1 2).ea = false ∧ sFull w 1 = false ∧ sFull w 3 = true ∧ (c3 3 2 1).eb = false
       ∧ sFull w (c3 1 2 2).d.toNat = false ∧ { c3 3 1 2 with ea := true }.ea = true ∧ sFull w 2 = true)
    ∧ (let w := { placedControl with qAwait := [(0, 5)] }
       (5 : Nat) ≠ 63 ∧ (0, 5) ∈ w.qAwait ∧ ∀ k, (1, k) ∈ w.qAwait → k ≠ 5) := by
  refine ⟨by decide +kernel, by decide, by decide, ?_⟩
  intro k h
  simp at h

/-- The frame's conditions, for both lists of instructions. -/
theorem witness_scalar_frame :
    (let w := regs [(1, 5), (2, 6)]
     AtControl (ctl w) 0 w ∧ sFull w 1 = true ∧ sFull w 2 = true ∧ sFull w 3 = true
       ∧ (∃ t, exec (.sadd (c3 3 1 2)) (ctl w) = .next t) ∧ ∃ t, exec (.sext (ci 3 1 8)) (ctl w) = .next t) := by
  refine ⟨by decide +kernel, by decide +kernel, by decide +kernel, by decide +kernel, ⟨_, rfl⟩, ⟨_, rfl⟩⟩

/-- A shift by 64 places and a field of 0 and of 65 bits, each as the word that the wave fetches. -/
theorem witness_scalar_fields : ∀ p ∈ [(0x024, 64), (0x01A, 0), (0x01B, 65)],
    (let v := 4 * p.1 + encCI (ci 3 1 p.2)
     let s := ctl placedControl 0x4000 (bytesOfNat 4 v)
     AtControl s 0 placedControl ∧ (launchOf s placedControl).isSome = true ∧ placedControl.decode = .map1
       ∧ (match ctxRec s placedControl with
          | some (_, x) => wordSeen (leaveYield s (.control 0)) x placedControl.pc.toNat v
          | none => false) = true) := by decide +kernel
theorem test_shift_count_refused : faultAfter (runActor (ctl placedControl 0x4000 (bytesOfNat 4 (4 * 0x024 + encCI (ci 3 1 64)))) (.control 0))
    = some (4, 4 * 0x024 + encCI (ci 3 1 64) + 25 * 2 ^ 32) := by decide +kernel

/-! ## Branches, memory, the lane interface, special registers -/

theorem test_b_backwards : pcAfter (exec (.b ⟨0xFFFFF⟩) (ctl placedControl)) = some 0x3FFC := by decide +kernel
theorem test_call_links : sAfter 62 (exec (.call ⟨2⟩) (ctl placedControl)) = some 0x4004 := by decide +kernel
theorem test_jr_misaligned : faultAfter (exec (.jr (c3 0 1 0)) (ctl (regs [(1, 0x4002)]))) = some (8, 0x4002) := by decide +kernel
theorem test_blts_signed : pcAfter (exec (.blts (cb 1 2 16)) (ctl (regs [(1, 2 ^ 64 - 1), (2, 0)]))) = some 0x4010 := by decide +kernel
theorem test_bltu_unsigned : pcAfter (exec (.bltu (cb 1 2 16)) (ctl (regs [(1, 2 ^ 64 - 1), (2, 0)]))) = some 0x4008 := by decide +kernel
theorem test_loop_ends : pcAfter (exec (.loop (cb 1 0 16)) (ctl (regs [(1, 1)]))) = some 0x4008 := by decide +kernel
theorem test_sld_empties : (match exec (.sld (cm 3 1 0 3)) (ctl (regs [(1, 0x9000)])) with
    | .next t => (getWave t 0).map (fun w => (sFull w 3, w.loads.length)) | _ => none) = some (false, 1) := by decide +kernel
theorem test_sld_misaligned : faultAfter (exec (.sld (cm 3 1 0 3)) (ctl (regs [(1, 0x9004)]))) = some (8, 0x9004) := by decide +kernel
theorem test_sld_returns : (match exec (.sld (cm 3 1 0 2)) (ctl (regs [(1, 0x9000)]) 0x9000 [1, 2, 3, 0x84]) with
    | .next t => sAfter 3 (exec (.loadDataReturn 0 0 1 false) t) | _ => none) = some 0x84030201 := by decide +kernel
theorem test_sws_reserved_mode : faultAfter (exec (.sws ⟨1, 0x013, false⟩) (ctl (regs [(1, 5)]))) =
    some (4, (4 * 0x059 + 2 ^ 12 + 0x013 * 2 ^ 18) + 12 * 2 ^ 32 + 2 ^ 39 + 5 * 2 ^ 64) := by decide +kernel
theorem test_srs_regalloc : sAfter 2 (exec (.srs ⟨2, 0x009, false⟩) (ctl placedControl)) = some 256 := by decide +kernel

/-- Every way a branch, a return and a loop can go. -/
theorem witness_branches :
    (let w := regs [(1, 0x4000), (2, 0x4002), (3, 1), (4, 2 ^ 64 - 1)]
     AtControl (ctl w) 0 w ∧ sFull w 62 = true ∧ sFull w 1 = true ∧ (sVal w 1).toNat % 4 = 0 ∧ (sVal w 2).toNat % 4 ≠ 0
       ∧ sVal w 1 = sVal w 1 ∧ sVal w 1 ≠ sVal w 2 ∧ (sVal w 4).toInt < (sVal w 1).toInt ∧ (sVal w 1).toNat < (sVal w 4).toNat
       ∧ sVal w 3 = 1 ∧ sVal w 1 ≠ 1) := by decide +kernel

/-- An address that a load, a store and an atomic of eight bytes can reach, with a destination and with s63. -/
theorem witness_scalar_memory :
    (let w := regs [(1, 0x9000), (2, 7)]
     let s := ctl w
     AtControl s 0 w ∧ MemoryOpen w ∧ sFull w 1 = true ∧ sFull w 2 = true ∧ sFull w 3 = true ∧ sFull w 63 = true
       ∧ (sVal w 1 + (cm 3 1 2 3).disp.signExtend 64).toNat = 0x9000 ∧ logBlocks s w 0x9000 8 = false
       ∧ reachControl s w .read 0x9000 8 = .ok (.at (.glob 0x9000 1)) ∧ reachControl s w .write 0x9000 8 = .ok (.at (.glob 0x9000 1))
       ∧ reachControl s w .atomic 0x9000 8 = .ok (.at (.glob 0x9000 1))) := by decide +kernel

/-- A load by lane 0 of path 0 that waits for a page, as the operand log holds it. -/
def laneLogged : LogEntry :=
  { actor := .path 0 0, block := 0, path := 0, pc := 8, seq := 1, entry := 0x2010, mask := 1, va := 0x9000, awake := false,
    body := .access { kind := .load false, actor := .path 0 0, pc := 8, block := 0, seq := 1, width := 4, dest := .vregs, scope := 0, order := 0,
                      hint := 0, lanes := [{ lane := 0, addr := 0x9000, place := .glob 0 1, reg := 3, data := 0, cmp := 0 }] } }

/-- A lane queue with seven entries and with eight, an empty source, a logged access of a lane and none. -/
theorem witness_lane_interface :
    (let e : LaneEntry := { off := 0, srcs := [] }
     let w := { emptyS 2 placedControl with laneQueue := List.replicate 8 e, recvs := List.replicate 8 1 }
     let v := { placedControl with laneQueue := List.replicate 7 e, recvs := List.replicate 7 1 }
     AtControl (ctl w) 0 w ∧ ¬ w.laneQueue.length < 8 ∧ ¬ w.recvs.length < 8 ∧ sFull w 2 = false ∧ w.laneQueue ≠ []
       ∧ AtControl (ctl v) 0 v ∧ v.laneQueue.length < 8 ∧ v.recvs.length < 8 ∧ sFull v 1 = true
       ∧ (c3 3 0 0).d.toNat ≠ 2 ∧ sFull w 3 = true ∧ (∃ e ∈ { v with log := [laneLogged] }.log, isLaneActor e.actor = true)
       ∧ placedControl.laneQueue = [] ∧ placedControl.log = []) := by decide +kernel

/-- A special register that is read, one that is not listed, one that cannot be written, and the four that can. -/
theorem witness_special_registers :
    (let w := regs [(1, 4), (2, 5), (3, 0x100), (4, 0x101)]
     let s := ctl w
     AtControl s 0 w ∧ (launchOf s w).isSome = true ∧ (getTeam s w.team).isSome = true ∧ sFull w 1 = true
       ∧ ¬({ w with log := [laneLogged] }.laneQueue = [] ∧ ∀ e ∈ { w with log := [laneLogged] }.log, isLaneActor e.actor = false)
       ∧ special s 0 w 0x009 = some 256 ∧ special s 0 w 0x00E = none ∧ (special s 0 w 0x051).isSome = true
       ∧ (0x051 : BitVec 10) ∉ [0x010, 0x011, 0x013, 0x042] ∧ (special s 0 w 0x010).isSome = true ∧ (special s 0 w 0x011).isSome = true
       ∧ (special s 0 w 0x013).isSome = true ∧ (special s 0 w 0x042).isSome = true ∧ w.laneQueue = [] ∧ w.log = []
       ∧ (sVal w 1).toNat < 5 ∧ ¬ (sVal w 2).toNat < 5 ∧ (sVal w 3).toNat % 256 = 0 ∧ (sVal w 4).toNat % 256 ≠ 0) := by decide +kernel

/-! ## The lane stream -/

/-- Path 0 of one wave about to execute at offset 0 with the lanes of a mask active, in shadow mode or not, with bytes in memory. -/
def lane (m : Nat) (w : Wave) (shadow : Bool := false) (a : Nat := 0x9000) (bs : List Byte := []) : State :=
  let p := { rootPath 0 (launchMask shadow) with active := BitVec.ofNat 96 m }
  let u := { w with laneQueue := [{ off := 0, srcs := [] }], blockRunning := true, paths := [(0, p)] }
  let s := placed State.reset u 0 12 (.pipe 0 0)
  let l := { placedLaunch with e := { placedEntry with flags := if shadow then 2 else 0 } }
  { s with actor := .path 0 0, launches := [(1, l)], mem := cellsWrite memDefault s.mem a bs }

/-- What the executing instance brings; the dummy is never used where an instance executes. -/
def ctxAt (s : State) : LaneCtx :=
  (laneCtx s).getD { actor := .none, wid := 0, w := placedControl, owned := 0, act := 0, pc := 0, sig := 0, q12 := 0, q12Full := false,
                     shadow := false, alloc := 0, lanes := [] }

/-- The wave with v registers written: register, lane, value. -/
def vregs (xs : List (Nat × Nat × Nat)) (w : Wave := placedControl) : Wave :=
  xs.foldl (fun w p => writeV p.1 p.2.1 (BitVec.ofNat 32 p.2.2) w) w

/-- A v register of a lane after an instruction. -/
def vAfter (n l : Nat) (o : Out) : Option Nat :=
  match o with | .next t => (getWave t 0).map (fun w => (vVal w n l).toNat) | _ => none

/-- The SATF bits after an instruction. -/
def flagsAfter (o : Out) : Option Nat := match o with | .next t => (getWave t 0).map (fun w => w.satf.toNat) | _ => none

abbrev v3 (d a b c : Operand) (t m : Nat) : V3 :=
  { d := d, a := a, b := b, c := c, ea := false, eb := false, ec := false, t := BitVec.ofNat 4 t, m := BitVec.ofNat 3 m, w := false,
    sat := false, lit := none }

abbrev vt (d a b : Operand) (tid acc : Nat) : VT :=
  { d := d, a := a, b := b, tid := BitVec.ofNat 6 tid, mode := 0, hint := 0, ea := false, eb := false, ed := false, wreg := 0, base := 0,
    acc := BitVec.ofNat 9 acc, w := false, wsel := false, tq := false, aq := false, ew := false }

theorem test_vadd_packed : vAfter 3 50 (exec (.vadd (v3 (.v 3) (.v 1) (.v 2) (.v 0) 2 0)) (lane (1 + 2 ^ 50) (vregs [(1, 50, 0xFFFF0001), (2, 50, 0x0001FFFF)])))
    = some 0 := by decide +kernel

/-- Lanes 0 and 50 active, with v1, v2 and v3 full: an integer result, with every source form. -/
theorem witness_lane_integer :
    (let s := lane (1 + 2 ^ 50) (vregs [(1, 50, 0xFFFF0001), (2, 50, 0x0001FFFF)])
     let L := ctxAt s
     let f := v3 (.v 3) (.v 1) (.q 15) (.imm 5) 7 0
     AtLane s L ∧ L.lanes = [0, 50] ∧ OperandReady L L.lanes f.d ∧ OperandReady L L.lanes f.a ∧ OperandReady L L.lanes f.b
       ∧ OperandReady L L.lanes f.c ∧ f.t.toNat = 7 ∧ (v3 (.v 3) (.v 1) (.v 2) (.v 0) 2 0).t.toNat ≠ 7) := by decide +kernel

/-- The VDOT4 example of section 05. -/
theorem test_vdot4_saturates :
    (let o := exec (.vdot4 (v3 (.v 8) (.v 9) (.v 10) (.v 8) 4 0)) (lane 1 (vregs [(9, 0, 0x807F0102), (10, 0, 0x80FF0304), (8, 0, 0x7FFFF000)]))
     (vAfter 8 0 o, flagsAfter o)) = (some 0x7FFFFFFF, some 1) := by decide +kernel
theorem test_vbfe_cuts_at_32 : vAfter 3 0 (exec (.vbfe (v3 (.v 3) (.v 1) (.v 2) (.v 0) 0 0)) (lane 1 (vregs [(1, 0, 0x80000000), (2, 0, 0x101F)])))
    = some 0xFFFFFFFF := by decide +kernel
theorem test_inactive_lane_keeps : vAfter 3 1 (exec (.vmov (v3 (.v 3) (.v 1) (.v 0) (.v 0) 0 0)) (lane 1 (vregs [(1, 1, 5), (3, 1, 9)]))) = some 9 := by
  decide +kernel
/-- The BF16 example of section 05: the sum is a tie, and does not pass through FP32. -/
theorem test_vfadd_bf16 : [0, 2].map (fun m => vAfter 3 0 (exec (.vfadd (v3 (.v 3) (.v 1) (.v 2) (.v 0) 7 m))
    (lane 1 (vregs [(1, 0, 0x3F803F80), (2, 0, 0x3B803B80)])))) = [some 0x3F803F80, some 0x3F813F81] := by decide +kernel
/-- R130: −0 counts as less than +0. -/
theorem test_vfmin_zeros : vAfter 3 0 (exec (.vfmin (v3 (.v 3) (.v 1) (.v 2) (.v 0) 6 0)) (lane 1 (vregs [(1, 0, 0), (2, 0, 0x80000000)])))
    = some 0x80000000 := by decide +kernel
/-- R39: the reciprocal of a power of two and of zero, exactly. -/
theorem test_vrcp_exact : [0x40000000, 0x80000000].map (fun x => vAfter 3 0 (exec (.vrcp (v3 (.v 3) (.v 1) (.v 0) (.v 0) 6 0))
    (lane 1 (vregs [(1, 0, x)])))) = [some 0x3F000000, some 0xFF800000] := by decide +kernel
/-- Neither an equal zero nor a NaN is less (R126). -/
theorem test_vcmp_zero_nan : (match exec (.vcmp (v3 (.q 1) (.v 4) (.v 5) (.v 0) 6 2))
      (lane 7 (vregs [(4, 0, 0x80000000), (5, 0, 0), (4, 1, 0x7FC00000), (5, 1, 0), (4, 2, 0xBF800000), (5, 2, 0)])) with
    | .next t => (getWave t 0).map (fun w => (condMask w 1).toNat) | _ => none) = some 4 := by decide +kernel
/-- The VQNT example of section 05 under RNE: 1.375 becomes 1, in element 1 alone. -/
theorem test_vqnt_one_element : vAfter 3 0 (exec (.vqnt (v3 (.v 3) (.v 1) (.imm 0xFF) (.imm 1) 4 0))
    (lane 1 (vregs [(1, 0, 0x40300000), (3, 0, 0x11223344)]))) = some 0x11220144 := by decide +kernel
/-- The VTOS example of section 05: the order of the sum is fixed. -/
theorem test_vtos_order : (match exec (.vtos (v3 (.v 0) (.v 5) (.v 0) (.v 0) 6 4))
      (lane 7 (vregs [(5, 0, 0x4B800000), (5, 1, 0x3F800000), (5, 2, 0x3F800000)])) with
    | .next t => (getWave t 0).map (fun w => w.returnQueue.map (fun v => v.toNat)) | _ => none) = some [0x4B800000] := by decide +kernel
theorem test_qadd_wraps : (match exec (.qadd (v3 (.q 4) (.q 13) (.imm 0xFF) (.v 0) 0 0)) (lane 1 placedControl) with
    | .next t => (getWave t 0).map (fun w => Cells.get 0 w.q 4) | _ => none) = some 0 := by decide +kernel
/-- R57: a written mask word is ANDed with the owned mask, and the path goes on with those lanes. -/
theorem test_mask_write : (match exec (.qmov (v3 (.q 13) (.imm 6) (.v 0) (.v 0) 0 0)) (lane 1 placedControl true) with
    | .next t => (ctxAt t).lanes | _ => []) = [1, 2] := by decide +kernel
/-- R170's example: an element is written where the lane says. -/
theorem test_vsta_element : (match exec (.vsta (vt (.v 4) (.imm 3) (.imm 5) 0 1)) (lane 1 (vregs [(4, 0, 0x3F800000)])) with
    | .next t => (getTeam t 1).map (fun m => [Cells.get 0 m.acc (256 + 3 * 16 + 5), Cells.get 0 m.acc (3 * 16 + 5)]) | _ => none)
    = some [0x3F800000, 0] := by decide +kernel

/-- A float result, packed and single, with ready operands of three kinds. -/
theorem witness_lane_float :
    (let s := lane (2 ^ 95) (vregs [(1, 95, 0x3F803F80)])
     let L := ctxAt s
     let f := v3 (.v 3) (.v 1) (.imm 2) (.q 0) 7 0
     AtLane s L ∧ L.lanes = [95] ∧ OperandReady L L.lanes f.d ∧ OperandReady L L.lanes f.a ∧ OperandReady L L.lanes f.b
       ∧ OperandReady L L.lanes f.c) := by decide +kernel

/-- A conversion, and a palette instruction over one palette and, under `.W`, over two, neither being installed. -/
theorem witness_lane_conversion :
    (let s := lane 7 (vregs [(2, 1, 3)])
     let L := ctxAt s
     let f := v3 (.v 3) (.v 1) (.imm 2) (.imm 3) 7 0
     let g := { v3 (.v 3) (.v 1) (.imm 2) (.v 2) 7 0 with w := true }
     AtLane s L ∧ OperandReady L L.lanes f.d ∧ OperandReady L L.lanes f.a ∧ OperandReady L L.lanes f.b ∧ OperandReady L L.lanes f.c
       ∧ f.t.toNat = 7 ∧ (v3 (.v 3) (.v 1) (.imm 2) (.imm 3) 6 0).t.toNat ≠ 7
       ∧ (∀ p ∈ [(uniformValue L f.lit f.c 0, L.lanes)], p.1 < 4 ∧ installPending L.w (72 + p.1) = false)
       ∧ OperandReady L L.lanes g.c ∧ (groupsOf (uniformValue L g.lit g.c) 96 L.lanes).length = 2
       ∧ ∀ p ∈ groupsOf (uniformValue L g.lit g.c) 96 L.lanes, p.1 < 4 ∧ installPending L.w (72 + p.1) = false) := by decide +kernel

/-- The moves between lanes, with selected lanes in and beyond the visible ones. -/
theorem witness_lane_moves :
    (let s := lane 7 (vregs [(2, 1, 3), (2, 2, 200)])
     let L := ctxAt s
     let f := v3 (.v 3) (.v 1) (.v 2) (.v 0) 0 0
     AtLane s L ∧ OperandReady L L.lanes f.d ∧ OperandReady L L.lanes f.a ∧ OperandReady L L.lanes f.b ∧ L.w.vEmpty = []
       ∧ f.t = 0 ∧ (1 : Nat) < L.alloc ∧ L.lanes = [0, 1, 2])
    ∧ ∀ js : List Nat, OperandReady (ctxAt (lane 7 (vregs [(2, 1, 3), (2, 2, 200)]))) js (.v 1) := by
  refine ⟨by decide +kernel, fun js => ⟨by decide +kernel, fun l _ => ?_⟩⟩
  have h : (ctxAt (lane 7 (vregs [(2, 1, 3), (2, 2, 200)]))).w.vEmpty = [] := by decide +kernel
  simp only [vIsEmpty, h]
  rfl

/-- The selections with active lanes and without any. -/
theorem witness_lane_selections :
    (let s := lane 6 placedControl true
     let L := ctxAt s
     let f := v3 (.v 3) (.v 1) (.v 2) (.q 3) 1 0
     AtLane s L ∧ L.lanes = 1 :: [2] ∧ OperandReady L L.lanes f.d ∧ OperandReady L L.lanes f.a ∧ OperandReady L L.lanes f.b
       ∧ f.t.toNat < 2 ∧ f.m = 0 ∧ f.sat = false ∧ f.w = false)
    ∧ (let L := ctxAt (lane 0 placedControl)
       AtLane (lane 0 placedControl) L ∧ L.lanes = [] ∧ OperandReady L L.lanes (.v 3))
    ∧ (∀ i, (Operand.v 3) ≠ .imm i) ∧ (Instr.vsel (v3 (.v 3) (.v 1) (.v 2) (.q 3) 1 0)).wf = true
    ∧ (Instr.vmov (v3 (.v 3) (.v 1) (.v 0) (.v 0) 4 0)).wf = true ∧ (Instr.vbcast (v3 (.v 3) (.v 1) (.v 0) (.v 0) 0 0)).wf = true
    ∧ (Instr.vidx (v3 (.v 3) (.v 1) (.v 2) (.v 0) 1 0)).wf = true := by
  refine ⟨by decide +kernel, by decide +kernel, by intro i; simp, by decide +kernel, by decide +kernel, by decide +kernel, by decide +kernel⟩

/-- A reduction in shadow mode whose halves agree, one whose halves differ, and one outside it; a q register and room for the value. -/
theorem witness_lane_reductions :
    (let s := lane 3 (vregs [(1, 0, 7), (1, 48, 7)]) true
     let L := ctxAt s
     let f := v3 (.q 2) (.v 1) (.v 0) (.v 0) 1 4
     let value (half : Nat) : Nat := intToNat (reduceAll f.m.toNat f.t.toNat (reduceOps L f half)).1 64
     AtLane s L ∧ OperandReady L L.lanes f.a ∧ L.shadow = true ∧ value 0 = value 48 ∧ qFull L 2 = true ∧ L.w.returnQueue.length < 8)
    ∧ (let s := lane 3 (vregs [(1, 0, 7), (1, 48, 8)]) true
       let L := ctxAt s
       let f := v3 (.v 3) (.v 1) (.v 0) (.v 0) 1 4
       let value (half : Nat) : Nat := intToNat (reduceAll f.m.toNat f.t.toNat (reduceOps L f half)).1 64
       AtLane s L ∧ OperandReady L L.lanes f.a ∧ L.shadow = true ∧ value 0 ≠ value 48 ∧ L.w.returnQueue.length < 8
         ∧ OperandReady L L.lanes f.d)
    ∧ (let L := ctxAt (lane 3 { placedControl with returnQueue := List.replicate 8 0 })
       L.shadow = false ∧ ¬ L.w.returnQueue.length < 8) := by decide +kernel

/-- An array that ends at the allocation, and uniform operands. -/
theorem witness_uniform :
    (let w := { placedControl with q := Cells.set 0 (Cells.set 0 [] 1 255) 2 1 }
     let s := lane 3 w
     let L := ctxAt s
     let f := v3 (.q 3) (.q 1) (.q 2) (.v 0) 0 0
     AtLane s L ∧ OperandReady L L.lanes f.a ∧ OperandReady L L.lanes f.b ∧ OperandReady L [] f.a ∧ OperandReady L [] f.b
       ∧ (srcDword L f.a).toNat = 255 ∧ (srcDword L f.b).toNat = 1 ∧ 255 + 1 ≤ L.alloc ∧ qFull L 3 = true) := by decide +kernel

/-! ## Lane memory, tiles, accumulators, paths -/

abbrev vm (d a : Operand) (qb width : Nat) (am : Bool) : VM :=
  { d := d, a := a, qb := BitVec.ofNat 4 qb, am := am, scale := 0, width := BitVec.ofNat 3 width, sx := false, scope := 0, order := 0, hint := 0,
    ea := false, ed := false, disp := 0 }

abbrev vmx (m : VM) (b c : Operand) : VMX := { m := m, b := b, c := c, eb := false, ec := false, aop := 0 }

/-- A tensor of one 16 × 16 tile. -/
def tensor (kind fmt base : Nat) : Tensor :=
  { base := base, index := if 4 < kind then 0x9000 else 0, rows := 16, cols := 16, stride := 64, fmt := fmt, kind := kind, trows := 16, tcols := 16,
    blockLen := if 4 < kind then 16 else 0, scaleBase := 0, codeTable := 0xFF, palette := if fmt = 3 then 1 else 0xFF, kaxis := 0, addr := 0x8000 }

/-- A state with tensors installed. -/
def withTensors (ts : List (Nat × Tensor)) (s : State) : State :=
  { s with contexts := Tbl.put s.contexts 1 { placedContext with tensors := ts } }

/-- Lanes 0 and 1 with v1 holding their addresses, relative to q1 = 0x9000. -/
def laneMem (shadow : Bool := false) : State :=
  lane 3 (vregs [(1, 1, 8), (1, 49, 8)] { placedControl with q := Cells.set 0 [] 1 0x9000 }) shadow

theorem test_vld_lanes : (match exec (.vld (vm (.v 3) (.v 1) 1 2 false)) laneMem with
    | .next t => (getWave t 0).map (fun w => (w.loads.map (fun a => a.lanes.map (fun l => (l.lane, l.addr))), vIsEmpty w 3 1, vIsEmpty w 3 2))
    | _ => none) = some ([[(0, 0x9000), (1, 0x9008)]], true, false) := by decide +kernel
theorem test_vst_misaligned : faultAfter (exec (.vst (vm (.v 3) (.v 1) 1 4 false)) laneMem) = some (8, 0x9008 + 2 ^ 64) := by decide +kernel
/-- A BRV that some lanes take splits the path: both halves are there. -/
theorem test_brv_splits : (match exec (.brv { c := 1, sense := false, jid := 0, off := 64 })
      (lane 7 { placedControl with c := Cells.set 0 [] 1 2 }) with
    | .next t => (getWave t 0).map (fun w => w.paths.map (fun p => (p.2.owned.toNat % 8, p.2.pc))) | _ => none)
    = some [(5, 8), (2, 64)] := by decide +kernel

/-- The place that `n` bytes at the address `p.2` of lane `p.1` lead to, where they lead to one. -/
def leadsSeen (s : State) (L : LaneCtx) (want : Want) (n : Nat) (p : Nat × Nat) : Option Place :=
  if p.2 % n ≠ 0 then none
  else if p.2 < 2 ^ 56 then
    (match ctxRec s L.w with
     | some (_, x) => (match translate s x want p.2 with | .to q => some q | _ => none)
     | none => none)
  else if p.2 - 2 ^ 56 < 2 ^ 56 then
    (if p.2 - 2 ^ 56 < spadSizeOf s L.w then some (.spad L.w.team (p.2 - 2 ^ 56)) else none)
  else if p.2 - 2 * 2 ^ 56 < stackSizeOf s L.w then some (.stack L.wid p.1 (p.2 - 2 * 2 ^ 56)) else none

theorem leads_of_seen {s : State} {L : LaneCtx} {want : Want} {n : Nat} {p : Nat × Nat} {q : Place} (hs : stackSizeOf s L.w ≤ 2 ^ 56)
    (h : leadsSeen s L want n p = some q) : LeadsTo s L want n p q := by
  unfold leadsSeen at h
  split at h
  · cases h
  rename_i h1
  refine ⟨by omega, ?_⟩
  split at h
  · rename_i h2
    split at h
    · rename_i c x hc
      split at h
      · rename_i q' ht
        cases h
        exact .inr (.inr ⟨h2, c, x, hc, ht⟩)
      · cases h
    · cases h
  rename_i h2
  split at h
  · rename_i h3
    split at h
    · rename_i h4
      cases h
      exact .inl ⟨p.2 - 2 ^ 56, by omega, h3, h4, rfl⟩
    · cases h
  rename_i h3
  split at h
  · rename_i h4
    cases h
    exact .inr (.inl ⟨p.2 - 2 * 2 ^ 56, by omega, by omega, h4, rfl⟩)
  · cases h

/-- Addresses of two lanes that a load, a store and an atomic reach, in shadow mode with agreeing halves, with pairs of registers in range. -/
theorem witness_lane_memory :
    (let s := laneMem true
     let L := ctxAt s
     let f := vm (.v 4) (.v 1) 1 3 false
     let g := vm (.v 4) (.v 254) 0 3 true
     let addrs := L.lanes.map (fun l => (l, laneAddr L f l))
     AtLane s L ∧ L.lanes = [0, 1] ∧ MemoryOpen L.w ∧ addrSrcs f = [⟨.q 1, false, 0⟩, ⟨.v 1, false, 0⟩] ∧ OperandReady L L.lanes (.q 1) ∧ OperandReady L L.lanes (.v 1) ∧ f.am = false ∧ (254 : Nat) + 1 < L.alloc
       ∧ addrSrcs g = [⟨.v 254, false, 0⟩, ⟨.v 255, false, 0⟩] ∧ OperandReady L L.lanes (.v 254) ∧ OperandReady L L.lanes (.v 255) ∧ (∀ p ∈ addrs, logBlocks s L.w p.2 8 = false)
       ∧ (ctxRec s L.w).isSome = true ∧ (∀ p ∈ addrs, leadsSeen s L .read 8 p = some (.glob p.2 1))
       ∧ (∀ p ∈ addrs, leadsSeen s L .write 8 p = some (.glob p.2 1)) ∧ (∀ p ∈ addrs, leadsSeen s L .atomic 8 p = some (.glob p.2 1))
       ∧ regsFrom (.v 4) 2 = [.v 4, .v 5] ∧ OperandReady L L.lanes (.v 4) ∧ OperandReady L L.lanes (.v 5)
       ∧ (∀ l ∈ L.lanes, laneAddr L f l = laneAddr L f (l + 48)) ∧ ∀ l ∈ L.lanes, laneData L (.v 4) false 2 l = laneData L (.v 4) false 2 (l + 48)) := by
  decide +kernel

/-- Addresses at the end of the scratchpad and of lane 1's stack, and the first ones beyond, which lead nowhere. -/
theorem witness_lane_apertures :
    (let s := laneMem
     let L := ctxAt s
     stackSizeOf s L.w ≤ 2 ^ 56 ∧ leadsSeen s L .write 8 (1, 2 ^ 56 + 39672) = some (.spad 1 39672) ∧ leadsSeen s L .write 8 (1, 2 ^ 56 + 39680) = none
       ∧ leadsSeen s L .write 8 (1, 2 * 2 ^ 56 + 1016) = some (.stack 0 1 1016) ∧ leadsSeen s L .write 8 (1, 2 * 2 ^ 56 + 1024) = none) := by
  decide +kernel

/-- Whether each element of a list is a value. -/
def allOk {α β ε : Type} (xs : List (α × Except ε β)) : Bool := xs.all (fun x => match x.2 with | .ok _ => true | .error _ => false)

/-- Whether a sequence of issues completes. -/
def issuesRun (issue : Nat → List Nat → State → Res State) : List (Nat × List Nat) → State → Option State
  | [], s => some s
  | g :: r, s => match issue g.1 g.2 s with | .ok t => issuesRun issue r t | .error _ => none

theorem turns_of_run {issue : Nat → List Nat → State → Res State} {gs : List (Nat × List Nat)} {s t : State}
    (h : issuesRun issue gs s = some t) : IssuesInTurn issue gs s t := by
  induction gs generalizing s with
  | nil => exact (Option.some.inj h).symm
  | cons g r ih =>
    simp only [issuesRun] at h
    split at h
    · rename_i u hu
      exact ⟨u, hu, ih h⟩
    · cases h

/-- A valid tensor for a load and a store, its only tile named by every lane, in the plain and the `.W` form; and the issues of a `.W`
load and store over two tensors, from the first and from the second. -/
theorem witness_tile_access :
    (let s := withTensors [(0, tensor 1 8 64), (1, tensor 1 8 64)] (lane 3 (vregs [(5, 1, 1)]))
     let L := ctxAt s
     let f := vt (.v 3) (.imm 0) (.v 2) 0 0
     let g := { f with w := true, wreg := 5 }
     let t := tensor 1 8 64
     let M := L.over s L.lanes
     let r := tileReq s M f .load 0 t L.lanes
     AtLane s L ∧ MemoryOpen L.w ∧ OperandReady L L.lanes f.a ∧ OperandReady L L.lanes f.b ∧ OperandReady L L.lanes f.d ∧ L.rest = []
       ∧ OperandReady L L.lanes (.v g.wreg) ∧ g.wreg.toNat < L.alloc ∧ qFull L 0 = true ∧ installPending L.w 0 = false ∧ tensorOf s L.w 0 = some t
       ∧ tensorSuits .load 0 t = true ∧ tensorSuits .store 0 t = true ∧ installPending L.w (72 + t.palette) = false
       ∧ installPending L.w (64 + t.codeTable) = false ∧ (∀ l ∈ r.lanes, coordBad r l = none) ∧ L.w.log = []
       ∧ tileReady s M.w r = true ∧ misalignedLanes r = []
       ∧ (match ctxRec s L.w with
          | some (_, x) => allOk (laneValues s M.w L.wid x r)
          | none => false) = true
       ∧ (r.lanes.map (laneElems r)).all (fun e => e.1.all (fun e => (leadsSeen s M .write (elemBytes t) (e.lane, e.addr)).isSome)) = true
       ∧ f.base.toNat % packedCount t = 0 ∧ L.shadow = false
       ∧ groupsOf (fun l => (vVal L.w g.wreg.toNat l).toNat) 96 L.lanes = [(0, [0]), (1, [1])]
       ∧ (issuesRun (tileIssue (.vldt g) g .load L) [(0, [0]), (1, [1])] s).isSome = true
       ∧ (issuesRun (tileIssue (.vstt g) g .store L) [(0, [0]), (1, [1])] s).isSome = true)
    ∧ (let p := { rootPath 0 (launchMask false) with active := 3, rest := [(1, [1])] }
       let s := withTensors [(0, tensor 1 8 64), (1, tensor 1 8 64)] (lane 3 (vregs [(5, 1, 1)]))
       let s := { s with waves := [(0, { vregs [(5, 1, 1)] with laneQueue := [{ off := 0, srcs := [] }], blockRunning := true, paths := [(0, p)] })] }
       let L := ctxAt s
       let g := { vt (.v 3) (.imm 0) (.v 2) 0 0 with w := true, wreg := 5 }
       AtLane s L ∧ L.rest = [(1, [1])] ∧ g.wreg.toNat < L.alloc ∧ (issuesRun (tileIssue (.vldt g) g .load L) L.rest s).isSome = true
         ∧ (issuesRun (tileIssue (.vstt g) g .store L) L.rest s).isSome = true) := by decide +kernel

/-- A tile of a stream tensor whose index entry is not valid yet: blocks can be staged. -/
theorem witness_tile_staging :
    (let s := withTensors [(0, tensor 5 3 0x9100)] (lane (2 ^ 16 - 1) placedControl false 0x9000 (bytesOfNat 8 0))
     let L := ctxAt s
     let f := vt (.v 3) (.imm 0) (.v 2) 0 0
     let t := tensor 5 3 0x9100
     let M := L.over s L.lanes
     let r := tileReq s M f .encode 0 t L.lanes
     AtLane s L ∧ tensorOf s L.w 0 = some t ∧ tensorSuits .encode 0 t = true ∧ installPending L.w (72 + t.palette) = false
       ∧ L.lanes.head? = some 0 ∧ colOf M f 0 < tileColCount t ∧ rowOf M f 0 < tileRowCount t ∧ tileReady s M.w r = true
       ∧ (match ctxRec s L.w with
          | some (_, x) => (match readStream s M.w L.wid x t (indexEntryAt t 0 0) 8 with
              | .ok bs => decide (entryClass (natOfBytes bs) = .invalid) | _ => false)
          | _ => false) = true
       ∧ L.lanes.length % 16 = 0 ∧ (getTeam s M.w.team).map (fun m => m.openTiles.length) = some 0 ∧ f.base.toNat + 0 < blockCount t
       ∧ (issuesRun (tileIssue (.vste f) f .encode L) [(0, L.lanes)] s).isSome = true) := by
  decide +kernel

/-- The last tile and the last element of a team of four tiles, with agreeing halves, no load of the tile and no batch into it. -/
theorem witness_accumulators :
    (let s := lane 1 placedControl true
     let L := ctxAt s
     let f := vt (.v 3) (.imm 15) (.imm 15) 0 3
     AtLane s L ∧ MemoryOpen L.w ∧ OperandReady L L.lanes f.a ∧ OperandReady L L.lanes f.b ∧ OperandReady L L.lanes f.d
       ∧ OperandReady L L.lanes (.v 7) ∧ qFull L 3 = true ∧ (∀ l ∈ L.lanes, (srcWord L none ⟨f.a, f.ea, 0⟩ l).toNat < 16)
       ∧ (∀ p ∈ [(uniformVal L f.aq f.acc.toNat, L.lanes)], p.1 < 512 ∧ p.1 < accCountOf s L.w) ∧ L.w.loads = []
       ∧ (∀ l ∈ L.lanes, srcWord L none ⟨f.d, f.ed, 0⟩ l = srcWord L none ⟨f.d, f.ed, 0⟩ (l + 48)) ∧ pendingInto s L.w.team 3 = false) := by
  decide +kernel

/-- A condition that no lane, every lane and some lanes meet; q12 full at a multiple of 4, at another value and empty; a signature that
matches its literal and one that does not. -/
theorem witness_path_transfers :
    (let s := lane 7 { placedControl with c := Cells.set 0 (Cells.set 0 [] 1 2) 2 7 }
     let L := ctxAt s
     AtLane s L ∧ L.lanes ≠ [] ∧ (∀ l ∈ L.lanes, (condAt L.w 0 l != false) = false) ∧ (∀ l ∈ L.lanes, (condAt L.w 2 l != false) = true)
       ∧ L.actor = .path 0 0 ∧ (∃ l ∈ L.lanes, (condAt L.w 1 l != false) = true) ∧ (∃ l ∈ L.lanes, (condAt L.w 1 l != false) = false)
       ∧ L.shadow = false ∧ L.q12Full = true ∧ L.q12.toNat % 4 = 0 ∧ L.sig.toNat = 0xFFFFFFFF ∧ L.sig.toNat ≠ 0)
    ∧ (let s := lane 7 placedControl
       let p := { rootPath 0 (launchMask false) with q12 := 2 }
       let o := { rootPath 0 (launchMask false) with q12Full := false }
       let s2 := { s with waves := [(0, { placedControl with paths := [(0, p)] })] }
       let s3 := { s with waves := [(0, { placedControl with paths := [(0, o)] })] }
       AtLane s2 (ctxAt s2) ∧ (ctxAt s2).q12Full = true ∧ (ctxAt s2).q12.toNat % 4 ≠ 0 ∧ AtLane s3 (ctxAt s3) ∧ (ctxAt s3).q12Full = false) := by
  decide +kernel

/-- A root that is complete and a path that is not; a condition that no lane and some lanes meet. -/
theorem witness_meetings_and_traps :
    (let s := lane 7 { placedControl with c := Cells.set 0 [] 1 2 }
     let L := ctxAt s
     AtLane s L ∧ rootComplete L = true ∧ L.actor = .path 0 0 ∧ (Tbl.find? L.w.paths 0).isSome = true
       ∧ (∀ p, Tbl.find? L.w.paths 0 = some p → pathComplete p = true) ∧ L.shadow = false
       ∧ (∀ l ∈ L.lanes, (condAt L.w 0 l != false) = false) ∧ ∃ l ∈ L.lanes, (condAt L.w 1 l != false) = true)
    ∧ (let s := lane 7 placedControl
       let p := { rootPath 0 (launchMask false) with owned := 7 }
       let s2 := { s with waves := [(0, { placedControl with paths := [(0, p)] })] }
       AtLane s2 (ctxAt s2) ∧ rootComplete (ctxAt s2) = false) := by
  refine ⟨⟨by decide +kernel, by decide +kernel, by decide +kernel, by decide +kernel, ?_, by decide +kernel, by decide +kernel, by decide +kernel⟩,
    by decide +kernel⟩
  intro p h
  have e : (Tbl.find? (ctxAt (lane 7 { placedControl with c := Cells.set 0 [] 1 2 })).w.paths 0).map pathComplete = some true := by decide +kernel
  rw [h] at e
  simpa using e


/-- A `.W` palette instruction left at its second issue, whose palette nothing installs. -/
theorem witness_palette_turns :
    (let p := { rootPath 0 (launchMask false) with active := 7, rest := [(2, [1]), (3, [2])] }
     let w := { placedControl with laneQueue := [{ off := 0, srcs := [] }], blockRunning := true, paths := [(0, p)] }
     let s := { lane 7 placedControl with waves := [(0, w)] }
     let L := ctxAt s
     let f := { v3 (.v 3) (.v 1) (.imm 2) (.v 2) 7 0 with w := true }
     AtLane s L ∧ f.w = true ∧ L.rest ≠ [] ∧ OperandReady L L.lanes f.d ∧ OperandReady L L.lanes f.a ∧ OperandReady L [] f.b ∧ OperandReady L [] f.c
       ∧ (issuesRun (paletteIssue (.vpal f) f { a := some 7, b := some 0 } L (fun p x => palEncode p 7 x)) L.rest s).isSome = true
       ∧ (issuesRun (paletteIssue (.vunpal f) f { a := some 7 } L (fun p x => palDecode p 7 x)) L.rest s).isSome = true) := by decide +kernel

/-- A continuation of path 0 in lane 2, whose condition holds. -/
theorem witness_continuation :
    (let k : Continuation := { lane := 2, parent := 0, pc := 8, sig := 0xFFFFFFFF#32, q12 := 0, q12Full := true, active := true, state := .running,
                               held := [], faulted := false, fetchWait := none, uncounted := false }
     let w := { placedControl with laneQueue := [{ off := 0, srcs := [] }], blockRunning := true, paths := [(0, rootPath 0 (launchMask false))],
                                   conts := [(2, k)], c := Cells.set 0 [] 1 4 }
     let s := { lane 7 placedControl with actor := .cont 0 2, waves := [(0, w)] }
     let L := ctxAt s
     AtLane s L ∧ L.actor = .cont 0 2 ∧ L.lanes = [2] ∧ (condAt L.w 1 2 != false) = true ∧ (condAt L.w 0 2 != false) = false) := by decide +kernel

/-! ## Tables, engine operations, channels -/

/-- What an instruction of the control stream reads at an address. -/
def seen (s : State) (w : Wave) (a align n : Nat) : Option (List Byte) :=
  if logBlocks s w a n then none
  else match reachControl s w .read a align, ctxRec s w with
    | .ok (.at _), some (_, x) => (match readRange s w 0 x a n with | .ok b => some b | _ => none)
    | _, _ => none

theorem image_of_seen {s : State} {w : Wave} {a align n : Nat} {bs : List Byte} (h : seen s w a align n = some bs) : ImageAt s 0 w a align n bs := by
  unfold seen at h
  split at h
  · cases h
  rename_i h1
  split at h
  · rename_i p c x h2 h3
    split at h
    · rename_i b h4
      cases h
      exact ⟨by simpa using h1, ⟨p, h2⟩, c, x, h3, h4⟩
    · cases h
  · cases h

/-- The image of a descriptor: INT8, scratchpad, one 16 × 64 tile; its K axis is its columns. -/
def descBytes : List Byte :=
  bytesOfNat 16 0x400 ++ bytesOfNat 4 16 ++ bytesOfNat 4 64 ++ bytesOfNat 8 64 ++ [4, 1, 16, 64, 0, 0, 0xFF, 0xFF, 1] ++ List.replicate 23 0

/-- The image of a code table: 0 and 1 in one bit each. -/
def codeBytes : List Byte := [2, 2, 0, 0, 0, 0, 0, 0, 0, 0, 0, 0, 0, 0x10] ++ List.replicate 18 0

theorem test_tdef_installs : (match exec (.tdef (ce 0 1 0 0 7 0 0)) (ctl (regs [(1, 0x9000)]) 0x9000 descBytes) with
    | .next t => (getCtx t 1).bind (fun x => (Tbl.find? x.tensors 7).map (fun t => [t.base, t.rows, t.cols, t.stride, t.fmt, t.kind])) | _ => none)
    = some [0x400, 16, 64, 64, 4, 1] := by decide +kernel
theorem test_tdef_rejects_kind : faultAfter (exec (.tdef (ce 0 1 0 0 7 0 0)) (ctl (regs [(1, 0x9000)]) 0x9000 (descBytes.set 33 6)))
    = some (0x11, 7 + 33 * 2 ^ 8 + 2 ^ 16 + 0x9000 * 2 ^ 64) := by decide +kernel

/-- An image of each kind that passes its checks and one that does not; gang words that name this wave and the next, and this wave alone. -/
theorem witness_table_installs :
    (let w := regs [(1, 0x9000), (2, 2 + 2 ^ 10), (3, 1)]
     let s := ctl w 0x9000 descBytes
     AtControl s 0 w ∧ InContext s w 1 placedContext ∧ MemoryNow w (.control 0) ∧ sFull w 1 = true ∧ installPending w 7 = false ∧ installPending w 64 = false
       ∧ installPending w 72 = false ∧ seen s w 0x9000 64 64 = some descBytes
       ∧ (match checkDescriptor descBytes 7 0x9000 with | .ok _ => true | _ => false) = true
       ∧ (match checkDescriptor (descBytes.set 33 6) 7 0x9000 with | .ok _ => false | _ => true) = true
       ∧ seen (ctl w 0x9000 (descBytes.set 33 6)) w 0x9000 64 64 = some (descBytes.set 33 6) ∧ seen (ctl w 0x9000 codeBytes) w 0x9000 32 32 = some codeBytes
       ∧ codeImageBad codeBytes = none ∧ codeImageBad (codeBytes.set 0 3) = some 12
       ∧ seen (ctl w 0x9000 (codeBytes.set 0 3)) w 0x9000 32 32 = some (codeBytes.set 0 3)
       ∧ (sVal w 2).toNat < 2 ^ 45 ∧ gangOk 0 (sVal w 2).toNat = true ∧ gangOk 0 (sVal w 3).toNat = false) := by decide +kernel

/-- A record of a built subset table of an INT8 tile, as MLUT finds it. -/
def tableRec (prod : Bool) (a : Tensor) : SlotRec :=
  { pendingRec 5 prod 1 a 0 0 1 { entries := [], count := 0, version := 0 } .built with builder := 0 }

/-- A wave whose team has table slot 0 written, with tensors: 1 an A tile, 2 INT32 in global memory, 3 T2 weights, 4 its transpose. -/
def engines (w : Wave) : State :=
  let a := { tensor 1 4 0x400 with cols := 64, tcols := 64, kaxis := 1 }
  let t2 := { tensor 0 1 0x9000 with rows := 64, trows := 64, stride := 8 }
  let sc := { tensor 0 1 0x9000 with blockLen := 16, index := 0xA000, stride := 8 }
  let s := withTensors [(1, a), (2, tensor 0 8 0x9000), (3, t2), (4, sc), (5, { sc with kaxis := 1, base := 0xB000 })] (ctl w)
  { s with teams := Tbl.modify s.teams 1 (fun m => { m with slots := [(0, tableRec false a)] }) }

/-- One operation in the matrix queue. -/
def item (id : Nat) (op : EngineOp) (batch : Option Nat := none) : EngineItem :=
  { id := id, pc := 0x4000, op := op, batch := batch, started := false, progress := 0, injected := false, failed := [], seq := 0, hazard := 0 }

theorem test_mlut_enters : (match exec (.mlut (ce 0 63 63 63 3 0 0)) (engines placedControl) with
    | .next t => (getWave t 0).map (fun w => (w.engine.length, w.pc.toNat)) | _ => none) = some (1, 0x4008) := by decide +kernel
theorem test_mout_beyond_tiles : faultAfter (exec (.mout (ce 0 63 63 1 2 0 0)) (engines (regs [(1, 4)]))) = some (0x12, 4) := by decide +kernel

/-- Every matrix operation passes its checks: the last tile and slot of the team, a full T2 column of the table's K extent, a gang. -/
theorem witness_matrix_issues :
    (let w := { regs [(1, 3)] with g := Cells.set 0 [] 0 2 }
     let s := engines w
     AtControl s 0 w ∧ EngineReady w true ∧ sFull w 63 = true ∧ sFull w 1 = true ∧ (sVal w 1).toNat + 1 ≤ 4 ∧ gangCountOf (Cells.get 0 w.g 0).toNat ≠ 0
       ∧ (match getTeam s w.team, tensorOf s w 1, tensorOf s w 2, tensorOf s w 3, tensorOf s w 4, tensorOf s w 5 with
          | some team, some a, some o, some b, some src, some d =>
            decide (TensorReady s w 1 a ∧ TileInside a 0 0 ∧ mtabSuits false a = true ∧ 1 < team.slotCount ∧ 3 < team.accCount
              ∧ TensorReady s w 2 o ∧ TileInside o 0 0 ∧ o.kind = 0 ∧ o.blockLen = 0 ∧ o.trows = 16 ∧ o.tcols = 16 ∧ 4 ≤ o.fmt ∧ o.fmt ≤ 0x0B
              ∧ TensorReady s w 3 b ∧ TileInside b 0 0 ∧ tileN b = 16 ∧ tileK b = 64 ∧ codedFmt src.fmt = true ∧ src.blockLen ≠ 0
              ∧ TensorReady s w 4 src ∧ TensorReady s w 5 d ∧ d.fmt = src.fmt ∧ d.kaxis = 1 - src.kaxis ∧ tileK d % max 1 d.blockLen = 0)
              && (match Tbl.find? team.slots 0 with
                  | some r => decide (pairOf r b b.palette = some 1 ∧ (0 + 1) * tileK b ≤ tableExtent r ∧ tileK b % groupLen 1 = 0)
                  | none => false)
          | _, _, _, _, _, _ => false) = true) := by decide +kernel

/-- The traps' conditions: the first tile and slot beyond the team's, an empty slot, a tensor that is not installed, a coordinate outside,
a full queue. -/
theorem witness_matrix_traps :
    (let w := { regs [(1, 4), (2, 1)] with engine := List.replicate 8 (item 1 (.mclr 0 1)) }
     let s := engines w
     AtControl s 0 w ∧ w.laneQueue = [] ∧ sFull w 1 = true ∧ queueFree w true = false ∧ tensorOf s w 9 = none ∧ installPending w 9 = false
       ∧ (match getTeam s w.team, tensorOf s w 1 with
          | some team, some a => decide (team.accCount ≤ (sVal w 1).toNat ∧ team.accCount < (sVal w 1).toNat + 1 ∧ 0 + 1 ≤ team.accCount
              ∧ team.slotCount ≤ 2 ∧ Tbl.find? team.slots 1 = none ∧ 1 < team.slotCount ∧ TensorReady s w 1 a ∧ mtabSuits false a = true
              ∧ tileRowCount a ≤ (sVal w 2).toNat ∧ 0 < tileRowCount a ∧ tileColCount a ≤ (sVal w 2).toNat)
          | _, _ => false) = true) := by decide +kernel

/-- A pending batch, one that is not, and a fault that awaits delivery. -/
theorem witness_batches :
    (let w := { placedControl with engine := [item 1 (.mclr 0 1) (some 3)], engineFault := some (⟨0x11, 7⟩, 0x3FF8, 3 * 4096) }
     AtControl (ctl w) 0 w ∧ batchPending w 3 = true ∧ batchPending w 4 = false ∧ placedControl.engineFault = none
       ∧ w.engineFault = some (⟨0x11, 7⟩, 0x3FF8, 3 * 4096) ∧ sFull w 5 = true ∧ batchPending { w with engineFault := none } 3 = true
       ∧ { w with engineFault := none }.engineFault = none) := by decide +kernel
theorem test_mtest_delivers : (match exec (.mtest (ce 5 0 0 0 0 3 0))
      (ctl { placedControl with engineFault := some (⟨0x11, 7⟩, 0x3FF8, 3 * 4096) }) with
    | .next t => let r := natOfBytes (readPhys t 0x10000 64); (r % 256, r / 2 ^ 64 % 2 ^ 64) | _ => (0, 0)) = (0x11, 0x3FF8) := by decide +kernel

/-- A channel context: an endpoint to send on, a ring of two buffers with one message placed, and one that is empty. -/
def channels (w : Wave) : State :=
  let s := ctl w
  let cap (kind perms : Nat) : Capability := { kind := kind, perms := perms, pkg := 1, job := 2, ring := 3, allowance := 4096, depth := 2 }
  { s with contexts := Tbl.put s.contexts 1 { placedContext with
      caps := [(0, cap 1 1), (1, cap 2 6), (2, cap 2 6)]
      posted := [(1, [{ addr := 0xA000, len := 64, placed := some (7, 8, 32, false) }, { addr := 0xA100, len := 64, placed := none }])] } }

theorem test_chpoll_takes : sAfter 5 (exec (.chpoll (ce 5 0 0 0 0 0 1)) (channels placedControl)) = some (2 ^ 63 + 7 * 2 ^ 40 + 8 * 2 ^ 24 + 32) := by
  decide +kernel
theorem test_chpost_full_ring : sAfter 5 (exec (.chpost (ce 5 1 2 0 0 0 1)) (channels (regs [(1, 0xA200), (2, 64), (5, 9)]))) = some 0 := by decide +kernel

/-- Copies and a SEND that pass their checks, at the largest lengths: 65,536 rows would not fit the scratchpad, so the limit that binds is
its size. -/
theorem witness_copy_issues :
    (let w := regs [(1, 0x9000), (2, 0xA000), (3, 4096), (4, 32), (5, 1), (6, 3 * 2 ^ 56)]
     let s := withTensors [(2, tensor 0 8 0x9000), (3, tensor 1 8 0x400)] (channels w)
     AtControl s 0 w ∧ EngineReady w false ∧ sFull w 1 = true ∧ inGlobalOrSpad s w 0x9000 4096 = true ∧ apertureOf 0x9000 = 0 ∧ apertureOf (3 * 2 ^ 56) = 3
       ∧ winCheck (3 * 2 ^ 56) 384 = .ok () ∧ (384 : Nat) ≠ 0
       ∧ (match tensorOf s w 2, tensorOf s w 3 with
          | some src, some d => decide (TensorReady s w 2 src ∧ TensorReady s w 3 d ∧ TileInside src 0 0 ∧ TileInside d 0 0 ∧ src.kind < 2 ∧ d.kind < 2
              ∧ src.blockLen = 0 ∧ d.blockLen = 0 ∧ d.fmt = src.fmt ∧ d.trows = src.trows ∧ d.tcols = src.tcols ∧ d.kind ≠ 4
              ∧ src.cols * fmtBits src.fmt % 32 = 0 ∧ 39680 = 0 + 620 * rowBytes src ∧ 39680 ≤ spadSizeOf s w)
          | _, _ => false) = true)
    ∧ (let w := regs [(1, 0x9000)]
       let s := channels w
       InContext s w 1 { placedContext with
         caps := [(0, { kind := 1, perms := 1, pkg := 1, job := 2, ring := 3, allowance := 4096, depth := 2 }),
           (1, { kind := 2, perms := 6, pkg := 1, job := 2, ring := 3, allowance := 4096, depth := 2 }),
           (2, { kind := 2, perms := 6, pkg := 1, job := 2, ring := 3, allowance := 4096, depth := 2 })]
         posted := [(1, [{ addr := 0xA000, len := 64, placed := some (7, 8, 32, false) }, { addr := 0xA100, len := 64, placed := none }])] }
       ∧ inGlobalOrSpad s w 0x9000 4096 = true) := by decide +kernel

/-- A ring with room and one without, a buffer that holds a message and one that does not, and a capability that is absent. -/
theorem witness_channels :
    (let w := regs [(1, 0xA200), (2, 4096), (3, 32)]
     let s := channels w
     AtControl s 0 w ∧ quiet w = true ∧ releaseReady s 0 w w.seq 5 = true ∧ acquired w (syncsBefore w (.control 0)) = true ∧ sFull w 1 = true ∧ sFull w 2 = true
       ∧ (match ctxRec s w with
          | some (1, x) =>
            (match Tbl.find? x.caps 1, Tbl.find? x.posted 1 with
             | some cap, some (p :: _) => decide (cap.kind = 2 ∧ cap.perms / 2 % 2 = 1 ∧ cap.perms / 2 ^ 2 % 2 = 1 ∧ cap.depth ≤ 2 ∧ p.placed.isSome = true)
             | _, _ => false) && decide (Tbl.find? x.posted 2 = none ∧ (Tbl.find? x.caps 2).isSome = true ∧ Tbl.find? x.caps 9 = none)
          | _ => false) = true) := by decide +kernel

/-- A tile that a pending batch accumulates into: through an operation in the queue, and through one of the batch that has been performed. -/
theorem witness_hot_tiles :
    (let op := EngineOp.mclr 3 1
     let w := { placedControl with engine := [item 1 (.mclr 0 1) (some 3)], doneTiles := [(some 3, 3)] }
     let s := ctl w
     pendingInto s w.team 3 = true ∧ pendingInto s w.team 2 = false ∧ opTile op = opTile (EngineOp.mclr 0 1)) := by decide +kernel

/-! ## Fences, barriers, events, the end of a wave, privileged installs -/

/-- The same state with other flags in its launch's entry. -/
def flagged (n : Nat) (s : State) : State := { s with launches := [(1, { placedLaunch with e := { placedEntry with flags := n } })] }

/-- A store of eight bytes in a buffer, performed at a scope, with its ticket. -/
def buffered (perf : Nat) : BufStore :=
  { seq := 0, place := .glob 0x9000 1, bytes := bytesOfNat 8 7, scope := 4, order := 0, rmw := none, perf := perf, ticket := perf, bars := [], sent := none, hint := 0,
    origin := .control 0, pc := 0x4000, block := 0, lane := 0, va := 0x9000 }

/-- A load of eight bytes in flight, as SLD issues it. -/
def oneLoad : Access :=
  { kind := .load false, actor := .control 0, pc := 0x4000, block := 0, seq := 0, width := 8, dest := .sreg 3, scope := 1, order := 0, hint := 0,
    lanes := [{ lane := 0, addr := 0x9000, place := .glob 0x9000 1, reg := 0, data := 0, cmp := 0 }] }

/-- A fence with nothing before it, in each order, with and without promotion, done and not; one that a block, a load and a store hold up;
the reports of FENCEA, and the waits of it and of FENCEO. -/
theorem witness_fences :
    (let w := placedControl
     let v := { placedControl with asyncerr := 0x1700000B }
     let u := { placedControl with laneQueue := [{ off := 0, srcs := [] }] }
     let ld := { placedControl with loads := [oneLoad] }
     let st := { placedControl with stores := [buffered 1] }
     let done := { placedControl with stores := [buffered 4] }
     AtControl (ctl w) 0 w ∧ w.laneQueue = [] ∧ w.log = [] ∧ w.loads = [] ∧ w.stores = [] ∧ (ci 5 0 0).imm.toNat / 8 % 4 = 0
       ∧ (ci 5 0 0x0C).imm.toNat / 8 % 4 = 1 ∧ (ci 5 0 0x14).imm.toNat / 8 % 4 = 2 ∧ (ci 5 0 0x1C).imm.toNat / 8 % 4 = 3
       ∧ (ci 5 0 0x1C).imm.toNat / 32 % 2 = 0 ∧ (ci 5 0 0x3C).imm.toNat / 32 % 2 = 1 ∧ promoted (ctl w) w 4 = true
       ∧ AtControl (ctl ld) 0 ld ∧ ld.loads ≠ [] ∧ ld.laneQueue = [] ∧ AtControl (ctl st) 0 st ∧ (∃ b ∈ st.stores, b.perf < 4) ∧ st.loads = []
       ∧ AtControl (ctl done) 0 done ∧ (∀ b ∈ done.stores, 4 ≤ b.perf) ∧ (∀ c, 1 ≤ c → c ≤ 5 → unack (ctl w) w c = 0) ∧ unack (ctl st) st 4 ≠ 0
       ∧ (∀ e ∈ w.engine, isMatrix e.op = true) ∧ (ci 5 0 5).d ≠ 63 ∧ (ci 63 0 5).d = 63 ∧ w.asyncerr.toNat % 256 = 0
       ∧ AtControl (ctl v) 0 v ∧ v.asyncerr.toNat % 256 ≠ 0 ∧ AtControl (ctl u) 0 u ∧ u.laneQueue ≠ []) := by
  refine ⟨by decide +kernel, by decide, by decide, by decide, by decide, by decide +kernel, by decide +kernel, by decide +kernel, by decide +kernel,
    by decide +kernel, by decide +kernel, by decide +kernel, by decide +kernel, by decide +kernel, by decide +kernel, by decide +kernel, by decide +kernel,
    by decide +kernel, by decide +kernel, by decide +kernel, ?_, by decide +kernel⟩
  intro c h1 h5
  have h : c = 1 ∨ c = 2 ∨ c = 3 ∨ c = 4 ∨ c = 5 := by omega
  rcases h with rfl | rfl | rfl | rfl | rfl <;> decide +kernel
theorem test_fencea_reports : sAfter 5 (exec (.fencea (ci 5 0 5)) (ctl { placedControl with asyncerr := 0x1700000B })) = some 0x1700000B := by
  decide +kernel

/-- A wave alone in its team arrives and leaves; one of two stays; an armed flag; levels in and outside a co-resident launch; STEP. -/
theorem witness_barriers :
    (let w := placedControl
     let s := ctl w
     let at1 := setWave s 0 { w with ctl := .barrier 1 }
     let two := { s with waves := [(0, w), (1, { w with w := 1, uid := 2 })] }
     launchOf s w = some (1, placedLaunch) ∧ (ci 0 0 1).imm.toNat % 8 = 1 ∧ (w.satf &&& w.satarm).toNat = 0
       ∧ commonArrivals at1 1 1 (barUnit 1 0 w) = 1 ∧ commonArrivals (setWave two 0 { w with ctl := .barrier 1 }) 1 1 (barUnit 1 0 w) = 0
       ∧ (barWaves at1 1 1 (barUnit 1 0 w)).length = 1 ∧ (savedWaves at1 1 1 (barUnit 1 0 w)).length = 0
       ∧ ({ w with satf := 1, satarm := 1 }.satf &&& { w with satf := 1, satarm := 1 }.satarm).toNat ≠ 0 ∧ (ci 0 0 2).imm.toNat % 8 ≠ 1
       ∧ flagCoresident placedLaunch = false)
    ∧ (let s := flagged 24 (ctl placedControl)
       (match launchOf s placedControl with
        | some (_, l) => flagCoresident l && flagSuperstep l && commonArrivals (setWave s 0 { placedControl with ctl := .barrier 0 }) 1 0 0 == 1
        | none => false) = true) := by decide +kernel

/-- An event at its target, and one below. -/
theorem witness_event_wait :
    (let w := regs [(1, 0x9000), (2, 7), (3, 8)]
     let s := ctl w 0x9000 (bytesOfNat 8 7)
     AtControl s 0 w ∧ MemoryNow w (.control 0) ∧ sFull w 1 = true ∧ sFull w 2 = true ∧ sFull w 5 = true ∧ seen s w 0x9000 8 8 = some (bytesOfNat 8 7)
       ∧ (sVal w 2).toNat ≤ natOfBytes (bytesOfNat 8 7) ∧ natOfBytes (bytesOfNat 8 7) < (sVal w 3).toNat ∧ w.ctl = .running) := by decide +kernel

/-- A signature that matches its literal and one that does not; a launch that is persistent and one that is not; an EXIT with nothing left,
and one with a recorded error. -/
theorem witness_system :
    (let w := placedControl
     let s := ctl w
     AtControl s 0 w ∧ launchOf s w = some (1, placedLaunch) ∧ w.sigc = (cl 0 0 0 0xFFFFFFFF).lit ∧ w.sigc ≠ (cl 0 0 0 0).lit
       ∧ flagPersistent placedLaunch = false ∧ flagPersistent { placedLaunch with e := { placedEntry with flags := 4 } } = true ∧ sFull w 1 = true
       ∧ w.laneQueue = [] ∧ w.log = [] ∧ w.engineFault = none ∧ w.engine = [] ∧ allAcked s w 5 = true ∧ w.asyncerr.toNat % 256 = 0
       ∧ { w with asyncerr := 0x17 }.asyncerr.toNat % 256 ≠ 0) := by decide +kernel
theorem test_trap_detail : faultAfter (exec (.trap (ci 0 1 5)) (ctl (regs [(1, 9)]))) = some (0x1A, 5 + 9 * 2 ^ 64) := by decide +kernel

/-- A queue fed by the device of two entries, empty. -/
def fedQueue : Queue := { base := 0x8000, ctx := 1, log2 := 1, prio := 0, deviceFed := true, enable := true, head := 0, tail := 0 }

/-- The image of a capability: an endpoint. -/
def capBytes : List Byte := [1, 1, 2, 0, 3, 0, 4, 0, 32, 0, 0, 0, 0, 0] ++ List.replicate 18 0

/-- Images that pass their checks, a context that exists and one that does not. -/
theorem witness_privileged_installs :
    (let w := regs [(1, 0x9000), (2, 1), (3, 9)]
     let s := ctl w 0x9000 capBytes
     AtControl s 0 w ∧ MemoryNow w (.control 0) ∧ sFull w 1 = true ∧ sFull w 2 = true ∧ getCtx s 9 = none ∧ (getCtx s 1).isSome = true ∧ sVal w 1 ≠ 0
       ∧ sVal w 63 = 0 ∧ seen s w 0x9000 32 32 = some capBytes ∧ capImageBad capBytes = none ∧ (capOfImage capBytes).kind ≠ 0) := by decide +kernel
theorem natOfBytes_zeros (n : Nat) : natOfBytes (List.replicate n 0#8) = 0 := by
  induction n with
  | zero => rfl
  | succ n ih => simp [List.replicate_succ, natOfBytes, ih]

theorem halves_zeros (n : Nat) : (halves (List.replicate (2 * n) 0#8) n).map (fun e => e.toNat) = List.replicate n 0 := by
  simp [halves, natOfBytes_zeros, List.map_const']

/-- An image that maps nothing. -/
theorem witness_decode_image : (seen (ctl placedControl) placedControl 0x9000 64 2048).map (fun bs =>
    decodeImageBad ((halves bs 1024).map (fun e => e.toNat))) = some none := by
  have h : seen (ctl placedControl) placedControl 0x9000 64 2048 = some (List.replicate (2 * 1024) 0#8) := by decide +kernel
  rw [h, Option.map_some, halves_zeros]
  decide +kernel

/-- A live queue of the wave's context with room and without, and an entry that can be read. -/
theorem witness_queue_put :
    (let w := regs [(1, 0x9000)]
     let s := modHub (ctl w) (fun h => { h with queues := [(5, fedQueue)], queuesReady := 32 })
     let full := modHub (ctl w) (fun h => { h with queues := [(5, { fedQueue with tail := 1 })] })
     AtControl s 0 w ∧ quiet w = true ∧ releaseReady s 0 w w.seq 4 = true ∧ apertureOf 0x9000 = 0 ∧ (seen s w 0x9000 128 128).isSome = true
       ∧ InContext s w 1 placedContext ∧ queueLive s 5 = true ∧ (getQueue s 5).deviceFed = true ∧ (getQueue s 5).ctx = 1
       ∧ enqueued (getQueue s 5) + 1 ≠ queueSize (getQueue s 5) ∧ enqueued (getQueue full 5) + 1 = queueSize (getQueue full 5)) := by decide +kernel

/-- A kernel of one PASS word, and one whose count is 0. -/
def kernelBytes (n : Nat) : List Byte := bytesOfNat 4 n ++ bytesOfNat 4 0x74000000

/-- A binding record for job 1: flows 0 to 9, ingress, emitted packets, 16 records, event ring 3. -/
def recordBytes (op : Nat) : List Byte :=
  bytesOfNat 2 1 ++ bytesOfNat 2 0 ++ bytesOfNat 2 9 ++ [1, 2] ++ bytesOfNat 2 0 ++ bytesOfNat 2 16 ++ [0, 3, BitVec.ofNat 8 op, 0]
    ++ List.replicate 48 0

/-- The state whose context has an event ring, with a box. -/
def boxed (w : Wave) (x : SigBox) (a : Nat) (bs : List Byte) : State :=
  { ctl w a bs with
    contexts := [(1, { placedContext with caps := [(3, { kind := 3, perms := 6, pkg := 0, job := 0, ring := 0, allowance := 0, depth := 4 })] })]
    boxes := [(0, x)] }

theorem witness_box_loads :
    (let w := regs [(1, 0x9000), (2, 0), (3, 128)]
     MemoryNow w (.control 0) ∧
     let k := { SigBox.reset with kernel := [1, 0x74000000] }
     let b := bindingOf (recordBytes 0)
     AtControl (boxed w k 0x9000 (kernelBytes 1)) 0 w ∧ (128 : Nat) ≤ (sVal w 3).toNat ∧ (sVal w 2).toNat < 128 ∧ apertureOf 0x9000 = 0
       ∧ seen (boxed w k 0x9000 (kernelBytes 1)) w 0x9000 64 4 = some (bytesOfNat 4 1)
       ∧ seen (boxed w k 0x9000 (kernelBytes 1)) w 0x9000 64 (4 * 2) = some (kernelBytes 1) ∧ imageFailure (lineWords (kernelBytes 1) 2 0) = none
       ∧ imageFailure (lineWords (kernelBytes 0) 1 0) = some (2, 0) ∧ k.bindings = [] ∧ k.run = none ∧ k.offered = []
       ∧ ({ k with bindings := [b] }).bindings ≠ [] ∧ seen (boxed w k 0x9000 (recordBytes 0)) w 0x9000 64 64 = some (recordBytes 0)
       ∧ recordBad (recordBytes 0) = none ∧ recordBad (recordBytes 1) = none ∧ recordBad (recordBytes 3) = some 14 ∧ SigBox.reset.kernel = []
       ∧ k.kernel ≠ [] ∧ dieConflict (boxed w k 0x9000 (recordBytes 0)) 0 b = false ∧ partConflict k b = false
       ∧ eventOk (boxed w k 0x9000 (recordBytes 0)) b = true ∧ k.bindings.length < 8
       ∧ (match List.find? (fun c : Binding => c.job == b.job && c.flowLo == b.flowLo) [b] with | some c => c == b | none => false) = true
       ∧ (List.find? (fun c : Binding => c.job == b.job && c.flowLo == b.flowLo) k.bindings).isNone = true) := by decide +kernel

/-- Memory that a partition of 16 records is copied from and to: readable, of a page without permissions, and poisoned. -/
theorem witness_box_copies :
    (let w := regs [(1, 0x9000)]
     let s := ctl w
     let shut := { s with mem := cellsWrite memDefault s.mem 0x3008 (bytesOfNat 8 0x23) }
     let foul := { s with tags := [(0xA000 / 128, 7)] }
     (match readRange s w 0 placedContext 0xA000 128 with | .ok bs => bs.length == 128 | _ => false) = true
       ∧ (match readRange shut w 0 placedContext 0x20000000 128 with | .error (.denied a) => a == 0x20000000 | _ => false) = true
       ∧ (match readRange foul w 0 placedContext 0xA000 128 with | .error (.poisoned a _) => a == 0xA000 | _ => false) = true
       ∧ (match copyLines 0 w placedContext 1 s 0xA000 (List.replicate 128 1) with | .ok _ => true | _ => false) = true
       ∧ (match copyLines 0 w placedContext 1 shut 0x20000000 (List.replicate 128 1) with | .error (.denied a) => a == 0x20000000 | _ => false) = true) := by
  decide +kernel
theorem test_sbflow_binds : (match exec (.sbflow (ce 5 1 2 0 0 0 0))
      (boxed (regs [(1, 0x9000), (2, 0)]) { SigBox.reset with kernel := [1, 0x74000000] } 0x9000 (recordBytes 0)) with
    | .next t => (sAfter 5 (.next t), (getBox t 0).bindings.map (fun b => (b.flowLo, b.flowHi, b.partCount))) | _ => (none, []))
    = (some 0, [(0, 9, 16)]) := by decide +kernel

/-! ## Signal boxes -/

/-- Box 0 with a kernel of one PASS word, running over a packet; f1 = 16,777,216.0, f2 = 1.0, f3 = 0x7FFFFFFF, f4 = 64, f5 = 16. -/
def boxRun : BoxRun :=
  { placedRun with f := [(1, 0x4B800000), (2, 0x3F800000), (3, 0x7FFFFFFF), (4, 64), (5, 16)] }

def atBox (r : BoxRun) : State :=
  let s := placedBox State.reset 0x74000000
  { s with actor := .box 0, boxes := [(0, { getBox s 0 with run := some r })] }

def qr (s : Bool) (d a b : Nat) (ty : Nat) (ck : Bool) : QR :=
  { s := s, d := BitVec.ofNat 4 d, a := BitVec.ofNat 4 a, b := BitVec.ofNat 4 b, bs := false, ty := BitVec.ofNat 2 ty, ck := ck, cond := 0, c := 0 }
def qi (s : Bool) (d a : Nat) (x : Bool) (imm : Nat) : QI := { s := s, d := BitVec.ofNat 4 d, a := BitVec.ofNat 4 a, x := x, imm := BitVec.ofNat 16 imm }
def qb (cond a b off : Nat) : QB := { cond := BitVec.ofNat 4 cond, a := BitVec.ofNat 4 a, b := BitVec.ofNat 4 b, off := BitVec.ofNat 6 off }

/-- An f register of box 0 after an instruction. -/
def fAfter (n : Nat) (o : Out) : Option Nat := match o with | .next t => ((getBox t 0).run).map (fun r => (getF r n).toNat) | _ => none

/-- The rounding of section 20's example: 16,777,216 + 1 is a tie. -/
theorem test_box_add_rounds : fAfter 6 (exec (.boxAdd (qr true 6 1 2 2 false)) (atBox boxRun)) = some 0x4B800000 := by decide +kernel
theorem test_box_addi_sign : fAfter 6 (exec (.boxAddi (qi true 6 5 false 0xFFFF)) (atBox boxRun)) = some 15 := by decide +kernel
theorem test_box_ck_traps : (match exec (.boxAdd (qr true 6 3 5 0 true)) (atBox boxRun) with
    | .next t => (getBox t 0).run.isNone | _ => false) = true := by decide +kernel

/-- A word executes, with every type, with a sum in range and out of range, and for a vector; a chunk and a record at and below their limits;
a header value that can be written and one that cannot; both kinds of packet; a branch taken and not; a payload of no chunk and of one. -/
theorem witness_boxes :
    (let s := atBox boxRun
     let x := getBox s 0
     let r := boxRun
     let m := { r with pkt := { placedPacket with kind := 0x0B }, len := 0 }
     AtBox s 0 x r ∧ (qr true 6 3 5 0 true).s = true ∧ (qr false 6 3 5 0 false).s = false ∧ (qr true 6 3 5 0 true).ty ≠ 2 ∧ (qr true 6 3 5 2 true).ty = 2
       ∧ (qr true 6 3 5 1 true).ty = 1 ∧ (-(2 ^ 31 : Int)) ≤ (getF r 4).toInt + (getF r 5).toInt ∧ (getF r 4).toInt + (getF r 5).toInt < 2 ^ 31
       ∧ ¬ (getF r 3).toInt + (getF r 5).toInt < 2 ^ 31 ∧ (getF r 3).toNat + (getF r 5).toNat < 2 ^ 32
       ∧ ((getF r 4).toNat + 0 % 64) % 2 ^ 32 = 64 ∧ (0 + 63 % 64) % 2 ^ 32 < 64 ∧ (getF r 5).toNat = r.binding.partCount ∧ (getF r 0).toNat < r.binding.partCount
       ∧ (writeHeader 1 4096 r).isSome = true ∧ writeHeader 1 4128 r = none ∧ r.pkt.kind ≠ 0x0B ∧ (r.stage ≠ 0 ∨ (1 : Nat) ≠ s.pkg)
       ∧ m.pkt.kind = 0x0B ∧ (m.len + 63) / 64 = 0 ∧ (r.len + 63) / 64 ≠ 0 ∧ branchTaken 0 (getF r 1) (getF r 1) = true
       ∧ branchTaken 0 (getF r 1) (getF r 2) = false ∧ AtBox (atBox m) 0 (getBox (atBox m) 0) m) := by decide +kernel

/-! ## The return of data, stores, waits -/

/-- The state an instruction leaves. -/
def after (o : Out) : State := match o with | .next t => t | _ => State.reset

/-- A load of eight lanes that has been issued, and a returning atomic. -/
def loading : State := after (exec (.vld (vm (.v 3) (.v 1) 1 2 false)) laneMem)
def atomicState : State := after (exec (.vatom { vmx (vm (.v 1) (.v 1) 1 2 false) (.v 3) (.v 0) with aop := 1 }) laneMem)

/-- A lane's part of an access to a peer's line. -/
def remoteLane : LaneAcc := { laneAcc (ctxAt laneMem) (.v 3) (fun _ => 0x20000000) (fun _ => 0) (fun _ => 0) 0 with place := .remote 3 0x100 }
def remoteLoad : Access := laneAccess (ctxAt laneMem) (.load false) .vregs 4 0 0 0 [remoteLane]

/-- R107: an atomic add returns the old value. -/
theorem test_atomic_returns_old : (match exec (.loadDataReturn 0 0 3 false)
      { atomicState with mem := cellsWrite memDefault atomicState.mem 0x9008 [5] } with
    | .next t => (vAfter 3 1 (.next t), natOfBytes (readPhys t 0x9008 4)) | _ => (none, 0)) = (some 5, 13) := by decide +kernel

/-- The lanes of a load in flight of the first two lanes, ready to be delivered from memory. -/
theorem witness_returns :
    (let s := loading
     match getWave s 0 with
     | some w => (match w.loads[0]? with
        | some a =>
          let first := firstPieces a.lanes
          let now := first.filter (fun l => !(laneBit l.lane &&& (3 : Mask) == 0))
          now.isEmpty == false && splitsRequest 0 a.width first now == false && a.accTile.isNone && (narrowUnder s 0 a now).isNone
            && now.all (fun l => l.bad == false && l.ready == none && laneClear w a false l == true && placePoisoned s l.place a.width == false)
            && now.all (fun l => match l.place with | .remote _ _ => false | _ => true)
            && (match loadLanes s 0 w a false now with | .ok vs => vs.length == 2 | _ => false)
            && (match a.kind with | .load _ => true | _ => false)
        | none => false)
     | none => false) = true := by decide +kernel

/-- One lane whose bytes are in the L1 copy of its core, in one that is poisoned, in a copy of a peer's line, poisoned in memory, and in an
accumulator; a peer's line that must be asked for; a store performed at CORE that a load at DEVICE scope meets. -/
theorem witness_return_sources :
    (let w := { placedControl with loads := [oneLoad] }
     let l : LaneAcc := oneLoad.lanes.headD { lane := 0, addr := 0, reg := 0, data := 0, cmp := 0 }
     let s := ctl w
     let held := { s with cores := [(0, { getCore s 0 with l1 := [(0x9000 / 128, List.replicate 128 5)] })] }
     let foul := { s with tags := [(0x9000 / 128, 8)] }
     getWave s 0 = some w ∧ w.loads[0]? = some oneLoad ∧ firstPieces oneLoad.lanes = [l] ∧ splitsRequest 0 8 [l] [l] = false ∧ laneClear w oneLoad false l = true
       ∧ readFromL1 held 0 0 w l.place 8 = some (List.replicate 8 5) ∧ l1Fails (getCore held 0) 0x9000 8 = false ∧ oneLoad.scope ≤ 1
       ∧ l1Fails { getCore held 0 with l1Poison := [(0x9000 / 32, true)] } 0x9000 8 = true ∧ placePoisoned foul l.place 8 = true
       ∧ (getTeam s w.team).map (fun t => accFails t 0) = some false ∧ narrowUnder s 0 oneLoad [l] = none)
    ∧ (let w := { placedControl with loads := [remoteLoad] }
       let s := ctl w
       let got := { s with fabric := { s.fabric with copies := [(3 * 2 ^ 48 + 2 * 128, (List.replicate 128 5, false))] } }
       getWave s 0 = some w ∧ w.loads[0]? = some remoteLoad ∧ firstPieces remoteLoad.lanes = [remoteLane]
         ∧ splitsRequest 0 4 [remoteLane] [remoteLane] = false ∧ remoteLane.place = .remote 3 0x100 ∧ laneClear w remoteLoad false remoteLane = true
         ∧ heldCopy s 3 0x100 = none ∧ heldCopy got 3 0x100 = some (List.replicate 128 5, false)
         ∧ s.fabric.unreachable.contains (3 % 65536) = false ∧ lineFree s 3 0x100 = true ∧ ∀ l ∈ remoteLoad.lanes, l.asked = false)
    ∧ (let a := { oneLoad with scope := 4 }
       let u := { placedControl with uid := 2, w := 1, stores := [buffered 1] }
       let s := ctl { placedControl with loads := [a] }
       let s := { s with waves := [(0, { placedControl with loads := [a] }), (1, u)] }
       narrowUnder s 0 a (firstPieces a.lanes) = some (1, buffered 1) ∧ getWave s 1 = some u ∧ (buffered 1).perf < 4 ∧ (buffered 1).rmw = none
         ∧ canPerform { s with fabric := { s.fabric with directory := [] } } 1 u (buffered 1) 4 = true ∧ peersHolding s (buffered 1).place 8 = false) := by
  refine ⟨by decide +kernel, by decide +kernel, by decide +kernel⟩

/-- The lanes of a returning atomic that act in memory; one that meets poison; one on a peer's page, and one that its home has answered. -/
theorem witness_atomic_returns :
    (let s := atomicState
     match getWave s 0 with
     | some w => (match w.loads[0]? with
        | some a =>
          let first := firstPieces a.lanes
          let now := first.filter (fun l => !(laneBit l.lane &&& (3 : Mask) == 0))
          let foul := { s with tags := [(0x9000 / 128, 8)] }
          now.isEmpty == false && splitsRequest 0 a.width first now == false && (narrowUnder s 0 a now).isNone && a.accTile.isNone
            && (match a.kind with | .atomic op => op == .add && (match atomicLanes 0 w a op now s with | .ok _ => true | _ => false) | _ => false)
            && now.all (fun l => l.bad == false && l.ready == none && laneClear w a true l == true && baseClear s l.place a.width == true
                  && peersHolding s l.place a.width == false && placePoisoned s l.place a.width == false && placePoisoned foul l.place a.width)
            && releasesReady s 0 w a
        | none => false)
     | none => false) = true
    ∧ (let a := { remoteLoad with kind := .atomic .add }
       let w := { placedControl with loads := [a] }
       let s := ctl w
       laneClear w a true remoteLane = true ∧ releasesReady s 0 w a = true ∧ remoteLane.asked = false ∧ remoteLane.ready = none ∧ remoteLane.bad = false
         ∧ s.fabric.unreachable.contains (3 % 65536) = false ∧ lineFree s 3 0x100 = true ∧ atomicsOut s 3 0x100 < 1024) := by
  refine ⟨by decide +kernel, by decide +kernel⟩

/-- A store of eight bytes in the buffer of the control stream, and one to a peer's page. -/
def storing : State := after (exec (.sst (cm 2 1 2 3)) (ctl (regs [(1, 0x9000), (2, 7)])))
def oneStore : BufStore :=
  match getWave storing 0 with
  | some w => w.stores.headD (buffered 0)
  | none => buffered 0
def remoteStore : BufStore := { oneStore with place := .remote 3 0x100 }

theorem test_store_performs : natOfBytes (readPhys (after (exec (.storePerformed 0 0 4) storing)) 0x9000 8) = 7 := by decide +kernel

/-- A store that becomes performed inside the core and in memory; a read-modify-write; a store to a peer. -/
theorem witness_stores :
    (match getWave storing 0 with
     | some w =>
       let b := oneStore
       let quietState := { storing with fabric := { storing.fabric with directory := [] } }
       decide (w.stores[0]? = some b ∧ b.place = .glob 0x9000 1 ∧ b.perf < 1 ∧ b.rmw = none ∧ b.bytes.length = 8 ∧ isAtomic b = false
         ∧ isAtomic { b with rmw := some (.add, 1, 0) } = true ∧ placePoisoned storing b.place 8 = false)
         && canPerform quietState 0 w b 1 && canPerform quietState 0 w b 4 && canPerform quietState 0 w b 5
         && placePoisoned { storing with tags := [(0x9000 / 128, 8)] } b.place 8
         && canPerform quietState 0 w { b with rmw := some (.add, 1, 0) } 4 && !(peersHolding storing b.place 8)
     | none => false) = true
    ∧ (let w := { placedControl with stores := [remoteStore] }
       let s := ctl w
       getWave s 0 = some w ∧ w.stores[0]? = some remoteStore ∧ remoteStore.rmw = none ∧ remoteStore.sent = none ∧ lineBehind w remoteStore = false
         ∧ acquired w remoteStore.after = true ∧ remoteStore.bars = [] ∧ w.loads = [] ∧ atomicsOut s 3 0x100 < 1024
         ∧ { remoteStore with rmw := some (.add, 1, 0) }.rmw = some (.add, 1, 0) ∧ s.fabric.unreachable.contains 3 = false ∧ lineFree s 3 0x100 = true) := by
  refine ⟨by decide +kernel, by decide +kernel⟩

/-- A RECV that waits and a value; a block that may begin; each wait of the control stream, ended and not. -/
theorem witness_waits :
    (let e : LaneEntry := { off := 0x40, srcs := [.val 1, .val 2, .val 3] }
     let w := { placedControl with recvs := [5], returnQueue := [10], laneQueue := [e] }
     let wait (c : CtlState) : Wave := { placedControl with ctl := c }
     let at_ (c : CtlState) : State := ctl (wait c)
     getWave (ctl w) 0 = some w ∧ w.recvs = 5 :: [] ∧ w.returnQueue = 10 :: [] ∧ w.laneQueue = e :: [] ∧ w.blockRunning = false ∧ w.ctl ≠ .clearing
       ∧ launchLive (ctl w) w = true ∧ laneVisible w e = true ∧ e.srcs[2]? = some (.val 3) ∧ e.srcs.length = 3
       ∧ launchLive (at_ .lwait) (wait .lwait) = true ∧ (wait .lwait).laneQueue = [] ∧ { w with ctl := .lwait }.laneQueue ≠ []
       ∧ batchPending (wait (.mwait 3)) 3 = false ∧ batchPending { wait (.mwait 3) with engine := [item 1 (.mclr 0 1) (some 3)] } 3 = true
       ∧ (wait (.mwait 3)).engineFault = none ∧ (wait (.fencea 5 7)).engine = [] ∧ unack (at_ (.fencea 5 7)) (wait (.fencea 5 7)) 5 = 0
       ∧ ((barWaves (at_ (.barrier 1)) 1 1 1).filter (fun p => p.2.ctl == .barrier 1
            && decide (Cells.get 0 p.2.barArrivals 1 < commonArrivals (at_ (.barrier 1)) 1 1 1))).length = 1
       ∧ ((barWaves (at_ .running) 1 1 1).filter (fun p => p.2.ctl == .barrier 1)).length = 0
       ∧ (0x9000 : Nat) < 2 ^ 64 ∧ seen (at_ (.waitev 0x9000 0 4 5)) (wait (.waitev 0x9000 0 4 5)) 0x9000 8 8
           = some (List.replicate 8 0) ∧ 0 ≤ natOfBytes (List.replicate 8 0) ∧ natOfBytes (List.replicate 8 0) < 1
       ∧ (let s := at_ .clearing
          let s := { s with cores := [(0, { getCore s 0 with clearQ := [(0, [0])] })] }
          Tbl.find? (getCore s 0).clearQ 0 = some (0 :: []) ∧ (getWave s 0).map (fun u => u.ctl) = some .clearing)) := by
  decide +kernel

/-- A page that is absent: the logged load of the control stream. -/
def logged : State := after (exec (.sld (cm 3 1 0 3)) (ctl (regs [(1, 0x40000000)])))

/-- The log of a wave with its entries awake. -/
def awakened (w : Wave) : Wave := { w with log := w.log.map (fun e => { e with awake := true }) }

/-- An entry that replays once its page is there, one whose page is still absent, one that is denied; a wake by the line of its entry and by
the timer, and none. -/
theorem witness_logs :
    (match getWave logged 0 with
     | some w0 =>
       let w := awakened w0
       let s := setWave logged 0 w
       (match w.log[0]? with
        | some e =>
          let there := { s with mem := cellsWrite memDefault s.mem 0x3010 (bytesOfNat 8 0x3F) }
          let denied := { s with mem := cellsWrite memDefault s.mem 0x3010 (bytesOfNat 8 0x33) }
          e.awake && launchLive s w && !(logBehind s w e) && !(logReleases e)
            && (match e.body with | .access a => decide (a.actor = .control 0) && a.lanes.length == 1
                  && (match reachControl there w .read 0x40000000 8 with | .ok (.at _) => true | _ => false) | _ => false)
            && (match replayEntry there 0 w e with | .done _ => true | _ => false) && (match replayEntry s 0 w e with | .absent _ 0x3010 => true | _ => false)
            && (match replayEntry denied 0 w e with | .stop (.fault 0x0B _ _ _) => true | _ => false)
            && wakeWave { logged with mem := there.mem } none (fun k => k == 0) false w0 != w0 && wakeWave logged none (fun k => k == 0) false w0 == w0
        | none => false)
     | none => false) = true := by decide +kernel

/-- A logged load of two lanes whose page has become valid. -/
def loggedLanes : State :=
  after (exec (.vld (vm (.v 3) (.v 1) 1 2 false)) (lane 3 (vregs [(1, 1, 8)] { placedControl with q := Cells.set 0 [] 1 0x40000000 })))
theorem witness_lane_log :
    (match getWave loggedLanes 0 with
     | some w0 =>
       let w := awakened w0
       let s := setWave loggedLanes 0 w
       let there := { s with mem := cellsWrite memDefault s.mem 0x3010 (bytesOfNat 8 0x3F) }
       (match w.log[0]? with
        | some e => e.awake && !(logBehind there w e) && (match e.body with
            | .access a => isLaneActor a.actor && (match reachLanes there 0 w .read 4 (a.lanes.map (fun l => (l.lane, l.addr))) with
                | .ok (.at ps) => ps.length == 2 | _ => false)
            | _ => false)
        | none => false)
     | none => false) = true := by decide +kernel

/-- A page of 128 KiB of an armed context whose leaf is of an older generation, and a pool of one unit and of none. -/
def armedState (pool : Nat) : State :=
  let s := ctl placedControl
  let m := cellsWrite memDefault (cellsWrite memDefault (cellsWrite memDefault s.mem 0x3008 (bytesOfNat 8 0x6001)) 0x6000 (bytesOfNat 8 0x7001)) 0x7000
    (bytesOfNat 8 0x8003F)
  { s with mem := cellsWrite memDefault m 0x40000 (bytesOfNat 8 0xA0001)
           contexts := [(1, { placedContext with generation := 5, armed := some 1, pool := pool, heldFaults := [] })] }

theorem witness_snapshots :
    (let s := armedState 1
     match getCtx s 1, getLaunch s 1 with
     | some x, some y =>
       (match walkCtx s x 0x20000000 with
        | .leaf l => decide (x.armed = some 1 ∧ y.ending = none ∧ l.remote = false ∧ l.w = true ∧ l.gen ≠ x.generation ∧ l.shift = 17
            ∧ 2 ^ l.shift / 2 ^ 17 = 1 ∧ x.poolUsed + 1 ≤ x.pool) && livePhys s l.addr && (poolUnits s x x.poolUsed 1).isSome
        | _ => false)
     | _, _ => false) = true
    ∧ (match getCtx (armedState 0) 1 with | some x => decide (x.pool < x.poolUsed + 1) && faultRoom x && !(faultRoom { x with faultProd := 64 }) | none => false)
        = true := by
  refine ⟨by decide +kernel, by decide +kernel⟩

/-! ## Engines and launches -/

/-- Row 2 of the A tile of section 08's example: element (m, k) is k − m. -/
def exampleRow : List Nat := (List.range 192).map (fun i => if 128 ≤ i then (i + 256 - 130) % 256 else 0)
def exampleRec : SlotRec :=
  { tableRec false { tensor 1 4 0x400 with cols := 64, tcols := 64, kaxis := 1 } with
    entries := (List.range 256).map (fun k => (512 + k, BitVec.ofNat 32 (tableEntry false (tensor 1 4 0x400) { entries := [], count := 0, version := 0 }
      exampleRow (512 + k)).1)) }
def exampleWeights : TileData :=
  { zero := false, scales := [], codes := (List.range 1024).map (fun i =>
      let k := i % 64; let n := i / 64; if k = 15 - n then 3 else if k % 16 = n then 1 else 0) }

/-- Section 08's example: element (2, 1) of the product is 80, and group 3's contribution there is −12. -/
theorem test_mlut_example :
    (accumulate 1 0 exampleRec { tensor 0 1 0x9000 with rows := 64, trows := 64, stride := 4 } exampleWeights 2 1 0,
      contribInt 1 exampleRec 2 3 [0, 0, 3, 0]) = ((80, 0), -12) := by decide +kernel

/-- Section 01's example of one group of a P3 element: −0.5, scaled by 2 to −1.0, on 3.0. -/
theorem test_p3_group :
    (let xs := [0x3F80, 0x4000, 0x3F00, 0xBF80]
     let r := { exampleRec with entries := (List.range 16).map (fun i => (i, BitVec.ofNat 32 (subsetFp xs i).1)) }
     let c := contribFp 3 r 0 0 [1, 0, 3, 1]
     let z := scaleContrib { tensor 0 1 0 with blockLen := 16 } { zero := false, codes := [], scales := [0x80] } 0 0 c
     (c.1, z.1, (addRNE 0x40400000 z.1).bits)) = (0xBF000000, 0xBF800000, 0x40000000) := by decide +kernel

/-- Section 07's worked decode: column 0, and the unused code at bit 23. -/
theorem test_stream_decodes :
    (let ct := codeTableOf ([5, 1, 0, 3, 1, 0, 0, 0, 0, 0, 0, 0, 0, 0x87, 0xC3, 0x00] ++ List.replicate 16 0)
     let items : List Bool := true :: List.replicate 16 false
     (match decodeItems false false (codewords ct) [0x7E, 0x22, 0xB1, 0xC4, 0x00] 560 560 items 0 [] [] with
      | .ok (p, cs, es) => (p, cs, es) | .error e => (e.bit, [], []),
      match decodeItems false false (codewords ct) [0x7E, 0x22, 0xB1, 0xF4, 0x00] 560 560 items 0 [] [] with
      | .ok _ => (9, 9) | .error e => (e.reason, e.bit)))
    = ((35, [7, 7, 8, 7, 3, 7, 12, 7, 7, 0, 7, 7, 8, 7, 7, 7], [0x7E]), (0, 23)) := by decide +kernel

/-- Section 07's example of a scale byte. -/
theorem test_scale_choice : chooseScale (fpOfFp32 0x40A00000) (fpOfFp32 0x40000000) 0 = (0x81, false) := by decide +kernel

/-- A stream tensor of one 16 × 16 tile, its index entry at 0x9000 and its stream at 0x9100; and a transposed one. -/
def streamT (fmt l : Nat) : Tensor := { tensor 5 fmt 0x9100 with blockLen := l }
def plainScaled : Tensor := { tensor 1 1 0x800 with blockLen := 16, index := 2 ^ 56 + 0x1000, stride := 8, kaxis := 1 }
def noPalette : Palette := { entries := [], count := 0, version := 0 }
def noCode : CodeTable := { count := 0, lengths := [], symbols := [] }

/-- A record of a subset table and one of a product table, of tiles in scratchpad. -/
def subsetRec : SlotRec := tableRec false { tensor 1 4 0x400 with cols := 64, tcols := 64, kaxis := 1 }
def productTile : Tensor := { tensor 1 0x0A 0x400 with kaxis := 1 }

/-- The engines' state with an operation at the head of wave 0's matrix queue: the tile of the stream is zero, or raw. -/
def running (op : EngineOp) (raw : Bool := false) : State :=
  let s := withTensors [] (ctl { placedControl with engine := [item 9 op] } 0x9000 (bytesOfNat 8 (if raw then 1024 * 2 ^ 36 + 2 ^ 61 else 2 ^ 60)))
  { s with teams := Tbl.modify s.teams 1 (fun m => { m with slots := [(0, subsetRec)], tables := [(0, subsetRec)] }) }

/-- The head of wave 0's matrix queue executes: the conditions of `MatrixRuns`. -/
def headOf (s : State) : Bool :=
  match getWave s 0 with
  | some w => (matrixHead w).isSome && (ctxRec s w).isSome && takesHead s 0 w && servedNow s 0 w && unitRuns s 0 && (getTeam s w.team).isSome
  | none => false

def headRuns (op : EngineOp) : Bool := headOf (running op)

/-- The operations of the matrix unit that the witnesses run. -/
def mlutOp (gang : Option (Nat × Nat × List Nat × Nat)) : EngineOp := .mlut 0 0 3 (streamT 1 0) noCode noPalette 0 0 0 gang
def moutOp : EngineOp := .mout 2 (tensor 1 8 0x800) 0 0 0 0 false true
def mtabOp : EngineOp := .mtab true 1 productTile 0 0 1 noPalette 0
def mxpqOp : EngineOp := .mxpq 5 plainScaled 4 (streamT 1 16) noCode noPalette 0 0

/-- A result is there. -/
def good {α : Type} (r : Res α) : Bool := match r with | .ok _ => true | .error _ => false

/-- Every operation of the matrix unit can be the head that executes. -/
theorem runs_of_head {s : State} (h : headOf s = true) : ∃ w x e, MatrixRuns s 0 w x e := by
  unfold headOf at h
  split at h
  · rename_i w hw
    simp only [Bool.and_eq_true, Option.isSome_iff_exists] at h
    obtain ⟨⟨⟨⟨⟨⟨e, he⟩, ⟨c, x⟩, hc⟩, h1⟩, h2⟩, h3⟩, -⟩ := h
    exact ⟨w, x, e, hw, he, ⟨c, hc⟩, h1, h2, h3⟩
  · cases h

theorem witness_heads : ([EngineOp.mclr 0 1, .tbdrop true 0, moutOp, mtabOp, mlutOp none, mxpqOp].all headRuns) = true := by decide +kernel

/-- A usable table, and a B tile that is zero and one that is not; a poisoned accumulator tile. -/
theorem witness_lookup :
    ([false, true].map (fun raw =>
      let s := running (mlutOp none) raw
      match getWave s 0, ctxRec s placedControl with
      | some w, some (_, x) =>
        (match usableTable s 0 w x 0, fetchB s w 0 x 3 (streamT 1 0) noCode noPalette 0 0 with
         | .ok u, .ok d => some (pairOf u.1 (streamT 1 0) 0xFF, d.zero)
         | _, _ => none)
      | _, _ => none)) = [some (some 1, true), some (some 1, false)]
    ∧ (match getTeam (running (mlutOp none)) 1 with
       | some y => !(tilePoisoned y 0) && tilePoisoned { y with accPoison := [(3, true)] } 0
       | none => false) = true := by
  refine ⟨by decide +kernel, by decide +kernel⟩

/-- Tables that can be built, and a conversion that is written. -/
theorem witness_build :
    (let s := running mtabOp
     match getWave s 0, ctxRec s placedControl with
     | some w, some (_, x) => good (buildTables s 0 w x (pendingRec 9 true 1 productTile 0 0 1 noPalette .undefined))
         && good (orEngine true (engineElems 0 w x (item 9 moutOp) (tensor 1 8 0x800) s [(0, 0, 5, false), (15, 15, 0, false)]))
     | _, _ => false) = true := by decide +kernel

/-- A source tile and blocks that are written. -/
theorem witness_transpose :
    (let s := running mxpqOp
     match getWave s 0, ctxRec s placedControl with
     | some w, some (_, x) => good (fetchB s w 0 x 4 (streamT 1 16) noCode noPalette 0 0)
         && good (orEngine true (xposeWrite 0 w x (item 9 mxpqOp) plainScaled 0 0 s [((0, 0), 127, List.replicate 16 1)]))
     | _, _ => false) = true := by decide +kernel

/-- A lookup under way with one group of its four to add, and with its last; with elements that a store has met and others. -/
theorem witness_lookup_turns :
    ([0, 3].map (fun k =>
      let d : TileData := { zero := false, scales := [], codes := List.replicate 1024 1 }
      let e := { item 9 (mlutOp none) with adding := some { table := subsetRec, tile := d, done := k, flags := 0 }, unseen := [7] }
      let s0 := running (mlutOp none)
      let s := { s0 with waves := [(0, { placedControl with engine := [e] })] }
      (headOf s, pairOf subsetRec (streamT 1 0) 0xFF, groupCount 1 (streamT 1 0) d, decide (groupCount 1 (streamT 1 0) d ≤ k + 1), e.unseen.contains 7, e.unseen.contains 8)))
    = [(true, some 1, 4, false, true, false), (true, some 1, 4, true, true, false)] := by decide +kernel

/-- Two waves of one core with ganged operations: the second's may name another part of the tables or slot 1, whose table does not pair with
the tile, or be of a wave that has exited. -/
def gang (gone : Bool) (part slot : Nat) : State :=
  let g := (0, 2 + 2 ^ 10, [1, 2], 0)
  let s := running (mlutOp (some g))
  let op : EngineOp := .mlut 0 slot 3 (streamT 1 0) noCode noPalette 0 0 part (some g)
  let w := { placedControl with uid := 2, w := 1, engine := [item 10 op], ctl := if gone then .exited else .running }
  { s with waves := Tbl.put s.waves 1 w, teams := Tbl.modify s.teams 1 (fun m =>
      { m with slots := [(0, subsetRec), (1, { subsetRec with prod := true })], tables := [(0, subsetRec), (1, { subsetRec with prod := true })] }) }

/-- What the latch of the gang finds: whether the head is there, whether its turn has come, whether any member still waits, whether they
match, whether all can begin, whether one has departed; and which members fail by themselves. -/
def latch (s : State) : List Bool × List Bool :=
  match getWave s 0, ctxRec s placedControl with
  | some w, some (_, x) =>
    let waves := gangWaves s 0 (2 + 2 ^ 10) [1, 2]
    let ms := sortMembers (latched s w waves)
    ([(latchHead s w.uid).isSome, takesHead s 0 w && servedNow s 0 w && unitRuns s 0, ms.any (fun m => waitsForTable s m.1 m.2.1 m.2.2),
      (match ms with | m0 :: r => r.all (fun m => gangMatch s m0 m) | [] => false),
      (match fetchB s w 0 x 3 (streamT 1 0) noCode noPalette 0 0 with | .ok d => good (membersBegin d s ms) | .error _ => false),
      (waves.find? (fun p => departed s p.2)).isSome], ms.map (fun m => (faultOf (ownFailure s m)).isSome))
  | _, _ => ([], [])

theorem witness_gang :
    latch (gang false 0 0) = ([true, true, false, true, true, false], [false, false])
    ∧ (latch (gang true 0 0)).1[5]? = some true ∧ (latch (gang false 1 0)).1[3]? = some false
    ∧ (latch (gang false 0 1)).2 = [false, true] := by decide +kernel

/-- A complete tile of one block, before and after its space was taken. -/
def openTile (append : Option Nat) (phase : Nat := 0) : OpenTile :=
  { tid := 0, t := tensor 5 3 0x9100, row := 0, col := 0, blocks := [(0, { scale := 127, syms := List.replicate 16 3 })], complete := some 1, ct := none,
    append := append, phase := phase }

/-- The team with such a tile open. -/
def encoding (o : OpenTile) : State :=
  let s := ctl placedControl
  { s with teams := Tbl.modify s.teams 1 (fun m => { m with openTiles := [o] }) }

/-- The encoder at each of its phases, with nothing in its way; an append pointer that is poisoned; one that no entry can hold. -/
theorem witness_encoder :
    (let s := encoding (openTile none)
     match getWave s 0, getTeam s 1, ctxRec s placedControl with
     | some w, some y, some (_, x) =>
       let st := formStream none (tileBlocks (openTile (some 0x100)))
       let stream := tensorAddr (tensor 5 3 0x9100) (0x9100 + 0x100)
       !(underTest s 6 0) && (List.find? (fun o : OpenTile => o.complete == some w.uid) y.openTiles).isSome && !(encoderOut s w)
         && (match writeTarget s w x ((openTile none).t.addr + 24) 8 with
             | .ok p => (match p with | .remote _ _ => false | _ => true) && !(ownStoreWaits w w.seq p 8) && !(narrowMeets s (engineOf 0) p 8)
                 && !(peersHolding s p 8) && !(placePoisoned s p 8) && placePoisoned { s with tags := [(0x8000 / 128, 8)] } p 8
             | .error _ => false)
         && (encoderBlocked s w x (stream + st.2.2.length) (st.2.2.length / 128 + 2) stream).isNone
         && good (orEngine true (engineWriteAll s 0 w x (encoderItem w) stream (cleanBytes st.2.2)))
         && (encoderBlocked s w x (0x9000 + 8) 2 0x9000).isNone && (openTile (some 0x100) 1).phase == 1
         && good (orEngine true (engineWriteAll s 0 w x (encoderItem w) 0x9000 (cleanBytes (bytesOfNat 8 (0x10 + st.2.1 * 2 ^ 36 + 2 ^ 61)))))
         && decide ((8 : Nat) % 16 ≠ 0 ∧ 2 ^ 36 ≤ 2 ^ 40 / 16)
     | _, _, _ => false) = true := by decide +kernel

/-- An append pointer on a peer's page: reachable, free and not yet asked. -/
theorem witness_encoder_remote :
    (let s := ctl placedControl
     s.fabric.unreachable.contains (3 % 65536) = false ∧ (openTile none).asked = false ∧ lineFree s 3 0x100 = true ∧ atomicsOut s 3 0x100 < 1024) := by
  decide +kernel

/-- A wave with one copy in its queue, at its turn. -/
def copying (e : EngineItem) (a : Nat := 0xA000) (bs : List Byte := []) : State := ctl { placedControl with engine := [e] } a bs

/-- The conditions of `CopyRuns` hold, with the list read. -/
def copyTurn (s : State) (op : Nat) : Option EngineItem :=
  match getWave s 0 with
  | some w => (match ctxRec s w, List.find? (fun e : EngineItem => e.id == op) (copyItems s w) with
      | some (_, x), some e => if copyServed s 0 e then (match withList s 0 w x e with | .ok y => some y | .error _ => none) else none
      | _, _ => none)
  | none => none

/-- The copies of the witnesses: of a range with a word in hand, of one whose unit is to be read, of one that is read whole, of one that lies
outside the scratchpad, of a row, of a tile of narrow elements, and to two members. -/
def rangeCopy : EngineItem := item 9 (.cpb 0x9000 0x20000 40 false 0)
def oneWord : CopyWord := { dst := .gen 0x20000, bytes := [(1, false)] }
def busyCopy : EngineItem := { rangeCopy with started := true, progress := 32, words := [oneWord] }
def lastCopy : EngineItem := { rangeCopy with started := true, progress := 40 }
def badCopy : EngineItem := item 9 (.cpb (2 ^ 56 + 39680) 0x20000 64 false 0)
def rowCopy : EngineItem := item 9 (.cpg 2 (tensor 0 8 0x9000) 0xA000 1 0)
def narrowRow (kind base : Nat) : Tensor := { tensor kind 3 base with trows := 1, tcols := 4 }
def narrowCopy : EngineItem := item 9 (.cpt 2 (narrowRow 0 0x9000) 3 (narrowRow 1 0x400) 0 0 0 0)
def castCopy : EngineItem := item 9 (.cpmc 0x9000 0x20000 0xA000 1 0)
def memberBytes : List Byte := bytesOfNat 2 2 ++ bytesOfNat 2 3 ++ bytesOfNat 2 9
def copyWave (e : EngineItem) : Wave := { placedControl with engine := [e] }

theorem witness_copy_turns :
    copyTurn (copying busyCopy) 9 = some busyCopy ∧ copyTurn (copying rangeCopy) 9 = some rangeCopy ∧ copyTurn (copying lastCopy) 9 = some lastCopy
    ∧ copyTurn (copying rowCopy) 9 = some { rowCopy with members := some [0] } ∧ copyTurn (copying narrowCopy) 9 = some narrowCopy
    ∧ copyTurn (copying castCopy 0xA000 memberBytes) 9 = some { castCopy with members := some [3, 9] } ∧ copyTurn (copying badCopy) 9 = some badCopy := by
  refine ⟨by decide +kernel, by decide +kernel, by decide +kernel, by decide +kernel, by decide +kernel, by decide +kernel, by decide +kernel⟩

theorem witness_copy_words :
    good (writeWord (copying busyCopy) 0 (copyWave busyCopy) 1 placedContext busyCopy oneWord.dst oneWord.bytes) = true
    ∧ good (closeLines 0 (copyWave lastCopy) placedContext lastCopy lastCopy.lines (copying lastCopy)) = true
    ∧ runsLength (copyStreams lastCopy).1 ≤ lastCopy.progress ∧ rangeCopy.progress < runsLength (copyStreams rangeCopy).1
    ∧ good (readUnit (copying rangeCopy) 0 (copyWave rangeCopy) placedContext false (sliceRuns (fun a k => a + k) 0 40 (copyStreams rangeCopy).1)) = true := by
  refine ⟨by decide +kernel, by decide +kernel, by decide +kernel, by decide +kernel, by decide +kernel⟩

theorem witness_copy_tile :
    good (copyTile (copying narrowCopy) 0 (copyWave narrowCopy) 1 placedContext narrowCopy (narrowRow 0 0x9000) (narrowRow 1 0x400) 0 0 0 0) = true := by
  decide +kernel

theorem witness_copy_cast :
    (let c := { castCopy with members := some [3, 9] }
     good (castUnits 0 (copyWave c) placedContext c 0x9000 0x20000 (castMembers c) 1 0 (copying c))) = true := by decide +kernel

theorem witness_copy_fault :
    (match copyBody (copying badCopy) 0 (copyWave badCopy) 1 placedContext badCopy with | .error (.fault _ _ _ _) => true | _ => false) = true
    ∧ (match scramble (copying badCopy) 0 (copyWave badCopy) 1 placedContext badCopy 0x09 with | .ok _ => true | _ => false) = true := by
  refine ⟨by decide +kernel, by decide +kernel⟩

/-- A multicast copy whose members have answered, one of which failed. -/
theorem witness_cast_completes :
    (let e := { item 9 (.cpmc 0x9000 0x20000 0xA000 1 0) with injected := true, failed := [1], members := some [3, 9] }
     let w := { placedControl with engine := [e] }
     let s := ctl w
     getWave s 0 = some w ∧ List.find? (fun e : EngineItem => e.id == 9 && e.injected) w.engine = some e ∧ castPending s w.uid 9 = false
       ∧ good (orEngine true (engineWriteAll (modWave s 0 (asyncError 0x18 9)) 0 w placedContext e (roundUp (0xA000 + 2 + 4) 8) (cleanBytes (bytesOfNat 8 2))))
          = true) := by decide +kernel

/-- A SEND that can be injected; a register-file write with a target and one without. -/
theorem witness_sends :
    (let cap : Capability := { kind := 1, perms := 1, pkg := 1, job := 2, ring := 3, allowance := 64, depth := 0 }
     let e := item 9 (.send 0 cap 0x9000 64 5)
     let w := { placedControl with engine := [e] }
     let s := ctl w
     match ctxRec s w with
     | some (_, x) => launchLive s w && itemReady s w e && !(sendBehind w e 0) && decide (Cells.get 0 x.inflight 0 + 64 ≤ cap.allowance)
         && !(s.fabric.unreachable.contains cap.pkg) && decide (messagesOut s cap.pkg cap.ring < 1024) && good (orEngine false (copyBytes s 0 w x 0x9000 64))
         && decide (e.hazard = 0)
     | none => false) = true
    ∧ (let z : WindowWrite := { uid := 1, op := 9, ctx := 1, target := 0, reg := 3, words := List.replicate 96 0 }
       let s := { ctl placedControl with windowWrites := [z, { z with ctx := 2, reg := 4 }] }
       s.windowWrites[0]? = some z ∧ (windowTarget s z).isSome = true ∧ placedControl.ctl ≠ .clearing
         ∧ (List.range 96).all (fun l => !(vIsEmpty placedControl 3 l)) = true ∧ s.windowWrites[1]? = some { z with ctx := 2, reg := 4 }
         ∧ (s.windowWrites.take 1).any (fun y => y.uid == z.uid && y.target == z.target && y.reg == 4) = false
         ∧ (windowTarget s { z with ctx := 2, reg := 4 }).isNone = true) := by
  refine ⟨by decide +kernel, by decide +kernel⟩

/-- The bytes of a launch entry: 3 teams of one wave. -/
def entryBytes : List Byte :=
  bytesOfNat 8 0x4000 ++ bytesOfNat 8 0x4000 ++ bytesOfNat 4 3 ++ bytesOfNat 2 40 ++ [1, 0] ++ bytesOfNat 4 7936 ++ bytesOfNat 2 0 ++ [0, 0]
    ++ bytesOfNat 4 0xFFFFFFFF ++ bytesOfNat 2 0 ++ bytesOfNat 2 1 ++ List.replicate 48 0 ++ bytesOfNat 4 0 ++ bytesOfNat 4 1000
    ++ List.replicate 32 0

/-- A hub that serves queue 5, with an entry in it, domain 0 ready; no launch runs. -/
def queued (bs : List Byte) : State :=
  let s := ctl placedControl 0x8000 bs
  { s with
    hub := { s.hub with queues := [(5, { base := 0x8000, ctx := 1, log2 := 1, prio := 2, deviceFed := false, enable := true, head := 0, tail := 1 })],
                        queuesReady := 32, hubReady := true, domainsReady := 1 }
    launches := [], teams := [], waves := [], actor := .none }

theorem test_launch_take_starts : (match exec .launchTake (queued entryBytes) with
    | .next t => (t.launches.map (fun l => (l.2.state, l.2.waitingTeams, l.2.eligible.length)), (getQueue t 5).head) | _ => ([], 9))
    = ([(.running, [0, 1, 2], 32)], 1) := by decide +kernel
theorem test_launch_take_refuses : (match exec .launchTake (queued (entryBytes.set 22 0)) with
    | .next t => (t.launches.map (fun l => l.2.state), faultAfter (.next t)) | _ => ([], none)) = ([.refused], some (4, 22)) := by decide +kernel

/-- An entry that starts, one that no core fits, and one with a bad field. -/
theorem witness_launch_taking :
    (let s := queued entryBytes
     let q := getQueue s 5
     let bs := readPhys s (q.base + 128 * q.head) 128
     let e := entryOf bs
     let l := newLaunch 5 q (q.base + 128 * q.head) e
     s.stalled = false ∧ served s = true ∧ nextQueue s = some 5 ∧ goesOn s 5 = none ∧ entryBad bs e = none ∧ (getCtx s l.ctx).isSome = true ∧ behindRollback s 77 l = false
       ∧ e.waitAddr = 0 ∧ e.install = 0 ∧ (eligibleCores s l).isEmpty = false ∧ fitBad s l (eligibleCores s l) = none ∧ flagRestartable l = false
       ∧ (fitBad s { l with e := { e with waves := 32, regs := 256 } } (eligibleCores s l)).isSome = true
       ∧ (entryBad (entryBytes.set 22 0) (entryOf (entryBytes.set 22 0))) = some (4, 22)) := by decide +kernel

/-- A restartable entry: its context neither armed nor at its last generation, armed, and at its last; and no core that is ready. -/
theorem witness_restartable_entry :
    (let s := queued (entryBytes.set 23 1)
     let bs := readPhys s 0x8000 128
     let l := newLaunch 5 (getQueue s 5) 0x8000 (entryOf bs)
     goesOn s 5 = none ∧ nextQueue s = some 5 ∧ entryBad bs l.e = none ∧ flagRestartable l = true ∧ l.e.waitAddr = 0 ∧ l.e.install = 0
       ∧ eligibleCores s l ≠ [] ∧ fitBad s l (eligibleCores s l) = none ∧ placedContext.armed = none ∧ placedContext.generation ≠ 65535
       ∧ { placedContext with armed := some 9 }.armed ≠ none ∧ { placedContext with generation := 65535 }.generation = 65535
       ∧ eligibleCores { s with hub := { s.hub with domainsReady := 0 } } l = []) := by decide +kernel

/-- A launch that waits for its event at, below and beyond its value, and an access whose page is absent and present. -/
theorem witness_launch_waits :
    (let l := { newLaunch 5 (getQueue (queued entryBytes) 5) 0x8000 { placedEntry with waitAddr := 0x9000, waitValue := 5 } with state := .waiting }
     let s (v : Nat) : State := { queued entryBytes with launches := [(7, l)], mem := cellsWrite memDefault (queued entryBytes).mem 0x9000 (bytesOfNat 8 v) }
     match getCtx (s 5) 1 with
     | some x => behindRollback (s 5) 7 l == false && decide (l.state = .waiting ∧ l.cpWait = none ∧ l.phase = 0 ∧ l.e.waitAddr ≠ 0) && served (s 5)
         && [4, 5, 2 ^ 63].all (fun v => match deviceRead (s v) x 0x9000 8 with | .ok bs => natOfBytes bs == v | .error _ => false)
         && (match afterEvent { s 5 with launches := Tbl.put (s 5).launches 7 { l with phase := 1 } } 7 { l with phase := 1 } x with | .next _ => true | _ => false)
         && decide (nextQueue (s 5) = some 5 ∧ goesOn (s 5) 5 = some 7 ∧ goesOn (s (2 ^ 63)) 5 = some 7 ∧ goesOn (s 4) 5 = none)
         && decide (translate (s 5) x .read 0x40000000 = .absent 0x3010 ∧ translate (s 5) x .atomic 0x9000 = .to (.glob 0x9000 1))
     | none => false) = true := by decide +kernel

/-- The ways a launch ends. -/
theorem witness_launch_ends :
    (let s := ctl { placedControl with ctl := .exited }
     let l := { placedLaunch with retired := 1 }
     let d := { l with e := { placedEntry with doneAddr := 0x9000, doneAdd := 3 } }
     let late := { placedLaunch with elapsed := 1000000 }
     let killed := { placedLaunch with ending := some .kill }
     let back := { placedLaunch with ending := some (.rollback none) }
     l.cpWait = none ∧ l.e.doneAddr = 0 ∧ l.state = .running ∧ l.retired = l.e.teams ∧ l.ending = none ∧ d.e.doneAddr % 8 = 0
       ∧ (match getCtx s 1 with | some x => good (orEngine true (deviceAtomic s x 0x9000 1 3)) | none => false) = true
       ∧ watchReason late = some 1 ∧ watchReason { late with e := { placedEntry with flags := 4, timeLimit := 0 } } = some 0
       ∧ killed.stopped = false ∧ { killed with stopped := true }.stopped = true
       ∧ launchStopped { s with launches := [(1, killed)] } 1 killed = true ∧ launchStopped { s with launches := [(1, back)] } 1 back = true
       ∧ launchQuiet { s with launches := [(1, back)] } 1 = true
       ∧ (match getCtx s 1 with | some x => (snapshotHeld s x).isNone | none => false) = true) := by decide +kernel
theorem witness_held_snapshot :
    (let s := ctl placedControl
     let t := { s with fabric := { s.fabric with directory := [(0x9000 / 128, [3])] } }
     match getCtx t 1 with | some x => (snapshotHeld t { x with snapshots := [(0x9000 / 131072 * 131072, 131072, 0, 0)], armed := some 1 }).isSome | none => false)
      = true := by decide +kernel

/-- A host-fed queue of eight entries: a tail that fits to the last free entry, one beyond it, one past the ring; a queue that the device
feeds; a write behind one that is posted. -/
theorem witness_queue_tails :
    (let q : Queue := { base := 0x8000, ctx := 1, log2 := 3, prio := 0, deviceFed := false, enable := true, head := 6, tail := 7 }
     let s := modHub State.reset (fun h => { h with queues := [(5, q)], queuesReady := 32, hubReady := true })
     let used := (7 + 2 ^ 16 - 6) % 8
     let forward (t : Nat) : Nat := (t + 2 ^ 16 - 7) % 8
     getQueue s 5 = q ∧ queueLive s 5 = true ∧ used = 1 ∧ forward 5 ≤ 8 - 1 - used ∧ ¬ forward 6 ≤ 8 - 1 - used ∧ ¬ (8 : Nat) < 8
       ∧ { q with deviceFed := true }.deviceFed = true ∧ s.hub.posted = []) := by decide +kernel

/-! ## Queues, the host, teams, contexts -/

/-- The queues' state with an entry taken already: head 1, tail 1, size 2; queue 6 is device-fed, queue 7 has no context. -/
def hostState : State :=
  let s := queued []
  let q := getQueue s 5
  { s with hub := { s.hub with queues := [(5, { q with log2 := 4, head := 1 }), (6, { q with deviceFed := true }), (7, { q with enable := false })],
                               queuesReady := 224, winBase := 0 } }

/-- Writes of the host to memory that is live and to memory that is not, with the last byte of a line; a queue that is ready and one that is
not. -/
theorem witness_host_accesses :
    (let s := hostState
     livePhys s (s.hub.winBase + 0x907F) = true ∧ livePhys s (s.hub.winBase + 2 ^ 36 - 1) = false ∧ hostMustWait s 0x907F = false ∧ holdersOf s (0x907F / 128) = []
       ∧ s.hub.posted = [] ∧ { s.hub with posted := [(0x9000, [1])] }.posted ≠ []
       ∧ holdersOf { s with fabric := { s.fabric with directory := [(0x907F / 128, [(3, 1, 0x9000)])] } } (0x907F / 128) ≠ []
       ∧ 0x907F % 128 + 1 ≤ 128 ∧ s.hub.hubReady = true ∧ s.hub.queuesReady / 2 ^ 4 % 2 = 0 ∧ s.hub.queuesReady / 2 ^ 7 % 2 = 1
       ∧ (getQueue s 7).enable = false ∧ (0x1000 : Dword).toNat % 4096 = 0 ∧ 400 ≤ (2800 : Dword).toNat % 4096) := by decide +kernel
theorem test_qtail_moves : (match exec (.qtailWrite 5 2) hostState with | .next t => (getQueue t 5).tail | _ => 99) = 2 := by decide +kernel
theorem test_qctl_write : (match exec (.registerWrite (0x10000 + 32 * 7 + 8) (2 ^ 48 + 5 * 2 ^ 8 + 3 * 2 ^ 4 + 1)) hostState with
    | .next t => (getQueue t 7, (getQueue t 7).enable) | _ => (fedQueue, false))
    = ({ base := 0x8000, ctx := 1, log2 := 5, prio := 3, deviceFed := false, enable := true, head := 0, tail := 1 }, true) := by decide +kernel
theorem test_window_write : (match exec (.hostWindowAccess 0x9000 (some [1, 2]) 2) hostState with
    | .next t => readPhysNat t 0x9000 8 | _ => 0) = 0x0201 := by decide +kernel

/-- A launch with one waiting team and an eligible core; the hub serves queues. -/
def placing (saved : Bool) : State :=
  let s := ctl placedControl
  let t := newTeam 1 0 0 [0] 32 0 39680 0 4 0 2
  { s with
    hub := { s.hub with domainsReady := 1, hubReady := true }, waves := [], actor := .none
    teams := if saved then [(1, { t with saved := some (0, [placedControl]) })] else []
    launches := [(1, { placedLaunch with waitingTeams := [0], savedTeams := if saved then [1] else [], started := saved })] }

/-- A fresh team that is placed, a saved one that is placed again, and a change of splits alone. -/
theorem witness_placing :
    (let s := placing false
     let r := placing true
     let big := { s with launches := [(1, { placedLaunch with waitingTeams := [0], started := false, e := { placedEntry with spad := 2539520, split := 15, acc := 1000 } })] }
     served s = true ∧ (s.hbm.any (fun k => k.2.busy)) = false
       ∧ decide ((nextMove s).1 ≠ s ∧ savedKeys (nextMove s).1 = savedKeys s) = true
       ∧ (nextMove r).2 = true ∧ (savedKeys r).contains 1 = true ∧ (savedKeys (nextMove r).1).contains 1 = false
       ∧ decide ((nextMove big).1 ≠ big ∧ savedKeys (nextMove big).1 = savedKeys big) = true
       ∧ decide ((nextMove (nextMove big).1).1 = (nextMove big).1) = true) := by decide +kernel
theorem witness_fresh_team :
    (let s := placing false
     let l := { placedLaunch with waitingTeams := [0], started := false }
     lowestTeam l = some 0 ∧ (savedTeam s l 0).isNone = true ∧ (seatOfTeam s 1 l 0 0).isSome = true ∧ (placeOn s 1 l 0).isSome = true) := by decide +kernel
theorem test_team_place : (match exec .teamPlace (placing false) with
    | .next t => (t.waves.map (fun p => (p.1, p.2.ctl)), t.teams.length) | _ => ([], 9)) = ([(0, .clearing)], 1) := by decide +kernel

/-- A team that retires and one that does not; a split that takes effect; teams that are saved for a drop and for a launch of more
priority. -/
theorem witness_teams :
    (let s := ctl { placedControl with ctl := .exited }
     let r := ctl placedControl
     let split := setCore r 0 { getCore r 0 with pendingSplit := some 512 }
     let drop := setStack r 0 { getStack r 0 with busy := true }
     let u := { placedLaunch with prio := 1, order := 1, waitingTeams := [0], started := false, qentry := 0x8080,
                                  e := { placedEntry with split := 0 } }
     let full := { r with launches := [(1, { placedLaunch with e := { placedEntry with split := 0 } }), (2, { u with e := { u.e with acc := 512 } })] }
     teamWaves s 1 ≠ [] ∧ (match teamWaves s 1 with | p :: _ => decide (p.2.ctl = .exited ∧ p.2.engine = [] ∧ p.2.stores = [] ∧ p.2.encoderPending = 0) | [] => false) = true
       ∧ (match teamWaves r 1 with | p :: _ => decide (p.2.ctl ≠ .exited) | [] => false) = true
       ∧ (teamsOn split 0).all (fun t => decide (t.spadBase + t.spadSize ≤ 512 / 32 * 7936)) = true ∧ (getCore split 0).pendingSplit = some 512
       ∧ dropRunning drop = true ∧ savedWith drop 1 = [1] ∧ teamSavable r 1 = true
       ∧ (match getCtx full 1 with | some x => freeFrame x == some 0 | none => false) = true
       ∧ (waitingLaunches (requestSplits full)).any (fun p => match chosenFor (requestSplits full) p with | some ks => ks.contains 1 | none => false) = true) := by
  decide +kernel
theorem test_team_retires : (match exec (.teamRetire 1) (ctl { placedControl with ctl := .exited }) with
    | .next t => (t.waves.length, t.teams.length, (getLaunch t 1).map (fun l => l.retired), t.hub.freedCores) | _ => (9, 9, none, []))
    = (0, 0, some 1, [0]) := by decide +kernel

/-- A descriptor of a context with job 2. -/
def contextBytes : List Byte :=
  bytesOfNat 8 0x1000 ++ bytesOfNat 8 0x50000 ++ [6, 6, 0, 0] ++ bytesOfNat 2 2 ++ bytesOfNat 2 0 ++ bytesOfNat 8 0x60000 ++ bytesOfNat 8 (48 * 2 ^ 30) ++ bytesOfNat 4 0
    ++ bytesOfNat 4 0 ++ bytesOfNat 8 0x1000 ++ bytesOfNat 8 (49 * 2 ^ 30)

/-- The hub with a command block of context c. -/
def commanding (c : Nat) (b : ControlBlock) (w : Wave := placedControl) (bs : List Byte := []) : State :=
  let s := ctl w 0x9000 bs
  { s with hub := { s.hub with hubReady := true, blocks := [(c, b)] } }

def isDone (r : Commanded) : Bool := match r with | .done _ => true | _ => false

/-- Each command: done, and refused where it can be; one that goes on. -/
theorem witness_commands :
    (let b := ControlBlock.reset
     let s := commanding 1 { b with param0 := 0x8000 }
     let gone := { s with launches := [], teams := [], waves := [] }
     let far := commanding 1 { b with param0 := 0x20000, param1 := 0x20000 } 
     (getBlock s 1).busy = false
       ∧ isDone (destroyContext gone 1) = true ∧ destroyContext s 1 = .refused ∧ isDone (stopCommand s 1 true) = true ∧ stopCommand s 1 false = .refused
       ∧ isDone (stopCommand (commanding 1 { b with param0 := 0x8000 } { placedControl with held := [0] }) 1 false) = true
       ∧ isDone (invalidateRange far 1) = true ∧ invalidateRange (commanding 1 { b with param0 := 5 }) 1 = .refused
       ∧ isDone (debugSet (commanding 1 { b with param1 := 5 }) 1) = true ∧ debugSet (commanding 1 { b with param0 := 25 }) 1 = .refused
       ∧ replaySet s 1 = .refused ∧ isDone (generationReset s 1) = true ∧ generationReset s 2 = .refused
       ∧ (getBlock (commanding 1 { b with param1 := 5 }) 1).param1.toNat = 5) := by decide +kernel
theorem witness_stops :
    (let s := commanding 1 { ControlBlock.reset with param0 := 0x8000 }
     let z := stoppedOf (getBlock s 1)
     (launchAt s 1 z.qentry).map (fun p => p.1) = some 1 ∧ z.level = 0 ∧ z.lane = false ∧ (launchOf s placedControl).map (fun p => p.1) = some 1
       ∧ (getWave s z.wid).map (fun w => w.held) = some [] ∧ (launchAt s 1 0x9999).isNone = true) := by decide +kernel
/-- Stops: of a path with one stop of its own and none, of a wave and of a launch with one and none, and of level 3. -/
theorem witness_stop_levels :
    (let b (level lane : Nat) : ControlBlock := { ControlBlock.reset with param0 := 0x8000, param1 := BitVec.ofNat 64 (lane * 2 ^ 18 + level * 2 ^ 19) }
     let p := { rootPath 0 (launchMask false) with held := [0] }
     let w := { placedControl with held := [1], stops := [1], paths := [(0, p)] }
     let s (k : ControlBlock) : State := commanding 1 k w
     let z (k : ControlBlock) : Stopped := stoppedOf (getBlock (s k) 1)
     (z (b 0 1)).lane = true ∧ (z (b 0 1)).level = 0 ∧ actorHeld (s (b 0 1)) (.path 0 0) = some [0] ∧ 0 ∈ ([0] : List Nat)
       ∧ actorHeld (s (b 0 0)) (.control 0) = some [1] ∧ 0 ∉ ([1] : List Nat) ∧ actorHeld (s (b 0 1)) (.path 0 5) = none
       ∧ (z (b 1 0)).level = 1 ∧ 1 ∈ w.stops ∧ 1 ∉ placedControl.stops ∧ (z (b 2 0)).level = 2 ∧ 2 ∈ { placedLaunch with stops := [2] }.stops
       ∧ 2 ∉ placedLaunch.stops ∧ (z (b 3 0)).level = 3 ∧ (launchAt (s (b 3 0)) 1 0x8000).isSome = true) := by decide +kernel

/-- Commands of a context that exists: an entry that a launch waits at, a range with a store that is not performed and without, the smallest
and the largest replay region of an entry that waits, and one too small; a context that has nothing to do, and one with a launch. -/
theorem witness_context_block :
    (let s := ctl { placedControl with stores := [buffered 0] }
     let w := queued []
     (match getCtx (ctl placedControl) 1 with
      | some x => decide (walkCtx (ctl placedControl) x 0x40000000 = .absent 0x3010)
          && (match walkCtx (ctl placedControl) x 0x9000 with | .leaf _ => true | _ => false) | none => false) = true
       ∧ rangeSettled s 1 0 0x20000 = false ∧ rangeSettled s 1 0x20000 0x20000 = true ∧ rangeSettled (ctl placedControl) 1 0 0 = true
       ∧ (0x20000 : Nat) % 2 ^ 17 = 0 ∧ entryWaits w 1 0x8000 = true ∧ entryWaits w 1 0x8080 = false
       ∧ (2 ^ 21 + 20) / 32 % 2 ^ 15 = 0 ∧ (2 ^ 21 + 20 : Nat) % 32 = 20 ∧ (2 ^ 21 : Nat) % 32 = 0 ∧ ¬ 20 ≤ (2 ^ 21 + 19) % 32
       ∧ contextIdle { w with hub := { w.hub with queues := [] } } 1 = true ∧ contextIdle s 1 = false ∧ getCtx s 5 = none) := by decide +kernel

/-- A descriptor of a context that fits, one whose job another has, and one that breaks R382; a block that may create and one that may not. -/
theorem witness_context_fits :
    (let s := { commanding 2 { ControlBlock.reset with cdesc := 0x9000 } placedControl contextBytes with contexts := [] }
     match descriptorContext (readPhys s 0x9000 64) with
     | some x => areasOk s x && s.contexts.all (fun p => p.2.job != x.job) && !({ s with contexts := [(1, x)] }.contexts.all (fun p => p.2.job != x.job))
         && (getCtx s 2).isNone && !(bytesPoisoned s 0x9000 64) && (descriptorContext (contextBytes.set 16 5)).isNone && decide ((0x9020 : Nat) % 64 ≠ 0)
     | none => false) = true := by decide +kernel

theorem witness_debug_values :
    (match getCtx (ctl placedControl) 1 with
     | some x => debugOk x 0 5 && debugOk x 15 (2 ^ 24) && !(debugOk x 15 (2 ^ 26)) && debugOk x 24 (10 * 2 ^ 13) && debugOk x 24 (24 * 2 ^ 13)
         && !(debugOk x 24 (25 * 2 ^ 13)) && !(debugOk x 24 (9 * 2 ^ 13)) && debugOk x 23 (17 * 16 + 1) && !(debugOk x 23 (18 * 16 + 1))
     | none => false) = true := by decide +kernel

/-- A context that can be created. -/
theorem witness_context_create :
    (let s := commanding 2 { ControlBlock.reset with cdesc := 0x9000 } placedControl contextBytes
     let s := { s with contexts := [] }
     isDone (createContext s 2) = true ∧ createContext (commanding 1 ControlBlock.reset) 1 = .refused) := by decide +kernel
theorem test_context_hold : (match exec (.contextHold 1) (commanding 1 { ControlBlock.reset with param0 := 0x8000 }) with
    | .next t => ((getWave t 0).map (fun w => w.held), (getBlock t 1).result) | _ => (none, 9)) = (some [0], 0) := by decide +kernel

/-- A launch with a replay region; an interval that runs, and one that is complete; a context that samples. -/
def replaying : State :=
  let s := ctl placedControl
  let z : Interval := { lid := 1, wave := 0, number := 1, start := placedControl, stores := [], status := 0 }
  { s with contexts := [(1, { placedContext with replays := [(0x8000, 2 ^ 21, 20)] }), (2, { placedContext with debug := Cells.set 0 [] 24 (10 * 2 ^ 13) })],
           intervals := [z, { z with wave := 1, status := 1, stores := [(0x9000, 4, 7)] }] }

theorem witness_replay :
    (let s := replaying
     replayOf s placedLaunch = some (2 ^ 21, 20) ∧ launchLive s placedControl = true ∧ (getTeam s 1).isSome = true
       ∧ (s.intervals.find? (fun z => z.lid == 1 && z.wave == 0 && z.number == 1)).map (fun z => z.status) = some 0
       ∧ (s.intervals.find? (fun z => z.lid == 1 && z.wave == 1 && z.number == 1)).map (fun z => z.status) = some 1
       ∧ placedControl.interval = 0 ∧ placedControl.ctl ≠ .exited ∧ placedControl.ctl ≠ .clearing ∧ launchOf s placedControl = some (1, placedLaunch)
       ∧ (getCtx s 2).map (fun x => decide ((Cells.get 0 x.debug 24).toNat / 2 ^ 13 % 32 ≠ 0)) = some true
       ∧ (getCtx s 1).map (fun x => decide ((Cells.get 0 x.debug 24).toNat / 2 ^ 13 % 32 = 0)) = some true) := by decide +kernel
theorem test_replay_run : (match exec (.replayRun 1 1 1 0x9000) replaying with | .next t => t.replayed | _ => []) = [(0x9000, 4, 7)] := by decide +kernel

/-- A load in an interval: its line is logged when it returns (R356). -/
theorem test_interval_log :
    (match exec (.sld (cm 3 1 0 2)) { ctl { regs [(1, 0x9000)] with interval := 1 } 0x9000 [1, 2, 3] with
        intervals := [{ lid := 1, wave := 0, number := 1, start := placedControl, stores := [], status := 0 }] } with
     | .next t =>
       (match runTurn t (.event (.loadDataReturn 0 0 1 false)) with
        | .next u => u.intervals.map (fun z => z.log) == [[.image 0x120 (1 :: 2 :: 3 :: List.replicate 125 0)]]
        | _ => false)
     | _ => false) = true := by decide +kernel
/-- The wave of a launch with a replay region waits for its first interval to begin (R355). -/
theorem test_interval_due : mayIssue replaying (.control 0) = false := by decide +kernel

/-! ## Packets -/

/-- A packet of a kind to this package, of job 1, at 0x9000. -/
def packet (kind len : Nat) : Packet :=
  { placedPacket with kind := kind, source := 3, tag := 5, addr := 0x9000, length := len, payload := List.replicate len 1 }

/-- The packets' state: a receive ring 5 with one buffer posted; a box that takes flows of job 1 of kind 1 at stage 0. -/
def receiving : State :=
  let s := ctl placedControl
  { s with contexts := [(1, { placedContext with caps := [(7, { kind := 2, perms := 6, pkg := 0, job := 0, ring := 5, allowance := 0, depth := 4 })],
                                                 posted := [(7, [{ addr := 0xA000, len := 64, placed := none }])] })] }

def translates (s : State) (w : Want) (a pa : Nat) : Bool :=
  match getCtx s 1 with
  | some x => (match deviceTarget s x w a with | .ok (.glob p _) => p == pa | _ => false)
  | none => false

def isAbsent (s : State) (w : Want) (a : Nat) : Bool :=
  match getCtx s 1 with
  | some x => (match deviceTarget s x w a with | .error (.absent _ _) => true | _ => false)
  | none => false

/-- Requests that are good, whose job or page is absent, that go elsewhere, and that no die passes. -/
theorem witness_requests :
    (let s := receiving
     let at_ := packet 5 32
     let add := { at_ with payload := atomicPayload 1 4 0 7 0 }
     let seen := { s with fabric := { s.fabric with atomAnswers := [(3, 0, 5, 9)] } }
     [(1, 0), (3, 32), (3, 128), (4, 160), (5, 32), (9, 0)].all (fun k => packetOk (packet k.1 k.2)) = true
       ∧ packetOk (packet 3 160) = false ∧ packetOk (packet 3 0) = false ∧ packetOk { packet 1 0 with dest := 4096 } = false
       ∧ packetOk { packet 1 0 with dest := 4095 } = true ∧ s.pkg = 0
       ∧ (ctxWithJob s 1).map (fun p => p.1) = some 1 ∧ (ctxWithJob s 2).isNone = true
       ∧ translates s .read 0x9000 0x9000 = true ∧ translates s .write 0x9000 0x9000 = true ∧ translates s .atomic 0x9000 0x9000 = true
       ∧ isAbsent s .read 0x40000000 = true ∧ fifthHolder (holdersOf s (0x9000 / 128)) 3 = [] ∧ holdersOf s (0x9000 / 128) = []
       ∧ packetOk add = true ∧ atomicOk add = true ∧ natOfBytes (add.payload.take 8) % 256 = 1 ∧ placePoisoned s (.glob 0x9000 0) 4 = false
       ∧ (List.find? (fun a : Nat × Nat × Nat × Nat => a.1 == 3 && a.2.1 == 0 && a.2.2.1 == 5) s.fabric.atomAnswers).isNone = true
       ∧ List.find? (fun a : Nat × Nat × Nat × Nat => a.1 == 3 && a.2.1 == 0 && a.2.2.1 == 5) seen.fabric.atomAnswers = some (3, 0, 5, 9)) := by
  decide +kernel
theorem test_packet_write : (match exec (.writePacket (packet 3 32)) receiving with
    | .next t => (readPhysNat t 0x9000 4, readPhysNat t 0x9020 4) | _ => (0, 0)) = (0x01010101, 0) := by decide +kernel
theorem test_masked_write : (match exec (.maskedWrite { packet 4 160 with payload := bytesOfNat 32 0x9 ++ List.replicate 128 2 }) receiving with
    | .next t => readPhysNat t 0x9000 8 | _ => 0) = 0x02000002 := by decide +kernel
theorem test_packet_atomic : (match exec (.atomicPacket { packet 5 32 with payload := atomicPayload 1 4 0 7 0 })
      { receiving with mem := cellsWrite memDefault receiving.mem 0x9000 [3] } with
    | .next t => (readPhysNat t 0x9000 4, t.fabric.atomAnswers) | _ => (0, [])) = (10, [(3, 0, 5, 3)]) := by decide +kernel
/-- The fifth package to read a line sends the one away that read it earliest. -/
theorem test_fifth_holder : fifthHolder [(4, 1, 0), (5, 1, 0), (6, 1, 0), (7, 1, 0)] 3 = [(4, 1, 0)] ∧ fifthHolder [(4, 1, 0), (5, 1, 0), (6, 1, 0), (3, 1, 0)] 3 = [] := by
  decide +kernel

/-- A packet of this package that waits for its answer. -/
def sentOf (kind : Nat) (purpose : SentFor) (retry : Option Nat := none) (lost : Bool := false) : Sent :=
  { pkt := { packet kind 0 with source := 0, dest := 3 }, purpose := purpose, retry := retry, lost := lost }

def awaiting (x : Sent) : State :=
  let s := receiving
  { s with fabric := { s.fabric with sent := [(4, x)], routes := [(3 * 4, 2)] } }

/-- Answers to what was sent, one to nothing, and a packet whose delay is over. -/
theorem witness_answers :
    ([(packet 2 128, sentOf 1 (.load 1 0), [1]), (packet 6 32, sentOf 5 (.rmw 1 0 0), [5]), (packet 7 0, sentOf 3 (.store 1 0), [3, 4]),
      (packet 7 0, sentOf 4 (.copy 1 0 0), [3, 4]), (packet 8 32, sentOf 1 .none, [1, 3, 4, 5]), (packet 10 0, sentOf 9 .none, [9]),
      (packet 12 32, sentOf 11 (.message 1 0 1 0), [11])].all (fun k =>
        packetOk k.1 && k.1.dest == (awaiting k.2.1).pkg && (answered (awaiting k.2.1) k.1 k.2.2).map (fun p => p.1) == some 4)) = true
      ∧ (answered receiving (packet 2 128) [1]).isNone = true
      ∧ pathUsable (awaiting (sentOf 1 .none (some 0))) 0 3 0 = true ∧ natOfBytes ([0, 0] : List Byte) / 2 ^ 8 = 0 ∧ natOfBytes ([0, 1] : List Byte) / 2 ^ 8 = 1 := by
  decide +kernel
theorem test_write_acknowledged : (match exec (.writeAcknowledgment (packet 7 0)) (awaiting (sentOf 3 (.store 1 0))) with
    | .next t => t.fabric.sent.length | _ => 9) = 0 := by decide +kernel
theorem test_retry_resends : (match exec (.retryAfterResend 4) (awaiting (sentOf 1 .none (some 0))) with
    | .next t => (t.fabric.out.length, t.fabric.sent.map (fun x => x.2.retry)) | _ => (9, [])) = (1, [none]) := by decide +kernel

/-- Messages in turn, ahead of it and behind it; one that a box takes and one that no ring takes; an emitted and a management packet. -/
theorem witness_messages :
    (let s := receiving
     let m := packet 11 32
     let boxes := { s with boxes := [(0, { SigBox.reset with kernel := [1], bindings := [{ placedBinding with kinds := 3 }] })] }
     let held := { s with fabric := { s.fabric with heldMsgs := [{ pkt := m, left := 0 }], msgAnswers := [(3, 5, 65535, 0)] } }
     [packet 11 32, packet 11 4096, packet 13 0, packet 14 32].all packetOk = true ∧ packetOk (packet 11 4128) = false
       ∧ Cells.get 0 s.fabric.seqIn (seqKey 3 5) = 0 ∧ (m.seq + 65536 - 0) % 65536 = 0 ∧ (1 + 65536 - 0) % 65536 = 1 ∧ (65535 + 65536 - 0) % 65536 = 65535
       ∧ (32767 + 65536 - 0) % 65536 < 32768 ∧ 32768 ≤ (32768 + 65536 - 0) % 65536
       ∧ messageInBox s m = false ∧ (matchBox s m 0).isNone = true ∧ (matchBox boxes m 0).map (fun p => p.1) = some 0 ∧ (ctxWithJob s 2).isNone = true
       ∧ (match getCtx s 1 with
          | some x => ringOf x 5 == some 7 && (match placeRing s 1 x 7 3 0x9000 m.payload false with | .placed _ => true | _ => false)
          | none => false) = true
       ∧ List.find? (fun a : Nat × Nat × Nat × Nat => a.1 == 3 && a.2.1 == 5 && a.2.2.1 == 65535) held.fabric.msgAnswers = some (3, 5, 65535, 0)
       ∧ List.find? (fun h : HeldMsg => h.pkt.tag == 5 && h.pkt.job == 1) held.fabric.heldMsgs = some { pkt := m, left := 0 }
       ∧ (match placeMessage held m true with | .next _ => true | _ => false) = true
       ∧ (getBox { boxes with boxes := [(0, { SigBox.reset with offered := [(m, placedBinding, 0)] })] } 0).run = none) := by decide +kernel
theorem test_message_placed : (match exec (.messagePacket (packet 11 32)) receiving with
    | .next t => (readPhysNat t 0xA000 2, (getCtx t 1).map (fun x => x.posted), Cells.get 0 t.fabric.seqIn (seqKey 3 5)) | _ => (0, none, 9))
    = (0x0101, some [(7, [{ addr := 0xA000, len := 64, placed := some (3, 0x9000, 32, false) }])], 1) := by decide +kernel

/-- Ports at each width; a plane whose ports are retired; a map that changes; a lost packet; a package that becomes unreachable. -/
theorem witness_links :
    (let s := receiving
     let ret : Port := { lanes := 0, retired := true, margin := 0, corrected := 0, retrains := 0, dropped := 0 }
     let dead := { s with fabric := { s.fabric with ports := (List.range 8).map (fun k => (56 + k, ret)) } }
     let lost := awaiting (sentOf 1 .none none true)
     (getPort s 63).retired = false ∧ planeLive dead 7 = true ∧ (List.range 8).all (fun k => (getPort dead (56 + k)).retired) = true
       ∧ ([7, 6, 5, 4, 3, 2, 1, 0] : List Nat).all (fun q => decide (q < 8) && planeLive s q) = true ∧ changedPlanes s [7, 6, 5, 4, 3, 2, 1, 0] ≠ []
       ∧ s.fabric.sent = [] ∧ pathUsable lost (physPlane lost (logicalOf (sentOf 1 .none).pkt)) 3 0 = true ∧ logicalOf (sentOf 1 .none).pkt = 0
       ∧ s.fabric.unreachable.contains 3 = false ∧ s.pkg ≠ 3) := by decide +kernel
theorem test_plane_dead : (match exec (.planeDead 7) { receiving with fabric := { receiving.fabric with ports := (List.range 8).map (fun k =>
      (56 + k, { lanes := 0, retired := true, margin := 0, corrected := 0, retrains := 0, dropped := 0 })) } } with
    | .next t => t.hub.planesLive | _ => 0) = 0x7F := by decide +kernel

/-! ## Service, tests, bring-up -/

/-- A stack with its scrubber enabled and a reserved channel; a drop under way with no team left, and with one. -/
theorem witness_memory_service :
    (let s := ctl placedControl
     let x := { getStack s 0 with enable := true, reserved := 1 }
     let t := setStack s 0 x
     let drop := setStack s 0 { x with busy := true, dropCh := 5 }
     (getStack t 0).enable = true ∧ (dataChannels x).contains 5 = true ∧ (dataChannels x).contains 0 = false ∧ (reservedChannels x).contains 0 = true
       ∧ chanLines - 1 < chanLines ∧ (physLine x 0 5 0).isSome = true ∧ (physLine x 0 5 (chanLines - 1)).isNone = true ∧ x.busy = false
       ∧ (getStack drop 0).busy = true ∧ drop.teams.any (fun u => u.2.saved.isNone) = true ∧ ({ drop with teams := [] } : State).teams.all (fun u => u.2.saved.isSome) = true
       ∧ frameAt t placedContext 0 = some (48 * 2 ^ 30) ∧ (saveTeams [] drop).isSome = true ∧ teamSavable drop 1 = true) := by decide +kernel
theorem test_patrol_poisons : (match exec (.patrolRead 0 5 0 .uncorrectable) (setStack (ctl placedControl) 0 { getStack (ctl placedControl) 0 with enable := true }) with
    | .next t => (linePoisoned t 5, linePoisoned t 4, Cells.get 0 (getStack t 0).counters (chanKey 5 1 0)) | _ => (false, true, 0)) = (true, false, 1) := by decide +kernel

/-- A time series whose frame fits, and one whose ring is full. -/
theorem witness_time_series :
    (let s := ctl placedControl
     let t (w : Nat) : State := { s with clock := 2 ^ 11, hub := { s.hub with tsctl := BitVec.ofNat 64 (1 + 20 * 2 ^ 3 + 10 * 2 ^ 8), tsbase := 0x100000, tsWrite := w } }
     let fits (w : Nat) : Bool := decide (w + (64 + 16 * (2 * 6464 + 8)) ≤ readPhysNat (t w) (0x100000 + 8) 8 + (2 ^ 20 - 64))
     (t 0).hub.tsctl.toNat % 2 = 1 ∧ (t 0).clock % 2 ^ ((t 0).hub.tsctl.toNat / 2 ^ 8 % 32) = 0 ∧ (t 0).hub.tsctl.toNat / 2 ^ 3 % 32 = 20
       ∧ fits 0 = true ∧ fits 841472 = true ∧ fits 841600 = false ∧ allUnits.length = 6464) := by decide +kernel
theorem witness_counters : (0xFFFFFFFF : Dword).toNat < 2 ^ 32 ∧ 2 ^ 32 ≤ (0x100000000 : Dword).toNat ∧ (ctl placedControl).hub.thermal ≠ 2 := by decide +kernel

/-- Tests that wait, run and end, of a unit that shares its core with a team and of one that does not. -/
theorem witness_field_tests :
    (let s := ctl placedControl
     let t (cls kind idx : Nat) (run : Bool) : FieldTest := { kind := kind, cls := cls, die := 0, index := idx, running := run }
     let put (x : FieldTest) : State := { s with hub := { s.hub with tests := [x], ftint := 1 } }
     (put (t 1 1 3 false)).hub.ftint ≠ 0 ∧ needsCore (t 1 1 3 false) = false ∧ needsCore (t 0 0 64 false) = true
       ∧ teamsOn (put (t 0 0 64 false)) (testCore (t 0 0 64 false)) = [] ∧ testCore (t 0 0 64 false) = 1 ∧ (put (t 1 1 3 true)).hub.tests = [t 1 1 3 true]) := by
  decide +kernel

/-- Functions that can become ready, an attestation with a signature left and with none, and an image that is too old. -/
theorem witness_bring_up :
    (let s := ctl placedControl
     s.hub.fwStatus = 0 ∧ planeLive s 7 = true ∧ (getStack s 15).live ≠ 0 ∧ (getCore s 511).pipesFenced.contains 3 = false
       ∧ { s.hub with configOk := true }.configOk = true ∧ (List.replicate 48 (0 : Byte)).length = 48 ∧ { s.hub with lmsLeft := 0 }.lmsLeft = 0
       ∧ s.hub.lmsLeft ≠ 0) := by decide +kernel
theorem witness_old_image (image : List Byte) : imageGood image (Config.imageVersion image + 1) = false := by simp [imageGood]

/-! ## The whole machine -/

/-- A wave of a persistent launch and of one that is not. -/
theorem witness_heartbeat :
    (let s := ctl placedControl
     AtControl s 0 placedControl ∧ launchOf s placedControl = some (1, placedLaunch) ∧ flagPersistent placedLaunch = false
       ∧ flagPersistent { placedLaunch with e := { placedEntry with flags := 4 } } = true) := by decide +kernel

/-- SADD s3, s1, s2 at the program counter: the fetch, the translation of its word, the decoding and the outcome. -/
def atAdd : State := (State.reset.withFetchWord 32 (0x001 * 4 + 3 * 2 ^ 12 + 1 * 2 ^ 18 + 2 * 2 ^ 24))

theorem witness_step :
    (match getWave atAdd 0 with
     | some w =>
       (match launchOf atAdd w, ctxRec atAdd w with
        | some (_, l), some (_, x) =>
          let u := leaveYield { atAdd with actor := .control 0 } (.control 0)
          let i : Instr := .sadd (c3 3 1 2)
          decide (fetchAddr u (.control 0) w l = 0x4000) && (match fetchInstr u x w.decode false 0x4000 with | .instr j => i == j | _ => false)
            && !(exitHits u 0 i) && (match exec i u with | .next t => mayIssue atAdd (.control 0) && !((afterInstr u t (.control 0) i).stalled) | _ => false)
            && (match translate atAdd x .fetch 0x4000 with | .to q => !(placePoisoned atAdd q 4) && natOfBytes (readBase atAdd q 4) == 0x02043004 | _ => false)
            && (match decodeThoyx (lookupIn .map1) false x.privileged 0x02043004 with | .ok j => i == j | _ => false)
        | _, _ => false)
     | none => false) = true
    ∧ encode (.functionReady (.queue 5)) = none ∧ (match exec (.functionReady (.queue 5)) { atAdd with agenda := [], actor := .none } with | .next _ => true | _ => false) = true
    ∧ (match (placedBox State.reset 0x74000000).boxes with
       | [(0, b)] => b.run == some placedRun && decodeBox ((b.kernel.getD 1 0).toNat) == some (.boxPass (qi false 0 0 false 0)) | _ => false) = true := by
  refine ⟨by decide +kernel, by decide +kernel, by decide +kernel, by decide +kernel⟩
theorem test_step_runs : (match step atAdd with | .next t => (getWave t 0).map (fun w => w.pc.toNat) | _ => none) = some 0x4004 := by decide +kernel

/-- Turns of a scalar unit, of a lane pipe in service and out of it, and of a yard core. -/
theorem witness_turns :
    (let s := atAdd
     let u := { s with agenda := [], actor := .none, stalled := false }
     (Machine.after (getCore s 0).scalarPtr 32).head? = some 0 ∧ isReady u (.control 0) = true ∧ isReady u (.control 1) = false
       ∧ (Machine.after (Cells.get 7 (getCore s 0).pipePtr 0) 8).head? = some 0 ∧ (getCore s 0).pipesDown.contains 0 = false
       ∧ (getCore s 1).pipesDown.contains 0 = true) := by decide +kernel
/-- A lane block at VADD v9, v10, q3. -/
def atVadd : State := State.reset.withFetchWord 64 (1 + 0x100 * 2 ^ 2 + 9 * 2 ^ 12 + 10 * 2 ^ 22 + (2 * 256 + 3) * 2 ^ 32)

theorem witness_lane_turns :
    (match getWave atVadd 0 with
     | some w =>
       let u := { atVadd with agenda := [], actor := .none, stalled := false }
       (Machine.after w.pathPtr 16).head? == some 0 && w.pair == false && isReady u (.path 0 0) && !(isReady u (.path 0 1))
         && (match selectPath u 0 w with | (_, some (0, true, .next _)) => true | _ => false)
         && (match selectPath u 0 { w with pair := true, pathPtr := 0 } with | (_, some (0, false, .next _)) => true | _ => false)
     | none => false) = true
    ∧ (let s := setCore atVadd 0 { getCore atVadd 0 with pipesDown := [0] }
       let u := { s with agenda := [], actor := .none, stalled := false }
       yardActors s 0 = [(0, .path 0 0)] ∧ isReady u (.path 0 0) = true) := by
  refine ⟨by decide +kernel, by decide +kernel⟩

/-- Codes at the ends of the classes of encodings, words that each check of R69 refuses, and a context's table that maps nothing. -/
theorem witness_decoding :
    (Instr.sadd (c3 63 63 63)).wf = true ∧ thoyxCode (.sadd (c3 63 63 63)) = some (1, 0, 0x3FFFF000) ∧ boxCode (.boxPass (qi false 0 0 false 0)) = some 0x74000000 ∧ Instr.wf (.boxPass (qi false 0 0 false 0)) = true
    ∧ ((map1 1).bind opFormat).map (fun f => (f.isLane, f.lengths)) = some (false, [0]) ∧ map1 0x0FF = none ∧ (map1 0x3C8).isSome = true := by decide +kernel

/-- Records: one that nothing holds back, one behind a store of its wave, and one behind a store of another wave of its core. -/
theorem witness_records :
    (let r : FaultRecord := { timebase := 0, qentry := 0x8000, detail := 0, block := 0, mask := 0, pc := 0x4000, unit := 0, wave := 0, ends := true,
                              deferred := false, cont := false, path := 0, stream := false, code := 4, lid := some 1, after := some (1, 4096) }
     let own := ctl { placedControl with stores := [buffered 0] }
     let near := { ctl placedControl with waves := [(0, placedControl), (1, { placedControl with uid := 2, w := 1, stores := [buffered 1] })] }
     placedControl.uid = 1 ∧ recordReady (ctl placedControl) r = true ∧ recordReady own r = false ∧ recordReady near r = false
       ∧ readable near 1 0 (buffered 1) = true ∧ recordReady own { r with after := none } = true
       ∧ faultRoom { placedContext with heldFaults := [r] } = true) := by decide +kernel

/-- Fault entry with room in the queue, with a full queue, with a record held already, and for each fate of the launch. -/
theorem witness_faults :
    (let s := ctl placedControl
     let full (n : Nat) : Context := { placedContext with faultProd := n }
     (getCtx s 1).map (fun x => decide (x.faultProd - x.faultCons < 2 ^ x.faultqLog2 ∧ x.heldFaults = [])) = some true
       ∧ (full 63).faultProd - 0 < 2 ^ (full 63).faultqLog2 ∧ ¬ ((full 64).faultProd - 0 < 2 ^ (full 64).faultqLog2)
       ∧ ctxOf s placedControl = some 1 ∧ placedLaunch.ending = none
       ∧ flagRestartable { placedLaunch with e := { placedEntry with flags := 1 } } = true ∧ flagRestartable placedLaunch = false) := by decide +kernel

theorem reset_memory_canonical : State.reset.memOk := by decide +kernel
theorem test_step_keeps_memory : (match step atAdd with | .next t => decide t.memOk | _ => false) = true := by decide +kernel

/-- R398: a leaf that is cached stays in force when memory changes, until the invalidate command of its range is done. -/
theorem test_translation_cache :
    (let s := cacheWalk (armedState 1) 1 0x20000000
     let s := { s with mem := cellsWrite memDefault s.mem 0x7000 (bytesOfNat 8 0x80037)
                       hub := { s.hub with blocks := [(1, { ControlBlock.reset with param0 := 0x20000000, param1 := 0x20000 })] } }
     let writable (s : State) : Option Bool :=
       match getCtx s 1 with
       | some x => (match walkCtx s x 0x20000000 with | .leaf l => some l.w | _ => none)
       | none => none
     writable s = some true ∧ (match invalidateRange s 1 with | .done t => writable t | _ => none) = some false) := by decide +kernel

/-! ## Well-formedness: an ill-formed term for each kind of check, refused at the lowest bit of the field (R70, R72, R77, R79, R81 to R83) -/

/-- Where the checks of an instruction fail first. -/
def badBit (i : Instr) : Option Nat := if i.wf then none else lowestBad (checks i)

theorem smoke_control_fields :
    ([(Instr.sclz (c3 1 2 3), 24), (.lwait (c3 1 0 0), 12), (.jr (c3 1 2 0), 12), (.hbeat { c3 0 0 0 with ea := true }, 30), (.nop { c3 0 0 0 with eb := true }, 31),
      (.sext (ci 1 2 0), 25), (.zext (ci 1 2 65), 25), (.sshli (ci 1 2 64), 25), (.fenceo (ci 0 0 1), 25), (.step (ci 1 0 0), 12), (.brk (ci 0 1 0), 18),
      (.fence (ci 0 0 (6 + 8)), 25), (.fence (ci 0 0 0), 28), (.fence (ci 0 0 (3 + 8 + 32)), 30), (.fence (ci 0 0 (64 + 8)), 31), (.fencea (ci 0 0 6), 25),
      (.fencea (ci 0 0 8), 28), (.bar (ci 0 0 0), 25), (.bar (ci 0 0 5), 25), (.bar (ci 0 0 9), 28), (.sli (cl 1 2 0 0), 18), (.saddl (cl 1 2 3 0), 24),
      (.beq (cb 1 2 6), 32), (.loop (cb 1 2 4), 18), (.lane { a := 0, b := 0, c := 0, e := false, off := 2 }, 32)].all
        (fun p => badBit p.1 == some p.2)) = true := by decide +kernel

theorem smoke_control_memory :
    ([(Instr.sld { cm 1 2 0 0 with scope := 6 }, 35), (.sld (cm 1 2 3 0), 24), (.sld { cm 1 2 0 3 with sx := true }, 34), (.sld { cm 1 2 0 0 with order := 2 }, 38),
      (.sld { cm 1 2 0 0 with aop := 1 }, 40), (.sst (cm 1 2 3 0), 12), (.sst { cm 0 2 3 0 with order := 1 }, 38), (.satom (cm 1 2 3 1), 32),
      (.satom { cm 1 2 3 3 with aop := 14 }, 40), (.satom { cm 1 2 3 3 with aop := 9 }, 32), (.scas { cm 1 2 3 2 with aop := 1 }, 40), (.sprf (cm 0 2 0 1), 32)].all
        (fun p => badBit p.1 == some p.2)) = true := by decide +kernel

theorem smoke_engine_fields :
    ([(Instr.tdef (ce 1 0 0 0 0 0 0), 12), (.tdef (ce 0 0 1 0 0 0 0), 24), (.tdef (ce 0 0 0 1 0 0 0), 32), (.palld (ce 0 0 0 0 1 0 1), 39), (.ctload (ce 0 0 0 0 0 8 0), 48),
      (.palld (ce 0 0 0 0 0 0 33), 54), (.palld (ce 0 0 0 0 0 0 17), 49), (.palld (ce 0 0 0 0 0 0 0), 49), (.mtab (ce 0 0 0 0 0 2 0), 46), (.mtab (ce 0 0 0 0 0 1 1), 49),
      (.mout (ce 0 0 0 0 0 0 (5 * 512)), 58), (.tbdrop (ce 0 0 0 0 0 1 512), 58), (.gangset (ce 0 0 0 0 0 4 0), 47), (.waitev (ce 0 0 0 0 0 0 6), 49),
      (.waitev (ce 0 0 0 0 0 0 0), 49), (.qput (ce 0 0 0 0 0 0 64), 55), (.capset (ce 0 0 0 0 0 0 256), 57)].all (fun p => badBit p.1 == some p.2)) = true := by
  decide +kernel

theorem smoke_lane_fields :
    ([(Instr.vadd (v3 (.q 1) (.v 0) (.v 0) (.v 0) 0 0), 12), (.vadd (v3 (.v 1) (.v 0) (.v 0) (.v 1) 0 0), 42), (.vadd { v3 (.v 1) (.v 0) (.v 0) (.v 0) 0 0 with ec := true }, 54),
      (.vadd (v3 (.v 1) (.v 0) (.v 0) (.v 0) 6 0), 55), (.vadd (v3 (.v 1) (.v 0) (.v 0) (.v 0) 0 1), 59), (.vadd { v3 (.v 1) (.v 0) (.v 0) (.v 0) 0 0 with sat := true }, 63),
      (.vadd { v3 (.v 1) (.v 0) (.v 0) (.v 0) 0 0 with w := true }, 62), (.vfadd (v3 (.v 1) (.v 0) (.v 0) (.v 0) 6 5), 59), (.vcmp (v3 (.q 8) (.v 0) (.v 0) (.v 0) 0 0), 15),
      (.vcmp (v3 (.v 0) (.v 0) (.v 0) (.v 0) 0 0), 12), (.vsel (v3 (.v 1) (.v 0) (.v 0) (.q 8) 0 0), 45), (.qadd (v3 (.q 1) (.v 1) (.q 0) (.v 0) 0 0), 22),
      (.qadd (v3 (.v 1) (.q 1) (.q 0) (.v 0) 0 0), 12), (.ixset (v3 (.v 4) (.v 1) (.v 0) (.v 0) 0 0), 14), (.vcvt (v3 (.v 1) (.v 2) (.v 0) (.v 16) 6 0), 42),
      (.vcvt (v3 (.v 1) (.v 2) (.v 0) (.v 6) 6 0), 42), (.vpack (v3 (.v 1) (.v 2) (.v 3) (.v 4) 2 0), 42), (.vunpk (v3 (.v 1) (.v 2) (.imm 0) (.v 6) 0 0), 42),
      (.vpal (v3 (.v 1) (.v 2) (.v 3) (.imm 4) 6 0), 42), (.vadd { v3 (.v 1) (.imm 1) (.v 3) (.v 0) 0 0 with lit := some 5 }, 22),
      (.vadd { v3 (.v 1) (.imm 0) (.imm 0) (.v 0) 0 0 with lit := some 5 }, 32), (.vrcp { v3 (.v 1) (.v 0) (.v 0) (.v 0) 6 0 with lit := some 5 }, 0),
      (.qli (v3 (.q 1) (.imm 0) (.v 0) (.v 0) 0 0), 0)].all (fun p => badBit p.1 == some p.2)) = true := by decide +kernel

theorem smoke_lane_memory_fields :
    ([(Instr.vld (vm (.v 1) (.ix 0 0 0) 0 2 true), 22), (.vld (vm (.v 1) (.v 0) 1 2 true), 32), (.vld { vm (.v 1) (.v 0) 0 2 true with scale := 1 }, 37),
      (.vld (vm (.v 1) (.v 0) 13 2 false), 32), (.vld (vm (.v 1) (.v 0) 1 5 false), 39), (.vld (vm (.v 2) (.v 0) 1 4 false), 12), (.vld { vm (.v 1) (.v 0) 1 2 false with sx := true }, 42),
      (.vst { vm (.v 1) (.v 0) 1 2 false with order := 1 }, 46), (.vprf (vm (.v 1) (.v 0) 1 0 false), 12), (.vatom (vmx (vm (.v 1) (.v 0) 1 1 false) (.v 0) (.v 0)), 39),
      (.vatom { vmx (vm (.v 1) (.v 0) 1 2 false) (.v 0) (.v 0) with aop := 14 }, 86), (.vatom (vmx (vm (.v 1) (.v 0) 1 2 false) (.imm 1) (.v 0)), 64),
      (.vcas { vmx (vm (.v 1) (.v 0) 1 2 false) (.v 0) (.v 0) with aop := 1 }, 86), (.vldt { vt (.v 1) (.q 0) (.q 0) 0 0 with mode := 4 }, 48),
      (.vldt { vt (.v 1) (.q 0) (.q 0) 16 0 with tq := true }, 46), (.vldt (vt (.v 1) (.q 0) (.q 0) 0 1), 80), (.vste (vt (.v 1) (.v 0) (.q 0) 0 0), 22),
      (.vlda (vt (.v 1) (.q 0) (.q 0) 1 0), 42), (.vlda { vt (.v 1) (.q 0) (.q 0) 0 0 with wreg := 1 }, 56), (.vsta { vt (.v 1) (.q 0) (.q 0) 0 16 with aq := true }, 84),
      (.brv { c := 0, sense := false, jid := 1, off := 0 }, 16), (.regang { c := 1, sense := false, jid := 0, off := 0 }, 12), (.jmpv { c := 0, sense := true, jid := 0, off := 0 }, 15),
      (.retv { c := 0, sense := false, jid := 0, off := 4 }, 32), (.callv { c := 0, sense := false, jid := 0, off := 2 }, 32)].all (fun p => badBit p.1 == some p.2)) = true := by
  decide +kernel

/-- Bit 64 stands for the ranges of R446's reason 4. -/
theorem smoke_box_fields :
    ([(Instr.boxAdd (qr false 1 2 3 3 false), 10), (.boxAdd { qr false 1 2 3 0 false with c := 1 }, 2), (.boxCmp { qr false 1 2 3 0 false with cond := 6 }, 6),
      (.boxMin (qr false 1 2 3 0 true), 64), (.boxAdd (qr true 8 2 3 0 false), 64), (.boxAnd (qr false 1 2 3 1 false), 64), (.boxAddi (qi false 1 2 true 0), 16),
      (.boxLdiH (qi false 1 0 false 0), 16), (.boxGetl (qi false 1 2 false 16), 64), (.boxPld (qi false 1 2 false 0), 17), (.boxPld (qi false 1 0 false 64), 6),
      (.boxFldVector (qi false 1 0 false 4), 64), (.boxHrd (qi true 1 0 false 8), 3), (.boxHwr (qi true 0 1 false 2), 64), (.boxPass (qi false 0 0 false 1), 0),
      (.boxBr (qb 8 1 2 3), 22), (.boxBr (qb 7 1 0 3), 18), (.boxBr (qb 0 8 0 3), 64), (.boxRep (qb 1 0 0 0), 64), (.boxRep (qb 1 0 0 32), 5)].all
        (fun p => badBit p.1 == some p.2)) = true := by decide +kernel

/-! ## Words of the spec -/

/-- The four words of R70's example, and the load of section 04 with a release order. -/
theorem test_refused_words :
    decodeThoyx map1 false false 0x00000000 = .error .unmapped ∧ decodeThoyx map1 false false 0x00000F0F = .error .illegalLength
      ∧ decodeThoyx map1 true false 0x00000F0C = .error .stream ∧ decodeThoyx map1 false false 0x00000F0D = .error (.field 0)
      ∧ decodeThoyx map1 false false (0x000850C1 + 0x00100096 * 2 ^ 32) = .error (.field 38) := by decide +kernel

/-- The words that sections 03 to 17 write out, the low word first. -/
theorem test_spec_words_control :
    decodeTableWord 32 0x02043004 = some (.sadd (c3 3 1 2)) ∧ decodeTableWord 32 0x82043004 = some (.sadd { c3 3 1 2 with eb := true })
    ∧ decodeTableWord 64 (0x3F081141 + 0x40 * 2 ^ 32) = some (.lane { a := 1, b := 2, c := 63, e := false, off := 0x40 })
    ∧ decodeTableWord 64 (0x000850C1 + 0x00100056 * 2 ^ 32) = some (.sld { cm 5 2 0 2 with sx := true, scope := 2, order := 1, disp := 16 })
    ∧ decodeTableWord 32 0x000C1160 = some (.srs { r := 1, num := 3, ea := false }) := by decide +kernel
theorem test_spec_words_engines :
    decodeTableWord 64 (0x3FFC0829 + 0x0000013F * 2 ^ 32) = some (.mlut (ce 0 63 63 63 2 0 0))
    ∧ decodeTableWord 64 (0x0204090D + 3 * 2 ^ 32) = some (.cpb (ce 0 1 2 3 0 0 0))
    ∧ decodeTableWord 32 0x0A005A08 = some (.fencea (ci 5 0 5)) ∧ decodeTableWord 32 0x58000A00 = some (.fence (ci 0 0 0x2C)) := by decide +kernel
theorem test_spec_words_lane :
    decodeTableWord 64 (0x01805401 + 0x000003FD * 2 ^ 32) = some (.vadd (v3 (.v 5) (.v 6) (.imm 0xFD) (.v 0) 0 0))
    ∧ decodeTableWord 96 (0x00C0248A + 0x3B000300 * 2 ^ 32 + 0x3FC00000 * 2 ^ 64)
        = some (.vfmul { v3 (.v 2) (.v 3) (.imm 0) (.v 0) 6 7 with lit := some 0x3FC00000 })
    ∧ decodeTableWord 64 (0x01201461 + 0x13000005 * 2 ^ 32) = some (.vcmp (v3 (.q 1) (.v 4) (.v 5) (.v 0) 6 2))
    ∧ decodeTableWord 64 (0x02408455 + 0x0200200A * 2 ^ 32) = some (.vdot4 (v3 (.v 8) (.v 9) (.v 10) (.v 8) 4 0))
    ∧ decodeTableWord 64 (0x00404581 + 0x01004942 * 2 ^ 32)
        = some (.vld { vm (.v 4) (.v 1) 2 2 false with scale := 2, scope := 1, order := 1, disp := 16 })
    ∧ decodeTableWord 64 (0x000015C1 + 0x40 * 2 ^ 32) = some (.brv { c := 1, sense := false, jid := 0, off := 0x40 })
    ∧ decodeTableWord 64 0x000105D1 = some (.regang { c := 0, sense := false, jid := 1, off := 0 }) := by decide +kernel

/-- Map 1 assigns 184 opcodes (R84). -/
theorem test_map1_count : ((List.range 1024).filter (fun n => (map1 n).isSome)).length = 184 := by decide +kernel

/-- A word for each other family, written out from the tables of R71, R78 and R84: BNE s1, s2, -8; LOOP s4, -4; WAITEV s5, [s1], s2 at SYSTEM;
SIG #7; SWS s3 to RMODE; QPUT s5, 9, [s1]; CAPSET s1, s2, 9; SBFLOW s5, s1, s2; BAR 4; TRAP #1, s2. -/
theorem test_family_words_control :
    decodeTableWord 64 (1 + 0x045 * 2 ^ 2 + 1 * 2 ^ 12 + 2 * 2 ^ 18 + 0xFFFFFFF8 * 2 ^ 32) = some (.bne (cb 1 2 0xFFFFFFF8))
    ∧ decodeTableWord 64 (1 + 0x04A * 2 ^ 2 + 4 * 2 ^ 12 + 0xFFFFFFFC * 2 ^ 32) = some (.loop (cb 4 0 0xFFFFFFFC))
    ∧ decodeTableWord 64 (1 + 0x288 * 2 ^ 2 + 5 * 2 ^ 12 + 1 * 2 ^ 18 + 2 * 2 ^ 24 + 5 * 2 ^ 49) = some (.waitev (ce 5 1 2 0 0 0 5))
    ∧ decodeTableWord 64 (1 + 0x285 * 2 ^ 2 + 7 * 2 ^ 32) = some (.sig (cl 0 0 0 7))
    ∧ decodeTableWord 32 (0x059 * 2 ^ 2 + 3 * 2 ^ 12 + 0x013 * 2 ^ 18) = some (.sws { r := 3, num := 0x013, ea := false })
    ∧ decodeTableWord 64 (1 + 0x289 * 2 ^ 2 + 5 * 2 ^ 12 + 1 * 2 ^ 18 + 9 * 2 ^ 49) = some (.qput (ce 5 1 0 0 0 0 9))
    ∧ decodeTableWord 64 (1 + 0x3C9 * 2 ^ 2 + 1 * 2 ^ 18 + 2 * 2 ^ 24 + 9 * 2 ^ 49) = some (.capset (ce 0 1 2 0 0 0 9))
    ∧ decodeTableWord 64 (1 + 0x3CB * 2 ^ 2 + 5 * 2 ^ 12 + 1 * 2 ^ 18 + 2 * 2 ^ 24) = some (.sbflow (ce 5 1 2 0 0 0 0))
    ∧ decodeTableWord 32 (0x283 * 2 ^ 2 + 4 * 2 ^ 25) = some (.bar (ci 0 0 4))
    ∧ decodeTableWord 32 (0x3C0 * 2 ^ 2 + 2 * 2 ^ 18 + 1 * 2 ^ 25) = some (.trap (ci 0 2 1)) := by decide +kernel
/-- QADD q3, q1, #5; QLI q1, #2; ADSET ad2, q1, q2; VTOS.ADD.INT32 v4; VATOM.ADD [q1], v2 to nowhere; VLDA v1, q2, q3 of tile 7;
VUNPAL.W v9, v4, v2; SIGV #9; TRAPV c1, #4. -/
theorem test_family_words_lane :
    decodeTableWord 64 (1 + 0x149 * 2 ^ 2 + (2 * 256 + 3) * 2 ^ 12 + (2 * 256 + 1) * 2 ^ 22 + (3 * 256 + 5) * 2 ^ 32)
        = some (.qadd (v3 (.q 3) (.q 1) (.imm 5) (.v 0) 0 0))
    ∧ decodeTableWord 96 (2 + 0x150 * 2 ^ 2 + (2 * 256 + 1) * 2 ^ 12 + 3 * 256 * 2 ^ 22 + 2 * 2 ^ 64)
        = some (.qli { v3 (.q 1) (.imm 0) (.v 0) (.v 0) 0 0 with lit := some 2 })
    ∧ decodeTableWord 64 (1 + 0x141 * 2 ^ 2 + 2 * 2 ^ 12 + (2 * 256 + 1) * 2 ^ 22 + (2 * 256 + 2) * 2 ^ 32) = some (.adset (v3 (.v 2) (.q 1) (.q 2) (.v 0) 0 0))
    ∧ decodeTableWord 64 (1 + 0x13C * 2 ^ 2 + 4 * 2 ^ 22) = some (.vtos (v3 (.v 0) (.v 4) (.v 0) (.v 0) 0 0))
    ∧ decodeTableWord 96 (2 + 0x162 * 2 ^ 2 + 2 * 2 ^ 12 + 1 * 2 ^ 32 + 2 * 2 ^ 39 + 3 * 256 * 2 ^ 64 + 1 * 2 ^ 86)
        = some (.vatom { vmx (vm (.v 2) (.v 0) 1 2 false) (.imm 0) (.v 0) with aop := 1 })
    ∧ decodeTableWord 96 (2 + 0x168 * 2 ^ 2 + 1 * 2 ^ 12 + (2 * 256 + 2) * 2 ^ 22 + (2 * 256 + 3) * 2 ^ 32 + 7 * 2 ^ 80) = some (.vlda (vt (.v 1) (.q 2) (.q 3) 0 7))
    ∧ decodeTableWord 64 (1 + 0x133 * 2 ^ 2 + 9 * 2 ^ 12 + 4 * 2 ^ 22 + 2 * 2 ^ 42 + 7 * 2 ^ 55 + 2 ^ 62) = some (.vunpal { v3 (.v 9) (.v 4) (.v 0) (.v 2) 7 0 with w := true })
    ∧ decodeTableWord 96 (2 + 0x176 * 2 ^ 2 + 3 * 256 * 2 ^ 22 + 9 * 2 ^ 64) = some (.sigv { v3 (.v 0) (.imm 0) (.v 0) (.v 0) 0 0 with lit := some 9 })
    ∧ decodeTableWord 64 (1 + 0x178 * 2 ^ 2 + 1 * 2 ^ 12 + 4 * 2 ^ 32) = some (.trapv { c := 1, sense := false, jid := 0, off := 4 }) := by decide +kernel
/-- Signal boxes: SEL e1, e2, e3, e4; LDI f5, #-1; LDI.H f5, #1; PLD e3, f2, 6; HRD f1, 4; REP 2, 5 words; PASS. -/
theorem test_family_words_boxes :
    decodeTableWord 32 (0x0C * 2 ^ 26 + 1 * 2 ^ 21 + 2 * 2 ^ 17 + 3 * 2 ^ 13 + 4 * 2 ^ 2) = some (.boxSel { qr false 1 2 3 0 false with c := 4 })
    ∧ decodeTableWord 32 (0x11 * 2 ^ 26 + 2 ^ 25 + 5 * 2 ^ 21 + 0xFFFF) = some (.boxLdi (qi true 5 0 false 0xFFFF))
    ∧ decodeTableWord 32 (0x11 * 2 ^ 26 + 2 ^ 25 + 5 * 2 ^ 21 + 2 ^ 16 + 1) = some (.boxLdiH (qi true 5 0 true 1))
    ∧ decodeTableWord 32 (0x14 * 2 ^ 26 + 3 * 2 ^ 21 + 2 * 2 ^ 17 + 2 ^ 16 + 6) = some (.boxPld (qi false 3 2 true 6))
    ∧ decodeTableWord 32 (0x19 * 2 ^ 26 + 2 ^ 25 + 1 * 2 ^ 21 + 4) = some (.boxHrd (qi true 1 0 false 4))
    ∧ decodeTableWord 32 (0x21 * 2 ^ 26 + 2 * 2 ^ 22 + 5) = some (.boxRep (qb 2 0 0 5))
    ∧ decodeTableWord 32 0x74000000 = some (.boxPass (qi false 0 0 false 0)) := by decide +kernel

/-! ## Examples of the spec on memory, packets and fabric -/

/-- Section 18: the page whose leaf is written out, present and absent, and with class 2. -/
theorem test_translation_example :
    (let t (leaf : Nat) : State :=
       let m := cellsWrite memDefault (cellsWrite memDefault (ctl placedControl).mem 0x3800 (bytesOfNat 8 0x6001)) 0x6000 (bytesOfNat 8 0x7001)
       { ctl placedControl with mem := cellsWrite memDefault m 0x7000 (bytesOfNat 8 leaf) }
     let x := { placedContext with generation := 5 }
     translate (t 0x000500123440000F) x .write 0x2000000100 = .to (.glob 0x1234400100 0)
       ∧ translate (t 0x000500123440004F) x .read 0x2000000000 = .to (.glob 0x1234400000 2)
       ∧ translate (t 0x000500123440000F) x .fetch 0x2000000000 = .denied
       ∧ translate (t 0x000500123440000E) x .read 0x2000000000 = .absent 0x7000) := by decide +kernel

/-- Section 19: the header of a write of one line, and the plane that it travels. -/
theorem test_header_example :
    (let p := { packet 3 128 with source := 5, dest := 9, job := 0x123, tag := 0xA7, addr := 0x12345680, path := 2 }
     bytesOfNat 16 (headerNat p) = [0x43, 0x90, 0x30, 0x12, 0x09, 0x00, 0x05, 0x00, 0xA7, 0x00, 0x80, 0x56, 0x34, 0x12, 0x00, 0x00]
       ∧ logicalOf p = 5) := by decide +kernel

/-- Section 25: a counter that wraps. -/
theorem test_counter_example : countUp 0xFFFFFFFFFFFF 1 = 0x8000000000000000 ∧ countUp 0x8000000000000000 3 = 0x8000000000000003 := by decide +kernel

/-! ## The L2 slices -/

/-- A wave with a poisoned line and `n` stores of 8 bytes of one request to it, performed one after another. -/
def overwritten (n : Nat) : State :=
  let bs := (List.range 16).map (fun k : Nat =>
    ({ seq := 4096 + k, place := .glob (0x9000 + 8 * k) 0, bytes := List.replicate 8 5, scope := 4, order := 0, rmw := none, perf := 0,
       ticket := 0, bars := [], sent := none, hint := 0, origin := .control 0, pc := 0, block := 0, lane := k, va := 0x9000 + 8 * k } : BufStore))
  let s := ctl { placedControl with stores := bs }
  (bs.take n).foldl (fun s b => performStore s 0 b 4) { s with tags := [(0x120, 8)] }

/-- R479: a request that writes the whole line makes it clean once L2 writes it back; one that writes less leaves it poisoned. -/
theorem test_l2_whole_line : (let s := overwritten 16
    (bytesPoisoned s 0x9000 128, linePoisoned s 0x120, (evictTurn s 0 0x120).map (fun t => (getTag t 0x120).toNat))) = (false, true, some 2) := by
  decide +kernel
theorem test_l2_part : (let s := overwritten 12
    (bytesPoisoned s 0x9000 96, bytesPoisoned s 0x9000 128, (evictTurn s 0 0x120).map (fun t => (getTag t 0x120).toNat))) = (false, true, some 8) := by
  decide +kernel
/-- R292: the retention states, and the order of victims. -/
theorem test_retention : (retain 0 none, retain 1 (some .normal), retain 1 (some .evictLast), retain 2 (some .evictFirst), retain 3 none, retain 0 (some .evictFirst))
    = (some .normal, some .evictFirst, some .evictLast, some .evictLast, none, some .evictFirst) := by decide
theorem test_victims : (let s := loadL2 (loadL2 State.reset 0 5 0 0 1) 0 6 1 0 1
    ((evictTurn s 0 5).isSome, (evictTurn s 0 6).isSome)) = (false, true) := by decide +kernel

/-- R459: copies that differ raise 0x15 with bit 127 and the two values, and the program counter stays. -/
theorem test_lockstep : (let o := runTurn atAdd (.lockstepError 0 1 2); (faultAfter o, pcAfter o)) = (some (0x15, 2 ^ 127 + 2 * 2 ^ 64 + 1), some 0x4000) := by
  decide +kernel
/-! ## Witnesses of the clauses on turns -/

/-- A word of no instruction, a page that is not there, an instruction that waits, and EXIT with a hit of the engines left to deliver. -/
theorem witness_step_stops :
    (match ctxRec (ctl placedControl) placedControl with
     | some (_, x) =>
       let bad := { ctl placedControl 0x4000 (bytesOfNat 4 (0x0FF * 4)) with actor := .none }
       let gone := { ctl { placedControl with pc := 0x20000000 } with actor := .none }
       mayIssue bad (.control 0) && mayIssue gone (.control 0)
         && fetchInstr bad x .map1 false 0x4000 == .fault 2 1020 none && fetchInstr gone x .map1 false 0x20000000 == .absent 0x20000000 0x3008
         && (match attempt bad (.control 0) with | .issued (.next _) => true | _ => false)
         && (match attempt gone (.control 0) with | .asked t => (match getWave t 0 with | some w => w.fetchWait == some (0x20000000, 0x3008) | none => false) | _ => false)
     | none => false) = true := by decide +kernel
theorem witness_exit_hits :
    exitHits (ctl { placedControl with engineHits := [⟨5, 0, 0x4000, 0, none⟩] }) 0 (.exit (c3 0 0 0)) = true ∧ exitHits (ctl placedControl) 0 (.exit (c3 0 0 0)) = false := by
  decide +kernel

/-- Turns that serve nothing: no control stream that is ready, a pipe whose waves are none, one out of service, and a path that only asks. -/
theorem witness_idle_turns :
    (let s := { ctl { placedControl with faulted := true } with actor := .none }
     let gone := { ctl { placedControl with pc := 0x20000000 } with actor := .none }
     (Machine.after (getCore s 0).scalarPtr 32).all (fun j => !(isReady s (.control j))) = true
       ∧ (Machine.after 7 8).all (fun j => (getWave s (0 * 32 + 1 * 8 + j)).isNone) = true
       ∧ (match attempt gone (.control 0) with | .asked t => (match attempt t (.control 0) with | .no => true | _ => false) | _ => false) = true) := by
  decide +kernel

/-- A line of the first class of victims in a slice, one of a later class, and one that the slice does not hold. -/
theorem witness_victims :
    (let s := loadL2 (loadL2 State.reset 0 5 0 0 1) 0 6 1 0 1
     (((getCluster s 0).l2.map (fun p => (p.1, victimRank p.2.retention))) = [(5, 1), (6, 0)])
       ∧ Tbl.find? (getCluster s 0).l2 7 = none) := by decide +kernel

/-! ## Witnesses of the clauses on packets, service and placement -/

/-- A home whose line one peer holds, and one whose line four hold; a poisoned line; a page that a write may not touch. -/
theorem witness_holders :
    (let s (hs : List (Nat × Nat × Nat)) : State := { receiving with fabric := { receiving.fabric with directory := [(0x120, hs)] } }
     let four := [(4, 1, 0x9000), (5, 1, 0x9000), (6, 1, 0x9000), (7, 1, 0x9000)]
     holdersOf (s [(4, 1, 0x9000)]) (0x9000 / 128) ≠ [] ∧ ((four.filter (fun h => h.1 != 3)).map (fun h => h.1)).eraseDups.length = 4
       ∧ holdersOf (s four) (0x9000 / 128) = four ∧ placePoisoned { receiving with tags := [(0x120, 8)] } (.glob 0x9000 0) 4 = true
       ∧ isAbsent receiving .write 0x40000000 = true ∧ isAbsent receiving .atomic 0x40000000 = true
       ∧ (let r := { armedState 1 with mem := cellsWrite memDefault (armedState 1).mem 0x7000 (bytesOfNat 8 0x80037) }
          match getCtx r 1 with | some x => (match deviceTarget r x .write 0x20000000 with | .error (.denied _) => true | _ => false) | none => false) = true) := by
  decide +kernel

/-- Messages for a ring that is not there, one without a buffer and one with a message held before; a box with a packet offered. -/
theorem witness_message_places :
    (let s := receiving
     let m := packet 11 32
     let none_ : Packet := { m with tag := 6 }
     let empty := { s with contexts := s.contexts.map (fun p => (p.1, { p.2 with posted := [] })) }
     let held := { s with fabric := { s.fabric with heldMsgs := [{ pkt := { m with seq := 9 }, left := 1400 }] } }
     let offered := { s with boxes := [(0, { SigBox.reset with offered := [(m, placedBinding, 0)] })] }
     packetOk none_ = true ∧ (matchBox s none_ 0).isNone = true
       ∧ (match getCtx s 1, getCtx empty 1 with
          | some x, some y => (ringOf x 6).isNone && (match placeRing empty 1 y 7 3 0x9000 m.payload false with | .noBuffer => true | _ => false)
          | _, _ => false) = true
       ∧ messageInBox held m = false ∧ held.fabric.heldMsgs.any (fun h => h.pkt.tag == m.tag && h.pkt.job == m.job) = true
       ∧ (getBox offered 0).run = none ∧ (getBox offered 0).offered = [(m, placedBinding, 0)]) := by decide +kernel

/-- Answers to a returning atomic, to an appending tile and to a store; a refusal that delays and one that fails. -/
theorem witness_answer_purposes :
    ([(packet 6 32, sentOf 5 (.encode 1 1 0 0 0 0), [5]), (packet 6 32, sentOf 5 (.store 1 0), [5]), (packet 2 128, sentOf 1 .none, [1]),
      (packet 2 128, sentOf 1 .none (some 5), [1])].all (fun k => (answered (awaiting k.2.1) k.1 k.2.2).map (fun p => p.1) == some 4)) = true
      ∧ (let own := { awaiting (sentOf 5 (.store 1 0)) with waves := [(0, { placedControl with stores := [{ buffered 3 with sent := some 4 }] })] }
         carried own 1 4 = [{ buffered 3 with sent := some 4 }] ∧ (List.find? (fun p : Nat × Wave => p.2.uid == 1) own.waves).map (fun p => p.1) = some 0)
      ∧ natOfBytes ((packet 8 32).payload.take 2) / 2 ^ 8 = 1 ∧ natOfBytes ((List.replicate 32 (0 : Byte)).take 2) = 0 := by decide +kernel

/-- A drop of a channel that is not live, of one whose frames are in use, of the last one and of another. -/
theorem witness_drops :
    (let s := ctl placedControl
     let x := { getStack s 0 with reserved := 1 }
     let t := setStack s 0 x
     (x.live / 2 ^ 5 % 2 = 1 ∧ x.live ≠ 2 ^ 5 ∧ reservedInUse t 0 5 = false) ∧ reservedInUse t 0 0 = true ∧ (failingChannel t 0).isNone = true
       ∧ { x with live := 32 }.live = 2 ^ 5 ∧ { x with live := 32 }.live / 2 ^ 4 % 2 ≠ 1 ∧ reservedInUse (setStack s 0 { x with live := 32 }) 0 5 = false) := by
  decide +kernel

/-- A saved team that is to be placed again. -/
theorem witness_saved_seat :
    (let s := placing true
     match getLaunch s 1 with
     | some l => decide (lowestTeam l = some 0) && (savedTeam s l 0).isSome && (seatOfTeam s 1 l 0 0).isSome && (placeOn s 1 l 0).isSome
     | none => false) = true := by decide +kernel

end Sys2Proof.Tests
end

/-! # The control stream: results of the integer instructions (R99 to R102) -/

section
namespace Sys2Proof.Machine

open Sys2Proof.Laws

/-! ## Values and fields -/

theorem bool64_decide (p : Prop) [Decidable p] : bool64 (decide p) = if p then 1 else 0 := by
  simp only [bool64, decide_eq_true_eq]

/-- The quotient that overflows is 2⁶³, which is the dividend again as a pattern of 64 bits (R100). -/
theorem divS_overflow : divS (BitVec.intMin 64) (BitVec.allOnes 64) = BitVec.intMin 64 := by decide

theorem remS_overflow : remS (BitVec.intMin 64) (BitVec.allOnes 64) = 0 := by decide

/-- A well-formed C3 form that names no `b` has that field and its e bit zero (R72). -/
theorem c3_b_zero_of_wf {i : Instr} {f : C3} (hc : checks i = c3Zero f true true false) (h : i.wf = true) : f.b = 0 ∧ f.eb = false := by
  simpa [Instr.wf, hc, c3Zero] using h

/-! ## Fetching and decoding a word that is refused -/

theorem fetchWord_wordAt {s : State} {x : Context} {addr v : Nat} (h : WordAt s x addr v) : fetchWord s x addr = .ok v := by
  obtain ⟨hlt, p, htr, hp, hv⟩ := h
  have h0 : addr / 2 ^ 56 = 0 := Nat.div_eq_of_lt hlt
  simp only [fetchWord, h0, ne_eq, not_true, if_false, Nat.mod_eq_of_lt hlt, htr, hp, Bool.false_eq_true, hv]

/-- A word whose length code is 0b00 is fetched alone (R68). -/
theorem fetchInstr_oneWord {s : State} {x : Context} {t : DecodeTable} {lane : Bool} {addr v : Nat} (h : WordAt s x addr v)
    (hl : v % 4 = 0) : fetchInstr s x t lane addr = decodeFetched t lane x.privileged v := by
  simp only [fetchInstr, fetchWord_wordAt h, hl, true_or, if_true]

theorem lookupIn_map1 : lookupIn .map1 = map1 := rfl

theorem lowestBad_single {b : Nat} {p : Prop} [Decidable p] (h : ¬ p) : lowestBad [(b, decide p)] = some b := by
  rw [decide_eq_false h]; rfl

theorem lowestBad_append_passing (cs : List Check) : ∀ raw : List Check, raw.all (fun c => c.2) = true →
    lowestBad (raw ++ cs) = lowestBad cs
  | [], _ => rfl
  | (b, ok) :: r, h => by
    obtain ⟨rfl, hr⟩ : ok = true ∧ r.all (fun c => c.2) = true := by simpa using h
    simp only [List.cons_append, lowestBad, lowestBad_append_passing cs r hr]

/-- A word of an unprivileged operation in its own stream is refused at the lowest bit whose check fails (R69, check 6). -/
theorem decodeThoyx_badField {i : Instr} {op len x b : Nat} {f : Fmt} {p : Bool} (h : Fields f len x i) (hf : opFormat op = some f)
    (hop : op < 0x3C8) (hb : lowestBad (checks i) = some b) : decodeThoyx map1 f.isLane p (len + 4 * op + x) = .error (.field b) := by
  have hx := h.above
  have hs := h.short
  have hm : (len + 4 * op + x) % 4 = len := by omega
  have hd : (len + 4 * op + x) / 4 % 1024 = op := by omega
  have hmap : map1 op = some op := by simp [map1, hf]
  have hpriv : isPrivilegedOp op = false := by simp [isPrivilegedOp, hop]
  have hfit : wordBits len (len + 4 * op + x) = len + 4 * op + x := by
    have := h.fits
    obtain rfl | rfl | rfl : len = 0 ∨ len = 1 ∨ len = 2 := by omega
    all_goals exact Nat.mod_eq_of_lt (by omega)
  have hraw := lowestBad_append_passing (checks i) _ (h.raw op (by omega))
  simp only [decodeThoyx, hm, hd, hmap, hf, h.length, hpriv, hfit, h.build op (by omega), hraw, hb, if_neg (show ¬ len = 3 by omega),
    bne_self_eq_false, Bool.not_true, Bool.false_and, Bool.false_eq_true, if_false]

/-- A control stream whose fetch is a fault raises it at its program counter (R68 to R70). -/
theorem runActor_control_fault {s : State} {wid : Nat} {w : Wave} {lid c code detail : Nat} {l : Launch} {x : Context} {unit : Option Nat}
    (h : AtControl s wid w) (hl : launchOf s w = some (lid, l)) (hx : ctxRec s w = some (c, x))
    (hf : fetchInstr (leaveYield s (.control wid)) x w.decode false w.pc.toNat = .fault code detail unit) :
    runActor s (.control wid) = .next (raiseFault (leaveYield s (.control wid)) (.control wid) code detail none unit) := by
  obtain ⟨hactor, hw⟩ := h
  have hs : { s with actor := .control wid } = s := by rw [← hactor]
  simp only [runActor, actorWave, hw, hl, hx, hs, isLane, fetchAddr, hf]

/-! ## Shift counts and field widths out of range -/

/-- A shift by 64 places or more, and a field of no bit or of more than 64, fail the check at bit 25, where imm7 stands (R101, R102). -/
theorem immediate_refused {f : CI} {op : Nat}
    (h : (op ∈ [0x024, 0x025, 0x026] ∧ 64 ≤ f.imm.toNat) ∨ (op ∈ [0x01A, 0x01B] ∧ (f.imm.toNat = 0 ∨ 64 < f.imm.toNat))) :
    op < 0x3C8 ∧ ∃ mk, opFormat op = some (.ci mk) ∧ lowestBad (checks (mk f)) = some 25 := by
  obtain ⟨hop, hn⟩ | ⟨hop, hn⟩ := h
  · have hc : lowestBad [((25 : Nat), decide (f.imm.toNat < 64))] = some 25 := lowestBad_single (by omega)
    obtain rfl | rfl | rfl : op = 0x024 ∨ op = 0x025 ∨ op = 0x026 := by simpa using hop
    · exact ⟨by decide, .sshli, rfl, hc⟩
    · exact ⟨by decide, .sshri, rfl, hc⟩
    · exact ⟨by decide, .ssrai, rfl, hc⟩
  · have hc : lowestBad [((25 : Nat), decide (1 ≤ f.imm.toNat ∧ f.imm.toNat ≤ 64))] = some 25 := lowestBad_single (by omega)
    obtain rfl | rfl : op = 0x01A ∨ op = 0x01B := by simpa using hop
    · exact ⟨by decide, .sext, rfl, hc⟩
    · exact ⟨by decide, .zext, rfl, hc⟩

/-- The fetch of a CI word whose check at bit `b` fails is fault 0x04 with the word and the bit (R69, R70). -/
theorem fetchInstr_ci_badField {s : State} {x : Context} {f : CI} {mk : CI → Instr} {op addr b : Nat} (hop : op < 0x3C8)
    (hf : opFormat op = some (.ci mk)) (hb : lowestBad (checks (mk f)) = some b) (hw : WordAt s x addr (4 * op + encCI f)) :
    fetchInstr s x .map1 false addr = .fault 0x04 (4 * op + encCI f + b * 2 ^ 32) none := by
  have hfields := fields_ci mk f
  have habove := hfields.above
  have hfits := encCI_lt f
  have hdec : decodeThoyx map1 false x.privileged (4 * op + encCI f) = .error (.field b) := by
    simpa only [Nat.zero_add, show (Fmt.ci mk).isLane = false from rfl] using decodeThoyx_badField hfields hf hop hb
  have hword : (4 * op + encCI f) % 2 ^ 32 = 4 * op + encCI f := Nat.mod_eq_of_lt (by omega)
  rw [fetchInstr_oneWord hw (by omega), decodeFetched, lookupIn_map1, hdec, hword]
  rfl

/-! ## Register-register instructions -/

/-- Settles O1: each instruction hands its operation to one of the two shapes `alu2` and `alu3`, which write the result back where their
operands are full. -/
theorem scalarRegisterResults : Obligations.ScalarRegisterResults := by
  intro s wid w f h ha hd a b codes does gives
  refine ⟨⟨rfl, (exec_sclz f s).trans (alu2_ready _ _ h ha hd)⟩, ⟨rfl, (exec_spopc f s).trans (alu2_ready _ _ h ha hd)⟩, ?noB, fun hb => ?_⟩
  case noB =>
    intro i hi hwf
    obtain rfl | rfl : i = .sclz f ∨ i = .spopc f := by simpa using hi
    · exact c3_b_zero_of_wf rfl hwf
    · exact c3_b_zero_of_wf rfl hwf
  have writes {i : Instr} {v : Dword} (g : Dword → Dword → Dword) (hx : exec i s = alu3 i f g s) (hv : g a b = v) : does i v :=
    hv ▸ hx.trans (alu3_ready i g h ha hb hd)
  have overflows (ea : a = BitVec.intMin 64) (eb : b = BitVec.allOnes 64) : does (.sdivs f) (BitVec.intMin 64) ∧ does (.srems f) 0 :=
    ⟨writes _ (exec_sdivs f s) (by rw [ea, eb, divS_overflow]), writes _ (exec_srems f s) (by rw [ea, eb, remS_overflow])⟩
  exact ⟨⟨rfl, writes _ (exec_sadd f s) rfl⟩, ⟨rfl, writes _ (exec_ssub f s) rfl⟩, ⟨rfl, writes _ (exec_smul f s) rfl⟩,
    ⟨rfl, writes _ (exec_smulhs f s) rfl⟩, ⟨rfl, writes _ (exec_smulhu f s) rfl⟩,
    ⟨rfl, writes _ (exec_sdivs f s) rfl⟩, ⟨rfl, writes _ (exec_sdivu f s) rfl⟩,
    ⟨rfl, writes _ (exec_srems f s) rfl⟩, ⟨rfl, writes _ (exec_sremu f s) rfl⟩, overflows,
    ⟨rfl, writes _ (exec_sand f s) rfl⟩, ⟨rfl, writes _ (exec_sor f s) rfl⟩, ⟨rfl, writes _ (exec_sxor f s) rfl⟩,
    ⟨rfl, writes _ (exec_sandn f s) rfl⟩,
    ⟨rfl, writes _ (exec_sshl f s) rfl⟩, ⟨rfl, writes _ (exec_sshr f s) rfl⟩, ⟨rfl, writes _ (exec_ssra f s) rfl⟩,
    ⟨rfl, writes _ (exec_smins f s) rfl⟩, ⟨rfl, writes _ (exec_smaxs f s) rfl⟩,
    ⟨rfl, writes _ (exec_sminu f s) rfl⟩, ⟨rfl, writes _ (exec_smaxu f s) rfl⟩,
    ⟨rfl, writes _ (exec_sslts f s) (bool64_decide _)⟩, ⟨rfl, writes _ (exec_ssltu f s) (bool64_decide _)⟩,
    ⟨rfl, writes _ (exec_sseq f s) (bool64_decide _)⟩⟩

/-! ## Immediate and extension instructions -/

/-- Settles O2: each instruction hands its operation to the shape `aluI`; a word whose count or width is out of range fails the decoder's
check at bit 25, and the fetch that finds it is the fault. -/
theorem scalarImmediateResults : Obligations.ScalarImmediateResults := by
  intro s wid w f h a n gives
  refine ⟨fun ha hd => ?results, ?codes, ?refused⟩
  case results =>
    have writes {i : Instr} {v : Dword} (g : Dword → BitVec 7 → Dword) (hx : exec i s = aluI i f g s) (hv : g a f.imm = v) : gives i v :=
      hv ▸ hx.trans (aluI_ready i g h ha hd)
    exact ⟨writes _ (exec_saddi f s) rfl, writes _ (exec_sandi f s) rfl, writes _ (exec_sori f s) rfl, writes _ (exec_sxori f s) rfl,
      writes _ (exec_sslti f s) (bool64_decide _),
      fun _ => ⟨writes _ (exec_sshli f s) rfl, writes _ (exec_sshri f s) rfl, writes _ (exec_ssrai f s) rfl⟩,
      fun _ _ => ⟨writes _ (exec_sext f s) rfl, writes _ (exec_zext f s) rfl⟩⟩
  case codes =>
    simp only [List.forall_mem_cons]
    exact ⟨rfl, rfl, rfl, rfl, rfl, rfl, rfl, rfl, rfl, rfl, by simp⟩
  case refused =>
    intro op hop u lid l c x hl hx hmap hword
    obtain ⟨hlt, mk, hf, hb⟩ := immediate_refused hop
    exact runActor_control_fault h hl hx (hmap ▸ fetchInstr_ci_badField hlt hf hb hword)

end Sys2Proof.Machine
end

/-! # The lane stream: moves and selections (R127, R138, R140, R141) -/

section
namespace Sys2Proof.Machine

/-! ## A lane instruction whose operands are ready -/

/-- What lane instruction `i` answers when it writes `g l` to its `D` in each of its lanes and its path moves on (R119). -/
def writesLanes (s : State) (L : LaneCtx) (f : V3) (i : Instr) (g : Nat → LaneOut) : Out :=
  .next (setWave s L.wid (finishLane i L.actor (putLanes f.d g L.w L.all L.w)))

/-- Without an active lane there is none in the other half either, and nothing is written (R59, R278). -/
theorem writesLanes_no_lane {s : State} {L : LaneCtx} {f : V3} {i : Instr} {g : Nat → LaneOut} (h : L.lanes = []) :
    writesLanes s L f i g = .next (setWave s L.wid (finishLane i L.actor L.w)) := by
  have hall : L.all = [] := by simp [LaneCtx.all, h]
  rw [writesLanes, hall, putLanes]

theorem laneMap_ready {s : State} {L : LaneCtx} (i : Instr) {f : V3} {r : Reads} (g : LaneCtx → LaneIn → LaneOut) (h : AtLane s L)
    (hd : OperandReady L L.lanes f.d) (hs : ∀ x ∈ v3Srcs r f, OperandReady L L.lanes x.o) :
    laneMap i f r g s = writesLanes s L f i (fun l => g L (laneIn s L r f l)) := by
  apply runLane_next h
  rw [gates_ready hs (by simpa using hd)]
  rfl

/-- Field `A` is the one source, of type `t`. -/
theorem v3Srcs_a_ready {L : LaneCtx} {f : V3} {t : Nat} (ha : OperandReady L L.lanes f.a) :
    ∀ x ∈ v3Srcs { a := some t } f, OperandReady L L.lanes x.o := by
  intro x hx
  obtain rfl : x = ⟨f.a, f.ea, t⟩ := by simpa [v3Srcs, optSrc] using hx
  exact ha

/-- Fields `A` and `B` are the sources, of types `t` and `u`. -/
theorem v3Srcs_ab_ready {L : LaneCtx} {f : V3} {t u : Nat} (ha : OperandReady L L.lanes f.a) (hb : OperandReady L L.lanes f.b) :
    ∀ x ∈ v3Srcs { a := some t, b := some u } f, OperandReady L L.lanes x.o := by
  intro x hx
  obtain rfl | rfl : x = ⟨f.a, f.ea, t⟩ ∨ x = ⟨f.b, f.eb, u⟩ := by simpa [v3Srcs, optSrc] using hx
  · exact ha
  · exact hb

/-- The type of a source matters for an immediate alone, which it widens (R119). -/
theorem srcWord_of_not_imm (L : LaneCtx) (lit : Option (BitVec 32)) {o : Operand} (ho : ∀ i, o ≠ .imm i) (e : Bool) (t u l : Nat) :
    srcWord L lit ⟨o, e, t⟩ l = srcWord L lit ⟨o, e, u⟩ l := by
  cases o with
  | imm i => exact absurd rfl (ho i)
  | v n => rfl
  | ix a x k => rfl
  | q n => rfl

/-! ## Results -/

section
variable {s : State} {L : LaneCtx} {f : V3} (h : AtLane s L) (hd : OperandReady L L.lanes f.d) (ha : OperandReady L L.lanes f.a)
include h hd ha

theorem exec_vmov_ready :
    exec (.vmov f) s = writesLanes s L f (.vmov f) (fun l => { x := srcWord L f.lit ⟨f.a, f.ea, f.t.toNat⟩ l }) :=
  (exec_vmov f s).trans (laneMap_ready _ _ h hd (v3Srcs_a_ready ha))

/-- VBCAST reads register `A` in the lowest active lane `k` of each half. -/
theorem exec_vbcast_ready {k : Nat} {r : List Nat} (hk : L.lanes = k :: r) :
    exec (.vbcast f) s
      = writesLanes s L f (.vbcast f) (fun l => { x := srcWord L f.lit ⟨f.a, f.ea, 0⟩ (sameHalf l k L.shadow) }) := by
  rw [exec_vbcast, execVbcast, laneMap_ready _ _ h hd (v3Srcs_a_ready ha)]
  simp only [hk, laneIn]

theorem exec_vbcast_no_lane (hnil : L.lanes = []) :
    exec (.vbcast f) s = .next (setWave s L.wid (finishLane (.vbcast f) L.actor L.w)) := by
  rw [exec_vbcast, execVbcast, laneMap_ready _ _ h hd (v3Srcs_a_ready ha), writesLanes_no_lane hnil]

variable (hb : OperandReady L L.lanes f.b)
include hb

theorem exec_vsel_ready :
    exec (.vsel f) s = writesLanes s L f (.vsel f) (fun l =>
      { x := if condAt L.w (condOf f.c) l then srcWord L f.lit ⟨f.a, f.ea, f.t.toNat⟩ l else srcWord L f.lit ⟨f.b, f.eb, f.t.toNat⟩ l }) :=
  (exec_vsel f s).trans (laneMap_ready _ _ h hd (v3Srcs_ab_ready ha hb))

/-- VIDX counts a lane of the upper half from lane 48 (R141). -/
theorem exec_vidx_ready :
    exec (.vidx f) s = writesLanes s L f (.vidx f) (fun l =>
      { x := srcWord L f.lit ⟨f.a, f.ea, f.t.toNat⟩ l
          + BitVec.ofNat 32 (l - (if L.shadow && decide (48 ≤ l) then 48 else 0)) * srcWord L f.lit ⟨f.b, f.eb, f.t.toNat⟩ l }) := by
  have hnum (l : Nat) : l - (if L.shadow && decide (48 ≤ l) then 48 else 0) = if L.shadow && decide (48 ≤ l) then l - 48 else l := by
    split <;> rfl
  simp only [hnum]
  exact (exec_vidx f s).trans (laneMap_ready _ _ h hd (v3Srcs_ab_ready ha hb))

end

/-! ## The fields that a V3 entry allows (R77, R81, R82) -/

theorem sKindChecks_none {base ebit : Nat} {o : Operand} {e w : Bool} {lit : Option (BitVec 32)}
    (h : (sKindChecks .none base ebit o e w lit).all (fun c => c.2) = true) : o = .v 0 := by
  simp only [sKindChecks, isZeroOp, List.all_cons, Bool.and_eq_true, decide_eq_true_eq] at h
  exact h.1

theorem sKindChecks_cond {base ebit : Nat} {o : Operand} {e w : Bool} {lit : Option (BitVec 32)}
    (h : (sKindChecks .cond base ebit o e w lit).all (fun c => c.2) = true) : ∃ n, o = .q n ∧ n.toNat < 8 := by
  cases o with
  | q n =>
    have hn : n.toNat < 8 ∧ e = false := by simpa [sKindChecks, condCheck] using h
    exact ⟨n, rfl, hn.1⟩
  | _ => simp [sKindChecks, condCheck] at h

/-- What a well-formed V3 instruction that names no palette has in its fields: `B` and `C` pass their own checks, T and M are among the
codes of the entry, sat is set only where the entry allows it, and w is zero. -/
theorem v3_fields_of_wf {i : Instr} {f : V3} {sp : V3Spec} (hc : checks i = v3Checks sp f) (hpal : sp.c ≠ .pal) (h : i.wf = true) :
    (sKindChecks sp.b 32 53 f.b f.eb f.w f.lit).all (fun c => c.2) = true
      ∧ (sKindChecks sp.c 42 54 f.c f.ec f.w f.lit).all (fun c => c.2) = true
      ∧ f.t.toNat ∈ sp.types ∧ f.m.toNat ∈ sp.ms ∧ (f.sat = true → sp.sat = true) ∧ f.w = false := by
  have hall : (v3Checks sp f).all (fun c => c.2) = true := hc ▸ h
  simp only [v3Checks, List.all_append, Bool.and_eq_true] at hall
  obtain ⟨⟨⟨⟨-, hb⟩, hcc⟩, -⟩, hcodes⟩ := hall
  refine ⟨hb, hcc, ?_⟩
  simpa [hpal, or_comm, imp_iff_not_or] using hcodes

/-- M, sat and w are zero. -/
abbrev PlainV3 (f : V3) : Prop := f.m = 0 ∧ f.sat = false ∧ f.w = false

/-- An entry that allows M 0 alone and neither sat nor a palette leaves M, sat and w no other value. -/
theorem v3_plain_of_wf {i : Instr} {f : V3} {sp : V3Spec} (hc : checks i = v3Checks sp f) (hpal : sp.c ≠ .pal) (hm : sp.ms = [0])
    (hs : sp.sat = false) (h : i.wf = true) : PlainV3 f := by
  obtain ⟨-, -, -, hmem, hsat, hw⟩ := v3_fields_of_wf hc hpal h
  have hm0 : f.m.toNat = 0 := by simpa [hm] using hmem
  exact ⟨BitVec.eq_of_toNat_eq hm0, by simpa [hs] using hsat, hw⟩

theorem vsel_fields_of_wf {f : V3} (h : (Instr.vsel f).wf = true) :
    PlainV3 f ∧ (f.t.toNat = 0 ∨ f.t.toNat = 1 ∨ f.t.toNat = 6 ∨ f.t.toNat = 7)
      ∧ ∃ n, f.c = .q n ∧ n.toNat < 8 := by
  obtain ⟨-, hcond, ht, -⟩ := v3_fields_of_wf rfl (by decide) h
  exact ⟨v3_plain_of_wf rfl (by decide) rfl rfl h, by simpa using ht, sKindChecks_cond hcond⟩

theorem vmov_fields_of_wf {f : V3} (h : (Instr.vmov f).wf = true) : PlainV3 f ∧ f.t.toNat < 8 := by
  have below : ∀ n ∈ [0, 1, 2, 3, 4, 5, 6, 7], n < 8 := by decide
  obtain ⟨-, -, ht, -⟩ := v3_fields_of_wf rfl (by decide) h
  exact ⟨v3_plain_of_wf rfl (by decide) rfl rfl h, below _ ht⟩

theorem vbcast_fields_of_wf {f : V3} (h : (Instr.vbcast f).wf = true) :
    PlainV3 f ∧ f.t.toNat = 0 ∧ f.b = .v 0 ∧ f.c = .v 0 := by
  obtain ⟨hb, hc, ht, -⟩ := v3_fields_of_wf rfl (by decide) h
  exact ⟨v3_plain_of_wf rfl (by decide) rfl rfl h, by simpa using ht, sKindChecks_none hb, sKindChecks_none hc⟩

theorem vidx_fields_of_wf {f : V3} (h : (Instr.vidx f).wf = true) :
    PlainV3 f ∧ f.t.toNat < 2 ∧ f.c = .v 0 := by
  have below : ∀ n ∈ [0, 1], n < 2 := by decide
  obtain ⟨-, hc, ht, -⟩ := v3_fields_of_wf rfl (by decide) h
  exact ⟨v3_plain_of_wf rfl (by decide) rfl rfl h, below _ ht, sKindChecks_none hc⟩

/-- Settles O13: each instruction is the shape `laneMap` over its own sources, and the checks of its entry bound its fields. VBCAST reads
`A` with type 0 whatever T holds, which is the type that its entry allows. -/
theorem laneSelections : Obligations.LaneSelections := by
  intro s L f h t a b gives half plain
  refine ⟨fun hd ha => ⟨exec_vmov_ready h hd ha, fun k r hk ht => ?bcast, exec_vbcast_no_lane h hd ha,
      fun hb => ⟨exec_vsel_ready h hd ha hb, fun _ => exec_vidx_ready h hd ha hb⟩⟩,
    fun _ e u l ho => srcWord_of_not_imm L f.lit ho e t u l, rfl, rfl, rfl, rfl,
    vsel_fields_of_wf, vmov_fields_of_wf, vbcast_fields_of_wf, vidx_fields_of_wf⟩
  case bcast =>
    simpa only [gives, a, ht, writesLanes] using exec_vbcast_ready h hd ha hk

end Sys2Proof.Machine
end

/-! # The heartbeat of a launch (R256) -/

section
namespace Sys2Proof.Machine

/-! ## Waves and launches after an update -/

@[simp] theorem getWave_setWave_same (s : State) (wid : Nat) (w : Wave) : getWave (setWave s wid w) wid = some w :=
  Tbl.find?_put_same w wid s.waves

theorem getWave_setWave_ne (s : State) (w : Wave) {wid k : Nat} (h : k ≠ wid) : getWave (setWave s wid w) k = getWave s k :=
  Tbl.find?_put_ne w h s.waves

@[simp] theorem getLaunch_setWave (s : State) (wid : Nat) (w : Wave) (k : Nat) : getLaunch (setWave s wid w) k = getLaunch s k := rfl

@[simp] theorem getWave_modLaunch (s : State) (lid : Nat) (f : Launch → Launch) (k : Nat) : getWave (modLaunch s lid f) k = getWave s k := rfl

@[simp] theorem getLaunch_modLaunch_same (s : State) (lid : Nat) (f : Launch → Launch) :
    getLaunch (modLaunch s lid f) lid = (getLaunch s lid).map f :=
  Tbl.find?_modify_same f lid s.launches

theorem getLaunch_modLaunch_ne (s : State) (f : Launch → Launch) {lid k : Nat} (h : k ≠ lid) :
    getLaunch (modLaunch s lid f) k = getLaunch s k :=
  Tbl.find?_modify_ne f h s.launches

/-- The launch of a wave's team is the one listed under its number. -/
theorem getLaunch_of_launchOf {s : State} {w : Wave} {lid : Nat} {l : Launch} (h : launchOf s w = some (lid, l)) :
    getLaunch s lid = some l := by
  unfold launchOf at h
  split at h
  · cases h
  · obtain ⟨x, hx, heq⟩ := Option.map_eq_some_iff.mp h
    cases heq
    exact hx

/-! ## HBEAT -/

section
variable {s : State} {wid : Nat} {w : Wave} {lid : Nat} {l : Launch} (f : C3) (h : AtControl s wid w) (hl : launchOf s w = some (lid, l))
include h hl

theorem exec_hbeat_persistent (hp : flagPersistent l = true) :
    exec (.hbeat f) s
      = .next (modLaunch (setWave s wid (finishControl (.hbeat f) w)) lid (fun l => { l with hbLeft := l.e.hbWindow })) := by
  rw [exec_hbeat]
  apply runControl_next h
  simp only [hl, orStop, res_ok_bind, hp, if_true]

theorem exec_hbeat_not_persistent (hp : flagPersistent l = false) :
    exec (.hbeat f) s = .next (setWave s wid (finishControl (.hbeat f) w)) := by
  rw [exec_hbeat]
  apply runControl_next h
  simp only [hl, orStop, res_ok_bind, hp, Bool.false_eq_true, if_false]

end

/-- Settles O51: in a persistent launch the control stream moves on and the entry of the launch is changed, in any other the control
stream moves on alone; the rest is read after those two updates. -/
theorem heartbeatRenewal : Obligations.HeartbeatRenewal := by
  intro s wid w c lid l h hl
  have hlaunch := getLaunch_of_launchOf hl
  cases hp : flagPersistent l with
  | true =>
    refine ⟨_, exec_hbeat_persistent c h hl hp, ?_, fun k hk => ?_, ?_, fun k hk => ?_, nofun⟩
    · simp [hlaunch]
    · simp [getLaunch_modLaunch_ne _ _ hk]
    · simp
    · simp [getWave_setWave_ne _ _ hk]
  | false =>
    refine ⟨_, exec_hbeat_not_persistent c h hl hp, ?_, fun k _ => ?_, ?_, fun k hk => getWave_setWave_ne _ _ hk, fun _ => rfl⟩
    · simp [hlaunch]
    · simp
    · simp

end Sys2Proof.Machine
end

/-! # Encodings: round trips, the checks of the decoder, words of the tables -/

section
namespace Sys2Proof.Machine

open Sys2Proof.Laws

/-! ## Round trips -/

theorem encode_of_code {i : Instr} {op len x : Nat} (h : thoyxCode i = some (op, len, x)) :
    encode i = some (byteLength i * 8, len + 4 * op + x) ∧ byteLength i = 4 * (len + 1) := by
  have hb : byteLength i = 4 * (len + 1) := by simp only [byteLength, h]
  refine ⟨?_, hb⟩
  simp only [encode, encodeAt, h, id, hb, Option.some.injEq, Prod.mk.injEq, and_true]
  omega

/-- Settles O55: the words of an instruction hold the fields of its format (`hasFields`), and a word that does so decodes to the instruction
its fields build (`decodeThoyx_fields`). -/
theorem encodingsRoundTrip : Obligations.EncodingsRoundTrip := by
  intro i op len x hc hwf w
  obtain ⟨f, hf, hop, hfields⟩ := hasFields i op len x hc hwf
  obtain ⟨hlen, hopc, hlt, hstream, hpriv, hunpriv⟩ := decodeThoyx_fields hfields hf hop hwf
  obtain ⟨henc, hbytes⟩ := encode_of_code hc
  have hbits : 8 * byteLength i = 32 * (len + 1) := by omega
  exact ⟨henc, hfields.short, hlen, hopc, hbits ▸ hlt, f.isLane, hstream, hpriv, hunpriv⟩

/-- No instruction is a word of both sets. -/
theorem code_isNone_or_box_isNone (i : Instr) : ((thoyxCode i).isNone || (boxCode i).isNone) = true := by
  cases i <;> rfl

theorem thoyxCode_of_box {i : Instr} {w : Nat} (h : boxCode i = some w) : thoyxCode i = none := by
  simpa [h] using code_isNone_or_box_isNone i

/-- A word whose raw checks and whose instruction's checks all pass has no reason to fail. -/
theorem boxWordReason_none {i : Instr} {w : Nat} (h : HasWord i w) (hwf : i.wf = true) : boxWordReason w = none := by
  obtain ⟨hform, -, hraw⟩ := h
  have hbad : (boxRawChecks w ++ checks i).filter (fun c => !c.2) = [] := by
    have hall : (boxRawChecks w ++ checks i).all (fun c => c.2) = true := by rw [List.all_append, hraw]; exact hwf
    rw [List.filter_eq_nil_iff]
    intro c hc
    simp [List.all_eq_true.mp hall c hc]
  simp only [boxWordReason, hform, hbad, List.any_nil, Bool.false_eq_true, if_false, List.isEmpty_nil, if_true]

/-- Settles O56: the word of a signal box's instruction has its form and no bit set that the format leaves zero (`hasWord`). -/
theorem boxEncodingsRoundTrip : Obligations.BoxEncodingsRoundTrip := by
  intro i w hc hwf
  have hword := hasWord i w hc hwf
  have hreason := boxWordReason_none hword hwf
  refine ⟨?_, hreason, hword.2.1, ?_⟩
  · simp only [decodeBox, hreason, if_true, hword.1]
  · simp only [encode, encodeAt, thoyxCode_of_box hc, hc, Option.map_some]

/-! ## The checks of R69 -/

theorem all_of_lowestBad_none : ∀ l : List Check, lowestBad l = none → l.all (fun c => c.2) = true
  | [], _ => rfl
  | (b, ok) :: r, h => by
    cases ok with
    | true => simpa using all_of_lowestBad_none r (by simpa [lowestBad] using h)
    | false => cases hr : lowestBad r <;> simp [lowestBad, hr] at h

/-- Check 6 of R69: the fields of a word of format `f`. -/
def decodeFields (f : Fmt) (w : Nat) : Except DecodeError Instr :=
  match lowestBad (f.rawChecks (wordBits (w % 4) w) ++ checks (f.build (w % 4) (wordBits (w % 4) w))) with
  | some b => .error (.field b)
  | none => .ok (f.build (w % 4) (wordBits (w % 4) w))

/-- The first five checks of R69, in their order, and what is left of decoding after them. -/
theorem decodeThoyx_eq (look : Nat → Option Nat) (lane priv : Bool) (w : Nat) :
    decodeThoyx look lane priv w =
      if w % 4 = 3 then .error .illegalLength else
      match look (w / 4 % 1024) with
      | none => .error .unmapped
      | some op =>
        match opFormat op with
        | none => .error .unmapped
        | some f =>
          if f.isLane ≠ lane then .error .stream
          else if w % 4 ∉ f.lengths then .error (.field 0)
          else if 0x3C8 ≤ op ∧ priv = false then .error (.privileged op)
          else decodeFields f w := by
  simp only [decodeThoyx, decodeFields, isPrivilegedOp, bne_iff_ne, Bool.not_eq_true', List.contains_eq_mem, Bool.and_eq_true,
    decide_eq_true_eq, decide_eq_false_iff_not] <;> rfl

theorem decodeFields_cases (f : Fmt) (w : Nat) :
    (∃ b, decodeFields f w = .error (.field b))
      ∨ (decodeFields f w = .ok (f.build (w % 4) (wordBits (w % 4) w)) ∧ (f.build (w % 4) (wordBits (w % 4) w)).wf = true) := by
  cases hb : lowestBad (f.rawChecks (wordBits (w % 4) w) ++ checks (f.build (w % 4) (wordBits (w % 4) w))) with
  | some b => exact .inl ⟨b, by simp only [decodeFields, hb]⟩
  | none =>
    have hall := all_of_lowestBad_none _ hb
    rw [List.all_append, Bool.and_eq_true] at hall
    exact .inr ⟨by simp only [decodeFields, hb], hall.2⟩

/-- What is accepted has passed the first five checks, and its fields are what decoding gives. -/
theorem decodeThoyx_ok {look : Nat → Option Nat} {lane priv : Bool} {w : Nat} {i : Instr} (h : decodeThoyx look lane priv w = .ok i) :
    ∃ op f, look (w / 4 % 1024) = some op ∧ opFormat op = some f ∧ f.isLane = lane ∧ w % 4 ∈ f.lengths ∧ (0x3C8 ≤ op → priv = true)
      ∧ decodeFields f w = .ok i := by
  rw [decodeThoyx_eq] at h
  split_ifs at h
  split at h
  · cases h
  · next op hop =>
    split at h
    · cases h
    · next f hf =>
      split_ifs at h with hstream hlen hpriv
      refine ⟨op, f, hop, hf, by simpa using hstream, by simpa using hlen, fun hle => ?_, h⟩
      simpa [hle] using hpriv

/-- Settles O57: each clause reads off one check of `decodeThoyx_eq`. -/
theorem decodeChecks : Obligations.DecodeChecks := by
  intro look lane priv w opcode
  refine ⟨fun h3 => ?length, fun h3 hnone => ?unmapped, fun op f h3 hop hf => ?format, fun i hi => ?accepted⟩
  case length => rw [decodeThoyx_eq, if_pos h3]
  case unmapped => simp only [decodeThoyx_eq, if_neg h3, show look (w / 4 % 1024) = none from hnone]
  case format =>
    have hdec : decodeThoyx look lane priv w = if f.isLane ≠ lane then .error .stream else if w % 4 ∉ f.lengths then .error (.field 0)
        else if 0x3C8 ≤ op ∧ priv = false then .error (.privileged op) else decodeFields f w := by
      simp only [decodeThoyx_eq, if_neg h3, show look (w / 4 % 1024) = some op from hop, hf]
    rw [hdec]
    refine ⟨fun hs => if_pos hs, fun hs hl => ?_, fun hs hl hp hq => ?_, fun hs hl hp => ?_⟩
    · rw [if_neg (by simpa using hs), if_pos hl]
    · rw [if_neg (by simpa using hs), if_neg (by simpa using hl), if_pos ⟨hp, hq⟩]
    · have hpriv : ¬ (0x3C8 ≤ op ∧ priv = false) := by
        rintro ⟨hle, hfalse⟩
        rcases hp with hlt | htrue
        · omega
        · simp [hfalse] at htrue
      rw [if_neg (by simpa using hs), if_neg (by simpa using hl), if_neg hpriv]
      exact decodeFields_cases f w
  case accepted =>
    obtain ⟨op, f, hop, hf, hlane, hlen, hpriv, hfields⟩ := decodeThoyx_ok hi
    refine ⟨?_, op, f, hop, hf, hlane, hlen, hpriv⟩
    obtain ⟨b, hb⟩ | ⟨hok, hwf⟩ := decodeFields_cases f w
    · rw [hb] at hfields; cases hfields
    · rw [hok] at hfields
      cases hfields
      exact hwf

end Sys2Proof.Machine
end

/-! # Closed facts: words of the tables, the reset state -/

section
namespace Sys2Proof.Machine

/-- Settles O54: closed words, which the decoder evaluates. -/
theorem wordsDecode : Obligations.WordsDecode := by
  unfold Obligations.WordsDecode
  decide +kernel

/-- Settles O60: the registers are read off the reset state; the two arrays of registers are checked index by index. -/
theorem resetState : Obligations.ResetState := by
  refine ⟨by decide +kernel, by decide +kernel, by decide +kernel, by decide +kernel, by decide +kernel, by decide +kernel,
    by decide +kernel, by decide +kernel, by decide +kernel, by decide +kernel, by decide +kernel, by decide +kernel, 
    fun q => ?_, by decide +kernel, fun c => ?_, fun k => ?_, fun k => ?_⟩
  all_goals rfl

end Sys2Proof.Machine
end

/-! # A step runs the decoded instruction (O52) -/

section
namespace Sys2Proof.Machine

open Sys2Proof.Laws

/-! ## Fetching the words of an instruction -/

/-- A fetch waits for no copy to the snapshot pool: only a write does (R400). -/
theorem translate_fetch_ne_copyFirst (s : State) (x : Context) (off : Nat) : translate s x .fetch off ≠ .copyFirst := by
  simp only [translate, wantWrites, Bool.false_and, Bool.false_eq_true, if_false]
  split
  all_goals try split_ifs
  all_goals exact nofun

theorem fetchWord_ne_wait (s : State) (x : Context) (addr : Nat) : fetchWord s x addr ≠ .error .wait := by
  rw [fetchWord]
  split_ifs
  · exact nofun
  · split
    case h_4 hcopy => exact absurd hcopy (translate_fetch_ne_copyFirst s x _)
    all_goals try split_ifs
    all_goals exact nofun

theorem decodeFetched_ne_wait (t : DecodeTable) (lane priv : Bool) (w : Nat) : decodeFetched t lane priv w ≠ .wait := by
  rw [decodeFetched]
  split
  · exact nofun
  · next e _ => cases e <;> exact nofun

theorem fetchInstr_ne_wait (s : State) (x : Context) (t : DecodeTable) (lane : Bool) (addr : Nat) : fetchInstr s x t lane addr ≠ .wait := by
  have hword (k : Nat) (e : Fetched) (h : fetchWord s x k = .error e) : e ≠ .wait := fun he => fetchWord_ne_wait s x k (he ▸ h)
  rw [fetchInstr]
  split
  · exact hword _ _ ‹_›
  split_ifs
  · exact decodeFetched_ne_wait _ _ _ _
  · split
    · exact hword _ _ ‹_›
    · exact decodeFetched_ne_wait _ _ _ _
  · split
    · exact hword _ _ ‹_›
    · split
      · exact hword _ _ ‹_›
      · exact decodeFetched_ne_wait _ _ _ _

/-- The words at an address, little-endian, as many as the length code of the first says, are decoded together (R66, R68). -/
theorem fetchInstr_words {s : State} {x : Context} {d : DecodeTable} {lane : Bool} {addr w : Nat} (haddr : addr < 2 ^ 64)
    (hlt : w < 2 ^ (32 * (w % 4 + 1))) (hlen : w % 4 < 3)
    (hw : ∀ k, k ≤ w % 4 → WordAt s x ((addr + 4 * k) % 2 ^ 64) (w / 2 ^ (32 * k) % 2 ^ 32)) :
    fetchInstr s x d lane addr = decodeFetched d lane x.privileged w := by
  have h0 : fetchWord s x addr = .ok (w % 2 ^ 32) := by
    simpa only [Nat.mul_zero, Nat.add_zero, Nat.mod_eq_of_lt haddr, Nat.pow_zero, Nat.div_one] using fetchWord_wordAt (hw 0 (Nat.zero_le _))
  have hcode : w % 2 ^ 32 % 4 = w % 4 := by omega
  obtain hl | hl | hl : w % 4 = 0 ∨ w % 4 = 1 ∨ w % 4 = 2 := by omega
  · rw [hl] at hlt
    simp only [fetchInstr, h0, hl, true_or, if_true, Nat.mod_eq_of_lt hlt]
  · have h1 := fetchWord_wordAt (hw 1 (by omega))
    rw [hl] at hlt
    simp only [Nat.mul_one] at h1
    simp only [fetchInstr, h0, hcode, hl, h1, Nat.reduceEqDiff, or_self, if_false, if_true]
    congr 1
    omega
  · have h1 := fetchWord_wordAt (hw 1 (by omega))
    have h2 := fetchWord_wordAt (hw 2 (by omega))
    rw [hl] at hlt
    simp only [Nat.mul_one, Nat.reduceMul] at h1 h2
    simp only [fetchInstr, h0, hcode, hl, h1, h2, Nat.reduceEqDiff, or_self, if_false, OfNat.ofNat_ne_one]
    congr 1
    omega

theorem fetchInstr_decodes {s : State} {x : Context} {d : DecodeTable} {lane : Bool} {addr w : Nat} {i : Instr} (haddr : addr < 2 ^ 64)
    (hlt : w < 2 ^ (32 * (w % 4 + 1))) (hw : ∀ k, k ≤ w % 4 → WordAt s x ((addr + 4 * k) % 2 ^ 64) (w / 2 ^ (32 * k) % 2 ^ 32))
    (hdec : decodeThoyx (lookupIn d) lane x.privileged w = .ok i) : fetchInstr s x d lane addr = .instr i := by
  have hlen : w % 4 < 3 := by
    by_contra hge
    rw [decodeThoyx_eq, if_pos (by omega)] at hdec
    cases hdec
  rw [fetchInstr_words haddr hlt hlen hw, decodeFetched, hdec]

/-! ## Looking at what may issue -/

theorem attempt_of_next {s t : State} {a : Actor} (hmay : mayIssue s a = true) (h : runActor s a = .next t) :
    attempt s a = (if t.stalled = true then .no else if t.actor = .none then .asked t else .issued (.next t)) := by
  simp only [attempt, hmay, if_true, h]

section
variable {s : State} {a : Actor} {w : Wave} {lid c : Nat} {l : Launch} {x : Context}
  (hw : getWave s (actorWave a) = some w) (hl : launchOf s w = some (lid, l)) (hx : ctxRec s w = some (c, x))
include hw hl hx

theorem runActor_instr {i : Instr} (hf : fetchInstr (leaveYield { s with actor := a } a) x w.decode (isLane a)
      (fetchAddr (leaveYield { s with actor := a } a) a w l) = .instr i) :
    runActor s a = (let u := leaveYield { s with actor := a } a
      if exitHits u (actorWave a) i then .next (deliverHits u (actorWave a) none)
      else thenState (fun t => afterInstr u t a i) (exec i u)) := by
  simp only [runActor, hw, hl, hx, hf]

theorem runActor_fault {code detail : Nat} {unit : Option Nat} (hf : fetchInstr (leaveYield { s with actor := a } a) x w.decode (isLane a)
      (fetchAddr (leaveYield { s with actor := a } a) a w l) = .fault code detail unit) :
    runActor s a = .next (raiseFault (leaveYield { s with actor := a } a) a code detail none unit) := by
  simp only [runActor, hw, hl, hx, hf]

theorem runActor_absent {addr entry : Nat} (hf : fetchInstr (leaveYield { s with actor := a } a) x w.decode (isLane a)
      (fetchAddr (leaveYield { s with actor := a } a) a w l) = .absent addr entry) :
    runActor s a = (let u := leaveYield { s with actor := a } a
      .next { setFetchWait (takeFault u a (standing u a) (unitFor u a 0x0A) 0x0A (addrDetail addr false true) none false) a
                (some (addr, entry)) with actor := .none }) := by
  simp only [runActor, hw, hl, hx, hf]

end

/-! ## Turns of an event and of a signal box -/

theorem nextTurn_of_agenda {s : State} {t : Turn} {r : List Turn} (h : s.agenda = t :: r) :
    nextTurn s = (t, { s with agenda := r, actor := .none, stalled := false }) := by
  simp only [nextTurn, h]

theorem step_of_agenda {s : State} {t : Turn} {r : List Turn} (h : s.agenda = t :: r) :
    step s = runTurn { s with agenda := r, actor := .none, stalled := false } t := by
  simp only [step, nextTurn_of_agenda h]

theorem runTurn_event {s : State} {i : Instr} (h : encode i = none) : runTurn s (.event i) = thenState (afterTurn s i) (exec i s) := by
  simp only [runTurn, isDeviceStep, h, Option.isNone_none, if_true]

theorem runTurn_box {s : State} {sel : Nat} {b : SigBox} {k : BoxRun} {i : Instr} (hb : Tbl.find? s.boxes sel = some b)
    (hr : b.run = some k) (hi : decodeBox ((b.kernel.getD k.pc 0).toNat) = some i) :
    runTurn s (.box sel) = exec i { s with actor := .box sel } := by
  simp only [runTurn, runBox, hb, hr, hi]

/-- Settles O52: what may issue runs what its fetch finds (`runActor_instr`, `runActor_fault`, `runActor_absent`); its words are fetched
little-endian and decoded together (`fetchInstr_words`). -/
theorem stepRunsTheDecodedInstruction : Obligations.StepRunsTheDecodedInstruction := by
  refine ⟨fun s a h => ?_, fun s a w lid c l x hmay hw hl hx => ?_, fun s x d lane addr w i haddr hlt hw hdec => ?_,
    fun s r i hs hi => ?_, fun s r sel b k i hs hb hr hi => ?_⟩
  · simp [attempt, h]
  · intro u fetched looks
    refine ⟨fun i t hf hexit ht => ?_, fun i hf hexit => ?_, fun code detail unit hf => ?_, fun addr entry hf => ?_, fetchInstr_ne_wait _ _ _ _ _⟩
    · have hrun : runActor s a = .next (afterInstr u t a i) := by
        simp only [runActor_instr hw hl hx hf, show exitHits (leaveYield { s with actor := a } a) (actorWave a) i = false from hexit,
          show exec i (leaveYield { s with actor := a } a) = .next t from ht, Bool.false_eq_true, if_false, thenState]
        rfl
      exact ⟨hrun, attempt_of_next hmay hrun⟩
    · have hrun : runActor s a = .next (deliverHits u (actorWave a) none) := by
        simp only [runActor_instr hw hl hx hf, show exitHits (leaveYield { s with actor := a } a) (actorWave a) i = true from hexit, if_true]
        rfl
      exact ⟨hrun, attempt_of_next hmay hrun⟩
    · have hrun := runActor_fault hw hl hx hf
      exact ⟨hrun, attempt_of_next hmay hrun⟩
    · have hrun := runActor_absent hw hl hx hf
      exact ⟨_, rfl, ⟨hrun, attempt_of_next hmay hrun⟩, rfl⟩
  · exact fetchInstr_decodes haddr hlt hw hdec
  · intro u t ht
    rw [step_of_agenda hs, runTurn_event hi]
    exact congrArg (thenState _) ht
  · rw [step_of_agenda hs]
    exact runTurn_box hb hr hi

end Sys2Proof.Machine
end

/-! # Scalar registers, integer instructions and branches (R42, R49 to R53, R99 to R103, R109 to R112) -/

section
namespace Sys2Proof.Machine

open Sys2Proof.Laws

/-! ## Reading registers after a write -/

theorem cells_foldl_set_outside {α : Type} [DecidableEq α] (d v : α) {q : Nat} :
    ∀ (ks : List Nat) (m : Cells α), q ∉ ks → Cells.get d (ks.foldl (fun m k => Cells.set d m k v) m) q = Cells.get d m q
  | [], _, _ => rfl
  | k :: r, m, h => by
    obtain ⟨hk, hr⟩ : q ≠ k ∧ q ∉ r := by simpa using h
    rw [List.foldl_cons, cells_foldl_set_outside d v r _ hr, Cells.get_set_ne d v m hk]

theorem cells_foldl_set_inside {α : Type} [DecidableEq α] (d v : α) {q : Nat} :
    ∀ (ks : List Nat) (m : Cells α), q ∈ ks → Cells.get d (ks.foldl (fun m k => Cells.set d m k v) m) q = v
  | k :: r, m, h => by
    rw [List.foldl_cons]
    by_cases hr : q ∈ r
    · exact cells_foldl_set_inside d v r _ hr
    · obtain rfl : q = k := by simpa [hr] using h
      rw [cells_foldl_set_outside d v r _ hr, Cells.get_set_same]

theorem writeS_of_ne {n : Nat} (h : n ≠ 63) (v : Dword) (w : Wave) :
    writeS n v w = fillAwaiting n v { w with s := Cells.set 0 w.s n v, sEmpty := Cells.set false w.sEmpty n false } := if_neg h

@[simp] theorem writeS_63 (v : Dword) (w : Wave) : writeS 63 v w = w := rfl

theorem sVal_writeS (n m : Nat) (v : Dword) (w : Wave) :
    sVal (writeS n v w) m = if m = 63 then 0 else if m = n then v else sVal w m := by
  by_cases hm : m = 63
  · simp [sVal, hm]
  by_cases hn : n = 63
  · rw [hn, writeS_63, if_neg hm, if_neg hm]
  have hs : (writeS n v w).s = Cells.set 0 w.s n v := by rw [writeS_of_ne hn]; rfl
  by_cases hmn : m = n
  · subst hmn; simp [sVal, hm, hs]
  · simp [sVal, hm, hs, hmn, Cells.get_set_ne _ _ _ hmn]

theorem sFull_writeS (n m : Nat) (v : Dword) (w : Wave) :
    sFull (writeS n v w) m = (m == 63 || m == n || sFull w m) := by
  by_cases hm : m = 63
  · simp [sFull, hm]
  by_cases hn : n = 63
  · simp [hn, hm]
  have hs : (writeS n v w).sEmpty = Cells.set false w.sEmpty n false := by rw [writeS_of_ne hn]; rfl
  by_cases hmn : m = n
  · subst hmn; simp [sFull, hs]
  · simp [sFull, hm, hs, hmn, Cells.get_set_ne _ _ _ hmn]

/-- The q registers that wait for an s register. -/
theorem mem_awaiting {w : Wave} {q n : Nat} : q ∈ (w.qAwait.filter (fun p => p.2 == n)).map (fun p => p.1) ↔ (q, n) ∈ w.qAwait := by
  simp

theorem writeS_q_awaiting {w : Wave} {n q : Nat} (v : Dword) (hn : n ≠ 63) (h : (q, n) ∈ w.qAwait) :
    Cells.get 0 (writeS n v w).q q = v ∧ Cells.get false (writeS n v w).qEmpty q = false := by
  rw [writeS_of_ne hn]
  exact ⟨cells_foldl_set_inside 0 v _ _ (mem_awaiting.mpr h), cells_foldl_set_inside false false _ _ (mem_awaiting.mpr h)⟩

/-- Writing an s register leaves the q registers that do not wait for it. -/
theorem sameUniform_writeS (w : Wave) (n : Nat) (v : Dword) : SameUniform w (writeS n v w) n := by
  intro q hq
  by_cases hn : n = 63
  · rw [hn, writeS_63]; exact ⟨rfl, rfl⟩
  have hout : q ∉ (w.qAwait.filter (fun p => p.2 == n)).map (fun p => p.1) := fun hin => hq n (mem_awaiting.mp hin) rfl
  rw [writeS_of_ne hn]
  exact ⟨cells_foldl_set_outside 0 v _ _ hout, cells_foldl_set_outside false false _ _ hout⟩

theorem sameScalars_writeS (w : Wave) (n : Nat) (v : Dword) : SameScalars w (writeS n v w) n := by
  intro m hm
  by_cases h63 : m = 63
  · simp [h63, sVal, sFull]
  · simp [sVal_writeS, sFull_writeS, hm, h63]

theorem sameControl_writeS (w : Wave) (n : Nat) (v : Dword) : SameControl w (writeS n v w) := by
  unfold writeS
  split_ifs <;> simp [SameControl, fillAwaiting]

theorem sameLanes_writeS (w : Wave) (n : Nat) (v : Dword) : SameLanes w (writeS n v w) := by
  unfold writeS
  split_ifs <;> simp [SameLanes, fillAwaiting]

theorem samePaths_writeS (w : Wave) (n : Nat) (v : Dword) : SamePaths w (writeS n v w) := by
  unfold writeS
  split_ifs <;> simp [SamePaths, fillAwaiting]

/-! ## Empty operands (R51, R52) -/

theorem readyS_wait {w : Wave} {srcs : List (Nat × Bool)} {dsts : List Nat}
    (h : (∃ p ∈ srcs, p.2 = false ∧ sFull w p.1 = false) ∨ ∃ n ∈ dsts, sFull w n = false) : readyS w srcs dsts = .error .wait := by
  have hno : (srcs.all (fun p => p.2 || sFull w p.1) && dsts.all (fun n => sFull w n)) = false := by
    rw [Bool.and_eq_false_iff, List.all_eq_false, List.all_eq_false]
    obtain ⟨p, hp, he, hf⟩ | ⟨n, hn, hf⟩ := h
    · exact .inl ⟨p, hp, by simp [he, hf]⟩
    · exact .inr ⟨n, hn, by simp [hf]⟩
  rw [readyS, hno, waitUnless_false]

/-- No operand is waited for: every source is full or read with e = 1, and every destination is full. -/
theorem readyS_go {w : Wave} {srcs : List (Nat × Bool)} {dsts : List Nat} (hs : ∀ p ∈ srcs, p.2 = true ∨ sFull w p.1 = true)
    (hd : ∀ n ∈ dsts, sFull w n = true) : readyS w srcs dsts = .ok () := by
  have h1 : srcs.all (fun p => p.2 || sFull w p.1) = true := List.all_eq_true.mpr (fun p hp => Bool.or_eq_true_iff.mpr (hs p hp))
  have h2 : dsts.all (fun n => sFull w n) = true := List.all_eq_true.mpr hd
  rw [readyS, h1, h2, Bool.and_self, waitUnless_true]

theorem emptyDetail_scalar {n : Nat} (h : n < 64) : emptyDetail 0 n 0 = n * 2 ^ 96 := by
  simp only [emptyDetail, Nat.mod_eq_of_lt (show n < 256 by omega)]
  omega

theorem srcS_empty {w : Wave} {n : Nat} (hn : n < 64) (h : sFull w n = false) :
    srcS w n true = .error (.fault 0x05 (n * 2 ^ 96) none none) := by
  simp only [srcS, h, Bool.false_eq_true, if_false, if_true, raises, emptyDetail_scalar hn]

theorem alu3_waits {s : State} {wid : Nat} {w : Wave} (i : Instr) {f : C3} (g : Dword → Dword → Dword) (h : AtControl s wid w)
    (he : (f.ea = false ∧ sFull w f.a.toNat = false) ∨ (f.eb = false ∧ sFull w f.b.toNat = false) ∨ sFull w f.d.toNat = false) :
    alu3 i f g s = .next { s with stalled := true } := by
  apply runControl_wait h
  have hwait : readyS w [(f.a.toNat, f.ea), (f.b.toNat, f.eb)] [f.d.toNat] = .error .wait := by
    apply readyS_wait
    simpa [or_assoc] using he
  rw [hwait, res_error_bind]

theorem alu3_empty {s : State} {wid : Nat} {w : Wave} (i : Instr) {f : C3} (g : Dword → Dword → Dword) (h : AtControl s wid w)
    (hd : sFull w f.d.toNat = true) (ha : f.ea = true ∨ sFull w f.a.toNat = true) (hb : f.eb = true ∨ sFull w f.b.toNat = true) :
    (sFull w f.a.toNat = false → alu3 i f g s = .next (raiseFault s (.control wid) 0x05 (f.a.toNat * 2 ^ 96) none none))
      ∧ (sFull w f.a.toNat = true → sFull w f.b.toNat = false →
          alu3 i f g s = .next (raiseFault s (.control wid) 0x05 (f.b.toNat * 2 ^ 96) none none)) := by
  have hready : readyS w [(f.a.toNat, f.ea), (f.b.toNat, f.eb)] [f.d.toNat] = .ok () := readyS_go (by simp [ha, hb]) (by simp [hd])
  refine ⟨fun hempty => runControl_fault h ?_, fun hfull hempty => runControl_fault h ?_⟩
  · have hea : f.ea = true := by simpa [hempty] using ha
    rw [hready, res_ok_bind, hea, srcS_empty f.a.isLt hempty, res_error_bind]
  · have heb : f.eb = true := by simpa [hempty] using hb
    rw [hready, res_ok_bind, srcS_full hfull, res_ok_bind, heb, srcS_empty f.b.isLt hempty, res_error_bind]

/-! ## The three shapes cover the integer instructions -/

/-- The two-source integer instructions all have the shape `alu3`. -/
theorem exec_eq_alu3 (f : C3) (s : State) :
    ∀ i ∈ [Instr.sadd f, .ssub f, .smul f, .smulhs f, .smulhu f, .sdivs f, .sdivu f, .srems f, .sremu f, .sand f, .sor f, .sxor f,
        .sandn f, .sshl f, .sshr f, .ssra f, .smins f, .smaxs f, .sminu f, .smaxu f, .sslts f, .ssltu f, .sseq f],
      ∃ g, exec i s = alu3 i f g s := by
  simp only [List.forall_mem_cons]
  exact ⟨⟨_, exec_sadd f s⟩, ⟨_, exec_ssub f s⟩, ⟨_, exec_smul f s⟩, ⟨_, exec_smulhs f s⟩, ⟨_, exec_smulhu f s⟩, ⟨_, exec_sdivs f s⟩,
    ⟨_, exec_sdivu f s⟩, ⟨_, exec_srems f s⟩, ⟨_, exec_sremu f s⟩, ⟨_, exec_sand f s⟩, ⟨_, exec_sor f s⟩, ⟨_, exec_sxor f s⟩,
    ⟨_, exec_sandn f s⟩, ⟨_, exec_sshl f s⟩, ⟨_, exec_sshr f s⟩, ⟨_, exec_ssra f s⟩, ⟨_, exec_smins f s⟩, ⟨_, exec_smaxs f s⟩,
    ⟨_, exec_sminu f s⟩, ⟨_, exec_smaxu f s⟩, ⟨_, exec_sslts f s⟩, ⟨_, exec_ssltu f s⟩, ⟨_, exec_sseq f s⟩, by simp⟩

/-- The immediate and extension instructions all have the shape `aluI`. -/
theorem exec_eq_aluI (g : CI) (s : State) :
    ∀ i ∈ [Instr.sext g, .zext g, .saddi g, .sandi g, .sori g, .sxori g, .sshli g, .sshri g, .ssrai g, .sslti g],
      ∃ op, exec i s = aluI i g op s := by
  simp only [List.forall_mem_cons]
  exact ⟨⟨_, exec_sext g s⟩, ⟨_, exec_zext g s⟩, ⟨_, exec_saddi g s⟩, ⟨_, exec_sandi g s⟩, ⟨_, exec_sori g s⟩, ⟨_, exec_sxori g s⟩,
    ⟨_, exec_sshli g s⟩, ⟨_, exec_sshri g s⟩, ⟨_, exec_ssrai g s⟩, ⟨_, exec_sslti g s⟩, by simp⟩

/-! ## Literals -/

section
variable {s : State} {wid : Nat} {w : Wave} {k : CL} (h : AtControl s wid w) (hd : sFull w k.d.toNat = true)
include h hd

theorem exec_sli_ready : exec (.sli k) s = .next (setWave s wid (finishControl (.sli k) (writeS k.d.toNat (k.lit.signExtend 64) w))) := by
  rw [exec_sli]
  apply runControl_next h
  rw [readyS_full (by simp) (by simp [hd])]; rfl

theorem exec_slih_ready (ha : sFull w k.a.toNat = true) : exec (.slih k) s = .next (setWave s wid (finishControl (.slih k)
    (writeS k.d.toNat ((k.lit.zeroExtend 64 <<< 32) ||| ((sVal w k.a.toNat).truncate 32).zeroExtend 64) w))) := by
  rw [exec_slih]
  apply runControl_next h
  rw [readyS_full (by simp [ha]) (by simp [hd]), srcS_full ha]; rfl

theorem exec_saddl_ready (ha : sFull w k.a.toNat = true) : exec (.saddl k) s = .next (setWave s wid (finishControl (.saddl k)
    (writeS k.d.toNat (sVal w k.a.toNat + k.lit.signExtend 64) w))) := by
  rw [exec_saddl]
  apply runControl_next h
  rw [readyS_full (by simp [ha]) (by simp [hd]), srcS_full ha]; rfl

theorem exec_slea_ready (ha : sFull w k.a.toNat = true) (hb : sFull w k.b.toNat = true) :
    exec (.slea k) s = .next (setWave s wid (finishControl (.slea k) (writeS k.d.toNat
      (sVal w k.a.toNat + (sVal w k.b.toNat <<< (k.lit.toNat / 2 ^ 29)) + BitVec.ofInt 64 (sextNat k.lit.toNat 29)) w))) := by
  rw [exec_slea]
  apply runControl_next h
  rw [readyS_full (by simp [ha, hb]) (by simp [hd]), srcS_full ha, srcS_full hb]; rfl

end

/-- Settles O3: the literals write their values, `writeS` acts on one s register and the q registers that wait for it, and an empty operand of
a two-source instruction is met by the gates of `alu3`. -/
theorem scalarLiteralsWritesAndEmptyOperands : Obligations.ScalarLiteralsWritesAndEmptyOperands := by
  refine ⟨fun s wid w k h hd => ?literals, fun w n m v => ?writes, fun s wid w f h i hi => ?empty⟩
  case literals =>
    exact ⟨exec_sli_ready h hd, fun ha => ⟨exec_slih_ready h hd ha, exec_saddl_ready h hd ha, fun hb => exec_slea_ready h hd ha hb⟩⟩
  case writes =>
    exact ⟨sVal_writeS n m v w, sFull_writeS n m v w, writeS_63 v w, fun hn q hq => writeS_q_awaiting v hn hq, sameUniform_writeS w n v⟩
  case empty =>
    obtain ⟨g, hg⟩ := exec_eq_alu3 f s i hi
    rw [hg]
    exact ⟨alu3_waits i g h, alu3_empty i g h⟩

/-! ## The frame of a write-back -/

theorem sameOutside_setWave (s : State) (wid : Nat) (w : Wave) : SameOutside s (setWave s wid w) wid :=
  ⟨fun _ => rfl, rfl, rfl, fun _ hk => getWave_setWave_ne s w hk, rfl, rfl, rfl, rfl, rfl, rfl, rfl, rfl, rfl, rfl⟩

/-- What an instruction that writes one s register and moves on leaves unchanged. -/
theorem writeBack_frame (s : State) (wid : Nat) (w : Wave) (i : Instr) (d : Nat) (v : Dword) :
    let t := setWave s wid (finishControl i (writeS d v w))
    SameOutside s t wid ∧ ∃ u, getWave t wid = some u ∧ SameControl w u ∧ SameLanes w u ∧ SamePaths w u ∧ SameScalars w u d
      ∧ SameUniform w u d :=
  ⟨sameOutside_setWave s wid _, _, getWave_setWave_same s wid _, sameControl_writeS w d v, sameLanes_writeS w d v, samePaths_writeS w d v,
    sameScalars_writeS w d v, sameUniform_writeS w d v⟩

/-- Settles O4: each instruction is a write-back. -/
theorem scalarIntegerFrame : Obligations.ScalarIntegerFrame := by
  intro s t wid w f g h after
  refine ⟨fun i hi ha hb hd ht => ?_, fun i hi ha hd ht => ?_⟩
  · obtain ⟨op, hop⟩ := exec_eq_alu3 f s i hi
    rw [hop, alu3_ready i op h ha hb hd] at ht
    cases ht
    exact writeBack_frame s wid w i f.d.toNat _
  · obtain ⟨op, hop⟩ := exec_eq_aluI g s i hi
    rw [hop, aluI_ready i op h ha hd] at ht
    cases ht
    exact writeBack_frame s wid w i g.d.toNat _

/-! ## Branches, calls and loops (R109 to R112) -/

theorem jumpTo_ready {s : State} {wid : Nat} {w : Wave} {f : C3} (h : AtControl s wid w) (ha : sFull w f.a.toNat = true) :
    jumpTo f s = (if (sVal w f.a.toNat).toNat % 4 = 0 then .next (setWave s wid (jumpControl (sVal w f.a.toNat) w))
      else .next (raiseFault s (.control wid) 0x08 (sVal w f.a.toNat).toNat none none)) := by
  have hready : readyS w [(f.a.toNat, f.ea)] [] = .ok () := readyS_full (by simp [ha]) (by simp)
  have hdetail : addrDetail (sVal w f.a.toNat).toNat false false = (sVal w f.a.toNat).toNat := by
    simp [addrDetail, b2n, Nat.mod_eq_of_lt (sVal w f.a.toNat).isLt]
  split_ifs with hm
  · apply runControl_next h
    simp only [hready, srcS_full ha, res_ok_bind, hm, decide_true, ensure_true]
  · apply runControl_fault h
    simp only [hready, srcS_full ha, res_ok_bind, hm, decide_false, ensure_false, res_error_bind, hdetail]

theorem branch_ready {s : State} {wid : Nat} {w : Wave} (i : Instr) {f : CB} (c : Dword → Dword → Bool) (h : AtControl s wid w)
    (ha : sFull w f.a.toNat = true) (hb : sFull w f.b.toNat = true) :
    branch i f c s = .next (setWave s wid (if c (sVal w f.a.toNat) (sVal w f.b.toNat) then jumpControl (w.pc + f.off.signExtend 64) w
      else finishControl i w)) := by
  apply runControl_next h
  rw [readyS_full (by simp [ha, hb]) (by simp), srcS_full ha, srcS_full hb]; rfl

/-- A branch by its condition, taken and not taken. -/
theorem branch_goes {s : State} {wid : Nat} {w : Wave} {i : Instr} {f : CB} {c : Dword → Dword → Bool} {p : Prop} (h : AtControl s wid w)
    (ha : sFull w f.a.toNat = true) (hb : sFull w f.b.toNat = true) (hi : exec i s = branch i f c s)
    (hp : c (sVal w f.a.toNat) (sVal w f.b.toNat) = true ↔ p) :
    (p → exec i s = .next (setWave s wid { w with pc := w.pc + f.off.signExtend 64, sigc := 0xFFFFFFFF#32 }))
      ∧ (¬p → exec i s = .next (setWave s wid (finishControl i w))) := by
  rw [hi, branch_ready i c h ha hb]
  refine ⟨fun hc => ?_, fun hc => ?_⟩
  · rw [if_pos (hp.mpr hc)]; rfl
  · rw [if_neg (fun ht => hc (hp.mp ht))]

theorem exec_loop_ready {s : State} {wid : Nat} {w : Wave} {f : CB} (h : AtControl s wid w) (ha : sFull w f.a.toNat = true) :
    exec (.loop f) s = .next (setWave s wid (if sVal w f.a.toNat - 1 ≠ 0 then
      jumpControl (w.pc + f.off.signExtend 64) (writeS f.a.toNat (sVal w f.a.toNat - 1) w)
      else finishControl (.loop f) (writeS f.a.toNat (sVal w f.a.toNat - 1) w))) := by
  rw [exec_loop]
  apply runControl_next h
  rw [readyS_full (by simp [ha]) (by simp [ha]), srcS_full ha]; rfl

/-- Settles O5: a transfer that is taken is `jumpControl`, one that is not is `finishControl`. -/
theorem branchResults : Obligations.BranchResults := by
  intro s wid w j r f h off target
  refine ⟨?b, fun h62 => ?call, fun ha => ?jump, fun ha hb => ?branch, fun ha => ?loop⟩
  case b =>
    rw [exec_b]
    exact runControl_next h rfl
  case call =>
    rw [exec_call]
    apply runControl_next h
    rw [dstS_full h62]; rfl
  case jump => exact ⟨(exec_jr r s).trans (jumpTo_ready h ha), (exec_ret r s).trans (jumpTo_ready h ha)⟩
  case branch =>
    exact ⟨branch_goes h ha hb (exec_beq f s) decide_eq_true_iff, branch_goes h ha hb (exec_bne f s) decide_eq_true_iff,
      branch_goes h ha hb (exec_blts f s) decide_eq_true_iff, branch_goes h ha hb (exec_bges f s) decide_eq_true_iff,
      branch_goes h ha hb (exec_bltu f s) decide_eq_true_iff, branch_goes h ha hb (exec_bgeu f s) decide_eq_true_iff⟩
  case loop =>
    have hone : sVal w f.a.toNat - 1 ≠ 0 ↔ sVal w f.a.toNat ≠ 1 := by rw [ne_eq, ne_eq, sub_eq_zero]
    rw [exec_loop_ready h ha]
    refine ⟨fun hne => ?_, fun heq => ?_⟩
    · rw [if_pos (hone.mpr hne)]; rfl
    · rw [if_neg (fun hc => hone.mp hc heq)]

end Sys2Proof.Machine
end

/-! # Scalar memory, the lane interface and the special registers (R104 to R107, R113 to R118) -/

section
namespace Sys2Proof.Machine

open Sys2Proof.Laws

/-! ## Where a scalar address leads (R105) -/

theorem reachControl_scratchpad {s : State} {w : Wave} (want : Want) {addr n off : Nat} (ha : addr % n = 0) (he : addr = 2 ^ 56 + off)
    (hoff : off < 2 ^ 56) (hsize : off < spadSizeOf s w) : reachControl s w want addr n = .ok (.at (.spad w.team off)) := by
  have hap : addr / 2 ^ 56 % 256 = 1 := by omega
  have hlow : addr % 2 ^ 56 = off := by omega
  simp only [reachControl, hap, hlow, hsize, ha, decide_true, Bool.and_true, beq_self_eq_true, Bool.or_true, ensure_true, res_ok_bind, if_true]

theorem reachControl_global {s : State} {w : Wave} {want : Want} {addr n c : Nat} {x : Context} {p : Place} (ha : addr % n = 0)
    (hlt : addr < 2 ^ 56) (hx : InContext s w c x) (ht : translate s x want addr = .to p) :
    reachControl s w want addr n = .ok (.at p) := by
  have hap : addr / 2 ^ 56 % 256 = 0 := by omega
  have hctx : ctxRes s w = .ok (c, x) := by rw [ctxRes, show ctxRec s w = some (c, x) from hx]; rfl
  simp only [reachControl, hap, ha, reachGlobal, hctx, Nat.mod_eq_of_lt hlt, ht, decide_true, beq_self_eq_true, Bool.true_or, ensure_true,
    res_ok_bind, Nat.zero_ne_one, if_false]

/-! ## Scalar accesses that are issued (R106, R107) -/

theorem issueScalar_at {s : State} {wid : Nat} {w : Wave} (i : Instr) {a : Access} {addr : Nat} (write : Bool) {p : Place}
    (hlog : logBlocks s w addr a.width = false) :
    issueScalar i s wid w a addr write (.at p) = .ok (setWave s wid (finishControl i
      (emptyDest { a with lanes := a.lanes.map (fun l => { l with place := p }) }
        (nextSeq (issueAccess { a with lanes := a.lanes.map (fun l => { l with place := p }) } w))))) := by
  simp [issueScalar, hlog]

/-- The access of a CM instruction, at the place its address leads to. -/
def scalarAccessAt (f : CM) (wid : Nat) (w : Wave) (kind : AccessKind) (dest : Dest) (addr data cmp : Nat) (p : Place) : Access :=
  { kind := kind, actor := .control wid, pc := w.pc.toNat, block := 0, seq := w.seq, width := 2 ^ f.width.toNat,
    dest := dest, scope := f.scope.toNat, order := f.order.toNat, hint := f.hint.toNat, after := syncsBefore w (.control wid),
    lanes := [{ lane := 0, addr := addr, place := p, reg := 0, data := data, cmp := cmp }] }

theorem cm_width_ne_16 (f : CM) : (2 : Nat) ^ f.width.toNat ≠ 16 := by
  have hlt := f.width.isLt
  have : f.width.toNat = 0 ∨ f.width.toNat = 1 ∨ f.width.toNat = 2 ∨ f.width.toNat = 3 := by omega
  obtain h | h | h | h := this <;> rw [h] <;> decide

/-- A scalar load is in flight at its effective scope (R105, R106). -/
theorem issueAccess_scalarLoad (f : CM) (wid : Nat) (w : Wave) (sx : Bool) (dest : Dest) (addr data cmp : Nat) (p : Place) :
    issueAccess (scalarAccessAt f wid w (.load sx) dest addr data cmp p) w =
      noteSync (.control wid) f.order.toNat w.seq { w with loads := w.loads ++
        [{ scalarAccessAt f wid w (.load sx) dest addr data cmp p with scope := placeScope p f.scope.toNat }] } := by
  simp [issueAccess, enterAccess, loadPieces, accessScope, scalarAccessAt, cm_width_ne_16]

section
variable {s : State} {wid : Nat} {w : Wave} {f : CM} {p : Place} (h : AtControl s wid w) (ha : sFull w f.a.toNat = true)
  (hopen : MemoryOpen w) (hlog : logBlocks s w (cmAddr (sVal w f.a.toNat) f) (2 ^ f.width.toNat) = false)
include h ha hopen hlog

theorem exec_sld_at (hd : sFull w f.d.toNat = true)
    (hp : reachControl s w .read (cmAddr (sVal w f.a.toNat) f) (2 ^ f.width.toNat) = .ok (.at p)) :
    exec (.sld f) s = .next (setWave s wid (finishControl (.sld f) (emptyS f.d.toNat (nextSeq
      (issueAccess (scalarAccessAt f wid w (.load f.sx) (.sreg f.d.toNat) (cmAddr (sVal w f.a.toNat) f) 0 0 p) w))))) := by
  rw [exec_sld]
  apply runControl_next h
  rw [readyS_full (by simp [ha]) (by simp [hd]), memReady_open hopen, srcS_full ha]
  simp only [res_ok_bind, widthBytes, hp]
  exact issueScalar_at _ _ hlog

theorem exec_sst_at (hb : sFull w f.b.toNat = true)
    (hp : reachControl s w .write (cmAddr (sVal w f.a.toNat) f) (2 ^ f.width.toNat) = .ok (.at p)) :
    exec (.sst f) s = .next (setWave s wid (finishControl (.sst f) (nextSeq (issueAccess
      (scalarAccessAt f wid w .store .none (cmAddr (sVal w f.a.toNat) f) (sVal w f.b.toNat).toNat 0 p) w)))) := by
  rw [exec_sst]
  apply runControl_next h
  rw [readyS_full (by simp [ha, hb]) (by simp), memReady_open hopen, srcS_full ha, srcS_full hb]
  simp only [res_ok_bind, widthBytes, hp]
  exact issueScalar_at _ _ hlog

theorem exec_satom_at (hb : sFull w f.b.toNat = true) (hd : sFull w f.d.toNat = true)
    (hp : reachControl s w .atomic (cmAddr (sVal w f.a.toNat) f) (2 ^ f.width.toNat) = .ok (.at p)) :
    let a := scalarAccessAt f wid w (.atomic (atomicOf f.aop.toNat)) (sDest f.d) (cmAddr (sVal w f.a.toNat) f) (sVal w f.b.toNat).toNat 0 p
    exec (.satom f) s = .next (setWave s wid (finishControl (.satom f) (emptyDest a (nextSeq (issueAccess a w))))) := by
  intro a
  rw [exec_satom]
  apply runControl_next h
  rw [readyS_full (by simp [ha, hb]) (by simp [hd]), memReady_open hopen, srcS_full ha, srcS_full hb]
  simp only [res_ok_bind, widthBytes, hp]
  exact issueScalar_at _ _ hlog

theorem exec_scas_at (hb : sFull w f.b.toNat = true) (hd : sFull w f.d.toNat = true)
    (hp : reachControl s w .atomic (cmAddr (sVal w f.a.toNat) f) (2 ^ f.width.toNat) = .ok (.at p)) :
    let a := scalarAccessAt f wid w (.atomic .cas) (sDest f.d) (cmAddr (sVal w f.a.toNat) f) (sVal w f.d.toNat).toNat (sVal w f.b.toNat).toNat p
    exec (.scas f) s = .next (setWave s wid (finishControl (.scas f) (emptyDest a (nextSeq (issueAccess a w))))) := by
  intro a
  rw [exec_scas]
  apply runControl_next h
  rw [readyS_full (by simp [ha, hb, hd]) (by simp [hd]), memReady_open hopen, srcS_full ha, srcS_full hb]
  simp only [res_ok_bind, widthBytes, hp]
  exact issueScalar_at _ _ hlog

end

/-- The destination of a scalar atomic is left empty, but s63 (R42, R106). -/
theorem emptyDest_sDest (a : Access) (d : BitVec 6) (h : a.dest = sDest d) (u : Wave) :
    emptyDest a u = if d = 63 then u else emptyS d.toNat u := by
  simp only [emptyDest, h, sDest]
  split_ifs <;> rfl

theorem exec_sprf_ready {s : State} {wid : Nat} {w : Wave} {f : CM} (h : AtControl s wid w) (ha : sFull w f.a.toNat = true) :
    exec (.sprf f) s = .next (modWave (prefetchAt s wid w f.hint.toNat (cmAddr (sVal w f.a.toNat) f)) wid (finishControl (.sprf f))) := by
  rw [exec_sprf]
  apply runControl_next h
  rw [readyS_full (by simp [ha]) (by simp), srcS_full ha]; rfl

/-- Settles O6: each access goes through `issueScalar`, at the place to which `reachControl` leads. -/
theorem scalarMemoryIssues : Obligations.ScalarMemoryIssues := by
  intro s wid w f p h ha addr n b leads acc flying dest back next
  refine ⟨fun hopen hlog => ⟨fun hd hp => ?_, fun hb hp => exec_sst_at h ha hopen hlog hb hp, fun hb hd hp => ⟨?_, ?_⟩⟩,
    fun want haln => ⟨fun off he hoff hsize => reachControl_scratchpad want haln he hoff hsize,
      fun c x hlt hx ht => reachControl_global haln hlt hx ht⟩,
    _, prefetchAt_rest s wid w _ _, exec_sprf_ready h ha⟩
  · rw [exec_sld_at h ha hopen hlog hd hp, issueAccess_scalarLoad]; rfl
  · rw [exec_satom_at h ha hopen hlog hb hd hp, emptyDest_sDest _ f.d rfl]; rfl
  · rw [exec_scas_at h ha hopen hlog hb hd hp, emptyDest_sDest _ f.d rfl]; rfl

/-! ## The lane interface (R113 to R116) -/

/-- A source of LANE that is full is captured as its value, with e = 1 as with e = 0 (R51, R53). -/
theorem srcS_captured {w : Wave} {n : Nat} (h : sFull w n = true) : (srcS w n true).map Capture.val = .ok (captureS w n) := by
  simp only [srcS_full h, captureS, h, if_true]
  rfl

theorem exec_lane_ready {s : State} {wid : Nat} {w : Wave} {q : CQ} (h : AtControl s wid w)
    (he : q.e = true → sFull w q.a.toNat = true ∧ sFull w q.b.toNat = true ∧ sFull w q.c.toNat = true) (hroom : w.laneQueue.length < 8) :
    exec (.lane q) s = .next (setWave s wid (finishControl (.lane q) { w with laneQueue := w.laneQueue ++
      [{ off := q.off.toNat, srcs := [captureS w q.a.toNat, captureS w q.b.toNat, captureS w q.c.toNat],
         syncs := syncsBefore w (.control wid), seq := w.seq }] })) := by
  rw [exec_lane]
  apply runControl_next h
  cases hq : q.e with
  | false => simp [hroom]
  | true =>
    obtain ⟨ha, hb, hc⟩ := he hq
    simp [hroom, srcS_captured ha, srcS_captured hb, srcS_captured hc]

theorem exec_lane_full {s : State} {wid : Nat} {w : Wave} (q : CQ) (h : AtControl s wid w) (hfull : 8 ≤ w.laneQueue.length) :
    exec (.lane q) s = stall s := by
  rw [exec_lane]
  apply runControl_wait h
  simp only [show ¬ w.laneQueue.length < 8 by omega, decide_false, waitUnless_false, res_error_bind]

/-- LWAIT's condition: the lane queue is empty and no lane instruction is logged (R115). -/
theorem lwaitDone_iff {w : Wave} : lwaitDone w = true ↔ w.laneQueue = [] ∧ ∀ e ∈ w.log, isLaneActor e.actor = false := by
  simp [lwaitDone, List.isEmpty_iff]

theorem exec_lwait_at {s : State} {wid : Nat} {w : Wave} (f : C3) (h : AtControl s wid w) :
    exec (.lwait f) s = .next (setWave s wid (if lwaitDone w then finishControl (.lwait f) (joinBlocks w) else { w with ctl := .lwait })) := by
  rw [exec_lwait]
  exact runControl_next h rfl

theorem exec_recv_ready {s : State} {wid : Nat} {w : Wave} {f : C3} (h : AtControl s wid w) (hd : sFull w f.d.toNat = true)
    (hroom : w.recvs.length < 8) : exec (.recv f) s = .next (setWave s wid (finishControl (.recv f)
      (emptyS f.d.toNat { w with recvs := w.recvs ++ [f.d.toNat] }))) := by
  rw [exec_recv]
  apply runControl_next h
  simp only [hroom, decide_true, waitUnless_true, res_ok_bind, dstS_full hd]

theorem exec_recv_full {s : State} {wid : Nat} {w : Wave} (f : C3) (h : AtControl s wid w) (hfull : 8 ≤ w.recvs.length) :
    exec (.recv f) s = stall s := by
  rw [exec_recv]
  apply runControl_wait h
  simp only [show ¬ w.recvs.length < 8 by omega, decide_false, waitUnless_false, res_error_bind]

/-- Settles O7. -/
theorem laneInterface : Obligations.LaneInterface := by
  intro s wid w q f h cap
  refine ⟨fun he => ⟨exec_lane_ready h he, exec_lane_full q h⟩, fun hq hl => ?done, fun hwait => ?waits,
    fun hd => ⟨exec_recv_ready h hd, exec_recv_full f h⟩⟩
  case done => rw [exec_lwait_at f h, if_pos (lwaitDone_iff.mpr ⟨hq, hl⟩)]
  case waits =>
    have hnot : ¬ lwaitDone w = true := by
      intro hdone
      obtain ⟨hq, hl⟩ := lwaitDone_iff.mp hdone
      obtain hne | ⟨e, he, hlane⟩ := hwait
      · exact hne hq
      · simp [hl e he] at hlane
    rw [exec_lwait_at f h, if_neg hnot]

/-! ## Special registers (R64, R65, R117, R118) -/

/-- The numbers that R64 lists. -/
def specialNumbers : List Nat :=
  [0x000, 0x001, 0x002, 0x003, 0x004, 0x005, 0x006, 0x007, 0x008, 0x009, 0x00A, 0x00B, 0x00C, 0x00D, 0x010, 0x011, 0x012, 0x013, 0x020,
    0x030, 0x031, 0x032, 0x042, 0x051, 0x040, 0x041, 0x050]

section
variable {s : State} {wid : Nat} {w : Wave} {f : CS} {lid : Nat} {l : Launch} {t : Team} (hl : launchOf s w = some (lid, l))
  (ht : getTeam s w.team = some t)
include hl ht

theorem special_listed : ∀ n ∈ specialNumbers, ∃ x, special s wid w n = some x := by
  simp only [specialNumbers, List.forall_mem_cons, special, hl, ht, Option.some.injEq, exists_eq']
  simp

theorem special_unlisted {n : Nat} (hn : n ∉ specialNumbers) : special s wid w n = none := by
  simp only [special, hl, ht]
  split <;> simp [specialNumbers] at hn ⊢

end

section
variable {s : State} {wid : Nat} {w : Wave} {f : CS} (h : AtControl s wid w)
include h

theorem exec_srs_value {x : Nat} (hx : special s wid w f.num.toNat = some x) (hr : sFull w f.r.toNat = true) :
    exec (.srs f) s = .next (setWave s wid (finishControl (.srs f) (writeS f.r.toNat (BitVec.ofNat 64 x) w))) := by
  rw [exec_srs]
  apply runControl_next h
  rw [hx, dstS_full hr]; rfl

theorem exec_srs_unlisted (hx : special s wid w f.num.toNat = none) :
    exec (.srs f) s = .next (raiseFault s (.control wid) 0x04 (detail04 w (.srs f) 18 false f.num.toNat) none none) := by
  rw [exec_srs]
  apply runControl_fault h
  rw [hx]; rfl

theorem exec_sws_unlisted (hx : special s wid w f.num.toNat = none) :
    exec (.sws f) s = .next (raiseFault s (.control wid) 0x04 (detail04 w (.sws f) 18 false f.num.toNat) none none) := by
  rw [exec_sws]
  apply runControl_fault h
  rw [hx]; rfl

theorem exec_sws_unwritable {x : Nat} (hx : special s wid w f.num.toNat = some x) (hw : specialWritable f.num.toNat = false) :
    exec (.sws f) s = .next (raiseFault s (.control wid) 0x0B f.num.toNat none none) := by
  rw [exec_sws]
  apply runControl_fault h
  simp only [hx, Option.isSome_some, ensure_true, res_ok_bind, hw, ensure_false, res_error_bind]

theorem exec_sws_waits {x : Nat} (hx : special s wid w f.num.toNat = some x) (hw : specialWritable f.num.toNat = true)
    (hnum : f.num.toNat ≠ 0x042) (hwait : lwaitDone w = false) : exec (.sws f) s = stall s := by
  rw [exec_sws]
  apply runControl_wait h
  simp [hx, hw, beq_eq_false_iff_ne.mpr hnum, hwait]

theorem exec_sws_reserved {x : Nat} (hx : special s wid w f.num.toNat = some x) (hnum : f.num.toNat = 0x013) (hdone : lwaitDone w = true)
    (hr : sFull w f.r.toNat = true) (hv : 5 ≤ (sVal w f.r.toNat).toNat) :
    exec (.sws f) s = .next (raiseFault s (.control wid) 0x04 (detail04 w (.sws f) 12 true (sVal w f.r.toNat).toNat) none none) := by
  rw [exec_sws]
  apply runControl_fault h
  have hready : readyS w [(f.r.toNat, f.ea)] [] = .ok () := readyS_full (by simp [hr]) (by simp)
  simp only [hx, Option.isSome_some, ensure_true, res_ok_bind, show specialWritable f.num.toNat = true by rw [hnum]; rfl, hdone,
    Bool.or_true, waitUnless_true, hready, srcS_full hr,
    show (f.num.toNat != 0x013 || decide ((sVal w f.r.toNat).toNat < 5)) = false by simp [hnum, hv], ensure_false, res_error_bind]

theorem exec_sws_writes {x : Nat} (hx : special s wid w f.num.toNat = some x) (hw : specialWritable f.num.toNat = true)
    (hdone : f.num.toNat = 0x042 ∨ lwaitDone w = true) (hr : sFull w f.r.toNat = true)
    (hv : f.num.toNat ≠ 0x013 ∨ (sVal w f.r.toNat).toNat < 5) :
    exec (.sws f) s = .next (setWave s wid (finishControl (.sws f) (writeSpecial f.num.toNat (sVal w f.r.toNat) w))) := by
  rw [exec_sws]
  apply runControl_next h
  have hready : readyS w [(f.r.toNat, f.ea)] [] = .ok () := readyS_full (by simp [hr]) (by simp)
  have hgo : (f.num.toNat == 0x042 || lwaitDone w) = true := by simpa using hdone
  have hval : (f.num.toNat != 0x013 || decide ((sVal w f.r.toNat).toNat < 5)) = true := by simpa using hv
  simp only [hx, Option.isSome_some, ensure_true, res_ok_bind, hw, hgo, waitUnless_true, hready, srcS_full hr, hval]

end

/-- Settles O8: `special_listed` and `special_unlisted` say which numbers read a value, and SWS is one lemma per outcome. -/
theorem specialRegisters : Obligations.SpecialRegisters := by
  intro s wid w f lid l t h hl ht num v plain listed raises next quiet
  have hsome (hnum : listed) : ∃ x, special s wid w num = some x := special_listed hl ht num hnum
  have hnone (hnum : ¬ listed) : special s wid w num = none := special_unlisted hl ht hnum
  have hlisted {n : Nat} (hn : num = n) (hmem : n ∈ specialNumbers) : ∃ x, special s wid w num = some x := hn ▸ special_listed hl ht n hmem
  refine ⟨?plain, fun hnum hr => ?srs, fun hnum => ⟨exec_srs_unlisted h (hnone hnum), exec_sws_unlisted h (hnone hnum)⟩,
    fun hnum hro => ?readOnly, fun hnum hbusy => ?busy, fun hr => ⟨fun hnum => ?asyncerr, fun hq => ⟨fun hnum => ?satf, fun hnum => ?satarm,
      fun hnum => ⟨fun hv => ?rmode, fun hv => ?reserved⟩⟩⟩⟩
  case plain =>
    simp only [plain, List.forall_mem_cons, special, hl, ht, coreOf]
    simp
  case srs =>
    obtain ⟨x, hx⟩ := hsome hnum
    exact ⟨x, hx, exec_srs_value h hx hr⟩
  case readOnly =>
    obtain ⟨x, hx⟩ := hsome hnum
    exact exec_sws_unwritable h hx (by simpa [specialWritable, and_assoc] using hro)
  case busy =>
    have hwait : lwaitDone w = false := by simpa using fun hdone => hbusy (lwaitDone_iff.mp hdone)
    obtain hn | hn | hn : num = 0x010 ∨ num = 0x011 ∨ num = 0x013 := by simpa using hnum
    all_goals
      obtain ⟨x, hx⟩ := hlisted hn (by decide)
      exact exec_sws_waits h hx (show specialWritable num = true by rw [hn]; rfl) (show num ≠ 0x042 by rw [hn]; decide) hwait
  case asyncerr =>
    obtain ⟨x, hx⟩ := hlisted hnum (by decide)
    have hlow : v.truncate 8 = (0 : BitVec 8) ↔ v.toNat % 256 = 0 := by
      rw [← BitVec.toNat_inj]; simp
    rw [exec_sws_writes h hx (show specialWritable num = true by rw [hnum]; rfl) (.inl hnum) hr (.inl (show num ≠ 0x013 by rw [hnum]; decide)),
      show f.num.toNat = 0x042 from hnum]
    simp only [next, writeSpecial]
    congr 5
    exact propext hlow
  case satf =>
    obtain ⟨x, hx⟩ := hlisted hnum (by decide)
    rw [exec_sws_writes h hx (show specialWritable num = true by rw [hnum]; rfl) (.inr (lwaitDone_iff.mpr hq)) hr
      (.inl (show num ≠ 0x013 by rw [hnum]; decide)), show f.num.toNat = 0x010 from hnum]
    rfl
  case satarm =>
    obtain ⟨x, hx⟩ := hlisted hnum (by decide)
    rw [exec_sws_writes h hx (show specialWritable num = true by rw [hnum]; rfl) (.inr (lwaitDone_iff.mpr hq)) hr
      (.inl (show num ≠ 0x013 by rw [hnum]; decide)), show f.num.toNat = 0x011 from hnum]
    rfl
  case rmode =>
    obtain ⟨x, hx⟩ := hlisted hnum (by decide)
    rw [exec_sws_writes h hx (show specialWritable num = true by rw [hnum]; rfl) (.inr (lwaitDone_iff.mpr hq)) hr (.inr hv),
      show f.num.toNat = 0x013 from hnum]
    rfl
  case reserved =>
    obtain ⟨x, hx⟩ := hlisted hnum (by decide)
    exact exec_sws_reserved h hx hnum (lwaitDone_iff.mpr hq) hr hv

end Sys2Proof.Machine
end

/-! # Lane arithmetic: integer, floating-point, moves and reductions (R119 to R131, R139, R142 to R151) -/

section
namespace Sys2Proof.Machine

open Sys2Proof.Laws

/-! ## Sources of a lane instruction that are ready -/

/-- Field `B` is the one source, of type `u`. -/
theorem v3Srcs_b_ready {L : LaneCtx} {f : V3} {u : Nat} (hb : OperandReady L L.lanes f.b) :
    ∀ x ∈ v3Srcs { b := some u } f, OperandReady L L.lanes x.o := by
  intro x hx
  obtain rfl : x = ⟨f.b, f.eb, u⟩ := by simpa [v3Srcs, optSrc] using hx
  exact hb

/-- All three fields are sources. -/
theorem v3Srcs_abc_ready {L : LaneCtx} {f : V3} {t u v : Nat} (ha : OperandReady L L.lanes f.a) (hb : OperandReady L L.lanes f.b)
    (hc : OperandReady L L.lanes f.c) : ∀ x ∈ v3Srcs { a := some t, b := some u, c := some v } f, OperandReady L L.lanes x.o := by
  intro x hx
  obtain rfl | rfl | rfl : x = ⟨f.a, f.ea, t⟩ ∨ x = ⟨f.b, f.eb, u⟩ ∨ x = ⟨f.c, f.ec, v⟩ := by simpa [v3Srcs, optSrc] using hx
  · exact ha
  · exact hb
  · exact hc

/-- An instruction of the shape `laneMap` writes what its computation gives in each lane. -/
theorem laneMap_gives {s : State} {L : LaneCtx} {i : Instr} {f : V3} {r : Reads} {g : LaneCtx → LaneIn → LaneOut} {v : Nat → LaneOut}
    (h : AtLane s L) (hd : OperandReady L L.lanes f.d) (hs : ∀ x ∈ v3Srcs r f, OperandReady L L.lanes x.o)
    (hi : exec i s = laneMap i f r g s) (hv : ∀ l, g L (laneIn s L r f l) = v l) :
    exec i s = .next (setWave s L.wid (finishLane i L.actor (putLanes f.d v L.w L.all L.w))) := by
  rw [hi, laneMap_ready i g h hd hs, writesLanes, funext hv]

section
variable {s : State} {L : LaneCtx} {i : Instr} {f : V3} (h : AtLane s L) (hd : OperandReady L L.lanes f.d) (ha : OperandReady L L.lanes f.a)
include h hd ha

/-- What an instruction of elements of `A` writes. -/
theorem elemMap1_gives {e : Nat → LaneIn → Nat → Nat × BitVec 4} {v : Nat → LaneOut} (hi : exec i s = elemMap1 i f e s)
    (hv : ∀ l, packed f.t.toNat (e f.t.toNat (laneIn s L { a := some f.t.toNat } f l)) = v l) :
    exec i s = .next (setWave s L.wid (finishLane i L.actor (putLanes f.d v L.w L.all L.w))) :=
  laneMap_gives (g := fun _ x => packed f.t.toNat (e f.t.toNat x)) h hd (v3Srcs_a_ready ha) hi hv

variable (hb : OperandReady L L.lanes f.b)
include hb

/-- What an instruction of elements of `A` and `B` writes. -/
theorem elemMap2_gives {e : Nat → LaneIn → Nat → Nat × BitVec 4} {v : Nat → LaneOut} (hi : exec i s = elemMap2 i f e s)
    (hv : ∀ l, packed f.t.toNat (e f.t.toNat (laneIn s L { a := some f.t.toNat, b := some f.t.toNat } f l)) = v l) :
    exec i s = .next (setWave s L.wid (finishLane i L.actor (putLanes f.d v L.w L.all L.w))) :=
  laneMap_gives (g := fun _ x => packed f.t.toNat (e f.t.toNat x)) h hd (v3Srcs_ab_ready ha hb) hi hv

variable (hc : OperandReady L L.lanes f.c)
include hc

/-- What an instruction of elements of `A`, `B` and `C` writes. -/
theorem elemMap3_gives {e : Nat → LaneIn → Nat → Nat × BitVec 4} {v : Nat → LaneOut} (hi : exec i s = elemMap3 i f e s)
    (hv : ∀ l, packed f.t.toNat (e f.t.toNat
      (laneIn s L { a := some f.t.toNat, b := some f.t.toNat, c := some f.t.toNat } f l)) = v l) :
    exec i s = .next (setWave s L.wid (finishLane i L.actor (putLanes f.d v L.w L.all L.w))) :=
  laneMap_gives (g := fun _ x => packed f.t.toNat (e f.t.toNat x)) h hd (v3Srcs_abc_ready ha hb hc) hi hv

end

/-- What a rounded operation of the elements writes. -/
theorem fpMap_gives {s : State} {L : LaneCtx} {i : Instr} {f : V3} {useC : Bool} {op : Nat → Fp → Fp → Fp → Fp} {v : Nat → LaneOut}
    (h : AtLane s L) (hd : OperandReady L L.lanes f.d)
    (hs : ∀ x ∈ v3Srcs { a := some f.t.toNat, b := some f.t.toNat, c := if useC then some f.t.toNat else none } f, OperandReady L L.lanes x.o)
    (hi : exec i s = fpMap i f useC op s)
    (hv : ∀ l, (let x := laneIn s L { a := some f.t.toNat, b := some f.t.toNat, c := if useC then some f.t.toNat else none } f l
      roundElems f.t.toNat (modeOf L.w f.m) f.sat
        (fun k => op (modeOf L.w f.m) (fpElem f.t.toNat x.a k) (fpElem f.t.toNat x.b k) (fpElem f.t.toNat x.c k)) x.gen) = v l) :
    exec i s = .next (setWave s L.wid (finishLane i L.actor (putLanes f.d v L.w L.all L.w))) :=
  laneMap_gives (g := fun L x => roundElems f.t.toNat (modeOf L.w f.m) f.sat
    (fun k => op (modeOf L.w f.m) (fpElem f.t.toNat x.a k) (fpElem f.t.toNat x.b k) (fpElem f.t.toNat x.c k)) x.gen) h hd hs hi hv

/-! ## Integer instructions -/

/-- VDOT4 reads `C` as FP32 (`u` = 6) with BF16 elements, and else as a 32-bit integer (`u` = 0) (R125). -/
theorem exec_vdot4_gives {s : State} {L : LaneCtx} {f : V3} {u : Nat} {v : Nat → LaneOut} (h : AtLane s L) (hd : OperandReady L L.lanes f.d)
    (ha : OperandReady L L.lanes f.a) (hb : OperandReady L L.lanes f.b) (hc : OperandReady L L.lanes f.c)
    (hu : (if f.t.toNat = 7 then 6 else 0) = u)
    (hv : ∀ l, (let x := laneIn s L { a := some f.t.toNat, b := some f.t.toNat, c := some u } f l
      if f.t.toNat = 7 then dotBf16 (modeOf L.w f.m) f.sat x else dotInt f.t.toNat x) = v l) :
    exec (.vdot4 f) s = .next (setWave s L.wid (finishLane (.vdot4 f) L.actor (putLanes f.d v L.w L.all L.w))) := by
  subst hu
  exact laneMap_gives (g := fun L x => if f.t.toNat = 7 then dotBf16 (modeOf L.w f.m) f.sat x else dotInt f.t.toNat x) h hd
    (v3Srcs_abc_ready ha hb hc) (exec_vdot4 f s) hv

/-- Settles O9: each instruction computes in each lane what its rule names. -/
theorem laneIntegerResults : Obligations.LaneIntegerResults := by
  intro s L f h hd ha t n a b c gives elems A B
  refine ⟨⟨elemMap1_gives h hd ha (exec_vabs f s) fun _ => rfl, elemMap1_gives h hd ha (exec_vneg f s) fun _ => rfl,
    elemMap1_gives h hd ha (exec_vclz f s) fun _ => rfl, elemMap1_gives h hd ha (exec_vpopc f s) fun _ => rfl⟩, fun hb => ?_⟩
  have two {i : Instr} {e : Nat → LaneIn → Nat → Nat × BitVec 4} {v : Nat → LaneOut} (hi : exec i s = elemMap2 i f e s)
      (hv : ∀ l, packed t (e t (laneIn s L { a := some t, b := some t } f l)) = v l) : gives i v := elemMap2_gives h hd ha hb hi hv
  refine ⟨two (exec_vadd f s) fun _ => rfl, two (exec_vsub f s) fun _ => rfl, two (exec_vmul f s) fun _ => rfl,
    two (exec_vmulh f s) fun _ => rfl, two (exec_vand f s) fun _ => rfl, two (exec_vor f s) fun _ => rfl, two (exec_vxor f s) fun _ => rfl,
    two (exec_vshl f s) fun _ => rfl, two (exec_vshr f s) fun _ => rfl, two (exec_vsra f s) fun _ => rfl, two (exec_vmin f s) fun _ => rfl,
    two (exec_vmax f s) fun _ => rfl, two (exec_vadds f s) fun _ => rfl, two (exec_vsubs f s) fun _ => rfl,
    laneMap_gives h hd (v3Srcs_ab_ready ha hb) (exec_vbfe f s) fun _ => rfl, fun hc => ?_⟩
  refine ⟨elemMap3_gives h hd ha hb hc (exec_vmad f s) fun _ => rfl,
    laneMap_gives h hd (v3Srcs_abc_ready ha hb hc) (exec_vbfi f s) fun _ => rfl, fun ht => ?_, fun ht => ?_⟩
  · exact exec_vdot4_gives h hd ha hb hc (if_neg ht) fun _ => if_neg ht
  · exact exec_vdot4_gives h hd ha hb hc (if_pos ht) fun _ => if_pos ht

/-! ## Floating-point instructions -/

/-- Settles O10: each instruction computes in each lane what its rule names. -/
theorem laneFloatResults : Obligations.LaneFloatResults := by
  intro s L f h hd ha t mode a b c gives rounds A B
  refine ⟨?special, fun hb => ?_⟩
  case special =>
    simp only [List.forall_mem_cons]
    exact ⟨elemMap1_gives h hd ha (exec_vrcp f s) fun _ => rfl, elemMap1_gives h hd ha (exec_vrsq f s) fun _ => rfl,
      elemMap1_gives h hd ha (exec_vexp2 f s) fun _ => rfl, elemMap1_gives h hd ha (exec_vlog2 f s) fun _ => rfl,
      elemMap1_gives h hd ha (exec_vsinp f s) fun _ => rfl, elemMap1_gives h hd ha (exec_vcosp f s) fun _ => rfl,
      elemMap1_gives h hd ha (exec_vtanh f s) fun _ => rfl, by simp⟩
  exact ⟨fpMap_gives h hd (v3Srcs_ab_ready ha hb) (exec_vfadd f s) fun _ => rfl, fpMap_gives h hd (v3Srcs_ab_ready ha hb) (exec_vfsub f s) fun _ => rfl,
    fpMap_gives h hd (v3Srcs_ab_ready ha hb) (exec_vfmul f s) fun _ => rfl,
    elemMap2_gives h hd ha hb (exec_vfmin f s) fun _ => rfl, elemMap2_gives h hd ha hb (exec_vfmax f s) fun _ => rfl,
    fun hc => fpMap_gives h hd (v3Srcs_abc_ready ha hb hc) (exec_vfma f s) fun _ => rfl⟩

/-! ## Conditions, ballots and shuffles -/

theorem exec_clog_at {s : State} {L : LaneCtx} (f : V3) (h : AtLane s L) :
    exec (.clog f) s = .next (setWave s L.wid (finishLane (.clog f) L.actor (writeCond (condOf f.d)
      (fun l => condOp f.m.toNat (condAt L.w (condOf f.a) l) (condAt L.w (condOf f.b) l)) L.all L.w))) := by
  rw [exec_clog]
  exact runLane_next h rfl

theorem exec_vcmp_ready {s : State} {L : LaneCtx} {f : V3} (h : AtLane s L) (ha : OperandReady L L.lanes f.a)
    (hb : OperandReady L L.lanes f.b) :
    exec (.vcmp f) s = .next (setWave s L.wid (finishLane (.vcmp f) L.actor (writeCond (condOf f.d) (fun l => compareWords f.t.toNat f.m.toNat
      (srcWord L f.lit ⟨f.a, f.ea, f.t.toNat⟩ l) (srcWord L f.lit ⟨f.b, f.eb, f.t.toNat⟩ l)) L.all L.w))) := by
  rw [exec_vcmp]
  apply runLane_next h
  have hgates := gates_ready (dsts := []) (v3Srcs_ab_ready (t := f.t.toNat) (u := f.t.toNat) ha hb) (by simp)
  simp only [hgates, res_ok_bind]
  rfl

theorem testBit_maskOf_foldl (j : Nat) : ∀ (ls : List Nat) (m : Nat),
    (ls.foldl (fun m l => Nat.lor m (2 ^ l)) m).testBit j = (m.testBit j || decide (j ∈ ls))
  | [], m => by simp
  | l :: r, m => by
    rw [List.foldl_cons, testBit_maskOf_foldl j r, show Nat.lor m (2 ^ l) = m ||| 2 ^ l from rfl, Nat.testBit_or, Nat.testBit_two_pow]
    by_cases hj : l = j
    · simp [hj]
    · simp [hj, Ne.symm hj]

/-- The bits of a mask of lanes are the lanes. -/
theorem testBit_maskOf (ls : List Nat) (j : Nat) : (maskOf ls).testBit j = decide (j ∈ ls) := by
  rw [maskOf, testBit_maskOf_foldl, Nat.zero_testBit, Bool.false_or]

theorem mem_bitsSet {m j : Nat} : ∀ {n : Nat}, j ∈ bitsSet m n ↔ j < n ∧ m.testBit j = true
  | 0 => by simp [bitsSet]
  | n + 1 => by
    have hbit : m / 2 ^ n % 2 = 1 ↔ m.testBit n = true := by
      rw [Nat.testBit_eq_decide_div_mod_eq, decide_eq_true_iff]
    rw [bitsSet, List.mem_append, mem_bitsSet (n := n)]
    by_cases hn : m / 2 ^ n % 2 = 1
    · simp only [hn, if_true, List.mem_singleton]
      constructor
      · rintro (⟨hlt, hb⟩ | rfl)
        · exact ⟨by omega, hb⟩
        · exact ⟨by omega, hbit.mp hn⟩
      · rintro ⟨hlt, hb⟩
        by_cases hj : j = n
        · exact .inr hj
        · exact .inl ⟨by omega, hb⟩
    · simp only [hn, if_false, List.not_mem_nil, or_false]
      constructor
      · rintro ⟨hlt, hb⟩; exact ⟨by omega, hb⟩
      · rintro ⟨hlt, hb⟩
        have : j ≠ n := by rintro rfl; exact hn (hbit.mpr hb)
        exact ⟨by omega, hb⟩

theorem mem_of_mem_bitsSet_maskOf {ls : List Nat} {n j : Nat} (h : j ∈ bitsSet (maskOf ls) n) : j ∈ ls := by
  simpa [testBit_maskOf] using (mem_bitsSet.mp h).2

/-- VSHUF reads A in the lanes that B names: they are all it needs of A (R139). -/
theorem exec_vshuf_ready {s : State} {L : LaneCtx} {f : V3} (h : AtLane s L) (hd : OperandReady L L.lanes f.d)
    (hb : OperandReady L L.lanes f.b)
    (ha : ∀ js : List Nat, (∀ j ∈ js, j < visibleLanes L ∧ ∃ l ∈ L.lanes, (srcWord L f.lit ⟨f.b, f.eb, 0⟩ l).toNat = j) →
      OperandReady L js f.a) :
    exec (.vshuf f) s = .next (setWave s L.wid (finishLane (.vshuf f) L.actor (putLanes f.d (fun l =>
      if (srcWord L f.lit ⟨f.b, f.eb, 0⟩ l).toNat < visibleLanes L then
        { x := srcWord L f.lit ⟨f.a, f.ea, 0⟩ (sameHalf l (srcWord L f.lit ⟨f.b, f.eb, 0⟩ l).toNat L.shadow) } else { x := 0 })
      L.w L.all L.w))) := by
  rw [exec_vshuf]
  apply runLane_next h
  have halloc : allocCheck L [f.d, f.a, f.b] = .ok () := by
    apply allocCheck_ready (lanes := [])
    have weaken {o : Operand} (ho : OperandReady L L.lanes o) : OperandReady L [] o := by
      cases o with
      | q n => exact ho
      | imm x => trivial
      | v n => exact ⟨ho.1, by simp⟩
      | ix x y k => simp [OperandReady]
    intro o ho
    obtain rfl | rfl | rfl : o = f.d ∨ o = f.a ∨ o = f.b := by simpa using ho
    · exact weaken hd
    · exact ha [] (by simp)
    · exact weaken hb
  have hnamed := ha (bitsSet (maskOf (((L.lanes.map (fun l => (srcWord L f.lit ⟨f.b, f.eb, 0⟩ l).toNat)).filter
      (fun j => decide (j < visibleLanes L))).dedup)) 96) (by
    intro j hj
    simpa [and_comm] using mem_of_mem_bitsSet_maskOf hj)
  have hsb : srcWaitOk L L.lanes ⟨f.b, f.eb, 0⟩ = true := srcWaitOk_ready hb
  have hcb : srcCheck L L.lanes ⟨f.b, f.eb, 0⟩ = .ok () := srcCheck_ready hb
  simp only [halloc, hsb, hcb, dstWaitOk_ready hd, dstCheck_ready hd, Bool.and_self, waitUnless_true, res_ok_bind,
    srcWaitOk_ready (x := ⟨f.a, f.ea, 0⟩) hnamed, srcCheck_ready (x := ⟨f.a, f.ea, 0⟩) hnamed]

/-- Settles O12. -/
theorem laneMoveResults : Obligations.LaneMoveResults := by
  intro s L f h t a b b0 a0 gives conds half
  exact ⟨exec_clog_at f h, exec_vcmp_ready h,
    fun hd hb => ⟨laneMap_gives h hd (v3Srcs_b_ready hb) (exec_vballot f s) fun _ => rfl, exec_vshuf_ready h hd hb⟩⟩

/-! ## Reductions and scans -/

/-- The 64 bits of a reduction over one half of the lanes (R144, R145). -/
def reducedValue (L : LaneCtx) (f : V3) (half : Nat) : Nat := intToNat (reduceAll f.m.toNat f.t.toNat (reduceOps L f half)).1 64

theorem reduced_agree {L : LaneCtx} {f : V3} (h : L.shadow = true → reducedValue L f 0 = reducedValue L f 48) :
    reduced L f = .ok (BitVec.ofNat 64 (reducedValue L f 0), (reduceAll f.m.toNat f.t.toNat (reduceOps L f 0)).2) := by
  cases hs : L.shadow with
  | false => simp only [reduced, hs, Bool.false_eq_true, if_false]; rfl
  | true =>
    have heq : (intToNat (reduceAll f.m.toNat f.t.toNat (reduceOps L f 0)).1 64
        == intToNat (reduceAll f.m.toNat f.t.toNat (reduceOps L f 48)).1 64) = true := beq_iff_eq.mpr (h hs)
    simp only [reduced, hs, if_true, heq, ensure_true]; rfl

theorem reduced_differ {L : LaneCtx} {f : V3} (hs : L.shadow = true) (h : reducedValue L f 0 ≠ reducedValue L f 48) :
    reduced L f = .error (.fault 0x15 (reducedValue L f 0 + reducedValue L f 48 * 2 ^ 64) none none) := by
  have hne : (intToNat (reduceAll f.m.toNat f.t.toNat (reduceOps L f 0)).1 64
      == intToNat (reduceAll f.m.toNat f.t.toNat (reduceOps L f 48)).1 64) = false := beq_eq_false_iff_ne.mpr h
  simp only [reduced, hs, if_true, hne, ensure_false]; rfl

section
variable {s : State} {L : LaneCtx} {f : V3} (h : AtLane s L)
include h

theorem exec_vtos_full (hfull : 8 ≤ L.w.returnQueue.length) : exec (.vtos f) s = stall s := by
  rw [exec_vtos]
  apply runLane_wait h
  simp only [show ¬ L.w.returnQueue.length < 8 by omega, decide_false, waitUnless_false, res_error_bind]

variable (ha : OperandReady L L.lanes f.a)
include ha

theorem exec_vtos_ready (hagree : L.shadow = true → reducedValue L f 0 = reducedValue L f 48) (hroom : L.w.returnQueue.length < 8) :
    exec (.vtos f) s = .next (setWave s L.wid (finishLane (.vtos f) L.actor (setFlags (reduceAll f.m.toNat f.t.toNat (reduceOps L f 0)).2
      { L.w with returnQueue := L.w.returnQueue ++ [BitVec.ofNat 64 (reducedValue L f 0)] }))) := by
  rw [exec_vtos]
  apply runLane_next h
  rw [gates_ready (by simpa using ha) (by simp), reduced_agree hagree]
  simp only [hroom, decide_true, waitUnless_true, res_ok_bind]

theorem exec_vtos_differ (hs : L.shadow = true) (hne : reducedValue L f 0 ≠ reducedValue L f 48) (hroom : L.w.returnQueue.length < 8) :
    exec (.vtos f) s = .next (raiseFault s L.actor 0x15 (reducedValue L f 0 + reducedValue L f 48 * 2 ^ 64) none none) := by
  rw [exec_vtos]
  apply runLane_fault h
  rw [gates_ready (by simpa using ha) (by simp), reduced_differ hs hne]
  simp only [hroom, decide_true, waitUnless_true, res_ok_bind, res_error_bind]

theorem exec_vtoq_ready {n : BitVec 4} (hagree : L.shadow = true → reducedValue L f 0 = reducedValue L f 48) (hd : f.d = .q n)
    (hq : qFull L n.toNat = true) :
    exec (.vtoq f) s = .next (setWave s L.wid (finishLane (.vtoq f) L.actor (setFlags (reduceAll f.m.toNat f.t.toNat (reduceOps L f 0)).2
      (writeQ L n.toNat (BitVec.ofNat 64 (reducedValue L f 0)) L.w)))) := by
  rw [exec_vtoq]
  apply runLane_next h
  rw [gates_ready (by simpa using ha) (by simpa [hd] using hq), reduced_agree hagree]
  simp only [res_ok_bind, hd]

end

/-! ## Index, descriptor and uniform instructions -/

theorem exec_ixset_ready {s : State} {L : LaneCtx} {f : V3} (h : AtLane s L) (ha : OperandReady L L.lanes f.a) :
    exec (.ixset f) s = .next (setWave s L.wid (finishLane (.ixset f) L.actor
      (writeIx (smallOf f.d) (fun l => (srcWord L f.lit ⟨f.a, f.ea, 0⟩ l).truncate 16) L.all L.w))) := by
  rw [exec_ixset]
  apply runLane_next h
  rw [gates_ready (by simpa using ha) (by simp)]; rfl

theorem exec_adset_ready {s : State} {L : LaneCtx} {f : V3} (h : AtLane s L) (ha : OperandReady L L.lanes f.a)
    (hb : OperandReady L L.lanes f.b) (hbase : (srcDword L f.a).toNat ≤ 255) (hlen : (srcDword L f.b).toNat ≤ 256)
    (hfit : (srcDword L f.a).toNat + (srcDword L f.b).toNat ≤ L.alloc) :
    exec (.adset f) s = .next (setWave s L.wid (finishLane (.adset f) L.actor { L.w with
      ad := Cells.set 0 L.w.ad (smallOf f.d) (BitVec.ofNat 64 ((srcDword L f.a).toNat + (srcDword L f.b).toNat * 256)) })) := by
  rw [exec_adset]
  apply runLane_next h
  rw [gates_ready (by simpa using ⟨ha, hb⟩) (by simp)]
  simp only [res_ok_bind, hbase, hlen, hfit, decide_true, ensure_true]

/-- A q instruction whose sources are full in no lane at all, being uniform, writes its q register or mask word (R150). -/
theorem qMap_ready {s : State} {L : LaneCtx} (i : Instr) {f : V3} {two : Bool} (g : Dword → Dword → Dword) {n : BitVec 4} (h : AtLane s L)
    (hd : f.d = .q n) (hq : qFull L n.toNat = true) (ha : OperandReady L [] f.a) (hb : two = true → OperandReady L [] f.b) :
    qMap i f two g s = .next (setWave s L.wid (finishLane i L.actor (writeQ L n.toNat (g (srcDword L f.a) (srcDword L f.b)) L.w))) := by
  apply runLane_next h
  have hsrcs : ∀ x ∈ (if two then [⟨f.a, f.ea, 0⟩, ⟨f.b, f.eb, 0⟩] else [⟨f.a, f.ea, 0⟩] : List Src), OperandReady L [] x.o := by
    cases two with
    | false => simpa using ha
    | true => simpa using ⟨ha, hb rfl⟩
  rw [gates_ready hsrcs (by simpa [hd] using hq)]
  simp only [res_ok_bind, hd]

/-- Settles O14. -/
theorem laneReductionAndUniformResults : Obligations.LaneReductionAndUniformResults := by
  refine ⟨fun s L f h ha => ?_, fun s L f h => ?_⟩
  · exact ⟨fun hagree => ⟨exec_vtos_ready h ha hagree, exec_vtos_full h, fun n hd hq => exec_vtoq_ready h ha hagree hd hq⟩,
      exec_vtos_differ h ha, fun hd => laneMap_gives h hd (v3Srcs_a_ready ha) (exec_vscan f s) fun _ => rfl⟩
  · refine ⟨exec_ixset_ready h, exec_adset_ready h, fun n hd hq ha => ?_⟩
    have one (i : Instr) (g : Dword → Dword → Dword) := qMap_ready (two := false) i g h hd hq ha (by simp)
    refine ⟨(exec_qmov f s).trans (one _ _), (exec_qli f s).trans (one _ _), fun hb => ?_⟩
    have two (i : Instr) (g : Dword → Dword → Dword) := qMap_ready (two := true) i g h hd hq ha (fun _ => hb)
    exact ⟨(exec_qadd f s).trans (two _ _), (exec_qsub f s).trans (two _ _), (exec_qand f s).trans (two _ _), (exec_qor f s).trans (two _ _),
      (exec_qxor f s).trans (two _ _), (exec_qshl f s).trans (two _ _), (exec_qshr f s).trans (two _ _)⟩

end Sys2Proof.Machine
end

/-! # Path transfers, meetings and traps (R172 to R178, R264, R265, R334) -/

section
namespace Sys2Proof.Machine

open Sys2Proof.Laws

/-! ## Shadow comparisons (R164, R278) -/

theorem shadowCheck_agree {L : LaneCtx} {g : Nat → List Nat} (h : L.shadow = true → ∀ l ∈ L.lanes, g l = g (l + 48)) :
    shadowCheck L g = .ok () := by
  cases hs : L.shadow with
  | false => simp only [shadowCheck, hs, Bool.false_eq_true, if_false]
  | true =>
    have hnone : L.lanes.filter (fun l => !(g l == g (l + 48))) = [] := by
      rw [List.filter_eq_nil_iff]
      intro l hl
      simp [h hs l hl]
    simp only [shadowCheck, hs, if_true, hnone]

theorem shadowCheck_holds {L : LaneCtx} {f : VB} (h : L.shadow = true → ∀ l ∈ L.lanes, vbHolds L f l = vbHolds L f (l + 48)) :
    shadowCheck L (fun l => [b2n (vbHolds L f l)]) = .ok () :=
  shadowCheck_agree fun hs l hl => by rw [h hs l hl]

/-! ## Transfers (R172, R173) -/

section
variable {s : State} {L : LaneCtx} (f : VB) (h : AtLane s L)
include h

theorem exec_jmpv_at : exec (.jmpv f) s = .next (setWave s L.wid (setPcSig L.actor (vbTarget L f) sigReset L.w)) := by
  rw [exec_jmpv]
  exact runLane_next h rfl

theorem exec_callv_full (hq : L.q12Full = true) : exec (.callv f) s =
    .next (setWave s L.wid (setPcSig L.actor (vbTarget L f) sigReset (writeQ L 12 (BitVec.ofNat 64 (L.pc + 8)) L.w))) := by
  rw [exec_callv]
  apply runLane_next h
  simp only [hq, waitUnless_true, res_ok_bind]

theorem exec_callv_empty (hq : L.q12Full = false) : exec (.callv f) s = stall s := by
  rw [exec_callv]
  apply runLane_wait h
  simp only [hq, waitUnless_false, res_error_bind]

theorem exec_retv_empty (hq : L.q12Full = false) : exec (.retv f) s = stall s := by
  rw [exec_retv]
  apply runLane_wait h
  simp only [hq, waitUnless_false, res_error_bind]

theorem exec_retv_aligned (hq : L.q12Full = true) (hal : L.q12.toNat % 4 = 0) :
    exec (.retv f) s = .next (setWave s L.wid (setPcSig L.actor L.q12.toNat sigReset L.w)) := by
  rw [exec_retv]
  apply runLane_next h
  simp only [hq, waitUnless_true, res_ok_bind, hal, decide_true, ensure_true]

theorem exec_retv_misaligned (hq : L.q12Full = true) (hal : L.q12.toNat % 4 ≠ 0) :
    exec (.retv f) s = .next (raiseFault s L.actor 0x08 L.q12.toNat none none) := by
  have hdetail : addrDetail L.q12.toNat false false = L.q12.toNat := by simp [addrDetail, b2n, Nat.mod_eq_of_lt L.q12.isLt]
  rw [exec_retv]
  apply runLane_fault h
  simp only [hq, waitUnless_true, res_ok_bind, hal, decide_false, ensure_false, res_error_bind, hdetail]

section
variable (hsame : L.shadow = true → ∀ l ∈ L.lanes, vbHolds L f l = vbHolds L f (l + 48))
include hsame

theorem exec_brv_none (hno : ∀ l ∈ L.lanes, vbHolds L f l = false) :
    exec (.brv f) s = .next (setWave s L.wid (setPcSig L.actor (L.pc + 8) (foldSig L.sig (opNumber (.brv f))) L.w)) := by
  have htaken : L.lanes.filter (vbHolds L f) = [] := List.filter_eq_nil_iff.mpr fun l hl => by simp [hno l hl]
  rw [exec_brv]
  apply runLane_next h
  simp only [shadowCheck_holds hsame, res_ok_bind, htaken, List.isEmpty_nil, if_true]

theorem exec_brv_all (hne : L.lanes ≠ []) (hall : ∀ l ∈ L.lanes, vbHolds L f l = true) :
    exec (.brv f) s = .next (setWave s L.wid (setPcSig L.actor (vbTarget L f) sigReset L.w)) := by
  have htaken : L.lanes.filter (vbHolds L f) = L.lanes := List.filter_eq_self.mpr hall
  have hrest : L.lanes.filter (fun l => !(vbHolds L f l)) = [] := List.filter_eq_nil_iff.mpr fun l hl => by simp [hall l hl]
  rw [exec_brv]
  apply runLane_next h
  simp only [shadowCheck_holds hsame, res_ok_bind, htaken, hrest, List.isEmpty_iff, hne, if_false, if_true]

theorem exec_brv_some {wid e : Nat} (ha : L.actor = .path wid e) (hyes : ∃ l ∈ L.lanes, vbHolds L f l = true)
    (hno : ∃ l ∈ L.lanes, vbHolds L f l = false) :
    exec (.brv f) s = .next (splitPath s L e (L.lanes.filter (vbHolds L f)) (L.lanes.filter (fun l => !(vbHolds L f l))) (vbTarget L f)
      (L.pc + 8) (foldSig L.sig (opNumber (.brv f)))) := by
  obtain ⟨l, hl, hyes⟩ := hyes
  obtain ⟨k, hk, hno⟩ := hno
  have htaken : L.lanes.filter (vbHolds L f) ≠ [] := List.ne_nil_of_mem (List.mem_filter.mpr ⟨hl, hyes⟩)
  have hrest : L.lanes.filter (fun l => !(vbHolds L f l)) ≠ [] := List.ne_nil_of_mem (List.mem_filter.mpr ⟨hk, by simp [hno]⟩)
  rw [exec_brv]
  apply runLane_next h
  simp only [shadowCheck_holds hsame, res_ok_bind, List.isEmpty_iff, htaken, hrest, if_false, ha]

end

end

/-- A continuation has one lane (R267). -/
theorem cont_lanes_le_one {s : State} {L : LaneCtx} {wid l : Nat} (h : AtLane s L) (ha : L.actor = .cont wid l) : L.lanes.length ≤ 1 := by
  unfold AtLane laneCtx at h
  split at h
  · split at h
    · split at h
      · cases h; cases ha
      · cases h
    · cases h
  · split at h
    · split at h
      · cases h
        dsimp only
        split_ifs <;> simp
      · cases h
    · cases h
  · cases h

/-! ## Signatures (R176) -/

theorem exec_sigv_equal {s : State} {L : LaneCtx} (v : V3) (h : AtLane s L) (heq : L.sig.toNat = (v.lit.getD 0).toNat) :
    exec (.sigv v) s = .next (setWave s L.wid (setPcSig L.actor (L.pc + byteLength (.sigv v)) sigReset L.w)) := by
  rw [exec_sigv]
  apply runLane_next h
  simp only [heq, if_true]

theorem exec_sigv_differs {s : State} {L : LaneCtx} (v : V3) (h : AtLane s L) (hne : L.sig.toNat ≠ (v.lit.getD 0).toNat) :
    exec (.sigv v) s = .next (raiseFault (setWave s L.wid (setPcSig L.actor L.pc sigReset L.w)) L.actor 0x14
      ((v.lit.getD 0).toNat + L.sig.toNat * 2 ^ 32) none none) := by
  rw [exec_sigv]
  apply runLane_next h
  simp only [hne, if_false]

theorem exec_nopv_at {s : State} {L : LaneCtx} (v : V3) (h : AtLane s L) :
    exec (.nopv v) s = .next (setWave s L.wid (finishLane (.nopv v) L.actor L.w)) := by
  rw [exec_nopv]
  exact runLane_next h rfl

/-- Settles O18. -/
theorem pathTransfers : Obligations.PathTransfers := by
  intro s L f v h target holds sig moved goes
  exact ⟨fun hsame => ⟨exec_brv_none f h hsame, exec_brv_all f h hsame, fun wid e => exec_brv_some f h hsame⟩,
    fun wid l => cont_lanes_le_one h, exec_jmpv_at f h,
    fun hq => ⟨exec_callv_full f h hq, exec_retv_aligned f h hq, exec_retv_misaligned f h hq⟩,
    fun hq => ⟨exec_callv_empty f h hq, exec_retv_empty f h hq⟩, exec_sigv_equal v h, exec_sigv_differs v h, exec_nopv_at v h⟩

/-! ## Meetings (R174, R175) -/

theorem exec_regang_parks {s : State} {L : LaneCtx} (f : VB) (h : AtLane s L) (hroot : rootComplete L = false) :
    exec (.regang f) s = .next (settle (.regang L.pc) L.wid (setWave s L.wid (park L (.atRegang f.jid.toNat)
      (foldSig (foldSig L.sig (opNumber (.regang f))) (0x8000 + f.jid.toNat)) L.w))) := by
  rw [exec_regang]
  apply runLane_next h
  simp only [hroot, Bool.false_eq_true, if_false]

theorem rootComplete_root {L : LaneCtx} {wid : Nat} {p : PathEntry} (ha : L.actor = .path wid 0) (hp : Tbl.find? L.w.paths 0 = some p)
    (howned : p.owned = p.split) (hjoin : p.join = 0) : rootComplete L = true := by
  simp only [rootComplete, ha, hp, pathComplete, howned, hjoin, beq_self_eq_true, Bool.and_self]

theorem exec_regang_passes {s : State} {L : LaneCtx} (f : VB) {wid : Nat} (h : AtLane s L) (ha : L.actor = .path wid 0)
    (hroot : rootComplete L = true) :
    exec (.regang f) s = .next (setWave s L.wid { L.w with paths := Tbl.modify L.w.paths 0 (fun p =>
      { p with pc := L.pc + 8, sig := foldSig (foldSig L.sig (opNumber (.regang f))) (0x8000 + f.jid.toNat),
               active := launchMask L.shadow }) }) := by
  rw [exec_regang]
  apply runLane_next h
  simp only [hroot, if_true, ha, modInstance]

theorem exec_lend_at {s : State} {L : LaneCtx} (f : VB) (h : AtLane s L) :
    exec (.lend f) s = .next (settle .lend L.wid (setWave s L.wid (park L .atLend (foldSig L.sig (opNumber (.lend f))) L.w))) := by
  rw [exec_lend]
  exact runLane_next h rfl

/-! ## Traps (R177, R178, R334) -/

section
variable {s : State} {L : LaneCtx} (f : VB) (h : AtLane s L)
  (hsame : L.shadow = true → ∀ l ∈ L.lanes, vbHolds L f l = vbHolds L f (l + 48))
include h hsame

theorem exec_trapv_none (hno : ∀ l ∈ L.lanes, vbHolds L f l = false) :
    exec (.trapv f) s = .next (setWave s L.wid (finishLane (.trapv f) L.actor L.w)) := by
  have htaken : L.lanes.filter (vbHolds L f) = [] := List.filter_eq_nil_iff.mpr fun l hl => by simp [hno l hl]
  rw [exec_trapv]
  apply runLane_next h
  simp only [shadowCheck_holds hsame, res_ok_bind, htaken]

theorem exec_trapv_some (hyes : ∃ l ∈ L.lanes, vbHolds L f l = true) :
    exec (.trapv f) s = .next (trapLane (.trapv f) s L 0x1A (f.off.toNat / 4) (some (maskOf (L.lanes.filter (vbHolds L f))))) := by
  obtain ⟨l, hl, hyes⟩ := hyes
  obtain ⟨k, r, htaken⟩ := List.exists_cons_of_ne_nil (List.ne_nil_of_mem (List.mem_filter.mpr ⟨hl, hyes⟩))
  rw [exec_trapv]
  apply runLane_next h
  simp only [shadowCheck_holds hsame, res_ok_bind, htaken]

end

theorem exec_brkv_at {s : State} {L : LaneCtx} (f : VB) (h : AtLane s L) :
    exec (.brkv f) s = .next (trapLane (.brkv f) s L 0x1B (f.off.toNat / 4 * 2 ^ 64) none) := by
  rw [exec_brkv]
  exact runLane_next h rfl

/-- Settles O19. -/
theorem laneMeetingsAndTraps : Obligations.LaneMeetingsAndTraps := by
  refine ⟨fun s L f h => ⟨exec_regang_parks f h, fun wid p ha hp howned hjoin =>
    exec_regang_passes f h ha (rootComplete_root ha hp howned hjoin), exec_lend_at f h⟩, fun s L f h => ⟨fun hsame => ?_, exec_brkv_at f h⟩⟩
  exact ⟨exec_trapv_none f h hsame, exec_trapv_some f h hsame⟩

end Sys2Proof.Machine
end

/-! # The waterfall form; conversions, palettes, lane memory and accumulators (R61, R132 to R137, R153 to R164, R170, R171) -/

section
namespace Sys2Proof.Machine

open Sys2Proof.Laws

/-! ## The wave of what issues -/

theorem getWave_of_atLane {s : State} {L : LaneCtx} (h : AtLane s L) : getWave s L.wid = some L.w := by
  unfold AtLane laneCtx at h
  split at h
  · split at h
    · split at h
      · cases h; assumption
      · cases h
    · cases h
  · split at h
    · split at h
      · cases h; assumption
      · cases h
    · cases h
  · cases h

theorem over_of_getWave {s : State} {w : Wave} (L : LaneCtx) (ls : List Nat) (h : getWave s L.wid = some w) :
    L.over s ls = { L with w := w, lanes := ls } := by
  simp only [LaneCtx.over, h, Option.getD_some]

theorem over_self {s : State} {L : LaneCtx} (h : AtLane s L) : L.over s L.lanes = L := by
  rw [over_of_getWave L _ (getWave_of_atLane h)]

theorem getWave_modWave_same {s : State} {k : Nat} {w : Wave} (f : Wave → Wave) (h : getWave s k = some w) :
    getWave (modWave s k f) k = some (f w) := by
  simp only [getWave] at h
  simp only [getWave, modWave, Tbl.find?_modify_same, h, Option.map_some]

/-- A direct register below the allocation passes check 7 of R69. -/
theorem allocCheck_direct {L : LaneCtx} : ∀ os : List Operand, (∀ n, .v n ∈ os → n.toNat < L.alloc) → allocCheck L os = .ok ()
  | [], _ => rfl
  | .v n :: r, h => by
    simp only [allocCheck, h n (by simp), if_true]
    exact allocCheck_direct r fun m hm => h m (by simp [hm])
  | .ix _ _ _ :: r, h => allocCheck_direct r fun m hm => h m (by simp [hm])
  | .q _ :: r, h => allocCheck_direct r fun m hm => h m (by simp [hm])
  | .imm _ :: r, h => allocCheck_direct r fun m hm => h m (by simp [hm])

/-! ## Operands that stay ready -/

/-- Nothing that could be read before has become empty, and what selects registers is as it was. -/
structure StillReady (w u : Wave) : Prop where
  q : u.qEmpty = w.qEmpty
  ix : u.ix = w.ix
  ad : u.ad = w.ad
  log : u.log = w.log
  v : ∀ r l, vIsEmpty w r l = false → vIsEmpty u r l = false

theorem StillReady.refl (w : Wave) : StillReady w w := ⟨rfl, rfl, rfl, rfl, fun _ _ h => h⟩

theorem StillReady.trans {w u x : Wave} (h : StillReady w u) (g : StillReady u x) : StillReady w x :=
  ⟨g.q.trans h.q, g.ix.trans h.ix, g.ad.trans h.ad, g.log.trans h.log, fun r l hw => g.v r l (h.v r l hw)⟩

theorem stillReady_writeV (reg lane : Nat) (x : Word) (w : Wave) : StillReady w (writeV reg lane x w) := by
  refine ⟨rfl, rfl, rfl, rfl, fun r l hw => ?_⟩
  by_cases hk : vKey r l = vKey reg lane
  · simp [vIsEmpty, writeV, hk]
  · simpa [vIsEmpty, writeV, Cells.get_set_ne _ _ _ hk] using hw

theorem stillReady_setLaneGen (lane : Nat) (g : Word) (w : Wave) : StillReady w (setLaneGen lane g w) :=
  ⟨rfl, rfl, rfl, rfl, fun _ _ h => h⟩

theorem stillReady_setFlags (b : BitVec 4) (w : Wave) : StillReady w (setFlags b w) := ⟨rfl, rfl, rfl, rfl, fun _ _ h => h⟩

theorem stillReady_putLane (o : Operand) (lane : Nat) (r : LaneOut) (old w : Wave) : StillReady w (putLane o lane r old w) := by
  refine StillReady.trans ?_ (stillReady_setFlags _ _)
  have hreg : StillReady w (match regOf old o lane with | some n => writeV n lane r.x w | none => w) := by
    cases regOf old o lane with
    | some n => exact stillReady_writeV n lane r.x w
    | none => exact StillReady.refl w
  cases r.gen with
  | some g => exact hreg.trans (stillReady_setLaneGen lane g _)
  | none => exact hreg

theorem stillReady_putLanes (o : Operand) (g : Nat → LaneOut) (old : Wave) : ∀ (ls : List Nat) (w : Wave),
    StillReady w (putLanes o g old ls w)
  | [], w => StillReady.refl w
  | l :: r, w => (stillReady_putLane o l (g l) old w).trans (stillReady_putLanes o g old r _)

theorem regOf_stillReady {w u : Wave} (h : StillReady w u) (o : Operand) (l : Nat) : regOf u o l = regOf w o l := by
  cases o with
  | ix a x k => unfold regOf adLength adBase; rw [h.ix, h.ad]
  | _ => rfl

/-- An operand ready in some lanes is ready in fewer of them, in a wave in which nothing has become empty. -/
theorem operandReady_stillReady {L : LaneCtx} {u : Wave} {lanes fewer : List Nat} {o : Operand} (h : StillReady L.w u)
    (hsub : ∀ l ∈ fewer, l ∈ lanes) (ho : OperandReady L lanes o) : OperandReady { L with w := u, lanes := fewer } fewer o := by
  cases o with
  | q n => simpa only [OperandReady, qFull, h.q] using ho
  | imm b => trivial
  | v n => exact ⟨ho.1, fun l hl => h.v _ _ (ho.2 l (hsub l hl))⟩
  | ix a x k =>
    intro l hl
    obtain ⟨r, hr, he⟩ := ho l (hsub l hl)
    exact ⟨r, (regOf_stillReady h _ l).trans hr, h.v _ _ he⟩

theorem operandReady_no_lane {L : LaneCtx} {lanes : List Nat} {o : Operand} (ho : OperandReady L lanes o) : OperandReady L [] o := by
  cases o with
  | q n => exact ho
  | imm b => trivial
  | v n => exact ⟨ho.1, by simp⟩
  | ix a x k => simp [OperandReady]

/-! ## Running a waterfall (R61) -/

theorem inTurn_mono {α : Type} {R Q : α → State → State → Prop} (h : ∀ x s t, R x s t → Q x s t) :
    ∀ (xs : List α) (s t : State), InTurn R xs s t → InTurn Q xs s t
  | [], _, _, ht => ht
  | x :: r, s, t, ⟨u, hu, ht⟩ => ⟨u, h x s u hu, inTurn_mono h r u t ht⟩

theorem waterfall_issues {issue : Nat → List Nat → State → Res State} :
    ∀ (gs : List (Nat × List Nat)) (s t : State), IssuesInTurn issue gs s t → waterfall issue gs s = (t, none)
  | [], _, _, ht => by rw [waterfall, show _ = _ from ht]
  | g :: r, s, t, ⟨u, hu, ht⟩ => by
    rw [waterfall, show issue g.1 g.2 s = .ok u from hu]
    exact waterfall_issues r u t ht

/-- All issues complete: the path moves on and none is left. -/
theorem waterRun_issues {i : Instr} {L : LaneCtx} {issue : Nat → List Nat → State → Res State} {gs : List (Nat × List Nat)} {s t : State}
    (h : IssuesInTurn issue gs s t) :
    waterRun i L issue gs s = .ok (modWave t L.wid (fun w => setRest L.actor [] (finishLane i L.actor w))) := by
  simp only [waterRun, waterfall_issues gs s t h]

/-- The field is read at the first issue; an instruction that was left goes on with what remains. -/
theorem waterGroups_ready {L : LaneCtx} {x : Src} (val : Nat → Nat) (h : L.rest = [] → OperandReady L L.lanes x.o) :
    waterGroups L x val = .ok (if L.rest = [] then groupsOf val 96 L.lanes else L.rest) := by
  by_cases hr : L.rest = []
  · simp only [waterGroups, hr, List.isEmpty_nil, if_true, issueGates_ready (srcs := [x]) (dsts := []) (by simpa using h hr) (by simp)]
    rfl
  · simp only [waterGroups, List.isEmpty_iff, hr, if_false]

theorem groupsOf_lanes (val : Nat → Nat) : ∀ (n : Nat) (lanes : List Nat), ∀ p ∈ groupsOf val n lanes, ∀ l ∈ p.2, l ∈ lanes
  | 0, _ => by simp [groupsOf]
  | _ + 1, [] => by simp [groupsOf]
  | n + 1, k :: r => by
    intro p hp l hl
    rw [groupsOf, List.mem_cons] at hp
    obtain rfl | hp := hp
    · simp only [List.mem_cons, List.mem_filter] at hl ⊢
      exact hl.imp id And.left
    · have := groupsOf_lanes val n _ p hp l hl
      exact List.mem_cons_of_mem _ (List.mem_filter.mp this).1

/-! ## Palette instructions (R136, R137) -/

/-- One issue of a palette instruction writes `D` in its lanes. -/
def paletteStep (f : V3) (r : Reads) (L : LaneCtx) (g : Palette → LaneIn → LaneOut) (u : State) (p : Nat × List Nat) : State :=
  modWave u L.wid (putLanes f.d (fun l => g (paletteOf u (LaneCtx.over L u p.2).w p.1) (laneIn u (LaneCtx.over L u p.2) r f l))
    (LaneCtx.over L u p.2).w (LaneCtx.over L u p.2).all)

theorem installPending_of_log {w u : Wave} (h : u.log = w.log) (id : Nat) : installPending u id = installPending w id := by
  simp only [installPending, h]

section
variable {f : V3} {r : Reads} {L : LaneCtx} (g : Palette → LaneIn → LaneOut) (hd : OperandReady L L.lanes f.d)
  (hs : ∀ x ∈ v3Srcs { r with c := none } f, OperandReady L L.lanes x.o)
include hd hs

theorem paletteIssue_step {i : Instr} {u : State} {w : Wave} {p : Nat × List Nat} (hw : getWave u L.wid = some w) (hstill : StillReady L.w w)
    (hsub : ∀ l ∈ p.2, l ∈ L.lanes) (hv : p.1 < 4) (hp : installPending L.w (72 + p.1) = false) :
    paletteIssue i f r L g p.1 p.2 u = .ok (paletteStep f r L g u p) := by
  have hgates : issueGates { L with w := w, lanes := p.2 } p.2 (v3Srcs { r with c := none } f) [f.d] = .ok () :=
    issueGates_ready (fun x hx => operandReady_stillReady hstill hsub (hs x hx)) (by simpa using operandReady_stillReady hstill hsub hd)
  have hpend : installPending w (72 + p.1) = false := (installPending_of_log hstill.log _).trans hp
  simp only [paletteIssue, paletteStep, over_of_getWave L _ hw, hv, decide_true, ensure_true, res_ok_bind, hgates, hpend, Bool.not_false,
    waitUnless_true]

/-- The issues of a palette instruction all complete: none of them empties what a later one reads. -/
theorem paletteIssues_inTurn {i : Instr} : ∀ (gs : List (Nat × List Nat)) (u : State) (w : Wave), getWave u L.wid = some w →
    StillReady L.w w → (∀ p ∈ gs, (∀ l ∈ p.2, l ∈ L.lanes) ∧ p.1 < 4 ∧ installPending L.w (72 + p.1) = false) →
    IssuesInTurn (paletteIssue i f r L g) gs u (gs.foldl (paletteStep f r L g) u)
  | [], _, _, _, _, _ => rfl
  | p :: rest, u, w, hw, hstill, hall => by
    obtain ⟨hsub, hv, hp⟩ := hall p (by simp)
    refine ⟨paletteStep f r L g u p, paletteIssue_step g hd hs hw hstill hsub hv hp, ?_⟩
    exact paletteIssues_inTurn rest _ _ (getWave_modWave_same _ hw) (hstill.trans (stillReady_putLanes ..))
      fun q hq => hall q (List.mem_cons_of_mem _ hq)

end

/-- A palette instruction's sources with the palette field are those without it, and the field. -/
theorem mem_v3Srcs_field {r : Reads} {f : V3} {x : Src} (h : x ∈ v3Srcs { r with c := some 0 } f) :
    x ∈ v3Srcs { r with c := none } f ∨ x = ⟨f.c, f.ec, 0⟩ := by
  simpa [v3Srcs, optSrc, or_assoc] using h

/-- The state in which an instruction that issues by parts leaves its path (R61, R119). -/
def afterParts (i : Instr) (L : LaneCtx) (byGroups : Bool) (u : State) : State :=
  modWave u L.wid (fun w => if byGroups then setRest L.actor [] (finishLane i L.actor w) else finishLane i L.actor w)

theorem paletteRun_issues {s : State} {L : LaneCtx} (i : Instr) {f : V3} {r : Reads} (g : Palette → LaneIn → LaneOut) (h : AtLane s L)
    (hd : OperandReady L L.lanes f.d) (hs : ∀ x ∈ v3Srcs { r with c := none } f, OperandReady L L.lanes x.o)
    (hc : OperandReady L L.lanes f.c) (hrest : f.w = true → L.rest = []) {groups : List (Nat × List Nat)}
    (hgroups : groups = if f.w then groupsOf (uniformValue L f.lit f.c) 96 L.lanes else [(uniformValue L f.lit f.c 0, L.lanes)])
    (hok : ∀ p ∈ groups, p.1 < 4 ∧ installPending L.w (72 + p.1) = false) :
    paletteRun i f r g s = .next (afterParts i L f.w (groups.foldl (paletteStep f r L g) s)) := by
  have hall : ∀ x ∈ v3Srcs { r with c := some 0 } f, OperandReady L L.lanes x.o := by
    intro x hx
    obtain hx | rfl := mem_v3Srcs_field hx
    · exact hs x hx
    · exact hc
  apply runLane_next h
  cases hw : f.w with
  | true =>
    rw [hw, if_pos rfl] at hgroups
    subst hgroups
    have halloc : allocCheck L (f.d :: (v3Srcs { r with c := some 0 } f).map (fun x => x.o)) = .ok () := by
      apply allocCheck_ready (lanes := L.lanes)
      intro o ho
      obtain rfl | ⟨x, hx, rfl⟩ : o = f.d ∨ ∃ x ∈ v3Srcs { r with c := some 0 } f, x.o = o := by simpa using ho
      · exact hd
      · exact hall x hx
    have hrun := paletteIssues_inTurn (i := i) g hd hs _ s L.w (getWave_of_atLane h) (StillReady.refl _)
      fun p hp => ⟨groupsOf_lanes _ _ _ p hp, hok p hp⟩
    simp only [if_true, halloc, waterGroups_ready (x := ⟨f.c, f.ec, 0⟩) (uniformValue L f.lit f.c) (fun _ => hc), res_ok_bind, hrest hw,
      waterRun_issues hrun, afterParts]
  | false =>
    rw [hw, if_neg (by simp)] at hgroups
    subst hgroups
    obtain ⟨hv, hp⟩ := hok (uniformValue L f.lit f.c 0, L.lanes) (by simp)
    have hissue := paletteIssue_step (i := i) (p := (uniformValue L f.lit f.c 0, L.lanes)) g hd hs (getWave_of_atLane h) (StillReady.refl _)
      (fun _ hl => hl) hv hp
    simp only [Bool.false_eq_true, if_false, gates_ready hall (dsts := [f.d]) (by simpa using hd), res_ok_bind, hissue, afterParts,
      List.foldl_cons, List.foldl_nil]

/-- A palette instruction that was left at an issue that waited goes on with what remains. -/
theorem paletteRun_resumes {s u : State} {L : LaneCtx} (i : Instr) {f : V3} {r : Reads} (g : Palette → LaneIn → LaneOut) (h : AtLane s L)
    (hw : f.w = true) (hrest : L.rest ≠ []) (hd : OperandReady L [] f.d) (hs : ∀ x ∈ v3Srcs { r with c := none } f, OperandReady L [] x.o)
    (hc : OperandReady L [] f.c) (hissues : IssuesInTurn (paletteIssue i f r L g) L.rest s u) :
    paletteRun i f r g s = .next (afterParts i L f.w u) := by
  have halloc : allocCheck L (f.d :: (v3Srcs { r with c := some 0 } f).map (fun x => x.o)) = .ok () := by
    apply allocCheck_ready (lanes := [])
    intro o ho
    obtain rfl | ⟨x, hx, rfl⟩ : o = f.d ∨ ∃ x ∈ v3Srcs { r with c := some 0 } f, x.o = o := by simpa using ho
    · exact hd
    · obtain hx | rfl := mem_v3Srcs_field hx
      · exact hs x hx
      · exact hc
  apply runLane_next h
  simp only [hw, if_true, halloc, waterGroups_ready (x := ⟨f.c, f.ec, 0⟩) (uniformValue L f.lit f.c) (fun hr => absurd hr hrest), res_ok_bind,
    hrest, if_false, waterRun_issues hissues, afterParts]

/-! ## Conversions (R132 to R135) -/

/-- VPACK to BF16 rounds two FP32 values, any other takes elements of A and then of B (R133). -/
theorem exec_vpack_gives {s : State} {L : LaneCtx} {f : V3} (h : AtLane s L) (hd : OperandReady L L.lanes f.d)
    (ha : OperandReady L L.lanes f.a) (hb : OperandReady L L.lanes f.b) {v : Nat → LaneOut}
    (hv : ∀ l, (let x := laneIn s L { a := some (stypeOf f.c), b := some (stypeOf f.c) } f l
      if f.t.toNat = 7 then roundElems 7 (modeOf L.w f.m) f.sat (fun k => fpOfFp32 (if k = 0 then x.a else x.b).toNat) x.gen
      else packed f.t.toNat (packElem f.t.toNat (stypeOf f.c) x)) = v l) :
    exec (.vpack f) s = .next (setWave s L.wid (finishLane (.vpack f) L.actor (putLanes f.d v L.w L.all L.w))) :=
  laneMap_gives (g := fun L x =>
    if f.t.toNat = 7 then roundElems 7 (modeOf L.w f.m) f.sat (fun k => fpOfFp32 (if k = 0 then x.a else x.b).toNat) x.gen
    else packed f.t.toNat (packElem f.t.toNat (stypeOf f.c) x)) h hd (v3Srcs_ab_ready ha hb) (exec_vpack f s) hv

/-- Settles O11: the conversions are `laneMap`s, and a palette instruction runs its issues in turn. -/
theorem laneConversionResults : Obligations.LaneConversionResults := by
  intro s L f h hd ha t st mode into gives g1 m groups part issue ends issues vpal vunpal
  have hab (hb : OperandReady L L.lanes f.b) := v3Srcs_ab_ready (t := t) (u := 0) ha hb
  refine ⟨?cvt, fun hb hc => ?qnt, fun hb ht => exec_vpack_gives h hd ha hb fun _ => if_neg ht,
    fun hb ht => exec_vpack_gives h hd ha hb fun _ => if_pos ht, fun hb => ?unpk,
    fun hc hrest hok => ⟨fun hb => ?vpal, ?vunpal⟩, fun hw hrest hc u => ⟨fun hb hi => ?vpalRest, fun hi => ?vunpalRest⟩⟩
  case cvt =>
    exact laneMap_gives (g := fun L x =>
      let mode := if isFpType t || isFpType st then modeOf L.w f.m else 0
      let g1 := genStep x.gen
      let r := packed t (fun k => cvtElem st t mode (drawOf (if k = 0 then g1 else genStep g1)) x.a k)
      { r with gen := if mode = 4 then some (if elemCount t = 2 then genStep g1 else g1) else none })
      h hd (v3Srcs_a_ready ha) (exec_vcvt f s) fun _ => rfl
  case qnt =>
    exact laneMap_gives (g := fun L x => quantise f.t.toNat (modeOf L.w f.m) x) h hd (v3Srcs_abc_ready ha hb hc) (exec_vqnt f s) fun _ => rfl
  case unpk =>
    exact laneMap_gives (g := fun _ x => packed t (unpackElem t st x)) h hd (v3Srcs_ab_ready ha hb) (exec_vunpk f s) fun _ => rfl
  case vpal => exact (exec_vpal f s).trans (paletteRun_issues (.vpal f) vpal h hd (hab hb) hc hrest rfl hok)
  case vunpal => exact (exec_vunpal f s).trans (paletteRun_issues (.vunpal f) vunpal h hd (v3Srcs_a_ready ha) hc hrest rfl hok)
  case vpalRest =>
    refine (exec_vpal f s).trans (paletteRun_resumes (.vpal f) vpal h hw hrest (operandReady_no_lane hd) ?_ hc hi)
    intro x hx
    obtain rfl | rfl : x = ⟨f.a, f.ea, t⟩ ∨ x = ⟨f.b, f.eb, 0⟩ := by simpa [v3Srcs, optSrc] using hx
    · exact operandReady_no_lane ha
    · exact hb
  case vunpalRest =>
    refine (exec_vunpal f s).trans (paletteRun_resumes (.vunpal f) vunpal h hw hrest (operandReady_no_lane hd) ?_ hc hi)
    intro x hx
    obtain rfl : x = ⟨f.a, f.ea, t⟩ := by simpa [v3Srcs, optSrc] using hx
    exact operandReady_no_lane ha

end Sys2Proof.Machine
end

/-! # Lane memory and accumulators (R153 to R164, R170, R171) -/

section
namespace Sys2Proof.Machine

open Sys2Proof.Laws

/-! ## Where the lanes' addresses lead (R154) -/

theorem failLanes_nil (code : Nat) (write : Bool) (unit : Option Nat) (bit66 : Bool) : failLanes code write unit bit66 [] = .ok () := rfl

/-- What the checks of R154 find at an address that leads to a place. -/
structure Passes (s : State) (L : LaneCtx) (x : Context) (want : Want) (n : Nat) (p : Nat × Nat) (q : Place) : Prop where
  aperture : p.2 / 2 ^ 56 < 3
  scratchpad : p.2 / 2 ^ 56 = 1 → p.2 % 2 ^ 56 < spadSizeOf s L.w
  stack : p.2 / 2 ^ 56 = 2 → p.2 % 2 ^ 56 < stackSizeOf s L.w
  aligned : p.2 % n = 0
  trans : laneTrans s x L.wid L.w want p = .to q

theorem LeadsTo.passes {s : State} {L : LaneCtx} {want : Want} {n c : Nat} {x : Context} {p : Nat × Nat} {q : Place}
    (h : LeadsTo s L want n p q) (hx : InContext s L.w c x) : Passes s L x want n p q := by
  obtain ⟨hal, ⟨off, he, hlt, hsize, rfl⟩ | ⟨off, he, hlt, hsize, rfl⟩ | ⟨hlt, c', x', hx', ht⟩⟩ := h
  · have hap : p.2 / 2 ^ 56 = 1 := by omega
    have hoff : p.2 % 2 ^ 56 = off := by omega
    exact ⟨by omega, fun _ => hoff ▸ hsize, fun h2 => by omega, hal, by simp only [laneTrans, hap, hoff]⟩
  · have hap : p.2 / 2 ^ 56 = 2 := by omega
    have hoff : p.2 % 2 ^ 56 = off := by omega
    exact ⟨by omega, fun h1 => by omega, fun _ => hoff ▸ hsize, hal, by simp only [laneTrans, hap, hoff]⟩
  · have hap : p.2 / 2 ^ 56 = 0 := Nat.div_eq_of_lt hlt
    obtain ⟨rfl, rfl⟩ : c' = c ∧ x' = x := by simpa using hx'.symm.trans hx
    exact ⟨by omega, fun h1 => by omega, fun h2 => by omega, hal, by simp only [laneTrans, hap, Nat.mod_eq_of_lt hlt, ht]⟩

/-- Lanes whose addresses all lead to places pass the checks of R154. -/
theorem reachLanes_leads {s : State} {L : LaneCtx} {want : Want} {n c : Nat} {x : Context} {addrs : List (Nat × Nat)}
    {goal : Nat × Nat → Place} (hx : InContext s L.w c x) (h : ∀ p ∈ addrs, LeadsTo s L want n p (goal p)) :
    reachLanes s L.wid L.w want n addrs = .ok (.at (addrs.map (fun p => (p.1, goal p)))) := by
  have hp : ∀ p ∈ addrs, Passes s L x want n p (goal p) := fun p hp => (h p hp).passes hx
  have hctx : ctxRes s L.w = .ok (c, x) := by rw [ctxRes, show ctxRec s L.w = some (c, x) from hx]; rfl
  have none {t : Nat × Nat → Bool} (ht : ∀ p ∈ addrs, t p = false) : addrs.filter t = [] :=
    List.filter_eq_nil_iff.mpr fun p hp => by simp [ht p hp]
  have hts : addrs.map (fun p => (p, laneTrans s x L.wid L.w want p)) = addrs.map (fun p => (p, Trans.to (goal p))) :=
    List.map_congr_left fun p hpm => by rw [(hp p hpm).trans]
  have h1 : addrs.filter (fun p => decide (3 ≤ p.2 / 2 ^ 56)) = [] := none fun p hpm => by
    have := (hp p hpm).aperture
    exact decide_eq_false (by omega)
  have h2 : addrs.filter (fun p => p.2 / 2 ^ 56 == 1 && decide (spadSizeOf s L.w ≤ p.2 % 2 ^ 56)) = [] := none fun p hpm => by
    have := (hp p hpm).scratchpad
    by_cases hap : p.2 / 2 ^ 56 = 1
    · rw [decide_eq_false (by have := this hap; omega), Bool.and_false]
    · rw [beq_eq_false_iff_ne.mpr hap, Bool.false_and]
  have h3 : addrs.filter (fun p => p.2 / 2 ^ 56 == 2 && decide (stackSizeOf s L.w ≤ p.2 % 2 ^ 56)) = [] := none fun p hpm => by
    have := (hp p hpm).stack
    by_cases hap : p.2 / 2 ^ 56 = 2
    · rw [decide_eq_false (by have := this hap; omega), Bool.and_false]
    · rw [beq_eq_false_iff_ne.mpr hap, Bool.false_and]
  have h4 : addrs.filter (fun p => decide (p.2 % n ≠ 0)) = [] := none fun p hpm => by simp [(hp p hpm).aligned]
  have noTrans {t : (Nat × Nat) × Trans → Bool} (ht : ∀ p, t (p, .to (goal p)) = false) :
      (addrs.map (fun p => (p, Trans.to (goal p)))).filter t = [] := by
    rw [List.filter_eq_nil_iff]
    simp only [List.mem_map]
    rintro _ ⟨p, -, rfl⟩
    simp [ht p]
  have h5 : (addrs.map (fun p => (p, Trans.to (goal p)))).filter (fun t => t.2 == .denied) = [] := noTrans fun _ => rfl
  have h8 : (addrs.map (fun p => (p, Trans.to (goal p)))).all (fun t => t.2 != .copyFirst) = true := by
    rw [List.all_eq_true]
    simp only [List.mem_map]
    rintro _ ⟨p, -, rfl⟩
    rfl
  unfold reachLanes
  simp only [h1, h2, h3, h4, failLanes_nil, res_ok_bind, hctx, hts, h5, List.map_nil]
  rw [noTrans, noTrans]
  · simp only [h8, waitUnless_true, res_ok_bind, List.filterMap_map]
    rw [← List.filterMap_eq_map]
    rfl
  · exact fun _ => rfl
  · exact fun _ => rfl

/-! ## Gates of an instruction with per-lane addresses (R69, R153) -/

theorem addrGates_ready {L : LaneCtx} {f : VM} {srcs : List Src} {dsts : List Operand}
    (ha : ∀ q ∈ addrSrcs f, OperandReady L L.lanes q.o) (hpair : f.am = true → ∀ n, f.a = .v n → n.toNat + 1 < L.alloc)
    (hs : ∀ x ∈ srcs, OperandReady L L.lanes x.o) (hd : ∀ o ∈ dsts, OperandReady L L.lanes o) : addrGates L f srcs dsts = .ok () := by
  have hfa : OperandReady L L.lanes f.a := by
    have hmem : (⟨f.a, f.ea, 0⟩ : Src) ∈ addrSrcs f := by unfold addrSrcs; split_ifs <;> simp
    exact ha _ hmem
  have halloc : allocCheck L (dsts ++ [f.a]) = .ok () := by
    apply allocCheck_ready (lanes := L.lanes)
    intro o ho
    rw [List.mem_append, List.mem_singleton] at ho
    obtain ho | rfl := ho
    · exact hd o ho
    · exact hfa
  have hcheck : pairCheck L f = .ok () := by
    unfold pairCheck
    split
    · next n hm hn => rw [decide_eq_true (hpair hm n hn), ensure_true]
    · rfl
  have hgates : gates L L.lanes (addrSrcs f ++ srcs) dsts = .ok () := by
    apply gates_ready _ hd
    intro x hx
    rw [List.mem_append] at hx
    exact hx.elim (ha x) (hs x)
  simp only [addrGates, halloc, hcheck, hgates, res_ok_bind]

theorem ready_of_regs {L : LaneCtx} {o : Operand} {k : Nat} {e : Bool} (h : ∀ r ∈ regsFrom o k, OperandReady L L.lanes r) :
    ∀ x ∈ (regsFrom o k).map (fun o => (⟨o, e, 0⟩ : Src)), OperandReady L L.lanes x.o := by
  simp only [List.mem_map]
  rintro _ ⟨r, hr, rfl⟩
  exact h r hr

/-! ## The issue of a lane access (R155) -/

theorem placeLanes_map (acc : Nat → LaneAcc) (addr : Nat → Nat) (goal : Nat × Nat → Place) (ls : List Nat) :
    placeLanes ((ls.map (fun l => (l, addr l))).map (fun p => (p.1, goal p))) (ls.map acc)
      = ls.map (fun l => { acc l with place := goal (l, addr l) }) := by
  simp [placeLanes, List.zipWith_map, List.zipWith_self]

/-- An access whose every lane leads to a place, and that meets no logged entry, is entered; with no active lane nothing is. -/
theorem issueLanes_at {s : State} {L : LaneCtx} {i : Instr} {a : Access} {mark : Wave → Wave} {write : Bool} {acc : Nat → LaneAcc}
    {addr : Nat → Nat} {goal : Nat × Nat → Place} (ha : a.lanes = L.lanes.map acc) (haddr : ∀ l, (acc l).addr = addr l)
    (hlog : ∀ l ∈ L.lanes, logBlocks s L.w (addr l) a.width = false) :
    issueLanes i s L a mark write (.at ((L.lanes.map (fun l => (l, addr l))).map (fun p => (p.1, goal p)))) =
      .ok (setWave s L.wid (finishLane i L.actor (if L.lanes = [] then L.w else mark (nextSeq (issueAccess
        { a with lanes := L.lanes.map (fun l => { acc l with place := goal (l, addr l) }) } L.w))))) := by
  have hopen : (L.lanes.map acc).all (fun l => !(logBlocks s L.w l.addr a.width)) = true := by
    rw [List.all_eq_true]
    simp only [List.mem_map]
    rintro _ ⟨l, hl, rfl⟩
    rw [haddr, hlog l hl]; rfl
  simp only [issueLanes, ha, hopen, waitUnless_true, res_ok_bind, placeLanes_map, List.isEmpty_iff, List.map_eq_nil_iff]

section
variable {s : State} {L : LaneCtx} {f : VM} {c : Nat} {y : Context} {goal : Nat × Nat → Place} (h : AtLane s L)
  (ha : ∀ q ∈ addrSrcs f, OperandReady L L.lanes q.o) (hpair : f.am = true → ∀ n, f.a = .v n → n.toNat + 1 < L.alloc)
  (hx : InContext s L.w c y) (hopen : MemoryOpen L.w) (hlog : ∀ l ∈ L.lanes, logBlocks s L.w (laneAddr L f l) (2 ^ f.width.toNat) = false)
include h ha hpair hx hopen hlog

theorem exec_vld_at (hgoal : ∀ l ∈ L.lanes, LeadsTo s L .read (2 ^ f.width.toNat) (l, laneAddr L f l) (goal (l, laneAddr L f l)))
    (hd : ∀ r ∈ regsFrom f.d (widthRegs f.width.toNat), OperandReady L L.lanes r) :
    exec (.vld f) s = .next (setWave s L.wid (finishLane (.vld f) L.actor (if L.lanes = [] then L.w else
      emptyLanesOf f.d (widthRegs f.width.toNat) L.w L.all (nextSeq (issueAccess (laneAccess L (.load f.sx) .vregs (2 ^ f.width.toNat)
        f.scope.toNat f.order.toNat f.hint.toNat (L.lanes.map (fun l =>
          { laneAcc L f.d (laneAddr L f) (fun _ => 0) (fun _ => 0) l with place := goal (l, laneAddr L f l) }))) L.w))))) := by
  have hreach := reachLanes_leads (addrs := addrList L f) hx (by simpa [addrList] using hgoal)
  rw [exec_vld]
  apply runLane_next h
  simp only [addrGates_ready ha hpair (srcs := []) (by simp) hd, memReady_open hopen, res_ok_bind, widthBytes, hreach]
  exact issueLanes_at rfl (fun _ => rfl) hlog

theorem exec_vst_at (hgoal : ∀ l ∈ L.lanes, LeadsTo s L .write (2 ^ f.width.toNat) (l, laneAddr L f l) (goal (l, laneAddr L f l)))
    (hd : ∀ r ∈ regsFrom f.d (widthRegs f.width.toNat), OperandReady L L.lanes r)
    (haddr : L.shadow = true → ∀ l ∈ L.lanes, laneAddr L f l = laneAddr L f (l + 48))
    (hdata : L.shadow = true → ∀ l ∈ L.lanes, storeData L f l = storeData L f (l + 48)) :
    exec (.vst f) s = .next (setWave s L.wid (finishLane (.vst f) L.actor (if L.lanes = [] then L.w else
      nextSeq (issueAccess (laneAccess L .store .none (2 ^ f.width.toNat) f.scope.toNat f.order.toNat f.hint.toNat (L.lanes.map (fun l =>
          { laneAcc L f.d (laneAddr L f) (storeData L f) (fun _ => 0) l with place := goal (l, laneAddr L f l) }))) L.w)))) := by
  have hreach := reachLanes_leads (addrs := addrList L f) hx (by simpa [addrList] using hgoal)
  have hshadow : shadowCheck L (fun l => [laneAddr L f l, storeData L f l]) = .ok () :=
    shadowCheck_agree fun hs l hl => by rw [haddr hs l hl, hdata hs l hl]
  rw [exec_vst]
  apply runLane_next h
  simp only [addrGates_ready ha hpair (dsts := []) (ready_of_regs hd) (by simp), memReady_open hopen, hshadow, res_ok_bind, widthBytes,
    hreach]
  exact issueLanes_at rfl (fun _ => rfl) hlog

end

/-- VATOM and VCAS: the comparand registers are read by VCAS alone (R159, R160). -/
theorem laneAtomic_at {s : State} {L : LaneCtx} (i : Instr) {x : VMX} {op : AtomicOp} {cmp : Nat → Nat} {c : Nat} {y : Context}
    {goal : Nat × Nat → Place} (h : AtLane s L) (ha : ∀ q ∈ addrSrcs x.m, OperandReady L L.lanes q.o)
    (hpair : x.m.am = true → ∀ n, x.m.a = .v n → n.toNat + 1 < L.alloc) (hx : InContext s L.w c y) (hopen : MemoryOpen L.w)
    (hlog : ∀ l ∈ L.lanes, logBlocks s L.w (laneAddr L x.m l) (2 ^ x.m.width.toNat) = false)
    (hgoal : ∀ l ∈ L.lanes, LeadsTo s L .atomic (2 ^ x.m.width.toNat) (l, laneAddr L x.m l) (goal (l, laneAddr L x.m l)))
    (hd : ∀ r ∈ regsFrom x.m.d (widthRegs x.m.width.toNat), OperandReady L L.lanes r)
    (hb : x.b ≠ .imm 0 → ∀ r ∈ regsFrom x.b (widthRegs x.m.width.toNat), OperandReady L L.lanes r)
    (hcmp : (fun l => if op = .cas then laneData L x.c x.ec (widthRegs x.m.width.toNat) l else 0) = cmp)
    (hc : op = .cas → ∀ r ∈ regsFrom x.c (widthRegs x.m.width.toNat), OperandReady L L.lanes r)
    (haddr : L.shadow = true → ∀ l ∈ L.lanes, laneAddr L x.m l = laneAddr L x.m (l + 48))
    (hdata : L.shadow = true → ∀ l ∈ L.lanes, laneData L x.m.d x.m.ed (widthRegs x.m.width.toNat) l
      = laneData L x.m.d x.m.ed (widthRegs x.m.width.toNat) (l + 48))
    (hcs : L.shadow = true → ∀ l ∈ L.lanes, cmp l = cmp (l + 48)) :
    laneAtomic i x op s = .next (setWave s L.wid (finishLane i L.actor (if L.lanes = [] then L.w else
      (fun u => if x.b = .imm 0 then u else emptyLanesOf x.b (widthRegs x.m.width.toNat) L.w L.all u)
        (nextSeq (issueAccess (laneAccess L (.atomic op) (if x.b = .imm 0 then .none else .vregs) (2 ^ x.m.width.toNat) x.m.scope.toNat
          x.m.order.toNat x.m.hint.toNat (L.lanes.map (fun l =>
            { laneAcc L x.b (laneAddr L x.m) (fun l => laneData L x.m.d x.m.ed (widthRegs x.m.width.toNat) l) cmp l with
              place := goal (l, laneAddr L x.m l) }))) L.w))))) := by
  subst hcmp
  have hreach := reachLanes_leads (addrs := addrList L x.m) hx (by simpa [addrList] using hgoal)
  have hsrcs : ∀ q ∈ (if op = .cas then (regsFrom x.c (widthRegs x.m.width.toNat)).map (fun o => (⟨o, x.ec, 0⟩ : Src)) else [])
      ++ (regsFrom x.m.d (widthRegs x.m.width.toNat)).map (fun o => (⟨o, x.m.ed, 0⟩ : Src)), OperandReady L L.lanes q.o := by
    intro q hq
    rw [List.mem_append] at hq
    obtain hq | hq := hq
    · by_cases hop : op = .cas
      · rw [if_pos hop] at hq
        exact ready_of_regs (hc hop) q hq
      · rw [if_neg hop] at hq
        cases hq
    · exact ready_of_regs hd q hq
  have hshadow : shadowCheck L (fun l => [laneAddr L x.m l, laneData L x.m.d x.m.ed (widthRegs x.m.width.toNat) l,
      if op = .cas then laneData L x.c x.ec (widthRegs x.m.width.toNat) l else 0]) = .ok () :=
    shadowCheck_agree fun hs l hl => by
      have hcmp := hcs hs l hl
      dsimp only at hcmp
      rw [haddr hs l hl, hdata hs l hl, hcmp]
  apply runLane_next h
  by_cases hnone : x.b = .imm 0
  · simp only [hnone, decide_true, Bool.not_true, Bool.false_eq_true, if_false, if_true,
      addrGates_ready ha hpair (dsts := []) hsrcs (by simp), memReady_open hopen, hshadow, res_ok_bind, widthBytes, hreach]
    exact issueLanes_at rfl (fun _ => rfl) hlog
  · simp only [hnone, decide_false, Bool.not_false, if_false, if_true,
      addrGates_ready ha hpair hsrcs (hb hnone), memReady_open hopen, hshadow, res_ok_bind, widthBytes, hreach]
    exact issueLanes_at rfl (fun _ => rfl) hlog

theorem atomicOf_ne_cas (code : Nat) : atomicOf code ≠ .cas := by
  unfold atomicOf
  split <;> exact nofun

/-! ## Prefetches (R162) -/

theorem onlyCaches_refl (s : State) : OnlyCaches s s := ⟨rfl, rfl, rfl, rfl, rfl⟩

theorem prefetchLanes_rest (wid : Nat) (w : Wave) (hint : Nat) (addr : Nat → Nat) : ∀ (ls : List Nat) (s : State),
    OnlyCaches s (ls.foldl (fun t l => prefetchAt t wid w hint (addr l)) s)
  | [], s => onlyCaches_refl s
  | l :: r, s => (prefetchAt_rest s wid w hint (addr l)).trans (prefetchLanes_rest wid w hint addr r _)

theorem exec_vprf_ready {s : State} {L : LaneCtx} {f : VM} (h : AtLane s L) (ha : ∀ q ∈ addrSrcs f, OperandReady L L.lanes q.o)
    (hpair : f.am = true → ∀ n, f.a = .v n → n.toNat + 1 < L.alloc) :
    exec (.vprf f) s = .next (modWave (L.lanes.foldl (fun t l => prefetchAt t L.wid L.w f.hint.toNat (laneAddr L f l)) s) L.wid
      (finishLane (.vprf f) L.actor)) := by
  rw [exec_vprf]
  apply runLane_next h
  simp only [addrGates_ready ha hpair (srcs := []) (dsts := []) (by simp) (by simp), res_ok_bind]

/-- Settles O15: each access passes its gates and checks and is entered by `issueLanes`. -/
theorem laneMemoryIssues : Obligations.LaneMemoryIssues := by
  rintro s L _ x h rfl ha hpair k n addr ready agree none0 data stored dest back
  refine ⟨fun c y goal hx hopen hlog => ?_, _, prefetchLanes_rest _ _ _ _ _ _, exec_vprf_ready h ha hpair⟩
  intro leads acc gives
  refine ⟨fun hgoal hd => exec_vld_at (goal := fun p => goal p.1) h ha hpair hx hopen hlog hgoal hd,
    fun hgoal hd haddr hdata => exec_vst_at (goal := fun p => goal p.1) h ha hpair hx hopen hlog hgoal hd haddr hdata,
    fun hgoal hd hb haddr hdata => ⟨?_, fun hc hcs => ?_⟩⟩
  · exact (exec_vatom x s).trans (laneAtomic_at (goal := fun p => goal p.1) (.vatom x) h ha hpair hx hopen hlog hgoal hd hb
      (funext fun _ => if_neg (atomicOf_ne_cas _)) (fun hop => absurd hop (atomicOf_ne_cas _)) haddr hdata (fun _ _ _ => rfl))
  · exact (exec_vcas x s).trans (laneAtomic_at (goal := fun p => goal p.1) (.vcas x) h ha hpair hx hopen hlog hgoal hd hb
      (funext fun _ => if_pos rfl) (fun _ => hc) haddr hdata hcs)

end Sys2Proof.Machine
end

/-! # Accumulators and tiles (R165 to R171) -/

section
namespace Sys2Proof.Machine

open Sys2Proof.Laws

/-! ## The fields of a VT instruction (R61, R83) -/

/-- The direct registers that a VT instruction names lie within the allocation. -/
theorem allocCheck_vt {L : LaneCtx} {f : VT} {os : List Operand} {field : Operand}
    (hdir : ∀ n, (f.a = .v n ∨ f.b = .v n ∨ f.d = .v n) → n.toNat < L.alloc) (hfield : ∀ n, field = .v n → n.toNat < L.alloc)
    (hos : ∀ o ∈ os, o = f.a ∨ o = f.b ∨ o = f.d ∨ o = field) : allocCheck L os = .ok () := by
  apply allocCheck_direct
  intro n hn
  obtain h | h | h | h := hos _ hn
  · exact hdir n (.inl h.symm)
  · exact hdir n (.inr (.inl h.symm))
  · exact hdir n (.inr (.inr h.symm))
  · exact hfield n h.symm

theorem mem_accSrcs {f : VT} {load : Bool} {x : Src} (h : x ∈ accSrcs f load) : x.o = f.a ∨ x.o = f.b ∨ x.o = f.d := by
  cases load with
  | true =>
    obtain rfl | rfl : x = ⟨f.a, f.ea, 0⟩ ∨ x = ⟨f.b, f.eb, 0⟩ := by simpa [accSrcs] using h
    · exact .inl rfl
    · exact .inr (.inl rfl)
  | false =>
    obtain rfl | rfl | rfl : x = ⟨f.a, f.ea, 0⟩ ∨ x = ⟨f.b, f.eb, 0⟩ ∨ x = ⟨f.d, f.ed, 0⟩ := by simpa [accSrcs] using h
    · exact .inl rfl
    · exact .inr (.inl rfl)
    · exact .inr (.inr rfl)

theorem mem_accDsts {f : VT} {load : Bool} {o : Operand} (h : o ∈ accDsts f load) : o = f.d := by
  cases load with
  | true => simpa [accDsts] using h
  | false => simp [accDsts] at h

/-- The operands of a VT instruction are ready in some lanes. -/
structure VtReady (M : LaneCtx) (f : VT) (ls : List Nat) : Prop where
  a : OperandReady M ls f.a
  b : OperandReady M ls f.b
  d : OperandReady M ls f.d

theorem VtReady.srcs {M : LaneCtx} {f : VT} {ls : List Nat} (h : VtReady M f ls) (load : Bool) :
    ∀ x ∈ accSrcs f load, OperandReady M ls x.o := by
  intro x hx
  obtain he | he | he := mem_accSrcs hx <;> rw [he]
  · exact h.a
  · exact h.b
  · exact h.d

theorem VtReady.dsts {M : LaneCtx} {f : VT} {ls : List Nat} (h : VtReady M f ls) (load : Bool) :
    ∀ o ∈ accDsts f load, OperandReady M ls o := by
  intro o ho
  rw [mem_accDsts ho]
  exact h.d

/-- The field that names a tile or tensor: the W register, or the plain form's field. -/
def vtField (f : VT) (q : Bool) (num : Nat) : Src := if f.w then ⟨.v f.wreg, f.ew, 0⟩ else ⟨uniformSrc q num, false, 0⟩

/-- What the field needs: its register allocated and, at the first issue, full; or its q register full. -/
def VtFieldReady (L : LaneCtx) (f : VT) (q : Bool) (num : Nat) : Prop :=
  if f.w then f.wreg.toNat < L.alloc ∧ (L.rest = [] → OperandReady L L.lanes (.v f.wreg)) else (q = true → qFull L (num % 16) = true)

theorem uniformSrc_ready {L : LaneCtx} {q : Bool} {num : Nat} (h : q = true → qFull L (num % 16) = true) :
    OperandReady L L.lanes (uniformSrc q num) := by
  cases q with
  | true => simpa [uniformSrc, OperandReady] using h rfl
  | false => trivial

theorem vtField_alloc {L : LaneCtx} {f : VT} {q : Bool} {num : Nat} (h : VtFieldReady L f q num) :
    ∀ n, (vtField f q num).o = .v n → n.toNat < L.alloc := by
  intro n hn
  unfold VtFieldReady at h
  unfold vtField at hn
  cases hw : f.w with
  | true =>
    rw [hw, if_pos rfl] at h hn
    obtain rfl : f.wreg = n := by simpa using hn
    exact h.1
  | false => cases q <;> simp [hw, uniformSrc] at hn

/-- The issues of a VT instruction: one, or one for each number in its W register that is still to come. -/
def vtGroups (L : LaneCtx) (f : VT) (q : Bool) (num : Nat) : List (Nat × List Nat) :=
  if f.w then (if L.rest = [] then groupsOf (fun l => (vVal L.w f.wreg.toNat l).toNat) 96 L.lanes else L.rest)
  else [(uniformVal L q num, L.lanes)]

theorem vtGroups_of_w {L : LaneCtx} {f : VT} {q : Bool} {num : Nat} (h : VtFieldReady L f q num) (hw : f.w = true) :
    waterGroups L (vtField f q num) (fun l => (vVal L.w f.wreg.toNat l).toNat) = .ok (vtGroups L f q num) := by
  have hready : L.rest = [] → OperandReady L L.lanes (vtField f q num).o := by
    rw [VtFieldReady, hw, if_pos rfl] at h
    rw [vtField, hw, if_pos rfl]
    exact h.2
  rw [waterGroups_ready _ hready, vtGroups, hw, if_pos rfl]

/-! ## Accumulator elements (R170, R171) -/

theorem coordCheck_inside {L : LaneCtx} {f : VT} {ls : List Nat} (h : ∀ l ∈ ls, rowOf L f l < 16 ∧ colOf L f l < 16) :
    coordCheck L f ls = .ok () := by
  have hnone : ls.filter (fun l => decide (15 < rowOf L f l) || decide (15 < colOf L f l)) = [] := by
    rw [List.filter_eq_nil_iff]
    intro l hl
    obtain ⟨hr, hc⟩ := h l hl
    rw [decide_eq_false (by omega), decide_eq_false (by omega)]
    simp
  simp only [coordCheck, hnone]

section
variable {f : VT} {L : LaneCtx} {tile : Nat} {ls : List Nat} {u : State}
  (hready : VtReady (L.over u ls) f ls) (htile : tile < accCountOf u (L.over u ls).w)
  (hin : ∀ l ∈ ls, rowOf (L.over u ls) f l < 16 ∧ colOf (L.over u ls) f l < 16)
include hready htile hin

theorem accIssue_load (hopen : MemoryOpen (L.over u ls).w) :
    accIssue f true L tile ls u = .ok (setWave u L.wid (if ls = [] then (L.over u ls).w else
      emptyLanesOf f.d 1 (L.over u ls).w (L.over u ls).all (nextSeq (enterAccess { laneAccess (L.over u ls) (.load false) .vregs 4 0 0 0
        (ls.map (laneAcc (L.over u ls) f.d (fun l => accKey tile (rowOf (L.over u ls) f l) (colOf (L.over u ls) f l)) (fun _ => 0)
          (fun _ => 0))) with accTile := some tile } (L.over u ls).w)))) := by
  have hgates : issueGates (L.over u ls) ls (accSrcs f true) (accDsts f true) = .ok () :=
    issueGates_ready (hready.srcs true) (hready.dsts true)
  have hcoord : coordCheck (L.over u ls) f (L.over u ls).lanes = .ok () := coordCheck_inside hin
  simp only [accIssue, tileCheck, htile, if_true, res_ok_bind, hgates, memReady_open hopen, vldaIssue, hcoord, List.isEmpty_iff]
  rfl

theorem accIssue_store
    (hsame : (L.over u ls).shadow = true → ∀ l ∈ ls, rowOf (L.over u ls) f l = rowOf (L.over u ls) f (l + 48)
      ∧ colOf (L.over u ls) f l = colOf (L.over u ls) f (l + 48)
      ∧ srcWord (L.over u ls) none ⟨f.d, f.ed, 0⟩ l = srcWord (L.over u ls) none ⟨f.d, f.ed, 0⟩ (l + 48))
    (hloads : ∀ a ∈ (L.over u ls).w.loads, a.accTile ≠ some tile) :
    accIssue f false L tile ls u =
      (let M := L.over u ls
       let hot := pendingInto u M.w.team tile
       let key := fun l => accKey tile (rowOf M f l) (colOf M f l)
       let t := ls.foldl (fun t l => modWave (storeAcc t M.w.team (key l) (srcWord M none ⟨f.d, f.ed, 0⟩ l) hot) L.wid (markAcc (key l))) u
       .ok (if hot = true ∧ ls ≠ [] then modWave t L.wid (setFlags 4) else t)) := by
  have hgates : issueGates (L.over u ls) ls (accSrcs f false) (accDsts f false) = .ok () :=
    issueGates_ready (hready.srcs false) (hready.dsts false)
  have hcoord : coordCheck (L.over u ls) f (L.over u ls).lanes = .ok () := coordCheck_inside hin
  have hshadow : shadowCheck (L.over u ls) (fun l => [rowOf (L.over u ls) f l, colOf (L.over u ls) f l,
      (srcWord (L.over u ls) none ⟨f.d, f.ed, 0⟩ l).toNat]) = .ok () :=
    shadowCheck_agree fun hs l hl => by
      obtain ⟨hr, hc, hw⟩ := hsame hs l hl
      rw [hr, hc, hw]
  have hall : (L.over u ls).w.loads.all (fun a => a.accTile != some tile) = true :=
    List.all_eq_true.mpr fun a ha => bne_iff_ne.mpr (hloads a ha)
  have hne : (pendingInto u (L.over u ls).w.team tile && !(L.over u ls).lanes.isEmpty) = true
      ↔ pendingInto u (L.over u ls).w.team tile = true ∧ ls ≠ [] := by
    rw [Bool.and_eq_true, Bool.not_eq_true', ← Bool.not_eq_true, List.isEmpty_iff]; rfl
  simp only [accIssue, tileCheck, htile, if_true, res_ok_bind, hgates, Bool.false_eq_true, if_false, hshadow, vstaIssue, hcoord, hall,
    waitUnless_true, hne]
  rfl

end

/-- An accumulator instruction whose issues all complete moves on (R61). -/
theorem accInstr_issues {s t : State} {L : LaneCtx} (i : Instr) {f : VT} {load : Bool} (h : AtLane s L)
    (hdir : ∀ n, (f.a = .v n ∨ f.b = .v n ∨ f.d = .v n) → n.toNat < L.alloc) (hfield : VtFieldReady L f f.aq f.acc.toNat)
    (hsame : load = false → f.w = true → L.rest = [] → L.shadow = true →
      ∀ l ∈ L.lanes, (vVal L.w f.wreg.toNat l).toNat = (vVal L.w f.wreg.toNat (l + 48)).toNat)
    (hready : f.w = false → VtReady L f L.lanes)
    (hissues : IssuesInTurn (accIssue f load L) (vtGroups L f f.aq f.acc.toNat) s t) :
    accInstr i f load s = .next (afterParts i L f.w t) := by
  have halloc : allocCheck L (accDsts f load ++ (accSrcs f load ++ [vtField f f.aq f.acc.toNat]).map (fun x => x.o)) = .ok () := by
    apply allocCheck_vt hdir (vtField_alloc hfield)
    intro o ho
    simp only [List.mem_append, List.mem_map, List.mem_singleton] at ho
    obtain ho | ⟨x, hx | rfl, rfl⟩ := ho
    · exact .inr (.inr (.inl (mem_accDsts ho)))
    · obtain he | he | he := mem_accSrcs hx <;> simp [he]
    · simp
  apply runLane_next h
  cases hw : f.w with
  | true =>
    have hgroups := vtGroups_of_w hfield hw
    rw [vtField, hw, if_pos rfl] at halloc hgroups
    simp only [if_true, halloc, hgroups, res_ok_bind, waterRun_issues hissues, afterParts]
    split_ifs with hskip
    · rfl
    · obtain ⟨hl, hr⟩ : load = false ∧ L.rest = [] := by simpa using hskip
      rw [shadowCheck_agree fun hs l hm => by rw [hsame hl hw hr hs l hm], res_ok_bind]
  | false =>
    obtain ⟨u, hu, rfl⟩ : ∃ u, accIssue f load L (uniformVal L f.aq f.acc.toNat) L.lanes s = .ok u ∧ t = u := by
      rw [vtGroups, hw, if_neg (by simp)] at hissues
      exact hissues
    have hsrc : OperandReady L L.lanes (uniformSrc f.aq f.acc.toNat) := by
      rw [VtFieldReady, hw, if_neg (by simp)] at hfield
      exact uniformSrc_ready hfield
    have hgates : issueGates L L.lanes (accSrcs f load ++ [⟨uniformSrc f.aq f.acc.toNat, false, 0⟩]) (accDsts f load) = .ok () := by
      apply issueGates_ready _ ((hready hw).dsts load)
      intro x hx
      rw [List.mem_append, List.mem_singleton] at hx
      obtain hx | rfl := hx
      · exact (hready hw).srcs load x hx
      · exact hsrc
    rw [vtField, hw, if_neg (by simp)] at halloc
    simp only [Bool.false_eq_true, if_false, halloc, hgates, res_ok_bind, hu, afterParts]

/-- Settles O17: each issue of VLDA or VSTA is `accIssue`, and they run in turn. -/
theorem accumulatorAccess : Obligations.AccumulatorAccess := by
  intro s L f h hdir hfield number groups ends part word key usable loads agree stores same t
  have inSelf {tile : Nat} (hu : usable tile L.lanes s) : VtReady L f L.lanes := by
    obtain ⟨ha, hb, hd, -, -⟩ := hu
    exact over_self h ▸ (⟨ha, hb, hd⟩ : VtReady (L.over s L.lanes) f L.lanes)
  refine ⟨fun hrun => ?_, fun hsame hrun => ?_⟩
  · have hstep (p : Nat × List Nat) (u u' : State) (hl : loads p.1 p.2 u u') : accIssue f true L p.1 p.2 u = .ok u' := by
      obtain ⟨⟨ha, hb, hd, htile, hin⟩, hopen, rfl⟩ := hl
      exact accIssue_load ⟨ha, hb, hd⟩ htile hin hopen
    have hready (hw : f.w = false) : VtReady L f L.lanes := by
      have hone : groups = [(uniformVal L f.aq f.acc.toNat, L.lanes)] := if_neg (by simp [hw])
      rw [hone] at hrun
      obtain ⟨u, ⟨hu, -⟩, -⟩ := hrun
      exact inSelf hu
    exact (exec_vlda f s).trans (accInstr_issues (.vlda f) h hdir hfield (by simp) hready (inTurn_mono hstep groups s t hrun))
  · have hstep (p : Nat × List Nat) (u u' : State) (hl : stores p.1 p.2 u u') : accIssue f false L p.1 p.2 u = .ok u' := by
      obtain ⟨⟨ha, hb, hd, htile, hin⟩, hagree, hloads, rfl⟩ := hl
      exact accIssue_store ⟨ha, hb, hd⟩ htile hin hagree hloads
    have hready (hw : f.w = false) : VtReady L f L.lanes := by
      have hone : groups = [(uniformVal L f.aq f.acc.toNat, L.lanes)] := if_neg (by simp [hw])
      rw [hone] at hrun
      obtain ⟨u, ⟨hu, -⟩, -⟩ := hrun
      exact inSelf hu
    exact (exec_vsta f s).trans (accInstr_issues (.vsta f) h hdir hfield (fun _ => hsame) hready (inTurn_mono hstep groups s t hrun))

end Sys2Proof.Machine
end

/-! # Tile loads, stores and encodings (R165 to R169) -/

section
namespace Sys2Proof.Machine

open Sys2Proof.Laws

/-! ## One issue (R165 to R167) -/

/-- What an issue of a tile instruction needs of its operands, its tensor and the log. -/
structure TileUsable (u : State) (M : LaneCtx) (f : VT) (op : TileOp) (v : Nat) (t : Tensor) (ls : List Nat) : Prop where
  ready : VtReady M f ls
  room : MemoryOpen M.w
  number : v < 64
  installed : installPending M.w v = false
  named : tensorOf u M.w v = some t
  suits : tensorSuits op f.mode.toNat t = true
  palette : installPending M.w (72 + t.palette) = false
  codes : installPending M.w (64 + t.codeTable) = false
  clear : ∀ e ∈ M.w.log, ∀ a ∈ logRegions e.body, ∀ b ∈ reqRegions (tileReq u M f op v t ls), locationsMeet u M.w a b = false

theorem namedTensor_ready {u : State} {M : LaneCtx} {f : VT} {op : TileOp} {v : Nat} {t : Tensor} {ls : List Nat} (i : Instr) (mask : Nat)
    (h : TileUsable u M f op v t ls) : namedTensor u M i f op v mask = .ok t := by
  simp only [namedTensor, h.number, if_true, h.installed, Bool.not_false, waitUnless_true, res_ok_bind, h.named, h.suits, h.palette, h.codes,
    Bool.and_self]

theorem tileClear {u : State} {M : LaneCtx} {f : VT} {op : TileOp} {v : Nat} {t : Tensor} {ls : List Nat} (h : TileUsable u M f op v t ls) :
    M.w.log.all (fun e => (logRegions e.body).all (fun a => (reqRegions (tileReq u M f op v t ls)).all
      (fun b => !(locationsMeet u M.w a b)))) = true := by
  simp only [List.all_eq_true, Bool.not_eq_true']
  exact h.clear

/-- What the copies of the lanes present agrees with what the lanes present (R164). -/
def CopiesAgree (M : LaneCtx) (f : VT) (ls : List Nat) : Prop :=
  M.shadow = true → ∀ l ∈ ls, rowOf M f l = rowOf M f (l + 48) ∧ colOf M f l = colOf M f (l + 48)
    ∧ srcWord M none ⟨f.d, f.ed, 0⟩ l = srcWord M none ⟨f.d, f.ed, 0⟩ (l + 48)

/-- An issue whose checks pass does what its request does, and takes an issue number. -/
theorem tileIssue_applies {u u' : State} {L : LaneCtx} {f : VT} {op : TileOp} {v c : Nat} {t : Tensor} {ls : List Nat} {x : Context}
    (i : Instr) (h : TileUsable u (L.over u ls) f op v t ls) (hagree : op ≠ .load → CopiesAgree (L.over u ls) f ls)
    (hcoords : tileCoords op (tileReq u (L.over u ls) f op v t ls) = .ok ())
    (hbase : op = .store → f.mode.toNat = 2 → f.base.toNat % packedCount t = 0) (hx : InContext u (L.over u ls).w c x)
    (happly : tileApply u L.wid (L.over u ls).w x L.actor L.pc (q3Of (L.over u ls).w % 2 ^ 32) L.entry (L.over u ls).w.seq
      (tileReq u (L.over u ls) f op v t ls) = .ok u') :
    tileIssue i f op L v ls u = .ok (modWave u' L.wid (fun w =>
      if op = .load then emptyLanesOf f.d 1 (L.over u ls).w (L.over u ls).all (nextSeq w) else nextSeq w)) := by
  have hgates : issueGates (L.over u ls) ls (vtSrcs f op) (vtDsts f op) = .ok () :=
    issueGates_ready (h.ready.srcs _) (h.ready.dsts _)
  have hctx : ctxRes u (L.over u ls).w = .ok (c, x) := by rw [ctxRes, show ctxRec u (L.over u ls).w = some (c, x) from hx]; rfl
  have hshadow (hop : op ≠ .load) : shadowCheck (L.over u ls) (fun l => [rowOf (L.over u ls) f l, colOf (L.over u ls) f l,
      (srcWord (L.over u ls) none ⟨f.d, f.ed, 0⟩ l).toNat]) = .ok () :=
    shadowCheck_agree fun hs l hl => by
      obtain ⟨hr, hc, hw⟩ := hagree hop hs l hl
      rw [hr, hc, hw]
  simp only [tileIssue, hgates, memReady_open h.room, res_ok_bind, namedTensor_ready i _ h, hcoords, tileClear h, waitUnless_true, hctx, happly]
  cases op with
  | load => simp
  | store =>
    simp only [hshadow (by simp), res_ok_bind]
    by_cases hm : f.mode.toNat = 2
    · simp [hm, hbase rfl hm]
    · simp [hm]
  | encode => simp only [hshadow (by simp), res_ok_bind]; simp

/-- A lane's part of a tile request: its coordinates and its data. -/
def tileLane (M : LaneCtx) (f : VT) : Nat → LaneAcc :=
  laneAcc M f.d (fun l => rowOf M f l * 2 ^ 32 + colOf M f l) (fun l => (srcWord M none ⟨f.d, f.ed, 0⟩ l).toNat) (fun _ => 0)

/-- The lanes of a request. -/
theorem tileReq_lanes (u : State) (M : LaneCtx) (f : VT) (op : TileOp) (v : Nat) (t : Tensor) (ls : List Nat) :
    (tileReq u M f op v t ls).lanes = ls.map (tileLane M f) := rfl

theorem coordsOk_inside {r : TileReq} (h : ∀ l ∈ r.lanes, coordBad r l = none) : coordsOk r = .ok () := by
  have hnone : r.lanes.filter (fun l => (coordBad r l).isSome) = [] := List.filter_eq_nil_iff.mpr fun l hl => by simp [h l hl]
  simp only [coordsOk, hnone]

/-! ## Loads (R167) -/

theorem firstRanked_values {vs : List (LaneAcc × Except TileStop (Nat × BitVec 4))} (h : ∀ v ∈ vs, ∃ y, v.2 = .ok y) :
    ∀ n k, firstRanked vs n k = none
  | 0, _ => rfl
  | n + 1, k => by
    have hnone : ranked k vs = [] := by
      rw [ranked, List.filterMap_eq_nil_iff]
      intro v hv
      obtain ⟨y, hy⟩ := h v hv
      simp only [hy]
    rw [firstRanked, hnone]
    exact firstRanked_values h n (k + 1)

theorem firstStop_values {vs : List (LaneAcc × Except TileStop (Nat × BitVec 4))} (h : ∀ v ∈ vs, ∃ y, v.2 = .ok y) :
    firstStop vs = none := by
  rw [firstStop, List.filterMap_eq_nil_iff.mpr]
  intro v hv
  obtain ⟨y, hy⟩ := h v hv
  simp only [hy]

/-- A load every lane of which has its value. -/
theorem tileLoad_values {u : State} {w : Wave} {wid : Nat} {x : Context} {r : TileReq} {value : LaneAcc → Nat × BitVec 4}
    (hvalues : laneValues u w wid x r = r.lanes.map (fun l => (l, .ok (value l)))) (hal : misalignedLanes r = []) :
    tileLoad u w wid x r = .done (r.lanes.map (fun l => deliveredLane r (l, .ok (value l))))
      (r.lanes.foldl (fun g l => g ||| (value l).2) 0) := by
  have hall : ∀ v ∈ r.lanes.map (fun l => (l, (.ok (value l) : Except TileStop (Nat × BitVec 4)))), ∃ y, v.2 = .ok y := by
    simp only [List.mem_map]
    rintro _ ⟨l, -, rfl⟩
    exact ⟨_, rfl⟩
  simp only [tileLoad, hvalues, hal, failLanes_nil, firstRanked_values hall, firstStop_values hall, ite_self, List.map_map, List.foldl_map]
  rfl

/-- What a load request leaves: it enters with its values, or nothing happens without a lane. -/
theorem tileApply_load {u : State} {w : Wave} {wid : Nat} {x : Context} {a : Actor} {pc block path seq : Nat} {r : TileReq}
    {value : LaneAcc → Nat × BitVec 4} (hop : r.op = .load) (hready : tileReady u w r = true)
    (hvalues : laneValues u w wid x r = r.lanes.map (fun l => (l, .ok (value l)))) (hal : misalignedLanes r = []) :
    tileApply u wid w x a pc block path seq r = .ok (setWave u wid (if r.lanes = [] then w else { w with loads := w.loads ++
      [{ tileAccess a pc block path seq r (r.lanes.map (fun l => deliveredLane r (l, .ok (value l)))) with
         flags := r.lanes.foldl (fun g l => g ||| (value l).2) 0 }] })) := by
  simp only [tileApply, hop, hready, Bool.not_true, Bool.false_eq_true, if_false, tileLoad_values hvalues hal]
  cases hl : r.lanes with
  | nil => rfl
  | cons k ks => simp

theorem tileIssue_load {u : State} {L : LaneCtx} {f : VT} {v c : Nat} {t : Tensor} {ls : List Nat} {x : Context} (i : Instr)
    {value : LaneAcc → Nat × BitVec 4} (hx : InContext u (L.over u ls).w c x) (h : TileUsable u (L.over u ls) f .load v t ls)
    (hcoords : ∀ l ∈ (tileReq u (L.over u ls) f .load v t ls).lanes, coordBad (tileReq u (L.over u ls) f .load v t ls) l = none)
    (hready : tileReady u (L.over u ls).w (tileReq u (L.over u ls) f .load v t ls) = true)
    (hal : misalignedLanes (tileReq u (L.over u ls) f .load v t ls) = [])
    (hvalues : laneValues u (L.over u ls).w L.wid x (tileReq u (L.over u ls) f .load v t ls)
      = (tileReq u (L.over u ls) f .load v t ls).lanes.map (fun l => (l, .ok (value l)))) :
    tileIssue i f .load L v ls u =
      (let M := L.over u ls
       let r := tileReq u M f .load v t ls
       .ok (setWave u L.wid (emptyLanesOf f.d 1 M.w M.all (nextSeq (if ls = [] then M.w else { M.w with loads := M.w.loads ++
         [{ tileAccess L.actor L.pc (q3Of M.w % 2 ^ 32) L.entry M.w.seq r (r.lanes.map (fun l => deliveredLane r (l, .ok (value l)))) with
            flags := r.lanes.foldl (fun g l => g ||| (value l).2) 0 }] }))))) := by
  have happly := tileApply_load (a := L.actor) (pc := L.pc) (block := q3Of (L.over u ls).w % 2 ^ 32) (path := L.entry)
    (seq := (L.over u ls).w.seq) rfl hready hvalues hal
  have hempty : (tileReq u (L.over u ls) f .load v t ls).lanes = [] ↔ ls = [] := by rw [tileReq_lanes, List.map_eq_nil_iff]
  rw [tileIssue_applies i h (by simp) (by simpa only [tileCoords] using coordsOk_inside hcoords) (by simp) hx happly, modWave_setWave]
  simp only [if_true, hempty]

/-! ## Stores (R168) -/

theorem tileApply_store {u : State} {M : LaneCtx} {x : Context} {c : Nat} {a : Actor} {pc block path seq : Nat} {r : TileReq}
    {goal : Nat × Nat → Place} (hop : r.op = .store) (hx : InContext u M.w c x)
    (hgoal : ∀ e ∈ (r.lanes.map (laneElems r)).flatMap (fun e => e.1), LeadsTo u M .write (elemBytes r.t) (e.lane, e.addr) (goal (e.lane, e.addr))) :
    tileApply u M.wid M.w x a pc block path seq r = .ok (setWave u M.wid (setFlags ((r.lanes.map (laneElems r)).foldl (fun g e => g ||| e.2) 0)
      (bufferElems M.w (tileAccess a pc block path seq r []) seq
        (((r.lanes.map (laneElems r)).flatMap (fun e => e.1)).map (fun e => (e, goal (e.lane, e.addr))))))) := by
  have hreach := reachLanes_leads (addrs := ((r.lanes.map (laneElems r)).flatMap (fun e => e.1)).map (fun e => (e.lane, e.addr))) hx (by
    simp only [List.mem_map]
    rintro _ ⟨e, he, rfl⟩
    exact hgoal e he)
  have hzip (ps : List ElemStore) : ps.zip (((ps.map (fun e => (e.lane, e.addr))).map (fun p => (p.1, goal p))).map (fun q => q.2))
      = ps.map (fun e => (e, goal (e.lane, e.addr))) := by
    simp [List.zip, List.zipWith_map_right, List.zipWith_self]
  simp only [tileApply, hop, hreach, hzip]

theorem tileIssue_store {u : State} {L : LaneCtx} {f : VT} {v c : Nat} {t : Tensor} {ls : List Nat} {x : Context} (i : Instr)
    {goal : Nat × Nat → Place} (hx : InContext u (L.over u ls).w c x) (h : TileUsable u (L.over u ls) f .store v t ls)
    (hagree : CopiesAgree (L.over u ls) f ls)
    (hcoords : ∀ l ∈ (tileReq u (L.over u ls) f .store v t ls).lanes, coordBad (tileReq u (L.over u ls) f .store v t ls) l = none)
    (hbase : f.mode = 2 → f.base.toNat % packedCount t = 0)
    (hgoal : ∀ e ∈ ((tileReq u (L.over u ls) f .store v t ls).lanes.map (laneElems (tileReq u (L.over u ls) f .store v t ls))).flatMap
      (fun e => e.1), LeadsTo u (L.over u ls) .write (elemBytes t) (e.lane, e.addr) (goal (e.lane, e.addr))) :
    tileIssue i f .store L v ls u =
      (let M := L.over u ls
       let r := tileReq u M f .store v t ls
       let es := r.lanes.map (laneElems r)
       .ok (setWave u L.wid (nextSeq (setFlags (es.foldl (fun g e => g ||| e.2) 0)
         (bufferElems M.w (tileAccess L.actor L.pc (q3Of M.w % 2 ^ 32) L.entry M.w.seq r []) M.w.seq
           ((es.flatMap (fun e => e.1)).map (fun e => (e, goal (e.lane, e.addr))))))))) := by
  have happly := tileApply_store (a := L.actor) (pc := L.pc) (block := q3Of (L.over u ls).w % 2 ^ 32) (path := L.entry)
    (seq := (L.over u ls).w.seq) rfl hx hgoal
  have hmode (_ : TileOp.store = .store) (hm : f.mode.toNat = 2) : f.base.toNat % packedCount t = 0 :=
    hbase (BitVec.eq_of_toNat_eq hm)
  rw [tileIssue_applies i h (fun _ => hagree) (by simpa only [tileCoords] using coordsOk_inside hcoords) hmode hx happly]
  exact congrArg Except.ok (modWave_setWave _ _ _ _)

/-! ## Encodings (R169) -/

theorem reqRow_lane (M : LaneCtx) (f : VT) (l : Nat) :
    reqRow (tileLane M f l) = rowOf M f l := by
  have hc : colOf M f l < 2 ^ 32 := BitVec.isLt _
  simp only [reqRow, tileLane, laneAcc]
  omega

theorem reqCol_lane (M : LaneCtx) (f : VT) (l : Nat) :
    reqCol (tileLane M f l) = colOf M f l := by
  have hc : colOf M f l < 2 ^ 32 := BitVec.isLt _
  simp only [reqCol, tileLane, laneAcc]
  omega

/-- Whole groups of 16, each inside the tile and not yet staged, of a tile whose entry is not valid, with room to open it. -/
theorem stageCheck_ready {r : TileReq} {team : Team} {entry row col : Nat} {l : LaneAcc} {ls : List LaneAcc} (hl : r.lanes = l :: ls)
    (hrow : reqRow l = row) (hcol : reqCol l = col) (hn : r.lanes.length % 16 = 0) (hentry : entryClass entry = .invalid)
    (hroom : openTileOf team r row col = none → team.openTiles.length < 4)
    (hgroups : ∀ g < r.lanes.length / 16, r.base + g < blockCount r.t
      ∧ ∀ o, openTileOf team r row col = some o → Tbl.find? o.blocks (r.base + g) = none) :
    stageCheck r team entry = .ok () := by
  rw [hl] at hn hgroups
  have hpos : ¬ ((l :: ls).length = 0 ∨ (l :: ls).length % 16 ≠ 0) := by rw [hn]; simp
  have hlt {g : Nat} (hg : g ∈ List.range ((l :: ls).length / 16)) : decide (blockCount r.t ≤ r.base + g) = false :=
    decide_eq_false (by have := (hgroups g (List.mem_range.mp hg)).1; omega)
  unfold stageCheck
  simp only [hl, hrow, hcol, if_neg hpos]
  cases ho : openTileOf team r row col with
  | none =>
    have hbad : (List.range ((l :: ls).length / 16)).find? (fun g => decide (blockCount r.t ≤ r.base + g)) = none :=
      List.find?_eq_none.mpr fun g hg => by simp [hlt hg]
    simp only [Tbl.find?_nil, Option.isSome_none, Bool.or_false, hbad, hentry, ne_eq, not_true, if_false, Option.isNone_none, Bool.true_and,
      decide_eq_true_eq, Nat.not_le.mpr (hroom ho)]
  | some o =>
    have hbad : (List.range ((l :: ls).length / 16)).find? (fun g => decide (blockCount r.t ≤ r.base + g)
        || (Tbl.find? o.blocks (r.base + g)).isSome) = none :=
      List.find?_eq_none.mpr fun g hg => by simp [hlt hg, (hgroups g (List.mem_range.mp hg)).2 o ho]
    simp only [hbad, hentry, ne_eq, not_true, if_false, Option.isNone_some, Bool.false_and, Bool.false_eq_true]

theorem tileIssue_encode {u : State} {L : LaneCtx} {f : VT} {v c l : Nat} {t : Tensor} {ls rest : List Nat} {x : Context} {bs : List Byte}
    {team : Team} (i : Instr) (hls : ls = l :: rest) (hx : InContext u (L.over u ls).w c x) (h : TileUsable u (L.over u ls) f .encode v t ls)
    (hagree : CopiesAgree (L.over u ls) f ls) (hrow : rowOf (L.over u ls) f l < tileRowCount t) (hcol : colOf (L.over u ls) f l < tileColCount t)
    (hready : tileReady u (L.over u ls).w (tileReq u (L.over u ls) f .encode v t ls) = true)
    (hteam : getTeam u (L.over u ls).w.team = some team)
    (hread : readStream u (L.over u ls).w L.wid x t (indexEntryAt t (rowOf (L.over u ls) f l) (colOf (L.over u ls) f l)) 8 = .ok bs)
    (hcheck : stageCheck (tileReq u (L.over u ls) f .encode v t ls) team (natOfBytes bs) = .ok ()) :
    tileIssue i f .encode L v ls u = .ok (modWave (stageIssue u L.wid (L.over u ls).w L.pc (tileReq u (L.over u ls) f .encode v t ls)) L.wid
      nextSeq) := by
  have hlanes := tileReq_lanes u (L.over u ls) f .encode v t ls
  rw [congrArg (List.map _) hls, List.map_cons] at hlanes
  have hcoords : tileCoords .encode (tileReq u (L.over u ls) f .encode v t ls) = .ok () := by
    have hinside : tileInside t (rowOf (L.over u ls) f l) (colOf (L.over u ls) f l) = true := by simp [tileInside, hrow, hcol]
    unfold tileCoords
    rw [hlanes]
    simp only [reqRow_lane, reqCol_lane]
    exact if_pos hinside
  have hentry : stageEntry u (L.over u ls).w L.wid x (tileReq u (L.over u ls) f .encode v t ls) = .ok (natOfBytes bs) := by
    unfold stageEntry
    rw [hlanes]
    simp only [reqRow_lane, reqCol_lane]
    rw [show (tileReq u (L.over u ls) f .encode v t ls).t = t from rfl, hread]
  have happly : tileApply u L.wid (L.over u ls).w x L.actor L.pc (q3Of (L.over u ls).w % 2 ^ 32) L.entry (L.over u ls).w.seq
      (tileReq u (L.over u ls) f .encode v t ls)
      = .ok (stageIssue u L.wid (L.over u ls).w L.pc (tileReq u (L.over u ls) f .encode v t ls)) := by
    simp only [tileApply, show (tileReq u (L.over u ls) f .encode v t ls).op = .encode from rfl, hready, Bool.not_true, Bool.false_eq_true,
      if_false, hentry, hteam, hcheck]
  rw [tileIssue_applies i h (fun _ => hagree) hcoords (by simp) hx happly]
  simp

/-! ## The whole instruction (R61) -/

theorem tileInstr_issues {s t : State} {L : LaneCtx} (i : Instr) {f : VT} {op : TileOp} (h : AtLane s L)
    (hdir : ∀ n, (f.a = .v n ∨ f.b = .v n ∨ f.d = .v n) → n.toNat < L.alloc) (hfield : VtFieldReady L f f.tq f.tid.toNat)
    (hsame : op ≠ .load → f.w = true → L.rest = [] → L.shadow = true →
      ∀ l ∈ L.lanes, (vVal L.w f.wreg.toNat l).toNat = (vVal L.w f.wreg.toNat (l + 48)).toNat)
    (hready : f.w = false → VtReady L f L.lanes)
    (hissues : IssuesInTurn (tileIssue i f op L) (vtGroups L f f.tq f.tid.toNat) s t) :
    tileInstr i f op s = .next (afterParts i L f.w t) := by
  have halloc : allocCheck L (vtDsts f op ++ (vtSrcs f op ++ [vtField f f.tq f.tid.toNat]).map (fun x => x.o)) = .ok () := by
    apply allocCheck_vt hdir (vtField_alloc hfield)
    intro o ho
    simp only [List.mem_append, List.mem_map, List.mem_singleton] at ho
    obtain ho | ⟨x, hx | rfl, rfl⟩ := ho
    · exact .inr (.inr (.inl (mem_accDsts ho)))
    · obtain he | he | he := mem_accSrcs hx <;> simp [he]
    · simp
  apply runLane_next h
  cases hw : f.w with
  | true =>
    have hgroups := vtGroups_of_w hfield hw
    rw [vtField, hw, if_pos rfl] at halloc hgroups
    simp only [if_true, halloc, hgroups, res_ok_bind, waterRun_issues hissues, afterParts]
    split_ifs with hskip
    · rfl
    · obtain ⟨hl, hr⟩ : op ≠ .load ∧ L.rest = [] := by simpa using hskip
      rw [shadowCheck_agree fun hs l hm => by rw [hsame hl hw hr hs l hm], res_ok_bind]
  | false =>
    obtain ⟨u, hu, rfl⟩ : ∃ u, tileIssue i f op L (uniformVal L f.tq f.tid.toNat) L.lanes s = .ok u ∧ t = u := by
      rw [vtGroups, hw, if_neg (by simp)] at hissues
      exact hissues
    have hsrc : OperandReady L L.lanes (uniformSrc f.tq f.tid.toNat) := by
      rw [VtFieldReady, hw, if_neg (by simp)] at hfield
      exact uniformSrc_ready hfield
    have hgates : issueGates L L.lanes (vtSrcs f op ++ [⟨uniformSrc f.tq f.tid.toNat, false, 0⟩]) (vtDsts f op) = .ok () := by
      apply issueGates_ready _ ((hready hw).dsts _)
      intro x hx
      rw [List.mem_append, List.mem_singleton] at hx
      obtain hx | rfl := hx
      · exact (hready hw).srcs _ x hx
      · exact hsrc
    rw [vtField, hw, if_neg (by simp)] at halloc
    simp only [Bool.false_eq_true, if_false, halloc, hgates, res_ok_bind, hu, afterParts]

/-- Settles O16: each issue is one of `tileIssue_load`, `tileIssue_store` and `tileIssue_encode`, and they run in turn. -/
theorem tileInstructions : Obligations.TileInstructions := by
  intro s L f h hdir hfield number groups ends part req access usable agree loads stores stages same t
  have use {u : State} {op : TileOp} {v : Nat} {t : Tensor} {ls : List Nat} (hu : usable u op v t ls) :
      TileUsable u (L.over u ls) f op v t ls := by
    obtain ⟨ha, hb, hd, hroom, hnum, hinst, hnamed, hsuits, hpal, hcodes, hclear⟩ := hu
    exact ⟨⟨ha, hb, hd⟩, hroom, hnum, hinst, hnamed, hsuits, hpal, hcodes, hclear⟩
  have inSelf {op : TileOp} {v : Nat} {t : Tensor} (hu : usable s op v t L.lanes) : VtReady L f L.lanes := by
    simpa only [over_self h] using (use hu).ready
  have one (hw : f.w = false) : groups = [(uniformVal L f.tq f.tid.toNat, L.lanes)] := if_neg (by simp [hw])
  refine ⟨fun hrun => ?_, fun hsame hrun => ?_, fun hsame hrun => ?_⟩
  · have hstep (p : Nat × List Nat) (u u' : State) (hl : loads p.1 p.2 u u') : tileIssue (.vldt f) f .load L p.1 p.2 u = .ok u' := by
      obtain ⟨t, c, x, value, hx, hu, hcoords, hready, hal, hvalues, rfl⟩ := hl
      exact tileIssue_load (.vldt f) hx (use hu) hcoords hready hal hvalues
    have hready (hw : f.w = false) : VtReady L f L.lanes := by
      rw [one hw] at hrun
      obtain ⟨u, ⟨t, c, x, value, hx, hu, -⟩, -⟩ := hrun
      exact inSelf hu
    exact (exec_vldt f s).trans (tileInstr_issues (.vldt f) h hdir hfield (by simp) hready (inTurn_mono hstep groups s t hrun))
  · have hstep (p : Nat × List Nat) (u u' : State) (hl : stores p.1 p.2 u u') : tileIssue (.vstt f) f .store L p.1 p.2 u = .ok u' := by
      obtain ⟨t, c, x, goal, hx, hu, hagree, hcoords, hbase, hgoal, rfl⟩ := hl
      exact tileIssue_store (.vstt f) hx (use hu) hagree hcoords hbase hgoal
    have hready (hw : f.w = false) : VtReady L f L.lanes := by
      rw [one hw] at hrun
      obtain ⟨u, ⟨t, c, x, goal, hx, hu, -⟩, -⟩ := hrun
      exact inSelf hu
    exact (exec_vstt f s).trans (tileInstr_issues (.vstt f) h hdir hfield (fun _ => hsame) hready (inTurn_mono hstep groups s t hrun))
  · have hstep (p : Nat × List Nat) (u u' : State) (hl : stages p.1 p.2 u u') : tileIssue (.vste f) f .encode L p.1 p.2 u = .ok u' := by
      obtain ⟨t, c, x, l, bs, team, hx, hu, hagree, hhead, hrow, hcol, hready, hteam, hread, hentry, hn, hroom, hgroups, rfl⟩ := hl
      obtain ⟨rest, hls⟩ : ∃ rest, p.2 = l :: rest := List.head?_eq_some_iff.mp hhead
      refine tileIssue_encode (.vste f) hls hx (use hu) hagree hrow hcol hready hteam hread ?_
      have hlen : (req u .encode p.1 t p.2).lanes.length = p.2.length := by simp [req, tileReq_lanes]
      refine stageCheck_ready (l := tileLane (L.over u p.2) f l) (ls := rest.map (tileLane (L.over u p.2) f)) ?_ (reqRow_lane _ f l) (reqCol_lane _ f l) (hlen ▸ hn) hentry hroom
        (hlen ▸ hgroups)
      rw [tileReq_lanes]
      exact congrArg (List.map _) hls
    have hready (hw : f.w = false) : VtReady L f L.lanes := by
      rw [one hw] at hrun
      obtain ⟨u, ⟨t, c, x, l, bs, team, hx, hu, -⟩, -⟩ := hrun
      exact inSelf hu
    exact (exec_vste f s).trans (tileInstr_issues (.vste f) h hdir hfield (fun _ => hsame) hready (inTurn_mono hstep groups s t hrun))

end Sys2Proof.Machine
end

/-! # Tables of a context, matrix issues and batches (R203 to R230) -/

section
namespace Sys2Proof.Machine

open Sys2Proof.Laws

/-! ## Installs of an image (R206, R209, R210) -/

/-- The source of an install is read at once when it is full. -/
theorem ceSources_a_full {w : Wave} {f : CE} (h : sFull w f.a.toNat = true) :
    ceSources w f true false false [] = .ok (sVal w f.a.toNat, 0, 0) :=
  ceSources_full (fun _ => h) nofun nofun nofun

theorem installInstr_pending {i : Instr} {f : CE} {id : Nat} {apply : State → Nat → Wave → Dword → Res Applied} {s : State} {wid : Nat}
    {w : Wave} (h : AtControl s wid w) (ha : sFull w f.a.toNat = true) (hp : installPending w id = true) :
    installInstr i f id apply s = .next { s with stalled := true } := by
  apply runControl_wait h
  rw [ceSources_a_full ha, res_ok_bind, hp]
  cases hm : memReadyNow w (.control wid) with
  | ok u => rfl
  | error e =>
    have he : e = .wait := by
      simp only [memReadyNow, waitUnless] at hm
      split at hm <;> cases hm
      rfl
    rw [he]; rfl

/-- An install whose image is read and accepted changes the context, and the wave moves on. -/
theorem installInstr_puts {i : Instr} {f : CE} {id c : Nat} {apply : State → Nat → Wave → Dword → Res Applied} {s : State} {wid : Nat}
    {w : Wave} {g : Context → Context} (h : AtControl s wid w) (ha : sFull w f.a.toNat = true) (hm : MemoryNow w (.control wid))
    (hp : installPending w id = false) (ho : apply s wid w (sVal w f.a.toNat) = .ok (.done (modCtx s c g) none)) :
    installInstr i f id apply s = .next (modWave (modCtx s c g) wid (finishControl i)) := by
  apply runControl_next h
  simp only [ceSources_a_full ha, memReadyNow_open hm, hp, ho, Bool.not_false, waitUnless_true, res_ok_bind, finishApplied]

/-- An install whose image is refused raises the fault of the refusal. -/
theorem installInstr_raises {i : Instr} {f : CE} {id code detail : Nat} {apply : State → Nat → Wave → Dword → Res Applied} {s : State}
    {wid : Nat} {w : Wave} (h : AtControl s wid w) (ha : sFull w f.a.toNat = true) (hm : MemoryNow w (.control wid))
    (hp : installPending w id = false) (ho : apply s wid w (sVal w f.a.toNat) = raises code detail) :
    installInstr i f id apply s = .next (raiseFault s (.control wid) code detail none none) := by
  apply runControl_fault h
  simp only [ceSources_a_full ha, memReadyNow_open hm, hp, ho, Bool.not_false, waitUnless_true, res_ok_bind, raises, res_error_bind]

theorem applyTdef_image {f : CE} {s : State} {wid : Nat} {w : Wave} {addr : Dword} {bs : List Byte} {c : Nat} {x : Context}
    (hx : InContext s w c x) (hi : ImageAt s wid w addr.toNat 64 64 bs) :
    (∀ t, checkDescriptor bs f.t.toNat addr.toNat = .ok t → applyTdef f s wid w addr
      = .ok (.done (modCtx s c (fun y => { y with tensors := Tbl.put y.tensors f.t.toNat t })) none))
    ∧ ∀ d, checkDescriptor bs f.t.toNat addr.toNat = .error d → applyTdef f s wid w addr = raises 0x11 d := by
  constructor <;> intro r hr <;>
    simp only [applyTdef, withImage_ready hi, ctxRes_ok hx, res_ok_bind, installTensor, hr, raises, res_error_bind]

theorem applyCtload_image {f : CE} {s : State} {wid : Nat} {w : Wave} {addr : Dword} {bs : List Byte} {c : Nat} {x : Context}
    (hx : InContext s w c x) (hi : ImageAt s wid w addr.toNat 32 32 bs) :
    (codeImageBad bs = none → applyCtload f s wid w addr
      = .ok (.done (modCtx s c (fun y => { y with codeTables := Tbl.put y.codeTables (f.aux.toNat % 8) (codeTableOf bs) })) none))
    ∧ ∀ k, codeImageBad bs = some k → applyCtload f s wid w addr = raises 0x16 k := by
  refine ⟨fun hr => ?_, fun k hr => ?_⟩ <;> simp only [applyCtload, withImage_ready hi, ctxRes_ok hx, res_ok_bind, installCode, hr, raises, res_error_bind]

theorem applyPalld_image {f : CE} {s : State} {wid : Nat} {w : Wave} {addr : Dword} {bs : List Byte} {c : Nat} {x : Context}
    (hx : InContext s w c x) (hi : ImageAt s wid w addr.toNat 32 32 bs) :
    applyPalld f s wid w addr = .ok (.done (installPalette s c (f.aux.toNat % 4) (f.opts.toNat % 32) bs) none) := by
  simp only [applyPalld, withImage_ready hi, ctxRes_ok hx, res_ok_bind]

theorem exec_tinv_pending {f : CE} {s : State} {wid : Nat} {w : Wave} (h : AtControl s wid w) (hp : installPending w f.t.toNat = true) :
    exec (.tinv f) s = .next { s with stalled := true } := by
  apply runControl_wait h
  rw [hp]; rfl

theorem exec_tinv_free {f : CE} {s : State} {wid : Nat} {w : Wave} {c : Nat} {x : Context} (h : AtControl s wid w)
    (hx : InContext s w c x) (hp : installPending w f.t.toNat = false) :
    exec (.tinv f) s = .next (modCtx (setWave s wid (finishControl (.tinv f) w)) c
      (fun y => { y with tensors := Tbl.del y.tensors f.t.toNat })) := by
  apply runControl_next h
  simp only [hp, Bool.not_false, waitUnless_true, res_ok_bind, ctxRes_ok hx]

/-! ## Gang words (R211) -/

theorem exec_gangset_high {f : CE} {s : State} {wid : Nat} {w : Wave} (h : AtControl s wid w) (ha : sFull w f.a.toNat = true)
    (hg : 2 ^ 45 ≤ (sVal w f.a.toNat).toNat) : exec (.gangset f) s = .next (raiseFault s (.control wid) 0x04
      (detail04 w (.gangset f) 18 true (sVal w f.a.toNat).toNat) none none) := by
  apply runControl_fault h
  have hno : ¬ (sVal w f.a.toNat).toNat / 2 ^ 45 = 0 := by omega
  simp only [ceSources_a_full ha, res_ok_bind, hno, decide_false, ensure_false, res_error_bind]

theorem exec_gangset_low {f : CE} {s : State} {wid : Nat} {w : Wave} (h : AtControl s wid w) (ha : sFull w f.a.toNat = true)
    (hg : (sVal w f.a.toNat).toNat < 2 ^ 45) :
    (gangOk wid (sVal w f.a.toNat).toNat = true → exec (.gangset f) s = .next (setWave s wid (finishControl (.gangset f)
      { w with g := Cells.set 0 w.g (f.aux.toNat % 4) (sVal w f.a.toNat),
               gangUids := Tbl.put w.gangUids (f.aux.toNat % 4) (gangHolders s wid (sVal w f.a.toNat).toNat) })))
    ∧ (gangOk wid (sVal w f.a.toNat).toNat = false → exec (.gangset f) s = .next (raiseFault s (.control wid) 0x10
      (gangDetail (f.aux.toNat % 4) 0 0 (sVal w f.a.toNat).toNat) none none)) := by
  have hlow : (sVal w f.a.toNat).toNat / 2 ^ 45 = 0 := by omega
  refine ⟨fun ho => runControl_next h ?_, fun ho => runControl_fault h ?_⟩
  · simp only [ceSources_a_full ha, res_ok_bind, hlow, decide_true, ensure_true, ho]
  · simp only [ceSources_a_full ha, res_ok_bind, hlow, decide_true, ensure_true, ho, ensure_false, res_error_bind]

/-- Settles O20: each install reads its image and then either changes the context or raises the image's refusal. -/
theorem tableInstalls : Obligations.TableInstalls := by
  unfold Obligations.TableInstalls
  intro s wid w f c x h hx
  refine ⟨fun hp => ⟨exec_tinv_pending h hp, fun ha => installInstr_pending h ha hp⟩,
    fun ha => ⟨fun hp => installInstr_pending h ha hp, fun hp => installInstr_pending h ha hp⟩,
    exec_tinv_free h hx, fun ha => ⟨fun hm => ⟨fun bs hp hi => ?_, fun bs hp hi => ?_, fun bs hp hi => ?_⟩,
      exec_gangset_high h ha, exec_gangset_low h ha⟩⟩
  · exact ⟨fun t ht => installInstr_puts h ha hm hp ((applyTdef_image hx hi).1 t ht),
      fun d hd => installInstr_raises h ha hm hp ((applyTdef_image hx hi).2 d hd)⟩
  · exact ⟨fun hg => installInstr_puts h ha hm hp ((applyCtload_image hx hi).1 hg),
      fun k hk => installInstr_raises h ha hm hp ((applyCtload_image hx hi).2 k hk)⟩
  · exact installInstr_puts h ha hm hp (applyPalld_image hx hi)

/-! ## Matrix operations that pass their checks (R213 to R226) -/

theorem accCountOf_team {s : State} {w : Wave} {team : Team} (h : getTeam s w.team = some team) : accCountOf s w = team.accCount := by
  simp only [accCountOf, h]

theorem teamOr_some {s : State} {w : Wave} {team : Team} (h : getTeam s w.team = some team) : teamOr s w = .ok team := by
  simp only [teamOr, h, orStop]

theorem accTileOk_inside {s : State} {w : Wave} {team : Team} {t : Nat} (h : getTeam s w.team = some team) (ht : t < team.accCount) :
    accTileOk s w t = .ok () := by
  simp only [accTileOk, accCountOf_team h, ht, decide_true, ensure_true]

theorem accTileOk_beyond {s : State} {w : Wave} {team : Team} {t : Nat} (h : getTeam s w.team = some team) (ht : team.accCount ≤ t) :
    accTileOk s w t = raises 0x12 (t % 2 ^ 64) := by
  simp only [accTileOk, accCountOf_team h, Nat.not_lt.mpr ht, decide_false, ensure_false, raises]

theorem slotOk_inside {t : Team} {slot : Nat} (h : slot < t.slotCount) : slotOk t slot = .ok () := by
  simp only [slotOk, h, decide_true, ensure_true]

theorem slotOk_beyond {t : Team} {slot : Nat} (h : t.slotCount ≤ slot) : slotOk t slot = raises 0x12 slot := by
  simp only [slotOk, Nat.not_lt.mpr h, decide_false, ensure_false, raises]

/-- A table record and a B tile that MLUT can use together, up to the place of the tile in its tensor (R213, R216). -/
structure LutPair (r : SlotRec) (t : Tensor) (part pair : Nat) : Prop where
  kind : t.kind = 0 ∨ t.kind = 1 ∨ denupKind t.kind = true
  columns : tileN t = 16
  found : pairOf r t t.palette = some pair
  extent : (part + 1) * tileK t ≤ tableExtent r
  groups : tileK t % groupLen pair = 0

/-- MLUT's checks of a tile, a slot and a pair that suit (R216). -/
theorem mlutChecks_ready {s : State} {w : Wave} {f : CE} {a b c : Dword} {team : Team} {t : Tensor} {r : SlotRec} {pair : Nat}
    (hteam : getTeam s w.team = some team) (htile : optTile f + c.toNat < team.accCount) (hslot : optSlot f < team.slotCount)
    (hr : Tbl.find? team.slots (optSlot f) = some r) (ht : TensorReady s w f.t.toNat t) (hp : LutPair r t (f.aux.toNat % 4) pair)
    (hin : TileInside t a.toNat b.toNat) : mlutChecks s w f a b c = .ok (optTile f + c.toNat, t) := by
  obtain ⟨hk, hn, hpair, hext, hg⟩ := hp
  have hle : tileK t ≤ tableExtent r := le_trans (Nat.le_mul_of_pos_left _ (Nat.succ_pos _)) hext
  have hkind : ((t.kind == 0 || t.kind == 1 || denupKind t.kind) && tileN t == 16) = true := by
    simp only [hn, beq_self_eq_true, Bool.and_true, Bool.or_eq_true, beq_iff_eq]
    tauto
  simp only [mlutChecks, teamOr_some hteam, accTileOk_inside hteam htile, slotOk_inside hslot, hr, orStop, tensorFor_ready ht, hkind, hpair,
    hle, hext, hg, decide_true, ensure_true, tileIn_inside hin, res_ok_bind]

/-- MLUTG enters its queue with the word of its gang and the number of its operation (R218). -/
theorem exec_mlutg_ready {s : State} {wid : Nat} {w : Wave} {f : CE} {tile : Nat} {t : Tensor} (h : AtControl s wid w)
    (he : EngineReady w true) (ha : sFull w f.a.toNat = true) (hb : sFull w f.b.toNat = true) (hc : sFull w f.c.toNat = true)
    (ho : mlutChecks s w f (sVal w f.a.toNat) (sVal w f.b.toNat) (sVal w f.c.toNat) = .ok (tile, t))
    (hg : gangCountOf (Cells.get 0 w.g (f.aux.toNat / 4)).toNat ≠ 0) :
    let us := (Tbl.find? w.gangUids (f.aux.toNat / 4)).getD []
    let k := Cells.get 0 w.gangCount (gangKey us)
    exec (.mlutg f) s = .next (issued s wid { w with gangCount := Cells.set 0 w.gangCount (gangKey us) (k + 1) } (.mlutg f)
      (.mlut tile (optSlot f) f.t.toNat t (codeTableAt s w t.codeTable) (paletteOf s w t.palette) (sVal w f.a.toNat).toNat
        (sVal w f.b.toNat).toNat (f.aux.toNat % 4) (some (f.aux.toNat / 4, (Cells.get 0 w.g (f.aux.toNat / 4)).toNat, us, k)))) := by
  obtain ⟨hq, hfree, hfault⟩ := he
  apply runControl_next h
  have hsrc : ceSources w f true true true [] = .ok (sVal w f.a.toNat, sVal w f.b.toNat, sVal w f.c.toNat) :=
    ceSources_full (fun _ => ha) (fun _ => hb) (fun _ => hc) nofun
  simp only [hq, List.isEmpty_nil, waitUnless_true, res_ok_bind, hsrc, ho, hg, ne_eq, not_false_eq_true, decide_true, ensure_true, hfree]
  exact congrArg Except.ok (pushEngine_free hfault)

/-- Settles O21: each issue is `engineIssue_ready` once its checks are known to pass. -/
theorem matrixIssues : Obligations.MatrixIssues := by
  unfold Obligations.MatrixIssues
  intro s wid w f team h he hteam
  refine ⟨fun hc ht => ?_, fun hall => ?_, fun hone hs => ?_, fun t ht hin => ⟨fun hab hs hsuit hpal => ?_, ?_, ?_⟩, ?_⟩
  · refine (exec_mclr f s).trans (engineIssue_ready h he nofun nofun (fun _ => hc) ?_)
    simp only [usedVal, if_true, accCountOf_team hteam, ht, decide_true, ensure_true, res_ok_bind]
  · refine (exec_tbdrop f s).trans (engineIssue_ready h he nofun nofun nofun ?_)
    simp only [teamOr_some hteam, res_ok_bind, hall, if_true]
  · refine (exec_tbdrop f s).trans (engineIssue_ready h he nofun nofun nofun ?_)
    have hno : ¬ f.aux.toNat % 2 = 1 := by omega
    simp only [teamOr_some hteam, res_ok_bind, hno, if_false, slotOk_inside hs]
  · refine (exec_mtab f s).trans (engineIssue_ready h he (fun _ => hab.1) (fun _ => hab.2) nofun ?_)
    have hw : (!decide (f.aux.toNat % 2 = 1) || !installPending w (72 + f.aux.toNat / 2 % 4)) = true := by
      by_cases hp : f.aux.toNat % 2 = 1
      · rw [hpal (decide_eq_true hp)]; simp
      · simp [hp]
    simp only [usedVal, if_true, teamOr_some hteam, res_ok_bind, slotOk_inside hs, tensorFor_ready ht, hsuit, ensure_true, hw, waitUnless_true,
      tileIn_inside hin]
  · intro round sat iacc hfull htile hkind hbl htr htc hlo hhi hround
    refine (exec_mout f s).trans (engineIssue_ready h he (fun _ => hfull.1.1) (fun _ => hfull.1.2) (fun _ => hfull.2) ?_)
    have hsuit : ((t.kind == 0 || t.kind == 1) && t.blockLen == 0 && t.trows == 16 && t.tcols == 16 && decide (4 ≤ t.fmt)
        && decide (t.fmt ≤ 0x0B)) = true := by
      simp only [hbl, htr, htc, hlo, hhi, decide_true, beq_self_eq_true, Bool.and_true, Bool.or_eq_true, beq_iff_eq]
      exact hkind
    have hmode : (!(decide (f.opts.toNat / 2 ^ 13 % 2 = 1) && intFmt t.fmt) || f.opts.toNat / 512 % 8 == 0
        || f.opts.toNat / 512 % 8 == 7) = true := by
      cases hi : decide (f.opts.toNat / 2 ^ 13 % 2 = 1) && intFmt t.fmt
      · rfl
      · rw [Bool.and_eq_true] at hi
        simpa using hround hi.1 hi.2
    simp only [usedVal, if_true, accTileOk_inside hteam htile, res_ok_bind, tensorFor_ready ht, hsuit, ensure_true, tileIn_inside hin,
      hmode]
    rfl
  · intro r pair hfull htile hs hr hkind hn hpair hext hg op
    have ho := mlutChecks_ready hteam htile hs hr ht ⟨hkind, hn, hpair, hext, hg⟩ hin
    refine ⟨(exec_mlut f s).trans (engineIssue_ready h he (fun _ => hfull.1.1) (fun _ => hfull.1.2) (fun _ => hfull.2) ?_), ?_⟩
    · simp only [usedVal, if_true, ho, res_ok_bind]; rfl
    · intro g word us k hgang
      exact exec_mlutg_ready h he hfull.1.1 hfull.1.2 hfull.2 ho hgang
  · intro src d hab hsrc hd hin hdin hcoded hkind hbl hdkind hfmt hpal htr htc hax hdbl hgr
    refine (exec_mxpq f s).trans (engineIssue_ready h he (fun _ => hab.1) (fun _ => hab.2) nofun ?_)
    have hsuit : (codedFmt src.fmt && (src.kind == 0 || src.kind == 1 || denupKind src.kind) && src.blockLen != 0) = true := by
      simp only [hcoded, Bool.true_and, Bool.and_eq_true, Bool.or_eq_true, beq_iff_eq, bne_iff_ne, or_assoc]
      exact ⟨hkind, hbl⟩
    have hdsuit : ((d.kind == 0 || d.kind == 1) && d.fmt == src.fmt && (src.fmt != 3 || d.palette == src.palette)
      && d.trows == src.tcols && d.tcols == src.trows && d.kaxis == 1 - src.kaxis && d.blockLen != 0
      && decide (tileK d % max 1 d.blockLen = 0)) = true := by
      simp only [Bool.and_eq_true, Bool.or_eq_true, beq_iff_eq, bne_iff_ne, decide_eq_true_eq]
      exact ⟨⟨⟨⟨⟨⟨⟨hdkind, hfmt⟩, by tauto⟩, htr⟩, htc⟩, hax⟩, hdbl⟩, hgr⟩
    simp only [usedVal, if_true, tensorFor_ready hsrc, res_ok_bind, hsuit, ensure_true, tensorFor_ready hd, hdsuit, tileIn_inside hin,
      tileIn_inside hdin]

end Sys2Proof.Machine
end

/-! # The traps of the matrix operations, and batches (R214 to R230) -/

section
namespace Sys2Proof.Machine

open Sys2Proof.Laws

/-! ## Checks that fail (R214 to R226) -/

/-- An engine operation whose sources are full and whose checks fail raises the fault of the check. -/
theorem engineIssue_raises {i : Instr} {f : CE} {a b c matrix : Bool}
    {checks : Nat → Wave → Dword → Dword → Dword → Res EngineOp} {s : State} {wid : Nat} {w : Wave} {code detail : Nat}
    (h : AtControl s wid w) (hq : w.laneQueue = []) (ha : a = true → sFull w f.a.toNat = true)
    (hb : b = true → sFull w f.b.toNat = true) (hc : c = true → sFull w f.c.toNat = true)
    (ho : checks wid w (usedVal w a f.a) (usedVal w b f.b) (usedVal w c f.c) = raises code detail) :
    engineIssue i f a b c matrix checks s = .next (raiseFault s (.control wid) code detail none none) := by
  apply runControl_fault h
  rw [hq, List.isEmpty_nil, waitUnless_true, res_ok_bind, ceSources_full ha hb hc (fun _ hn => by cases hn), res_ok_bind]
  show (checks wid w _ _ _ >>= _) = _
  rw [ho]; rfl

/-- An engine operation that passes its checks waits while its queue is full (R203). -/
theorem engineIssue_full {i : Instr} {f : CE} {a b c matrix : Bool}
    {checks : Nat → Wave → Dword → Dword → Dword → Res EngineOp} {s : State} {wid : Nat} {w : Wave} {op : EngineOp}
    (h : AtControl s wid w) (hq : w.laneQueue = []) (hf : queueFree w matrix = false) (ha : a = true → sFull w f.a.toNat = true)
    (hb : b = true → sFull w f.b.toNat = true) (hc : c = true → sFull w f.c.toNat = true)
    (ho : checks wid w (usedVal w a f.a) (usedVal w b f.b) (usedVal w c f.c) = .ok op) :
    engineIssue i f a b c matrix checks s = .next { s with stalled := true } := by
  apply runControl_wait h
  rw [hq, List.isEmpty_nil, waitUnless_true, res_ok_bind, ceSources_full ha hb hc (fun _ hn => by cases hn), res_ok_bind]
  show (checks wid w _ _ _ >>= _) = _
  rw [ho, res_ok_bind, hf]; rfl

theorem tensorFor_missing {s : State} {w : Wave} {tid extra : Nat} (hp : installPending w tid = false) (ht : tensorOf s w tid = none) :
    tensorFor s w tid extra = raises 0x11 (tensorDetail tid extra) := by
  simp only [tensorFor, hp, Bool.not_false, waitUnless_true, res_ok_bind, ht]

theorem tileIn_row_beyond {t : Tensor} {tid tr tc : Nat} (h : tileRowCount t ≤ tr) : tileIn t tid tr tc = raises 0x12 (rangeDetail tr tid) := by
  simp only [tileIn, Nat.not_lt.mpr h, decide_false, ensure_false, res_error_bind, raises]

theorem tileIn_column_beyond {t : Tensor} {tid tr tc : Nat} (hr : tr < tileRowCount t) (h : tileColCount t ≤ tc) :
    tileIn t tid tr tc = raises 0x12 (rangeDetail tc tid) := by
  simp only [tileIn, hr, Nat.not_lt.mpr h, decide_true, decide_false, ensure_true, ensure_false, res_ok_bind, raises]

/-- MLUT and MLUTG, their sources full, raise what their shared checks raise (R216, R218). -/
theorem exec_lut_raises {s : State} {wid : Nat} {w : Wave} {f : CE} {code detail : Nat} (h : AtControl s wid w) (hq : w.laneQueue = [])
    (hfull : (sFull w f.a.toNat = true ∧ sFull w f.b.toNat = true) ∧ sFull w f.c.toNat = true)
    (ho : mlutChecks s w f (sVal w f.a.toNat) (sVal w f.b.toNat) (sVal w f.c.toNat) = raises code detail) :
    ∀ i ∈ [Instr.mlut f, .mlutg f], exec i s = .next (raiseFault s (.control wid) code detail none none) := by
  obtain ⟨⟨ha, hb⟩, hc⟩ := hfull
  have hsrc : ceSources w f true true true [] = .ok (sVal w f.a.toNat, sVal w f.b.toNat, sVal w f.c.toNat) :=
    ceSources_full (fun _ => ha) (fun _ => hb) (fun _ => hc) nofun
  simp only [List.forall_mem_cons]
  refine ⟨(exec_mlut f s).trans (engineIssue_raises h hq (fun _ => ha) (fun _ => hb) (fun _ => hc) ?_),
    (exec_mlutg f s).trans (runControl_fault h ?_), by simp⟩
  · simp only [usedVal, if_true, ho, raises, res_error_bind]
  · simp only [hq, List.isEmpty_nil, waitUnless_true, res_ok_bind, hsrc, ho, raises, res_error_bind]

/-- MLUTG names a gang of no members (R218). -/
theorem exec_mlutg_empty {s : State} {wid : Nat} {w : Wave} {f : CE} {r : Nat × Tensor} (h : AtControl s wid w) (hq : w.laneQueue = [])
    (hfull : (sFull w f.a.toNat = true ∧ sFull w f.b.toNat = true) ∧ sFull w f.c.toNat = true)
    (ho : mlutChecks s w f (sVal w f.a.toNat) (sVal w f.b.toNat) (sVal w f.c.toNat) = .ok r)
    (hg : gangCountOf (Cells.get 0 w.g (f.aux.toNat / 4)).toNat = 0) :
    exec (.mlutg f) s = .next (raiseFault s (.control wid) 0x10
      (gangDetail (f.aux.toNat / 4) 0 0 (Cells.get 0 w.g (f.aux.toNat / 4)).toNat) none none) := by
  obtain ⟨⟨ha, hb⟩, hc⟩ := hfull
  have hsrc : ceSources w f true true true [] = .ok (sVal w f.a.toNat, sVal w f.b.toNat, sVal w f.c.toNat) :=
    ceSources_full (fun _ => ha) (fun _ => hb) (fun _ => hc) nofun
  refine (exec_mlutg f s).trans (runControl_fault h ?_)
  simp only [hq, List.isEmpty_nil, waitUnless_true, res_ok_bind, hsrc, ho, hg, ne_eq, not_true_eq_false, decide_false, ensure_false,
    res_error_bind]

/-- Settles O22: the first check that fails gives the fault. -/
theorem matrixIssueTraps : Obligations.MatrixIssueTraps := by
  unfold Obligations.MatrixIssueTraps
  intro s wid w f team h hq hteam
  refine ⟨fun hfull htile => ?_, fun hc ht => ?_, fun hfull htile hs => ?_, fun hs => ⟨fun hab => ?_, fun hone => ?_⟩,
    fun hfull htile hs hr => ?_, fun hp hnone => ⟨fun hab hs => ?_, fun hfull htile => ?_⟩, fun t hab ht hs hsuit heven => ?_,
    fun t r pair hfull ht hin htile hs hr hkind hn hpair hext hgr => ?_, fun hc hf ht => ?_⟩
  · have ho : mlutChecks s w f (sVal w f.a.toNat) (sVal w f.b.toNat) (sVal w f.c.toNat) 
        = raises 0x12 ((optTile f + (sVal w f.c.toNat).toNat) % 2 ^ 64) := by
      simp only [mlutChecks, teamOr_some hteam, res_ok_bind, accTileOk_beyond hteam htile, raises, res_error_bind]
    refine List.forall_mem_cons.mpr ⟨(exec_mout f s).trans (engineIssue_raises h hq (fun _ => hfull.1.1) (fun _ => hfull.1.2)
      (fun _ => hfull.2) ?_), exec_lut_raises h hq hfull ho⟩
    simp only [usedVal, if_true, accTileOk_beyond hteam htile, raises, res_error_bind]
  · refine (exec_mclr f s).trans (engineIssue_raises h hq nofun nofun (fun _ => hc) ?_)
    simp only [usedVal, if_true, accCountOf_team hteam, Nat.not_le.mpr ht, decide_false, ensure_false, res_error_bind, raises]
  · refine exec_lut_raises h hq hfull ?_
    simp only [mlutChecks, teamOr_some hteam, res_ok_bind, accTileOk_inside hteam htile, slotOk_beyond hs, raises, res_error_bind]
  · refine (exec_mtab f s).trans (engineIssue_raises h hq (fun _ => hab.1) (fun _ => hab.2) nofun ?_)
    simp only [teamOr_some hteam, res_ok_bind, slotOk_beyond hs, raises, res_error_bind]
  · refine (exec_tbdrop f s).trans (engineIssue_raises h hq nofun nofun nofun ?_)
    have hno : ¬ f.aux.toNat % 2 = 1 := by omega
    simp only [teamOr_some hteam, res_ok_bind, hno, if_false, slotOk_beyond hs, raises, res_error_bind]
  · refine exec_lut_raises h hq hfull ?_
    simp only [mlutChecks, teamOr_some hteam, res_ok_bind, accTileOk_inside hteam htile, slotOk_inside hs, hr, orStop, raises, res_error_bind]
  · refine (exec_mtab f s).trans (engineIssue_raises h hq (fun _ => hab.1) (fun _ => hab.2) nofun ?_)
    simp only [teamOr_some hteam, res_ok_bind, slotOk_inside hs, tensorFor_missing hp hnone, raises, res_error_bind]
  · refine (exec_mout f s).trans (engineIssue_raises h hq (fun _ => hfull.1.1) (fun _ => hfull.1.2) (fun _ => hfull.2) ?_)
    simp only [usedVal, if_true, accTileOk_inside hteam htile, res_ok_bind, tensorFor_missing hp hnone, raises, res_error_bind]
  · have hno : ¬ f.aux.toNat % 2 = 1 := by omega
    refine ⟨fun hrow => ?_, fun hrow hcol => ?_⟩ <;>
      refine (exec_mtab f s).trans (engineIssue_raises h hq (fun _ => hab.1) (fun _ => hab.2) nofun ?_)
    · simp only [usedVal, if_true, teamOr_some hteam, res_ok_bind, slotOk_inside hs, tensorFor_ready ht, hno, decide_false, hsuit, ensure_true,
        Bool.not_false, Bool.true_or, waitUnless_true, tileIn_row_beyond hrow, raises, res_error_bind]
    · simp only [usedVal, if_true, teamOr_some hteam, res_ok_bind, slotOk_inside hs, tensorFor_ready ht, hno, decide_false, hsuit, ensure_true,
        Bool.not_false, Bool.true_or, waitUnless_true, tileIn_column_beyond hrow hcol, raises, res_error_bind]
  · intro word hg
    exact exec_mlutg_empty h hq hfull (mlutChecks_ready hteam htile hs hr ht ⟨hkind, hn, hpair, hext, hgr⟩ hin) hg
  · refine (exec_mclr f s).trans (engineIssue_full (op := .mclr (optTile f + (sVal w f.c.toNat).toNat) (f.aux.toNat + 1)) h hq hf nofun nofun
      (fun _ => hc) ?_)
    simp only [usedVal, if_true, accCountOf_team hteam, ht, decide_true, ensure_true, res_ok_bind]

/-! ## Batches (R228 to R230) -/

theorem deliverFault_none {s : State} {wid : Nat} {w : Wave} (h : w.engineFault = none) : deliverFault s wid w = none := by
  simp only [deliverFault, h]

/-- A fault of an operation that awaits delivery is delivered as a deferred fault (R230). -/
theorem deliverFault_some {s : State} {wid : Nat} {w : Wave} {i : FaultInfo} {pc unit : Nat} (h : w.engineFault = some (i, pc, unit)) :
    deliverFault s wid w = some (modWave (takeFault s (.control wid) { pc := pc, block := 0, active := 0, path := 0, cont := false, stream := false }
      unit i.code i.detail none true) wid (fun u => { u with engineFault := none, ctl := .running })) := by
  simp only [deliverFault, h]

/-- Settles O23: the three instructions by whether the batch is pending and a fault awaits delivery. -/
theorem batches : Obligations.Batches := by
  unfold Obligations.Batches
  intro s wid w f h n tiles close hit
  refine ⟨fun hn => runControl_next h ?_, fun hn => runControl_wait h ?_,
    fun hnone => ⟨fun hn => runControl_next h ?_, fun hn => runControl_next h ?_, fun hd => runControl_next h ?_⟩,
    fun i pc unit hsome => ⟨runControl_next h ?_, runControl_next h ?_⟩⟩
  · have hclose : w.engine.map close = w.engine.map (fun e => if e.batch.isNone then { e with batch := some n } else e) :=
      List.map_congr_left (fun e _ => by simp only [close, Option.isNone_iff_eq_none])
    have hhit : w.engineHits.map hit
        = w.engineHits.map (fun h => if h.batch.isNone ∧ h.op ≠ 0 then { h with batch := some n } else h) :=
      List.map_congr_left (fun e _ => by simp only [hit, Option.isNone_iff_eq_none])
    rw [hclose, hhit]
    simp only [hn, n, Bool.not_false, waitUnless_true, res_ok_bind, tiles] <;> rfl
  · simp only [hn, n, Bool.not_true, waitUnless_false, res_error_bind]
  · simp only [deliverFault_none hnone, hn, n]; rfl
  · simp only [deliverFault_none hnone, hn, n]; rfl
  · simp only [deliverFault_none hnone, dstS_full hd, res_ok_bind, writeBack]
    cases batchPending w f.aux.toNat <;> rfl
  · simp only [deliverFault_some hsome]
  · simp only [deliverFault_some hsome]

end Sys2Proof.Machine
end

/-! # Copies, SEND and channels (R235 to R247) -/

section
namespace Sys2Proof.Machine

open Sys2Proof.Laws

/-! ## Issue checks of the copy engine (R241, R242, R245) -/

/-- A run of window bytes that names storage, and whole registers where it names registers (R288, R289). -/
def WindowRun (addr n : Nat) : Prop :=
  addr % 2 ^ 56 / 2 ^ 33 = 0 ∧ winRegion addr ≠ 3 ∧ addr % 2 ^ 22 + n ≤ 2 ^ 22
    ∧ (winRegion addr = 0 → addr % 2 ^ 17 + n ≤ 98304 ∧ addr % 2 ^ 17 % 384 = 0 ∧ n % 384 = 0)

theorem winCheck_run {addr n : Nat} (h : WindowRun addr n) : winCheck addr n = .ok () := by
  obtain ⟨hhigh, hregion, hin, hregs⟩ := h
  have hmod : addr % 2 ^ 22 % 2 ^ 17 = addr % 2 ^ 17 := Nat.mod_mod_of_dvd _ (by norm_num)
  simp only [winCheck, hhigh, hregion, hin, hmod, ne_eq, not_false_eq_true, decide_true, Bool.true_and]
  cases hr : winRegion addr != 0
  · obtain ⟨hsize, hfirst, hlen⟩ := hregs (by simpa using hr)
    simp only [hsize, hfirst, hlen, decide_true, Bool.and_self, Bool.or_true, ensure_true, res_ok_bind]
  · simp only [Bool.true_or, ensure_true, res_ok_bind]

theorem alignedTo_ready {k a : Nat} {write : Bool} (h : a % k = 0) : alignedTo k a write = .ok () := by
  simp only [alignedTo, h, decide_true, ensure_true]

theorem rowCopyChecks_ready {s : State} {w : Wave} {tid list count off : Nat} {t : Tensor} (ht : TensorReady s w tid t) (hk : t.kind < 2)
    (hb : t.blockLen = 0) (hc : t.cols * fmtBits t.fmt % 32 = 0) (hap : apertureOf list < 2) (hlist : list % 4 = 0) (hoff : off % 4 = 0)
    (hfit : off + count * rowBytes t ≤ spadSizeOf s w) (hcount : count ≤ 65536) : rowCopyChecks s w tid list count off = .ok t := by
  simp only [rowCopyChecks, tensorFor_ready ht, hk, hb, hc, hap, alignedTo_ready hlist, alignedTo_ready hoff, hfit, hcount, decide_true,
    beq_self_eq_true, Bool.and_self, ensure_true, res_ok_bind]

/-- An issue of the copy engine that reads all three sources. -/
theorem copyIssue_ready {i : Instr} {f : CE} {checks : Nat → Wave → Dword → Dword → Dword → Res EngineOp} {s : State} {wid : Nat} {w : Wave}
    {op : EngineOp} (h : AtControl s wid w) (he : EngineReady w false) (ha : sFull w f.a.toNat = true) (hb : sFull w f.b.toNat = true)
    (hc : sFull w f.c.toNat = true) (ho : checks wid w (sVal w f.a.toNat) (sVal w f.b.toNat) (sVal w f.c.toNat) = .ok op) :
    engineIssue i f true true true false checks s = .next (issued s wid w i op) :=
  engineIssue_ready h he (fun _ => ha) (fun _ => hb) (fun _ => hc) ho

/-- A capability of an allowed kind that gives the permission is found (R244). -/
theorem capFor_allowed {s : State} {w : Wave} {c k perm : Nat} {x : Context} {kinds : List Nat} {cap : Capability} (hx : InContext s w c x)
    (hcap : Tbl.find? x.caps k = some cap) (hkind : cap.kind ∈ kinds) (hperm : cap.perms / 2 ^ perm % 2 = 1) :
    capFor s w k kinds perm = .ok cap := by
  have hin : kinds.contains cap.kind = true := List.contains_iff_mem.mpr hkind
  simp only [capFor, ctxRes_ok hx, res_ok_bind, hcap, orStop, hin, hperm, decide_true, Bool.and_self, ensure_true]

theorem capFor_refused {s : State} {w : Wave} {c k perm : Nat} {x : Context} {kinds : List Nat} {cap : Capability} (hx : InContext s w c x)
    (hcap : Tbl.find? x.caps k = some cap) (hno : cap.kind ∉ kinds ∨ cap.perms / 2 ^ perm % 2 ≠ 1) :
    capFor s w k kinds perm = raises 0x0C (k + 2 ^ 8) := by
  have hfalse : (kinds.contains cap.kind && decide (cap.perms / 2 ^ perm % 2 = 1)) = false := by
    rw [Bool.and_eq_false_iff, decide_eq_false_iff_not]
    exact hno.imp_left (fun hk => by simpa using hk)
  simp only [capFor, ctxRes_ok hx, res_ok_bind, hcap, orStop, hfalse, ensure_false, res_error_bind, raises, Nat.one_mul]

theorem capFor_absent {s : State} {w : Wave} {c k perm : Nat} {x : Context} {kinds : List Nat} (hx : InContext s w c x)
    (hcap : Tbl.find? x.caps k = none) : capFor s w k kinds perm = raises 0x0C k := by
  simp only [capFor, ctxRes_ok hx, res_ok_bind, hcap, orStop, res_error_bind, raises]

/-- Settles O24: each copy is `copyIssue_ready` once its checks are known to pass. -/
theorem copyIssues : Obligations.CopyIssues := by
  unfold Obligations.CopyIssues
  intro s wid w f h he ha hb hc a b c enters window
  refine ⟨?_, ?_, ?_, ?_, ?_⟩
  · intro src d hsrc hd hin hdin hsk hsb hdk hdb hfmt htr htc hwin
    refine (exec_cpt f s).trans (copyIssue_ready h he ha hb hc ?_)
    have hkind : (decide (d.kind < 2) || d.kind == 4) = true := by simpa using hdk
    have hfrom : tileIn src (f.opts.toNat % 64) (sVal w f.a.toNat).toNat (sVal w f.b.toNat).toNat = .ok () := tileIn_inside hin
    have hto : tileIn d f.t.toNat ((sVal w f.c.toNat).toNat % 2 ^ 32) ((sVal w f.c.toNat).toNat / 2 ^ 32) = .ok () := tileIn_inside hdin
    simp only [tensorFor_ready hsrc, tensorFor_ready hd, res_ok_bind, hsk, hsb, hdb, hfmt, htr, htc, hkind, decide_true, beq_self_eq_true,
      Bool.and_self, ensure_true, hfrom, hto]
    split_ifs with h4
    · rw [forM_ok _ _ (fun r hr => winCheck_run (hwin h4 r hr)), res_ok_bind]
    · rfl
  · intro t ht hk hbl hcols hap hlist hoff hfit hcount
    have hrow := rowCopyChecks_ready ht hk hbl hcols hap hlist hoff hfit hcount
    refine ⟨(exec_cpg f s).trans (copyIssue_ready h he ha hb hc ?_), (exec_cps f s).trans (copyIssue_ready h he ha hb hc ?_)⟩
    · simp only [hrow, res_ok_bind, a, b, c]
    · simp only [hrow, res_ok_bind, a, b, c]
  · intro wb hsrc hdst ha4 hb4 hc4 hlow hweights hwin
    refine (exec_cpb f s).trans (copyIssue_ready h he ha hb hc ?_)
    have hto : (decide (f.opts.toNat % 2 = 1) || apertureOf b == 3 || inGlobalOrSpad s w b (c % 2 ^ 32)) = true := by
      simpa [wb, or_assoc] using hdst
    have hsize : (!decide (f.opts.toNat % 2 = 1) || decide (b + c ≤ weightBytes)) = true := by
      cases hwb : decide (f.opts.toNat % 2 = 1)
      · rfl
      · simpa using hweights hwb
    simp only [hsrc, hto, alignedTo_ready ha4, alignedTo_ready hb4, alignedTo_ready hc4, hlow, hsize, decide_true, ensure_true, res_ok_bind, a, b, c]
    split_ifs with h3
    · obtain ⟨hwb, hap, hne⟩ := h3
      rw [winCheck_run (hwin hwb hap hne), res_ok_bind]
    · rfl
  · intro hin hap ha32 hb32 hc4
    refine (exec_cpmc f s).trans (copyIssue_ready h he ha hb hc ?_)
    simp only [hin, hap, alignedTo_ready ha32, alignedTo_ready hb32, alignedTo_ready hc4, decide_true, ensure_true, res_ok_bind, a, b, c]
  · intro n x cap hx hcap hkind hperm hlen hb32 hin ha32 hallow
    refine (exec_send f s).trans (copyIssue_ready h he ha hb hc ?_)
    have hfor := capFor_allowed (kinds := [1]) (perm := 0) hx hcap (by simp [hkind]) (by simpa using hperm)
    simp only [hfor, hlen, hb32, and_self, hin, alignedTo_ready ha32, hallow, decide_true, ensure_true, res_ok_bind, a, b, c]

/-! ## Channels (R243 to R247) -/

theorem fullWait_quiet {w : Wave} (h : quiet w = true) : fullWait w = .ok () := by
  simp only [fullWait, h, waitUnless_true]

theorem ceSources_ab_full {w : Wave} {f : CE} (ha : sFull w f.a.toNat = true) (hb : sFull w f.b.toNat = true) (hd : sFull w f.d.toNat = true) :
    ceSources w f true true false [f.d.toNat] = .ok (sVal w f.a.toNat, sVal w f.b.toNat, 0) :=
  ceSources_full (fun _ => ha) (fun _ => hb) nofun (fun n hn => by rw [List.mem_singleton.mp hn]; exact hd)

theorem pollWord_eq (src tag len : Nat) (trunc : Bool) : pollWord src tag len trunc
    = 2 ^ 63 + (if trunc then 2 ^ 62 else 0) + src % 2 ^ 16 * 2 ^ 40 + tag % 2 ^ 16 * 2 ^ 24 + len % 2 ^ 13 := by
  cases trunc <;> simp [pollWord, b2n]

/-- The posted receive buffers of ring `k` of context `c` are `ps`. -/
def setPosted (s : State) (c k : Nat) (ps : List Posted) : State := modCtx s c (fun y => { y with posted := Tbl.put y.posted k ps })

/-- A receive buffer of a ring that the capability allows is posted, or not where the ring is full (R246). -/
theorem exec_chpost_allowed {s : State} {wid : Nat} {w : Wave} {f : CE} {c : Nat} {x : Context} {cap : Capability} (h : AtControl s wid w)
    (hx : InContext s w c x) (ha : sFull w f.a.toNat = true) (hb : sFull w f.b.toNat = true) (hd : sFull w f.d.toNat = true)
    (hq : quiet w = true) (hr : releaseReady s wid w w.seq 5 = true) (hcap : capFor s w (f.opts.toNat % 256) [2, 3] 1 = .ok cap)
    (hlo : 32 ≤ (sVal w f.b.toNat).toNat) (hhi : (sVal w f.b.toNat).toNat ≤ 4096) (h32 : (sVal w f.b.toNat).toNat % 32 = 0)
    (hap : apertureOf (sVal w f.a.toNat).toNat = 0) (hal : (sVal w f.a.toNat).toNat % 32 = 0) :
    exec (.chpost f) s = .next (if cap.depth ≤ ((Tbl.find? x.posted (f.opts.toNat % 256)).getD []).length
      then writeBack (.chpost f) s wid w f.d.toNat 0
      else writeBack (.chpost f) (setPosted s c (f.opts.toNat % 256) ((Tbl.find? x.posted (f.opts.toNat % 256)).getD []
        ++ [{ addr := (sVal w f.a.toNat).toNat, len := (sVal w f.b.toNat).toNat, placed := none }])) wid w f.d.toNat 1) := by
  refine (exec_chpost f s).trans (runControl_next h ?_)
  simp only [fullWait_quiet hq, ceSources_ab_full ha hb hd, hcap, hlo, hhi, h32, and_self, hap, alignedTo_ready hal, releaseNow, hr,
    ctxRes_ok hx, decide_true, ensure_true, waitUnless_true, res_ok_bind]
  split_ifs <;> rfl

theorem exec_chpost_raises {s : State} {wid : Nat} {w : Wave} {f : CE} {code detail : Nat} (h : AtControl s wid w)
    (ha : sFull w f.a.toNat = true) (hb : sFull w f.b.toNat = true) (hd : sFull w f.d.toNat = true) (hq : quiet w = true)
    (hcap : capFor s w (f.opts.toNat % 256) [2, 3] 1 = raises code detail) :
    exec (.chpost f) s = .next (raiseFault s (.control wid) code detail none none) := by
  refine (exec_chpost f s).trans (runControl_fault h ?_)
  simp only [fullWait_quiet hq, ceSources_ab_full ha hb hd, hcap, raises, res_ok_bind, res_error_bind]

theorem exec_chpoll_raises {s : State} {wid : Nat} {w : Wave} {f : CE} {code detail : Nat} (h : AtControl s wid w)
    (hd : sFull w f.d.toNat = true) (hs : acquired w (syncsBefore w (.control wid)) = true)
    (hcap : capFor s w (f.opts.toNat % 256) [2, 3] 2 = raises code detail) :
    exec (.chpoll f) s = .next (raiseFault s (.control wid) code detail none none) := by
  refine (exec_chpoll f s).trans (runControl_fault h ?_)
  simp only [hs, waitUnless_true, dstS_full hd, hcap, raises, res_ok_bind, res_error_bind]

/-- A poll of a ring whose oldest buffer holds a message takes it (R247). -/
theorem exec_chpoll_placed {s : State} {wid : Nat} {w : Wave} {f : CE} {c : Nat} {x : Context} {cap : Capability} {p : Posted}
    {r : List Posted} {src tag len : Nat} {trunc : Bool} (h : AtControl s wid w) (hx : InContext s w c x) (hd : sFull w f.d.toNat = true)
    (hs : acquired w (syncsBefore w (.control wid)) = true) (hcap : capFor s w (f.opts.toNat % 256) [2, 3] 2 = .ok cap)
    (hp : (Tbl.find? x.posted (f.opts.toNat % 256)).getD [] = p :: r) (hm : p.placed = some (src, tag, len, trunc)) :
    exec (.chpoll f) s = .next (acquireAt (writeBack (.chpoll f)
      (setPosted s c (f.opts.toNat % 256) r) wid w f.d.toNat
      (BitVec.ofNat 64 (pollWord src tag len trunc))) wid 5) := by
  refine (exec_chpoll f s).trans (runControl_next h ?_)
  simp only [hs, waitUnless_true, dstS_full hd, hcap, ctxRes_ok hx, res_ok_bind, hp, hm]
  rfl

theorem exec_chpoll_empty {s : State} {wid : Nat} {w : Wave} {f : CE} {c : Nat} {x : Context} {cap : Capability} (h : AtControl s wid w)
    (hx : InContext s w c x) (hd : sFull w f.d.toNat = true) (hs : acquired w (syncsBefore w (.control wid)) = true)
    (hcap : capFor s w (f.opts.toNat % 256) [2, 3] 2 = .ok cap)
    (hp : ∀ p r, (Tbl.find? x.posted (f.opts.toNat % 256)).getD [] = p :: r → p.placed = none) :
    exec (.chpoll f) s = .next (writeBack (.chpoll f) s wid w f.d.toNat 0) := by
  refine (exec_chpoll f s).trans (runControl_next h ?_)
  simp only [hs, waitUnless_true, dstS_full hd, hcap, ctxRes_ok hx, res_ok_bind]
  cases hl : (Tbl.find? x.posted (f.opts.toNat % 256)).getD [] with
  | nil => rfl
  | cons p r => simp only [hp p r hl]

/-- Settles O25: by what the capability allows and what stands in the ring. -/
theorem channels : Obligations.Channels := by
  unfold Obligations.Channels
  intro s wid w f c x h hx hd ab k a n posted past ring quietWave
  refine ⟨fun cap hcap hkind => ⟨?_, ?_⟩, fun cap hcap => ⟨?_, ?_⟩, fun hnone => ⟨?_, ?_⟩⟩
  · intro hab hperm hquiet hlo hhi h32 hap hal
    have hfor := capFor_allowed (kinds := [2, 3]) (perm := 1) hx hcap (by simpa using hkind) (by simpa using hperm)
    have hpost := exec_chpost_allowed h hx hab.1 hab.2 hd hquiet.1 hquiet.2 hfor hlo hhi h32 hap hal
    exact ⟨fun hroom => hpost.trans (by rw [if_neg (Nat.not_le.mpr hroom)]; rfl), fun hfull => hpost.trans (by rw [if_pos hfull]; rfl)⟩
  · intro hperm hacq
    have hfor := capFor_allowed (kinds := [2, 3]) (perm := 2) hx hcap (by simpa using hkind) (by simpa using hperm)
    refine ⟨fun p r src tag len trunc hp hm => ?_, fun hp => exec_chpoll_empty h hx hd hacq hfor hp⟩
    rw [← pollWord_eq]
    exact exec_chpoll_placed h hx hd hacq hfor hp hm
  · intro hab hq hno
    exact exec_chpost_raises h hab.1 hab.2 hd hq (capFor_refused hx hcap (by simpa using hno))
  · intro hacq hno
    exact exec_chpoll_raises h hd hacq (capFor_refused hx hcap (by simpa using hno))
  · exact fun hab hq => exec_chpost_raises h hab.1 hab.2 hd hq (capFor_absent hx hnone)
  · exact fun hacq => exec_chpoll_raises h hd hacq (capFor_absent hx hnone)

end Sys2Proof.Machine
end

/-! # Fences (R235, R248 to R250, R314) -/

section
namespace Sys2Proof.Machine

open Sys2Proof.Laws

/-! ## Waits of an instruction -/

theorem waitUnless_bind {α : Type} (b : Bool) (k : Unit → Res α) : (waitUnless b >>= k) = if b then k () else .error .wait := by
  cases b <;> rfl

theorem quiet_iff {w : Wave} : quiet w = true ↔ w.laneQueue = [] ∧ w.log = [] := by
  simp only [quiet, Bool.and_eq_true, List.isEmpty_iff]

theorem storesAt_iff {w : Wave} {scope : Nat} : storesAt w scope = true ↔ ∀ b ∈ w.stores, scope ≤ b.perf := by
  simp only [storesAt, List.all_eq_true, decide_eq_true_eq]

/-! ## FENCE (R248, R314) -/

/-- FENCE with this scope and order has nothing to wait for. -/
def fenceOpen (s : State) (w : Wave) (f : CI) : Bool :=
  quiet w && (!(isAcq (f.imm.toNat / 8 % 4)) || w.loads.isEmpty) && (f.imm.toNat / 8 % 4 != 3 || storesAt w (f.imm.toNat % 8))
    && (decide (f.imm.toNat / 32 % 2 = 0) || promoted s w (f.imm.toNat % 8))

theorem fenceOpen_iff {s : State} {w : Wave} {f : CI} : fenceOpen s w f = true ↔ quiet w = true
    ∧ (f.imm.toNat / 8 % 4 = 1 ∨ f.imm.toNat / 8 % 4 = 3 → w.loads = [])
    ∧ (f.imm.toNat / 8 % 4 = 3 → ∀ b ∈ w.stores, f.imm.toNat % 8 ≤ b.perf)
    ∧ (f.imm.toNat / 32 % 2 = 1 → promoted s w (f.imm.toNat % 8) = true) := by
  have hbit : f.imm.toNat / 32 % 2 = 0 ↔ ¬ f.imm.toNat / 32 % 2 = 1 := by omega
  simp only [fenceOpen, Bool.and_eq_true, Bool.or_eq_true, Bool.not_eq_true', isAcq, Bool.or_eq_false_iff, beq_eq_false_iff_ne, ne_eq,
    List.isEmpty_iff, bne_iff_ne, storesAt_iff, decide_eq_true_eq, hbit, and_assoc, imp_iff_not_or, not_or]

/-- The wave past a FENCE: a release makes its later stores wait for the accesses before it. -/
def fencedWave (f : CI) (w : Wave) : Wave :=
  finishControl (.fence f) (if isRel (f.imm.toNat / 8 % 4) then
    { joinBlocks w with fences := Cells.set 0 (joinBlocks w).fences (f.imm.toNat % 8) (joinBlocks w).seq } else joinBlocks w)

theorem exec_fence_closed {s : State} {wid : Nat} {w : Wave} {f : CI} (h : AtControl s wid w) (ho : fenceOpen s w f = false) :
    exec (.fence f) s = .next { s with stalled := true } := by
  refine (exec_fence f s).trans (runControl_wait h ?_)
  simp only [fullWait, waitUnless_bind]
  simp only [fenceOpen, Bool.and_eq_false_iff] at ho
  split_ifs <;> simp_all

theorem exec_fence_open {s : State} {wid : Nat} {w : Wave} {f : CI} (h : AtControl s wid w) (ho : fenceOpen s w f = true) :
    exec (.fence f) s = .next (if isAcq (f.imm.toNat / 8 % 4)
      then acquireAt (setWave s wid { fencedWave f w with readRels := [] }) wid (f.imm.toNat % 8)
      else setWave s wid (fencedWave f w)) := by
  refine (exec_fence f s).trans (runControl_next h ?_)
  simp only [fenceOpen, Bool.and_eq_true] at ho
  obtain ⟨⟨⟨hq, hl⟩, hs⟩, hp⟩ := ho
  simp only [fullWait, hq, hl, hs, hp, waitUnless_true, res_ok_bind, modWave_setWave]
  rfl

/-! ## FENCEO (R249) -/

theorem enginesSee_iff {w : Wave} : enginesSee w = true ↔ (∀ b ∈ w.stores, 4 ≤ b.perf) ∧ w.loads = [] := by
  simp only [enginesSee, Bool.and_eq_true, storesAt_iff, List.isEmpty_iff]

theorem exec_fenceo_closed {s : State} {wid : Nat} {w : Wave} {f : CI} (h : AtControl s wid w) (ho : (quiet w && enginesSee w) = false) :
    exec (.fenceo f) s = .next { s with stalled := true } := by
  refine (exec_fenceo f s).trans (runControl_wait h ?_)
  rw [fullWait, waitUnless_bind, waitUnless_bind]
  cases hq : quiet w
  · rfl
  · rw [hq, Bool.true_and] at ho
    rw [ho]; rfl

theorem exec_fenceo_open {s : State} {wid : Nat} {w : Wave} {f : CI} (h : AtControl s wid w) (hq : quiet w = true) (he : enginesSee w = true) :
    exec (.fenceo f) s = .next (setWave s wid (finishControl (.fenceo f) (joinBlocks { w with dirty := [] }))) := by
  refine (exec_fenceo f s).trans (runControl_next h ?_)
  simp only [fullWait, hq, he, waitUnless_true, res_ok_bind]

/-! ## FENCEA (R250) -/

theorem fenceaDone_iff {s : State} {w : Wave} {scope : Nat} : fenceaDone s w scope = true ↔
    w.laneQueue = [] ∧ w.log = [] ∧ (∀ e ∈ w.engine, isMatrix e.op = true) ∧ ∀ c, 1 ≤ c → c ≤ scope → c ≤ 5 → unack s w c = 0 := by
  have hcount : ((List.range 6).all (fun c => c == 0 || decide (scope < c) || unack s w c == 0) = true)
      ↔ ∀ c, 1 ≤ c → c ≤ scope → c ≤ 5 → unack s w c = 0 := by
    simp only [List.all_eq_true, List.mem_range, Bool.or_eq_true, beq_iff_eq, decide_eq_true_eq]
    refine ⟨fun hall c h1 h2 h3 => ?_, fun hall c hc => ?_⟩
    · rcases hall c (by omega) with (h0 | h0) | h0
      · omega
      · omega
      · exact h0
    · by_cases h1 : 1 ≤ c ∧ c ≤ scope
      · exact .inr (hall c h1.1 h1.2 (by omega))
      · exact .inl (by omega)
  simp only [fenceaDone, allAcked, Bool.and_eq_true, quiet_iff, hcount, List.all_eq_true, and_assoc]

theorem asyncCode_zero_iff {n : Nat} (e : BitVec n) : e.truncate 8 = (0 : BitVec 8) ↔ e.toNat % 256 = 0 := by
  rw [← BitVec.toNat_inj]
  simp

theorem exec_fencea_at {s : State} {wid : Nat} {w : Wave} {f : CI} (h : AtControl s wid w) (hd : sFull w f.d.toNat = true) :
    exec (.fencea f) s = .next (if fenceaDone s w (f.imm.toNat % 8) then fenceaReport s wid w f.d.toNat
      else setWave s wid { w with ctl := .fencea (f.imm.toNat % 8) f.d.toNat }) := by
  refine (exec_fencea f s).trans (runControl_next h ?_)
  simp only [dstS_full hd, res_ok_bind]

/-- Settles O26: each fence by what it still waits for. -/
theorem fences : Obligations.Fences := by
  unfold Obligations.Fences
  intro s wid w f h scope order v released next acquired waits seen
  refine ⟨fun hq hlog => ?_, fun hbusy => ?_, fun hd => ?_⟩
  · have hquiet : quiet w = true := quiet_iff.mpr ⟨hq, hlog⟩
    refine ⟨fun hseen => ?_, fun hl => ⟨fun ho => exec_fence_closed h ?_, exec_fenceo_closed h ?_⟩, fun ho hs => exec_fence_closed h ?_,
      fun hp hno => exec_fence_closed h ?_, fun hl hs => exec_fenceo_open h hquiet (enginesSee_iff.mpr ⟨hs, hl⟩), fun hs => exec_fenceo_closed h ?_⟩
    · have hopen (hl : order = 1 ∨ order = 3 → w.loads = []) (hs : order = 3 → ∀ b ∈ w.stores, scope ≤ b.perf) :=
        exec_fence_open h (fenceOpen_iff.mpr ⟨hquiet, hl, hs, hseen⟩)
      refine ⟨fun ho => ?_, fun ho hl => ?_, fun ho => ?_, fun ho hl hs => ?_⟩
      · rw [hopen (by omega) (by omega), fencedWave, show f.imm.toNat / 8 % 4 = 0 from ho]; rfl
      · rw [hopen (fun _ => hl) (by omega), fencedWave, show f.imm.toNat / 8 % 4 = 1 from ho]; rfl
      · rw [hopen (by omega) (by omega), fencedWave, show f.imm.toNat / 8 % 4 = 2 from ho]; rfl
      · rw [hopen (fun _ => hl) (fun _ => hs), fencedWave, show f.imm.toNat / 8 % 4 = 3 from ho]; rfl
    · rw [Bool.eq_false_iff, Ne, fenceOpen_iff]
      exact fun hopen => hl (hopen.2.1 ho)
    · rw [Bool.eq_false_iff, Ne, Bool.and_eq_true, enginesSee_iff]
      exact fun hsee => hl hsee.2.2
    · rw [Bool.eq_false_iff, Ne, fenceOpen_iff]
      rintro ⟨-, -, hall, -⟩
      obtain ⟨b, hb, hlt⟩ := hs
      exact absurd (hall ho b hb) (Nat.not_le.mpr hlt)
    · rw [Bool.eq_false_iff, Ne, fenceOpen_iff]
      rintro ⟨-, -, -, hprom⟩
      exact absurd (hprom hp) (by simp [show promoted s w (f.imm.toNat % 8) = false from hno])
    · rw [Bool.eq_false_iff, Ne, Bool.and_eq_true, enginesSee_iff]
      rintro ⟨-, hall, -⟩
      obtain ⟨b, hb, hlt⟩ := hs
      exact absurd (hall b hb) (Nat.not_le.mpr hlt)
  · have hquiet : quiet w = false := by
      rw [Bool.eq_false_iff, Ne, quiet_iff]
      tauto
    refine ⟨exec_fence_closed h ?_, exec_fenceo_closed h (by rw [hquiet]; rfl)⟩
    rw [Bool.eq_false_iff, Ne, fenceOpen_iff, hquiet]
    rintro ⟨⟨⟩, -⟩
  · have hat := exec_fencea_at h hd
    intro done clear
    refine ⟨fun hdone => ?_, fun hno => ?_⟩
    · rw [hat, if_pos (fenceaDone_iff.mpr hdone), fenceaReport]
      have h63 : f.d.toNat ≠ 63 ↔ f.d ≠ 63 := by rw [Ne, Ne, ← BitVec.toNat_inj]; rfl
      refine ⟨fun hn => ?_, fun hn hz => ?_, fun hn hz => ?_⟩
      · rw [if_pos (h63.mpr hn)]; rfl
      · rw [if_neg (mt h63.mp (not_not.mpr hn)), if_pos ((asyncCode_zero_iff _).mpr hz)]; rfl
      · rw [if_neg (mt h63.mp (not_not.mpr hn)), if_neg (mt (asyncCode_zero_iff _).mp hz)]
    · rw [hat, if_neg (mt fenceaDone_iff.mp hno)]

end Sys2Proof.Machine
end

/-! # Barriers, waits for events, and the instructions that end a wave (R251 to R259) -/

section
namespace Sys2Proof.Machine

open Sys2Proof.Laws

/-! ## Barriers (R251, R252) -/

theorem foldl_min_le_start (r : List Nat) (n : Nat) : r.foldl min n ≤ n := by
  induction r generalizing n with
  | nil => exact Nat.le_refl n
  | cons x r ih => exact (ih (min n x)).trans (Nat.min_le_left n x)

theorem foldl_min_le_mem (r : List Nat) (n : Nat) : ∀ x ∈ r, r.foldl min n ≤ x := by
  induction r generalizing n with
  | nil => nofun
  | cons y r ih =>
    intro x hx
    obtain rfl | hx := List.mem_cons.mp hx
    · exact (foldl_min_le_start r (min n x)).trans (Nat.min_le_right n x)
    · exact ih (min n y) x hx

/-- The arrivals common to a barrier are at most those of each live participant. -/
theorem commonArrivals_le_live {s : State} {lid level unit : Nat} {p : Nat × Wave} (hp : p ∈ barWaves s lid level unit) :
    commonArrivals s lid level unit ≤ arrivals level p.2 (hasArrived s p.1 level p.2) := by
  have hmem : arrivals level p.2 (hasArrived s p.1 level p.2) ∈ (barWaves s lid level unit).map (fun p => arrivals level p.2 (hasArrived s p.1 level p.2))
      ++ (savedWaves s lid level unit).map (fun w => arrivals level w (w.ctl == .barrier level && quiet w)) :=
    List.mem_append_left _ (List.mem_map_of_mem hp)
  unfold commonArrivals
  dsimp only
  split
  · exact Nat.zero_le _
  · rename_i n r hl
    rw [hl] at hmem
    obtain h0 | hr := List.mem_cons.mp hmem
    · exact h0 ▸ foldl_min_le_start r _
    · exact foldl_min_le_mem r n _ hr

theorem commonArrivals_le_saved {s : State} {lid level unit : Nat} {u : Wave} (hu : u ∈ savedWaves s lid level unit) :
    commonArrivals s lid level unit ≤ arrivals level u (u.ctl == .barrier level && quiet u) := by
  have hmem : arrivals level u (u.ctl == .barrier level && quiet u)
      ∈ (barWaves s lid level unit).map (fun p => arrivals level p.2 (hasArrived s p.1 level p.2))
      ++ (savedWaves s lid level unit).map (fun w => arrivals level w (w.ctl == .barrier level && quiet w)) :=
    List.mem_append_right _ (List.mem_map_of_mem (f := fun w : Wave => arrivals level w (w.ctl == .barrier level && quiet w)) hu)
  unfold commonArrivals
  dsimp only
  split
  · exact Nat.zero_le _
  · rename_i n r hl
    rw [hl] at hmem
    obtain h0 | hr := List.mem_cons.mp hmem
    · exact h0 ▸ foldl_min_le_start r _
    · exact foldl_min_le_mem r n _ hr

/-- A participant whose arrivals bound `n` has left as many barriers, or has arrived at the next. -/
theorem left_or_arrived {level n : Nat} {w : Wave} {arrived : Bool} (h : n ≤ arrivals level w arrived) :
    n ≤ Cells.get 0 w.barArrivals level ∨ (n = Cells.get 0 w.barArrivals level + 1 ∧ arrived = true) := by
  cases arrived <;> simp only [arrivals, b2n] at h <;> simp at h ⊢ <;> omega

theorem hasArrived_iff {s : State} {wid level : Nat} {w : Wave} : hasArrived s wid level w = true ↔
    w.ctl = .barrier level ∧ quiet w = true ∧ releaseReady s wid w w.seq (levelScope level) = true
      ∧ (level = 0 → (∀ b < 16, batchPending w b = false) ∧ w.engineFault = none ∧ allAcked s w 5 = true) := by
  simp only [hasArrived, Bool.and_eq_true, Bool.or_eq_true, beq_iff_eq, bne_iff_ne, List.all_eq_true, List.mem_range, Bool.not_eq_true',
    Option.isNone_iff_eq_none, and_assoc, imp_iff_not_or, ne_eq]

/-- Whether some waves leave or none do, a try leaves the state with those that leave gone on. -/
theorem tryBarrier_getD (s : State) (lid level unit : Nat) : (tryBarrier s lid level unit).getD s
    = leaveAll level ((barWaves s lid level unit).filter (fun p => p.2.ctl == .barrier level
        && decide (Cells.get 0 p.2.barArrivals level < commonArrivals s lid level unit))) s := by
  unfold tryBarrier
  dsimp only
  split
  · rename_i h; rw [h]; rfl
  · rfl

theorem enterBarrier_armed {s : State} {wid : Nat} {w : Wave} {level : Nat} (h : (w.satf &&& w.satarm).toNat ≠ 0) :
    enterBarrier s wid w level = raises 0x13 (w.satf &&& w.satarm).toNat := by
  have hne : ¬ w.satf &&& w.satarm = 0 := fun h0 => h (by rw [h0]; rfl)
  simp only [enterBarrier, hne, decide_false, ensure_false, res_error_bind, raises]

theorem satArmed_zero {w : Wave} (h : (w.satf &&& w.satarm).toNat = 0) : w.satf &&& w.satarm = 0 := by
  rw [← BitVec.toNat_inj, h]; rfl

theorem enterBarrier_unarmed {s : State} {wid lid : Nat} {w : Wave} {l : Launch} {level : Nat} (hl : launchOf s w = some (lid, l))
    (h : (w.satf &&& w.satarm).toNat = 0) : enterBarrier s wid w level
      = .ok ((tryBarrier (setWave s wid { w with ctl := .barrier level }) lid level (barUnit level wid w)).getD
          (setWave s wid { w with ctl := .barrier level })) := by
  have hl' : launchOf s { w with ctl := .barrier level } = some (lid, l) := hl
  simp only [enterBarrier, satArmed_zero h, decide_true, ensure_true, res_ok_bind, hl', orStop]
  rfl

theorem exec_bar_open {s : State} {wid lid : Nat} {w : Wave} {f : CI} {l : Launch} (h : AtControl s wid w) (hl : launchOf s w = some (lid, l))
    (ho : f.imm.toNat % 8 = 1 ∨ flagCoresident l = true) :
    exec (.bar f) s = runControl s (fun wid w => enterBarrier s wid w (f.imm.toNat % 8)) := by
  have hopen : (f.imm.toNat % 8 == 1 || flagCoresident l) = true := by simpa using ho
  obtain ⟨ha, hw⟩ := h
  rw [exec_bar, execBar, runControl, runControl, ha]
  simp only [hw, hl, orStop, res_ok_bind, hopen, ensure_true]

theorem exec_bar_closed {s : State} {wid lid : Nat} {w : Wave} {f : CI} {l : Launch} (h : AtControl s wid w) (hl : launchOf s w = some (lid, l))
    (h1 : f.imm.toNat % 8 ≠ 1) (hc : flagCoresident l = false) :
    exec (.bar f) s = .next (raiseFault s (.control wid) 0x04 (detail04 w (.bar f) 25 false 0) none none) := by
  refine (exec_bar f s).trans (runControl_fault h ?_)
  have hclosed : (f.imm.toNat % 8 == 1 || flagCoresident l) = false := by simp [h1, hc]
  simp only [hl, orStop, res_ok_bind, hclosed, ensure_false, res_error_bind]

theorem exec_step_closed {s : State} {wid lid : Nat} {w : Wave} {f : CI} {l : Launch} (h : AtControl s wid w)
    (hl : launchOf s w = some (lid, l)) (hc : flagCoresident l = false ∨ flagSuperstep l = false) :
    exec (.step f) s = .next (raiseFault s (.control wid) 0x04 (detail04 w (.step f) 25 false 0) none none) := by
  refine (exec_step f s).trans (runControl_fault h ?_)
  have hclosed : (flagCoresident l && flagSuperstep l) = false := Bool.and_eq_false_iff.mpr hc
  simp only [hl, orStop, res_ok_bind, hclosed, ensure_false, res_error_bind]

theorem exec_step_open {s : State} {wid lid : Nat} {w : Wave} {f : CI} {l : Launch} (h : AtControl s wid w)
    (hl : launchOf s w = some (lid, l)) (hc : flagCoresident l = true) (hs : flagSuperstep l = true) (hf : w.engineFault = none) :
    exec (.step f) s = runControl s (fun wid w => enterBarrier s wid w 0) := by
  obtain ⟨ha, hw⟩ := h
  rw [exec_step, execStep, runControl, runControl, ha]
  simp only [hw, hl, orStop, res_ok_bind, hc, hs, Bool.and_self, ensure_true, deliverFault_none hf]

theorem exec_step_delivers {s : State} {wid lid : Nat} {w : Wave} {f : CI} {l : Launch} {t : State} (h : AtControl s wid w)
    (hl : launchOf s w = some (lid, l)) (hc : flagCoresident l = true) (hs : flagSuperstep l = true) (hd : deliverFault s wid w = some t)
    (ha : (w.satf &&& w.satarm).toNat = 0) : exec (.step f) s = .next t := by
  refine (exec_step f s).trans (runControl_next h ?_)
  simp only [hl, orStop, res_ok_bind, hc, hs, Bool.and_self, ensure_true, hd, satArmed_zero ha, if_true]

/-! ## WAITEV (R253) -/

theorem applyWaitev_image {f : CE} {s : State} {wid : Nat} {w : Wave} {addr target : Dword} {bs : List Byte}
    (hi : ImageAt s wid w addr.toNat 8 8 bs) : applyWaitev f s wid w addr target
      = if target.toNat ≤ natOfBytes bs then .ok (.done (acquireAt s wid (f.opts.toNat % 8)) (some (BitVec.ofNat 64 (natOfBytes bs)))) else waits := by
  simp only [applyWaitev, withImage_ready hi]

theorem Tbl.modify_modify {α : Type} (t : Tbl α) (k : Nat) (f g : α → α) :
    Tbl.modify (Tbl.modify t k f) k g = Tbl.modify t k (fun x => g (f x)) := by
  induction t with
  | nil => rfl
  | cons p r ih =>
    obtain ⟨j, w⟩ := p
    simp only [Tbl.modify]
    split_ifs with hk
    · simp only [Tbl.modify, hk, if_true]
    · simp only [Tbl.modify, hk, if_false, ih]

theorem modWave_modWave (s : State) (k : Nat) (f g : Wave → Wave) : modWave (modWave s k f) k g = modWave s k (fun w => g (f w)) := by
  simp only [modWave, Tbl.modify_modify]

/-- The event has reached the target: the wave acquires, takes the value and moves on. -/
theorem waitevTry_reached {f : CE} {s : State} {wid : Nat} {w : Wave} {addr target : Dword} {bs : List Byte}
    (hi : ImageAt s wid w addr.toNat 8 8 bs) (hle : target.toNat ≤ natOfBytes bs) : waitevTry f s wid w addr target
      = .ok (modWave (acquireAt s wid (f.opts.toNat % 8)) wid (fun u =>
          finishControl (.waitev f) (writeS f.d.toNat (BitVec.ofNat 64 (natOfBytes bs)) { u with ctl := .running }))) := by
  rw [waitevTry, applyWaitev_image hi, if_pos hle]
  exact congrArg Except.ok (modWave_modWave _ _ _ _)

theorem waitevTry_below {f : CE} {s : State} {wid : Nat} {w : Wave} {addr target : Dword} {bs : List Byte}
    (hi : ImageAt s wid w addr.toNat 8 8 bs) (hlt : natOfBytes bs < target.toNat) : waitevTry f s wid w addr target
      = .ok (setWave s wid { w with ctl := .waitev addr.toNat target.toNat (f.opts.toNat % 8) f.d.toNat }) := by
  rw [waitevTry, applyWaitev_image hi, if_neg (Nat.not_le.mpr hlt)]
  rfl

/-- Settles O27: a barrier is entered unless SATARM arms a set bit, and the common arrivals are a minimum over the participants. -/
theorem barriersAndEventWaits : Obligations.BarriersAndEventWaits := by
  unfold Obligations.BarriersAndEventWaits
  constructor
  · intro s wid w f lid l h hl level armed at_ here away all left leaves arrives raises
    have enters (i : Instr) (n : Nat) (hi : exec i s = runControl s (fun wid w => enterBarrier s wid w n)) : arrives i n := by
      refine ⟨fun ha => hi.trans (runControl_fault h (enterBarrier_armed ha)), fun ha => hi.trans (runControl_next h ?_)⟩
      rw [enterBarrier_unarmed hl ha, tryBarrier_getD]
    refine ⟨fun ho => enters _ _ (exec_bar_open h hl ho), exec_bar_closed h hl, fun hc hs => ⟨fun hf => enters _ _ (exec_step_open h hl hc hs hf),
      fun i pc unit hf ha => exec_step_delivers h hl hc hs (deliverFault_some hf) ha⟩, exec_step_closed h hl, fun n => ⟨fun p hp => ?_, fun u hu => ?_⟩⟩
    · exact (left_or_arrived (commonArrivals_le_live hp)).imp_right (fun ⟨hn, ha⟩ => ⟨hn, hasArrived_iff.mp ha⟩)
    · refine (left_or_arrived (commonArrivals_le_saved hu)).imp_right (fun ⟨hn, ha⟩ => ⟨hn, ?_⟩)
      rwa [Bool.and_eq_true, beq_iff_eq] at ha
  · intro s wid w f bs h hm ha hb hd a target scope hi
    refine ⟨fun hle => (exec_waitev f s).trans (runControl_next h ?_), fun hlt => (exec_waitev f s).trans (runControl_next h ?_)⟩ <;>
      rw [ceSources_ab_full ha hb hd, res_ok_bind, memReadyNow_open hm, res_ok_bind]
    · exact waitevTry_reached hi hle
    · exact waitevTry_below hi hlt

end Sys2Proof.Machine
end

/-! # Signatures, heartbeats, traps and exit (R255 to R259, R334) -/

section
namespace Sys2Proof.Machine

open Sys2Proof.Laws

/-! ## Signatures, traps and exit -/

theorem exec_sig_match {k : CL} {s : State} {wid : Nat} {w : Wave} (h : AtControl s wid w) (hk : w.sigc = k.lit) :
    exec (.sig k) s = .next (setWave s wid { w with pc := w.pc + BitVec.ofNat 64 (byteLength (.sig k)), sigc := sigReset }) := by
  refine (exec_sig k s).trans (runControl_next h ?_)
  simp only [hk, if_true]

theorem exec_sig_mismatch {k : CL} {s : State} {wid : Nat} {w : Wave} (h : AtControl s wid w) (hk : w.sigc ≠ k.lit) :
    exec (.sig k) s = .next (raiseFault (setWave s wid { w with sigc := sigReset }) (.control wid) 0x14
      (k.lit.toNat + w.sigc.toNat * 2 ^ 32) none none) := by
  refine (exec_sig k s).trans (runControl_next h ?_)
  simp only [hk, if_false]

/-- A trap of the control stream names the instruction it stands at (R334). -/
theorem trapControl_at {i : Instr} {s : State} {wid : Nat} {w : Wave} {code detail : Nat} (hw : getWave s wid = some w) :
    trapControl i s wid w code detail = takeFault (setWave s wid (finishControl i w)) (.control wid)
      { pc := w.pc.toNat, block := 0, active := 0, path := 0, cont := false, stream := false } (coreUnit 0 (wid / 32) 0) code detail none false := by
  simp only [trapControl, standing, hw]
  rfl

/-- Nothing of the wave is unfinished, so that EXIT can end it (R259). -/
structure MayExit (s : State) (w : Wave) : Prop where
  blocks : w.laneQueue = []
  log : w.log = []
  fault : w.engineFault = none
  engine : w.engine = []
  acked : allAcked s w 5 = true

theorem exec_exit_clean {c : C3} {s : State} {wid : Nat} {w : Wave} (h : AtControl s wid w) (hm : MayExit s w)
    (hz : w.asyncerr.toNat % 256 = 0) : exec (.exit c) s
      = .next (closeTiles (setWave s wid (finishControl (.exit c) { w with ctl := .exited, returnQueue := [] })) w.team) := by
  obtain ⟨hb, hl, hf, he, hack⟩ := hm
  refine (exec_exit c s).trans (runControl_next h ?_)
  have hq : quiet w = true := quiet_iff.mpr ⟨hb, hl⟩
  simp only [hq, if_true, deliverFault_none hf, fullWait_quiet hq, he, List.isEmpty_nil, hack, waitUnless_true,
    (asyncCode_zero_iff w.asyncerr).mpr hz, decide_true, ensure_true, res_ok_bind]

theorem exec_exit_error {c : C3} {s : State} {wid : Nat} {w : Wave} (h : AtControl s wid w) (hm : MayExit s w)
    (hz : w.asyncerr.toNat % 256 ≠ 0) : exec (.exit c) s
      = .next (raiseFault s (.control wid) (w.asyncerr.toNat % 256) w.asyncerr.toNat none none) := by
  obtain ⟨hb, hl, hf, he, hack⟩ := hm
  refine (exec_exit c s).trans (runControl_fault h ?_)
  have hq : quiet w = true := quiet_iff.mpr ⟨hb, hl⟩
  simp only [hq, if_true, deliverFault_none hf, fullWait_quiet hq, he, List.isEmpty_nil, hack, waitUnless_true,
    mt (asyncCode_zero_iff w.asyncerr).mp hz, decide_false, ensure_false, res_ok_bind, res_error_bind]

/-- Settles O28: one equation per instruction and condition. -/
theorem systemInstructions : Obligations.SystemInstructions := by
  unfold Obligations.SystemInstructions
  intro s wid w k c f lid l h hl past trap
  have traps (i : Instr) (code detail : Nat) (hi : exec i s = .next (trapControl i s wid w code detail)) : trap i code detail :=
    hi.trans (congrArg Host.Outcome.next (trapControl_at h.2))
  refine ⟨exec_sig_match h, exec_sig_mismatch h, exec_hbeat_persistent c h hl, exec_hbeat_not_persistent c h hl,
    (exec_yield c s).trans (runControl_next h rfl), (exec_nop c s).trans (runControl_next h rfl), fun ha => traps _ _ _ ?_,
    traps _ _ _ ((exec_brk f s).trans (runControl_next h rfl)), fun hb hlog hf he hack => ⟨exec_exit_clean h ⟨hb, hlog, hf, he, hack⟩,
      exec_exit_error h ⟨hb, hlog, hf, he, hack⟩⟩⟩
  refine (exec_trap f s).trans (runControl_next h ?_)
  rw [readyS_full (by simp [ha]) (by simp), res_ok_bind, srcS_full ha, res_ok_bind]

end Sys2Proof.Machine
end

/-! # Privileged installs, QPUT and the loads of signal boxes (R85 to R87, R254, R260, R433 to R446) -/

section
namespace Sys2Proof.Machine

open Sys2Proof.Laws

/-! ## Privileged installs (R260) -/

theorem privInstr_done {i : Instr} {f : CE} {apply : State → Nat → Wave → Dword → Dword → Res Applied} {s t : State} {wid : Nat} {w : Wave}
    {v : Option Dword} (h : AtControl s wid w) (hm : MemoryNow w (.control wid)) (ha : sFull w f.a.toNat = true)
    (hb : sFull w f.b.toNat = true) (ho : apply s wid w (sVal w f.a.toNat) (sVal w f.b.toNat) = .ok (.done t v)) :
    privInstr i f apply none s = .next (modWave t wid (finishControl i)) := by
  apply runControl_next h
  have hsrc : ceSources w f true true false [] = .ok (sVal w f.a.toNat, sVal w f.b.toNat, 0) :=
    ceSources_full (fun _ => ha) (fun _ => hb) nofun (fun _ hn => by cases hn)
  simp only [hsrc, memReadyNow_open hm, ho, res_ok_bind, finishApplied]

theorem privInstr_gives {i : Instr} {f : CE} {apply : State → Nat → Wave → Dword → Dword → Res Applied} {s t : State} {wid : Nat} {w : Wave}
    {v : Dword} (h : AtControl s wid w) (hm : MemoryNow w (.control wid)) (ha : sFull w f.a.toNat = true)
    (hb : sFull w f.b.toNat = true) (hd : sFull w f.d.toNat = true)
    (ho : apply s wid w (sVal w f.a.toNat) (sVal w f.b.toNat) = .ok (.done t (some v))) :
    privInstr i f apply (some f.d.toNat) s = .next (modWave t wid (fun u => finishControl i (writeS f.d.toNat v u))) := by
  apply runControl_next h
  simp only [ceSources_ab_full ha hb hd, memReadyNow_open hm, ho, res_ok_bind, finishApplied]

theorem privInstr_raises {i : Instr} {f : CE} {apply : State → Nat → Wave → Dword → Dword → Res Applied} {s : State} {wid : Nat} {w : Wave}
    {code detail : Nat} (h : AtControl s wid w) (hm : MemoryNow w (.control wid)) (ha : sFull w f.a.toNat = true)
    (hb : sFull w f.b.toNat = true) (ho : apply s wid w (sVal w f.a.toNat) (sVal w f.b.toNat) = raises code detail) :
    privInstr i f apply none s = .next (raiseFault s (.control wid) code detail none none) := by
  apply runControl_fault h
  have hsrc : ceSources w f true true false [] = .ok (sVal w f.a.toNat, sVal w f.b.toNat, 0) :=
    ceSources_full (fun _ => ha) (fun _ => hb) nofun (fun _ hn => by cases hn)
  simp only [hsrc, memReadyNow_open hm, ho, res_ok_bind, res_error_bind, raises]

theorem namedContext_none {s : State} {b : Dword} (h : getCtx s b.toNat = none) : namedContext s b = raises 0x12 (rangeDetail b.toNat 0) := by
  simp only [namedContext, h, orStop, raises]

theorem namedContext_some {s : State} {b : Dword} {x : Context} (h : getCtx s b.toNat = some x) : namedContext s b = .ok x := by
  simp only [namedContext, h, orStop]

theorem applyDtload_image {f : CE} {s : State} {wid : Nat} {w : Wave} {addr ctx : Dword} {x : Context} {bs : List Byte}
    (hx : getCtx s ctx.toNat = some x) (ha : addr ≠ 0) (hi : ImageAt s wid w addr.toNat 64 2048 bs) :
    (decodeImageBad ((halves bs 1024).map (fun e => e.toNat)) = none → applyDtload f s wid w addr ctx
      = .ok (.done (modCtx s ctx.toNat (fun y => { y with decode := .image (halves bs 1024) })) none))
    ∧ ∀ b, decodeImageBad ((halves bs 1024).map (fun e => e.toNat)) = some b →
      applyDtload f s wid w addr ctx = raises 0x04 (detail04 w (.dtload f) 18 true b) := by
  refine ⟨fun hr => ?_, fun b hr => ?_⟩ <;> simp only [applyDtload, namedContext_some hx, res_ok_bind, ha, if_false, withImage_ready hi, hr]

theorem applyCapset_image {f : CE} {s : State} {wid : Nat} {w : Wave} {addr ctx : Dword} {x : Context} {bs : List Byte}
    (hx : getCtx s ctx.toNat = some x) (ha : addr ≠ 0) (hi : ImageAt s wid w addr.toNat 32 32 bs) :
    (capImageBad bs = none → applyCapset f s wid w addr ctx = .ok (.done (modCtx s ctx.toNat (fun y => { y with
      caps := if (capOfImage bs).kind = 0 then Tbl.del y.caps (f.opts.toNat % 256) else Tbl.put y.caps (f.opts.toNat % 256) (capOfImage bs),
      posted := Tbl.del y.posted (f.opts.toNat % 256) })) none))
    ∧ ∀ b, capImageBad bs = some b → applyCapset f s wid w addr ctx = raises 0x04 (detail04 w (.capset f) 18 true b) := by
  refine ⟨fun hr => ?_, fun b hr => ?_⟩ <;> simp only [applyCapset, namedContext_some hx, res_ok_bind, ha, if_false, withImage_ready hi, hr]
  by_cases hk : (capOfImage bs).kind = 0 <;> simp only [hk, if_true, if_false] <;> rfl

/-! ## QPUT (R254) -/

theorem exec_qput_applied {f : CE} {s : State} {wid : Nat} {w : Wave} (h : AtControl s wid w) (hm : MemoryNow w (.control wid))
    (ha : sFull w f.a.toNat = true) (hd : sFull w f.d.toNat = true) (hq : quiet w = true) (hr : releaseReady s wid w w.seq 4 = true) :
    (∀ t v, applyQput f s wid w (sVal w f.a.toNat) 0 = .ok (.done t (some v)) →
      exec (.qput f) s = .next (modWave t wid (fun u => finishControl (.qput f) (writeS f.d.toNat v u))))
    ∧ ∀ code detail, applyQput f s wid w (sVal w f.a.toNat) 0 = raises code detail →
      exec (.qput f) s = .next (raiseFault s (.control wid) code detail none none) := by
  have hsrc : ceSources w f true false false [f.d.toNat] = .ok (sVal w f.a.toNat, 0, 0) :=
    ceSources_full (fun _ => ha) nofun nofun (fun n hn => by rw [List.mem_singleton.mp hn]; exact hd)
  refine ⟨fun t v ho => (exec_qput f s).trans (runControl_next h ?_), fun code detail ho => (exec_qput f s).trans (runControl_fault h ?_)⟩ <;>
    simp only [fullWait_quiet hq, hsrc, memReadyNow_open hm, releaseNow, hr, waitUnless_true, ho, res_ok_bind, res_error_bind, raises, finishApplied]

/-- An entry at a global, aligned address for a queue that QPUT may fill. -/
theorem applyQput_checks {f : CE} {s : State} {wid : Nat} {w : Wave} {addr : Dword} {c : Nat} {x : Context} (hap : apertureOf addr.toNat = 0)
    (hal : addr.toNat % 128 = 0) (hx : InContext s w c x) :
    applyQput f s wid w addr 0 = (ensure (queueLive s (f.opts.toNat % 64) && (getQueue s (f.opts.toNat % 64)).deviceFed
        && (getQueue s (f.opts.toNat % 64)).ctx == c) 0x0B (f.opts.toNat % 64) >>= fun _ =>
      withImage s wid w addr.toNat 128 128 fun bs =>
        if enqueued (getQueue s (f.opts.toNat % 64)) + 1 = queueSize (getQueue s (f.opts.toNat % 64)) then .ok (.done s (some 0))
        else .ok (.done (modQueue (writePhys s ((getQueue s (f.opts.toNat % 64)).base + 128 * (getQueue s (f.opts.toNat % 64)).tail) bs)
          (f.opts.toNat % 64) (fun q => { q with tail := (q.tail + 1) % queueSize q })) (some 1))) := by
  simp only [applyQput, applyQput.globalOnlyAddr, hap, hal, decide_true, ensure_true, res_ok_bind, ctxRes_ok hx]

theorem applyQput_refused {f : CE} {s : State} {wid : Nat} {w : Wave} {addr : Dword} {c : Nat} {x : Context} (hap : apertureOf addr.toNat = 0)
    (hal : addr.toNat % 128 = 0) (hx : InContext s w c x) (hno : queueLive s (f.opts.toNat % 64) = false
      ∨ (getQueue s (f.opts.toNat % 64)).deviceFed = false ∨ (getQueue s (f.opts.toNat % 64)).ctx ≠ c) :
    applyQput f s wid w addr 0 = raises 0x0B (f.opts.toNat % 64) := by
  have hfalse : (queueLive s (f.opts.toNat % 64) && (getQueue s (f.opts.toNat % 64)).deviceFed
      && (getQueue s (f.opts.toNat % 64)).ctx == c) = false := by
    obtain hl | hf | hc := hno
    · simp [hl]
    · simp [hf]
    · simp [hc]
  simp only [applyQput_checks hap hal hx, hfalse, ensure_false, res_error_bind, raises]

/-! ## SBLOAD and SBFLOW (R433 to R435, R446) -/

theorem globalOnly_global {addr : Nat} (h : apertureOf addr = 0) : globalOnly addr = .ok () := by
  simp only [globalOnly, h, decide_true, ensure_true]

theorem applySbload_noBox {f : CE} {s : State} {wid : Nat} {w : Wave} {addr sel : Dword} (h : 128 ≤ sel.toNat) :
    applySbload f s wid w addr sel = .ok (.done s (some (boxStatus 1 0))) := by
  simp only [applySbload, h, if_true]

theorem applySbflow_noBox {f : CE} {s : State} {wid : Nat} {w : Wave} {addr sel : Dword} (h : 128 ≤ sel.toNat) :
    applySbflow f s wid w addr sel = .ok (.done s (some (boxStatus 1 0))) := by
  simp only [applySbflow, h, if_true]

/-- What SBLOAD does with the words of an image (R434, R446). -/
theorem applySbload_image {f : CE} {s : State} {wid : Nat} {w : Wave} {addr sel : Dword} {h bs : List Byte} (hs : sel.toNat < 128)
    (hap : apertureOf addr.toNat = 0) (hh : ImageAt s wid w addr.toNat 64 4 h)
    (hb : ImageAt s wid w addr.toNat 64 (4 * if 1 ≤ natOfBytes h % 256 ∧ natOfBytes h % 256 ≤ 64 then natOfBytes h % 256 + 1 else 1) bs) :
    let ws := lineWords bs (if 1 ≤ natOfBytes h % 256 ∧ natOfBytes h % 256 ≤ 64 then natOfBytes h % 256 + 1 else 1) 0
    (∀ r i, imageFailure ws = some (r, i) → applySbload f s wid w addr sel = .ok (.done s (some (boxStatus r i))))
    ∧ (imageFailure ws = none → (getBox s sel.toNat).bindings ≠ [] → applySbload f s wid w addr sel = .ok (.done s (some (boxStatus 10 0))))
    ∧ (imageFailure ws = none → (getBox s sel.toNat).bindings = [] → (getBox s sel.toNat).run = none → (getBox s sel.toNat).offered = [] →
        applySbload f s wid w addr sel = .ok (.done (setBox s sel.toNat { getBox s sel.toNat with kernel := ws.map (BitVec.ofNat 32) })
          (some (boxStatus 0 0)))) := by
  intro ws
  refine ⟨fun r i hw => ?_, fun hw hn => ?_, fun hw hn hrun hoff => ?_⟩ <;>
    rw [applySbload, if_neg (Nat.not_le.mpr hs), globalOnly_global hap, res_ok_bind, withImage_ready hh] <;> dsimp only <;>
    rw [withImage_ready hb, show imageFailure (lineWords bs _ 0) = _ from hw]
  · simp only [List.isEmpty_eq_false_iff.mpr hn, Bool.not_false, if_true]
  · simp only [hn, hrun, hoff, List.isEmpty_nil, Bool.not_true, Option.isSome_none, Bool.or_self, Bool.false_eq_true, if_false]
    rfl

/-- What SBFLOW does with a record that its table allows (R433, R435). -/
theorem applySbflow_record {f : CE} {s : State} {wid : Nat} {w : Wave} {addr sel : Dword} {bs : List Byte} (hs : sel.toNat < 128)
    (hap : apertureOf addr.toNat = 0) (hb : ImageAt s wid w addr.toNat 64 64 bs) :
    (∀ k, recordBad bs = some k → applySbflow f s wid w addr sel = .ok (.done s (some (boxStatus 11 k))))
    ∧ (recordBad bs = none → (bs.getD 14 0).toNat = 0 → applySbflow f s wid w addr sel
      = bindFlow s wid w sel.toNat (bindingOf bs) (bs.getD 12 0).toNat (natOfBytes ((bs.drop 16).take 8)))
    ∧ (recordBad bs = none → (bs.getD 14 0).toNat ≠ 0 → applySbflow f s wid w addr sel
      = unbindFlow s wid w sel.toNat (bindingOf bs) (decide ((bs.getD 14 0).toNat = 2)) (natOfBytes ((bs.drop 16).take 8))) := by
  refine ⟨fun k hr => ?_, fun hr ho => ?_, fun hr ho => ?_⟩ <;>
    rw [applySbflow, if_neg (Nat.not_le.mpr hs), globalOnly_global hap, res_ok_bind, withImage_ready hb] <;> simp only [hr]
  simp only [ho]

/-- The box has a kernel, and nothing of the die, the box or the job stands against the binding (R433). -/
structure MayBind (s : State) (sel : Nat) (b : Binding) : Prop where
  kernel : (getBox s sel).kernel ≠ []
  die : dieConflict s sel b = false
  part : partConflict (getBox s sel) b = false
  event : eventOk s b = true
  room : (getBox s sel).bindings.length < 8

/-- The status of a bind that the box or the job does not allow (R433). -/
theorem bindFlow_refused {s : State} {wid : Nat} {w : Wave} {sel init addr : Nat} {b : Binding} :
    ((getBox s sel).kernel = [] → bindFlow s wid w sel b init addr = .ok (.done s (some (boxStatus 12 0))))
    ∧ ((getBox s sel).kernel ≠ [] → (dieConflict s sel b = true → bindFlow s wid w sel b init addr = .ok (.done s (some (boxStatus 13 0))))
      ∧ (dieConflict s sel b = false →
        (partConflict (getBox s sel) b = true → bindFlow s wid w sel b init addr = .ok (.done s (some (boxStatus 14 0))))
        ∧ (partConflict (getBox s sel) b = false →
          (eventOk s b = false → bindFlow s wid w sel b init addr = .ok (.done s (some (boxStatus 15 0))))
          ∧ (eventOk s b = true → 8 ≤ (getBox s sel).bindings.length →
            bindFlow s wid w sel b init addr = .ok (.done s (some (boxStatus 16 0))))))) := by
  refine ⟨fun hk => ?_, fun hk => ⟨fun hd => ?_, fun hd => ⟨fun hp => ?_, fun hp => ⟨fun he => ?_, fun he hr => ?_⟩⟩⟩⟩
  · simp only [bindFlow, List.isEmpty_iff.mpr hk, if_true]
  · simp only [bindFlow, List.isEmpty_eq_false_iff.mpr hk, hd, Bool.false_eq_true, if_false, if_true]
  · simp only [bindFlow, List.isEmpty_eq_false_iff.mpr hk, hd, hp, Bool.false_eq_true, if_false, if_true]
  · simp only [bindFlow, List.isEmpty_eq_false_iff.mpr hk, hd, hp, he, Bool.not_false, Bool.false_eq_true, if_false, if_true]
  · simp only [bindFlow, List.isEmpty_eq_false_iff.mpr hk, hd, hp, he, hr, Bool.not_true, Bool.false_eq_true, if_false, if_true]

/-- A box with the records and one more binding. -/
def boundBox (s : State) (sel : Nat) (b : Binding) (recs : Cells Byte) : State :=
  setBox s sel { getBox s sel with recs := recs, bindings := (getBox s sel).bindings ++ [b] }

theorem bindFlow_kept {s : State} {wid : Nat} {w : Wave} {sel addr : Nat} {b : Binding} (hb : MayBind s sel b) :
    bindFlow s wid w sel b 0 addr = .ok (.done (boundBox s sel b (getBox s sel).recs) (some (boxStatus 0 0))) := by
  obtain ⟨hk, hdie, hpart, hev, hroom⟩ := hb
  simp only [bindFlow, List.isEmpty_eq_false_iff.mpr hk, hdie, hpart, hev, Nat.not_le.mpr hroom, Bool.false_eq_true, Bool.not_true, if_false]
  rfl

theorem bindFlow_zeroed {s : State} {wid : Nat} {w : Wave} {sel addr : Nat} {b : Binding} (hb : MayBind s sel b) :
    bindFlow s wid w sel b 1 addr = .ok (.done (boundBox s sel b (writeRecs (getBox s sel).recs (b.partBase * 256)
      (List.replicate (b.partCount * 256) 0))) (some (boxStatus 0 0))) := by
  obtain ⟨hk, hdie, hpart, hev, hroom⟩ := hb
  simp only [bindFlow, List.isEmpty_eq_false_iff.mpr hk, hdie, hpart, hev, Nat.not_le.mpr hroom, Bool.false_eq_true, Bool.not_true, if_false]
  rfl

theorem bindFlow_copied {s : State} {wid c : Nat} {w : Wave} {sel addr : Nat} {b : Binding} {y : Context} (hb : MayBind s sel b)
    (hy : InContext s w c y) :
    (∀ bytes, readRange s w wid y addr (b.partCount * 256) = .ok bytes → bindFlow s wid w sel b 2 addr
      = .ok (.done (boundBox s sel b (writeRecs (getBox s sel).recs (b.partBase * 256) bytes)) (some (boxStatus 0 0))))
    ∧ (∀ p, readRange s w wid y addr (b.partCount * 256) = .error (.denied p) → bindFlow s wid w sel b 2 addr
      = .ok (.done s (some (boxStatus 18 0))))
    ∧ ∀ p q, readRange s w wid y addr (b.partCount * 256) = .error (.poisoned p q) → bindFlow s wid w sel b 2 addr
      = .ok (.done s (some (boxStatus 18 0))) := by
  obtain ⟨hk, hdie, hpart, hev, hroom⟩ := hb
  refine ⟨fun bytes hr => ?_, fun p hr => ?_, fun p q hr => ?_⟩ <;>
    simp only [bindFlow, List.isEmpty_eq_false_iff.mpr hk, hdie, hpart, hev, Nat.not_le.mpr hroom, Bool.false_eq_true, Bool.not_true, if_false,
      ctxRes_ok hy, res_ok_bind, hr, copyFails]
  rfl

/-- The binding that an unbind names. -/
def namedBinding (s : State) (sel : Nat) (b : Binding) : Option Binding :=
  (getBox s sel).bindings.find? (fun c => c.job == b.job && c.flowLo == b.flowLo)

theorem unbindFlow_unbound {s : State} {wid : Nat} {w : Wave} {sel addr : Nat} {b : Binding} {copy : Bool} (h : namedBinding s sel b = none) :
    unbindFlow s wid w sel b copy addr = .ok (.done s (some (boxStatus 17 0))) := by
  unfold namedBinding at h
  simp only [unbindFlow, h]

/-- The box without the binding. -/
def freedBox (s : State) (sel : Nat) (c : Binding) : State :=
  setBox s sel { getBox s sel with bindings := (getBox s sel).bindings.erase c }

/-- The bytes of the binding's partition. -/
def partBytes (s : State) (sel : Nat) (b : Binding) : List Byte :=
  (List.range (b.partCount * 256)).map (fun i => Cells.get 0 (getBox s sel).recs (b.partBase * 256 + i))

/-- A binding of an idle box is taken away, its records copied out if asked (R435). -/
theorem unbindFlow_idle {s : State} {wid : Nat} {w : Wave} {sel addr : Nat} {b c : Binding} (h : namedBinding s sel b = some c)
    (hrun : (getBox s sel).run = none) (hoff : (getBox s sel).offered = []) :
    unbindFlow s wid w sel b false addr = .ok (.done (freedBox s sel c) (some (boxStatus 0 0)))
    ∧ ∀ n y, InContext s w n y →
      (∀ t, copyLines wid w y (b.partCount * 256 / 128) (freedBox s sel c) addr (partBytes s sel b) = .ok t →
        unbindFlow s wid w sel b true addr
        = .ok (.done (modWave t wid (markWrite addr (b.partCount * 256))) (some (boxStatus 0 0))))
      ∧ ∀ p, copyLines wid w y (b.partCount * 256 / 128) (freedBox s sel c) addr (partBytes s sel b) = .error (.denied p) →
        unbindFlow s wid w sel b true addr = .ok (.done s (some (boxStatus 18 0))) := by
  unfold namedBinding at h
  simp only [freedBox, partBytes]
  refine ⟨?_, fun n y hy => ⟨fun t ht => ?_, fun p ht => ?_⟩⟩ <;>
    simp only [unbindFlow, h] <;> refine (if_neg (by simp [hrun, hoff])).trans ?_
  · rfl
  · simp only [if_true, ctxRes_ok hy, res_ok_bind, ht]
  · simp only [if_true, ctxRes_ok hy, res_ok_bind, ht, copyFails]

/-- Settles O29: each instruction by what its image says and what stands in its way. -/
theorem privilegedInstallsAndBoxLoads : Obligations.PrivilegedInstallsAndBoxLoads := by
  unfold Obligations.PrivilegedInstallsAndBoxLoads
  constructor
  · intro s wid w f h hm ha a n k q puts raises
    refine ⟨fun hb => ⟨fun hnone => ?_, fun x hx => ⟨fun hz => ⟨?_, ?_⟩, fun bs hnz hi => ⟨fun hr => ?_, fun b hr => ?_⟩,
      fun bs hnz hi => ⟨fun hr => ?_, fun b hr => ?_⟩⟩⟩, fun c x hd hq hrel hap hal hx => ?_⟩
    · simp only [List.forall_mem_cons]
      refine ⟨(exec_dtload f s).trans (privInstr_raises h hm ha hb ?_), (exec_capset f s).trans (privInstr_raises h hm ha hb ?_), by simp⟩
      · rw [applyDtload, namedContext_none hnone]; rfl
      · rw [applyCapset, namedContext_none hnone]; rfl
    · refine (exec_dtload f s).trans (privInstr_done h hm ha hb (v := none) ?_)
      simp only [applyDtload, namedContext_some hx, res_ok_bind, show sVal w f.a.toNat = 0 from hz, if_true]
      rfl
    · refine (exec_capset f s).trans (privInstr_done h hm ha hb (v := none) ?_)
      simp only [applyCapset, namedContext_some hx, res_ok_bind, show sVal w f.a.toNat = 0 from hz, if_true]
      rfl
    · exact (exec_dtload f s).trans (privInstr_done h hm ha hb ((applyDtload_image hx hnz hi).1 hr))
    · exact (exec_dtload f s).trans (privInstr_raises h hm ha hb ((applyDtload_image hx hnz hi).2 b hr))
    · exact (exec_capset f s).trans (privInstr_done h hm ha hb ((applyCapset_image hx hnz hi).1 hr))
    · exact (exec_capset f s).trans (privInstr_raises h hm ha hb ((applyCapset_image hx hnz hi).2 b hr))
    · obtain ⟨gives, refuses⟩ := exec_qput_applied h hm ha hd hq hrel
      refine ⟨fun hno => refuses _ _ (applyQput_refused hap hal hx hno), fun bs hi hlive hfed hctx => ⟨fun hfull => gives _ _ ?_,
        fun hroom => gives _ _ ?_⟩⟩ <;>
        rw [applyQput_checks hap hal hx, show queueLive s _ = true from hlive, show (getQueue s _).deviceFed = true from hfed,
          show (getQueue s _).ctx = c from hctx, beq_self_eq_true, Bool.and_self, Bool.and_self, ensure_true, res_ok_bind, withImage_ready hi]
      · exact if_pos hfull
      · exact if_neg hroom
  · intro s wid w f c y h hy hm ha hb hd a sel x gives
    have sbload (t : State) (v : Dword) (ho : applySbload f s wid w (sVal w f.a.toNat) (sVal w f.b.toNat) = .ok (.done t (some v))) :
        exec (.sbload f) s = .next (modWave t wid (fun u => finishControl (.sbload f) (writeS f.d.toNat v u))) :=
      (exec_sbload f s).trans (privInstr_gives h hm ha hb hd ho)
    have sbflow (t : State) (v : Dword) (ho : applySbflow f s wid w (sVal w f.a.toNat) (sVal w f.b.toNat) = .ok (.done t (some v))) :
        exec (.sbflow f) s = .next (modWave t wid (fun u => finishControl (.sbflow f) (writeS f.d.toNat v u))) :=
      (exec_sbflow f s).trans (privInstr_gives h hm ha hb hd ho)
    refine ⟨fun hs => ⟨sbload _ _ (applySbload_noBox hs), sbflow _ _ (applySbflow_noBox hs)⟩, fun hs hap => ⟨fun hh bs hhi => ?_,
      fun bs hi => ?_⟩⟩
    · intro n words hbi
      obtain ⟨bad, bound, loads⟩ := applySbload_image (f := f) hs hap hhi hbi
      exact ⟨fun r i hr => sbload _ _ (bad r i hr), fun hr hn => sbload _ _ (bound hr hn),
        fun hr hn hrun hoff => sbload _ _ (loads hr hn hrun hoff)⟩
    · obtain ⟨bad, binds, unbinds⟩ := applySbflow_record (f := f) hs hap hi
      intro b op init mem size bound copied
      refine ⟨fun k hr => sbflow _ _ (bad k hr), fun hr h0 => ?_, fun hr h0 => ?_⟩
      · have bind (t : State) (v : Dword) (ho : bindFlow s wid w sel b init mem = .ok (.done t (some v))) := sbflow t v ((binds hr h0).trans ho)
        obtain ⟨noKernel, others⟩ := bindFlow_refused (s := s) (wid := wid) (w := w) (sel := sel) (init := init) (addr := mem) (b := b)
        split_ifs with hk hdie hpart hev hroom
        · exact bind _ _ (noKernel hk)
        · exact bind _ _ ((others hk).1 hdie)
        · exact bind _ _ (((others hk).2 (Bool.eq_false_iff.mpr hdie)).1 hpart)
        · exact bind _ _ ((((others hk).2 (Bool.eq_false_iff.mpr hdie)).2 (Bool.eq_false_iff.mpr hpart)).1 hev)
        · exact bind _ _ ((((others hk).2 (Bool.eq_false_iff.mpr hdie)).2 (Bool.eq_false_iff.mpr hpart)).2 (by simpa using hev) hroom)
        · have hb : MayBind s sel b :=
            ⟨hk, Bool.eq_false_iff.mpr hdie, Bool.eq_false_iff.mpr hpart, by simpa using hev, Nat.not_le.mp hroom⟩
          obtain ⟨copies, denied, poisoned⟩ := bindFlow_copied (wid := wid) (w := w) (addr := mem) hb hy
          refine ⟨fun hi => bind _ _ ?_, fun hi => bind _ _ ?_, fun hi => ⟨fun bytes hbytes => bind _ _ ?_, fun p hp => bind _ _ ?_,
            fun p q hp => bind _ _ ?_⟩⟩ <;> rw [hi]
          · exact bindFlow_kept hb
          · exact bindFlow_zeroed hb
          · exact copies bytes hbytes
          · exact denied p hp
          · exact poisoned p q hp
      · have unbind (t : State) (v : Dword) (ho : unbindFlow s wid w sel b (decide (op = 2)) mem = .ok (.done t (some v))) :=
          sbflow t v ((unbinds hr h0).trans ho)
        refine ⟨fun hn => unbind _ _ (unbindFlow_unbound hn), fun c hc hrun hoff => ?_⟩
        obtain ⟨plain, copied⟩ := unbindFlow_idle (wid := wid) (w := w) (addr := mem) hc hrun hoff
        intro freed out
        refine ⟨fun h1 => unbind _ _ ?_, fun h2 => ⟨fun t ht => unbind _ _ ?_, fun p hp => unbind _ _ ?_⟩⟩
        · rw [h1]; exact plain
        · rw [h2]; exact (copied _ _ hy).1 t ht
        · rw [h2]; exact (copied _ _ hy).2 p hp

end Sys2Proof.Machine
end

/-! # Signal boxes: arithmetic words (R437, R438, R440, R447) -/

section
namespace Sys2Proof.Machine

open Sys2Proof.Laws

/-! ## The integers and the conditions of a word -/

/-- The integer that a word stands for under a type's bits. -/
theorem typed_bits (ty : BitVec 2) (x : Word) : typed ty.toNat x = if ty = 0 then x.toInt else (x.toNat : Int) := by
  have hz : ty.toNat = 0 ↔ ty = 0 := by rw [← BitVec.toNat_inj]; rfl
  simp only [typed, hz]

@[simp] theorem ofInt_typed (ty : Nat) (x : Word) : BitVec.ofInt 32 (typed ty x) = x := by
  unfold typed
  split_ifs
  · exact BitVec.ofInt_toInt
  · rw [BitVec.ofInt_natCast, BitVec.ofNat_toNat, BitVec.setWidth_eq]

/-- Integer results wrap modulo 2³². -/
theorem ofInt_typed_sub (ty : Nat) (a b : Word) : BitVec.ofInt 32 (typed ty a - typed ty b) = a - b := by
  rw [Int.sub_eq_add_neg, BitVec.ofInt_add, BitVec.ofInt_neg, ofInt_typed, ofInt_typed, BitVec.sub_eq_add_neg]

theorem condHolds_eq (c : Nat) (lt eq un : Bool) : condHolds c lt eq un = if c = 0 then eq else if c = 1 then !eq else if c = 2 then lt
    else if c = 3 then lt || eq else if c = 4 then !lt && !eq && !un else if c = 5 then !lt && !un else false := by
  match c with
  | 0 | 1 | 2 | 3 | 4 | 5 => rfl
  | n + 6 => simp [condHolds]

theorem ty_ne_two {ty : BitVec 2} (h : ty ≠ 2) : ty.toNat ≠ 2 := fun h2 => h (BitVec.eq_of_toNat_eq (by rw [h2]; rfl))

theorem arith_int {ty : BitVec 2} (h : ty ≠ 2) (int : Int → Int → Int) (fp : Nat → Nat → Rounded) (a b : Word) :
    arith ty.toNat int fp a b = (BitVec.ofInt 32 (int (typed ty.toNat a) (typed ty.toNat b)), ckInt ty.toNat (int (typed ty.toNat a) (typed ty.toNat b))) := by
  simp only [arith, ty_ne_two h, if_false]

theorem arith_fp {ty : BitVec 2} (h : ty = 2) (int : Int → Int → Int) (fp : Nat → Nat → Rounded) (a b : Word) :
    arith ty.toNat int fp a b = (BitVec.ofNat 32 (fp a.toNat b.toNat).bits, ckFp a.toNat b.toNat (fp a.toNat b.toNat)) := by
  subst h
  simp only [arith]
  rfl

/-- A checked integer result traps exactly where it lies outside its type's range. -/
theorem ckInt_iff (ty : BitVec 2) (z : Int) : ckInt ty.toNat z = true ↔
    ¬(if ty = 0 then -(2 ^ 31 : Int) ≤ z ∧ z < 2 ^ 31 else 0 ≤ z ∧ z < 2 ^ 32) := by
  have hz : ty.toNat = 0 ↔ ty = 0 := by rw [← BitVec.toNat_inj]; rfl
  simp only [ckInt, hz]
  split_ifs <;> simp only [Bool.or_eq_true, decide_eq_true_eq, not_and_or, not_le, not_lt]

/-- A checked FP32 result traps for an infinity from finite operands and a NaN from operands that are none. -/
theorem ckFp_iff (a b : Nat) (r : Rounded) : ckFp a b r = true ↔
    ((∃ g, fpOfFp32 r.bits = .inf g) ∧ (∃ s m e, fpOfFp32 a = .fin s m e) ∧ ∃ s m e, fpOfFp32 b = .fin s m e)
      ∨ (fpOfFp32 r.bits = .nan ∧ fpOfFp32 a ≠ .nan ∧ fpOfFp32 b ≠ .nan) := by
  simp only [ckFp]
  generalize fpOfFp32 r.bits = z
  generalize fpOfFp32 a = u
  generalize fpOfFp32 b = v
  cases z with
  | fin g m e => simp
  | inf g => cases u <;> cases v <;> simp
  | nan => cases u <;> cases v <;> simp [Fp.isNaN]

/-! ## A word over lanes (R440) -/

/-- The operands of a QR word: those of its f registers, or of each lane of its e registers. -/
def laneArgs (f : QR) (r : BoxRun) : List (Word × Word × Word) :=
  (List.range 16).map (fun l =>
    (getE r f.a.toNat l, if f.bs then getF r f.b.toNat else getE r f.b.toNat l, getE r f.c.toNat l))

theorem lanesOp_scalar {f : QR} {op : Word → Word → Word → Word × Bool} (hs : f.s = true) (x : SigBox) (r : BoxRun) :
    lanesOp f op x r = if f.ck && (op (getF r f.a.toNat) (getF r f.b.toNat) (getF r f.c.toNat)).2 then .trap 4 0 0
      else .go x (setF f.d.toNat (op (getF r f.a.toNat) (getF r f.b.toNat) (getF r f.c.toNat)).1 r) := by
  simp only [lanesOp, hs, if_true]

theorem lanesOp_lanes {f : QR} {op : Word → Word → Word → Word × Bool} (hs : f.s = false) (x : SigBox) (r : BoxRun) :
    lanesOp f op x r = if f.ck && (laneArgs f r).any (fun p => (op p.1 p.2.1 p.2.2).2) then .trap 4 0 0
      else .go x (setLanes f.d.toNat ((laneArgs f r).map (fun p => (op p.1 p.2.1 p.2.2).1)) r) := by
  simp only [lanesOp, hs, Bool.false_eq_true, if_false, laneArgs, List.map_map, List.any_map, Function.comp_def]

/-- The kernel goes on to its next word with registers `r'`. -/
def kernelGoesOn (s : State) (sel : Nat) (x : SigBox) (r r' : BoxRun) : Out :=
  .next (setBox s sel { x with run := some (stepRep (r.pc + 1) r') })

/-- The word `i` writes `g` of its operands, in the f register or in every lane, and the kernel goes on. -/
def WordGives (s : State) (sel : Nat) (x : SigBox) (r : BoxRun) (f : QR) (i : Instr) (g : Word → Word → Word → Word) : Prop :=
  (f.s = true → exec i s = kernelGoesOn s sel x r (setF f.d.toNat (g (getF r f.a.toNat) (getF r f.b.toNat) (getF r f.c.toNat)) r))
  ∧ (f.s = false → exec i s = kernelGoesOn s sel x r (setLanes f.d.toNat ((List.range 16).map (fun l =>
      g (getE r f.a.toNat l) (if f.bs then getF r f.b.toNat else getE r f.b.toNat l) (getE r f.c.toNat l))) r))

/-- The pairs of operands `a` and `b` of a word. -/
def wordPairs (f : QR) (r : BoxRun) : List (Word × Word) :=
  if f.s then [(getF r f.a.toNat, getF r f.b.toNat)] else
    (List.range 16).map (fun l => (getE r f.a.toNat l, if f.bs then getF r f.b.toNat else getE r f.b.toNat l))

/-- The word `i` traps where `bad` holds of some pair of operands, and else writes `g` of each. -/
def WordSettles (s : State) (sel : Nat) (x : SigBox) (r : BoxRun) (f : QR) (i : Instr) (g : Word → Word → Word) (bad : Word → Word → Prop) : Prop :=
  ((∃ p ∈ wordPairs f r, bad p.1 p.2) → exec i s = .next (trapRun s sel r 4 0 0))
  ∧ ((∀ p ∈ wordPairs f r, ¬bad p.1 p.2) → exec i s = kernelGoesOn s sel x r (if f.s
      then setF f.d.toNat (((wordPairs f r).map (fun p => g p.1 p.2)).headD 0) r
      else setLanes f.d.toNat ((wordPairs f r).map (fun p => g p.1 p.2)) r))

section
variable {s : State} {sel : Nat} {x : SigBox} {r : BoxRun} {f : QR} {op : Word → Word → Word → Word × Bool} {i : Instr}

/-- A word whose results never trap goes on with them. -/
theorem wordGives_of_lanesOp {g : Word → Word → Word → Word} (h : AtBox s sel x r) (hi : exec i s = runWord s (lanesOp f op))
    (hop : ∀ a b c, (op a b c).1 = g a b c) (hck : ∀ a b c, (f.ck && (op a b c).2) = false) : WordGives s sel x r f i g := by
  constructor
  · intro hs
    rw [hi, runWord_run h, lanesOp_scalar hs, hck, if_neg Bool.false_ne_true, hop]
    rfl
  · intro hs
    have hnone : (f.ck && (laneArgs f r).any (fun p => (op p.1 p.2.1 p.2.2).2)) = false := by
      rw [Bool.and_eq_false_iff, List.any_eq_false]
      cases hc : f.ck
      · exact .inl rfl
      · exact .inr (fun p _ hp => by simpa [hc, hp] using hck p.1 p.2.1 p.2.2)
    rw [hi, runWord_run h, lanesOp_lanes hs, hnone, if_neg Bool.false_ne_true]
    simp only [hop, setLanes_pc, laneArgs, List.map_map, Function.comp_def, kernelGoesOn]

/-- A word that never traps. -/
theorem wordGives_of_plain {g : Word → Word → Word → Word} {g' : Word → Word → Word} (h : AtBox s sel x r)
    (hi : exec i s = runWord s (lanesOp f (plainWord g'))) (hg : ∀ a b c, g' a b = g a b c) : WordGives s sel x r f i g :=
  wordGives_of_lanesOp h hi hg (fun _ _ _ => Bool.and_false _)

/-- A checked word traps where some result does, and else goes on with all of them (R447). -/
theorem wordSettles_of_lanesOp {g : Word → Word → Word} {bad : Word → Word → Prop} (h : AtBox s sel x r) (hck : f.ck = true)
    (hi : exec i s = runWord s (lanesOp f op)) (hop : ∀ a b c, (op a b c).1 = g a b) (hbad : ∀ a b c, (op a b c).2 = true ↔ bad a b) :
    WordSettles s sel x r f i g bad := by
  rw [WordSettles, hi, runWord_run h]
  cases hs : f.s
  · have hpairs : wordPairs f r = (laneArgs f r).map (fun p => (p.1, p.2.1)) := by
      simp only [wordPairs, hs, Bool.false_eq_true, if_false, laneArgs, List.map_map, Function.comp_def]
    have hany : (laneArgs f r).any (fun p => (op p.1 p.2.1 p.2.2).2) = true ↔ ∃ p ∈ wordPairs f r, bad p.1 p.2 := by
      simp only [hpairs, List.any_eq_true, hbad, List.mem_map]
      exact ⟨fun ⟨p, hp, hb⟩ => ⟨_, ⟨p, hp, rfl⟩, hb⟩, fun ⟨_, ⟨p, hp, hq⟩, hb⟩ => ⟨p, hp, by rw [← hq] at hb; exact hb⟩⟩
    rw [lanesOp_lanes hs, hck, Bool.true_and]
    refine ⟨fun hb => ?_, fun hb => ?_⟩
    · rw [if_pos (hany.mpr hb)]
    · rw [if_neg (fun ht => by obtain ⟨p, hp, hx⟩ := hany.mp ht; exact hb p hp hx)]
      simp only [setLanes_pc, Bool.false_eq_true, if_false, hpairs, List.map_map, Function.comp_def, hop, kernelGoesOn]
  · have hpairs : wordPairs f r = [(getF r f.a.toNat, getF r f.b.toNat)] := by simp only [wordPairs, hs, if_true]
    rw [lanesOp_scalar hs, hck, Bool.true_and, hpairs]
    refine ⟨fun hb => ?_, fun hb => ?_⟩
    · obtain ⟨p, hp, hx⟩ := hb
      rw [List.mem_singleton.mp hp] at hx
      rw [if_pos ((hbad _ _ _).mpr hx)]
    · rw [if_neg (fun ht => hb _ (List.mem_singleton_self _) ((hbad _ _ _).mp ht))]
      simp only [setF_pc, if_true, List.map_cons, List.headD_cons, hop, kernelGoesOn]

/-! ## The words (R440) -/

/-- The results of ADD, SUB and MUL of integers. -/
theorem arith_gives_int (h : AtBox s sel x r) (hc : f.ck = false) (hty : f.ty ≠ 2) :
    WordGives s sel x r f (.boxAdd f) (fun a b _ => a + b) ∧ WordGives s sel x r f (.boxSub f) (fun a b _ => a - b)
    ∧ WordGives s sel x r f (.boxMul f) (fun a b _ => a * b) := by
  refine ⟨wordGives_of_lanesOp h (exec_boxAdd f s) (fun a b _ => ?_) (fun _ _ _ => by rw [hc]; rfl),
    wordGives_of_lanesOp h (exec_boxSub f s) (fun a b _ => ?_) (fun _ _ _ => by rw [hc]; rfl),
    wordGives_of_lanesOp h (exec_boxMul f s) (fun a b _ => ?_) (fun _ _ _ => by rw [hc]; rfl)⟩
  · rw [arith_int hty, BitVec.ofInt_add, ofInt_typed, ofInt_typed]
  · rw [arith_int hty, ofInt_typed_sub]
  · rw [arith_int hty, BitVec.ofInt_mul, ofInt_typed, ofInt_typed]

theorem arith_gives_fp (h : AtBox s sel x r) (hc : f.ck = false) (hty : f.ty = 2) :
    WordGives s sel x r f (.boxAdd f) (fun a b _ => BitVec.ofNat 32 (addRNE a.toNat b.toNat).bits)
    ∧ WordGives s sel x r f (.boxSub f) (fun a b _ => BitVec.ofNat 32 (subRNE a.toNat b.toNat).bits)
    ∧ WordGives s sel x r f (.boxMul f) (fun a b _ => BitVec.ofNat 32 (mulRNE (fpOfFp32 a.toNat) (fpOfFp32 b.toNat)).bits) := by
  refine ⟨wordGives_of_lanesOp h (exec_boxAdd f s) (fun a b _ => ?_) (fun _ _ _ => by rw [hc]; rfl),
    wordGives_of_lanesOp h (exec_boxSub f s) (fun a b _ => ?_) (fun _ _ _ => by rw [hc]; rfl),
    wordGives_of_lanesOp h (exec_boxMul f s) (fun a b _ => ?_) (fun _ _ _ => by rw [hc]; rfl)⟩ <;>
    rw [arith_fp hty]

theorem minMax_gives_fp (h : AtBox s sel x r) (hty : f.ty = 2) :
    WordGives s sel x r f (.boxMin f) (fun a b _ => BitVec.ofNat 32 (fpMinMax .fp32 false a.toNat b.toNat))
    ∧ WordGives s sel x r f (.boxMax f) (fun a b _ => BitVec.ofNat 32 (fpMinMax .fp32 true a.toNat b.toNat)) := by
  have h2 : f.ty.toNat = 2 := by rw [hty]; rfl
  refine ⟨wordGives_of_plain h (exec_boxMin f s) (fun a b _ => ?_), wordGives_of_plain h (exec_boxMax f s) (fun a b _ => ?_)⟩
  · rw [smaller, if_pos h2]
  · rw [larger, if_pos h2]

theorem minMax_gives_int (h : AtBox s sel x r) (hty : f.ty ≠ 2) :
    WordGives s sel x r f (.boxMin f) (fun a b _ => if typed f.ty.toNat b < typed f.ty.toNat a then b else a)
    ∧ WordGives s sel x r f (.boxMax f) (fun a b _ => if typed f.ty.toNat a < typed f.ty.toNat b then b else a) := by
  refine ⟨wordGives_of_plain h (exec_boxMin f s) (fun a b _ => ?_), wordGives_of_plain h (exec_boxMax f s) (fun a b _ => ?_)⟩
  · rw [smaller, if_neg (ty_ne_two hty)]
  · rw [larger, if_neg (ty_ne_two hty)]

theorem shr_gives (h : AtBox s sel x r) :
    (f.ty = 0 → WordGives s sel x r f (.boxShr f) (fun a b _ => a.sshiftRight (b.toNat % 32)))
    ∧ (f.ty ≠ 0 → WordGives s sel x r f (.boxShr f) (fun a b _ => a >>> (b.toNat % 32))) :=
  ⟨fun hty => wordGives_of_plain h (exec_boxShr f s) (fun _ _ _ => if_pos hty),
    fun hty => wordGives_of_plain h (exec_boxShr f s) (fun _ _ _ => if_neg hty)⟩

theorem shl_gives (h : AtBox s sel x r) : WordGives s sel x r f (.boxShl f) (fun a b _ => a <<< (b.toNat % 32)) :=
  wordGives_of_plain h (exec_boxShl f s) (fun _ _ _ => rfl)

theorem logic_gives (h : AtBox s sel x r) : WordGives s sel x r f (.boxAnd f) (fun a b _ => a &&& b)
    ∧ WordGives s sel x r f (.boxOr f) (fun a b _ => a ||| b) ∧ WordGives s sel x r f (.boxXor f) (fun a b _ => a ^^^ b) :=
  ⟨wordGives_of_plain h (exec_boxAnd f s) (fun _ _ _ => rfl), wordGives_of_plain h (exec_boxOr f s) (fun _ _ _ => rfl),
    wordGives_of_plain h (exec_boxXor f s) (fun _ _ _ => rfl)⟩

theorem sel_gives (h : AtBox s sel x r) : WordGives s sel x r f (.boxSel f) (fun a b c => if c ≠ 0 then a else b) :=
  wordGives_of_lanesOp h (exec_boxSel f s) (fun _ _ _ => rfl) (fun _ _ _ => Bool.and_false _)

theorem cmp_gives (h : AtBox s sel x r) :
    WordGives s sel x r f (.boxCmp f) (fun a b _ => if compareQ f.ty.toNat f.cond.toNat a b then 0xFFFFFFFF#32 else 0) :=
  wordGives_of_plain h (exec_boxCmp f s) (fun _ _ _ => rfl)

end

/-- The condition of CMP, by the type that its operands are read under (R440). -/
theorem compareQ_eq (ty : BitVec 2) (cond : Nat) (a b : Word) : compareQ ty.toNat cond a b = condHolds cond
    (if ty = 2 then fpLt (fpOfFp32 a.toNat) (fpOfFp32 b.toNat)
      else decide ((if ty = 0 then a.toInt else (a.toNat : Int)) < if ty = 0 then b.toInt else (b.toNat : Int)))
    (if ty = 2 then fpEq (fpOfFp32 a.toNat) (fpOfFp32 b.toNat) else decide (a = b))
    (ty == 2 && ((fpOfFp32 a.toNat).isNaN || (fpOfFp32 b.toNat).isNaN)) := by
  by_cases h : ty = 2
  · subst h; rfl
  · have hb : (ty == 2) = false := beq_false_of_ne h
    simp only [compareQ, ty_ne_two h, h, if_false, typed_bits, hb, Bool.false_and]

/-- An exact integer result lies outside the type's range. -/
def OutOfRange (ty : BitVec 2) (z : Int) : Prop := ¬(if ty = 0 then -(2 ^ 31 : Int) ≤ z ∧ z < 2 ^ 31 else 0 ≤ z ∧ z < 2 ^ 32)

/-- An FP32 result is an infinity of finite operands, or a NaN of operands that are none. -/
def SpecialResult (z : Rounded) (a b : Word) : Prop :=
  ((∃ g, fpOfFp32 z.bits = .inf g) ∧ (∃ s m e, fpOfFp32 a.toNat = .fin s m e) ∧ ∃ s m e, fpOfFp32 b.toNat = .fin s m e)
    ∨ (fpOfFp32 z.bits = .nan ∧ fpOfFp32 a.toNat ≠ .nan ∧ fpOfFp32 b.toNat ≠ .nan)

section
variable {s : State} {sel : Nat} {x : SigBox} {r : BoxRun} {f : QR}

theorem arith_settles_int (h : AtBox s sel x r) (hck : f.ck = true) (hty : f.ty ≠ 2) :
    WordSettles s sel x r f (.boxAdd f) (fun a b => a + b) (fun a b => OutOfRange f.ty (typed f.ty.toNat a + typed f.ty.toNat b))
    ∧ WordSettles s sel x r f (.boxSub f) (fun a b => a - b) (fun a b => OutOfRange f.ty (typed f.ty.toNat a - typed f.ty.toNat b))
    ∧ WordSettles s sel x r f (.boxMul f) (fun a b => a * b) (fun a b => OutOfRange f.ty (typed f.ty.toNat a * typed f.ty.toNat b)) := by
  refine ⟨wordSettles_of_lanesOp h hck (exec_boxAdd f s) (fun a b _ => ?_) (fun a b _ => ?_),
    wordSettles_of_lanesOp h hck (exec_boxSub f s) (fun a b _ => ?_) (fun a b _ => ?_),
    wordSettles_of_lanesOp h hck (exec_boxMul f s) (fun a b _ => ?_) (fun a b _ => ?_)⟩ <;> rw [arith_int hty]
  · rw [BitVec.ofInt_add, ofInt_typed, ofInt_typed]
  · exact ckInt_iff _ _
  · rw [ofInt_typed_sub]
  · exact ckInt_iff _ _
  · rw [BitVec.ofInt_mul, ofInt_typed, ofInt_typed]
  · exact ckInt_iff _ _

theorem arith_settles_fp (h : AtBox s sel x r) (hck : f.ck = true) (hty : f.ty = 2) :
    WordSettles s sel x r f (.boxAdd f) (fun a b => BitVec.ofNat 32 (addRNE a.toNat b.toNat).bits)
      (fun a b => SpecialResult (addRNE a.toNat b.toNat) a b)
    ∧ WordSettles s sel x r f (.boxSub f) (fun a b => BitVec.ofNat 32 (subRNE a.toNat b.toNat).bits)
      (fun a b => SpecialResult (subRNE a.toNat b.toNat) a b)
    ∧ WordSettles s sel x r f (.boxMul f) (fun a b => BitVec.ofNat 32 (mulRNE (fpOfFp32 a.toNat) (fpOfFp32 b.toNat)).bits)
      (fun a b => SpecialResult (mulRNE (fpOfFp32 a.toNat) (fpOfFp32 b.toNat)) a b) := by
  refine ⟨wordSettles_of_lanesOp h hck (exec_boxAdd f s) (fun a b _ => ?_) (fun a b _ => ?_),
    wordSettles_of_lanesOp h hck (exec_boxSub f s) (fun a b _ => ?_) (fun a b _ => ?_),
    wordSettles_of_lanesOp h hck (exec_boxMul f s) (fun a b _ => ?_) (fun a b _ => ?_)⟩ <;> rw [arith_fp hty]
  · exact ckFp_iff _ _ _
  · exact ckFp_iff _ _ _
  · exact ckFp_iff _ _ _

end

/-- Settles O30: every word is its operation over the lanes. -/
theorem boxArithmetic : Obligations.BoxArithmetic := by
  unfold Obligations.BoxArithmetic
  constructor
  · intro s sel x r f h go gives value fp below same nan holds
    have hvalue : typed f.ty.toNat = value := funext (typed_bits f.ty)
    have hmin := minMax_gives_int (f := f) h
    have hcmp := cmp_gives (f := f) h
    simp only [hvalue] at hmin
    simp only [compareQ_eq, condHolds_eq] at hcmp
    obtain ⟨hand, hor, hxor⟩ := logic_gives (f := f) h
    exact ⟨arith_gives_int h, arith_gives_fp h, minMax_gives_fp h, hmin, (shr_gives h).1,
      fun hty => (shr_gives h).2 (by rw [hty]; decide), hand, hor, hxor, shl_gives h, sel_gives h, hcmp⟩
  · intro s sel x r f h hck pairs writes settles value out finite special times
    have hvalue : typed f.ty.toNat = value := funext (typed_bits f.ty)
    have hint := arith_settles_int h hck
    simp only [hvalue] at hint
    exact ⟨hint, arith_settles_fp h hck⟩

end Sys2Proof.Machine
end

/-! # Signal boxes: words that move data, and the packet's fate (R431, R437, R441 to R445) -/

section
namespace Sys2Proof.Machine

open Sys2Proof.Laws

section
variable {s : State} {sel : Nat} {x : SigBox} {r : BoxRun}

/-! ## How a word of a running kernel ends (R437) -/

/-- A word that goes on, keeping its index: the box and the registers are as it leaves them. -/
theorem runWord_go {body : SigBox → BoxRun → BoxEnd} {y : SigBox} {r' : BoxRun} (h : AtBox s sel x r) (hb : body x r = .go y r')
    (hpc : r'.pc = r.pc) : runWord s body = .next (setBox s sel { y with run := some (stepRep (r.pc + 1) r') }) := by
  rw [runWord_run h, hb, ← hpc]

theorem runWord_jump {body : SigBox → BoxRun → BoxEnd} {y : SigBox} {r' : BoxRun} {pc : Nat} (h : AtBox s sel x r)
    (hb : body x r = .jump y r' pc) : runWord s body = .next (setBox s sel { y with run := some (stepRep pc r') }) := by
  rw [runWord_run h, hb]

theorem runWord_trap {body : SigBox → BoxRun → BoxEnd} {n c v : Nat} (h : AtBox s sel x r) (hb : body x r = .trap n c v) :
    runWord s body = .next (trapRun s sel r n c v) := by
  rw [runWord_run h, hb]

theorem perLane_scalar {f : QI} (hs : f.s = true) (src : Nat) (g : Word → Word) :
    perLane f src g x r = .go x (setF f.d.toNat (g (getF r src)) r) := by
  rw [perLane, if_pos hs]

theorem perLane_lanes {f : QI} (hs : f.s = false) (src : Nat) (g : Word → Word) :
    perLane f src g x r = .go x (setLanes f.d.toNat ((List.range 16).map (fun l => g (getE r src l))) r) := by
  rw [perLane, if_neg (by rw [hs]; exact Bool.false_ne_true)]

/-- A word that reaches a record inside the binding's partition goes on as it does at the record's place (R442). -/
theorem runWord_record_go {f : QI} {k : SigBox → BoxRun → Nat → BoxEnd} {y : SigBox} {r' : BoxRun} (h : AtBox s sel x r)
    (hi : recordOf f r < r.binding.partCount) (hb : k x r (recordAt r (recordOf f r)) = .go y r') (hpc : r'.pc = r.pc) :
    runWord s (fun x r => withRecord f r (k x r)) = .next (setBox s sel { y with run := some (stepRep (r.pc + 1) r') }) :=
  runWord_go h ((if_neg (Nat.not_le.mpr hi)).trans hb) hpc

theorem runWord_record_trap {f : QI} {k : SigBox → BoxRun → Nat → BoxEnd} (h : AtBox s sel x r)
    (hi : r.binding.partCount ≤ recordOf f r) :
    runWord s (fun x r => withRecord f r (k x r)) = .next (trapRun s sel r 2 0 (recordOf f r)) :=
  runWord_trap h (if_pos hi)

/-! ## Header values (R443) -/

/-- The header values that HWR may write, and what it writes. -/
def HeaderAllowed (v : Nat) (r : BoxRun) : Nat → Prop
  | 1 => v ≤ 4096 ∧ v % 32 = 0 ∧ (r.pkt.kind = 0x0B → v ≠ 0)
  | 3 => v < 4096 ∧ r.pkt.kind ≠ 0x0B
  | 5 => v < 2 ^ 16 ∧ r.pkt.kind ≠ 0x0B
  | 6 => v < 2 ^ 16
  | _ => False

/-- A header value takes its new content. -/
def setHeader (v : Nat) (r : BoxRun) : Nat → BoxRun
  | 1 => { r with len := v }
  | 3 => { r with dest := v }
  | 5 => { r with flow := v }
  | 6 => { r with tag := v }
  | _ => r

theorem headerAllowed_mem {h v : Nat} (ha : HeaderAllowed v r h) : h ∈ [1, 3, 5, 6] := by
  unfold HeaderAllowed at ha
  split at ha <;> simp at ha ⊢

theorem writeHeader_allowed {h v : Nat} (ha : HeaderAllowed v r h) : writeHeader h v r = some (setHeader v r h) := by
  unfold HeaderAllowed at ha
  split at ha
  · obtain ⟨hmax, h32, hmsg⟩ := ha
    refine if_pos ⟨hmax, h32, ?_⟩
    by_cases hk : r.pkt.kind = 0x0B
    · exact .inr (hmsg hk)
    · exact .inl (beq_false_of_ne hk)
  · exact if_pos ⟨ha.1, beq_false_of_ne ha.2⟩
  · exact if_pos ⟨ha.1, beq_false_of_ne ha.2⟩
  · exact if_pos ha
  · exact ha.elim

theorem writeHeader_refused {h v : Nat} (hno : ¬HeaderAllowed v r h) : writeHeader h v r = none := by
  unfold HeaderAllowed at hno
  split at hno
  · refine if_neg (fun ⟨hmax, h32, hmsg⟩ => hno ⟨hmax, h32, fun hk => ?_⟩)
    exact hmsg.resolve_left (by simp [hk])
  · exact if_neg (fun ⟨hmax, hmsg⟩ => hno ⟨hmax, by simpa using hmsg⟩)
  · exact if_neg (fun ⟨hmax, hmsg⟩ => hno ⟨hmax, by simpa using hmsg⟩)
  · exact if_neg hno
  · simp only [writeHeader]

theorem exec_boxHwr_at {f : QI} (h : AtBox s sel x r) :
    (HeaderAllowed (getF r f.a.toNat).toNat r (f.imm.toNat % 8) → exec (.boxHwr f) s = .next (setBox s sel
      { x with run := some (stepRep (r.pc + 1) (setHeader (getF r f.a.toNat).toNat r (f.imm.toNat % 8))) }))
    ∧ (¬HeaderAllowed (getF r f.a.toNat).toNat r (f.imm.toNat % 8) → exec (.boxHwr f) s = .next (trapRun s sel r 5 0 0)) := by
  refine ⟨fun ha => (exec_boxHwr f s).trans (runWord_go h ?_ ?_), fun hno => (exec_boxHwr f s).trans (runWord_trap h ?_)⟩
  · simp only [writeHeader_allowed ha]
  · unfold setHeader
    split <;> rfl
  · simp only [writeHeader_refused hno]

end

/-- Settles O31: each word by `runWord_go` or `runWord_trap`. -/
theorem boxData : Obligations.BoxData := by
  unfold Obligations.BoxData
  intro s sel x r f h on go traps d each chunk rec_ at_ word vector
  have lanes (i : Instr) (src : Nat) (g : Word → Word) (hi : exec i s = runWord s (perLane f src g)) : each i src g :=
    ⟨fun hs => hi.trans (runWord_go h (perLane_scalar hs src g) rfl),
      fun hs => hi.trans (runWord_go h (perLane_lanes hs src g) (setLanes_pc _ _ _))⟩
  have addi := lanes (.boxAddi f) f.a.toNat (fun a => a + f.imm.signExtend 32) (exec_boxAddi f s)
  have ldi := lanes (.boxLdi f) d (fun _ => f.imm.signExtend 32) (exec_boxLdi f s)
  have ldiH := lanes (.boxLdiH f) d (fun v => (f.imm.zeroExtend 32 <<< 16) ||| (v &&& 0xFFFF)) (exec_boxLdiH f s)
  refine ⟨addi, ldi, ldiH, (exec_boxGetl f s).trans (runWord_go h rfl rfl), (exec_boxSetl f s).trans (runWord_go h rfl rfl), fun hc => ⟨?_, ?_⟩, fun hc => ⟨?_, ?_⟩,
    fun hi => ⟨?_, ?_, ?_, ?_, ?_⟩, fun hi => ?_, (exec_boxHrd f s).trans (runWord_go h rfl rfl), ?_⟩
  · exact (exec_boxPld f s).trans (runWord_go h (if_neg (Nat.not_le.mpr hc)) (setLanes_pc _ _ _))
  · exact (exec_boxPst f s).trans (runWord_go h (if_neg (Nat.not_le.mpr hc)) rfl)
  · exact (exec_boxPld f s).trans (runWord_trap h (if_pos hc))
  · exact (exec_boxPst f s).trans (runWord_trap h (if_pos hc))
  · exact (exec_boxFldVector f s).trans (runWord_record_go h hi rfl (setLanes_pc _ _ _))
  · exact (exec_boxFldScalar f s).trans (runWord_record_go h hi rfl rfl)
  · exact (exec_boxFstVector f s).trans (runWord_record_go h hi rfl rfl)
  · exact (exec_boxFstScalar f s).trans (runWord_record_go h hi rfl rfl)
  · exact (exec_boxFinc f s).trans (runWord_record_go h hi rfl rfl)
  · simp only [List.forall_mem_cons]
    exact ⟨(exec_boxFldVector f s).trans (runWord_record_trap h hi), (exec_boxFldScalar f s).trans (runWord_record_trap h hi),
      (exec_boxFstVector f s).trans (runWord_record_trap h hi), (exec_boxFstScalar f s).trans (runWord_record_trap h hi),
      (exec_boxFinc f s).trans (runWord_record_trap h hi), by simp⟩
  · intro hd v message writes
    obtain ⟨allowed, refused⟩ := exec_boxHwr_at (f := f) h
    have value (n : Nat) (hn : hd = n) : writes (HeaderAllowed v r n) (setHeader v r n) := by
      subst hn
      exact ⟨allowed, refused⟩
    exact ⟨value 1, value 3, value 5, value 6, fun hn => refused (fun ha => hn (headerAllowed_mem ha))⟩

end Sys2Proof.Machine
end

/-! # Signal boxes: the packet's fate, branches and loops (R431, R437, R444, R445, R447) -/

section
namespace Sys2Proof.Machine

open Sys2Proof.Laws

section
variable {s : State} {sel : Nat} {x : SigBox} {r : BoxRun}

theorem endRun_at (h : AtBox s sel x r) : endRun s sel = setBox s sel { x with run := none } := by
  obtain ⟨-, hx, -⟩ := h
  rw [endRun, hx]

/-- A message that a box passes is settled or held: its placement never leaves the box waiting (R431). -/
theorem placeMessage_passed (t : State) (p : Packet) : ∃ u, placeMessage t p true = .next u := by
  unfold placeMessage
  dsimp only
  split
  · exact ⟨_, rfl⟩
  · split
    · exact ⟨_, rfl⟩
    · split <;> exact ⟨_, rfl⟩

/-- PASS of a packet that is no message and has not arrived sends it on (R444). -/
theorem passRun_onwards (h : AtBox s sel x r) (hk : r.pkt.kind ≠ 0x0B) (ho : r.stage ≠ 0 ∨ r.dest ≠ s.pkg) :
    passRun s sel r = .next (forward (setBox s sel { x with run := none }) (runPacket r)) := by
  have hno : ¬(r.stage = 0 ∧ r.dest = s.pkg) := fun ⟨h0, hd⟩ => ho.elim (fun hs => hs h0) (fun hd' => hd' hd)
  rw [passRun, endRun_at h]
  exact (if_neg hk).trans (if_neg hno)

theorem forward_usable {t : State} {p : Packet} (h : p.dest = t.pkg ∨ pathUsable t p.plane p.dest p.path = true) :
    forward t p = modFabric t (fun y => { y with out := y.out ++ [p] }) := if_pos h

theorem forward_lost {t : State} {p : Packet} (hd : p.dest ≠ t.pkg) (hp : pathUsable t p.plane p.dest p.path = false) : forward t p = t :=
  if_neg (fun hor => hor.elim hd (fun hu => by rw [hp] at hu; exact Bool.false_ne_true hu))

theorem passRun_arrived (h : AtBox s sel x r) (hk : r.pkt.kind ≠ 0x0B) (h0 : r.stage = 0) (hd : r.dest = s.pkg) :
    passRun s sel r = orWait s (placeEmitted (setBox s sel { x with run := none }) (runPacket r)) := by
  rw [passRun, endRun_at h]
  exact (if_neg hk).trans (if_pos ⟨h0, hd⟩)

theorem passRun_message (h : AtBox s sel x r) (hk : r.pkt.kind = 0x0B) :
    passRun s sel r = placeMessage (setBox s sel { x with run := none }) (runPacket r) true := by
  rw [passRun, endRun_at h]
  exact if_pos hk

theorem exec_boxPass_at {f : QI} (h : AtBox s sel x r) : exec (.boxPass f) s = passRun s sel r :=
  (exec_boxPass f s).trans (runWord_run h)

theorem exec_boxDrop_at {f : QI} (h : AtBox s sel x r) :
    exec (.boxDrop f) s = .next (settleMessage (setBox s sel { x with run := none }) r.pkt) := by
  rw [exec_boxDrop, execBoxDrop, runWord_run h, endRun_at h]

theorem exec_boxBr_at {g : QB} (h : AtBox s sel x r) :
    (branchTaken g.cond.toNat (getF r g.a.toNat) (getF r g.b.toNat) = true →
      exec (.boxBr g) s = .next (setBox s sel { x with run := some (stepRep (r.pc + g.off.toNat) r) }))
    ∧ (branchTaken g.cond.toNat (getF r g.a.toNat) (getF r g.b.toNat) = false →
      exec (.boxBr g) s = .next (setBox s sel { x with run := some (stepRep (r.pc + 1) r) })) := by
  refine ⟨fun ht => (exec_boxBr g s).trans (runWord_jump h (if_pos ht)), fun ht => (exec_boxBr g s).trans (runWord_go h (if_neg ?_) rfl)⟩
  rw [ht]
  exact Bool.false_ne_true

theorem exec_boxRep_at {g : QB} (h : AtBox s sel x r) :
    (ceilDiv r.len 64 = 0 → exec (.boxRep g) s = .next (setBox s sel { x with run := some (stepRep (r.pc + 1 + g.off.toNat % 32) r) }))
    ∧ (ceilDiv r.len 64 ≠ 0 → exec (.boxRep g) s = .next (setBox s sel { x with run := some (stepRep (r.pc + 1)
        (setF g.cond.toNat 0 { r with rep := some (r.pc + 1, g.off.toNat % 32, ceilDiv r.len 64, 0, g.cond.toNat) })) })) :=
  ⟨fun hn => (exec_boxRep g s).trans (runWord_jump h (if_pos hn)), fun hn => (exec_boxRep g s).trans (runWord_jump h (if_neg hn))⟩

end

/-! ## The conditions of BR (R445) -/

theorem branchTaken_le (a b : Word) : branchTaken 3 a b = decide (a.toInt ≤ b.toInt) := by
  have hle : a.toInt ≤ b.toInt ↔ a.toInt < b.toInt ∨ a = b := by rw [← BitVec.toInt_inj]; omega
  show (decide (a.toInt < b.toInt) || decide (a = b)) = _
  rw [decide_eq_decide.mpr hle, Bool.decide_or]

theorem branchTaken_gt (a b : Word) : branchTaken 4 a b = decide (b.toInt < a.toInt) := by
  have hlt : b.toInt < a.toInt ↔ ¬a.toInt < b.toInt ∧ ¬a = b := by rw [← BitVec.toInt_inj]; omega
  show (!decide (a.toInt < b.toInt) && !decide (a = b) && !false) = _
  rw [decide_eq_decide.mpr hlt, Bool.decide_and, decide_not, decide_not, Bool.not_false, Bool.and_true]

theorem branchTaken_ge (a b : Word) : branchTaken 5 a b = decide (b.toInt ≤ a.toInt) := by
  show (!decide (a.toInt < b.toInt) && !false) = _
  rw [Bool.not_false, Bool.and_true, ← decide_not, decide_eq_decide]
  exact Int.not_lt

/-- Settles O32: the word's end by `runWord_run`, and the conditions of BR. -/
theorem boxFates : Obligations.BoxFates := by
  unfold Obligations.BoxFates
  intro s sel x r f g h at_ a b k n
  refine ⟨(exec_boxQordaTrap f s).trans (runWord_trap h rfl), fun hk => (exec_boxDrop_at h).trans ?_, fun hk => (exec_boxDrop_at h).trans ?_,
    fun hk ho => ⟨fun hp => ?_, fun hd hp => ?_⟩, fun hk h0 hd t ht => ?_, fun hk => ?_, (exec_boxEmit f s).trans (runWord_run h),
    (exec_boxBr_at h).1, (exec_boxBr_at h).2, (exec_boxRep_at h).1, (exec_boxRep_at h).2, rfl, (decide_not).symm, rfl, branchTaken_le a b,
    branchTaken_gt a b, branchTaken_ge a b, rfl, rfl⟩
  · rw [settleMessage, if_neg hk]
  · rw [settleMessage, if_pos hk]
  · rw [exec_boxPass_at h, passRun_onwards h hk ho, forward_usable hp]
  · rw [exec_boxPass_at h, passRun_onwards h hk ho, forward_lost hd hp]
  · rw [exec_boxPass_at h, passRun_arrived h hk h0 hd, ht]
    rfl
  · obtain ⟨t, ht⟩ := placeMessage_passed (setBox s sel { x with run := none }) (runPacket r)
    exact ⟨t, ht, by rw [exec_boxPass_at h, passRun_message h hk, ht]⟩

end Sys2Proof.Machine
end

/-! # The return of load and atomic data (R50, R106, R107, R158 to R160, R290, R313) -/

section
namespace Sys2Proof.Machine

open Sys2Proof.Laws

/-- A unit's act that leaves everything as it was is marked as having had nothing to do. -/
theorem next_orIdle (s u : State) : (if u = s then stall s else Host.Outcome.next u) = .next (orIdle s u) := by
  unfold orIdle
  split_ifs <;> rfl

/-! ## The value of a lane (R106, R158, R290) -/

/-- Nothing has come of the lane yet. -/
def FreshLane (l : LaneAcc) : Prop := l.bad = false ∧ l.ready = none

/-- The lane of an accumulator load has its element. -/
def HasElement (s : State) (w : Wave) (l : LaneAcc) (v : Option Nat) : Prop :=
  ∃ t, getTeam s w.team = some t ∧ v = if accFails t l.addr then none else some (Cells.get 0 t.acc l.addr).toNat

/-- The lane has a peer's copy, the bytes of memory, or those of the L1 copy. -/
def HasBytes (s : State) (wid : Nat) (w : Wave) (a : Access) (fromL1 : Bool) (l : LaneAcc) (v : Option Nat) : Prop :=
  (∃ q b line p, l.place = .remote q b ∧ heldCopy s q b = some (line, p)
      ∧ v = if p then none else some (natOfBytes ((line.drop (b % 128)).take a.width)))
    ∨ (fromL1 = false ∧ (∀ q b, l.place ≠ .remote q b)
      ∧ v = if placePoisoned s l.place a.width then none else some (natOfBytes (readAs s wid a.seq l.place a.width)))
    ∨ (fromL1 = true ∧ a.scope ≤ 1 ∧ ∃ b c bs, l.place = .glob b c ∧ readFromL1 s wid a.seq w l.place a.width = some bs
      ∧ v = if l1Fails (getCore s (coreOf wid)) b a.width then none else some (natOfBytes bs))

/-- What a lane of a load has. -/
def HasValue (s : State) (wid : Nat) (w : Wave) (a : Access) (fromL1 : Bool) (l : LaneAcc) (v : Option Nat) : Prop :=
  (l.bad = true ∧ v = none) ∨ (l.bad = false ∧ ∃ n, l.ready = some n ∧ v = some n)
    ∨ (FreshLane l ∧ a.accTile ≠ none ∧ HasElement s w l v)
    ∨ (FreshLane l ∧ a.accTile = none ∧ laneClear w a false l = true ∧ HasBytes s wid w a fromL1 l v)

theorem loadLane_bytes {s : State} {wid : Nat} {w : Wave} {a : Access} {fromL1 : Bool} {l : LaneAcc} {v : Option Nat} (hf : FreshLane l)
    (ha : a.accTile = none) (hc : laneClear w a false l = true) (h : HasBytes s wid w a fromL1 l v) :
    loadLane s wid w a fromL1 l = .ok v := by
  obtain ⟨hbad, hready⟩ := hf
  simp only [loadLane, hbad, hready, ha, hc, waitUnless_true, res_ok_bind, Bool.false_eq_true, if_false]
  obtain ⟨q, b, line, p, hp, hcopy, rfl⟩ | ⟨rfl, hp, rfl⟩ | ⟨rfl, hs, b, c, bs, hp, hl1, rfl⟩ := h
  · cases p <;> simp only [hp, hcopy, if_true, Bool.false_eq_true, if_false]
  · cases hplace : l.place with
    | remote q b => exact absurd hplace (hp q b)
    | glob b c => simp only [Bool.false_eq_true, if_false]; split_ifs <;> rfl
    | spad t b => simp only [Bool.false_eq_true, if_false]; split_ifs <;> rfl
    | stack x k b => simp only [Bool.false_eq_true, if_false]; split_ifs <;> rfl
  · rw [hp] at hl1
    simp only [hp, if_true, hl1, hs]

theorem loadLane_value {s : State} {wid : Nat} {w : Wave} {a : Access} {fromL1 : Bool} {l : LaneAcc} {v : Option Nat}
    (h : HasValue s wid w a fromL1 l v) : loadLane s wid w a fromL1 l = .ok v := by
  obtain ⟨hb, rfl⟩ | ⟨hb, n, hr, rfl⟩ | ⟨⟨hb, hr⟩, ha, t, ht, rfl⟩ | ⟨hf, ha, hc, hbytes⟩ := h
  · simp only [loadLane, hb, if_true]
  · simp only [loadLane, hb, hr, Bool.false_eq_true, if_false]
  · obtain ⟨k, hk⟩ := Option.ne_none_iff_exists'.mp ha
    simp only [loadLane, hb, hr, hk, ht, Bool.false_eq_true, if_false]
  · exact loadLane_bytes hf ha hc hbytes

/-- The values of the lanes chosen, when each has its value. -/
theorem loadLanes_values {s : State} {wid : Nat} {w : Wave} {a : Access} {fromL1 : Bool} {value : LaneAcc → Option Nat} :
    ∀ {ls : List LaneAcc}, (∀ l ∈ ls, HasValue s wid w a fromL1 l (value l)) →
      loadLanes s wid w a fromL1 ls = .ok (ls.map (fun l => (l, value l)))
  | [], _ => rfl
  | l :: r, h => by
    rw [List.forall_mem_cons] at h
    simp only [loadLanes, loadLane_value h.1, loadLanes_values h.2, res_ok_bind, List.map_cons]

/-- The first lane lies at a peer whose line is not held: it is asked for. -/
theorem loadLanes_asks {s : State} {wid : Nat} {w : Wave} {a : Access} {fromL1 : Bool} {l : LaneAcc} {r : List LaneAcc} {q b : Nat}
    (hf : FreshLane l) (ha : a.accTile = none) (hc : laneClear w a false l = true) (hp : l.place = .remote q b) (hn : heldCopy s q b = none) :
    loadLanes s wid w a fromL1 (l :: r) = .error (.request q b) := by
  obtain ⟨hbad, hready⟩ := hf
  have hl : loadLane s wid w a fromL1 l = .error (.request q b) := by
    simp only [loadLane, hbad, hready, ha, hc, waitUnless_true, res_ok_bind, Bool.false_eq_true, if_false, hp, hn]
  simp only [loadLanes, hl, res_error_bind]

/-- A line is asked for with one packet, and no byte changes (R411). -/
theorem askLine_sends {s : State} {wid q b : Nat} {w : Wave} {a : Access} (hu : s.fabric.unreachable.contains (q % 65536) = false)
    (hl : lineFree s q b = true) (hn : ∀ l ∈ a.lanes, l.asked = false) :
    ∃ t, askLine s wid w a q b = .next t ∧ t.fabric.nextId = s.fabric.nextId + 1 ∧ t.mem = s.mem := by
  unfold askLine
  dsimp only
  rw [if_neg (by rw [hu]; exact Bool.false_ne_true), if_neg]
  · exact ⟨_, rfl, rfl, rfl⟩
  · rw [hl, Bool.not_true, Bool.or_false, List.any_eq_true]
    rintro ⟨l, hin, hask⟩
    rw [Bool.and_eq_true, hn l hin] at hask
    exact Bool.false_ne_true hask.2

/-! ## The event (R50, R313) -/

/-- The lanes of the access that return. -/
def returningLanes (a : Access) (lanes : Mask) : List LaneAcc := (firstPieces a.lanes).filter (fun l => !(laneBit l.lane &&& lanes == 0))

/-- An access of which some lanes return together. -/
structure Returns (s : State) (wid i : Nat) (lanes : Mask) (w : Wave) (a : Access) : Prop where
  wave : getWave s wid = some w
  access : w.loads[i]? = some a
  some_lane : returningLanes a lanes ≠ []
  whole : a.accTile = none → splitsRequest wid a.width (firstPieces a.lanes) (returningLanes a lanes) = false

section
variable {s : State} {wid i : Nat} {lanes : Mask} {fromL1 : Bool} {w : Wave} {a : Access}

theorem returns_open (h : Returns s wid i lanes w a) :
    ((returningLanes a lanes).isEmpty || (a.accTile.isNone && splitsRequest wid a.width (firstPieces a.lanes) (returningLanes a lanes))) = false := by
  rw [List.isEmpty_eq_false_iff.mpr h.some_lane, Bool.false_or, Bool.and_eq_false_iff]
  cases ha : a.accTile with
  | none => exact .inr (h.whole ha)
  | some k => exact .inl rfl

/-- A store that the load would return and that is not performed at DEVICE scope is performed there first (R313). -/
theorem exec_return_widens {o : Nat} {b : BufStore} (h : Returns s wid i lanes w a) (hn : narrowUnder s wid a (returningLanes a lanes) = some (o, b)) :
    exec (.loadDataReturn wid i lanes fromL1) s = widenStore s o b := by
  refine (exec_loadDataReturn wid i lanes fromL1 s).trans ?_
  have hopen := returns_open h
  unfold returningLanes at hn hopen
  simp only [execLoadDataReturn, h.wave, h.access, hopen, Bool.false_eq_true, if_false, hn]

theorem exec_return_load (h : Returns s wid i lanes w a) (hn : narrowUnder s wid a (returningLanes a lanes) = none) (hk : ∀ op, a.kind ≠ .atomic op) :
    (∀ vs, loadLanes s wid w a fromL1 (returningLanes a lanes) = .ok vs → exec (.loadDataReturn wid i lanes fromL1) s
      = .next (orIdle s (deliverAll wid a (lanePoison s wid w a fromL1)
          (if fromL1 then s else (returningLanes a lanes).foldl (fun t l => refreshL1 t wid a l) s) vs)))
    ∧ ∀ q b, loadLanes s wid w a fromL1 (returningLanes a lanes) = .error (.request q b) →
      exec (.loadDataReturn wid i lanes fromL1) s = askLine s wid w a q b := by
  have hopen := returns_open h
  unfold returningLanes at hn hopen ⊢
  refine ⟨fun vs hv => (exec_loadDataReturn wid i lanes fromL1 s).trans ?_, fun q b hv => (exec_loadDataReturn wid i lanes fromL1 s).trans ?_⟩ <;>
    simp only [execLoadDataReturn, h.wave, h.access, hopen, Bool.false_eq_true, if_false, hn, hv]
  · cases ha : a.kind with
    | atomic op => exact absurd ha (hk op)
    | load sx => exact next_orIdle _ _
    | store => exact next_orIdle _ _

theorem exec_return_atomic {op : AtomicOp} {t : State} (h : Returns s wid i lanes w a) (hn : narrowUnder s wid a (returningLanes a lanes) = none)
    (hk : a.kind = .atomic op) (ht : atomicLanes wid w a op (returningLanes a lanes) s = .ok t) :
    exec (.loadDataReturn wid i lanes fromL1) s = .next (orIdle s (settleAccess t wid a)) := by
  have hopen := returns_open h
  unfold returningLanes at hn hopen ht
  refine (exec_loadDataReturn wid i lanes fromL1 s).trans ?_
  simp only [execLoadDataReturn, h.wave, h.access, hopen, Bool.false_eq_true, if_false, hn, hk, ht]
  exact next_orIdle _ _

end

/-! ## Returning atomics (R107, R159, R160) -/

/-- One lane of a returning atomic acts, taking `t` to `u`. -/
def AtomicActs (wid : Nat) (w : Wave) (a : Access) (op : AtomicOp) (l : LaneAcc) (t u : State) : Prop :=
  let r := atomicAt t wid l.place op a.width l.data l.cmp (pageHint t w l.addr a.hint)
  let releases := releasePairs w.uid a.seq a.order (barsOf w a.order a.scope a.seq)
  l.bad = false ∧
    ((∃ v, l.ready = some v ∧ u = laneDone (modWave t wid (setFlags (atomicNew op (8 * a.width) v l.data l.cmp).2)) wid a l v)
    ∨ (l.ready = none ∧ laneClear w a true l = true ∧ releasesReady t wid w a = true ∧ (∀ q b, l.place ≠ .remote q b)
      ∧ baseClear t l.place a.width = true ∧ peersHolding t l.place a.width = false ∧
      ((placePoisoned t l.place a.width = true ∧ u = laneBad t wid a l (poisonFrom t l.place a.width))
        ∨ (placePoisoned t l.place a.width = false
          ∧ u = noteReads wid (releasesUnder t wid l.place a.width) (laneDone (beginReleases r.2 l.place releases) wid a l r.1))))
    ∨ (l.ready = none ∧ laneClear w a true l = true ∧ releasesReady t wid w a = true ∧ l.asked = false ∧ ∃ q b, l.place = .remote q b
      ∧ t.fabric.unreachable.contains (q % 65536) = false ∧ lineFree t q b = true ∧ atomicsOut t q b < 1024
      ∧ u = modWave (sendAtomic t w op q b a.width a.order l.data l.cmp
          ((barsOf w a.order a.scope a.seq).any (fun c => decide (5 ≤ c.2))) (.rmw w.uid a.seq l.lane)) wid
          (setAccLanes a.seq (fun k => some (if k.lane = l.lane then { k with asked := true } else k)))))

/-- A lane on local memory takes the old value, or is left alone where the data is poisoned. -/
theorem atomicLane_local {wid : Nat} {w : Wave} {a : Access} {op : AtomicOp} {l : LaneAcc} {t : State} (hb : l.bad = false) (hr : l.ready = none)
    (hc : laneClear w a true l = true) (hrel : releasesReady t wid w a = true) (hp : ∀ q b, l.place ≠ .remote q b)
    (hbase : baseClear t l.place a.width = true) (hpeers : peersHolding t l.place a.width = false) :
    atomicLane wid w a op t l = .ok (if placePoisoned t l.place a.width then laneBad t wid a l (poisonFrom t l.place a.width)
      else noteReads wid (releasesUnder t wid l.place a.width) (laneDone
        (beginReleases (atomicAt t wid l.place op a.width l.data l.cmp (pageHint t w l.addr a.hint)).2 l.place
          (releasePairs w.uid a.seq a.order (barsOf w a.order a.scope a.seq))) wid a l
        (atomicAt t wid l.place op a.width l.data l.cmp (pageHint t w l.addr a.hint)).1)) := by
  simp only [atomicLane, hb, hr, hc, hrel, Bool.and_self, waitUnless_true, res_ok_bind, Bool.false_eq_true, if_false]
  cases hplace : l.place with
  | remote q b => exact absurd hplace (hp q b)
  | glob b c =>
    rw [hplace] at hbase hpeers
    simp only [hbase, hpeers, waitUnless_true, res_ok_bind, Bool.false_eq_true, if_false]
    split_ifs <;> rfl
  | spad x b =>
    rw [hplace] at hbase hpeers
    simp only [hbase, hpeers, waitUnless_true, res_ok_bind, Bool.false_eq_true, if_false]
    split_ifs <;> rfl
  | stack x k b =>
    rw [hplace] at hbase hpeers
    simp only [hbase, hpeers, waitUnless_true, res_ok_bind, Bool.false_eq_true, if_false]
    split_ifs <;> rfl

theorem atomicLane_acts {wid : Nat} {w : Wave} {a : Access} {op : AtomicOp} {l : LaneAcc} {t u : State} (h : AtomicActs wid w a op l t u) :
    atomicLane wid w a op t l = .ok u := by
  obtain ⟨hb, ⟨v, hr, rfl⟩ | ⟨hr, hc, hrel, hp, hbase, hpeers, hend⟩ | ⟨hr, hc, hrel, hask, q, b, hp, hu, hfree, hout, rfl⟩⟩ := h
  · simp only [atomicLane, hb, hr, Bool.false_eq_true, if_false]
  · rw [atomicLane_local hb hr hc hrel hp hbase hpeers]
    obtain ⟨hpoison, rfl⟩ | ⟨hpoison, rfl⟩ := hend <;> rw [hpoison] <;> rfl
  · simp only [atomicLane, hb, hr, hc, hrel, Bool.and_self, waitUnless_true, res_ok_bind, Bool.false_eq_true, if_false, hp, hu, hask, hfree, hout,
      Bool.not_false, decide_true]

theorem atomicLanes_inTurn {wid : Nat} {w : Wave} {a : Access} {op : AtomicOp} :
    ∀ {ls : List LaneAcc} {s t : State}, InTurn (AtomicActs wid w a op) ls s t → atomicLanes wid w a op ls s = .ok t
  | [], _, _, h => congrArg Except.ok h.symm
  | l :: r, s, t, h => by
    obtain ⟨u, hu, hr⟩ := h
    rw [atomicLanes, atomicLane_acts hu, res_ok_bind, atomicLanes_inTurn hr]

/-- A store on local storage that a load would return is performed at DEVICE scope (R313, R315). -/
theorem widenStore_performs {s : State} {o : Nat} {u : Wave} {b : BufStore} (hu : getWave s o = some u) (hb : b.perf < 4) (hr : b.rmw = none)
    (hc : canPerform { s with fabric := { s.fabric with directory := [] } } o u b 4 = true)
    (hp : peersHolding s b.place b.bytes.length = false) : widenStore s o b = .next (performStore s o b 4) := by
  have hatomic : isAtomic b = false := by simp only [isAtomic, hr]
  have hlow : ¬ 4 ≤ b.perf := Nat.not_le.mpr hb
  simp only [widenStore, hu, performAt, hr, Option.isSome_none, Bool.false_eq_true, if_false, hlow, or_false, hc, hp, hatomic]
  simp

/-- Settles O33: the lanes that return are loaded or act in turn, and the event leaves what comes of them. -/
theorem loadAndAtomicReturns : Obligations.LoadAndAtomicReturns := by
  unfold Obligations.LoadAndAtomicReturns
  constructor
  · intro s wid i lanes fromL1 w a hw ha hk first now hnow hsplit event filled fresh has
    have h : Returns s wid i lanes w a := ⟨hw, ha, hnow, hsplit⟩
    refine ⟨fun hn => ⟨fun value hv => (exec_return_load h hn hk).1 _ (loadLanes_values hv), ?_⟩, ?_⟩
    · intro l r q b hl hp hf hacc hc hcopy hu hfree hask
      have hasks : loadLanes s wid w a fromL1 (returningLanes a lanes) = .error (.request q b) := by
        rw [show returningLanes a lanes = l :: r from hl]
        exact loadLanes_asks hf hacc hc hp hcopy
      rw [(exec_return_load h hn hk).2 q b hasks]
      exact askLine_sends hu hfree hask
    · intro o b u hn hu _ hb hr hc hpeers
      exact (exec_return_widens h hn).trans (widenStore_performs hu hb hr hc hpeers)
  · intro s wid i lanes fromL1 w a op hw ha hk hacc first now hnow hsplit hn n acts t ht
    exact exec_return_atomic ⟨hw, ha, hnow, fun _ => hsplit⟩ hn hk (atomicLanes_inTurn ht)

end Sys2Proof.Machine
end

/-! # Buffered stores become performed, or are sent to their home (R290, R315, R411, R415) -/

section
namespace Sys2Proof.Machine

open Sys2Proof.Laws

/-- The scope at which a store acts: an atomic acts at DEVICE scope or wider. -/
def actScope (b : BufStore) (scope : Nat) : Nat := if b.rmw.isSome then max 4 scope else scope

/-- A store of local storage may be performed at a wider scope: what it must follow is performed, and no peer holds its line. -/
structure MayPerform (s : State) (wid scope : Nat) (w : Wave) (b : BufStore) : Prop where
  wave : getWave s wid = some w
  nonzero : 0 < scope
  known : scope ≤ 5
  wider : b.perf < scope
  follows : canPerform { s with fabric := { s.fabric with directory := [] } } wid w b (actScope b scope) = true
  unshared : 4 ≤ actScope b scope → peersHolding s b.place b.bytes.length = false

section
variable {s : State} {wid i scope : Nat} {w : Wave} {b : BufStore}

theorem exec_storePerformed_local (hw : getWave s wid = some w) (hb : w.stores[i]? = some b) (hp : ∀ q a, b.place ≠ .remote q a) :
    exec (.storePerformed wid i scope) s = performAt s wid w b scope := by
  refine (exec_storePerformed wid i scope s).trans ?_
  simp only [execStorePerformed, hw, hb]

/-- What is left to decide of a store that may be performed. -/
theorem performAt_open (h : MayPerform s wid scope w b) : performAt s wid w b scope
    = if b.perf < 4 ∧ isAtomic b = true ∧ placePoisoned s b.place b.bytes.length = true then .next (atomicPoison s wid w b)
      else if b.rmw.isSome ∧ 4 ≤ b.perf then .next (modWave s wid (fun w => setStore w b.seq (fun c =>
        if c.scope ≤ actScope b scope then none else some { c with perf := actScope b scope })))
      else .next (performStore s wid b (actScope b scope)) := by
  obtain ⟨-, h0, h5, hw, hc, hp⟩ := h
  have hwider : ¬(scope = 0 ∨ 5 < scope ∨ scope ≤ b.perf) := by omega
  have hshared : ¬(4 ≤ actScope b scope ∧ peersHolding s b.place b.bytes.length = true) := fun ⟨h4, hx⟩ => by simp [hp h4] at hx
  unfold actScope at hc hshared ⊢
  simp only [performAt, hwider, hc, hshared, Bool.not_true, Bool.false_eq_true, if_false]

theorem isAtomic_of_plain (h : b.rmw = none) : isAtomic b = false := by simp only [isAtomic, h]

theorem actScope_plain (h : b.rmw = none) : actScope b scope = scope := by simp [actScope, h]

theorem performAt_performs (h : MayPerform s wid scope w b)
    (hclean : isAtomic b = true → b.perf < 4 → placePoisoned s b.place b.bytes.length = false) (hr : b.rmw = none ∨ b.perf < 4) :
    performAt s wid w b scope = .next (performStore s wid b (actScope b scope)) := by
  rw [performAt_open h, if_neg, if_neg]
  · rintro ⟨hsome, h4⟩
    obtain hnone | hlt := hr
    · simp [hnone] at hsome
    · omega
  · rintro ⟨hlt, ha, hp⟩
    rw [hclean ha hlt] at hp
    exact Bool.false_ne_true hp

theorem performAt_widens (h : MayPerform s wid scope w b) (hr : b.rmw ≠ none) (h4 : 4 ≤ b.perf) :
    performAt s wid w b scope = .next (modWave s wid (fun w => setStore w b.seq (fun c =>
      if c.scope ≤ actScope b scope then none else some { c with perf := actScope b scope }))) := by
  rw [performAt_open h, if_neg (fun hx => by omega), if_pos ⟨Option.isSome_iff_ne_none.mpr hr, h4⟩]

theorem performAt_poisoned (h : MayPerform s wid scope w b) (ha : isAtomic b = true) (hlt : b.perf < 4)
    (hp : placePoisoned s b.place b.bytes.length = true) : performAt s wid w b scope = .next (atomicPoison s wid w b) := by
  rw [performAt_open h, if_pos ⟨hlt, ha, hp⟩]

theorem performAt_plain (h : MayPerform s wid scope w b) (hr : b.rmw = none) :
    performAt s wid w b scope = .next (performStore s wid b scope) := by
  have hp := performAt_performs h (fun ha => by rw [isAtomic_of_plain hr] at ha; exact absurd ha Bool.false_ne_true) (.inl hr)
  rwa [actScope_plain hr] at hp

/-- At a scope below DEVICE memory keeps its bytes (R315). -/
theorem performStore_narrow {a c : Nat} (hr : b.rmw = none) (hp : b.place = .glob a c) (hs : scope < 4) (k : Nat) :
    byteAt (performStore s wid b scope) k = byteAt s k := by
  rw [byteAt, performStore_mem hr hp, if_neg (fun hx => by omega)]
  rfl

/-- From DEVICE scope on the store's bytes are in memory, and no other byte changed (R315). -/
theorem performStore_device {a c : Nat} (hr : b.rmw = none) (hp : b.place = .glob a c) (hs : 4 ≤ scope) (hb : b.perf < 4) :
    (∀ k (h : k < b.bytes.length), byteAt (performStore s wid b scope) (a + k) = b.bytes[k])
    ∧ ∀ k, k < a ∨ a + b.bytes.length ≤ k → byteAt (performStore s wid b scope) k = byteAt s k := by
  have hmem : (performStore s wid b scope).mem = cellsWrite memDefault s.mem a b.bytes := by
    rw [performStore_mem hr hp, if_pos ⟨hs, hb⟩]
  refine ⟨fun k hk => ?_, fun k hk => ?_⟩
  · rw [byteAt, hmem, get_cellsWrite_inside _ _ _ _ _ hk]
  · rw [byteAt, hmem, get_cellsWrite_outside _ _ _ _ _ hk]
    rfl

/-! ## Stores to a peer's page (R411, R415, R417) -/

/-- A store to a peer's page may be sent: nothing earlier of the wave holds it back, and its line has room. -/
structure MaySend (s : State) (wid : Nat) (w : Wave) (b : BufStore) (q a : Nat) : Prop where
  unsent : b.sent = none
  first : lineBehind w b = false
  acquired : acquired w b.after = true
  released : ∀ c ∈ b.bars, releaseReady s wid w c.1 c.2 = true
  loads : ∀ x ∈ w.loads, b.seq ≤ x.seq ∨ accMeets x b.place b.bytes.length = false
  reachable : s.fabric.unreachable.contains (q % 65536) = false
  free : lineFree s q a = true

/-- The packet of a store takes with it the stores of its instruction to the line; an atomic goes by itself. -/
theorem injectStore_sends {q a : Nat} (h : MaySend s wid w b q a) :
    (b.rmw = none → injectStore s wid w b q a = .next (markSent wid s.fabric.nextId (requestStores w b) (sendPacket (dropCopy s q a)
        { lineDraft q (jobOf s w) (a / 128 * 128) (lineCells (requestStores w b)) with ordered := b.bars.any (fun c => decide (5 ≤ c.2)) }
        (.store w.uid b.seq))))
    ∧ ∀ op d c, b.rmw = some (op, d, c) → op ≠ .insert → atomicsOut s q a < 1024 → injectStore s wid w b q a
        = .next (markSent wid s.fabric.nextId [b] (sendAtomic s w op q a b.bytes.length b.order d c (b.bars.any (fun c => decide (5 ≤ c.2)))
          (.store w.uid b.seq))) := by
  obtain ⟨hsent, hfirst, hacq, hrel, hloads, hreach, hfree⟩ := h
  have hl : w.loads.all (fun x => decide (b.seq ≤ x.seq) || !(accMeets x b.place b.bytes.length)) = true := by
    rw [List.all_eq_true]
    intro x hx
    simpa using hloads x hx
  have hr : b.bars.all (fun c => releaseReady s wid w c.1 c.2) = true := List.all_eq_true.mpr hrel
  refine ⟨fun hn => ?_, fun op d c hop hne hroom => ?_⟩
  · simp only [injectStore, hl, hfirst, hacq, hr, hsent, hreach, hfree, hn, Bool.not_false, Bool.not_true, Bool.and_self, Option.isSome_none,
      Bool.or_self, Bool.false_eq_true, if_false]
  · simp only [injectStore, hl, hfirst, hacq, hr, hsent, hreach, hfree, hop, Bool.not_false, Bool.not_true, Bool.and_self, Option.isSome_none,
      Bool.or_self, Bool.false_eq_true, if_false, hroom, if_true]

theorem exec_storePerformed_remote {q a : Nat} (hw : getWave s wid = some w) (hb : w.stores[i]? = some b) (hp : b.place = .remote q a) :
    exec (.storePerformed wid i scope) s = injectStore s wid w b q a := by
  refine (exec_storePerformed wid i scope s).trans ?_
  simp only [execStorePerformed, hw, hb, hp]

end

/-- Settles O34: a store of local storage by `performAt`, one to a peer by `injectStore`. -/
theorem storesPerform : Obligations.StoresPerform := by
  unfold Obligations.StoresPerform
  intro s wid i scope w b hw hb event n
  refine ⟨fun hp h0 h5 hwider => ?_, fun q a hp hsent hfirst hacq hrel hloads hreach hfree => ?_⟩
  · intro at_ hc hshared
    have hm : MayPerform s wid scope w b := ⟨hw, h0, h5, hwider, hc, hshared⟩
    have hexec := exec_storePerformed_local (scope := scope) hw hb hp
    refine ⟨fun hclean => ⟨fun hr => hexec.trans (performAt_performs hm hclean hr), fun hr h4 => hexec.trans (performAt_widens hm hr h4)⟩,
      fun ha hlt hpoison => hexec.trans (performAt_poisoned hm ha hlt hpoison), fun hr hs hglob => ?_, fun hr hs hlt a c hglob => ?_⟩
    · obtain ⟨a, c, hglob⟩ := hglob
      exact ⟨_, hexec.trans (performAt_plain hm hr), performStore_narrow hr hglob hs⟩
    · exact ⟨_, hexec.trans (performAt_plain hm hr), performStore_device hr hglob hs hlt⟩
  · intro ordered id
    have hexec := exec_storePerformed_remote (scope := scope) hw hb hp
    obtain ⟨plain, atomic⟩ := injectStore_sends ⟨hsent, hfirst, hacq, hrel, hloads, hreach, hfree⟩
    exact ⟨fun hr => hexec.trans (plain hr), fun op d c hop hne hroom => hexec.trans (atomic op d c hop hne hroom)⟩

end Sys2Proof.Machine
end

/-! # Queue events and the ends of waits (R41, R44, R48, R53, R114 to R116, R229, R250 to R253) -/

section
namespace Sys2Proof.Machine

open Sys2Proof.Laws

/-! ## A lane block begins (R44, R114, R263) -/

theorem loadQ_other {w : Wave} {c : Capture} {j k : Nat} (h : k ≠ j) : Cells.get 0 (loadQ w (c, j)).q k = Cells.get 0 w.q k
    ∧ Cells.get false (loadQ w (c, j)).qEmpty k = Cells.get false w.qEmpty k := by
  cases c with
  | val v => exact ⟨Cells.get_set_ne 0 v w.q h, Cells.get_set_ne false false w.qEmpty h⟩
  | await n => exact ⟨rfl, Cells.get_set_ne false true w.qEmpty h⟩

theorem loadQ_value {w : Wave} {v : Dword} {k : Nat} : Cells.get 0 (loadQ w (.val v, k)).q k = v
    ∧ Cells.get false (loadQ w (.val v, k)).qEmpty k = false :=
  ⟨Cells.get_set_same 0 v w.q k, Cells.get_set_same false false w.qEmpty k⟩

/-- A captured source whose value was known stands in its q register, which is full. -/
theorem loadQ_three {w : Wave} {x y z : Capture} {k : Nat} {v : Dword} (h : [x, y, z][k]? = some (.val v)) :
    Cells.get 0 ([(x, 0), (y, 1), (z, 2)].foldl loadQ w).q k = v
    ∧ Cells.get false ([(x, 0), (y, 1), (z, 2)].foldl loadQ w).qEmpty k = false := by
  simp only [List.foldl_cons, List.foldl_nil]
  match k, h with
  | 0, h =>
    obtain rfl : x = .val v := by simpa using h
    rw [(loadQ_other (by decide)).1, (loadQ_other (by decide)).2, (loadQ_other (by decide)).1, (loadQ_other (by decide)).2]
    exact loadQ_value
  | 1, h =>
    obtain rfl : y = .val v := by simpa using h
    rw [(loadQ_other (by decide)).1, (loadQ_other (by decide)).2]
    exact loadQ_value
  | 2, h =>
    obtain rfl : z = .val v := by simpa using h
    exact loadQ_value
  | k + 3, h => simp at h

theorem loadQ_frame (l : List (Capture × Nat)) (w : Wave) : (l.foldl loadQ w).paths = w.paths ∧ (l.foldl loadQ w).blockSeq = w.blockSeq := by
  induction l generalizing w with
  | nil => exact ⟨rfl, rfl⟩
  | cons p l ih =>
    obtain ⟨c, j⟩ := p
    rw [List.foldl_cons, (ih _).1, (ih _).2]
    cases c <;> exact ⟨rfl, rfl⟩

theorem blockQ_captured {e : LaneEntry} {w : Wave} {k : Nat} {v : Dword} (hk : k < 3) (hs : e.srcs[k]? = some (.val v)) (hl : e.srcs.length = 3) :
    Cells.get 0 (blockQ e w).q k = v ∧ Cells.get false (blockQ e w).qEmpty k = false := by
  obtain ⟨x, y, z, hxyz⟩ := List.length_eq_three.mp hl
  have hne : k ≠ 3 := by omega
  rw [hxyz] at hs
  simp only [blockQ, hxyz, Cells.get_set_ne _ _ _ hne]
  exact loadQ_three hs

/-- q3 of a block holds its number, and the next block has the next (R44). -/
theorem blockQ_number (e : LaneEntry) (w : Wave) : Cells.get 0 (blockQ e w).q 3 = BitVec.ofNat 64 w.blockSeq
    ∧ (blockQ e w).blockSeq = (w.blockSeq + 1) % 2 ^ 64 := by
  simp only [blockQ, Cells.get_set_same, (loadQ_frame _ _).2, and_self]

theorem exec_laneBlockStart_at {s : State} {wid : Nat} {w : Wave} {e : LaneEntry} {r : List LaneEntry} (hw : getWave s wid = some w)
    (hq : w.laneQueue = e :: r) (hb : w.blockRunning = false) (hc : w.ctl ≠ .clearing) (hl : launchLive s w = true)
    (hv : laneVisible w e = true) :
    let t := setWave s wid (blockQ e (startBlock e.off (launchMask (isShadow s w)) e.syncs w))
    exec (.laneBlockStart wid) s = .next (traceActor t (.path wid 0) (standing t (.path wid 0)) 1 w.blockSeq 0 false) := by
  refine (exec_laneBlockStart wid s).trans ?_
  simp only [execLaneBlockStart, hw, hq, hb, beq_false_of_ne hc, hl, hv, Bool.not_true, Bool.or_self, Bool.false_eq_true, if_false]

/-! ## The ends of waits -/

section
variable {s : State} {wid : Nat} {w : Wave}

theorem completeWait_some {k : Wave → Option State} {t : State} (hw : getWave s wid = some w) (hl : launchLive s w = true) (hk : k w = some t) :
    completeWait s wid k = .next t := by
  simp only [completeWait, hw, hl, hk, if_true]

theorem completeWait_none {k : Wave → Option State} (hw : getWave s wid = some w) (hl : launchLive s w = true) (hk : k w = none) :
    completeWait s wid k = .next { s with stalled := true } := by
  simp only [completeWait, hw, hl, hk, if_true, stall]

theorem exec_fenceaComplete_done {scope d : Nat} (hw : getWave s wid = some w) (hl : launchLive s w = true) (hc : w.ctl = .fencea scope d)
    (hd : fenceaDone s w scope = true) : exec (.fenceaComplete wid) s = .next (fenceaReport s wid w d) :=
  (exec_fenceaComplete wid s).trans (completeWait_some hw hl (by simp only [hc, hd, if_true]))

theorem exec_fenceaComplete_waits {scope d : Nat} (hw : getWave s wid = some w) (hl : launchLive s w = true) (hc : w.ctl = .fencea scope d)
    (hd : fenceaDone s w scope = false) : exec (.fenceaComplete wid) s = .next { s with stalled := true } :=
  (exec_fenceaComplete wid s).trans (completeWait_none hw hl (by simp only [hc, hd, Bool.false_eq_true, if_false]))

/-- MWAIT and STEP deliver a fault of an operation (R230). -/
theorem exec_mwaitComplete_delivers {n : Nat} {t : State} (hw : getWave s wid = some w) (hl : launchLive s w = true)
    (hc : w.ctl = .mwait n ∨ w.ctl = .barrier 0) (hd : deliverFault s wid w = some t) : exec (.mwaitComplete wid) s = .next t := by
  refine (exec_mwaitComplete wid s).trans (completeWait_some hw hl ?_)
  obtain hc | hc := hc <;> simp only [hc, hd]

theorem exec_mwaitComplete_none {n : Nat} (hw : getWave s wid = some w) (hl : launchLive s w = true) (hc : w.ctl = .mwait n)
    (hf : w.engineFault = none) :
    (batchPending w n = true → exec (.mwaitComplete wid) s = .next { s with stalled := true })
    ∧ (batchPending w n = false → exec (.mwaitComplete wid) s
        = .next (acquireAt (setWave s wid (finishControl (.mwait zCE) { w with ctl := .running })) wid 1)) :=
  ⟨fun hb => (exec_mwaitComplete wid s).trans (completeWait_none hw hl (by simp only [hc, deliverFault_none hf, hb, if_true])),
    fun hb => (exec_mwaitComplete wid s).trans (completeWait_some hw hl
      (by simp only [hc, deliverFault_none hf, hb, Bool.false_eq_true, if_false]))⟩

theorem exec_barrierComplete_at (lid level unit : Nat) :
    let leaves := (barWaves s lid level unit).filter (fun p =>
      p.2.ctl == .barrier level && decide (Cells.get 0 p.2.barArrivals level < commonArrivals s lid level unit))
    (leaves = [] → exec (.barrierComplete lid level unit) s = .next { s with stalled := true })
    ∧ (leaves ≠ [] → exec (.barrierComplete lid level unit) s = .next (leaveAll level leaves s)) := by
  intro leaves
  refine ⟨fun hn => ?_, fun hn => ?_⟩ <;> rw [exec_barrierComplete, execBarrierComplete]
  · have ht : tryBarrier s lid level unit = none := by
      unfold tryBarrier
      dsimp only
      rw [show List.filter _ _ = [] from hn]
    rw [ht]; rfl
  · have ht : tryBarrier s lid level unit = some (leaveAll level leaves s) := by
      unfold tryBarrier
      dsimp only
      split
      · contradiction
      · rfl
    rw [ht]

@[simp] theorem acquireAt_waves (s : State) (wid scope : Nat) : (acquireAt s wid scope).waves = s.waves := by
  unfold acquireAt dropL1
  split_ifs <;> rfl

/-- The wait at an event, read again (R253). -/
theorem exec_waitevWake_at {a target scope d : Nat} (hw : getWave s wid = some w) (hl : launchLive s w = true)
    (hc : w.ctl = .waitev a target scope d) {u : State}
    (hu : waitevTry { zCE with d := BitVec.ofNat 6 d, opts := BitVec.ofNat 15 scope } s wid w (BitVec.ofNat 64 a) (BitVec.ofNat 64 target) = .ok u) :
    exec (.waitevWake wid) s = .next (orIdle s u) := by
  refine (exec_waitevWake wid s).trans ?_
  simp only [execWaitevWake, hw, hc, hl, Bool.not_true, Bool.false_eq_true, if_false, hu]
  exact next_orIdle s u

/-- FENCEA reports ASYNCERR into its register, or as a fault (R250). -/
theorem fenceaReport_cases (s : State) (wid : Nat) (w : Wave) (d : Nat) :
    (d ≠ 63 → fenceaReport s wid w d = setWave s wid (finishControl (.fencea zCI) (writeS d (w.asyncerr.zeroExtend 64)
        (joinBlocks { w with asyncerr := 0, ctl := .running }))))
    ∧ (d = 63 → w.asyncerr.toNat % 256 = 0 → fenceaReport s wid w d
        = setWave s wid (finishControl (.fencea zCI) (joinBlocks { w with asyncerr := 0, ctl := .running })))
    ∧ (d = 63 → w.asyncerr.toNat % 256 ≠ 0 → fenceaReport s wid w d
        = raiseFault (setWave s wid (joinBlocks { w with asyncerr := 0, ctl := .running })) (.control wid) (w.asyncerr.toNat % 256)
            w.asyncerr.toNat none none) := by
  refine ⟨fun hd => ?_, fun hd hz => ?_, fun hd hz => ?_⟩ <;> rw [fenceaReport]
  · rw [if_pos hd]
  · rw [if_neg (not_not.mpr hd), if_pos ((asyncCode_zero_iff _).mpr hz)]
  · rw [if_neg (not_not.mpr hd), if_neg (mt (asyncCode_zero_iff _).mp hz)]

theorem writeS_ctl (n : Nat) (v : Dword) (w : Wave) : (writeS n v w).ctl = w.ctl := by
  unfold writeS
  split_ifs <;> rfl

/-- A wave that goes on is no longer as it was while it waited. -/
theorem resumed_ne {c : Nat} {i : Instr} {n : Nat} {v : Dword} (hw : getWave s wid = some w) (hc : w.ctl ≠ .running) :
    modWave (acquireAt s wid c) wid (fun u => finishControl i (writeS n v { u with ctl := .running })) ≠ s := by
  intro heq
  have hget : getWave (acquireAt s wid c) wid = some w := by
    rw [getWave, acquireAt_waves]
    exact hw
  have hnew := getWave_modWave_same (fun u => finishControl i (writeS n v { u with ctl := .running })) hget
  rw [heq, hw, Option.some_inj] at hnew
  have hctl : (writeS n v { w with ctl := .running }).ctl = .running := writeS_ctl n v _
  exact hc (by rw [hnew, finishControl_ctl, hctl])

/-! ## The clear of a wave (R41, R48) -/

/-- The clear engine of a pipe ends the clearing of the first wave of its queue. -/
theorem exec_waveClear_at {core pipe : Nat} {r : List Nat} (hw : getWave s wid = some w)
    (hq : Tbl.find? (getCore s core).clearQ pipe = some (wid :: r)) :
    ∃ t, exec (.waveClear core pipe) s = .next t ∧ getWave t wid = some (clearedWave w)
      ∧ Tbl.find? (getCore t core).clearQ pipe = (if r = [] then none else some r) := by
  refine ⟨_, (exec_waveClear core pipe s).trans ?_, getWave_modWave_same (s := setCore s core { getCore s core with
    clearQ := if r.isEmpty then Tbl.del (getCore s core).clearQ pipe else Tbl.put (getCore s core).clearQ pipe r }) clearedWave hw, ?_⟩
  · simp only [execWaveClear, hq, Option.getD_some]
  · simp only [getCore, modWave, setCore, Tbl.find?_put_same, Option.getD_some]
    cases r with
    | nil => simp
    | cons x r => simp

/-- All registers of a cleared wave have their reset values. -/
theorem clearedWave_reset (hc : w.ctl = .clearing) : (clearedWave w).ctl = .running
    ∧ (∀ n l, vVal (clearedWave w) n l = 0 ∧ vIsEmpty (clearedWave w) n l = false)
    ∧ (∀ n, sVal (clearedWave w) n = 0 ∧ sFull (clearedWave w) n = true) ∧ ∀ n < 7, condMask (clearedWave w) n = 0 := by
  rw [clearedWave, if_pos hc]
  refine ⟨rfl, fun n l => ⟨rfl, rfl⟩, fun n => ⟨?_, ?_⟩, fun n hn => ?_⟩
  · unfold sVal
    split_ifs <;> rfl
  · unfold sFull
    exact Bool.or_true _
  · unfold condMask
    rw [if_neg (by omega)]
    rfl

end

/-- Settles O35: each queue and each wait by its own equation. -/
theorem queueEventsAndWaitCompletions : Obligations.QueueEventsAndWaitCompletions := by
  unfold Obligations.QueueEventsAndWaitCompletions
  constructor
  · intro s wid w hw
    refine ⟨fun n ns v vs hr hq => (exec_recvFill wid s).trans ?_, fun e r hq hb hc hl hv => ?_⟩
    · simp only [execRecvFill, hw, hr, hq]
    · intro u
      refine ⟨exec_laneBlockStart_at hw hq hb hc hl hv, ⟨_, (loadQ_frame _ _).1, rfl, rfl, rfl⟩, fun k v hk hs h3 => blockQ_captured hk hs h3,
        (blockQ_number _ _).1, (blockQ_number _ _).2⟩
  · intro s wid w hw hl run waits quietLanes
    refine ⟨fun hc => ⟨fun hquiet => ?_, fun hno => ?_⟩, fun n hc hf => exec_mwaitComplete_none hw hl hc hf,
      fun n i pc unit hc hf => exec_mwaitComplete_delivers hw hl hc (deliverFault_some hf), fun scope d hc => ?_,
      fun lid level unit => exec_barrierComplete_at lid level unit, fun a target scope d bs hc ha ht hs hd hi => ?_, fun core pipe r hq hc => ?_⟩
    · exact (exec_lwaitComplete wid s).trans (completeWait_some hw hl (if_pos ⟨hc, lwaitDone_iff.mpr hquiet⟩))
    · exact (exec_lwaitComplete wid s).trans (completeWait_none hw hl (if_neg (fun hx => hno (lwaitDone_iff.mp hx.2))))
    · intro done clear next
      obtain ⟨into, clean, fault⟩ := fenceaReport_cases s wid w d
      refine ⟨fun hno => exec_fenceaComplete_waits hw hl hc (Bool.eq_false_iff.mpr (mt fenceaDone_iff.mp hno)), fun hdone => ?_⟩
      have hexec := exec_fenceaComplete_done hw hl hc (fenceaDone_iff.mpr hdone)
      exact ⟨fun h => hexec.trans (congrArg _ (into h)), fun h hz => hexec.trans (congrArg _ (clean h hz)),
        fun h hz => hexec.trans (congrArg _ (fault h hz))⟩
    · have ha' : (BitVec.ofNat 64 a : Dword).toNat = a := by rw [BitVec.toNat_ofNat, Nat.mod_eq_of_lt ha]
      have ht' : (BitVec.ofNat 64 target : Dword).toNat = target := by rw [BitVec.toNat_ofNat, Nat.mod_eq_of_lt ht]
      have hd' : (BitVec.ofNat 6 d).toNat = d := by rw [BitVec.toNat_ofNat, Nat.mod_eq_of_lt hd]
      have hs' : (BitVec.ofNat 15 scope).toNat % 8 = scope := by rw [BitVec.toNat_ofNat]; omega
      have hi' : ImageAt s wid w (BitVec.ofNat 64 a : Dword).toNat 8 8 bs := by rw [ha']; exact hi
      refine ⟨fun hle => ?_, fun hlt => ?_⟩
      · have hu := waitevTry_reached (f := { zCE with d := BitVec.ofNat 6 d, opts := BitVec.ofNat 15 scope }) hi' (by rw [ht']; exact hle)
        rw [exec_waitevWake_at hw hl hc hu, orIdle, if_neg (resumed_ne hw (by rw [hc]; nofun))]
        simp only [hd', hs']
        rfl
      · have hu := waitevTry_below (f := { zCE with d := BitVec.ofNat 6 d, opts := BitVec.ofNat 15 scope }) hi' (by rw [ht']; exact hlt)
        rw [exec_waitevWake_at hw hl hc hu]
        simp only [hd', hs', ha', ht', ← hc]
    · obtain ⟨t, ht, hu, hleft⟩ := exec_waveClear_at hw hq
      obtain ⟨hrun, hv, hs, hcond⟩ := clearedWave_reset hc
      exact ⟨t, _, ht, hu, hrun, hv, hs, hcond, hleft⟩

end Sys2Proof.Machine
end

/-! # Logged accesses, held records and snapshot copies (R325 to R330, R400, R466) -/

section
namespace Sys2Proof.Machine

open Sys2Proof.Laws

/-! ## Replay of the operand log (R328, R330) -/

/-- Entry `i` of the log of a wave may replay: its page is awake, and nothing earlier that it meets is left. -/
structure MayReplay (s : State) (wid i : Nat) (w : Wave) (e : LogEntry) : Prop where
  wave : getWave s wid = some w
  entry : w.log[i]? = some e
  awake : e.awake = true
  live : launchLive s w = true
  clear : logBehind s w e = false
  oldest : logReleases e = true → i = 0

section
variable {s : State} {wid i : Nat} {w : Wave} {e : LogEntry}

/-- What a replay comes to decides what is left of the entry. -/
theorem exec_logReplay_at (h : MayReplay s wid i w e) :
    (∀ t, replayEntry s wid w e = .done t → exec (.logReplay wid i) s = .next t)
    ∧ (∀ va n, replayEntry s wid w e = .absent va n → exec (.logReplay wid i) s = .next (keepEntry wid e.seq va n s))
    ∧ ∀ c d m u, replayEntry s wid w e = .stop (.fault c d m u) → exec (.logReplay wid i) s
        = .next (takeFault (dropEntry wid e.seq s) e.actor (standingAt s e.actor e.pc e.block e.path e.mask)
            (u.getD (unitFor s e.actor c)) c d m false) := by
  obtain ⟨hw, he, hawake, hlive, hclear, hold⟩ := h
  have hrel : (logReleases e && decide (0 < i)) = false := by
    cases hr : logReleases e
    · rfl
    · simp [hold hr]
  refine ⟨fun t ht => ?_, fun va n ht => ?_, fun c d m u ht => ?_⟩ <;> rw [exec_logReplay] <;>
    simp only [execLogReplay, hw, he, hawake, hlive, hclear, hrel, Bool.not_true, Bool.or_self, Bool.false_eq_true, if_false, ht]

theorem replayEntry_scalar {a : Access} {l : LaneAcc} {p : Place} (hb : e.body = .access a) (ha : a.actor = .control wid) (hl : a.lanes = [l])
    (hp : reachControl s w (wantOf a) l.addr a.width = .ok (.at p)) :
    replayEntry s wid w e = .done (dropEntry wid e.seq (setWave s wid (enterAccess { a with lanes := [{ l with place := p }] } w))) := by
  simp only [replayEntry, hb, replayAccess, ha, hl, hp, List.map_cons, List.map_nil]

theorem replayEntry_lanes {a : Access} {ps : List (Nat × Place)} (hb : e.body = .access a) (ha : isLaneActor a.actor = true)
    (hp : reachLanes s wid w (wantOf a) a.width (a.lanes.map (fun l => (l.lane, l.addr))) = .ok (.at ps)) :
    replayEntry s wid w e = .done (dropEntry wid e.seq (setWave s wid (enterAccess { a with lanes := placeLanes ps a.lanes } w))) := by
  simp only [replayEntry, hb, replayAccess]
  cases hact : a.actor with
  | control k => rw [hact] at ha; exact absurd ha Bool.false_ne_true
  | _ => simp only [hp]

end

/-! ## Monitors and timers of the walkers (R329) -/

theorem exec_walkerMonitorWake_at (s : State) (line : Nat) : exec (.walkerMonitorWake line) s
    = .next (orIdle s { s with waves := s.waves.map (fun p => (p.1, wakeWave s (some line) (fun _ => true) true p.2)) }) := by
  have hsame (ws : Tbl Wave) : ({ s with waves := ws } : State) = s ↔ ws = s.waves :=
    ⟨fun h => congrArg State.waves h, fun h => by rw [h]⟩
  rw [exec_walkerMonitorWake, execWalkerMonitorWake, orIdle]
  simp only [hsame]
  split_ifs <;> rfl

theorem exec_walkerRewalkTimer_at {s : State} {wid i : Nat} {w : Wave} (hw : getWave s wid = some w) :
    (wakeWave s none (fun k => k == i) (decide (8 ≤ i)) w ≠ w → exec (.walkerRewalkTimer wid i) s
      = .next (setWave s wid (wakeWave s none (fun k => k == i) (decide (8 ≤ i)) w)))
    ∧ (wakeWave s none (fun k => k == i) (decide (8 ≤ i)) w = w → exec (.walkerRewalkTimer wid i) s = .next { s with stalled := true }) := by
  refine ⟨fun hu => ?_, fun hu => ?_⟩ <;> rw [exec_walkerRewalkTimer] <;> simp only [execWalkerRewalkTimer, hw, hu, if_true, if_false]
  rfl

/-! ## Held records (R325, R326) -/

theorem recordReady_iff {s : State} {r : FaultRecord} : recordReady s r = true ↔
    ∀ uid bar, r.after = some (uid, bar) → ∀ p : Nat × Wave, p ∈ s.waves → p.2.uid = uid →
      (∀ b ∈ p.2.stores, b.seq < bar → 5 ≤ b.perf)
      ∧ ∀ o : Nat × Wave, o ∈ s.waves → o.1 ≠ p.1 → ∀ b ∈ o.2.stores, readable s o.1 p.1 b = true → 5 ≤ b.perf := by
  unfold recordReady
  cases ha : r.after with
  | none => simp
  | some q =>
    obtain ⟨uid, bar⟩ := q
    simp only [List.all_eq_true, Bool.or_eq_true, Bool.and_eq_true, bne_iff_ne, beq_iff_eq, decide_eq_true_eq, Bool.not_eq_true',
      Option.some.injEq, Prod.mk.injEq]
    constructor
    · rintro h uid' bar' ⟨rfl, rfl⟩ p hp hu
      obtain ⟨hown, hothers⟩ := (h p hp).resolve_left (fun hne => hne hu)
      refine ⟨fun b hb hlt => (hown b hb).resolve_left (by omega), fun o ho hne b hb hr => ?_⟩
      exact ((hothers o ho).resolve_left hne b hb).resolve_left (by simp [hr])
    · intro h p hp
      by_cases hu : p.2.uid = uid
      · obtain ⟨hown, hothers⟩ := h uid bar ⟨rfl, rfl⟩ p hp hu
        refine .inr ⟨fun b hb => ?_, fun o ho => ?_⟩
        · by_cases hlt : b.seq < bar
          · exact .inr (hown b hb hlt)
          · exact .inl (by omega)
        · by_cases hne : o.1 = p.1
          · exact .inl hne
          · refine .inr (fun b hb => ?_)
            cases hr : readable s o.1 p.1 b
            · exact .inl rfl
            · exact .inr (hothers o ho hne b hb hr)
      · exact .inl hu

/-- The oldest held record that may be written, behind those that may not. -/
theorem firstHeld_split {s : State} {r : FaultRecord} {post : List FaultRecord} (hr : recordReady s r = true) :
    ∀ {pre : List FaultRecord}, (∀ q ∈ pre, recordReady s q = false) → firstHeld s (pre ++ r :: post) = some (r, pre ++ post)
  | [], _ => by simp only [List.nil_append, firstHeld, hr, if_true]
  | q :: pre, h => by
    rw [List.forall_mem_cons] at h
    simp only [List.cons_append, firstHeld, h.1, Bool.false_eq_true, if_false, firstHeld_split hr h.2, Option.map_some]

theorem exec_faultRecordHeldWrite_at {s : State} {c : Nat} {x : Context} {r : FaultRecord} {pre post : List FaultRecord}
    (hx : getCtx s c = some x) (hh : x.heldFaults = pre ++ r :: post) (hpre : ∀ q ∈ pre, recordReady s q = false) (hr : recordReady s r = true) :
    exec (.faultRecordHeldWrite c) s = if faultRoom x then
        .next (putFault { s with contexts := Tbl.put s.contexts c { x with heldFaults := pre ++ post } } c { x with heldFaults := pre ++ post } r)
      else .next { s with stalled := true } := by
  rw [exec_faultRecordHeldWrite]
  simp only [execFaultRecordHeldWrite, hx, hh, firstHeld_split hr hpre]
  rfl

/-! ## Snapshot copies (R400, R466) -/

/-- The page at an address of an armed context is due for a copy: its leaf is writable, local, live, and of an older generation. -/
structure CopyDue (s : State) (c va : Nat) (x : Context) (lid : Nat) (y : Launch) (l : Leaf) : Prop where
  context : getCtx s c = some x
  armed : x.armed = some lid
  launch : getLaunch s lid = some y
  going : y.ending = none
  leaf : walkCtx s x (va % 2 ^ 56) = .leaf l
  here : l.remote = false
  writable : l.w = true
  older : l.gen ≠ x.generation
  live : livePhys s l.addr = true

/-- The record of a snapshot pool that is too small (R400). -/
def poolRecord (s : State) (x : Context) (y : Launch) (lid : Nat) : FaultRecord :=
  { timebase := s.timebase, qentry := y.qentry, detail := x.pool, block := 0, mask := 0, pc := 0, unit := 7 * 4096, wave := 0,
    ends := true, deferred := false, cont := false, path := 0, stream := false, code := 0x12, lid := some lid }

theorem exec_snapshotPageCopy_at {s : State} {c va lid : Nat} {x : Context} {y : Launch} {l : Leaf} (h : CopyDue s c va x lid y l) :
    (x.pool < x.poolUsed + 2 ^ l.shift / 2 ^ 17 → ∃ r, exec (.snapshotPageCopy c va) s = .next (writeFault s c r) ∧ r.code = 0x12
      ∧ r.detail = x.pool ∧ r.ends = true ∧ r.lid = some lid ∧ r.qentry = y.qentry)
    ∧ ∀ us, x.poolUsed + 2 ^ l.shift / 2 ^ 17 ≤ x.pool → poolUnits s x x.poolUsed (2 ^ l.shift / 2 ^ 17) = some us →
      let page := l.addr / 2 ^ l.shift * 2 ^ l.shift
      let t := us.zipIdx.foldl (fun t p => copyPhysLines 1 t (page + p.2 * 2 ^ 17) p.1 1024) s
      let leaf := bytesOfNat 8 (readPhysNat t l.entry 8 % 2 ^ 48 + x.generation * 2 ^ 48)
      exec (.snapshotPageCopy c va) s = .next (dropLeaf (modCtx (writePhys t l.entry leaf) c (fun x =>
        { x with snapshots := x.snapshots ++ [(page, 2 ^ l.shift, x.poolUsed, l.cls)], poolUsed := x.poolUsed + 2 ^ l.shift / 2 ^ 17 }))
        x.ptroot (va % 2 ^ 56) (readPhysNat t l.entry 8)) := by
  obtain ⟨hx, harmed, hlaunch, hgoing, hleaf, hhere, hw, hgen, hlive⟩ := h
  refine ⟨fun hsmall => ⟨poolRecord s x y lid, (exec_snapshotPageCopy c va s).trans ?_, rfl, rfl, rfl, rfl, rfl⟩, fun us hroom hus => ?_⟩
  · simp only [execSnapshotPageCopy, hx, harmed, hleaf, hhere, hw, beq_false_of_ne hgen, hlive, hlaunch, hgoing, hsmall, Bool.not_true, poolRecord,
      Bool.or_self, Bool.false_eq_true, if_false, if_true, Option.isSome_none]
  · intro page t leaf
    rw [exec_snapshotPageCopy]
    simp only [execSnapshotPageCopy, hx, harmed, hleaf, hhere, hw, beq_false_of_ne hgen, hlive, hlaunch, hgoing, Nat.not_lt.mpr hroom,
      Bool.not_true, Bool.or_self, Bool.false_eq_true, if_false, Option.isSome_none, hus]
    rfl

/-- Settles O36: replay, walkers, held records and snapshot copies, each by its own equation. -/
theorem logsRecordsAndSnapshots : Obligations.LogsRecordsAndSnapshots := by
  unfold Obligations.LogsRecordsAndSnapshots
  constructor
  · intro s wid i line w hw
    refine ⟨fun e he hawake hlive hclear hold => ?_, exec_walkerMonitorWake_at s line, exec_walkerRewalkTimer_at hw⟩
    intro event enters
    obtain ⟨done, absent, stop⟩ := exec_logReplay_at ⟨hw, he, hawake, hlive, hclear, hold⟩
    exact ⟨fun a l p hb _ ha hl hp => done _ (replayEntry_scalar hb ha hl hp), fun a ps hb ha hp => done _ (replayEntry_lanes hb ha hp),
      done, absent, stop⟩
  · intro s c va x hx ready
    refine ⟨fun pre r post hh hpre hr => ?_, fun lid y l harmed hlaunch hgoing hleaf hhere hw hgen hlive => ?_⟩
    · have hexec := exec_faultRecordHeldWrite_at hx hh (fun q hq => Bool.eq_false_iff.mpr (mt recordReady_iff.mp (hpre q hq)))
        (recordReady_iff.mpr hr)
      exact ⟨fun hroom => hexec.trans (by rw [if_pos hroom]), fun hroom => hexec.trans (by rw [if_neg (by rw [hroom]; exact Bool.false_ne_true)])⟩
    · exact exec_snapshotPageCopy_at ⟨hx, harmed, hlaunch, hgoing, hleaf, hhere, hw, hgen, hlive⟩

end Sys2Proof.Machine
end

/-! # The matrix unit executes MCLR, TBDROP, MOUT, MTAB and MLUT (R215, R217, R221 to R225, R231) -/

section
namespace Sys2Proof.Machine

open Sys2Proof.Laws

/-! ## MCLR and TBDROP -/

/-- Clearing a range of keys. -/
theorem Cells.get_clear {α : Type} (d : α) (m : Cells α) (a b j : Nat) :
    Cells.get d (m.filter (fun c => !(decide (a ≤ c.1) && decide (c.1 < b)))) j = if a ≤ j ∧ j < b then d else Cells.get d m j := by
  unfold Cells.get
  induction m with
  | nil => simp [Tbl.find?]
  | cons c m ih =>
    obtain ⟨k, v⟩ := c
    rw [List.filter_cons]
    by_cases hin : a ≤ k ∧ k < b
    · rw [if_neg (by simp [hin]), ih]
      split_ifs with hj
      · rfl
      · have hne : ¬ j = k := by rintro rfl; exact hj hin
        simp only [Tbl.find?, hne, if_false]
    · rw [if_pos (by rw [← Bool.decide_and, decide_eq_false hin]; rfl)]
      by_cases hk : j = k
      · subst hk
        rw [if_neg hin]
        simp only [Tbl.find?, if_true]
      · simp only [Tbl.find?, hk, if_false]
        exact ih

/-- What MCLR leaves of a team: `k` tiles from tile `t` are zero, and none of their sectors is poisoned (R222). -/
def clearTiles (t k : Nat) (y : Team) : Team :=
  { y with
    acc := y.acc.filter (fun c => !(decide (t * 256 ≤ c.1) && decide (c.1 < (t + k) * 256)))
    accPoison := y.accPoison.filter (fun c => !(decide (t * 32 ≤ c.1) && decide (c.1 < (t + k) * 32)))
    accChecks := y.accChecks.filter (fun c => !(decide (t * 32 ≤ c.1) && decide (c.1 < (t + k) * 32))) }

theorem getTeam_modTeam_same {s : State} {n : Nat} {y : Team} (f : Team → Team) (h : getTeam s n = some y) :
    getTeam (modTeam s n f) n = some (f y) := by
  rw [getTeam] at h ⊢
  rw [modTeam_teams, Tbl.find?_modify_same, h, Option.map_some]

theorem getTeam_modTeam_ne (s : State) {n m : Nat} (f : Team → Team) (h : m ≠ n) : getTeam (modTeam s n f) m = getTeam s m :=
  Tbl.find?_modify_ne f h s.teams

section
variable {s : State} {wid : Nat} {w : Wave} {x : Context} {e : EngineItem} {y : Team} (hr : MatrixRuns s wid w x e)
include hr

theorem exec_mclrExecute_at {t k : Nat} (hop : e.op = .mclr t k) :
    exec (.mclrExecute wid) s = .next (matrixDone wid e (modTeam s w.team (clearTiles t k))) :=
  (exec_mclrExecute wid s).trans (runMatrixWhole_done hr (by rw [hop]; rfl) (by rw [hop]; rfl))

/-- What TBDROP leaves of the record of a slot (R224). -/
def droppedBy (all : Bool) (slot : Nat) (r : Nat × SlotRec) : Nat × SlotRec :=
  if (all = true ∨ r.1 = slot) ∧ r.2.state ≠ .pending then (r.1, { r.2 with state := .dropped, entries := [] }) else r

omit hr in
theorem droppedBy_eq (all : Bool) (slot : Nat) :
    (fun r : Nat × SlotRec => if all || r.1 == slot then (r.1, dropRec r.2) else r) = droppedBy all slot := by
  funext r
  rw [droppedBy, dropRec]
  by_cases hsel : all = true ∨ r.1 = slot
  · rw [if_pos (by simpa using hsel)]
    by_cases hp : r.2.state = .pending
    · rw [if_pos hp, if_neg (fun h => h.2 hp)]
    · rw [if_neg hp, if_pos ⟨hsel, hp⟩]
  · rw [if_neg (by simpa using hsel), if_neg (fun h => hsel h.1)]

theorem exec_tbdropExecute_at {all : Bool} {slot : Nat} (hop : e.op = .tbdrop all slot) :
    exec (.tbdropExecute wid) s = .next (matrixDone wid e (modTeam s w.team
      (fun z => { z with slots := z.slots.map (droppedBy all slot), tables := z.tables.map (droppedBy all slot) }))) := by
  rw [← droppedBy_eq]
  exact (exec_tbdropExecute wid s).trans (runMatrixWhole_done hr (by rw [hop]; rfl) (by rw [hop]))

/-! ## MOUT -/

/-- The cells that MOUT writes: the converted elements, the undefined ones among them replaced. -/
def moutCells (s : State) (e : EngineItem) (d : Tensor) (row col : Nat) (out : List (Nat × BitVec 4)) : List (Nat × Nat × Nat × Bool) :=
  out.zipIdx.map (fun p => (row * 16 + p.2 / 16, col * 16 + p.2 % 16,
    if e.hazard ≠ 0 ∨ e.unseen.contains p.2 = true then (Config.freeWord (s.freeCtr + p.2)).toNat % 2 ^ fmtBits d.fmt else p.1.1, false))

theorem exec_moutExecute_at {tid : Nat} {d : Tensor} {row col tile mode : Nat} {sat iacc : Bool} {u : State} (hy : getTeam s w.team = some y)
    (hop : e.op = .mout tid d row col tile mode sat iacc) (hclean : tilePoisoned y tile = false) :
    let out := moutElems d.fmt mode sat iacc ((List.range 256).map (fun i => (Cells.get 0 y.acc (tile * 256 + i)).toNat)) w.engGen
    engineElems wid w x e d s (moutCells s e d row col out.1) = .ok u →
    exec (.moutExecute wid) s = .next (matrixDone wid e (modWave (if e.hazard ≠ 0 ∨ e.unseen ≠ [] then spendFree 256 u else u) wid
      (fun w => setFlags (out.1.foldl (fun f o => f ||| o.2) 0) { w with engGen := out.2 }))) := by
  intro out hw
  refine (exec_moutExecute wid s).trans (runMatrixWhole_done hr (by rw [hop]; rfl) ?_)
  rw [hop]
  change (do let team ← teamOr s w; _) = _
  rw [teamOr_some hy]
  change (if tilePoisoned y tile = true then _ else _) = _
  rw [if_neg (by rw [hclean]; exact Bool.false_ne_true)]
  change (orEngine true (engineElems wid w x e d s (moutCells s e d row col out.1)) >>= _) = _
  rw [hw]
  rfl

theorem exec_moutExecute_poisoned {tid : Nat} {d : Tensor} {row col tile mode : Nat} {sat iacc : Bool} (hy : getTeam s w.team = some y)
    (hop : e.op = .mout tid d row col tile mode sat iacc) (hbad : tilePoisoned y tile = true) :
    exec (.moutExecute wid) s = .next (engineFail s wid e 0x17 (tilePoison y tile) (engineUnit wid e.op 0x17)) := by
  refine (exec_moutExecute wid s).trans (runMatrix_fault (m := none) (u := none) hr (by rw [hop]; rfl) ?_)
  dsimp only
  rw [hop]
  simp only [teamOr_some hy]
  change Except.map _ (if tilePoisoned y tile = true then _ else _) = _
  rw [if_pos hbad]
  rfl

/-! ## MTAB -/

theorem exec_mtabExecute_built {prod : Bool} {aTid row col pal slot : Nat} {a : Tensor} {p : Palette} (hy : getTeam s w.team = some y)
    (hop : e.op = .mtab prod aTid a row col pal p slot) (hclean : e.hazard = 0) {b : Cells Word × BitVec 4}
    (hb : buildTables s wid w x { pendingRec e.id prod aTid a row col pal p .undefined with regions := tileVersions y a row col } = .ok b) :
    exec (.mtabExecute wid) s = .next (matrixDone wid e (modWave (modTeam s w.team (placeTable slot
      { pendingRec e.id prod aTid a row col pal p .undefined with regions := tileVersions y a row col, state := .built, entries := b.1 }))
      wid (setFlags b.2))) := by
  refine (exec_mtabExecute wid s).trans (runMatrixWhole_done hr (by rw [hop]; rfl) ?_)
  rw [hop]
  simp only [teamOr_some hy]
  change (if e.hazard ≠ 0 then _ else (buildTables s wid w x _ >>= _)) = _
  rw [if_neg (not_not.mpr hclean), hb]
  rfl

theorem exec_mtabExecute_hazard {prod : Bool} {aTid row col pal slot : Nat} {a : Tensor} {p : Palette} (hy : getTeam s w.team = some y)
    (hop : e.op = .mtab prod aTid a row col pal p slot) (hmet : e.hazard ≠ 0) :
    exec (.mtabExecute wid) s = .next (matrixDone wid e (modTeam s w.team (placeTable slot
      { pendingRec e.id prod aTid a row col pal p .undefined with regions := tileVersions y a row col }))) := by
  refine (exec_mtabExecute wid s).trans (runMatrixWhole_done hr (by rw [hop]; rfl) ?_)
  rw [hop]
  simp only [teamOr_some hy]
  change (if e.hazard ≠ 0 then _ else _) = _
  rw [if_pos hmet]

/-! ## MLUT -/

end

section
variable {s : State} {wid : Nat} {w : Wave} {x : Context} {e : EngineItem} {y : Team} {tile slot bTid row col p : Nat} {b : Tensor}
  {ct : CodeTable} {pal : Palette}

theorem beginAdd_unpaired {d : TileData} {u : SlotRec × BitVec 4} (hu : usableTable s wid w x slot = .ok u) (hp : pairOf u.1 b b.palette = none) :
    beginAdd s wid w x e tile slot bTid b d = .error (.fault 0x11 (tensorDetail bTid slot) none none) := by
  unfold beginAdd
  rw [hu]
  change (orStop (pairOf u.1 b b.palette) _ >>= _) = _
  rw [hp]
  rfl

theorem beginAdd_paired {d : TileData} {u : SlotRec × BitVec 4} {pair : Nat} (hy : getTeam s w.team = some y)
    (hu : usableTable s wid w x slot = .ok u) (hp : pairOf u.1 b b.palette = some pair) :
    beginAdd s wid w x e tile slot bTid b d
      = if d.zero then .ok (finishTile wid w e tile u.2 (modTeam s w.team (placeTable slot u.1)))
        else if e.hazard ≠ 0 ∨ tilePoisoned y tile = false then
          .ok (modItem wid e.id (fun e => { e with started := true, adding := some ⟨u.1, d, 0, u.2⟩ }) (modTeam s w.team (placeTable slot u.1)))
        else .error (.fault 0x17 (tilePoison y tile) none none) := by
  unfold beginAdd
  rw [hu]
  change (orStop (pairOf u.1 b b.palette) _ >>= fun _ => teamOr s w >>= _) = _
  rw [hp, teamOr_some hy]
  change (if d.zero = true then _ else (ensure (e.hazard != 0 || !(tilePoisoned y tile)) _ _ >>= _)) = _
  refine if_congr Iff.rfl rfl ?_
  by_cases hgo : e.hazard ≠ 0 ∨ tilePoisoned y tile = false
  · rw [if_pos hgo, show (e.hazard != 0 || !(tilePoisoned y tile)) = true by simpa using hgo]
    rfl
  · rw [if_neg hgo, show (e.hazard != 0 || !(tilePoisoned y tile)) = false by simpa using hgo]
    rfl

variable (hr : MatrixRuns s wid w x e) (hop : e.op = .mlut tile slot bTid b ct pal row col p none)
include hr hop

/-- The first turn of MLUT, once its B tile is there, comes to what `beginAdd` comes to. -/
theorem exec_mlutExecute_first {d : TileData} (hnew : e.adding = none) (hd : fetchB s w wid x bTid b ct pal row col = .ok d) :
    exec (.mlutExecute wid) s = settleItem s wid w e ((beginAdd s wid w x e tile slot bTid b d).map (servedAt wid)) := by
  refine (exec_mlutExecute wid s).trans ((runMatrix_ready hr (by rw [hop]; rfl)).trans ?_)
  simp only [hop, hnew]
  rw [hd]
  rfl

theorem exec_mlutExecute_next {z : Adding} (hgo : e.adding = some z) :
    exec (.mlutExecute wid) s = .next (servedAt wid (addNext s wid w e tile p b z)) := by
  refine (exec_mlutExecute wid s).trans ((runMatrix_ready hr (by rw [hop]; rfl)).trans ?_)
  simp only [hop, hgo]
  rfl

theorem exec_mlutExecute_unpaired {d : TileData} {u : SlotRec × BitVec 4} (hnew : e.adding = none)
    (hd : fetchB s w wid x bTid b ct pal row col = .ok d) (hu : usableTable s wid w x slot = .ok u) (hp : pairOf u.1 b b.palette = none) :
    exec (.mlutExecute wid) s = .next (engineFail s wid e 0x11 (tensorDetail bTid slot) (engineUnit wid e.op 0x11)) := by
  rw [exec_mlutExecute_first hr hop hnew hd, beginAdd_unpaired hu hp]
  rfl

/-! ### Adding one group -/

omit hr hop

/-- What element `i` of the accumulator tile comes to when the next group is added: its value and the SATF bits. -/
def addedElem (s : State) (e : EngineItem) (y : Team) (tile pair p : Nat) (b : Tensor) (z : Adding) (i : Nat) : Nat × BitVec 4 :=
  if Cells.get false y.accHot (tile * 256 + i) = true ∨ e.unseen.contains i = true then ((Config.freeWord (s.freeCtr + i)).toNat, 0)
  else addGroup pair p z.table b z.tile (i / 16) (i % 16) ((Cells.get 0 y.acc (tile * 256 + i)).toNat, 0) z.done

theorem addNext_paired {z : Adding} {pair : Nat} (hy : getTeam s w.team = some y) (hp : pairOf z.table b b.palette = some pair) :
    let flags := (List.range 256).foldl (fun f i => f ||| (addedElem s e y tile pair p b z i).2) z.flags
    let t := spendFree 256 (modTeam s w.team (writeTile tile
      (fun i => if i < 256 then BitVec.ofNat 32 (addedElem s e y tile pair p b z i).1 else 0)))
    addNext s wid w e tile p b z = if groupCount pair b z.tile ≤ z.done + 1 then finishTile wid w e tile flags t
      else modItem wid e.id (fun e => { e with adding := some { z with done := z.done + 1, flags := flags } }) t := by
  intro flags t
  have hout : (fun i => if (Cells.get false y.accHot (tile * 256 + i) || e.unseen.contains i) = true then
        ((Config.freeWord (s.freeCtr + i)).toNat, (0 : BitVec 4))
      else addGroup pair p z.table b z.tile (i / 16) (i % 16) ((Cells.get 0 y.acc (tile * 256 + i)).toNat, 0) z.done)
      = addedElem s e y tile pair p b z := by
    funext i
    rw [addedElem]
    exact if_congr Bool.or_eq_true_iff rfl rfl
  have hget : (fun i => BitVec.ofNat 32 (((List.range 256).map (addedElem s e y tile pair p b z)).getD i (0, 0)).1)
      = fun i => if i < 256 then BitVec.ofNat 32 (addedElem s e y tile pair p b z i).1 else 0 := by
    funext i
    rw [List.getD_eq_getElem?_getD, List.getElem?_map]
    split_ifs with hi
    · rw [List.getElem?_range hi]; rfl
    · rw [List.getElem?_eq_none (by simpa using hi)]; rfl
  unfold addNext
  rw [hy, hp]
  dsimp only
  rw [hout, hget, List.foldl_map]

end

/-- Settles O37: each operation of the matrix unit by the equation of its turn. -/
theorem tileAndLookupExecution : Obligations.TileAndLookupExecution := by
  unfold Obligations.TileAndLookupExecution
  constructor
  · intro s wid w x e y hr hy
    refine ⟨fun t k hop => ?_, fun all slot hop => exec_tbdropExecute_at hr hop, fun tid d row col tile mode sat iacc hop => ?_⟩
    · exact ⟨clearTiles t k y, modTeam s w.team (clearTiles t k), fun n hn => getTeam_modTeam_ne s _ hn, getTeam_modTeam_same _ hy,
        Cells.get_clear 0 y.acc _ _, Cells.get_clear false y.accPoison _ _, Cells.get_clear 0 y.accChecks _ _, rfl, rfl,
        exec_mclrExecute_at hr hop⟩
    · intro old out met value cells flags
      exact ⟨fun hclean u hw => exec_moutExecute_at hr hy hop hclean hw, fun hbad => exec_moutExecute_poisoned hr hy hop hbad⟩
  · intro s wid w x e y hr hy
    constructor
    · intro prod aTid a row col pal p slot hop r
      exact ⟨fun hclean b hb => exec_mtabExecute_built hr hy hop hclean hb, fun hmet => exec_mtabExecute_hazard hr hy hop hmet⟩
    · intro tile slot bTid b ct pal row col p hop failed
      constructor
      · intro hnew d u hd hu t
        refine ⟨fun hp => exec_mlutExecute_unpaired hr hop hnew hd hu hp, fun pair hp => ⟨fun hz => ?_, fun hz hbad hclean => ?_, fun hz hgo => ?_⟩⟩
          <;> rw [exec_mlutExecute_first hr hop hnew hd, beginAdd_paired hy hu hp]
        · rw [if_pos hz]; rfl
        · rw [if_neg (by rw [hz]; exact Bool.false_ne_true), if_neg (by rw [hbad, hclean]; decide)]; rfl
        · rw [if_neg (by rw [hz]; exact Bool.false_ne_true), if_pos hgo.symm]; rfl
      · intro z pair hz hp met sum out flags t
        exact ⟨addNext_paired hy hp, exec_mlutExecute_next hr hop hz⟩

end Sys2Proof.Machine
end

/-! # The operation of a gang, MXPQ, and the encoder (R197, R199, R218, R219, R226, R415) -/

section
namespace Sys2Proof.Machine

open Sys2Proof.Laws

/-! ## The latch of a gang (R218, R219) -/

/-- The ganged operation at the head of the queue of wave `wid` has its turn. -/
structure LatchRuns (s : State) (wid k : Nat) (w w' : Wave) (c : Nat) (x : Context) (e : EngineItem) : Prop where
  wave : getWave s wid = some w
  head : latchHead s w.uid = some (k, w', e)
  context : InContext s w c x
  first : takesHead s wid w = true
  turn : servedNow s wid w = true
  unit : unitRuns s wid = true

/-- The unit has served the wave's queue, unless nothing was done. -/
def latchServed (wid : Nat) (t : State) : State := if t.stalled = true then t else servedAt wid t

section
variable {s : State} {wid k : Nat} {w w' : Wave} {c : Nat} {x : Context} {e : EngineItem}
  {tile slot bTid row col p g word n : Nat} {us : List Nat} {b : Tensor} {ct : CodeTable} {pal : Palette}
  (hr : LatchRuns s wid k w w' c x e) (hop : e.op = .mlut tile slot bTid b ct pal row col p (some (g, word, us, n)))
include hr hop

theorem exec_mlutgLatchComplete_first {t : State} (hnew : e.adding = none) (ht : latchMeets s wid w x e g word us = .next t) :
    exec (.mlutgLatchComplete wid) s = .next (latchServed wid t) := by
  obtain ⟨hw, hh, hx, h1, h2, h3⟩ := hr
  have hx' : ctxRec s w = some (c, x) := hx
  rw [exec_mlutgLatchComplete]
  simp only [execMlutgLatchComplete, hw, hh, hx', h1, h2, h3, hop, hnew, ht, Bool.and_self, if_true]
  rfl

theorem exec_mlutgLatchComplete_next {z : Adding} (hgo : e.adding = some z) :
    exec (.mlutgLatchComplete wid) s = .next (addNext s wid w e tile p b z) := by
  obtain ⟨hw, hh, hx, h1, h2, h3⟩ := hr
  have hx' : ctxRec s w = some (c, x) := hx
  rw [exec_mlutgLatchComplete]
  simp only [execMlutgLatchComplete, hw, hh, hx', h1, h2, h3, hop, hgo, Bool.and_self, if_true]

end

section
variable {s : State} {wid : Nat} {w : Wave} {x : Context} {e : EngineItem} {g word : Nat} {us : List Nat}

theorem latchMeets_departed {q : Nat × Nat} (hq : (gangWaves s wid word us).find? (fun p => departed s p.2) = some q) :
    latchMeets s wid w x e g word us = .next (engineFail s wid e 0x10 (gangDetail g 2 q.1 0) (engineUnit wid e.op 0x10)) := by
  simp only [latchMeets, hq]

/-- Every member is present, with its operation at the latch and its tables to be had. -/
structure LatchFull (s : State) (wid : Nat) (w : Wave) (word : Nat) (us : List Nat) (m0 : Nat × Wave × EngineItem)
    (r : List (Nat × Wave × EngineItem)) : Prop where
  present : (gangWaves s wid word us).find? (fun p => departed s p.2) = none
  members : sortMembers (latched s w (gangWaves s wid word us)) = m0 :: r
  tables : ∀ m ∈ m0 :: r, waitsForTable s m.1 m.2.1 m.2.2 = false

variable {m0 : Nat × Wave × EngineItem} {r : List (Nat × Wave × EngineItem)}

theorem latchMeets_full (h : LatchFull s wid w word us m0 r) : latchMeets s wid w x e g word us
    = match r.find? (fun m => !(gangMatch s m0 m)) with
      | some m => .next (failMembers (fun q => (0x10, gangDetail (gangRegOf q.2.2) 1 (m.1 % 128) 0, none)) (m0 :: r) s)
      | none => latchRun s (m0 :: r) wid w x e := by
  obtain ⟨hp, hm, ht⟩ := h
  have hany : (m0 :: r).any (fun m => waitsForTable s m.1 m.2.1 m.2.2) = false :=
    List.any_eq_false.mpr (fun m hmem => by rw [ht m hmem]; exact Bool.false_ne_true)
  simp only [latchMeets, hp, hm, hany, Bool.false_eq_true, if_false] <;> rfl

theorem latchMeets_mismatch (h : LatchFull s wid w word us m0 r) {m : Nat × Wave × EngineItem}
    (hm : r.find? (fun m => !(gangMatch s m0 m)) = some m) : latchMeets s wid w x e g word us
      = .next (failMembers (fun q => (0x10, gangDetail (gangRegOf q.2.2) 1 (m.1 % 128) 0, none)) (m0 :: r) s) := by
  rw [latchMeets_full h, hm]

theorem latchMeets_match (h : LatchFull s wid w word us m0 r) (hm : ∀ m ∈ r, gangMatch s m0 m = true) :
    latchMeets s wid w x e g word us = latchRun s (m0 :: r) wid w x e := by
  rw [latchMeets_full h, List.find?_eq_none.mpr (fun m hmem => by rw [hm m hmem]; exact Bool.false_ne_true)]

end

/-- The first member that fails by itself heads the list of those that do. -/
theorem filterMap_of_find {α β : Type} (f : α → Option β) {a : α} : ∀ {l : List α}, l.find? (fun m => (f m).isSome) = some a →
    ∃ z r, l.filterMap (fun m => (f m).map (fun z => (m, z))) = (a, z) :: r
  | m :: l, h => by
    rw [List.find?_cons] at h
    cases hf : f m with
    | none =>
      rw [hf] at h
      rw [List.filterMap_cons_none (by rw [hf]; rfl)]
      exact filterMap_of_find f h
    | some z =>
      rw [hf] at h
      cases h
      exact ⟨z, _, List.filterMap_cons_some (by rw [hf]; rfl)⟩

section
variable {s : State} {ms : List (Nat × Wave × EngineItem)} {d : TileData}

theorem latchBegin_ok {t : State} (hown : ∀ m ∈ ms, ownFailure s m = .ok ()) (ht : membersBegin d s ms = .ok t) :
    latchBegin s ms d = .next t := by
  have hnone : ms.filterMap (fun m => (faultOf (ownFailure s m)).map (fun z => (m, z))) = [] :=
    List.filterMap_eq_nil_iff.mpr (fun m hm => by rw [hown m hm]; rfl)
  have hany : ms.any (fun m => (ownFailure s m).toOption.isNone) = false :=
    List.any_eq_false.mpr (fun m hm => by rw [hown m hm]; exact Bool.false_ne_true)
  simp only [latchBegin, hnone, hany, ht, Bool.false_eq_true, if_false]

theorem latchBegin_own {m : Nat × Wave × EngineItem} (hm : ms.find? (fun m => (faultOf (ownFailure s m)).isSome) = some m) :
    latchBegin s ms d = .next (failMembers (fun q =>
      (faultOf (ownFailure s q)).getD (0x10, gangDetail (gangRegOf q.2.2) 3 (m.1 % 128) 0, none)) ms s) := by
  obtain ⟨z, r, hz⟩ := filterMap_of_find (fun m => faultOf (ownFailure s m)) hm
  have heach : (fun q : Nat × Wave × EngineItem => match faultOf (ownFailure s q) with
      | some z => z
      | none => (0x10, gangDetail (gangRegOf q.2.2) 3 (m.1 % 128) 0, none))
      = fun q => (faultOf (ownFailure s q)).getD (0x10, gangDetail (gangRegOf q.2.2) 3 (m.1 % 128) 0, none) := by
    funext q
    cases faultOf (ownFailure s q) <;> rfl
  unfold latchBegin
  rw [hz]
  exact congrArg (fun f => Host.Outcome.next (failMembers f ms s)) heach

end

section
variable {s : State} {ms : List (Nat × Wave × EngineItem)} {wid : Nat} {w : Wave} {x : Context} {e : EngineItem}
  {tile slot bTid row col p : Nat} {b : Tensor} {ct : CodeTable} {pal : Palette} {gang : Option (Nat × Nat × List Nat × Nat)}
  (hop : e.op = .mlut tile slot bTid b ct pal row col p gang)
include hop

theorem latchRun_fault {code detail : Nat} {lanes u : Option Nat}
    (hf : fetchB s w wid x bTid b ct pal row col = .error (.fault code detail lanes u)) :
    latchRun s ms wid w x e = .next (failMembers (fun _ => (code, detail, u)) ms s) := by
  simp only [latchRun, hop, hf]

theorem latchRun_fetched {d : TileData} (hf : fetchB s w wid x bTid b ct pal row col = .ok d) :
    latchRun s ms wid w x e = latchBegin s ms d := by
  simp only [latchRun, hop, hf]

end

/-! ## MXPQ (R226) -/

/-- The transposed values of a block of MXPQ, with their SATF bits. -/
def xposeSource (d src : Tensor) (p : Palette) (tile : TileData) (z : Nat × Nat) : List (Nat × BitVec 4) :=
  (List.range d.blockLen).map (fun j =>
    xposeValue src p tile (if d.kaxis = 0 then z.2 else z.2 + j) (if d.kaxis = 0 then z.1 + j else z.1))

theorem xposeSource_eq (d src : Tensor) (p : Palette) (tile : TileData) : xposeSource d src p tile = fun z =>
    (List.range d.blockLen).map (fun j => if d.kaxis = 0 then xposeValue src p tile z.2 (z.1 + j) else xposeValue src p tile (z.2 + j) z.1) := by
  funext z
  refine List.map_congr_left (fun j _ => ?_)
  split_ifs <;> rfl

/-- The scale byte, the codes and the SATF bits of a block of MXPQ. -/
def xposeCoded (d src : Tensor) (p : Palette) (tile : TileData) (z : Nat × Nat) : Nat × List Nat × BitVec 4 :=
  xposeBlock d p ((xposeSource d src p tile z).map (fun v => v.1))

/-- What MXPQ writes for each block: its scale byte and codes, or free values where a write met the operands. -/
def xposeOut (s : State) (e : EngineItem) (d src : Tensor) (p : Palette) (tile : TileData) : List ((Nat × Nat) × Nat × List Nat) :=
  (blockCells d).zipIdx.map (fun z =>
    if e.hazard = 0 then (z.1, (xposeCoded d src p tile z.1).1, (xposeCoded d src p tile z.1).2.1)
    else (z.1, (Config.freeWord (s.freeCtr + 64 * z.2)).toNat % 256,
      (List.range d.blockLen).map (fun j => (Config.freeWord (s.freeCtr + (64 * z.2 + 1 + j))).toNat % 2 ^ fmtBits d.fmt)))

/-- A block with what MXPQ makes of it. -/
def xposeEach (d src : Tensor) (p : Palette) (tile : TileData) (z : Nat × Nat) : (Nat × Nat) × (Nat × List Nat × BitVec 4) × BitVec 4 :=
  (z, xposeCoded d src p tile z, (xposeSource d src p tile z).foldl (fun f v => f ||| v.2) (xposeCoded d src p tile z).2.2)

theorem xposeOut_eq (s : State) (e : EngineItem) (d src : Tensor) (p : Palette) (tile : TileData) :
    ((blockCells d).map (xposeEach d src p tile)).zipIdx.map (fun b =>
        if e.hazard ≠ 0 then (b.1.1, (Config.freeWord (s.freeCtr + 64 * b.2)).toNat % 256,
          (List.range d.blockLen).map (fun j => (Config.freeWord (s.freeCtr + 64 * b.2 + 1 + j)).toNat % 2 ^ fmtBits d.fmt))
        else (b.1.1, b.1.2.1.1, b.1.2.1.2.1)) = xposeOut s e d src p tile := by
  rw [List.zipIdx_map, List.map_map]
  refine List.map_congr_left (fun z _ => ?_)
  by_cases hz : e.hazard = 0
  · simp only [Function.comp_apply, Prod.map, hz, ne_eq, not_true_eq_false, if_false, if_true, id_eq]
    rfl
  · simp only [Function.comp_apply, Prod.map, hz, ne_eq, not_false_eq_true, if_false, if_true, id_eq, Nat.add_assoc]
    rfl

theorem exec_mxpqExecute_at {s : State} {wid : Nat} {w : Wave} {x : Context} {e : EngineItem} {dTid sTid a b : Nat} {d src : Tensor}
    {ct : CodeTable} {p : Palette} {tile : TileData} {u : State} (hr : MatrixRuns s wid w x e) (hop : e.op = .mxpq dTid d sTid src ct p a b)
    (hf : fetchB s w wid x sTid src ct p a b = .ok tile) (hu : xposeWrite wid w x e d b a s (xposeOut s e d src p tile) = .ok u) :
    exec (.mxpqExecute wid) s = .next (matrixDone wid e (modWave
      (if e.hazard = 0 then u else spendFree (64 * (blockCells d).length) u) wid (setFlags ((blockCells d).foldl (fun f z =>
        f ||| (xposeSource d src p tile z).foldl (fun f v => f ||| v.2) (xposeCoded d src p tile z).2.2) 0)))) := by
  refine (exec_mxpqExecute wid s).trans (runMatrixWhole_done hr (by rw [hop]; rfl) ?_)
  dsimp only
  rw [hop]
  dsimp only
  rw [hf]
  change (orEngine true (xposeWrite wid w x e d b a s (((blockCells d).map (xposeEach d src p tile)).zipIdx.map (fun b =>
        if e.hazard ≠ 0 then (b.1.1, (Config.freeWord (s.freeCtr + 64 * b.2)).toNat % 256,
          (List.range d.blockLen).map (fun j => (Config.freeWord (s.freeCtr + 64 * b.2 + 1 + j)).toNat % 2 ^ fmtBits d.fmt))
        else (b.1.1, b.1.2.1.1, b.1.2.1.2.1)))) >>= fun t => Except.ok (modWave
      (if e.hazard ≠ 0 then spendFree (64 * ((blockCells d).map (xposeEach d src p tile)).length) t else t) wid
      (setFlags (((blockCells d).map (xposeEach d src p tile)).foldl (fun f b => f ||| b.2.2) 0)))) = _
  rw [xposeOut_eq, hu, List.length_map, List.foldl_map]
  by_cases hz : e.hazard = 0
  · simp only [hz, ne_eq, not_true_eq_false, if_false, if_true]; rfl
  · simp only [hz, ne_eq, not_false_eq_true, if_false, if_true]; rfl

/-! ## The encoder (R197, R199, R415) -/

/-- The encoder of wave `wid` has its turn for tile `o`, the oldest that the wave has completed. -/
structure EncoderRuns (s : State) (wid : Nat) (w : Wave) (c : Nat) (x : Context) (y : Team) (o : OpenTile) : Prop where
  wave : getWave s wid = some w
  context : InContext s w c x
  team : getTeam s w.team = some y
  works : underTest s 6 (clusterOf wid) = false
  oldest : List.find? (fun o : OpenTile => o.complete == some w.uid) y.openTiles = some o

section
variable {s : State} {wid : Nat} {w : Wave} {c : Nat} {x : Context} {y : Team} {o : OpenTile}

section
variable (h : EncoderRuns s wid w c x y o)
include h

theorem exec_encoderTileWrite_append (ho : o.append = none) : exec (.encoderTileWrite wid) s = encoderAppend s wid w x o := by
  obtain ⟨hw, hx, hy, ht, hfind⟩ := h
  have hx' : ctxRec s w = some (c, x) := hx
  rw [exec_encoderTileWrite]
  simp only [execEncoderTileWrite, hw, hx', hy, ht, hfind, ho, Bool.false_eq_true, if_false]

theorem exec_encoderTileWrite_publish {q : Nat} (ho : o.append = some q) : exec (.encoderTileWrite wid) s = encoderPublish s wid w x o q := by
  obtain ⟨hw, hx, hy, ht, hfind⟩ := h
  have hx' : ctxRec s w = some (c, x) := hx
  rw [exec_encoderTileWrite]
  simp only [execEncoderTileWrite, hw, hx', hy, ht, hfind, ho, Bool.false_eq_true, if_false]

end

/-- The size in bytes of a tile's stream, in units of 16 bytes. -/
def streamSize (o : OpenTile) : Nat := 16 * ceilDiv (formStream o.ct (tileBlocks o)).2.1 128

/-! ### The space -/

section
variable {r a : Nat} (hq : writeTarget s w x (o.t.addr + 24) 8 = .ok (.remote r a))
include hq

theorem encoderAppend_unreachable (hu : s.fabric.unreachable.contains (r % 65536) = true) :
    encoderAppend s wid w x o = .next (discardTile s w.team w.uid o 0x0B (r % 65536)) := by
  simp only [encoderAppend, hq, hu, if_true]

theorem encoderAppend_remote (hu : s.fabric.unreachable.contains (r % 65536) = false) (hask : o.asked = false) (hf : lineFree s r a = true)
    (hout : atomicsOut s r a < 1024) : encoderAppend s wid w x o = .next (modTile
      (sendAtomic s w .add r a 8 0 (streamSize o) 0 false (.encode w.team w.uid o.tid o.t.addr o.row o.col)) w.team o
      (fun o => some { o with asked := true })) := by
  simp only [encoderAppend, hq, hu, hask, hf, hout, Bool.not_true, decide_true, Bool.or_self, Bool.false_eq_true, if_false]
  rfl

end

/-- The append pointer at a local place `q`, which nothing holds up. -/
structure PointerHere (s : State) (wid : Nat) (w : Wave) (x : Context) (o : OpenTile) (q : Place) : Prop where
  target : writeTarget s w x (o.t.addr + 24) 8 = .ok q
  here : ∀ r a, q ≠ .remote r a
  stores : ownStoreWaits w w.seq q 8 = false
  narrow : narrowMeets s (engineOf wid) q 8 = false
  peers : peersHolding s q 8 = false

theorem encoderAppend_here {q : Place} (h : PointerHere s wid w x o q) : encoderAppend s wid w x o
    = if placePoisoned s q 8 = true then .next (discardTile s w.team w.uid o 0x17 s.pkg)
      else
        let bs := bytesOfNat 8 (natOfBytes (readBase s q 8) + streamSize o)
        .next (modTile (coreL1Write (allocWritten (writePlace s q bs false) wid w q (o.t.addr + 24) 8 0) (coreOf wid) q bs) w.team o
          (fun z => some { z with append := some (natOfBytes (readBase s q 8)) })) := by
  obtain ⟨hq, hhere, hs, hn, hp⟩ := h
  unfold encoderAppend
  cases q with
  | remote r a => exact absurd rfl (hhere r a)
  | _ => simp only [hq, hs, hn, hp, Bool.or_self, Bool.false_eq_true, if_false]; rfl

/-! ### The stream and the entry -/

theorem encoderPublish_overflow {q : Nat} (hq : q % 16 ≠ 0 ∨ 2 ^ 36 ≤ q / 16) :
    encoderPublish s wid w x o q = .next (discardTile s w.team w.uid o 0x12 s.pkg) := by
  rw [encoderPublish]
  simp only [hq, if_true]

section
variable {q : Nat} (hq : q % 16 = 0) (hsmall : q / 16 < 2 ^ 36) (hout : encoderOut s w = false)
include hq hsmall hout

theorem encoderPublish_stream (hp : o.phase = 0) : encoderPublish s wid w x o q
    = encoderWrite s wid w x o (tensorAddr o.t (o.t.base + q)) (formStream o.ct (tileBlocks o)).2.2 (tilePhase w.team o 1) := by
  rw [encoderPublish]
  simp only [hq, Nat.not_le.mpr hsmall, hout, hp, ne_eq, not_true_eq_false, or_self, Bool.false_eq_true, if_false]

theorem encoderPublish_entry (hp : o.phase = 1) : encoderPublish s wid w x o q
    = encoderWrite s wid w x o (indexEntryAt o.t o.row o.col) (bytesOfNat 8 (q / 16 + (formStream o.ct (tileBlocks o)).2.1 * 2 ^ 36
        + b2n (formStream o.ct (tileBlocks o)).1 * 2 ^ 61))
        (fun t => if encoderOut t w then tilePhase w.team o 2 t else closeTile t w.team w.uid o) := by
  rw [encoderPublish]
  simp only [hq, Nat.not_le.mpr hsmall, hout, hp, ne_eq, not_true_eq_false, or_self, Bool.false_eq_true, if_false]

theorem encoderPublish_close (hp : 2 ≤ o.phase) : encoderPublish s wid w x o q = .next (closeTile s w.team w.uid o) := by
  rw [encoderPublish]
  simp only [hq, Nat.not_le.mpr hsmall, hout, ne_eq, not_true_eq_false, or_self, Bool.false_eq_true, if_false]
  split
  · omega
  · omega
  · rfl

end

theorem encoderWrite_blocked {addr code member : Nat} {bs : List Byte} {k : State → State}
    (h : encoderBlocked s w x (addr + bs.length) (bs.length / 128 + 2) addr = some (code, member)) :
    encoderWrite s wid w x o addr bs k = .next (discardTile s w.team w.uid o code member) := by
  simp only [encoderWrite, h]

theorem encoderWrite_done {addr : Nat} {bs : List Byte} {k : State → State} {t : State}
    (h : encoderBlocked s w x (addr + bs.length) (bs.length / 128 + 2) addr = none)
    (ht : engineWriteAll s wid w x (encoderItem w) addr (cleanBytes bs) = .ok t) :
    encoderWrite s wid w x o addr bs k = .next (k t) := by
  simp only [encoderWrite, h, ht]

end

/-- Settles O38: the latch of a gang, MXPQ and the encoder, each by the equations of its turn. -/
theorem gangAndEncoderExecution : Obligations.GangAndEncoderExecution := by
  unfold Obligations.GangAndEncoderExecution
  refine ⟨?_, ?_, ?_⟩
  · intro s wid k w w' c x e hw hh hx h1 h2 h3 tile slot bTid b ct pal row col p g word us n hop waves gone unready served
    have hr : LatchRuns s wid k w w' c x e := ⟨hw, hh, hx, h1, h2, h3⟩
    refine ⟨fun hnew => ⟨fun q hq => exec_mlutgLatchComplete_first hr hop hnew (latchMeets_departed hq), ?_⟩,
      fun z hgo => exec_mlutgLatchComplete_next hr hop hgo⟩
    intro m0 r hgone hsort hready ms
    have hfull : LatchFull s wid w word us m0 r := ⟨hgone, hsort, hready⟩
    refine ⟨fun m hm => exec_mlutgLatchComplete_first hr hop hnew (latchMeets_mismatch hfull hm), fun hm => ⟨fun code detail lanes u hf => ?_, ?_⟩⟩
    · exact exec_mlutgLatchComplete_first hr hop hnew ((latchMeets_match hfull hm).trans (latchRun_fault hop hf))
    · intro d hd
      have hbegin : latchMeets s wid w x e g word us = latchBegin s (m0 :: r) d := (latchMeets_match hfull hm).trans (latchRun_fetched hop hd)
      exact ⟨fun t hown ht => exec_mlutgLatchComplete_first hr hop hnew (hbegin.trans (latchBegin_ok hown ht)),
        fun m hfind => exec_mlutgLatchComplete_first hr hop hnew (hbegin.trans (latchBegin_own hfind))⟩
  · intro s wid w x e dTid d sTid src ct p a b hr hop tile hf block code free out flags u hu
    have hblock : xposeSource d src p tile = block := xposeSource_eq d src p tile
    have hcode : xposeCoded d src p tile = code := by
      funext z
      rw [xposeCoded, hblock]
    have hout : xposeOut s e d src p tile = out := by
      rw [xposeOut, hcode]
    have hexec := exec_mxpqExecute_at hr hop hf (hout ▸ hu)
    rw [hblock, hcode] at hexec
    exact hexec
  · intro s wid w c x y o hw hx hy ht hfind st size lost writes
    have h : EncoderRuns s wid w c x y o := ⟨hw, hx, hy, ht, hfind⟩
    refine ⟨fun ho q hq => ⟨?_, fun hhere hs hn hp => ?_⟩, fun q ho hq => (exec_encoderTileWrite_publish h ho).trans (encoderPublish_overflow hq),
      fun q ho hq hsmall hout => ⟨fun hp => ?_, fun hp => ?_, fun hp => ?_⟩⟩
    · rintro r a rfl
      exact ⟨fun hu => (exec_encoderTileWrite_append h ho).trans (encoderAppend_unreachable hq hu),
        fun hu hask hf hlt => (exec_encoderTileWrite_append h ho).trans (encoderAppend_remote hq hu hask hf hlt)⟩
    · have hexec := (exec_encoderTileWrite_append h ho).trans (encoderAppend_here ⟨hq, hhere, hs, hn, hp⟩)
      exact ⟨fun hbad => hexec.trans (if_pos hbad), fun hok => hexec.trans (if_neg (by rw [hok]; exact Bool.false_ne_true))⟩
    · have hexec := (exec_encoderTileWrite_publish h ho).trans (encoderPublish_stream hq hsmall hout hp)
      exact ⟨fun code member hb => hexec.trans (encoderWrite_blocked hb), fun hb t ht => hexec.trans (encoderWrite_done hb ht)⟩
    · have hexec := (exec_encoderTileWrite_publish h ho).trans (encoderPublish_entry hq hsmall hout hp)
      refine ⟨fun code member hb => hexec.trans (encoderWrite_blocked hb), fun hb t ht => (hexec.trans (encoderWrite_done hb ht)).trans ?_⟩
      cases encoderOut t w <;> rfl
    · exact (exec_encoderTileWrite_publish h ho).trans (encoderPublish_close hq hsmall hout hp)

end Sys2Proof.Machine
end

/-! # Copies, SEND and writes through the window (R54, R236 to R242, R245, R289, R420, R423) -/

section
namespace Sys2Proof.Machine

open Sys2Proof.Laws

/-! ## The list of a copy (R241, R242) -/

section
variable {s : State} {wid : Nat} {w : Wave} {x : Context} {e0 e : EngineItem}

/-- A copy whose list is read keeps everything but its list. -/
theorem withList_rest (h : withList s wid w x e0 = .ok e) : ∃ m, e = { e0 with members := m } := by
  have read {r : Res (List Nat)} (hr : r.map (fun l => { e0 with members := some l }) = .ok e) : ∃ m, e = { e0 with members := m } := by
    cases r with
    | error z => cases hr
    | ok l => cases hr; exact ⟨some l, rfl⟩
  unfold withList at h
  split at h
  · exact read h
  · exact read h
  · exact read h
  · cases h; exact ⟨e0.members, rfl⟩

theorem withList_op (h : withList s wid w x e0 = .ok e) : e.op = e0.op := by
  obtain ⟨m, rfl⟩ := withList_rest h
  rfl

theorem withList_id (h : withList s wid w x e0 = .ok e) : e.id = e0.id := by
  obtain ⟨m, rfl⟩ := withList_rest h
  rfl

/-- The list that was read is the one that the copy goes on with. -/
theorem list_read {r : Res (List Nat)} (h : withList s wid w x e0 = .ok e)
    (hr : withList s wid w x e0 = r.map (fun l => { e0 with members := some l })) : r = .ok (e.members.getD []) := by
  rw [hr] at h
  cases r with
  | error z => cases h
  | ok l => cases h; rfl

theorem rowList_of_cpg {tid list n off : Nat} {t : Tensor} (h : withList s wid w x e0 = .ok e) (hop : e.op = .cpg tid t list n off)
    (hnew : e0.members = none) : rowList s wid w x t tid list n = .ok (e.members.getD []) :=
  list_read h (by simp only [withList, hnew, (withList_op h).symm.trans hop])

theorem rowList_of_cps {tid list n off : Nat} {t : Tensor} (h : withList s wid w x e0 = .ok e) (hop : e.op = .cps tid t list n off)
    (hnew : e0.members = none) : rowList s wid w x t tid list n = .ok (e.members.getD []) :=
  list_read h (by simp only [withList, hnew, (withList_op h).symm.trans hop])

theorem memberList_of_cpmc {src dst list units g : Nat} (h : withList s wid w x e0 = .ok e) (hop : e.op = .cpmc src dst list units g)
    (hnew : e0.members = none) : memberList s wid w x list = .ok (e.members.getD []) :=
  list_read h (by simp only [withList, hnew, (withList_op h).symm.trans hop])

/-! ## A turn of the copy engine (R236) -/

/-- The state with the list of a copy taken up. -/
def listTaken (s : State) (wid : Nat) (e : EngineItem) : State := modItem wid e.id (fun y => { y with members := e.members }) s

variable {op c : Nat}

theorem exec_copyUnit_moves {t : State} (hr : CopyRuns s wid op w c x e0) (hb : copyBody s wid w c x e0 = .ok t) :
    exec (.copyUnit wid op) s = .next (copyServedAt wid t) := by
  obtain ⟨hw, hx, hfind, hturn⟩ := hr
  have hx' : ctxRec s w = some (c, x) := hx
  rw [exec_copyUnit]
  simp only [execCopyUnit, hw, hfind, hx', hb, hturn, if_true]

theorem exec_copyUnit_fault {t : State} {code detail : Nat} {lanes unit : Option Nat} (hr : CopyRuns s wid op w c x e0)
    (hb : copyBody s wid w c x e0 = .error (.fault code detail lanes unit)) (ht : scramble s wid w c x e0 code = .ok t) :
    exec (.copyUnit wid op) s = .next (engineFail (copyServedAt wid t) wid e0 code detail (unit.getD (engineUnit wid e0.op code))) := by
  obtain ⟨hw, hx, hfind, hturn⟩ := hr
  have hx' : ctxRec s w = some (c, x) := hx
  rw [exec_copyUnit]
  simp only [execCopyUnit, hw, hfind, hx', hb, ht]

variable (hl : withList s wid w x e0 = .ok e)
include hl

theorem copyBody_tile {dTid sTid row col drow dcol : Nat} {d src : Tensor} {t : State} (hop : e.op = .cpt dTid d sTid src row col drow dcol)
    (hnarrow : fmtBits d.fmt < 8) (ht : copyTile (listTaken s wid e) wid w c x e d src row col drow dcol = .ok t) :
    copyBody s wid w c x e0 = .ok (copyDone wid e t) := by
  unfold copyBody
  rw [hl]
  dsimp only [bind, Except.bind]
  rw [hop]
  change (if fmtBits d.fmt < 8 then (copyTile (listTaken s wid e) wid w c x e d src row col drow dcol >>= _) else _) = _
  rw [if_pos hnarrow, ht]
  rfl

theorem copyBody_cast {src dst list units g : Nat} {t : State} (hop : e.op = .cpmc src dst list units g)
    (ht : castUnits wid w x e src dst (castMembers e) (min 128 (units - e.progress)) e.progress (listTaken s wid e) = .ok t) :
    let n := min 128 (units - e.progress)
    let sent := modItem wid e.id (fun e => { e with started := true, progress := e.progress + n, injected := decide (units ≤ e.progress + n) }) t
    copyBody s wid w c x e0 = .ok (if units ≤ e.progress + n then modWave sent wid (hazardFlag e) else sent) := by
  intro n sent
  unfold copyBody
  rw [hl]
  dsimp only [bind, Except.bind]
  rw [hop]
  change (castUnits wid w x e src dst (castMembers e) n e.progress (listTaken s wid e) >>= _) = _
  rw [ht]
  rfl

theorem copyBody_stream (hcast : ∀ src dst list units g, e.op ≠ .cpmc src dst list units g) (hsend : ∀ k cap src len tag, e.op ≠ .send k cap src len tag)
    (htile : ∀ dTid d sTid src row col drow dcol, e.op = .cpt dTid d sTid src row col drow dcol → 8 ≤ fmtBits d.fmt) :
    copyBody s wid w c x e0 = streamTurn (listTaken s wid e) wid w c x e := by
  unfold copyBody
  rw [hl]
  dsimp only [bind, Except.bind]
  cases hop : e.op with
  | cpmc src dst list units g => exact absurd hop (hcast _ _ _ _ _)
  | send k cap src len tag => exact absurd hop (hsend _ _ _ _ _)
  | cpt dTid d sTid src row col drow dcol => exact if_neg (Nat.not_lt.mpr (htile _ _ _ _ _ _ _ _ hop))
  | _ => rfl

omit hl

theorem streamTurn_word {z : CopyWord} {r : List CopyWord} {t : State} (hwords : e.words = z :: r) :
    let i := Config.freeNat s.freeCtr % e.words.length
    let k := e.words.getD i z
    writeWord (spendFree 1 s) wid w c x e k.dst k.bytes = .ok t →
    streamTurn s wid w c x e = .ok (modItem wid e.id (fun e' => { e' with words := e.words.eraseIdx i }) t) := by
  intro i k ht
  have hik : i = Config.freeNat s.freeCtr % (z :: r).length ∧ k = (z :: r).getD i z := by
    constructor <;> simp only [i, k, hwords]
  obtain ⟨hi, hk⟩ := hik
  unfold streamTurn
  rw [hwords]
  change (writeWord (spendFree 1 s) wid w c x e ((z :: r).getD (Config.freeNat s.freeCtr % (z :: r).length) z).dst
    ((z :: r).getD (Config.freeNat s.freeCtr % (z :: r).length) z).bytes >>= _) = _
  rw [← hi, ← hk, ht]
  rfl

/-- With no word in hand, a turn closes the lines and then takes the next unit or ends. -/
theorem streamTurn_closes (hwords : e.words = []) : streamTurn s wid w c x e = (do
    let t ← closeLines wid w x e e.lines s
    let u := modItem wid e.id (fun e => { e with lines := [] }) t
    if e.progress < runsLength (copyStreams e).1 then beginUnit u wid w x { e with lines := [] }
      else .ok (copyDone wid { e with lines := [] } u)) := by
  unfold streamTurn
  split
  · next heq => rw [hwords] at heq; cases heq
  · rfl

theorem streamTurn_done {t : State} (hwords : e.words = []) (ht : closeLines wid w x e e.lines s = .ok t)
    (hdone : runsLength (copyStreams e).1 ≤ e.progress) :
    streamTurn s wid w c x e = .ok (copyDone wid { e with lines := [] } (modItem wid e.id (fun e => { e with lines := [] }) t)) := by
  rw [streamTurn_closes hwords]
  rw [ht]
  exact if_neg (Nat.not_lt.mpr hdone)

/-- The next unit of a copy that has one: it is read, and its data stands ready. -/
theorem streamTurn_unit {t : State} {bs : List (Byte × Bool)} (hwords : e.words = []) (ht : closeLines wid w x e e.lines s = .ok t)
    (hmore : e.progress < runsLength (copyStreams e).1) :
    let u := modItem wid e.id (fun e => { e with lines := [] }) t
    let n := unitLength e
    let dst := sliceRuns CopyDst.add e.progress n (copyStreams e).2
    readUnit u wid w x (dst.any (fun d => toRegisters d.1)) (sliceRuns (fun a k => a + k) e.progress n (copyStreams e).1) = .ok bs →
    let words := unitWords u w x { e with lines := [] } u.freeCtr dst bs
    streamTurn s wid w c x e = .ok (modItem wid e.id (fun e =>
      { e with started := true, progress := e.progress + n, words := words.1, lines := words.2 }) (spendFree n u)) := by
  intro u n dst hbs words
  rw [streamTurn_closes hwords]
  rw [ht]
  refine (if_pos hmore).trans ?_
  unfold beginUnit
  change (readUnit u wid w x (dst.any (fun d => toRegisters d.1)) (sliceRuns (fun a k => a + k) e.progress n (copyStreams e).1) >>= _) = _
  rw [hbs]
  rfl

/-! ## The end of a multicast copy (R423) -/

theorem exec_cpmcComplete_at {src dst list units g : Nat} {u : State} (hw : getWave s wid = some w) (hx : InContext s w c x)
    (hfind : List.find? (fun e : EngineItem => e.id == op && e.injected) w.engine = some e) (hop : e.op = .cpmc src dst list units g)
    (hdone : castPending s w.uid op = false) :
    let ms := e.members.getD []
    let failed := e.failed.eraseDups
    let t := failed.foldl (fun s i => modWave s wid (asyncError 0x18 (ms.getD i 0))) s
    let words := (List.range (ceilDiv ms.length 64)).flatMap (fun k => bytesOfNat 8 (statusWord failed k))
    engineWriteAll t wid w x e (roundUp (list + 2 + 2 * ms.length) 8) (cleanBytes words) = .ok u →
    exec (.cpmcComplete wid op) s = .next (finishItem wid op u) := by
  intro ms failed t words hu
  have hx' : ctxRec s w = some (c, x) := hx
  rw [exec_cpmcComplete]
  simp only [ms, failed, t, words] at hu
  simp only [execCpmcComplete, hw, hfind, hx', hop, hdone, Bool.false_eq_true, if_false, hu]

end

/-! ## SEND (R245, R420) -/

/-- A SEND that is to be injected: it is at the front of its capability, and its allowance has room. -/
structure SendRuns (s : State) (wid op : Nat) (w : Wave) (c : Nat) (x : Context) (e : EngineItem) (k : Nat) (cap : Capability) (src len tag : Nat) :
    Prop where
  wave : getWave s wid = some w
  context : InContext s w c x
  live : launchLive s w = true
  ready : itemReady s w e = true
  item : List.find? (fun e : EngineItem => e.id == op && !e.injected) w.engine = some e
  isSend : e.op = .send k cap src len tag
  first : sendBehind w e k = false
  room : Cells.get 0 x.inflight k + len ≤ cap.allowance

section
variable {s : State} {wid op : Nat} {w : Wave} {c : Nat} {x : Context} {e : EngineItem} {k : Nat} {cap : Capability} {src len tag : Nat}
  (h : SendRuns s wid op w c x e k cap src len tag)
include h

theorem SendRuns.id_eq : e.id = op := by
  have hp := List.find?_some h.item
  rw [Bool.and_eq_true, beq_iff_eq] at hp
  exact hp.1

theorem exec_sendInject_of_body {t : State} (hb : sendBody s w c x e k cap src len tag wid = .ok t) :
    exec (.sendInject wid op) s = .next t := by
  obtain ⟨hw, hx, hlive, hready, hfind, hop, hfirst, hroom⟩ := h
  have hx' : ctxRec s w = some (c, x) := hx
  rw [exec_sendInject]
  simp only [execSendInject, hw, hfind, hx', hop, hlive, hready, Bool.and_self, if_true, hb]
  rfl

theorem exec_sendInject_unreachable (hu : s.fabric.unreachable.contains cap.pkg = true) :
    exec (.sendInject wid op) s = .next (modWave (finishItem wid op s) wid (asyncError 0x0C cap.pkg)) := by
  refine exec_sendInject_of_body h ?_
  rw [← h.id_eq]
  unfold sendBody
  rw [h.first, decide_eq_true h.room]
  exact if_pos hu

/-- What SEND puts into its packet: the bytes that it read, or free ones where a write met them. -/
def sendData (s : State) (e : EngineItem) (len : Nat) (bs : List (Byte × Bool)) : List Byte :=
  if e.hazard = 0 then bs.map (fun b => b.1) else (List.range len).map (fun i => Config.freeByte (s.freeCtr + i))

/-- The packet of a SEND. -/
def sendDraft (s : State) (e : EngineItem) (cap : Capability) (len tag : Nat) (bs : List (Byte × Bool)) : Draft :=
  { kind := 0x0B, dest := cap.pkg, job := cap.job, addr := tag, ordered := false, multicast := false,
    poisoned := bs.any (fun b => b.2) && e.hazard == 0, plane := cap.ring % 8, ring := cap.ring,
    seq := Cells.get 0 s.fabric.seqOut (cap.pkg * 65536 + cap.ring), payload := sendData s e len bs }

/-- The number that the next message of the pair of `cap` takes. -/
def nextNumber (s : State) (cap : Capability) : Nat := (Cells.get 0 s.fabric.seqOut (cap.pkg * 65536 + cap.ring) + 1) % 65536

/-- The bytes of a message are counted in flight, and its number is taken. -/
def sendCounted (s : State) (c k len : Nat) (cap : Capability) : State :=
  modFabric (modCtx (spendFree len s) c (fun x => { x with inflight := Cells.set 0 x.inflight k (Cells.get 0 x.inflight k + len) }))
    (fun f => { f with seqOut := Cells.set 0 f.seqOut (cap.pkg * 65536 + cap.ring) (nextNumber s cap) })

theorem exec_sendInject_sends {bs : List (Byte × Bool)} (hu : s.fabric.unreachable.contains cap.pkg = false)
    (hout : messagesOut s cap.pkg cap.ring < 1024) (hbs : copyBytes s wid w x src len = .ok bs) :
    exec (.sendInject wid op) s = .next (modItem wid e.id (fun e => { e with started := true, injected := true })
      (sendPacket (sendCounted s c k len cap) (sendDraft s e cap len tag bs) (.message w.uid e.id c k))) := by
  refine exec_sendInject_of_body h ?_
  unfold sendBody
  rw [h.first, decide_eq_true h.room]
  refine (if_neg (by rw [hu]; exact Bool.false_ne_true)).trans ?_
  rw [decide_eq_true hout, hbs]
  have hdata : (if e.hazard ≠ 0 then (List.range len).map (fun i => Config.freeByte (s.freeCtr + i)) else bs.map (fun b => b.1))
      = sendData s e len bs := ite_not _ _ _
  change Except.ok (modItem wid e.id _ (sendPacket (sendCounted s c k len cap) { sendDraft s e cap len tag bs with
    payload := if e.hazard ≠ 0 then (List.range len).map (fun i => Config.freeByte (s.freeCtr + i)) else bs.map (fun b => b.1) } _)) = _
  rw [hdata]
  rfl

end

theorem seqOut_sendCounted (s : State) (c k len : Nat) (cap : Capability) :
    Cells.get 0 (sendCounted s c k len cap).fabric.seqOut (cap.pkg * 65536 + cap.ring) = nextNumber s cap :=
  Cells.get_set_same 0 (nextNumber s cap) s.fabric.seqOut (cap.pkg * 65536 + cap.ring)

theorem getCtx_of_inContext {s : State} {w : Wave} {c : Nat} {x : Context} (h : InContext s w c x) : getCtx s c = some x := by
  have hx : ctxRec s w = some (c, x) := h
  unfold ctxRec at hx
  cases hc : ctxOf s w with
  | none => rw [hc] at hx; cases hx
  | some d =>
    rw [hc] at hx
    obtain ⟨y, hy, hyx⟩ := Option.map_eq_some_iff.mp hx
    cases hyx
    exact hy

theorem inflight_sendCounted {s : State} {c k len : Nat} {cap : Capability} {x : Context} (hx : getCtx s c = some x) :
    ∃ y, getCtx (sendCounted s c k len cap) c = some y ∧ Cells.get 0 y.inflight k = Cells.get 0 x.inflight k + len := by
  refine ⟨{ x with inflight := Cells.set 0 x.inflight k (Cells.get 0 x.inflight k + len) }, ?_,
    Cells.get_set_same 0 (Cells.get 0 x.inflight k + len) x.inflight k⟩
  change Tbl.find? (Tbl.modify s.contexts c _) c = _
  rw [Tbl.find?_modify_same, show Tbl.find? s.contexts c = some x from hx]
  rfl

/-- The packet of a SEND in the table of what is unacknowledged. -/
theorem sent_of_sendPacket (s : State) (d : Draft) (p : SentFor) (hm : memoryKind d.kind = false) :
    ∃ r, Tbl.find? (sendPacket s d p).fabric.sent s.fabric.nextId = some r ∧ r.pkt.kind = d.kind ∧ r.pkt.dest = d.dest ∧ r.pkt.tag = d.ring
      ∧ r.pkt.seq = d.seq ∧ r.pkt.payload = d.payload := by
  refine ⟨_, Tbl.find?_put_same _ _ _, rfl, rfl, ?_, rfl, rfl⟩
  simp only [hm, Bool.false_eq_true, if_false]

/-! ## Writes through the window (R54) -/

section
variable {s : State} {i : Nat} {z : WindowWrite} (hz : s.windowWrites[i]? = some z)
  (hfirst : (s.windowWrites.take i).any (fun y => y.uid == z.uid && y.target == z.target && y.reg == z.reg) = false)
include hz hfirst

theorem exec_windowWriteAccept_refused (hv : windowTarget s z = none) : exec (.windowWriteAccept i) s
    = .next (windowSettle (recordAsync { s with windowWrites := s.windowWrites.eraseIdx i } z.uid 0x0B s.pkg) z) := by
  rw [exec_windowWriteAccept]
  simp only [execWindowWriteAccept, hz, hfirst, hv, Bool.false_eq_true, if_false]

theorem exec_windowWriteAccept_at {v : Wave} (hv : windowTarget s z = some v) (hclear : v.ctl ≠ .clearing)
    (hfull : ∀ l, l < 96 → vIsEmpty v z.reg l = false) : exec (.windowWriteAccept i) s
      = .next (windowSettle (modWave { s with windowWrites := s.windowWrites.eraseIdx i } z.target (setRegister z.reg 0 z.words)) z) := by
  have hany : (List.range 96).any (fun l => vIsEmpty v z.reg l) = false :=
    List.any_eq_false.mpr (fun l hl => by rw [hfull l (List.mem_range.mp hl)]; exact Bool.false_ne_true)
  rw [exec_windowWriteAccept]
  simp only [execWindowWriteAccept, hz, hfirst, hv, beq_false_of_ne hclear, hany, Bool.or_self, Bool.false_eq_true, if_false]

end

/-- Settles O39: a turn of the copy engine by what its body comes to, and SEND, CPMC and the window each by its equation. -/
theorem copyAndSendExecution : Obligations.CopyAndSendExecution := by
  unfold Obligations.CopyAndSendExecution
  constructor
  · intro s wid op w c x e0 e went taken total
    refine ⟨fun hr hl => ⟨fun src dst len wb g hop => ?_, fun tid t list n off hop => ?_, fun tid t list n off hop => ?_,
      fun dTid d sTid src row col drow dcol hop => ?_, ?_, fun hcast hsend htile => ?_⟩,
      fun hr code detail lanes unit t hb ht => exec_copyUnit_fault hr hb ht, ?_⟩
    · rw [copyStreams, hop]
    · exact ⟨rowList_of_cpg hl hop, by rw [copyStreams, hop]⟩
    · exact ⟨rowList_of_cps hl hop, by rw [copyStreams, hop]⟩
    · refine ⟨fun hwide => ?_, fun hnarrow t ht => exec_copyUnit_moves hr (copyBody_tile hl hop hnarrow ht)⟩
      rw [copyStreams, hop]
      exact if_neg (Nat.not_lt.mpr hwide)
    · intro src dst list units g hop n
      exact ⟨memberList_of_cpmc hl hop, fun t ht => exec_copyUnit_moves hr (copyBody_cast hl hop ht)⟩
    · have hbody : copyBody s wid w c x e0 = streamTurn taken wid w c x e := copyBody_stream hl hcast hsend htile
      constructor
      · intro z r t hwords i k ht
        exact exec_copyUnit_moves hr (hbody.trans (streamTurn_word hwords ht))
      · intro t hwords ht e' u
        refine ⟨fun hdone => exec_copyUnit_moves hr (hbody.trans (streamTurn_done hwords ht hdone)), ?_⟩
        intro hmore n dst src bs hbs words
        exact exec_copyUnit_moves hr (hbody.trans (streamTurn_unit hwords ht hmore hbs))
    · intro src dst list units g u hw hx hfind hop hdone ms failed t words hu
      exact exec_cpmcComplete_at hw hx hfind hop hdone hu
  · intro s wid op i w c x e
    constructor
    · intro k cap src len tag hw hx hlive hready hfind hop hfirst hroom key n
      have h : SendRuns s wid op w c x e k cap src len tag := ⟨hw, hx, hlive, hready, hfind, hop, hfirst, hroom⟩
      refine ⟨fun hu => exec_sendInject_unreachable h hu, fun bs hu hout hbs => ?_⟩
      exact ⟨_, exec_sendInject_sends h hu hout hbs, seqOut_sendCounted s c k len cap, inflight_sendCounted (cap := cap) (getCtx_of_inContext hx),
        sent_of_sendPacket (sendCounted s c k len cap) (sendDraft s e cap len tag bs) _ rfl⟩
    · intro z hz hfirst rest
      exact ⟨exec_windowWriteAccept_refused hz hfirst, fun v hv hclear hfull => exec_windowWriteAccept_at hz hfirst hv hclear hfull⟩

end Sys2Proof.Machine
end

/-! # The command processor takes launches (R361 to R365, R400, R465, R504) -/

section
namespace Sys2Proof.Machine

open Sys2Proof.Laws

/-! ## What a write of device memory changes -/

/-- A line settles in the slices, the tags and the check values alone. -/
theorem settleLine_rest (s : State) (cls line lo hi : Nat) (poison : Bool) :
    ∃ ks ts cs, settleLine s cls line lo hi poison = { s with clusters := ks, tags := ts, checks := cs } := by
  have holders (f : Nat × L2Line → L2Line) : ∀ (hs : List (Nat × L2Line)) (t : State),
      ∃ ks, hs.foldl (fun t h => setL2 t h.1 line (f h)) t = { t with clusters := ks } := by
    intro hs
    induction hs with
    | nil => exact fun t => ⟨t.clusters, rfl⟩
    | cons h hs ih => intro t; obtain ⟨ks, hk⟩ := ih (setL2 t h.1 line (f h)); exact ⟨ks, hk⟩
  unfold settleLine
  split
  · obtain ⟨ks, h⟩ := holders _ (l2Holders s line) (retag (setChecks s line 15 (fun _ => 0)) cls line true poison)
    exact ⟨ks, _, _, h⟩
  · split <;> exact ⟨_, _, _, rfl⟩

theorem settleLines_rest (cls pa n : Nat) (poison : Bool) : ∀ (k line : Nat) (s : State),
    ∃ ks ts cs, settleLines s cls pa n poison k line = { s with clusters := ks, tags := ts, checks := cs }
  | 0, _, s => ⟨s.clusters, s.tags, s.checks, rfl⟩
  | k + 1, line, s => by
    rw [settleLines]
    obtain ⟨ks, ts, cs, h⟩ := settleLine_rest s cls line (max pa (128 * line) - 128 * line) (min (pa + n) (128 * line + 128) - 128 * line) poison
    rw [h]
    obtain ⟨ks', ts', cs', h'⟩ := settleLines_rest cls pa n poison k (line + 1) { s with clusters := ks, tags := ts, checks := cs }
    exact ⟨ks', ts', cs', h'⟩

/-- A write of device memory changes the slices, memory with its tags and check values, and the releases alone. -/
theorem writePhysCls_rest (s : State) (cls pa : Nat) (bs : List Byte) (poison : Bool) : ∃ ks ms ts cs rs,
    writePhysCls s cls pa bs poison = { s with clusters := ks, mem := ms, tags := ts, checks := cs, releases := rs } := by
  unfold writePhysCls
  dsimp only
  split
  · exact ⟨s.clusters, s.mem, s.tags, s.checks, s.releases, rfl⟩
  · have he : ∃ rs, endReleases s pa bs.length = { s with releases := rs } := by
      unfold endReleases
      split
      · exact ⟨s.releases, rfl⟩
      · exact ⟨_, rfl⟩
    obtain ⟨rs, he⟩ := he
    obtain ⟨ks, ts, cs, h⟩ := settleLines_rest cls pa bs.length poison ((pa + bs.length - 1) / 128 + 1 - pa / 128) (pa / 128)
      { endReleases s pa bs.length with mem := cellsWrite memDefault s.mem pa bs }
    exact ⟨ks, _, ts, cs, rs, by rw [h, he]⟩

/-! ## What does not stall -/

@[simp] theorem writePhys_stalled (s : State) (pa : Nat) (bs : List Byte) : (writePhys s pa bs).stalled = s.stalled := by
  obtain ⟨_, _, _, _, _, h⟩ := writePhysCls_rest s 1 pa bs false
  rw [writePhys, h]

@[simp] theorem countEvent_stalled (s : State) (event unit die n : Nat) : (countEvent s event unit die n).stalled = s.stalled := by
  unfold countEvent
  split <;> rfl

@[simp] theorem fenceEffect_stalled (s : State) (unit die : Nat) : (fenceEffect s unit die).stalled = s.stalled := by
  unfold fenceEffect
  dsimp only
  repeat' split
  all_goals rfl

@[simp] theorem blameUnit_stalled (s : State) (unit die : Nat) : (blameUnit s unit die).stalled = s.stalled := by
  unfold blameUnit
  extract_lets key n t
  split
  · exact fenceEffect_stalled t unit die
  · rfl

@[simp] theorem recordTakesEffect_stalled (s : State) (r : FaultRecord) : (recordTakesEffect s r).stalled = s.stalled := by
  unfold recordTakesEffect
  repeat' split
  all_goals rfl

@[simp] theorem putFault_stalled (s : State) (c : Nat) (x : Context) (r : FaultRecord) : (putFault s c x r).stalled = s.stalled := by
  unfold putFault
  rw [recordTakesEffect_stalled]
  split
  · rw [blameUnit_stalled, countEvent_stalled]
    exact writePhys_stalled _ _ _
  · rw [countEvent_stalled]
    exact writePhys_stalled _ _ _

@[simp] theorem writeFault_stalled (s : State) (c : Nat) (r : FaultRecord) : (writeFault s c r).stalled = s.stalled := by
  unfold writeFault
  repeat' split
  · rfl
  · exact putFault_stalled _ _ _ _
  · rfl

@[simp] theorem advanceHead_stalled (s : State) (l : Launch) : (advanceHead s l).stalled = s.stalled := by
  unfold advanceHead
  split <;> rfl

@[simp] theorem refuseLaunch_stalled (s : State) (lid : Nat) (l : Launch) (code detail : Nat) :
    (refuseLaunch s lid l code detail).stalled = s.stalled := by
  unfold refuseLaunch launchRecord
  rw [modLaunch_stalled, advanceHead_stalled, writeFault_stalled]

@[simp] theorem startLaunch_stalled (s : State) (lid : Nat) (l : Launch) (cs : List Nat) : (startLaunch s lid l cs).stalled = s.stalled := by
  unfold startLaunch
  rw [modLaunch_stalled]
  refine (advanceHead_stalled _ _).trans ?_
  split <;> rfl

/-! ## Taking an entry (R361, R363) -/

/-- The command processor looks at the head of queue `n`. -/
structure LooksAt (s : State) (n : Nat) : Prop where
  served : served s = true
  next : nextQueue s = some n
  idle : goesOn s n = none

/-- The launch of the entry at the head of queue `n`. -/
def headLaunch (s : State) (n : Nat) : Launch :=
  newLaunch n (getQueue s n) ((getQueue s n).base + 128 * (getQueue s n).head)
    (entryOf (readPhys s ((getQueue s n).base + 128 * (getQueue s n).head) 128))

/-- The state with the launch of the head of queue `n` entered. -/
def headTaken (s : State) (n : Nat) : State :=
  { (freshUid s).2 with launches := Tbl.put (freshUid s).2.launches (freshUid s).1 (headLaunch s n) }

/-- What the checks of R363 find at the head of queue `n`. -/
def headBad (s : State) (n : Nat) : Option (Nat × Nat) :=
  entryBad (readPhys s ((getQueue s n).base + 128 * (getQueue s n).head) 128) (headLaunch s n).e

section
variable {s : State} {n : Nat} (h : LooksAt s n)
include h

theorem exec_launchTake_bad {code off : Nat} (hb : headBad s n = some (code, off)) :
    exec .launchTake s = .next (refuseLaunch (headTaken s n) (freshUid s).1 (headLaunch s n) code off) := by
  obtain ⟨h1, h2, h3⟩ := h
  have hb' : entryBad (readPhys s ((getQueue s n).base + 128 * (getQueue s n).head) 128)
    (entryOf (readPhys s ((getQueue s n).base + 128 * (getQueue s n).head) 128)) = some (code, off) := hb
  rw [exec_launchTake]
  simp only [execLaunchTake, h1, h2, h3, if_true, Option.isSome_none, Bool.false_eq_true, if_false, hb']
  rfl

theorem exec_launchTake_good (hb : headBad s n = none) :
    exec .launchTake s = keepOr (headTaken s n) (advanceLaunch (headTaken s n) (freshUid s).1 (headLaunch s n)) := by
  obtain ⟨h1, h2, h3⟩ := h
  have hb' : entryBad (readPhys s ((getQueue s n).base + 128 * (getQueue s n).head) 128)
    (entryOf (readPhys s ((getQueue s n).base + 128 * (getQueue s n).head) 128)) = none := hb
  rw [exec_launchTake]
  simp only [execLaunchTake, h1, h2, h3, if_true, Option.isSome_none, Bool.false_eq_true, if_false, hb']
  rfl

end

theorem keepOr_next (s t : State) : keepOr s (.next t) = .next (if t.stalled then s else t) := by
  rw [keepOr]
  split <;> rfl

theorem keepOr_of_quiet {s t : State} (h : t.stalled = false) : keepOr s (.next t) = .next t := by
  rw [keepOr_next, h]
  rfl

theorem keepOr_stall (s t : State) : keepOr s (stall t) = .next s := rfl

/-! ## The way of a launch (R361, R365) -/

section
variable {s : State} {lid : Nat} {l : Launch} {x : Context}

/-- A launch with no event to wait for is brought to its start. -/
theorem advanceLaunch_direct (hx : getCtx s l.ctx = some x) (hr : behindRollback s lid l = false) (hw : ¬(l.phase = 0 ∧ l.e.waitAddr ≠ 0)) :
    advanceLaunch s lid l = afterEvent s lid l x := by
  simp only [advanceLaunch, hx, hr, hw, Bool.false_eq_true, if_false]

/-- The event of a waiting launch is read. -/
theorem advanceLaunch_event (hx : getCtx s l.ctx = some x) (hr : behindRollback s lid l = false) (hp : l.phase = 0) (hw : l.e.waitAddr ≠ 0)
    {bs : List Byte} (hbs : deviceRead s x l.e.waitAddr 8 = .ok bs) :
    advanceLaunch s lid l = if 2 ^ 63 ≤ natOfBytes bs then .next (cancelLaunch s lid l)
      else if natOfBytes bs < l.e.waitValue then stall s
      else afterEvent { s with launches := Tbl.put s.launches lid { l with phase := 1 } } lid { l with phase := 1 } x := by
  simp only [advanceLaunch, hx, hr, hp, Bool.false_eq_true, if_false, ne_eq, hw, not_false_eq_true, and_self, if_true, hbs]

/-- The launch with its cores chosen and fitting. -/
def fitted (l : Launch) : Launch := { l with phase := 2 }

/-- The state with the launch fitted. -/
def withFitted (s : State) (lid : Nat) (l : Launch) : State := { s with launches := Tbl.put s.launches lid (fitted l) }

theorem afterEvent_noCores (hc : eligibleCores s l = []) : afterEvent s lid l x = stall s := by
  simp only [afterEvent, hc, List.isEmpty_nil, if_true]

theorem afterEvent_unfit {off : Nat} (hc : eligibleCores s l ≠ []) (hf : fitBad s l (eligibleCores s l) = some off) :
    afterEvent s lid l x = .next (refuseLaunch s lid l 0x12 off) := by
  simp only [afterEvent, List.isEmpty_eq_false_iff.mpr hc, Bool.false_eq_true, if_false, hf]

theorem afterEvent_fits (hc : eligibleCores s l ≠ []) (hf : fitBad s l (eligibleCores s l) = none) (hi : l.e.install = 0) :
    afterEvent s lid l x = readyToStart (withFitted s lid l) lid (fitted l) x := by
  simp only [afterEvent, List.isEmpty_eq_false_iff.mpr hc, Bool.false_eq_true, if_false, hf, hi, true_or, if_true]
  rfl

theorem readyToStart_plain (hr : flagRestartable l = false) : readyToStart s lid l x = .next (startLaunch s lid l (eligibleCores s l)) := by
  simp only [readyToStart, hr, Bool.false_and, Bool.false_eq_true, if_false]

theorem readyToStart_armed (hr : flagRestartable l = true) (ha : x.armed ≠ none) : readyToStart s lid l x = stall s := by
  simp only [readyToStart, hr, Option.isSome_iff_ne_none.mpr ha, Bool.and_self, if_true]

theorem readyToStart_spent (hr : flagRestartable l = true) (ha : x.armed = none) (hg : x.generation = 65535) :
    readyToStart s lid l x = .next (refuseLaunch s lid l 0x12 23) := by
  simp only [readyToStart, hr, ha, hg, Option.isSome_none, Bool.and_false, decide_true, Bool.and_self, Bool.false_eq_true, if_false, if_true]

theorem readyToStart_arms (hr : flagRestartable l = true) (ha : x.armed = none) (hg : x.generation ≠ 65535) :
    readyToStart s lid l x = .next (startLaunch s lid l (eligibleCores s l)) := by
  simp only [readyToStart, hr, ha, hg, Option.isSome_none, Bool.and_false, decide_false, Bool.false_eq_true, if_false]

end

/-- The start of a launch that fits: its queue's head moves, its cores are those of `t`, and its teams wait. -/
def startedFrom (t : State) (lid : Nat) (l : Launch) (v : State) : State :=
  modLaunch (freshUid (advanceHead v (fitted l))).2 lid (fun y => { y with
    state := .running, eligible := eligibleCores t l, waitingTeams := List.range y.e.teams, savedTeams := [], retired := 0, started := false,
    elapsed := 0, hbLeft := y.e.hbWindow, order := (freshUid (advanceHead v (fitted l))).1, requeued := false, cursor := 0, cpWait := none })

section
variable {t : State} {lid : Nat} {l : Launch} {x : Context} (ht : t.stalled = false)
include ht

theorem keepOr_afterEvent_unfit {off : Nat} (hc : eligibleCores t l ≠ []) (hf : fitBad t l (eligibleCores t l) = some off) :
    keepOr t (afterEvent t lid l x) = .next (refuseLaunch t lid l 0x12 off) := by
  rw [afterEvent_unfit hc hf]
  exact keepOr_of_quiet ((refuseLaunch_stalled _ _ _ _ _).trans ht)

variable (hc : eligibleCores t l ≠ []) (hf : fitBad t l (eligibleCores t l) = none) (hi : l.e.install = 0)
include hc hf hi

theorem keepOr_afterEvent_plain (hr : flagRestartable l = false) :
    keepOr t (afterEvent t lid l x) = .next (startedFrom t lid l (withFitted t lid l)) := by
  have hr' : flagRestartable (fitted l) = false := hr
  rw [afterEvent_fits hc hf hi, readyToStart_plain hr', keepOr_of_quiet ((startLaunch_stalled (withFitted t lid l) _ _ _).trans ht), startLaunch, hr']
  rfl

omit ht in
theorem keepOr_afterEvent_armed (hr : flagRestartable l = true) (ha : x.armed ≠ none) : keepOr t (afterEvent t lid l x) = .next t := by
  have hr' : flagRestartable (fitted l) = true := hr
  rw [afterEvent_fits hc hf hi, readyToStart_armed hr' ha, keepOr_stall]

theorem keepOr_afterEvent_spent (hr : flagRestartable l = true) (ha : x.armed = none) (hg : x.generation = 65535) :
    keepOr t (afterEvent t lid l x) = .next (refuseLaunch (withFitted t lid l) lid (fitted l) 0x12 23) := by
  have hr' : flagRestartable (fitted l) = true := hr
  rw [afterEvent_fits hc hf hi, readyToStart_spent hr' ha hg]
  exact keepOr_of_quiet ((refuseLaunch_stalled _ _ _ _ _).trans ht)

theorem keepOr_afterEvent_arms (hr : flagRestartable l = true) (ha : x.armed = none) (hg : x.generation ≠ 65535) :
    keepOr t (afterEvent t lid l x) = .next (startedFrom t lid l
      (modCtx (withFitted t lid l) l.ctx (fun x => { x with generation := x.generation + 1, armed := some lid }))) := by
  have hr' : flagRestartable (fitted l) = true := hr
  rw [afterEvent_fits hc hf hi, readyToStart_arms hr' ha hg, keepOr_of_quiet ((startLaunch_stalled (withFitted t lid l) _ _ _).trans ht), startLaunch, hr']
  rfl

end

/-! ## The event of a launch, and an access that is repeated (R365, R504) -/

section
variable {s : State} {lid : Nat} {l : Launch} (hl : getLaunch s lid = some l)
include hl

theorem exec_waitEventSatisfied_turn (hs : l.state = .waiting) (hc : l.cpWait = none) (hserved : served s = true)
    (hq : nextQueue s = some l.queue) (hg : goesOn s l.queue = some lid) :
    exec (.waitEventSatisfied lid) s = advanceLaunch s lid l := by
  rw [exec_waitEventSatisfied]
  simp only [execWaitEventSatisfied, hl, hs, hc, hserved, hq, hg, and_self, if_true]

/-- A launch that cannot go on changes nothing, whichever queue is served. -/
theorem exec_waitEventSatisfied_waits (hadv : advanceLaunch s lid l = stall s) : exec (.waitEventSatisfied lid) s = stall s := by
  rw [exec_waitEventSatisfied]
  simp only [execWaitEventSatisfied, hl, hadv, ite_self]

variable {x : Context} (hx : getCtx s l.ctx = some x) {addr entry : Nat} {write : Bool} (hw : l.cpWait = some (addr, write, entry))
include hx hw

theorem exec_cpMemoryRetry_absent {k : Nat} (hk : translate s x (if write then .atomic else .read) (addr % 2 ^ 56) = .absent k) :
    exec (.cpMemoryRetry lid) s = stall s := by
  rw [exec_cpMemoryRetry]
  simp only [execCpMemoryRetry, hl, hx, hw, hk]

theorem exec_cpMemoryRetry_valid {p : Place} (hp : translate s x (if write then .atomic else .read) (addr % 2 ^ 56) = .to p) :
    exec (.cpMemoryRetry lid) s =
      let again : Launch := { l with cpWait := none }
      let t : State := { s with launches := Tbl.put s.launches lid again }
      if write then keepOr t (exec (.launchComplete lid) t)
      else if nextQueue t = some l.queue then keepOr t (advanceLaunch t lid again) else .next t := by
  rw [exec_cpMemoryRetry]
  simp only [execCpMemoryRetry, hl, hx, hw, hp, exec_launchComplete]

end

/-- Settles O40: what the head of a queue and a launch on its way come to, through the equations of `afterEvent` and `readyToStart`. -/
theorem launchTaking : Obligations.LaunchTaking := by
  unfold Obligations.LaunchTaking
  constructor
  · intro s n hs h1 h2 h3 q qentry bs e u l t refused
    have h : LooksAt s n := ⟨h1, h2, h3⟩
    have ht : (headTaken s n).stalled = false := hs
    refine ⟨fun code off hb => exec_launchTake_bad h hb, fun v hb hv => ?_, ?_⟩
    · rw [exec_launchTake_good h hb]
      exact (congrArg (keepOr _) hv).trans (keepOr_next _ _)
    · intro x hb hx hr hwait hinst cs ready v starts
      have hexec : exec .launchTake s = keepOr t (afterEvent t u.1 l x) :=
        (exec_launchTake_good h hb).trans (congrArg (keepOr t) (advanceLaunch_direct hx hr (fun hw => hw.2 hwait)))
      exact ⟨fun hc => hexec.trans (congrArg (keepOr t) (afterEvent_noCores hc)),
        fun hc off hf => hexec.trans (keepOr_afterEvent_unfit ht hc hf),
        fun hc hf => ⟨fun hp => hexec.trans (keepOr_afterEvent_plain ht hc hf hinst hp),
          fun hp ha => hexec.trans (keepOr_afterEvent_armed hc hf hinst hp ha),
          fun hp ha hg => hexec.trans (keepOr_afterEvent_spent ht hc hf hinst hp ha hg),
          fun hp ha hg => hexec.trans (keepOr_afterEvent_arms ht hc hf hinst hp ha hg)⟩⟩
  · intro s lid l x hs hl hx hr
    constructor
    · intro hst hc hserved hp hw bs hbs v
      have hadv := advanceLaunch_event hx hr hp hw hbs
      refine ⟨fun hlow hlt => exec_waitEventSatisfied_waits hl ?_, fun hq hg => ?_⟩
      · rw [hadv, if_neg (Nat.not_le.mpr hlow), if_pos hlt]
      · have hexec := (exec_waitEventSatisfied_turn hl hst hc hserved hq hg).trans hadv
        refine ⟨fun hhigh => hexec.trans (if_pos hhigh), fun hlow hle => ?_⟩
        intro past u hu
        exact (hexec.trans (if_neg (Nat.not_le.mpr hlow))).trans ((if_neg (Nat.not_lt.mpr hle)).trans hu)
    · intro addr write entry hw again t valid
      refine ⟨fun k hk => exec_cpMemoryRetry_absent hl hx hw hk, fun p u hp hwr hu => ?_, fun p hp hwr => ?_⟩
      · rw [exec_cpMemoryRetry_valid hl hx hw hp]
        exact (if_pos hwr).trans ((congrArg (keepOr t) hu).trans (keepOr_next _ _))
      · have hexec := (exec_cpMemoryRetry_valid hl hx hw hp).trans (if_neg (by rw [hwr]; exact Bool.false_ne_true))
        refine ⟨fun hq => hexec.trans (if_neg hq), fun u hq hu => ?_⟩
        exact hexec.trans ((if_pos hq).trans ((congrArg (keepOr t) hu).trans (keepOr_next _ _)))

end Sys2Proof.Machine
end

/-! # How a launch ends (R259, R335, R336, R365, R375, R464, R468, R470) -/

section
namespace Sys2Proof.Machine

open Sys2Proof.Laws

/-! ## Completion (R365) -/

/-- The state in which launch `lid` has reached state `st` for good: disarmed, its replays gone. -/
def launchEnded (s : State) (lid : Nat) (l : Launch) (st : LaunchState) : State :=
  modCtx (modLaunch (disarm s lid l) lid (fun y => { y with state := st, donePending := false, cpWait := none })) l.ctx
    (fun x => { x with replays := x.replays.filter (fun r => r.1 != l.qentry) })

section
variable {s : State} {lid : Nat} {l : Launch} {killed : Bool} {st : LaunchState}

theorem writeDone_none (hd : l.e.doneAddr = 0) : writeDone s lid l killed st = .next (launchEnded s lid l st) := by
  unfold writeDone
  cases getCtx s l.ctx with
  | none => rfl
  | some x => exact if_pos (.inl hd)

theorem writeDone_at {x : Context} {u : State} (hx : getCtx s l.ctx = some x)
    (hd : l.e.doneAddr ≠ 0 ∧ l.e.doneAddr < 2 ^ 56 ∧ l.e.doneAddr % 8 = 0)
    (hu : deviceAtomic (launchEnded s lid l st) x l.e.doneAddr (if killed then 3 else 1) (if killed then 2 ^ 63 else l.e.doneAdd) = .ok u) :
    writeDone s lid l killed st = .next u := by
  obtain ⟨hne, hlow, halign⟩ := hd
  have hno : ¬(l.e.doneAddr = 0 ∨ l.e.doneAddr / 2 ^ 56 ≠ 0 ∨ l.e.doneAddr % 8 ≠ 0) := by
    rw [Nat.div_eq_of_lt hlow]
    omega
  unfold launchEnded at hu
  simp only [writeDone, hx, hno, if_false, hu]

variable (hl : getLaunch s lid = some l) (hc : l.cpWait = none)
include hl hc

theorem exec_launchComplete_retired (hr : l.state = .running ∧ l.retired = l.e.teams ∧ l.ending = none) :
    exec (.launchComplete lid) s = writeDone s lid l false .complete := by
  obtain ⟨hst, hteams, hend⟩ := hr
  rw [exec_launchComplete]
  simp only [execLaunchComplete, hl, hc, hst, hteams, hend, Option.isSome_none, Bool.false_eq_true, if_false, and_self, if_true]

theorem exec_launchComplete_pending (hst : l.state = .refused ∨ l.state = .cancelled ∨ l.state = .killed) (hp : l.donePending = true) :
    exec (.launchComplete lid) s = writeDone s lid l true l.state := by
  rw [exec_launchComplete]
  obtain hst | hst | hst := hst <;>
    simp only [execLaunchComplete, hl, hc, hst, hp, Option.isSome_none, Bool.false_eq_true, if_false, if_true]

end

/-! ## The watchdog and a kill (R336, R375, R470) -/

section
variable {s : State} {lid : Nat} {l : Launch} (hl : getLaunch s lid = some l)
include hl

theorem exec_watchdogFire_at {reason : Nat} (hr : watchReason l = some reason) : exec (.watchdogFire lid) s
    = .next ((watchRecords s lid l reason).foldl (fun t r => writeFault t l.ctx r)
      (endLaunch s lid (if flagRestartable l && hardwareHeld s l lid && decide (l.rollbacks < 3) then .rollback none else .kill))) := by
  rw [exec_watchdogFire]
  simp only [execWatchdogFire, hl, hr]

theorem exec_launchKill_stops (hst : l.state = .running) (he : l.ending = some .kill) (hs : l.stopped = false) :
    exec (.launchKill lid) s = .next (stopLaunch s lid) := by
  rw [exec_launchKill]
  simp only [execLaunchKill, hl, hst, he, hs, and_self, if_true]

theorem exec_launchKill_ends (hst : l.state = .running) (he : l.ending = some .kill) (hs : l.stopped = true) (hq : launchStopped s lid l = true) :
    exec (.launchKill lid) s = .next (modLaunch (freeLaunch s lid l) lid (fun y =>
      { y with state := .killed, donePending := true, waitingTeams := [], savedTeams := [], ending := none, stopped := false })) := by
  rw [exec_launchKill]
  simp only [execLaunchKill, hl, hst, he, hs, hq, Bool.true_eq_false, and_false, and_self, if_true, if_false]

end

/-- The state with what the engines of a launch have not started cancelled (R336). -/
def unstartedGone (s : State) (lid : Nat) : State :=
  (placedTeams s lid).foldl (fun s k => (teamWaves s k).foldl (fun s p => cancelUnstarted s p.1) s) s

/-- A wave of the launch without its operand log; another as it is. -/
def logDropped (t : State) (lid : Nat) (w : Wave) : Wave :=
  match getTeam t w.team with
  | some z => if z.lid = lid then { w with log := [] } else w
  | none => w

theorem logDropped_team (t : State) (lid : Nat) (w : Wave) : (logDropped t lid w).team = w.team := by
  unfold logDropped
  split
  · split <;> rfl
  · rfl

/-- A stopped launch holds no operand log. -/
theorem stopLaunch_log {s : State} {lid : Nat} {p : Nat × Wave} (hp : p ∈ (stopLaunch s lid).waves) {y : Team}
    (hy : getTeam (stopLaunch s lid) p.2.team = some y) (hlid : y.lid = lid) : p.2.log = [] := by
  have hmem : p ∈ (unstartedGone s lid).waves.map (fun q => (q.1, logDropped (unstartedGone s lid) lid q.2)) := hp
  have hteam : getTeam (unstartedGone s lid) p.2.team = some y := hy
  obtain ⟨q, -, rfl⟩ := List.mem_map.mp hmem
  dsimp only at hteam ⊢
  rw [logDropped_team] at hteam
  rw [logDropped, hteam]
  dsimp only
  rw [if_pos hlid]

/-! ## A rollback (R464, R468) -/

theorem evictSome_goes (s : State) (hs : List (Nat × Nat × Nat)) : Goes (evictSome s hs) := by
  unfold evictSome
  split <;> exact ⟨_, rfl⟩

theorem evictLine_goes (s : State) (k : Nat) : Goes (evictLine s k) := evictSome_goes s (holdersOf s k)

section
variable {s : State} {lid : Nat} {l : Launch} {x : Context} {blamed : Option Nat} (hl : getLaunch s lid = some l)
  (hx : getCtx s l.ctx = some x) (he : l.ending = some (.rollback blamed)) (hst : l.state = .running)
include hl hx he hst

theorem exec_launchRollback_stops (hs : l.stopped = false) : exec (.launchRollback lid) s = .next (stopLaunch s lid) := by
  rw [exec_launchRollback]
  simp only [execLaunchRollback, hl, hx, he, hst, hs, and_self, if_true]

variable (hs : l.stopped = true) (hq : launchStopped s lid l = true) (hquiet : launchQuiet s lid = true)
include hs hq hquiet

theorem exec_launchRollback_evicts {k : Nat} (hk : snapshotHeld s x = some k) : exec (.launchRollback lid) s = evictLine s k := by
  rw [exec_launchRollback]
  simp only [execLaunchRollback, hl, hx, he, hst, hs, hq, hquiet, hk, Bool.true_eq_false, and_false, and_self, if_false, if_true]

theorem exec_launchRollback_restores (hk : snapshotHeld s x = none) : exec (.launchRollback lid) s
    = .next (modLaunch (disarm (freeLaunch (if x.armed = some lid then restorePages s x else s) lid l) lid l) lid (fun y =>
        { y with state := .waiting, phase := 1, installed := 0, requeued := true, ending := none, stopped := false,
                 rollbacks := y.rollbacks + 1, excluded := (match blamed with | some c => [c] | none => []) ++ y.excluded,
                 waitingTeams := [], savedTeams := [], eligible := [], retired := 0, started := false, elapsed := 0, hbLeft := 0,
                 cursor := 0 })) := by
  rw [exec_launchRollback]
  simp only [execLaunchRollback, hl, hx, he, hst, hs, hq, hquiet, hk, Bool.true_eq_false, and_false, and_self, if_false, if_true] <;> cases blamed <;> rfl

end

/-- Settles O41: completion, the watchdog, a kill and a rollback, each by its own equation. -/
theorem launchEnds : Obligations.LaunchEnds := by
  unfold Obligations.LaunchEnds
  constructor
  · intro s lid l hl ended retired written
    refine ⟨fun hc => ⟨fun hd => ⟨fun hr => ?_, fun hst hp => ?_⟩, fun x hx hd => ⟨fun hr u hu => ?_, fun hst hp u hu => ?_⟩⟩,
      fun reason hr => exec_watchdogFire_at hl hr, fun hst he => ⟨fun hs => ⟨exec_launchKill_stops hl hst he hs, ?_⟩,
        fun hs hq => exec_launchKill_ends hl hst he hs hq⟩⟩
    · exact (exec_launchComplete_retired hl hc hr).trans (writeDone_none hd)
    · exact (exec_launchComplete_pending hl hc hst hp).trans (writeDone_none hd)
    · exact (exec_launchComplete_retired hl hc hr).trans (writeDone_at hx hd hu)
    · exact (exec_launchComplete_pending hl hc hst hp).trans (writeDone_at hx hd hu)
    · exact fun p hp y hy hlid => stopLaunch_log hp hy hlid
  · intro s lid l x blamed hl hx he hst
    refine ⟨fun hs => exec_launchRollback_stops hl hx he hst hs, fun hs hq hquiet => ?_⟩
    intro restored
    refine ⟨fun hk => (exec_launchRollback_restores hl hx he hst hs hq hquiet hk).trans ?_,
      fun k hk => ⟨exec_launchRollback_evicts hl hx he hst hs hq hquiet hk, evictLine_goes s k⟩⟩
    cases blamed <;> rfl

end Sys2Proof.Machine
end

/-! # Queue tails, the memory window and the registers of the hub (R296, R358 to R360, R380, R475, R483, R485, R488) -/

section
namespace Sys2Proof.Machine

open Sys2Proof.Laws

/-! ## A queue's tail (R359, R360) -/

/-- A tail `v` moves queue `n` forward over entries that fit. -/
def TailFits (s : State) (n : Nat) (v : Dword) : Prop :=
  queueLive s n = true ∧ (getQueue s n).deviceFed = false ∧ v.toNat % 2 ^ 16 < 2 ^ (getQueue s n).log2
    ∧ (v.toNat % 2 ^ 16 + 2 ^ 16 - (getQueue s n).tail) % 2 ^ (getQueue s n).log2
      ≤ 2 ^ (getQueue s n).log2 - 1 - ((getQueue s n).tail + 2 ^ 16 - (getQueue s n).head) % 2 ^ (getQueue s n).log2

theorem exec_qtailWrite_posted {s : State} {n : Nat} {v : Dword} (hp : s.hub.posted ≠ []) : exec (.qtailWrite n v) s = stall s := by
  rw [exec_qtailWrite]
  simp only [execQtailWrite, List.isEmpty_eq_false_iff.mpr hp, Bool.not_false, if_true]

theorem exec_qtailWrite_free {s : State} {n : Nat} {v : Dword} (hp : s.hub.posted = []) :
    (TailFits s n v → exec (.qtailWrite n v) s = .next (modQueue s n (fun q => { q with tail := v.toNat % 2 ^ 16 })))
    ∧ (¬TailFits s n v → exec (.qtailWrite n v) s = .next (modHub s (fun h => { h with qerr := Nat.lor h.qerr (2 ^ (n % 64)) }))) := by
  have hfit : (queueLive s n && !(getQueue s n).deviceFed && decide (v.toNat % 2 ^ 16 < queueSize (getQueue s n))
      && decide (ringSpan (queueSize (getQueue s n)) (getQueue s n).tail (v.toNat % 2 ^ 16) ≤ queueSize (getQueue s n) - 1 - enqueued (getQueue s n))) = true
      ↔ TailFits s n v := by
    simp only [Bool.and_eq_true, Bool.not_eq_true', decide_eq_true_eq, and_assoc]
    rfl
  rw [exec_qtailWrite]
  unfold execQtailWrite
  simp only [hp, List.isEmpty_nil, Bool.not_true, Bool.false_eq_true, if_false]
  exact ⟨fun h => if_pos (hfit.mpr h), fun h => if_neg (fun hb => h (hfit.mp hb))⟩

/-! ## The memory window (R296, R360, R483) -/

section
variable {s : State} {off len : Nat} {bs : List Byte}

theorem exec_hostWindowAccess_read (h : off + len ≤ 2 ^ 36) : exec (.hostWindowAccess off none len) s = .next s := by
  rw [exec_hostWindowAccess]
  exact if_pos h

/-- A host write within one line of the window. -/
structure WindowWrites (s : State) (off len : Nat) (bs : List Byte) : Prop where
  length : bs.length = len
  some_byte : 0 < len
  inside : off + len ≤ 2 ^ 36
  line : (s.hub.winBase + off) % 128 + len ≤ 128

variable (h : WindowWrites s off len bs)
include h

theorem exec_hostWindowAccess_write : exec (.hostWindowAccess off (some bs) len) s
    = if livePhys s (s.hub.winBase + off) = false then .next s
      else if hostMustWait s (s.hub.winBase + off) = true ∨ holdersOf s ((s.hub.winBase + off) / 128) ≠ [] ∨ s.hub.posted ≠ [] then
        .next (modHub s (fun h => { h with posted := h.posted ++ [(s.hub.winBase + off, bs)] }))
      else performHostWrite s (s.hub.winBase + off) bs := by
  obtain ⟨hlen, hpos, hin, hline⟩ := h
  have hshape : ¬(bs.length ≠ len ∨ 2 ^ 36 < off + len ∨ 128 < (s.hub.winBase + off) % 128 + len) := by omega
  have hwaits : (hostMustWait s (s.hub.winBase + off) || !((holdersOf s ((s.hub.winBase + off) / 128)).isEmpty) || !(s.hub.posted.isEmpty)) = true
      ↔ hostMustWait s (s.hub.winBase + off) = true ∨ holdersOf s ((s.hub.winBase + off) / 128) ≠ [] ∨ s.hub.posted ≠ [] := by
    simp only [Bool.or_eq_true, Bool.not_eq_true', List.isEmpty_eq_false_iff, or_assoc]
  rw [exec_hostWindowAccess]
  unfold execHostWindowAccess
  dsimp only
  rw [if_neg hshape]
  refine if_congr ?_ rfl (if_congr hwaits rfl rfl)
  rw [Bool.not_eq_true', or_iff_left (by omega)]

end

theorem performHostWrite_at {s : State} {pa : Nat} {bs : List Byte} (hw : hostMustWait s pa = false) (hh : holdersOf s (pa / 128) = []) :
    performHostWrite s pa bs = .next (writePhysCls s (pageClass s pa) pa bs false) := by
  simp only [performHostWrite, hw, hh, List.isEmpty_nil, Bool.not_true, Bool.false_eq_true, if_false]

/-! ## Registers (R359, R380, R475, R485, R488) -/

/-- Offsets of a queue's block. -/
theorem exec_registerWrite_queue {s : State} {n r : Nat} (hn : n < 64) (hr : r < 4) (v : Dword) :
    exec (.registerWrite (0x10000 + 32 * n + 8 * r) v) s = writeQueueReg s n (8 * r) v := by
  rw [exec_registerWrite]
  unfold execRegisterWrite
  rw [if_neg (by omega), if_neg (by omega), if_pos (by omega), show (0x10000 + 32 * n + 8 * r - 0x10000) / 32 = n by omega,
    show (0x10000 + 32 * n + 8 * r) % 32 = 8 * r by omega]

/-- Offsets of a context's control block. -/
theorem exec_registerWrite_context {s : State} {n r : Nat} (hn : n < 1024) (hr : r < 8) (v : Dword) :
    exec (.registerWrite (0x20000 + 64 * n + 8 * r) v) s = writeContextReg s n (8 * r) v := by
  rw [exec_registerWrite]
  unfold execRegisterWrite
  rw [if_neg (by omega), if_neg (by omega), if_neg (by omega), if_neg (by omega), if_pos (by omega),
    show (0x20000 + 64 * n + 8 * r - 0x20000) / 64 = n by omega, show (0x20000 + 64 * n + 8 * r) % 64 = 8 * r by omega]

/-- Offsets of a stack's control block. -/
theorem exec_registerWrite_stack {s : State} {n r : Nat} (hn : n < 16) (hr : r < 8) (v : Dword) :
    exec (.registerWrite (0x40000 + 64 * n + 8 * r) v) s = .next (writeStackReg s n (8 * r) v) := by
  rw [exec_registerWrite]
  unfold execRegisterWrite
  rw [if_neg (by omega), if_neg (by omega), if_neg (by omega), if_neg (by omega), if_neg (by omega), if_pos (by omega),
    show (0x40000 + 64 * n + 8 * r - 0x40000) / 64 = n by omega, show (0x40000 + 64 * n + 8 * r) % 64 = 8 * r by omega]

theorem writeQueueReg_unready {s : State} {n r : Nat} (v : Dword) (hq : s.hub.queuesReady / 2 ^ n % 2 = 0) (hr : r < 3) :
    writeQueueReg s n (8 * r) v = .next s := by
  unfold writeQueueReg
  rw [if_neg (by omega), if_pos hq]

section
variable {s : State} {n : Nat} (v : Dword) (hq : s.hub.queuesReady / 2 ^ n % 2 = 1)
include hq

theorem writeQueueReg_base : writeQueueReg s n 0 v = if (getQueue s n).enable = true ∨ v.toNat % 4096 ≠ 0 then .next s
    else .next (modQueue s n (fun x => { x with base := v.toNat })) := by
  unfold writeQueueReg
  rw [if_neg (by omega), if_neg (by omega), if_pos rfl]

theorem writeQueueReg_ctl : writeQueueReg s n 8 v = .next (modQueue s n (fun _ => writeQctl s (getQueue s n) v.toNat)) := by
  unfold writeQueueReg
  rw [if_neg (by omega), if_neg (by omega), if_neg (by omega), if_pos rfl]
  rfl

end

theorem writeQctl_at (s : State) (q : Queue) (word : Nat) :
    let ctx := if q.enable then q.ctx else word / 2 ^ 48 % 2 ^ 16
    let log2 := word / 2 ^ 8 % 32
    writeQctl s q word = { q with
      ctx := ctx
      log2 := if q.enable = false ∧ 4 ≤ log2 ∧ log2 ≤ 16 then log2 else q.log2
      prio := word / 2 ^ 4 % 4
      deviceFed := if q.enable then q.deviceFed else decide (word / 2 ^ 3 % 2 = 1)
      enable := decide (word % 2 = 1) && (getCtx s ctx).isSome } := by
  intro ctx log2
  unfold writeQctl
  cases hq : q.enable <;> simp only [ctx, log2, hq, Bool.not_false, Bool.not_true, Bool.false_eq_true, Bool.true_eq_false, if_true, if_false, true_and, false_and]

theorem writeStackReg_ctl {s : State} {n : Nat} (v : Dword) (hr : s.hub.stacksReady / 2 ^ n % 2 = 1) : writeStackReg s n 0 v
    = setStack s n { getStack s n with
        enable := decide (v.toNat % 2 = 1)
        period := if 1 ≤ v.toNat / 2 % 2 ^ 10 ∧ v.toNat / 2 % 2 ^ 10 ≤ 720 then v.toNat / 2 % 2 ^ 10 else (getStack s n).period } := by
  unfold writeStackReg
  exact (if_neg (by omega)).trans (if_pos rfl)

theorem writeStackReg_drop {s : State} {n : Nat} (v : Dword) (hr : s.hub.stacksReady / 2 ^ n % 2 = 1) : writeStackReg s n 32 v
    = if v.toNat / 2 ^ 7 % 2 = 0 then setStack s n { getStack s n with dropCh := v.toNat % 64 }
      else if (getStack s n).busy then setStack s n { getStack s n with result := 4 } else startDrop s n (v.toNat % 64) := by
  unfold writeStackReg
  exact (if_neg (by omega)).trans ((if_neg (by omega)).trans (if_pos rfl))

theorem writeStackReg_unready {s : State} {n r : Nat} (v : Dword) (hr : s.hub.stacksReady / 2 ^ n % 2 = 0) : writeStackReg s n r v = s := by
  unfold writeStackReg
  exact if_pos hr

theorem writeContextReg_unready {s : State} {n r : Nat} (v : Dword) (hh : s.hub.hubReady = false) : writeContextReg s n r v = .next s := by
  unfold writeContextReg
  rw [if_pos (.inl (by rw [hh]; rfl))]

section
variable {s : State} {n : Nat} (v : Dword) (hh : s.hub.hubReady = true) (hn : 1 ≤ n)
include hh hn

theorem writeContextReg_cdesc : writeContextReg s n 0 v = .next (modBlock s n (fun b => { b with cdesc := v })) := by
  unfold writeContextReg
  rw [if_neg (by rw [hh]; simp; omega), if_pos rfl]

theorem writeContextReg_param0 : writeContextReg s n 8 v = .next (modBlock s n (fun b => { b with param0 := v })) := by
  unfold writeContextReg
  rw [if_neg (by rw [hh]; simp; omega), if_neg (by omega), if_pos rfl]

theorem writeContextReg_param1 : writeContextReg s n 16 v = .next (modBlock s n (fun b => { b with param1 := v })) := by
  unfold writeContextReg
  rw [if_neg (by rw [hh]; simp; omega), if_neg (by omega), if_neg (by omega), if_pos rfl]

end

theorem exec_registerWrite_hub {s : State} {off : Nat} (v : Dword) (h8 : off % 8 = 0) (hlow : off < 0x10000) :
    exec (.registerWrite off v) s = writeHubReg s off v := by
  rw [exec_registerWrite]
  unfold execRegisterWrite
  rw [if_neg (by omega), if_pos hlow]

/-- Settles O42: tails, the window and the registers, each offset through the block that it lies in. -/
theorem queueTailsAndHostAccesses : Obligations.QueueTailsAndHostAccesses := by
  unfold Obligations.QueueTailsAndHostAccesses
  constructor
  · intro s n v q size tail used forward fits
    exact ⟨exec_qtailWrite_posted, exec_qtailWrite_free⟩
  · intro s off len n v bs
    refine ⟨exec_hostWindowAccess_read, ?_, ?_, ?_, ?_, ?_, ?_, ?_⟩
    · intro pa waits hlen hpos hin hline
      have hexec := exec_hostWindowAccess_write (s := s) (bs := bs) ⟨hlen, hpos, hin, hline⟩
      refine ⟨fun hdead => hexec.trans (if_pos hdead), fun hlive hw => ?_, fun hlive hw => ⟨?_, fun k hk => ?_, fun a ha => ?_⟩⟩
      · exact (hexec.trans (if_neg (by rw [show livePhys s (s.hub.winBase + off) = true from hlive]; exact Bool.true_eq_false.mp))).trans (if_pos hw)
      · obtain ⟨hwait, hhold, hpost⟩ : hostMustWait s (s.hub.winBase + off) = false ∧ holdersOf s ((s.hub.winBase + off) / 128) = [] ∧ s.hub.posted = [] := by
          simpa [waits, pa, not_or] using hw
        exact (hexec.trans (if_neg (by rw [show livePhys s (s.hub.winBase + off) = true from hlive]; exact Bool.true_eq_false.mp))).trans
          ((if_neg hw).trans (performHostWrite_at hwait hhold))
      · exact byteAt_writePhysCls_inside hk
      · exact byteAt_writePhysCls_outside (by rw [hlen]; exact ha)
    · intro hn q word
      refine ⟨fun hq r hr => ?_, fun hq => ⟨fun he ha => ?_, fun hno => ?_, ?_⟩, ?_⟩
      · rw [exec_registerWrite_queue hn (by omega), writeQueueReg_unready v hq hr]
      · refine (exec_registerWrite_queue (r := 0) hn (by omega) v).trans ((writeQueueReg_base v hq).trans (if_neg ?_))
        rintro (h | h)
        · exact absurd (he.symm.trans h) Bool.false_ne_true
        · exact h ha
      · exact (exec_registerWrite_queue (r := 0) hn (by omega) v).trans ((writeQueueReg_base v hq).trans (if_pos hno))
      · intro ctx log2
        refine (exec_registerWrite_queue (r := 1) hn (by omega) v).trans ((writeQueueReg_ctl v hq).trans ?_)
        rw [writeQctl_at]
      · exact exec_registerWrite_queue (r := 3) hn (by omega) v
    · intro h1 hn
      refine ⟨fun hh r hr => ?_, fun hh => ⟨?_, ?_, ?_⟩⟩
      · rw [exec_registerWrite_context hn (by omega), writeContextReg_unready v hh]
      · exact (exec_registerWrite_context (r := 0) hn (by omega) v).trans (writeContextReg_cdesc v hh h1)
      · exact (exec_registerWrite_context (r := 1) hn (by omega) v).trans (writeContextReg_param0 v hh h1)
      · exact (exec_registerWrite_context (r := 2) hn (by omega) v).trans (writeContextReg_param1 v hh h1)
    · intro hn x word period
      refine ⟨fun hr r hlt => ?_, fun hr => ⟨?_, ?_⟩⟩
      · rw [exec_registerWrite_stack hn hlt, writeStackReg_unready v hr]
      · exact (exec_registerWrite_stack (r := 0) hn (by omega) v).trans (congrArg Host.Outcome.next (writeStackReg_ctl v hr))
      · exact (exec_registerWrite_stack (r := 4) hn (by omega) v).trans (congrArg Host.Outcome.next (writeStackReg_drop v hr))
    · exact (exec_registerWrite_hub v rfl (by omega)).trans rfl
    · intro hlo hhi
      exact (exec_registerWrite_hub v rfl (by omega)).trans (if_pos ⟨hlo, hhi⟩)
    · intro hno
      exact (exec_registerWrite_hub v rfl (by omega)).trans (if_neg (by omega))

end Sys2Proof.Machine
end

/-! # Teams are placed, retire, and are saved (R48, R259, R367 to R373, R386 to R392, R482) -/

section
namespace Sys2Proof.Machine

open Sys2Proof.Laws

/-! ## The next move of the distributor (R369, R373) -/

theorem mayPlace_of {s : State} (hserved : served s = true) (hbusy : ∀ k ∈ s.hbm, k.2.busy = false) : mayPlace s = true := by
  have hdrop : dropRunning s = false := List.any_eq_false.mpr (fun k hk => by rw [hbusy k hk]; exact Bool.false_ne_true)
  rw [mayPlace, hserved, hdrop]
  rfl

section
variable {s : State} (hm : mayPlace s = true)
include hm

theorem exec_teamPlace_moves (hne : (nextMove s).1 ≠ s) (hsaved : savedKeys (nextMove s).1 = savedKeys s) :
    exec .teamPlace s = .next (nextMove s).1 := by
  rw [exec_teamPlace]
  simp only [execTeamPlace, hm, hsaved, BEq.rfl, ne_eq, hne, not_false_eq_true, decide_true, Bool.and_self, if_true]

omit hm in
theorem exec_teamPlace_still (heq : (nextMove s).1 = s) : exec .teamPlace s = stall s := by
  rw [exec_teamPlace]
  simp only [execTeamPlace, heq, ne_eq, not_true_eq_false, decide_false, Bool.and_false, Bool.false_eq_true, if_false]

theorem exec_teamRestore_moves {key : Nat} (hplaced : (nextMove s).2 = true) (hin : key ∈ savedKeys s) (hout : key ∉ savedKeys (nextMove s).1) :
    exec (.teamRestore key) s = .next (nextMove s).1 := by
  rw [exec_teamRestore]
  simp only [execTeamRestore, hm, hplaced, List.contains_eq_mem, hin, hout, decide_true, decide_false, Bool.not_false, Bool.and_self, if_true]

end

section
variable {s t : State} {lid : Nat} {l : Launch} {idx c : Nat} {z : Seat} (hi : lowestTeam l = some idx) (hz : seatOfTeam s lid l idx c = some z)
  (ht : placeOn s lid l c = some t)
include hi hz ht

theorem placeOn_saved {key f : Nat} {y : Team} {ws : List Wave} (hs : savedTeam s l idx = some (key, y, f, ws)) :
    t = placeSaved s lid l key y f ws c z := by
  simp only [placeOn, hi, hz, hs, Option.some.injEq] at ht
  exact ht.symm

theorem placeOn_fresh (hs : savedTeam s l idx = none) : t = placeFresh s lid l idx c z := by
  simp only [placeOn, hi, hz, hs, Option.some.injEq] at ht
  exact ht.symm

end

/-! ## A fresh team (R48, R367) -/

theorem getCore_setCore_same (s : State) (c : Nat) (k : Core) : getCore (setCore s c k) c = k := by
  rw [getCore, setCore]
  exact congrArg (fun o => Option.getD o _) (Tbl.find?_put_same k c s.cores)

theorem getCore_setCore_ne (s : State) {c d : Nat} (k : Core) (h : d ≠ c) : getCore (setCore s c k) d = getCore s d := by
  rw [getCore, setCore]
  exact congrArg (fun o => Option.getD o _) (Tbl.find?_put_ne k h s.cores)

/-- A core that is written with its own L1 keeps every L1. -/
theorem l1_setCore (s : State) (c d : Nat) {k : Core} (h : k.l1 = (getCore s c).l1) : (getCore (setCore s c k) d).l1 = (getCore s d).l1 := by
  by_cases hd : d = c
  · rw [hd, getCore_setCore_same, h]
  · rw [getCore_setCore_ne s k hd]

theorem l1_dropL1 (s : State) (c : Nat) : (getCore (dropL1 s c) c).l1 = [] := by
  unfold dropL1
  split
  · next h => exact List.isEmpty_iff.mp h
  · rw [getCore_setCore_same]

/-- A wave of team `key` that waits to be cleared, held by the stops of its launch. -/
def WaitsForClear (s : State) (key : Nat) (stops : List Nat) (k : Nat) : Prop :=
  ∃ w, getWave s k = some w ∧ w.team = key ∧ w.ctl = .clearing ∧ w.held = stops

section
variable {e : Entry} {key idx : Nat} {decode : DecodeTable} {stops : List Nat}

theorem placeWaves_rest : ∀ (wids : List Nat) (n : Nat) (s : State),
    (placeWaves e key idx decode stops n wids s).teams = s.teams ∧ (placeWaves e key idx decode stops n wids s).launches = s.launches
  | [], _, _ => ⟨rfl, rfl⟩
  | _ :: r, n, _ => placeWaves_rest r (n + 1) _

theorem placeWaves_l1 (c : Nat) : ∀ (wids : List Nat) (n : Nat) (s : State),
    (getCore (placeWaves e key idx decode stops n wids s) c).l1 = (getCore s c).l1
  | [], _, _ => rfl
  | wid :: r, n, _ => (placeWaves_l1 c r (n + 1) _).trans (l1_setCore _ (coreOf wid) c rfl)

theorem placeWaves_waits {k : Nat} : ∀ (wids : List Nat) (n : Nat) (s : State), k ∈ wids ∨ WaitsForClear s key stops k →
    WaitsForClear (placeWaves e key idx decode stops n wids s) key stops k
  | [], _, _, h => h.resolve_left List.not_mem_nil
  | wid :: r, n, s, h => by
    refine placeWaves_waits r (n + 1) _ ?_
    by_cases hk : k = wid
    · exact .inr ⟨_, (congrArg (Tbl.find? _) hk).trans (Tbl.find?_put_same _ wid s.waves), rfl, rfl, rfl⟩
    · refine h.imp (fun hmem => (List.mem_cons.mp hmem).resolve_left hk) ?_
      rintro ⟨w, hw, hrest⟩
      exact ⟨w, (Tbl.find?_put_ne _ hk s.waves).trans hw, hrest⟩

end

/-- A team that has never run stands on its core as its launch's entry asks. -/
theorem placeFresh_at (s : State) (lid : Nat) (l : Launch) (idx c : Nat) (z : Seat) :
    let t := placeFresh s lid l idx c z
    let key := (freshUid s).1
    let wids := seatWids c z
    getTeam t key = some (newTeam lid idx c wids (l.e.waves * ceilDiv l.e.regs 8) (z.spad * 7936) l.e.spad z.acc l.e.acc z.table l.e.tslots)
      ∧ (∀ k ∈ wids, WaitsForClear t key l.stops k) ∧ (getCore t c).l1 = [] := by
  intro t key wids
  refine ⟨?_, fun k hk => placeWaves_waits wids 0 _ (.inl hk), (placeWaves_l1 c wids 0 _).trans (l1_dropL1 _ c)⟩
  have hteams : t.teams = Tbl.put s.teams key (newTeam lid idx c wids (teamGranules l.e) (z.spad * 7936) l.e.spad z.acc l.e.acc z.table l.e.tslots) := by
    refine (placeWaves_rest wids 0 _).1.trans ?_
    unfold dropL1
    split <;> rfl
  rw [getTeam, hteams]
  exact Tbl.find?_put_same _ _ _

/-! ## Retirement (R259, R367, R370) -/

section
variable {s : State} {key : Nat} {t : Team} {l : Launch}

theorem getTeam_freeTeam (s : State) (key : Nat) (t : Team) : getTeam (freeTeam s key t) key = none := Tbl.find?_del_same key s.teams

theorem waves_freeTeam {p : Nat × Wave} (hp : p ∈ (freeTeam s key t).waves) : p.2.team ≠ key := by
  have hmem : p ∈ s.waves.filter (fun p => p.2.team != key) := hp
  exact bne_iff_ne.mp (List.mem_filter.mp hmem).2

theorem mem_freedCores_freeTeam (s : State) (key : Nat) (t : Team) : t.core ∈ (freeTeam s key t).hub.freedCores :=
  List.mem_append_left _ (List.mem_append_right _ (List.mem_singleton.mpr rfl))

/-- A launch that was there is there with its change. -/
theorem getLaunch_modLaunch_some {lid : Nat} (f : Launch → Launch) (h : getLaunch s lid = some l) :
    getLaunch (modLaunch s lid f) lid = some (f l) := by
  rw [getLaunch_modLaunch_same, h, Option.map_some]

variable (ht : getTeam s key = some t) (hs : t.saved = none) (hne : teamWaves s key ≠ [])
include ht

include hs hne in
theorem exec_teamRetire_at (hdone : ∀ p ∈ teamWaves s key, p.2.ctl = .exited ∧ p.2.engine = [] ∧ p.2.stores = [] ∧ p.2.encoderPending = 0) :
    exec (.teamRetire key) s = .next (modLaunch (freeTeam s key t) t.lid (fun l => { l with retired := l.retired + 1 })) := by
  have hall : (teamWaves s key).all (fun p => p.2.ctl == .exited && p.2.engine.isEmpty && p.2.stores.isEmpty && p.2.encoderPending == 0) = true := by
    refine List.all_eq_true.mpr (fun p hp => ?_)
    obtain ⟨h1, h2, h3, h4⟩ := hdone p hp
    rw [h1, h2, h3, h4]
    rfl
  rw [exec_teamRetire]
  simp only [execTeamRetire, ht, hs, Option.isNone_none, List.isEmpty_eq_false_iff.mpr hne, hall, Bool.not_false, Bool.and_self, if_true]

theorem exec_teamRetire_waits (hlive : ∃ p ∈ teamWaves s key, p.2.ctl ≠ .exited) : exec (.teamRetire key) s = stall s := by
  have hall : (teamWaves s key).all (fun p => p.2.ctl == .exited && p.2.engine.isEmpty && p.2.stores.isEmpty && p.2.encoderPending == 0) = false := by
    obtain ⟨p, hp, hctl⟩ := hlive
    refine List.all_eq_false.mpr ⟨p, hp, ?_⟩
    rw [beq_false_of_ne hctl]
    exact Bool.false_ne_true
  rw [exec_teamRetire]
  simp only [execTeamRetire, ht, hall, Bool.and_false, Bool.false_eq_true, if_false]

end

/-! ## Splits and saves (R371, R372, R386 to R390, R482) -/

theorem exec_splitChange_at {s : State} {c w : Nat} (hw : (getCore s c).pendingSplit = some w)
    (hfree : ∀ t ∈ teamsOn s c, t.spadBase + t.spadSize ≤ w / 32 * 7936) : exec (.splitChange c) s = .next (setCore s c
      { getCore s c with split := w, pendingSplit := none, l1 := if (getCore s c).split < w then [] else (getCore s c).l1 }) := by
  have hall : (teamsOn s c).all (fun t => decide (t.spadBase + t.spadSize ≤ w / 32 * 7936)) = true :=
    List.all_eq_true.mpr (fun t ht => decide_eq_true (hfree t ht))
  rw [exec_splitChange]
  simp only [execSplitChange, hw, hall, if_true]

section
variable {s t : State} {key : Nat} (ht : saveTeams (savedWith s key) s = some t)
include ht

theorem exec_teamSave_drop (hd : dropRunning s = true) : exec (.teamSave key) s = .next t := by
  rw [exec_teamSave]
  simp only [execTeamSave, hd, Bool.true_or, if_true, ht]

theorem exec_teamSave_chosen {p : Nat × Launch} {ks : List Nat} (hp : p ∈ waitingLaunches (requestSplits s))
    (hks : chosenFor (requestSplits s) p = some ks) (hkey : key ∈ ks) : exec (.teamSave key) s = .next t := by
  rw [exec_teamSave]
  unfold execTeamSave
  dsimp only
  rw [if_pos, ht]
  refine Bool.or_eq_true_iff.mpr (.inr (List.any_eq_true.mpr ⟨p, hp, ?_⟩))
  rw [hks]
  exact List.contains_iff_mem.mpr hkey

end

/-! ### A team that is saved -/

theorem launches_writePhys (s : State) (pa : Nat) (bs : List Byte) : (writePhys s pa bs).launches = s.launches := by
  obtain ⟨_, _, _, _, _, h⟩ := writePhysCls_rest s 1 pa bs false
  rw [writePhys, h]

theorem launches_freeBytesOf : ∀ (n : Nat) (s : State), (freeBytesOf s n).2.launches = s.launches
  | 0, _ => rfl
  | n + 1, s => launches_freeBytesOf n { s with freeCtr := s.freeCtr + 1 }

/-- A frame is written to memory; no launch changes. -/
theorem launches_writeFrame (s : State) (base : Nat) (t : Team) (g : Nat) (ws : List Wave) : (writeFrame s base t g ws).launches = s.launches := by
  have each (f : Wave × Nat → Nat) (b : Wave × Nat → List Byte) : ∀ (ps : List (Wave × Nat)) (u : State),
      (ps.foldl (fun u p => writePhys u (f p) (b p)) u).launches = u.launches := by
    intro ps
    induction ps with
    | nil => exact fun _ => rfl
    | cons p ps ih => exact fun u => (ih _).trans (launches_writePhys u _ _)
  exact (each _ _ _ _).trans ((launches_writePhys _ _ _).trans (launches_freeBytesOf _ s))

/-- What is needed to save a team into frame `i`. -/
structure MaySave (s : State) (key : Nat) (t : Team) (l : Launch) (x : Context) (i base : Nat) : Prop where
  team : getTeam s key = some t
  launch : getLaunch s t.lid = some l
  context : getCtx s l.ctx = some x
  frame : freeFrame x = some i
  place : frameAt s x i = some base
  live : t.saved = none
  ready : teamSavable s key = true

/-- The waves of a team as its image holds them. -/
def imageWaves (s : State) (t : Team) : List Wave := t.waves.filterMap (fun k => (getWave s k).map savedWave)

/-- A team as it is kept while it is saved in frame `i`. -/
def keptTeam (s : State) (t : Team) (l : Launch) (i : Nat) : Team := { spillTables l.e.spill t with saved := some (i, imageWaves s t) }

section
variable {s : State} {key : Nat} {t : Team} {l : Launch} {x : Context} {i base : Nat}

/-- The state with a team off its core and its image in frame `i`. -/
def offCore (s : State) (key : Nat) (t : Team) (l : Launch) (i base : Nat) : State :=
  freeTeam (writeFrame s base (keptTeam s t l i) (ceilDiv l.e.regs 8) (imageWaves s t)) key t

theorem saveTeam_at (h : MaySave s key t l x i base) : saveTeam s key = some (modLaunch
    (modCtx { offCore s key t l i base with teams := Tbl.put (offCore s key t l i base).teams key (keptTeam s t l i) } l.ctx
      (fun x => { x with framesUsed := i :: x.framesUsed })) t.lid
    (fun l => { l with waitingTeams := t.index :: l.waitingTeams, savedTeams := key :: l.savedTeams })) := by
  obtain ⟨ht, hl, hx, hi, hb, hs, hr⟩ := h
  simp only [saveTeam, ht, hl, hx, hi, hb, hs, hr, Option.isNone_none, Bool.and_self, if_true]
  rfl

/-- A saved team is kept without its waves, and its launch waits for it again. -/
theorem saveTeam_keeps (h : MaySave s key t l x i base) : ∃ u y, saveTeam s key = some u ∧ getTeam u key = some y
    ∧ (∀ p ∈ u.waves, p.2.team ≠ key) ∧ y.saved = some (i, imageWaves s t)
    ∧ ∃ m, getLaunch u t.lid = some m ∧ m.waitingTeams = t.index :: l.waitingTeams ∧ m.savedTeams = key :: l.savedTeams := by
  refine ⟨_, keptTeam s t l i, saveTeam_at h, Tbl.find?_put_same _ key _, fun p hp => waves_freeTeam (t := t) hp, rfl,
    _, getLaunch_modLaunch_some _ ?_, rfl, rfl⟩
  have hlaunches : (offCore s key t l i base).launches = s.launches := launches_writeFrame s base _ _ _
  exact (congrArg (fun ls => Tbl.find? ls t.lid) hlaunches).trans h.launch

end

/-- Settles O43: placement, retirement, splits and saves, each by its own equation. -/
theorem teams : Obligations.Teams := by
  unfold Obligations.Teams
  refine ⟨?_, ?_, ?_⟩
  · intro s hserved hbusy r
    have hm : mayPlace s = true := mayPlace_of hserved hbusy
    refine ⟨exec_teamPlace_moves hm, exec_teamPlace_still, fun key => exec_teamRestore_moves hm, fun lid l idx c z t hi hz ht => ⟨?_, fun hs => ?_⟩⟩
    · exact fun key y f ws hs => placeOn_saved hi hz ht hs
    · obtain rfl := placeOn_fresh hi hz ht hs
      exact placeFresh_at s lid l idx c z
  · intro s key t l ht hl hs hne
    refine ⟨fun hdone => ⟨_, exec_teamRetire_at ht hs hne hdone, getTeam_freeTeam s key t, fun p hp => waves_freeTeam (t := t) hp,
      ⟨_, getLaunch_modLaunch_some _ hl, rfl⟩, mem_freedCores_freeTeam s key t, fun a => rfl⟩, exec_teamRetire_waits ht⟩
  · intro s c key
    exact ⟨fun w hw hfree => exec_splitChange_at hw hfree, fun hd t ht => exec_teamSave_drop ht hd,
      fun p ks t hp hks hkey ht => exec_teamSave_chosen ht hp hks hkey,
      fun x l i base t ht hl hx hi hb hs hr => saveTeam_keeps ⟨ht, hl, hx, hi, hb, hs, hr⟩⟩

end Sys2Proof.Machine
end

/-! # Commands to a context, and replay (R331, R346 to R357, R379 to R384, R398) -/

section
namespace Sys2Proof.Machine

open Sys2Proof.Laws

/-! ## A command and its result (R380, R381) -/

/-- The outcome of a command that is done. -/
def commandDone (c code : Nat) (t : State) : Out := .next (modBlock t c (fun b => { b with command := code, busy := false, result := 0 }))

/-- The outcome of a command that is refused. -/
def commandRefused (s : State) (c code : Nat) : Out := .next (modBlock s c (fun b => { b with command := code, busy := false, result := 1 }))

/-- The hub is ready, and no command of the context's block is under way. -/
structure BlockFree (s : State) (c : Nat) : Prop where
  ready : s.hub.hubReady = true
  idle : (getBlock s c).busy = false

section
variable {s : State} {c code : Nat} (h : BlockFree s c)
include h

theorem runCommand_free : runCommand s c code = commandBlock s c code (commandOf s c code) := if_pos h.ready

theorem runCommand_done {t : State} (hc : commandOf s c code = .done t) : runCommand s c code = commandDone c code t := by
  rw [runCommand_free h, hc]
  simp only [commandBlock, h.idle, Bool.false_eq_true, false_and, if_false]
  rfl

theorem runCommand_refused (hc : commandOf s c code = .refused) : runCommand s c code = commandRefused s c code := by
  rw [runCommand_free h, hc]
  simp only [commandBlock, h.idle, Bool.false_eq_true, false_and, if_false]
  rfl

theorem runCommand_running (hc : commandOf s c code = .running) :
    runCommand s c code = .next (modBlock s c (fun b => { b with command := code, busy := true })) := by
  rw [runCommand_free h, hc]
  simp only [commandBlock, h.idle, Bool.false_eq_true, false_and, if_false]

end

theorem onContext_none {s : State} {c : Nat} {k : Context → Commanded} (h : getCtx s c = none) : onContext s c k = .refused := by
  rw [onContext, h]

theorem onContext_some {s : State} {c : Nat} {x : Context} {k : Context → Commanded} (h : getCtx s c = some x) : onContext s c k = k x := by
  rw [onContext, h]

/-! ## Create and destroy (R382 to R384) -/

/-- What create asks of its context and of its descriptor's place. -/
def MayCreate (s : State) (c : Nat) : Prop :=
  c ≠ 0 ∧ c < 1024 ∧ getCtx s c = none ∧ (getBlock s c).cdesc.toNat % 64 = 0 ∧ bytesPoisoned s (getBlock s c).cdesc.toNat 64 = false

/-- The areas and the job of a new context are free. -/
def CreateFits (s : State) (x : Context) : Prop := areasOk s x = true ∧ ∀ p ∈ s.contexts, p.2.job ≠ x.job

section
variable {s : State} {c : Nat}

theorem createContext_refuses (h : ¬MayCreate s c) : createContext s c = .refused := by
  unfold createContext
  dsimp only
  rw [if_pos]
  by_contra hno
  simp only [not_or, not_le, ne_eq, not_not, Bool.not_eq_true, Option.isSome_eq_false_iff, Option.isNone_iff_eq_none] at hno
  exact h hno

theorem createContext_noDescriptor (h : descriptorContext (readPhys s (getBlock s c).cdesc.toNat 64) = none) : createContext s c = .refused := by
  unfold createContext
  dsimp only
  rw [h]
  exact ite_self _

theorem createFits_iff {x : Context} : (areasOk s x && s.contexts.all (fun p => p.2.job != x.job)) = true ↔ CreateFits s x := by
  simp only [Bool.and_eq_true, List.all_eq_true, bne_iff_ne]
  rfl

variable {x : Context} (hd : descriptorContext (readPhys s (getBlock s c).cdesc.toNat 64) = some x)
include hd

theorem createContext_unfit (h : ¬CreateFits s x) : createContext s c = .refused := by
  unfold createContext
  dsimp only
  rw [hd]
  dsimp only
  rw [if_neg (fun hb => h (createFits_iff.mp hb))]
  exact ite_self _

theorem createContext_done (hm : MayCreate s c) (h : CreateFits s x) : createContext s c = .done { s with contexts := Tbl.put s.contexts c x } := by
  obtain ⟨h0, hlt, hnone, halign, hclean⟩ := hm
  have hno : ¬(c = 0 ∨ 1024 ≤ c ∨ (getCtx s c).isSome = true ∨ (getBlock s c).cdesc.toNat % 64 ≠ 0
      ∨ bytesPoisoned s (getBlock s c).cdesc.toNat 64 = true) := by
    simp only [h0, Nat.not_le.mpr hlt, hnone, halign, hclean, Option.isSome_none, ne_eq, not_true_eq_false, Bool.false_eq_true, or_self,
      not_false_eq_true]
  unfold createContext
  dsimp only
  rw [if_neg hno, hd]
  dsimp only
  rw [if_pos (createFits_iff.mpr h)]

end

/-! ## Hold and release (R346, R350) -/

theorem getWave_modWave_some {s : State} {k : Nat} {w : Wave} (f : Wave → Wave) (h : getWave s k = some w) :
    getWave (modWave s k f) k = some (f w) := by
  rw [getWave] at h ⊢
  rw [modWave_waves, Tbl.find?_modify_same, h, Option.map_some]

/-- The stops of an actor after a change of its stops by `f`. -/
theorem actorHeld_modHeld {s : State} {a : Actor} {n : List Nat} {f : List Nat → List Nat} {fp : PathEntry → PathEntry}
    (ha : actorHeld s a = some n) (hp : ∀ p, (fp p).held = f p.held) :
    actorHeld (modHeld s a (fun w => { w with held := f w.held }) fp (fun k => { k with held := f k.held })) a = some (f n) := by
  cases a with
  | control wid =>
    obtain ⟨w, hw, rfl⟩ := Option.map_eq_some_iff.mp ha
    exact congrArg (Option.map _) (getWave_modWave_some _ hw)
  | path wid e =>
    obtain ⟨w, hw, hmap⟩ := Option.bind_eq_some_iff.mp ha
    obtain ⟨p, hfind, rfl⟩ := Option.map_eq_some_iff.mp hmap
    refine (congrArg (fun o => Option.bind o _) (getWave_modWave_some _ hw)).trans ?_
    change (Tbl.find? (Tbl.modify w.paths e fp) e).map (fun p => p.held) = _
    rw [Tbl.find?_modify_same, hfind]
    exact congrArg some (hp p)
  | cont wid l =>
    obtain ⟨w, hw, hmap⟩ := Option.bind_eq_some_iff.mp ha
    obtain ⟨k, hfind, rfl⟩ := Option.map_eq_some_iff.mp hmap
    refine (congrArg (fun o => Option.bind o _) (getWave_modWave_some _ hw)).trans ?_
    change (Tbl.find? (Tbl.modify w.conts l _) l).map (fun k => k.held) = _
    rw [Tbl.find?_modify_same, hfind]
    rfl
  | _ => cases ha

theorem actorHeld_holdActor {s : State} {a : Actor} {n : List Nat} (ha : actorHeld s a = some n) : actorHeld (holdActor s a) a = some (0 :: n) :=
  actorHeld_modHeld (f := fun n => 0 :: n) ha (fun _ => rfl)

theorem releasePath_held (level : Nat) (p : PathEntry) : (releasePath level p).held = p.held.erase level := by
  unfold releasePath
  dsimp only
  split <;> rfl

theorem actorHeld_releaseActor {s : State} {a : Actor} {n : List Nat} (ha : actorHeld s a = some n) :
    actorHeld (releaseActor s a) a = some (n.erase 0) :=
  actorHeld_modHeld (f := fun n => n.erase 0) ha (releasePath_held 0)

section
variable {s : State} {c : Nat} {x : Context} {hold : Bool} (hx : getCtx s c = some x)
include hx

/-- What a hold or a release comes to for the launch that it names. -/
theorem stopCommand_noLaunch (hl : launchAt s c (stoppedOf (getBlock s c)).qentry = none) : stopCommand s c hold = .refused := by
  rw [stopCommand, onContext_some hx]
  simp only [hl]

theorem stopCommand_level3 (hz : (stoppedOf (getBlock s c)).level = 3) : stopCommand s c hold = .refused := by
  rw [stopCommand, onContext_some hx]
  simp only [hz]
  split <;> rfl

variable {lid : Nat} {l : Launch} (hl : launchAt s c (stoppedOf (getBlock s c)).qentry = some (lid, l))
include hl

section
variable (hz : (stoppedOf (getBlock s c)).level = 0)
include hz

theorem stopCommand_actor {w : Wave} {n : List Nat} (ha : actorHeld s (stoppedActor (stoppedOf (getBlock s c))) = some n)
    (hw : getWave s (stoppedOf (getBlock s c)).wid = some w) (hlid : (launchOf s w).map (fun p => p.1) = some lid) :
    stopCommand s c hold = if hold = false ∧ n.contains 0 = false then .refused
      else .done (stopTrace (if hold then holdActor s (stoppedActor (stoppedOf (getBlock s c)))
        else releaseActor s (stoppedActor (stoppedOf (getBlock s c)))) c (stoppedOf (getBlock s c)) (if hold then 7 else 8)) := by
  rw [stopCommand, onContext_some hx]
  simp only [hl, hz, ha, hw, hlid, ne_eq, not_true_eq_false, false_or]

theorem stopCommand_noActor (ha : actorHeld s (stoppedActor (stoppedOf (getBlock s c))) = none) : stopCommand s c hold = .refused := by
  rw [stopCommand, onContext_some hx]
  simp only [hl, hz, ha]

end

theorem stopCommand_wave (hz : (stoppedOf (getBlock s c)).level = 1) {w : Wave} (hw : getWave s (stoppedOf (getBlock s c)).wid = some w)
    (hlid : (launchOf s w).map (fun p => p.1) = some lid) :
    stopCommand s c hold = if hold = false ∧ w.stops.contains 1 = false then .refused
      else .done (stopTrace (setWave s (stoppedOf (getBlock s c)).wid (if hold then holdWave 1 w else releaseWave 1 w)) c
        (stoppedOf (getBlock s c)) (if hold then 7 else 8)) := by
  rw [stopCommand, onContext_some hx]
  simp only [hl, hz, hw, hlid, ne_eq, not_true_eq_false, false_or]

/-- A stop of a wave that is not the launch's is refused. -/
theorem stopCommand_otherWave (hz : (stoppedOf (getBlock s c)).level = 0 ∨ (stoppedOf (getBlock s c)).level = 1)
    (hw : ∀ w, getWave s (stoppedOf (getBlock s c)).wid = some w → (launchOf s w).map (fun p => p.1) ≠ some lid) :
    stopCommand s c hold = .refused := by
  rw [stopCommand, onContext_some hx]
  simp only [hl]
  obtain hz | hz := hz <;> rw [hz]
  · cases hheld : actorHeld s (stoppedActor (stoppedOf (getBlock s c))) with
    | none => rfl
    | some n =>
      cases hwave : getWave s (stoppedOf (getBlock s c)).wid with
      | none => rfl
      | some w => exact if_pos (.inl (hw w hwave))
  · cases hwave : getWave s (stoppedOf (getBlock s c)).wid with
    | none => rfl
    | some w => exact if_pos (.inl (hw w hwave))

theorem stopCommand_launch (hz : (stoppedOf (getBlock s c)).level = 2) : stopCommand s c hold = if hold = false ∧ l.stops.contains 2 = false then .refused
      else .done (stopTrace (if hold then holdLaunch s lid else releaseLaunch s lid) c (stoppedOf (getBlock s c)) (if hold then 7 else 8)) := by
  rw [stopCommand, onContext_some hx]
  simp only [hl, hz]

end

/-! ## Unserviceable, invalidate, replay and debug (R331, R345 to R352, R398) -/

/-- A range of addresses that is given to invalidate. -/
def InRange (base len va : Nat) : Prop := len = 0 ∨ (base ≤ va ∧ va < base + len)

/-- After an invalidate the caches hold no entry for an address of its range. -/
theorem cachedEntry_dropped {s : State} {root base len va : Nat} (hva : InRange base len va) (lo : Nat) :
    cachedEntry (dropTranslations s root base len) root lo (va / 2 ^ lo) = none := by
  unfold cachedEntry dropTranslations
  rw [Option.map_eq_none_iff, List.find?_eq_none]
  intro e he hkey
  have hkeep := (List.mem_filter.mp he).2
  simp only [Bool.and_eq_true, beq_iff_eq] at hkey
  obtain ⟨⟨hroot, hshift⟩, hpage⟩ := hkey
  have hmeets : entryMeets e base len = true := by
    unfold entryMeets
    rw [hshift, hpage, Bool.or_eq_true, beq_iff_eq]
    refine hva.imp id (fun hin => ?_)
    have hlow : va / 2 ^ lo * 2 ^ lo ≤ va := Nat.div_mul_le_self va _
    have hhigh : va < va / 2 ^ lo * 2 ^ lo + 2 ^ lo := Nat.lt_div_mul_add (Nat.two_pow_pos lo)
    unfold rangesMeet
    rw [Bool.and_eq_true, decide_eq_true_eq, decide_eq_true_eq]
    omega
  rw [hroot, hmeets] at hkeep
  simp at hkeep

/-- A walk for which nothing is cached reads the tables in memory. -/
theorem walk_uncached {t : State} {va root : Nat} (h : ∀ lo, cachedEntry t root lo (va / 2 ^ lo) = none) :
    ∀ (levels : List (Nat × Nat × Nat)) (table : Nat), walk t va root table levels = walk { t with translations := [] } va root table levels
  | [], _ => rfl
  | (level, lo, n) :: rest, table => by
    have hnone : cachedEntry { t with translations := [] } root lo (va / 2 ^ lo) = none := rfl
    have hpoison : bytesPoisoned { t with translations := [] } (table + 8 * (va / 2 ^ lo % 2 ^ n)) 8
        = bytesPoisoned t (table + 8 * (va / 2 ^ lo % 2 ^ n)) 8 := rfl
    have hread : readPhysNat { t with translations := [] } (table + 8 * (va / 2 ^ lo % 2 ^ n)) 8
        = readPhysNat t (table + 8 * (va / 2 ^ lo % 2 ^ n)) 8 := rfl
    simp only [walk, h lo, hnone, hpoison, hread, walk_uncached h rest]

end Sys2Proof.Machine
end

/-! # What each command comes to (R331, R345 to R352, R380 to R384, R398) -/

section
namespace Sys2Proof.Machine

open Sys2Proof.Laws

section
variable {s : State} {c : Nat}

/-! ## Commands other than hold and release -/

theorem destroyContext_at {x : Context} (hx : getCtx s c = some x) : destroyContext s c = if contextIdle s c = true then
    .done { s with contexts := Tbl.del s.contexts c, launches := s.launches.filter (fun l => l.2.ctx != c) } else .refused :=
  onContext_some hx

/-- The launches that hold a logged entry where a walk stops end (R331). -/
def endStopped (s : State) (c entry : Nat) : State :=
  (s.launches.filter (fun p => p.2.ctx == c && p.2.state == .running)).foldl (fun s p =>
    match firstWaiting s p.1 entry with
    | some (wid, e) => endUnserviceable s p.1 p.2 wid e
    | none => s) s

theorem unserviceableAt_absent {x : Context} {entry : Nat} (hx : getCtx s c = some x)
    (hw : walkCtx s x ((getBlock s c).param0.toNat % 2 ^ 56) = .absent entry) : unserviceableAt s c = .done (endStopped s c entry) := by
  rw [unserviceableAt, onContext_some hx, hw]
  rfl

theorem unserviceableAt_present {x : Context} (hx : getCtx s c = some x)
    (hw : ∀ entry, walkCtx s x ((getBlock s c).param0.toNat % 2 ^ 56) ≠ .absent entry) : unserviceableAt s c = .done s := by
  rw [unserviceableAt, onContext_some hx]
  split
  · next entry h => exact absurd h (hw entry)
  · rfl

section
variable {x : Context} (hx : getCtx s c = some x)
include hx

theorem invalidateRange_misaligned (hb : (getBlock s c).param0.toNat % 2 ^ 17 ≠ 0 ∨ (getBlock s c).param1.toNat % 2 ^ 17 ≠ 0) :
    invalidateRange s c = .refused :=
  (onContext_some hx).trans (if_pos hb)

theorem invalidateRange_at (hb : (getBlock s c).param0.toNat % 2 ^ 17 = 0) (hl : (getBlock s c).param1.toNat % 2 ^ 17 = 0) :
    invalidateRange s c = if rangeSettled s c (getBlock s c).param0.toNat (getBlock s c).param1.toNat = true then
      .done (dropTranslations s x.ptroot (getBlock s c).param0.toNat (getBlock s c).param1.toNat) else .running :=
  (onContext_some hx).trans (if_neg (fun h => h.elim (fun h => h hb) (fun h => h hl)))

theorem debugSet_at : debugSet s c = if debugOk x ((getBlock s c).param0.toNat % 256) (getBlock s c).param1.toNat = true then
    .done (modCtx s c (fun x => { x with debug := Cells.set 0 x.debug ((getBlock s c).param0.toNat % 256) (getBlock s c).param1 })) else .refused :=
  onContext_some hx

theorem generationReset_at : generationReset s c = .done (modCtx s c (fun x => { x with generation := 1 })) := onContext_some hx

/-- The size code of a replay region. -/
def replayLog2 (len : Nat) : Nat := if len % 32 = 0 then 32 else len % 32

theorem replaySet_at : replaySet s c = if entryWaits s c (getBlock s c).param0.toNat = true ∧ (getBlock s c).param1.toNat < 2 ^ 56
      ∧ (getBlock s c).param1.toNat / 32 % 2 ^ 15 = 0 ∧ 20 ≤ replayLog2 (getBlock s c).param1.toNat then
    .done (modCtx s c (fun x => { x with replays := ((getBlock s c).param0.toNat, (getBlock s c).param1.toNat / 2 ^ 20 * 2 ^ 20,
      replayLog2 (getBlock s c).param1.toNat) :: x.replays.filter (fun r => r.1 != (getBlock s c).param0.toNat) })) else .refused := by
  refine (onContext_some hx).trans (if_congr ?_ rfl rfl)
  simp only [Bool.and_eq_true, decide_eq_true_eq, and_assoc]
  rfl

end

/-- A debug register that is written holds its value, and the others theirs. -/
theorem debug_written {x : Context} (hx : getCtx s c = some x) (n : Nat) (v : Dword) :
    ∃ y, getCtx (modCtx s c (fun x => { x with debug := Cells.set 0 x.debug n v })) c = some y
      ∧ Cells.get 0 y.debug n = v ∧ ∀ m, m ≠ n → Cells.get 0 y.debug m = Cells.get 0 x.debug m := by
  refine ⟨{ x with debug := Cells.set 0 x.debug n v }, ?_, Cells.get_set_same 0 v x.debug n, fun m hm => Cells.get_set_ne 0 v x.debug hm⟩
  rw [getCtx, modCtx_contexts, Tbl.find?_modify_same, show Tbl.find? s.contexts c = some x from hx]
  rfl

theorem commandOf_create (s : State) (c : Nat) : commandOf s c 1 = createContext s c := by rw [commandOf]

/-- Every command but create is refused for a context that does not exist. -/
theorem commandOf_none (hnone : getCtx s c = none) {code : Nat} (hc : code ≠ 1) : commandOf s c code = .refused := by
  unfold commandOf
  split
  · exact absurd rfl hc
  · rw [destroyContext, onContext_none hnone]
  · rw [stopCommand, onContext_none hnone]
  · rw [stopCommand, onContext_none hnone]
  · rw [unserviceableAt, onContext_none hnone]
  · rw [invalidateRange, onContext_none hnone]
  · rw [debugSet, onContext_none hnone]
  · rw [replaySet, onContext_none hnone]
  · rw [generationReset, onContext_none hnone]
  · rfl

/-! ## Hold and release -/

/-- Both commands are refused. -/
def StopsRefused (s : State) (c : Nat) : Prop :=
  exec (.contextHold c) s = commandRefused s c 3 ∧ exec (.contextRelease c) s = commandRefused s c 4

variable (h : BlockFree s c)
include h

/-- A command instruction that is refused, done or under way, by what its command comes to. -/
theorem exec_refused {i : Instr} {code : Nat} (hi : exec i s = runCommand s c code) (hc : commandOf s c code = .refused) :
    exec i s = commandRefused s c code := hi.trans (runCommand_refused h hc)

theorem exec_done {i : Instr} {code : Nat} {t : State} (hi : exec i s = runCommand s c code) (hc : commandOf s c code = .done t) :
    exec i s = commandDone c code t := hi.trans (runCommand_done h hc)

theorem exec_running {i : Instr} {code : Nat} (hi : exec i s = runCommand s c code) (hc : commandOf s c code = .running) :
    exec i s = .next (modBlock s c (fun b => { b with command := code, busy := true })) := hi.trans (runCommand_running h hc)

theorem commands_refused (hnone : getCtx s c = none) : exec (.contextDestroy c) s = commandRefused s c 2
    ∧ exec (.contextHold c) s = commandRefused s c 3 ∧ exec (.contextRelease c) s = commandRefused s c 4
    ∧ exec (.unserviceable c) s = commandRefused s c 5 ∧ exec (.invalidate c) s = commandRefused s c 6
    ∧ exec (.debugWrite c) s = commandRefused s c 7 ∧ exec (.replayEnable c) s = commandRefused s c 8
    ∧ exec (.resetGeneration c) s = commandRefused s c 9 :=
  ⟨exec_refused h (exec_contextDestroy c s) (commandOf_none hnone (by decide)), exec_refused h (exec_contextHold c s) (commandOf_none hnone (by decide)),
    exec_refused h (exec_contextRelease c s) (commandOf_none hnone (by decide)), exec_refused h (exec_unserviceable c s) (commandOf_none hnone (by decide)),
    exec_refused h (exec_invalidate c s) (commandOf_none hnone (by decide)), exec_refused h (exec_debugWrite c s) (commandOf_none hnone (by decide)),
    exec_refused h (exec_replayEnable c s) (commandOf_none hnone (by decide)), exec_refused h (exec_resetGeneration c s) (commandOf_none hnone (by decide))⟩

theorem exec_contextCreate_forbidden (hno : ¬MayCreate s c) : exec (.contextCreate c) s = commandRefused s c 1 :=
  exec_refused (code := 1) h (exec_contextCreate c s) ((commandOf_create s c).trans (createContext_refuses hno))

theorem exec_contextCreate_noDescriptor (hd : descriptorContext (readPhys s (getBlock s c).cdesc.toNat 64) = none) :
    exec (.contextCreate c) s = commandRefused s c 1 :=
  exec_refused (code := 1) h (exec_contextCreate c s) ((commandOf_create s c).trans (createContext_noDescriptor hd))

theorem exec_contextCreate_unfit {x : Context} (hd : descriptorContext (readPhys s (getBlock s c).cdesc.toNat 64) = some x)
    (hno : ¬CreateFits s x) : exec (.contextCreate c) s = commandRefused s c 1 :=
  exec_refused (code := 1) h (exec_contextCreate c s) ((commandOf_create s c).trans (createContext_unfit hd hno))

theorem exec_contextCreate_done {x : Context} (hd : descriptorContext (readPhys s (getBlock s c).cdesc.toNat 64) = some x) (hm : MayCreate s c)
    (hf : CreateFits s x) : exec (.contextCreate c) s = commandDone c 1 { s with contexts := Tbl.put s.contexts c x } :=
  exec_done (code := 1) h (exec_contextCreate c s) ((commandOf_create s c).trans (createContext_done hd hm hf))

theorem stopsRefused_of (hr : ∀ hold, stopCommand s c hold = .refused) : StopsRefused s c :=
  ⟨exec_refused h (exec_contextHold c s) (hr true), exec_refused h (exec_contextRelease c s) (hr false)⟩

/-- A hold that is done, and a release that is done where the stop is held. -/
theorem stops_done {n : List Nat} {level : Nat} {held released : State}
    (hc : ∀ hold, stopCommand s c hold = if hold = false ∧ n.contains level = false then .refused
      else .done (stopTrace (if hold then held else released) c (stoppedOf (getBlock s c)) (if hold then 7 else 8))) :
    exec (.contextHold c) s = commandDone c 3 (stopTrace held c (stoppedOf (getBlock s c)) 7)
      ∧ (level ∈ n → exec (.contextRelease c) s = commandDone c 4 (stopTrace released c (stoppedOf (getBlock s c)) 8))
      ∧ (level ∉ n → exec (.contextRelease c) s = commandRefused s c 4) := by
  refine ⟨exec_done h (exec_contextHold c s) ((hc true).trans (if_neg (by simp))), fun hin => exec_done h (exec_contextRelease c s) ((hc false).trans (if_neg ?_)),
    fun hout => exec_refused h (exec_contextRelease c s) ((hc false).trans (if_pos ⟨rfl, ?_⟩))⟩
  · rw [List.contains_iff_mem.mpr hin]
    exact fun h => absurd h.2.symm Bool.false_ne_true
  · rw [List.contains_eq_mem]
    exact decide_eq_false hout

end

/-- Settles O44: each command by what `commandOf` makes of it, and what its block then holds. -/
theorem contextsAndDebug : Obligations.ContextsAndDebug := by
  unfold Obligations.ContextsAndDebug
  constructor
  · intro s c hready hidle b base len done refused
    have h : BlockFree s c := ⟨hready, hidle⟩
    refine ⟨fun hnone => ?_, ?_, fun x hx => ⟨fun hi => ?_, fun hi => ?_, fun entry hw => ?_, fun hw => ?_, fun hb => ?_, ?_, ?_, ?_⟩⟩
    · exact commands_refused h hnone
    · intro a may fits
      exact ⟨fun hno => exec_contextCreate_forbidden h hno, fun hd => exec_contextCreate_noDescriptor h hd,
        fun x hd => ⟨fun hno => exec_contextCreate_unfit h hd hno, fun hm hf => exec_contextCreate_done h hd hm hf⟩⟩
    · exact exec_done h (exec_contextDestroy c s) ((destroyContext_at hx).trans (if_pos hi))
    · exact exec_refused h (exec_contextDestroy c s) ((destroyContext_at hx).trans (if_neg (by rw [hi]; exact Bool.false_ne_true)))
    · exact exec_done h (exec_unserviceable c s) (unserviceableAt_absent hx hw)
    · exact exec_done h (exec_unserviceable c s) (unserviceableAt_present hx hw)
    · exact exec_refused h (exec_invalidate c s) (invalidateRange_misaligned hx hb)
    · intro hb hl t
      refine ⟨fun hs => exec_running h (exec_invalidate c s) ((invalidateRange_at hx hb hl).trans (if_neg (by rw [hs]; exact Bool.false_ne_true))),
        fun hs => ⟨exec_done h (exec_invalidate c s) ((invalidateRange_at hx hb hl).trans (if_pos hs)), fun va hva => ?_⟩⟩
      exact walk_uncached (cachedEntry_dropped hva) walkLevels x.ptroot
    · intro size may
      exact ⟨fun hm => exec_done h (exec_replayEnable c s) ((replaySet_at hx).trans (if_pos hm)), fun hno => exec_refused h (exec_replayEnable c s) ((replaySet_at hx).trans (if_neg hno))⟩
    · exact exec_done h (exec_resetGeneration c s) (generationReset_at hx)
  · intro s c x hx hready hidle b z a done refused none_
    have h : BlockFree s c := ⟨hready, hidle⟩
    refine ⟨fun hl => stopsRefused_of h (fun _ => stopCommand_noLaunch hx hl), fun hz => stopsRefused_of h (fun _ => stopCommand_level3 hx hz), ?_, ?_⟩
    · intro lid l hl
      refine ⟨fun w n hz hw hlid ha => ?_, fun hz ha => stopsRefused_of h (fun _ => stopCommand_noActor hx hl hz ha), fun w hz hw hlid => ?_,
        fun hz hw => stopsRefused_of h (fun _ => stopCommand_otherWave hx hl hz hw), fun hz => ?_⟩
      · obtain ⟨hheld, hin, hout⟩ := stops_done h (fun hold => stopCommand_actor hx hl hz ha hw hlid)
        exact ⟨hheld, actorHeld_holdActor ha, fun hmem => ⟨hin hmem, actorHeld_releaseActor ha⟩, hout⟩
      · exact stops_done (held := setWave s z.wid (holdWave 1 w)) (released := setWave s z.wid (releaseWave 1 w)) h
          (fun hold => (stopCommand_wave hx hl hz hw hlid).trans (by cases hold <;> rfl))
      · exact stops_done h (fun hold => stopCommand_launch hx hl hz)
    · intro n
      exact ⟨fun hok => ⟨exec_done h (exec_debugWrite c s) ((debugSet_at hx).trans (if_pos hok)), debug_written hx n b.param1⟩,
        fun hno => exec_refused h (exec_debugWrite c s) ((debugSet_at hx).trans (if_neg (by rw [hno]; exact Bool.false_ne_true)))⟩

end Sys2Proof.Machine
end

/-! # Replay intervals and samples (R354 to R357) -/

section
namespace Sys2Proof.Machine

open Sys2Proof.Laws

/-! ## What a record leaves alone -/

/-- Waves, teams, launches and intervals are as they were. -/
structure KeepsWaves (s t : State) : Prop where
  waves : t.waves = s.waves
  teams : t.teams = s.teams
  launches : t.launches = s.launches
  intervals : t.intervals = s.intervals

theorem KeepsWaves.refl (s : State) : KeepsWaves s s := ⟨rfl, rfl, rfl, rfl⟩

theorem KeepsWaves.trans {s t u : State} (h : KeepsWaves s t) (g : KeepsWaves t u) : KeepsWaves s u :=
  ⟨g.waves.trans h.waves, g.teams.trans h.teams, g.launches.trans h.launches, g.intervals.trans h.intervals⟩

theorem writePhys_keeps (s : State) (pa : Nat) (bs : List Byte) : KeepsWaves s (writePhys s pa bs) := by
  obtain ⟨_, _, _, _, _, h⟩ := writePhysCls_rest s 1 pa bs false
  rw [writePhys, h]
  exact ⟨rfl, rfl, rfl, rfl⟩

theorem freeBytesOf_keeps : ∀ (n : Nat) (s : State), KeepsWaves s (freeBytesOf s n).2
  | 0, s => KeepsWaves.refl s
  | n + 1, s => KeepsWaves.trans (t := { s with freeCtr := s.freeCtr + 1 }) ⟨rfl, rfl, rfl, rfl⟩ (freeBytesOf_keeps n { s with freeCtr := s.freeCtr + 1 })

theorem modCtx_keeps (s : State) (c : Nat) (f : Context → Context) : KeepsWaves s (modCtx s c f) := ⟨rfl, rfl, rfl, rfl⟩

theorem traceAppend_keeps (s : State) (c : Nat) (x : Context) (rec : Nat → Nat) : KeepsWaves s (traceAppend s c x rec) := by
  unfold traceAppend
  dsimp only
  split
  · exact (writePhys_keeps s _ _).trans (modCtx_keeps _ c _)
  · exact modCtx_keeps s c _

theorem traceLoss_keeps (s : State) (c : Nat) (x : Context) : KeepsWaves s (traceLoss s c x) := by
  unfold traceLoss
  split
  · exact (traceAppend_keeps s c x _).trans (modCtx_keeps _ c _)
  · exact KeepsWaves.refl s

/-- A trace record goes to memory and its context alone. -/
theorem traceEvent_keeps (s : State) (c kind : Nat) (always : Bool) (rec : Nat → Nat) : KeepsWaves s (traceEvent s c kind always rec) := by
  unfold traceEvent
  cases getCtx s c with
  | none => exact KeepsWaves.refl s
  | some x =>
    dsimp only
    split
    · split
      · exact traceLoss_keeps s c x
      · exact (traceLoss_keeps s c x).trans (traceAppend_keeps _ c _ rec)
    · exact KeepsWaves.refl s

/-! ## The start of an interval (R355) -/

/-- A wave whose next interval may start. -/
structure MayStart (s : State) (wid : Nat) (w : Wave) (lid : Nat) (l : Launch) (t : Team) (base log2 : Nat) : Prop where
  wave : getWave s wid = some w
  launch : launchOf s w = some (lid, l)
  team : getTeam s w.team = some t
  region : replayOf s l = some (base, log2)
  placed : w.ctl ≠ .exited
  cleared : w.ctl ≠ .clearing
  live : launchLive s w = true

/-- The state with the image of a wave in its share of the region, and the trace record of its interval. -/
def imageWritten (s : State) (wid : Nat) (w : Wave) (l : Launch) (t : Team) (base log2 : Nat) : State :=
  let share := 2 ^ log2 / (l.e.teams * l.e.waves)
  let r := freeBytesOf s (waveFrameBytes (ceilDiv l.e.regs 8))
  let v := writePhys (writePhys r.2 (base + waveIndex t l w * share) r.1) (base + waveIndex t l w * share + 4352) (pathSection w)
  let st := standing v (.control wid)
  traceEvent v l.ctx 10 false (fun q => traceNat v.timebase 0 l.qentry 0 st.pc (w.interval + 1) q wid 0 false false 10)

theorem imageWritten_keeps (s : State) (wid : Nat) (w : Wave) (l : Launch) (t : Team) (base log2 : Nat) :
    KeepsWaves s (imageWritten s wid w l t base log2) :=
  (((freeBytesOf_keeps _ s).trans (writePhys_keeps _ _ _)).trans (writePhys_keeps _ _ _)).trans (traceEvent_keeps _ _ _ _ _)

/-- The interval that wave `k` of a launch begins. -/
def newInterval (lid k : Nat) (w : Wave) : Interval := { lid := lid, wave := k, number := w.interval + 1, start := w, stores := [], status := 0 }

/-- The intervals with those of wave `k` of a launch closed. -/
def closedBefore (lid k : Nat) (zs : List Interval) : List Interval :=
  zs.map (fun z => if z.lid = lid ∧ z.wave = k ∧ z.status = 0 then { z with status := 1 } else z)

section
variable {s : State} {wid : Nat} {w : Wave} {lid : Nat} {l : Launch} {t : Team} {base log2 : Nat}

theorem exec_replayIntervalStart_at (h : MayStart s wid w lid l t base log2) : exec (.replayIntervalStart wid) s
    = .next { modWave (imageWritten s wid w l t base log2) wid (fun w' => { w' with interval := w.interval + 1, intervalDue := false }) with
        intervals := closedBefore lid (waveIndex t l w) (imageWritten s wid w l t base log2).intervals ++ [newInterval lid (waveIndex t l w) w] } := by
  obtain ⟨hw, hl, ht, hr, hx, hc, hlive⟩ := h
  rw [exec_replayIntervalStart]
  simp only [execReplayIntervalStart, hw, hl, ht, hr, beq_false_of_ne hx, beq_false_of_ne hc, hlive, Bool.not_true, Bool.or_self,
    Bool.false_eq_true, if_false]
  rfl

/-- The next interval of a wave begins at a boundary, and those before it are closed. -/
theorem replayIntervalStart_starts (h : MayStart s wid w lid l t base log2) :
    ∃ u v z, exec (.replayIntervalStart wid) s = .next u ∧ getWave u wid = some v ∧ v.interval = w.interval + 1 ∧ v.intervalDue = false
      ∧ u.intervals = closedBefore lid (waveIndex t l w) s.intervals ++ [z]
      ∧ z.lid = lid ∧ z.wave = waveIndex t l w ∧ z.number = w.interval + 1 ∧ z.start = w ∧ z.stores = [] ∧ z.log = [] ∧ z.status = 0 := by
  have hkeep := imageWritten_keeps s wid w l t base log2
  have hwave : getWave (imageWritten s wid w l t base log2) wid = some w := by rw [getWave, hkeep.waves]; exact h.wave
  exact ⟨_, _, newInterval lid (waveIndex t l w) w, exec_replayIntervalStart_at h, getWave_modWave_some _ hwave, rfl, rfl,
    congrArg (fun zs => closedBefore lid (waveIndex t l w) zs ++ [newInterval lid (waveIndex t l w) w]) hkeep.intervals,
    rfl, rfl, rfl, rfl, rfl, rfl, rfl⟩

/-- While the next interval of a wave is due, none of its instances issues. -/
theorem mayIssue_of_due (hw : getWave s wid = some w) (hl : launchOf s w = some (lid, l)) (hr : replayOf s l = some (base, log2))
    (hdue : w.interval = 0 ∨ w.intervalDue = true) {a : Actor} (ha : actorWave a = wid) : mayIssue s a = false := by
  have hwaits : intervalWaits s w l = true := by
    unfold intervalWaits
    rw [hr]
    simpa using hdue
  unfold mayIssue
  rw [ha, hw]
  dsimp only
  rw [hl]
  dsimp only
  rw [hwaits]
  simp only [Bool.not_true, Bool.and_false, Bool.false_and]

end

/-! ## Replays and samples (R354, R357) -/

section
variable {s : State} {lid wave interval out : Nat} {z : Interval}
  (hz : s.intervals.find? (fun z => z.lid == lid && z.wave == wave && z.number == interval) = some z)
include hz

theorem exec_replayRun_closed (hs : z.status ≠ 0) : ∃ u, exec (.replayRun lid wave interval out) s = .next u ∧ u.replayed = z.stores
    ∧ u.replayStatus = if z.status = 2 then 2 else 0 := by
  refine ⟨{ writePhys s out (replayOutput z.stores) with replayed := z.stores, replayStatus := if z.status = 2 then 2 else 0 }, ?_, rfl, rfl⟩
  rw [exec_replayRun]
  simp only [execReplayRun, hz, hs, if_false]

theorem exec_replayRun_open (hs : z.status = 0) : exec (.replayRun lid wave interval out) s = stall s := by
  rw [exec_replayRun]
  simp only [execReplayRun, hz, hs, if_true]

end

section
variable {s : State} {c : Nat} {x : Context} (hx : getCtx s c = some x)
include hx

theorem exec_traceSampleTick_on (h : (Cells.get 0 x.debug 24).toNat / 2 ^ 13 % 32 ≠ 0) : exec (.traceSampleTick c) s
    = .next ((s.waves.filter (fun p => ctxOf s p.2 == some c)).foldl (fun t p =>
        match launchOf s p.2 with | some (_, l) => sampleWave t c p.1 p.2 l | none => t) s) := by
  rw [exec_traceSampleTick]
  unfold execTraceSampleTick
  rw [hx]
  exact if_neg h

theorem exec_traceSampleTick_off (h : (Cells.get 0 x.debug 24).toNat / 2 ^ 13 % 32 = 0) : exec (.traceSampleTick c) s = stall s := by
  rw [exec_traceSampleTick]
  unfold execTraceSampleTick
  rw [hx]
  exact if_pos h

end

/-- Settles O45: intervals, replays and samples, each by its own equation. -/
theorem replayEvents : Obligations.ReplayEvents := by
  unfold Obligations.ReplayEvents
  intro s wid w lid l t base log2 hw hl ht
  exact ⟨fun hr hx hc hlive => replayIntervalStart_starts ⟨hw, hl, ht, hr, hx, hc, hlive⟩,
    fun hr hdue a ha => mayIssue_of_due hw hl hr hdue ha,
    fun wave interval out z hz => ⟨exec_replayRun_closed hz, exec_replayRun_open hz⟩,
    fun c x hx => ⟨exec_traceSampleTick_on hx, exec_traceSampleTick_off hx⟩⟩

end Sys2Proof.Machine
end

/-! # Packets at a junction die and at their home (R332, R399, R406, R409, R413, R414, R418, R421, R425) -/

section
namespace Sys2Proof.Machine

open Sys2Proof.Laws

/-! ## Arrival (R406, R409, R425) -/

/-- The instructions of arrival, by the kind of packet that each takes. -/
noncomputable def arrivalInstrs (p : Packet) : List (Nat × Instr) :=
  [(1, .readPacket p), (2, .readData p), (3, .writePacket p), (4, .maskedWrite p), (5, .atomicPacket p), (6, .atomicResult p),
   (7, .writeAcknowledgment p), (8, .refusal p), (9, .invalidatePacket p), (10, .invalidateAcknowledgment p), (11, .messagePacket p),
   (12, .messageAcknowledgment p), (13, .emittedPacket p), (14, .managementPacket p)]

/-- An instruction of arrival lets a packet of its kind arrive. -/
def Arrives (p : Packet) (k : Nat × Instr) : Prop := ∀ s, ∃ act, exec k.2 s = arrive s p k.1 act

theorem arrivalInstrs_arrive (p : Packet) : ∀ k ∈ arrivalInstrs p, Arrives p k := by
  simp only [arrivalInstrs, List.forall_mem_cons]
  exact ⟨fun s => ⟨_, exec_readPacket p s⟩, fun s => ⟨_, exec_readData p s⟩, fun s => ⟨_, exec_writePacket p s⟩, fun s => ⟨_, exec_maskedWrite p s⟩,
    fun s => ⟨_, exec_atomicPacket p s⟩, fun s => ⟨_, exec_atomicResult p s⟩, fun s => ⟨_, exec_writeAcknowledgment p s⟩,
    fun s => ⟨_, exec_refusal p s⟩, fun s => ⟨_, exec_invalidatePacket p s⟩, fun s => ⟨_, exec_invalidateAcknowledgment p s⟩,
    fun s => ⟨_, exec_messagePacket p s⟩, fun s => ⟨_, exec_messageAcknowledgment p s⟩, fun s => ⟨_, exec_emittedPacket p s⟩,
    fun s => ⟨_, exec_managementPacket p s⟩, fun k hk => absurd hk List.not_mem_nil⟩

theorem arrivalInstrs_bad {s : State} {p : Packet} (h : packetOk p = false) {k : Nat × Instr} (hk : k ∈ arrivalInstrs p) :
    exec k.2 s = .next (countDropped s p.plane) := by
  obtain ⟨act, hact⟩ := arrivalInstrs_arrive p k hk s
  rw [hact, arrive_bad h]

theorem arrivalInstrs_pass {s : State} {p : Packet} (h : packetOk p = true) (hd : p.dest ≠ s.pkg) (he : p.kind ≠ 13) {k : Nat × Instr}
    (hk : k ∈ arrivalInstrs p) (hkind : p.kind = k.1) : exec k.2 s
      = .next (if pathUsable s p.plane p.dest p.path = true then modFabric s (fun f => { f with out := f.out ++ [p] }) else s) := by
  obtain ⟨act, hact⟩ := arrivalInstrs_arrive p k hk s
  rw [hact, arrive_passes h hkind hd, passOn]
  simp only [he, if_false]

/-! ## The home (R399, R414) -/

theorem withHome_denied {s : State} {p : Packet} {want : Want} {k : Nat → Nat → Out} {c : Nat} {x : Context} {a : Nat}
    (h : ctxWithJob s p.job = some (c, x)) (ht : deviceTarget s x want p.addr = .error (.denied a)) :
    withHome s p want k = .next (refusePacket s p 1) := by
  simp only [withHome, h, ht]

/-- What the home makes of a job without a context, an absent page and a page that denies the access. -/
structure AsksHome (s : State) (p : Packet) (want : Want) (o : Out) : Prop where
  noContext : ctxWithJob s p.job = none → o = .next (refusePacket s p 2)
  absent : ∀ c x, ctxWithJob s p.job = some (c, x) → ∀ a k, deviceTarget s x want p.addr = .error (.absent a k) →
    o = .next (refusePacket (refusalRecord s c 0x0A p.plane p.addr (wantWrites want)) p 0)
  denied : ∀ c x, ctxWithJob s p.job = some (c, x) → ∀ a, deviceTarget s x want p.addr = .error (.denied a) → o = .next (refusePacket s p 1)

theorem asksHome_of {s : State} {p : Packet} {want : Want} {o : Out} {k : Nat → Nat → Out} (h : o = withHome s p want k) : AsksHome s p want o :=
  ⟨fun hn => h.trans (withHome_noContext hn), fun _ _ hc _ _ ht => h.trans (withHome_absent hc ht), fun _ _ hc _ ht => h.trans (withHome_denied hc ht)⟩

/-- The address of a packet leads to memory of this package. -/
def FoundHome (s : State) (p : Packet) (want : Want) (pa cls : Nat) : Prop :=
  ∃ c x, ctxWithJob s p.job = some (c, x) ∧ deviceTarget s x want p.addr = .ok (.glob pa cls)

theorem withHome_found {s : State} {p : Packet} {want : Want} {pa cls : Nat} {k : Nat → Nat → Out} (h : FoundHome s p want pa cls) :
    withHome s p want k = k pa cls := by
  obtain ⟨c, x, hc, ht⟩ := h
  exact withHome_at hc ht

/-! ### Reads (R413) -/

/-- What a read does once its line is found. -/
def readHere (s : State) (p : Packet) (pa cls : Nat) : Out :=
  match fifthHolder (holdersOf s (pa / 128)) p.source with
  | [] => .next (sendReply (modFabric s (addHolder (pa / 128) (p.source, p.job, p.addr / 128 * 128))) p 0x02
      (placePoisoned s (.glob (pa / 128 * 128) cls) 128) (readBase s (.glob (pa / 128 * 128) cls) 128))
  | hs => evictSome s hs

section
variable {s : State} {p : Packet} (h : packetOk p = true) (hd : p.dest = s.pkg)
include h hd

theorem exec_readPacket_home (hk : p.kind = 1) : exec (.readPacket p) s = withHome s p .read (readHere s p) :=
  (exec_readPacket p s).trans (arrive_here h hk hd)

theorem exec_writePacket_home (hk : p.kind = 3) : exec (.writePacket p) s = homeWrite p s := (exec_writePacket p s).trans (arrive_here h hk hd)

theorem exec_maskedWrite_home (hk : p.kind = 4) : exec (.maskedWrite p) s = homeWrite p s := (exec_maskedWrite p s).trans (arrive_here h hk hd)

end

section
variable {hs : List (Nat × Nat × Nat)} {src : Nat}

theorem fifthHolder_few (h : ¬4 ≤ ((hs.filter (fun h => h.1 != src)).map (fun h => h.1)).eraseDups.length) : fifthHolder hs src = [] := by
  unfold fifthHolder
  cases ho : hs.filter (fun h => h.1 != src) with
  | nil => rfl
  | cons k r => exact if_neg (ho ▸ h)

theorem fifthHolder_many {k : Nat × Nat × Nat} {r : List (Nat × Nat × Nat)}
    (h : 4 ≤ ((hs.filter (fun h => h.1 != src)).map (fun h => h.1)).eraseDups.length) (ho : hs.filter (fun h => h.1 != src) = k :: r) :
    fifthHolder hs src = hs.filter (fun z => z.1 == k.1) ∧ hs.filter (fun z => z.1 == k.1) ≠ [] := by
  constructor
  · unfold fifthHolder
    rw [ho] at h ⊢
    exact if_pos h
  · have hmem : k ∈ hs := List.mem_of_mem_filter (ho ▸ List.mem_cons_self : k ∈ hs.filter (fun h => h.1 != src))
    exact List.ne_nil_of_mem (List.mem_filter.mpr ⟨hmem, beq_self_eq_true k.1⟩)

end

/-- The holders of the line that are not the reader's package. -/
def otherHolders (s : State) (p : Packet) (pa : Nat) : List (Nat × Nat × Nat) := (holdersOf s (pa / 128)).filter (fun h => h.1 != p.source)

theorem readHere_answers {s : State} {p : Packet} {pa cls : Nat} (h : ¬4 ≤ ((otherHolders s p pa).map (fun h => h.1)).eraseDups.length) :
    readHere s p pa cls = .next (sendReply (modFabric s (addHolder (pa / 128) (p.source, p.job, p.addr / 128 * 128))) p 0x02
      (placePoisoned s (.glob (pa / 128 * 128) cls) 128) (readBase s (.glob (pa / 128 * 128) cls) 128)) := by
  unfold readHere
  rw [fifthHolder_few h]

theorem readHere_evicts {s : State} {p : Packet} {pa cls : Nat} {k : Nat × Nat × Nat} {r : List (Nat × Nat × Nat)}
    (h : 4 ≤ ((otherHolders s p pa).map (fun h => h.1)).eraseDups.length) (ho : otherHolders s p pa = k :: r) :
    readHere s p pa cls = evictSome s ((holdersOf s (pa / 128)).filter (fun z => z.1 == k.1)) := by
  obtain ⟨heq, hne⟩ := fifthHolder_many h ho
  unfold readHere
  rw [heq]
  split
  · next hnil => exact absurd hnil hne
  · rfl

/-! ### Writes (R413, R418) -/

theorem homeWrite_found {s : State} {p : Packet} {pa cls : Nat} (h : FoundHome s p .write pa cls) : homeWrite p s
    = if (holdersOf s (pa / 128)).isEmpty then
        .next (sendReply (markReleased p (pa / 128)
          ((packetRuns p).foldl (fun s r => writePlace s (.glob (pa / 128 * 128 + r.1) cls) r.2 p.poisoned) s)) p 0x07 false [])
      else evictLine s (pa / 128) :=
  withHome_found h

/-- A write is made once no peer holds its line, and acknowledged; until then the holders are told. -/
structure WritesHome (s : State) (p : Packet) (o : Out) (pa cls : Nat) : Prop where
  held : holdersOf s (pa / 128) ≠ [] → o = evictLine s (pa / 128) ∧ Goes (evictLine s (pa / 128))
  free : holdersOf s (pa / 128) = [] → o = .next (sendReply (markReleased p (pa / 128)
    ((packetRuns p).foldl (fun s r => writePlace s (.glob (pa / 128 * 128 + r.1) cls) r.2 p.poisoned) s)) p 0x07 false [])

theorem writesHome_of {s : State} {p : Packet} {o : Out} {pa cls : Nat} (ho : o = homeWrite p s) (h : FoundHome s p .write pa cls) :
    WritesHome s p o pa cls :=
  ⟨fun hh => ⟨(ho.trans (homeWrite_found h)).trans (if_neg (by rw [List.isEmpty_eq_false_iff.mpr hh]; exact Bool.false_ne_true)), evictLine_goes s _⟩,
    fun hh => (ho.trans (homeWrite_found h)).trans (if_pos (List.isEmpty_iff.mpr hh))⟩

/-! ### Atomics (R421) -/

/-- The record of an atomic that was performed before. -/
def atomRecord (s : State) (p : Packet) : Option (Nat × Nat × Nat × Nat) :=
  List.find? (fun a : Nat × Nat × Nat × Nat => a.1 == p.source && a.2.1 == p.plane && a.2.2.1 == p.tag) s.fabric.atomAnswers

/-- The width of an atomic packet in bytes, and its operation. -/
def atomWidth (p : Packet) : Nat := natOfBytes (p.payload.take 8) / 2 ^ 8 % 256

def atomOp (p : Packet) : AtomicOp :=
  if natOfBytes (p.payload.take 8) % 256 = 15 then .cas else atomicOf (natOfBytes (p.payload.take 8) % 256)

/-- Memory after an atomic packet on `pa`. -/
def atomWritten (s : State) (p : Packet) (pa cls : Nat) : State :=
  let old := natOfBytes (readBase s (.glob pa cls) (atomWidth p))
  let opnd := natOfBytes ((p.payload.drop 8).take 8)
  let cmp := natOfBytes ((p.payload.drop 16).take 8)
  if atomOp p = .cas ∧ old ≠ cmp % 2 ^ (8 * atomWidth p) then s
  else writePlace s (.glob pa cls) (bytesOfNat (atomWidth p) (atomicNew (atomOp p) (8 * atomWidth p) old opnd cmp).1) false

/-- What an atomic does once its word is found. -/
def atomHere (s : State) (p : Packet) (pa cls : Nat) : Out :=
  if !((holdersOf s (pa / 128)).isEmpty) then evictLine s (pa / 128)
  else if placePoisoned s (.glob pa cls) (atomWidth p) then .next (atomicReply s p true 0)
  else
    let old := natOfBytes (readBase s (.glob pa cls) (atomWidth p))
    .next (atomicReply (modFabric (markReleased p (pa / 128) (atomWritten s p pa cls)) (keepAnswer p old)) p false old)

section
variable {s : State} {p : Packet} (h : packetOk p = true) (hd : p.dest = s.pkg) (hk : p.kind = 5)
include h hd hk

theorem exec_atomicPacket_again {a : Nat × Nat × Nat × Nat} (ha : atomRecord s p = some a) :
    exec (.atomicPacket p) s = .next (atomicReply s p false a.2.2.2) := by
  refine (exec_atomicPacket p s).trans ((arrive_here h hk hd).trans ?_)
  unfold atomRecord at ha
  rw [ha]

theorem exec_atomicPacket_home (ha : atomRecord s p = none) (hok : atomicOk p = true) :
    exec (.atomicPacket p) s = withHome s p .atomic (atomHere s p) := by
  refine (exec_atomicPacket p s).trans ((arrive_here h hk hd).trans ?_)
  unfold atomRecord at ha
  rw [ha]
  dsimp only
  rw [if_neg (by rw [hok]; exact Bool.false_ne_true)]
  rfl

theorem exec_atomicPacket_found {pa cls : Nat} (ha : atomRecord s p = none) (hok : atomicOk p = true) (hf : FoundHome s p .atomic pa cls) :
    (holdersOf s (pa / 128) ≠ [] → exec (.atomicPacket p) s = evictLine s (pa / 128))
    ∧ (holdersOf s (pa / 128) = [] → placePoisoned s (.glob pa cls) (atomWidth p) = true → exec (.atomicPacket p) s = .next (atomicReply s p true 0))
    ∧ (holdersOf s (pa / 128) = [] → placePoisoned s (.glob pa cls) (atomWidth p) = false →
        let old := natOfBytes (readBase s (.glob pa cls) (atomWidth p))
        exec (.atomicPacket p) s
          = .next (atomicReply (modFabric (markReleased p (pa / 128) (atomWritten s p pa cls)) (keepAnswer p old)) p false old)) := by
  have hexec : exec (.atomicPacket p) s = atomHere s p pa cls := (exec_atomicPacket_home h hd hk ha hok).trans (withHome_found hf)
  refine ⟨fun hh => ?_, fun hh hp => ?_, fun hh hp => ?_⟩ <;> rw [hexec, atomHere]
  · rw [if_pos (by rw [List.isEmpty_eq_false_iff.mpr hh]; rfl)]
  · rw [if_neg (by rw [List.isEmpty_iff.mpr hh]; exact Bool.false_ne_true), if_pos hp]
  · rw [if_neg (by rw [List.isEmpty_iff.mpr hh]; exact Bool.false_ne_true), if_neg (by rw [hp]; exact Bool.false_ne_true)]

end

/-- Settles O46: a packet that arrives, and each request at its home. -/
theorem requestPackets : Obligations.RequestPackets := by
  unfold Obligations.RequestPackets
  constructor
  · intro s p kinds
    refine ⟨fun h k hk => arrivalInstrs_bad h hk, fun h hd he k hk hkind => ⟨fun hp => ?_, fun hp => ?_⟩⟩
    · exact (arrivalInstrs_pass h hd he hk hkind).trans (congrArg Host.Outcome.next (if_pos hp))
    · exact (arrivalInstrs_pass h hd he hk hkind).trans (congrArg Host.Outcome.next (if_neg (by rw [hp]; exact Bool.false_ne_true)))
  · intro s p h hd n width fresh asks found released write
    have hasks {i : Instr} {want : Want} {k : Nat → Nat → Out} (hi : exec i s = withHome s p want k) : asks i want := by
      obtain ⟨h1, h2, h3⟩ := asksHome_of hi
      exact ⟨h1, fun c x hc => ⟨h2 c x hc, h3 c x hc⟩⟩
    have hwrite {i : Instr} (hi : exec i s = homeWrite p s) : write i := by
      intro pa cls hf
      obtain ⟨h1, h2⟩ := writesHome_of hi hf
      refine ⟨h1, fun hh => ?_⟩
      have hw := h2 hh
      unfold markReleased at hw
      exact hw
    have hasksRead (hk : p.kind = 1) : asks (.readPacket p) .read := hasks (i := .readPacket p) (exec_readPacket_home h hd hk)
    have hasksWrite (hk : p.kind = 3) : asks (.writePacket p) .write := hasks (i := .writePacket p) (exec_writePacket_home h hd hk)
    have hasksMasked (hk : p.kind = 4) : asks (.maskedWrite p) .write := hasks (i := .maskedWrite p) (exec_maskedWrite_home h hd hk)
    refine ⟨fun hk => ⟨hasksRead hk, ?_⟩, fun hk => ⟨hasksWrite hk, hwrite (exec_writePacket_home h hd hk)⟩,
      fun hk => ⟨hasksMasked hk, hwrite (exec_maskedWrite_home h hd hk)⟩, fun hk => ⟨?_, ?_, ?_⟩, ?_⟩
    · intro pa cls hf line hs others many reader
      have hexec : exec (.readPacket p) s = readHere s p pa cls := (exec_readPacket_home h hd hk).trans (withHome_found hf)
      refine ⟨fun hm => hexec.trans (readHere_answers hm), fun k r hm ho => ?_⟩
      have hevict := hexec.trans (readHere_evicts hm ho)
      exact ⟨hevict, hevict ▸ evictSome_goes s _⟩
    · exact fun a b d old ha => exec_atomicPacket_again (a := (a, b, d, old)) h hd hk ha
    · exact fun hf => hasks (i := .atomicPacket p) (exec_atomicPacket_home h hd hk hf.1 hf.2)
    · intro pa cls hfresh hf place
      obtain ⟨hheld, hbad, hdone⟩ := exec_atomicPacket_found h hd hk hfresh.1 hfresh.2 hf
      exact ⟨fun hh => ⟨hheld hh, evictLine_goes s _⟩, hbad, hdone⟩
    · intro hk mine
      exact (exec_invalidatePacket p s).trans (arrive_here h hk hd)

end Sys2Proof.Machine
end

/-! # Answers at the initiator (R199, R245, R332, R333, R411, R412, R414, R415, R421) -/

section
namespace Sys2Proof.Machine

open Sys2Proof.Laws

/-! ## An answer to nothing -/

section
variable {s : State} {p : Packet} (h : packetOk p = true) (hd : p.dest = s.pkg)
include h hd

theorem exec_readData_unasked (hk : p.kind = 2) (ha : answered s p [1] = none) : exec (.readData p) s = .next s := by
  rw [exec_readData, execReadData, arrive_here h hk hd, ha]

theorem exec_atomicResult_unasked (hk : p.kind = 6) (ha : answered s p [5] = none) : exec (.atomicResult p) s = .next s := by
  rw [exec_atomicResult, execAtomicResult, arrive_here h hk hd, ha]

theorem exec_writeAcknowledgment_unasked (hk : p.kind = 7) (ha : answered s p [3, 4] = none) : exec (.writeAcknowledgment p) s = .next s := by
  rw [exec_writeAcknowledgment, execWriteAcknowledgment, arrive_here h hk hd, ha]

theorem exec_refusal_unasked (hk : p.kind = 8) (ha : answered s p [1, 3, 4, 5] = none) : exec (.refusal p) s = .next s := by
  rw [exec_refusal, execRefusal, arrive_here h hk hd, ha]

theorem exec_invalidateAcknowledgment_unasked (hk : p.kind = 10) (ha : answered s p [9] = none) :
    exec (.invalidateAcknowledgment p) s = .next s := by
  rw [exec_invalidateAcknowledgment, execInvalidateAcknowledgment, arrive_here h hk hd, ha]

theorem exec_messageAcknowledgment_unasked (hk : p.kind = 12) (ha : answered s p [0x0B] = none) :
    exec (.messageAcknowledgment p) s = .next s := by
  rw [exec_messageAcknowledgment, execMessageAcknowledgment, arrive_here h hk hd, ha]

end

/-! ## Data, results and acknowledgments -/

/-- The hint of the load that a packet asks data for. -/
def hintOf (s : State) (x : Sent) : Nat :=
  match x.purpose with
  | .load uid seq => loadHint s uid seq
  | _ => 0

/-- The state once the data of a line has come, with the copy that is kept of it. -/
def lineKept (s : State) (p : Packet) (id : Nat) (x : Sent) : State :=
  if x.stale = false ∧ hintOf s x ≠ 3 ∧ lineBusy (settled s id) (peerOf x.pkt) x.pkt.addr = false then
    keepCopy (settled s id) (peerOf x.pkt) x.pkt.addr (hintOf s x) p.payload p.poisoned
  else settled s id

section
variable {s : State} {p : Packet} (h : packetOk p = true) (hd : p.dest = s.pkg) {id : Nat} {x : Sent}
include h hd

theorem exec_readData_answered (hk : p.kind = 2) (ha : answered s p [1] = some (id, x)) : exec (.readData p) s
    = match x.purpose with
      | .load uid seq => .next (fillLoad x p.payload p.poisoned uid seq (lineKept s p id x))
      | _ => .next (lineKept s p id x) := by
  have hkeep (hint : Nat) : ((!x.stale && hint != 3 && !(lineBusy (settled s id) (peerOf x.pkt) x.pkt.addr)) = true)
      = (x.stale = false ∧ hint ≠ 3 ∧ lineBusy (settled s id) (peerOf x.pkt) x.pkt.addr = false) := by
    simp only [Bool.and_eq_true, Bool.not_eq_true', bne_iff_ne, ne_eq, and_assoc]
  rw [exec_readData, execReadData, arrive_here h hk hd, ha]
  dsimp only
  unfold lineKept hintOf
  simp only [hkeep] <;> cases x.purpose <;> rfl

theorem exec_atomicResult_answered (hk : p.kind = 6) (ha : answered s p [5] = some (id, x)) : exec (.atomicResult p) s
    = match x.purpose with
      | .rmw uid seq lane => .next (fillAtomic (settled s id) uid seq lane (natOfBytes (p.payload.take 8)) p.poisoned)
      | .encode team uid tid desc row col => .next (fillAppend (settled s id) team uid tid desc row col (natOfBytes (p.payload.take 8)) p.poisoned)
      | .store uid _ =>
        if p.poisoned then
          (match List.find? (fun p : Nat × Wave => p.2.uid == uid) s.waves, carried s uid id with
           | some _, b :: _ => .next (resultPoisoned (dropCarried (settled s id) uid id) b)
           | _, _ => stall s)
        else .next (dropCarried (atomicFlags (settled s id) uid id (natOfBytes (p.payload.take 8))) uid id)
      | _ => .next (settled s id) := by
  rw [exec_atomicResult, execAtomicResult, arrive_here h hk hd, ha] <;> dsimp only <;> cases x.purpose <;> rfl

theorem exec_writeAcknowledgment_answered (hk : p.kind = 7) (ha : answered s p [3, 4] = some (id, x)) : exec (.writeAcknowledgment p) s
    = match x.purpose with
      | .store uid _ => .next (dropCarried (settled s id) uid id)
      | _ => .next (settled s id) := by
  rw [exec_writeAcknowledgment, execWriteAcknowledgment, arrive_here h hk hd, ha] <;> dsimp only <;> cases x.purpose <;> rfl

theorem exec_refusal_answered (hk : p.kind = 8) (ha : answered s p [1, 3, 4, 5] = some (id, x)) : exec (.refusal p) s
    = if natOfBytes (p.payload.take 2) / 2 ^ 8 = 0 then .next (delayed s id (natOfBytes (p.payload.take 2))) else .next (failSent s id x) := by
  rw [exec_refusal, execRefusal, arrive_here h hk hd, ha]

theorem exec_invalidateAcknowledgment_answered (hk : p.kind = 10) (ha : answered s p [9] = some (id, x)) :
    exec (.invalidateAcknowledgment p) s = .next (modFabric (settled s id) (fun f => { f with directory :=
      (f.directory.map (fun d => (d.1, d.2.filter (fun k => k != (x.pkt.dest, x.pkt.job, x.pkt.addr))))).filter (fun d => !d.2.isEmpty) })) := by
  rw [exec_invalidateAcknowledgment, execInvalidateAcknowledgment, arrive_here h hk hd, ha]

theorem exec_messageAcknowledgment_answered (hk : p.kind = 12) (ha : answered s p [0x0B] = some (id, x)) : exec (.messageAcknowledgment p) s
    = if natOfBytes (p.payload.take 2) % 256 = 1 then .next (delayed s id (natOfBytes (p.payload.take 2) / 256))
      else .next (messageOver (settled s id) x (natOfBytes (p.payload.take 2) % 256 == 2)) := by
  rw [exec_messageAcknowledgment, execMessageAcknowledgment, arrive_here h hk hd, ha]

end

/-! ## What a packet was sent for -/

section
variable {s : State} {p : Packet} (h : packetOk p = true) (hd : p.dest = s.pkg) {id : Nat} {x : Sent} {uid seq : Nat}
include h hd

theorem exec_readData_load (hk : p.kind = 2) (ha : answered s p [1] = some (id, x)) (hx : x.purpose = .load uid seq) :
    exec (.readData p) s = .next (fillLoad x p.payload p.poisoned uid seq (lineKept s p id x)) := by
  rw [exec_readData_answered h hd hk ha, hx]

theorem exec_readData_other (hk : p.kind = 2) (ha : answered s p [1] = some (id, x)) (hx : ∀ uid seq, x.purpose ≠ .load uid seq) :
    exec (.readData p) s = .next (lineKept s p id x) := by
  rw [exec_readData_answered h hd hk ha]
  split
  · next u q hload => exact absurd hload (hx u q)
  · rfl

theorem exec_atomicResult_store (hk : p.kind = 6) (ha : answered s p [5] = some (id, x)) (hx : x.purpose = .store uid seq)
    (hp : p.poisoned = false) :
    exec (.atomicResult p) s = .next (dropCarried (atomicFlags (settled s id) uid id (natOfBytes (p.payload.take 8))) uid id) := by
  rw [exec_atomicResult_answered h hd hk ha, hx]
  simp only [hp, Bool.false_eq_true, if_false]

theorem exec_atomicResult_poisoned (hk : p.kind = 6) (ha : answered s p [5] = some (id, x)) (hx : x.purpose = .store uid seq)
    (hp : p.poisoned = true) {k : Nat × Wave} {b : BufStore} {r : List BufStore}
    (hw : List.find? (fun p : Nat × Wave => p.2.uid == uid) s.waves = some k) (hb : carried s uid id = b :: r) :
    exec (.atomicResult p) s = .next (resultPoisoned (dropCarried (settled s id) uid id) b) := by
  rw [exec_atomicResult_answered h hd hk ha, hx]
  simp only [hp, if_true, hw, hb]

theorem exec_writeAcknowledgment_store (hk : p.kind = 7) (ha : answered s p [3, 4] = some (id, x)) (hx : x.purpose = .store uid seq) :
    exec (.writeAcknowledgment p) s = .next (dropCarried (settled s id) uid id) := by
  rw [exec_writeAcknowledgment_answered h hd hk ha, hx]

theorem exec_writeAcknowledgment_other (hk : p.kind = 7) (ha : answered s p [3, 4] = some (id, x)) (hx : ∀ uid seq, x.purpose ≠ .store uid seq) :
    exec (.writeAcknowledgment p) s = .next (settled s id) := by
  rw [exec_writeAcknowledgment_answered h hd hk ha]
  split
  · next u q hstore => exact absurd hstore (hx u q)
  · rfl

end

/-! ## Packets that are sent again (R332, R333) -/

/-- No earlier packet to the line, or to the ring, of packet `id` waits to be sent again. -/
def NoneBefore (s : State) (id : Nat) (x : Sent) : Prop :=
  ∀ y ∈ s.fabric.sent, y.1 < id → y.2.retry ≠ none → y.2.pkt.dest = x.pkt.dest →
    ¬(memoryKind y.2.pkt.kind = true ∧ memoryKind x.pkt.kind = true ∧ y.2.pkt.addr / 128 = x.pkt.addr / 128)
    ∧ ¬(y.2.pkt.kind = 0x0B ∧ x.pkt.kind = 0x0B ∧ y.2.pkt.tag = x.pkt.tag)

section
variable {s : State} {id : Nat} {x : Sent} (hnone : NoneBefore s id x)
include hnone

theorem noneBefore_line : s.fabric.sent.any (fun y => decide (y.1 < id) && y.2.retry.isSome && memoryKind y.2.pkt.kind && memoryKind x.pkt.kind
      && y.2.pkt.dest == x.pkt.dest && y.2.pkt.addr / 128 == x.pkt.addr / 128) = false := by
  refine List.any_eq_false.mpr fun y hy hc => ?_
  simp only [Bool.and_eq_true, decide_eq_true_eq, beq_iff_eq, Option.isSome_iff_ne_none] at hc
  obtain ⟨⟨⟨⟨⟨hlt, hr⟩, hky⟩, hkx⟩, hdest⟩, hline⟩ := hc
  exact (hnone y hy hlt hr hdest).1 ⟨hky, hkx, hline⟩

theorem noneBefore_ring : s.fabric.sent.any (fun y => decide (y.1 < id) && y.2.retry.isSome && y.2.pkt.kind == 0x0B && x.pkt.kind == 0x0B
      && y.2.pkt.dest == x.pkt.dest && y.2.pkt.tag == x.pkt.tag) = false := by
  refine List.any_eq_false.mpr fun y hy hc => ?_
  simp only [Bool.and_eq_true, decide_eq_true_eq, beq_iff_eq, Option.isSome_iff_ne_none] at hc
  obtain ⟨⟨⟨⟨⟨hlt, hr⟩, hky⟩, hkx⟩, hdest⟩, htag⟩ := hc
  exact (hnone y hy hlt hr hdest).2 ⟨hky, hkx, htag⟩

theorem exec_retryAfterResend_goes (hx : Tbl.find? s.fabric.sent id = some x) (hr : x.retry = some 0) (hl : x.lost = false)
    (hp : pathUsable s x.pkt.plane x.pkt.dest x.pkt.path = true) : exec (.retryAfterResend id) s
      = .next (modFabric s (fun f => { f with sent := Tbl.put f.sent id { x with retry := none }, out := f.out ++ [x.pkt] })) := by
  rw [exec_retryAfterResend, execRetryAfterResend, hx]
  exact if_pos ⟨hr, noneBefore_line hnone, noneBefore_ring hnone, hl, hp⟩

end

/-- Settles O47: each answer, by what its packet was sent for. -/
theorem answerPackets : Obligations.AnswerPackets := by
  unfold Obligations.AnswerPackets
  intro s p h hd old n
  refine ⟨⟨exec_readData_unasked h hd, exec_atomicResult_unasked h hd, exec_writeAcknowledgment_unasked h hd, exec_refusal_unasked h hd,
    exec_invalidateAcknowledgment_unasked h hd, exec_messageAcknowledgment_unasked h hd⟩, ?_, ?_, ?_, ?_, ?_, ?_, ?_, ?_, ?_⟩
  · intro id x hk ha hint done kept
    exact ⟨fun uid seq hx => exec_readData_load h hd hk ha hx, fun hx => exec_readData_other h hd hk ha hx⟩
  · intro id x hk ha
    refine ⟨fun uid seq lane hx => ?_, fun team uid tid desc row col hx => ?_,
      fun uid seq hx => ⟨fun hp => exec_atomicResult_store h hd hk ha hx hp, fun hp k w b r hw hb => exec_atomicResult_poisoned h hd hk ha hx hp hw hb⟩⟩
    · rw [exec_atomicResult_answered h hd hk ha, hx]
      rfl
    · rw [exec_atomicResult_answered h hd hk ha, hx]
  · exact fun id x hk ha => ⟨fun uid seq hx => exec_writeAcknowledgment_store h hd hk ha hx, fun hx => exec_writeAcknowledgment_other h hd hk ha hx⟩
  · intro id x hk ha
    exact ⟨fun hz => (exec_refusal_answered h hd hk ha).trans ((if_pos hz).trans (by rw [delayed])),
      fun hz => (exec_refusal_answered h hd hk ha).trans (if_neg hz)⟩
  · intro id x
    refine ⟨fun uid seq hx => ?_, fun uid seq hx => ?_, fun uid op c k hx => ?_⟩ <;> simp only [failSent, hx]
  · exact fun id x hk ha => exec_invalidateAcknowledgment_answered h hd hk ha
  · intro id x hk ha
    exact ⟨fun hz => (exec_messageAcknowledgment_answered h hd hk ha).trans ((if_pos hz).trans (by rw [delayed])),
      fun hz => (exec_messageAcknowledgment_answered h hd hk ha).trans (if_neg hz)⟩
  · intro id x uid op c k failed hx
    simp only [messageOver, hx]
  · exact fun id x hx hr hl hp hnone => exec_retryAfterResend_goes hnone hx hr hl hp

end Sys2Proof.Machine
end

/-! # Messages, emitted packets, and links that degrade (R402, R408, R409, R419, R420, R424 to R428, R430 to R432, R436, R437, R500) -/

section
namespace Sys2Proof.Machine

open Sys2Proof.Laws

/-! ## Messages and emitted packets -/

/-- How far ahead of the expected one the number of a message is (R420). -/
def aheadOf (s : State) (p : Packet) : Nat := (p.seq + 65536 - Cells.get 0 s.fabric.seqIn (seqKey p.source p.tag)) % 65536

/-- A message of the ring is held by the die. -/
def ringHeld (s : State) (p : Packet) : Bool := s.fabric.heldMsgs.any (fun h => h.pkt.tag == p.tag && h.pkt.job == p.job)

/-- The message is held no longer. -/
def notHeld (s : State) (p : Packet) : State := modFabric s (fun f => { f with heldMsgs := f.heldMsgs.filter (fun h => !(h.pkt == p)) })

section
variable {s : State} {p : Packet} {passed : Bool}

theorem placeMessage_noContext (hc : ctxWithJob s p.job = none) : placeMessage s p passed = .next (answerMessage (notHeld s p) p 2 0) := by
  simp only [placeMessage, hc, notHeld]

variable {c : Nat} {x : Context} (hc : ctxWithJob s p.job = some (c, x))
include hc

theorem placeMessage_noRing (hr : ringOf x p.tag = none) : placeMessage s p passed = .next (answerMessage (notHeld s p) p 2 0) := by
  simp only [placeMessage, hc, hr, notHeld]

variable {k : Nat} (hr : ringOf x p.tag = some k)
include hr

theorem placeMessage_placed {t : State} (ht : placeRing s c x k p.source p.addr p.payload p.poisoned = .placed t) :
    placeMessage s p passed = .next (answerMessage (notHeld t p) p 0 0) := by
  simp only [placeMessage, hc, hr, ht, notHeld]

theorem placeMessage_noBuffer (ht : placeRing s c x k p.source p.addr p.payload p.poisoned = .noBuffer) :
    placeMessage s p passed = .next (refuseMessage s p passed) := by
  simp only [placeMessage, hc, hr, ht]

end

section
variable {s : State} {p : Packet} (h : packetOk p = true) (hd : p.dest = s.pkg) (hk : p.kind = 11)
include h hd hk

/-- MESSAGE, by the number it carries. -/
theorem exec_messagePacket_at : exec (.messagePacket p) s
    = if aheadOf s p = 0 then
        if messageInBox s p then .next s
        else if ringHeld s p then stall s
        else
          match matchBox s p 0 with
          | some (sel, b) => .next (offerPacket s sel p b 0)
          | none => placeMessage s p false
      else if 32768 ≤ aheadOf s p then
        match List.find? (fun a : Nat × Nat × Nat × Nat => a.1 == p.source && a.2.1 == p.tag && a.2.2.1 == p.seq) s.fabric.msgAnswers with
        | some a => .next (sendReply s p 0x0C false (bytesOfNat 2 a.2.2.2 ++ List.replicate 30 0))
        | none => .next s
      else stall s := by
  rw [exec_messagePacket, execMessagePacket, arrive_here h hk hd]
  rfl

theorem exec_messagePacket_inBox (ha : aheadOf s p = 0) (hb : messageInBox s p = true) : exec (.messagePacket p) s = .next s := by
  rw [exec_messagePacket_at h hd hk, if_pos ha, if_pos hb]

theorem exec_messagePacket_behind (ha : aheadOf s p = 0) (hb : messageInBox s p = false) (hh : ringHeld s p = true) :
    exec (.messagePacket p) s = stall s := by
  rw [exec_messagePacket_at h hd hk, if_pos ha, if_neg (ne_true_of_eq_false hb), if_pos hh]

theorem exec_messagePacket_turn (ha : aheadOf s p = 0) (hb : messageInBox s p = false) (hh : ringHeld s p = false) : exec (.messagePacket p) s
    = match matchBox s p 0 with
      | some (sel, b) => .next (offerPacket s sel p b 0)
      | none => placeMessage s p false := by
  rw [exec_messagePacket_at h hd hk, if_pos ha, if_neg (ne_true_of_eq_false hb), if_neg (ne_true_of_eq_false hh)]

theorem exec_messagePacket_ahead (h0 : 0 < aheadOf s p) (hlt : aheadOf s p < 32768) : exec (.messagePacket p) s = stall s := by
  rw [exec_messagePacket_at h hd hk, if_neg (Nat.ne_of_gt h0), if_neg (Nat.not_le.mpr hlt)]

theorem exec_messagePacket_again (ha : 32768 ≤ aheadOf s p) {a : Nat × Nat × Nat × Nat}
    (hf : List.find? (fun a : Nat × Nat × Nat × Nat => a.1 == p.source && a.2.1 == p.tag && a.2.2.1 == p.seq) s.fabric.msgAnswers = some a) :
    exec (.messagePacket p) s = .next (sendReply s p 0x0C false (bytesOfNat 2 a.2.2.2 ++ List.replicate 30 0)) := by
  rw [exec_messagePacket_at h hd hk, if_neg (by omega), if_pos ha, hf]

theorem exec_messagePacket_offered (ha : aheadOf s p = 0) (hb : messageInBox s p = false) (hh : ringHeld s p = false) {sel : Nat} {b : Binding}
    (hm : matchBox s p 0 = some (sel, b)) : exec (.messagePacket p) s = .next (offerPacket s sel p b 0) := by
  rw [exec_messagePacket_turn h hd hk ha hb hh, hm]

theorem exec_messagePacket_placed (ha : aheadOf s p = 0) (hb : messageInBox s p = false) (hh : ringHeld s p = false)
    (hm : matchBox s p 0 = none) : exec (.messagePacket p) s = placeMessage s p false := by
  rw [exec_messagePacket_turn h hd hk ha hb hh, hm]

end

section
variable {s : State} {p : Packet}

theorem placeEmitted_noContext (hc : ctxWithJob s p.job = none) : placeEmitted s p = .ok (countDropped s p.plane) := by
  simp only [placeEmitted, hc]

variable {c : Nat} {x : Context} (hc : ctxWithJob s p.job = some (c, x))
include hc

theorem placeEmitted_noRing (hr : ringOf x p.tag = none) : placeEmitted s p = .ok (countDropped s p.plane) := by
  simp only [placeEmitted, hc, hr]

variable {k : Nat} (hr : ringOf x p.tag = some k)
include hr

theorem placeEmitted_placed {t : State} (ht : placeRing s c x k p.source p.addr p.payload p.poisoned = .placed t) : placeEmitted s p = .ok t := by
  simp only [placeEmitted, hc, hr, ht]

theorem placeEmitted_noBuffer (ht : placeRing s c x k p.source p.addr p.payload p.poisoned = .noBuffer) :
    placeEmitted s p = .ok (countDropped s p.plane) := by
  simp only [placeEmitted, hc, hr, ht]

end

section
variable {s : State} {p : Packet} (h : packetOk p = true) (hd : p.dest = s.pkg) (hk : p.kind = 13)
include h hd hk

theorem exec_emittedPacket_offered {sel : Nat} {b : Binding} (hm : matchBox s p 0 = some (sel, b)) :
    exec (.emittedPacket p) s = .next (offerPacket s sel p b 0) := by
  rw [exec_emittedPacket, execEmittedPacket, arrive_here h hk hd, hm]

theorem exec_emittedPacket_placed (hm : matchBox s p 0 = none) {t : State} (ht : placeEmitted s p = .ok t) :
    exec (.emittedPacket p) s = .next t := by
  rw [exec_emittedPacket, execEmittedPacket, arrive_here h hk hd, hm, ht]
  rfl

end

theorem exec_managementPacket_here {s : State} {p : Packet} (h : packetOk p = true) (hd : p.dest = s.pkg) (hk : p.kind = 14) :
    exec (.managementPacket p) s = .next (modFabric s (fun f =>
      { f with
        routes := (Config.routeUpdate p.payload).foldl
          (fun t r => if r.2 < 64 ∧ (getPort s r.2).retired = false then Tbl.put t r.1 r.2 else Tbl.del t r.1) f.routes })) := by
  rw [exec_managementPacket, execManagementPacket, arrive_here h hk hd]

section
variable {s : State} {ring job : Nat} {h : HeldMsg} (hf : List.find? (fun h : HeldMsg => h.pkt.tag == ring && h.pkt.job == job) s.fabric.heldMsgs = some h)
include hf

theorem exec_heldMessageRetry_early (hl : h.left ≠ 0) : exec (.heldMessageRetry ring job) s = stall s := by
  rw [exec_heldMessageRetry, execHeldMessageRetry, hf]
  exact if_pos hl

theorem exec_heldMessageRetry_due (hl : h.left = 0) {t : State} (ht : placeMessage s h.pkt true = .next t) :
    exec (.heldMessageRetry ring job) s = .next (orIdle s t) := by
  rw [exec_heldMessageRetry, execHeldMessageRetry, hf]
  dsimp only
  rw [if_neg (not_not_intro hl), ht, orIdle]
  dsimp only
  split <;> rfl

end

theorem exec_boxPacketRun_starts {s : State} {box : Nat} {q : Packet} {b : Binding} {stage : Nat} {rest : List (Packet × Binding × Nat)}
    (hr : (getBox s box).run = none) (ho : (getBox s box).offered = (q, b, stage) :: rest) : exec (.boxPacketRun box) s
      = .next (setBox s box { getBox s box with offered := rest, run := some (startRun q b stage) }) := by
  rw [exec_boxPacketRun]
  unfold execBoxPacketRun
  simp only [hr, ho]

/-! ## Links, ports, planes and packages -/

section
variable {s : State} {port : Nat} (hp : port < 64)
include hp

theorem exec_linkReplay_counts {n : Nat} (hn : 0 < n) :
    exec (.linkReplay port n) s = .next (modPort s port (fun x => { x with corrected := countUp x.corrected n })) := by
  rw [exec_linkReplay]
  exact if_pos ⟨hp, hn⟩

theorem exec_linkEyeUpdate_measures (margin : Nat) :
    exec (.linkEyeUpdate port margin) s = .next (modPort s port (fun x => { x with margin := min 255 margin })) := by
  rw [exec_linkEyeUpdate]
  exact if_pos hp

theorem exec_linkRetrain_trains {n : Nat} (margin : Nat) (hn : n = 0 ∨ n = 1 ∨ n = 2 ∨ n = 4) : exec (.linkRetrain port n margin) s
    = .next (if n = 0 then retirePort (modPort s port (fun x => { x with lanes := n, retrains := countUp x.retrains 1, margin := min 255 margin })) port
        else modPort s port (fun x => { x with lanes := n, retrains := countUp x.retrains 1, margin := min 255 margin })) := by
  rw [exec_linkRetrain]
  exact if_pos ⟨hp, hn⟩

theorem exec_portRetire_retires (hr : (getPort s port).retired = false) : exec (.portRetire port) s = .next (retirePort s port) := by
  rw [exec_portRetire]
  exact if_pos ⟨hp, hr⟩

end

theorem exec_planeDead_dies {s : State} {plane : Nat} (hp : plane < 8) (hl : planeLive s plane = true)
    (hr : ∀ k, k < 8 → (getPort s (plane * 8 + k)).retired = true) : exec (.planeDead plane) s
      = .next (raiseMsi ((planeBoxes plane).foldl dropBox (modHub s (fun h => { h with
          planesLive := h.planesLive - 2 ^ plane
          planesReady := h.planesReady - h.planesReady / 2 ^ plane % 2 * 2 ^ plane }))) 0) := by
  rw [exec_planeDead]
  exact if_pos ⟨hp, hl, List.all_eq_true.mpr fun k hk => hr k (List.mem_range.mp hk)⟩

/-- Taking bit `p` away from a number that has it clears the bit. -/
theorem bit_cleared {n p : Nat} (h : n / 2 ^ p % 2 = 1) : ¬(n - 2 ^ p) / 2 ^ p % 2 = 1 := by
  have hsub : (n - 2 ^ p) / 2 ^ p = n / 2 ^ p - 1 := by
    have := Nat.sub_mul_div n (2 ^ p) 1
    rwa [Nat.mul_one] at this
  omega

theorem planeLive_dead {s : State} {plane r : Nat} (hl : planeLive s plane = true) :
    planeLive (modHub s (fun h => { h with planesLive := h.planesLive - 2 ^ plane, planesReady := r })) plane = false :=
  decide_eq_false (bit_cleared (of_decide_eq_true hl))

/-! ### The boxes of a dead plane (R436) -/

@[simp] theorem boxes_writePhysCls (s : State) (cls pa : Nat) (bs : List Byte) (poison : Bool) :
    (writePhysCls s cls pa bs poison).boxes = s.boxes := by
  obtain ⟨ks, ms, ts, cs, rs, h⟩ := writePhysCls_rest s cls pa bs poison
  rw [h]

@[simp] theorem boxes_writePlace (s : State) (p : Place) (bs : List Byte) (poison : Bool) : (writePlace s p bs poison).boxes = s.boxes := by
  unfold writePlace
  cases p with
  | glob a cls => exact boxes_writePhysCls s cls a bs poison
  | spad t a => rfl
  | stack w l a =>
    dsimp only
    split <;> rfl
  | remote q a => rfl

@[simp] theorem boxes_dropCopy (s : State) (pkg addr : Nat) : (dropCopy s pkg addr).boxes = s.boxes := by
  unfold dropCopy dropL2
  dsimp only
  split
  · split <;> rfl
  · rfl

theorem boxes_deviceLine {s t : State} {x : Context} {addr : Nat} {bs : List Byte} {poison : Bool} (h : deviceLine s x addr bs poison = .ok t) :
    t.boxes = s.boxes := by
  unfold deviceLine at h
  split at h
  · cases h
  · split at h
    · cases h
      rfl
    · split at h
      · cases h
        exact boxes_dropCopy s _ _
      · cases h
  · split at h
    · cases h
    · cases h
      exact boxes_writePlace s _ bs poison

theorem boxes_deviceRun {x : Context} {poison : Bool} : ∀ (n : Nat) {s t : State} {addr : Nat} {bs : List Byte},
    deviceRun x poison n s addr bs = .ok t → t.boxes = s.boxes
  | 0, s, t, _, _, h => by cases h; rfl
  | _ + 1, s, t, _, [], h => by cases h; rfl
  | n + 1, s, t, addr, b :: bs, h => by
    simp only [deviceRun] at h
    split at h
    · cases h
    · next u hu => exact (boxes_deviceRun n h).trans (boxes_deviceLine hu)

theorem boxes_placeRing {s t : State} {c : Nat} {x : Context} {k src tag : Nat} {data : List Byte} {poison : Bool}
    (h : placeRing s c x k src tag data poison = .placed t) : t.boxes = s.boxes := by
  unfold placeRing at h
  dsimp only at h
  split at h
  · cases h
  · split at h
    · cases h
    · split at h
      all_goals cases h
      next u hu => exact (boxes_deviceRun _ hu : u.boxes = s.boxes)

theorem boxes_eventRecord (s : State) (job event box reason : Nat) (rec : List Byte) : (eventRecord s job event box reason rec).boxes = s.boxes := by
  unfold eventRecord
  split
  · rfl
  · dsimp only
    split
    · split
      · rfl
      · split
        · split
          · rfl
          · split
            · next hu => exact boxes_placeRing hu
            · rfl
        · split
          · next hu =>
            have ht := boxes_placeRing hu
            split
            · exact ht
            · split
              · next hv => exact (boxes_placeRing hv).trans ht
              · exact ht
          · rfl
    · rfl

theorem getBox_setBox_same (s : State) (sel : Nat) (b : SigBox) : getBox (setBox s sel b) sel = b := by
  simp only [getBox, setBox, Tbl.find?_put_same, Option.getD_some]

theorem getBox_of_boxes {s t : State} (h : t.boxes = s.boxes) (sel : Nat) : getBox t sel = getBox s sel := by
  simp only [getBox, h]

/-- A box of a dead plane has neither a kernel nor a binding. -/
theorem getBox_dropBox (s : State) (sel : Nat) :
    getBox (dropBox s sel) sel = { getBox s sel with kernel := [], bindings := [], offered := [], run := none } := by
  have hfold : ∀ (bs : List Binding) (t : State),
      (bs.foldl (fun s x => eventRecord s x.job x.event sel 6 (trapRecord 0 6 0 sel 0 0 (List.replicate 8 0))) t).boxes = t.boxes := by
    intro bs
    induction bs with
    | nil => exact fun t => rfl
    | cons b bs ih => exact fun t => (ih _).trans (boxes_eventRecord t _ _ _ _ _)
  unfold dropBox
  exact (getBox_of_boxes (hfold _ _) sel).trans (getBox_setBox_same s sel _)

/-! ### Plane maps, lost packets and unreachable packages (R425, R426, R428) -/

section
variable {s : State} {map : List Nat}

theorem exec_planeMapChange_installs (hlen : map.length = 8) (hlive : ∀ q ∈ map, q < 8 ∧ planeLive s q = true) (hne : changedPlanes s map ≠ [])
    (hdrained : ∀ x ∈ s.fabric.sent, (changedPlanes s map).contains (logicalOf x.2.pkt) = true →
      x.2.lost = true ∨ pathUsable s x.2.pkt.plane x.2.pkt.dest x.2.pkt.path = false) :
    exec (.planeMapChange map) s = .next (modHub (modFabric s (fun f =>
        { f with sent := f.sent.map (fun x =>
            if (changedPlanes s map).contains (logicalOf x.2.pkt) then (x.1, { x.2 with lost := true }) else x) }))
      (fun h => { h with planeMap := map, mapVersion := (h.mapVersion + 1) % 2 ^ 24 })) := by
  rw [exec_planeMapChange]
  refine if_pos ⟨hlen, List.all_eq_true.mpr fun q hq => ?_, hne, List.all_eq_true.mpr fun x hx => ?_⟩
  · obtain ⟨hlt, hl⟩ := hlive q hq
    rw [hl, decide_eq_true hlt]
    rfl
  · cases hc : (changedPlanes s map).contains (logicalOf x.2.pkt) with
    | false => rfl
    | true =>
      obtain hlost | hpath := hdrained x hx hc
      · rw [hlost, Bool.or_true, Bool.true_or]
      · rw [hpath, Bool.not_false, Bool.or_true]

variable {id path : Nat} {x : Sent}

theorem isLost_iff : isLost s x = true ↔ x.lost = true ∨ pathUsable s x.pkt.plane x.pkt.dest x.pkt.path = false
    ∨ x.pkt.plane ≠ physPlane s (logicalOf x.pkt) := by
  simp only [isLost, Bool.or_eq_true, Bool.not_eq_true', decide_eq_true_eq, or_assoc]

theorem exec_lostPacketResend_goes (hx : Tbl.find? s.fabric.sent id = some x) (hpath : path < 4) (hlost : isLost s x = true)
    (hfirst : ∀ y ∈ s.fabric.sent, y.1 < id → isLost s y.2 = true → sameOrder y.2.pkt x.pkt = false)
    (hp : pathUsable s (physPlane s (logicalOf x.pkt)) x.pkt.dest path = true) :
    exec (.lostPacketResend id path) s = .next (modFabric s (fun f => { f with
      sent := Tbl.put f.sent id { x with
        pkt := { x.pkt with plane := physPlane s (logicalOf x.pkt), path := path }
        lost := false
        retry := none }
      out := f.out ++ [{ x.pkt with plane := physPlane s (logicalOf x.pkt), path := path }] })) := by
  rw [exec_lostPacketResend, execLostPacketResend, hx]
  refine if_pos ⟨hlost, List.all_eq_true.mpr fun y hy => ?_, hp, hpath⟩
  by_cases hlt : y.1 < id
  · cases hl : isLost s y.2 with
    | false => rw [Bool.not_false, Bool.or_true, Bool.true_or]
    | true => rw [hfirst y hy hlt hl, Bool.not_false, Bool.or_true]
  · rw [decide_eq_true (Nat.not_lt.mp hlt), Bool.true_or, Bool.true_or]

end

theorem exec_packageUnreachable_fails {s : State} {pkg : Nat} (hself : pkg ≠ s.pkg) (hpkg : pkg < 4096)
    (hu : s.fabric.unreachable.contains pkg = false) :
    let t := modFabric s (fun f => { f with
      unreachable := f.unreachable ++ [pkg]
      directory := (f.directory.map (fun d => (d.1, d.2.filter (fun h => h.1 != pkg)))).filter (fun d => !d.2.isEmpty) })
    exec (.packageUnreachable pkg) s = .next ((t.fabric.sent.filter (fun x => x.2.pkt.dest == pkg)).foldl (fun t x => failSent t x.1 x.2) t) := by
  have hno : ¬(pkg = s.pkg ∨ 4096 ≤ pkg ∨ s.fabric.unreachable.contains pkg = true) := by
    rintro (he | hle | hc)
    · exact hself he
    · exact absurd hpkg (Nat.not_lt.mpr hle)
    · exact ne_true_of_eq_false hu hc
  intro t
  rw [exec_packageUnreachable]
  exact if_neg hno

/-- Settles O48: messages and emitted packets in their turn, and the links that carry them. -/
theorem messagesAndLinks : Obligations.MessagesAndLinks := by
  unfold Obligations.MessagesAndLinks
  constructor
  · intro s p box
    refine ⟨fun h hd => ⟨fun hk ha => ⟨exec_messagePacket_inBox h hd hk ha, exec_messagePacket_behind h hd hk ha, fun hb hh => ?_⟩,
        fun hk => exec_messagePacket_ahead h hd hk, fun hk ha a b d n hf => exec_messagePacket_again h hd hk ha (a := (a, b, d, n)) hf, fun hk => ?_,
        fun hk => exec_managementPacket_here h hd hk⟩,
      fun ring job hm t hf => ⟨exec_heldMessageRetry_early hf, fun hl => exec_heldMessageRetry_due hf hl⟩,
      fun q b stage rest hr ho => exec_boxPacketRun_starts hr ho⟩
    · have hplace (hm : matchBox s p 0 = none) := exec_messagePacket_placed h hd hk ha hb hh hm
      exact ⟨fun sel b hm => exec_messagePacket_offered h hd hk ha hb hh hm, fun hm hc => (hplace hm).trans (placeMessage_noContext hc),
        fun c x hm hc => ⟨fun hr => (hplace hm).trans (placeMessage_noRing hc hr), fun k hr =>
          ⟨fun t ht => (hplace hm).trans (placeMessage_placed hc hr ht), fun ht => (hplace hm).trans (placeMessage_noBuffer hc hr ht)⟩⟩⟩
    · have hplace (hm : matchBox s p 0 = none) {t : State} (ht : placeEmitted s p = .ok t) := exec_emittedPacket_placed h hd hk hm ht
      exact ⟨fun sel b hm => exec_emittedPacket_offered h hd hk hm, fun hm hc => hplace hm (placeEmitted_noContext hc),
        fun c x hm hc => ⟨fun hr => hplace hm (placeEmitted_noRing hc hr), fun k hr =>
          ⟨fun t ht => hplace hm (placeEmitted_placed hc hr ht), fun ht => hplace hm (placeEmitted_noBuffer hc hr ht)⟩⟩⟩
  · intro s port n margin hp retires
    refine ⟨exec_linkReplay_counts hp, exec_linkEyeUpdate_measures hp margin, fun hn => exec_linkRetrain_trains hp margin hn,
      exec_portRetire_retires hp, fun plane hpl hl hr => ⟨exec_planeDead_dies hpl hl hr, planeLive_dead hl, fun u sel => ?_⟩,
      fun map hlen hlive hne hdrained => exec_planeMapChange_installs hlen hlive hne hdrained,
      fun id path x hx hpath hlost hfirst hpu => exec_lostPacketResend_goes hx hpath (isLost_iff.mpr hlost) hfirst hpu,
      fun pkg => exec_packageUnreachable_fails⟩
    rw [getBox_dropBox]
    exact ⟨rfl, rfl⟩

end Sys2Proof.Machine
end

/-! # Memory service, power and counters (R474 to R478, R480 to R482, R488 to R490, R494, R495, R497, R498) -/

section
namespace Sys2Proof.Machine

open Sys2Proof.Laws

@[simp] theorem getStack_setStack_same (s : State) (k : Nat) (x : Stack) : getStack (setStack s k x) k = x := by
  simp only [getStack, setStack, Tbl.find?_put_same, Option.getD_some]

/-! ## Patrol and the on-die scrub -/

/-- What a read that finds an uncorrectable error does: the error is counted, and the line of memory, where it has one, is poisoned. -/
def patrolLost (s : State) (k channel : Nat) (x : Stack) : Option Nat → State
  | some l => { setStack s k (chanCount channel 1 1 x) with tags := Cells.set 0 s.tags l (getTag s l ||| 8) }
  | none => setStack s k (chanCount channel 1 1 x)

section
variable {s : State} {k channel line : Nat} (hk : k < 16) (he : (getStack s k).enable = true)
  (hc : channel ∈ dataChannels (getStack s k)) (hl : line < chanLines)
include hk he hc hl

theorem mayPatrol : ¬(16 ≤ k ∨ (getStack s k).enable = false ∨ (dataChannels (getStack s k)).contains channel = false ∨ chanLines ≤ line) := by
  rintro (hle | hf | hn | hge)
  · exact absurd hk (Nat.not_lt.mpr hle)
  · exact ne_true_of_eq_false hf he
  · exact ne_true_of_eq_false hn (List.contains_iff_mem.mpr hc)
  · exact Nat.lt_irrefl _ (Nat.lt_of_lt_of_le hl hge)

/-- PATROL_READ of a line that may be read. -/
theorem exec_patrolRead_may (found : ScrubOutcome) : exec (.patrolRead k channel line found) s
    = match found with
      | .clean => .next (setStack s k (patrolStep (getStack s k)))
      | .corrected row bank =>
        .next (setStack s k (rowCount channel row (bankCount channel bank 1 (chanCount channel 0 1 (patrolStep (getStack s k))))))
      | .uncorrectable => .next (patrolLost s k channel (patrolStep (getStack s k)) (physLine (patrolStep (getStack s k)) k channel line)) := by
  rw [exec_patrolRead]
  refine (if_neg (mayPatrol hk he hc hl)).trans ?_
  cases found with
  | clean => rfl
  | corrected row bank => rfl
  | uncorrectable =>
    -- the place of a line is long to evaluate, and the kernel would begin to
    generalize physLine = place
    cases place (patrolStep (getStack s k)) k channel line <;> rfl

theorem exec_patrolRead_clean : exec (.patrolRead k channel line .clean) s = .next (setStack s k (patrolStep (getStack s k))) :=
  exec_patrolRead_may hk he hc hl .clean

theorem exec_patrolRead_corrected (row bank : Nat) : exec (.patrolRead k channel line (.corrected row bank)) s
    = .next (setStack s k (rowCount channel row (bankCount channel bank 1 (chanCount channel 0 1 (patrolStep (getStack s k)))))) :=
  exec_patrolRead_may hk he hc hl (.corrected row bank)

theorem exec_patrolRead_uncorrectable : exec (.patrolRead k channel line .uncorrectable) s
    = .next (patrolLost s k channel (patrolStep (getStack s k)) (physLine (patrolStep (getStack s k)) k channel line)) :=
  exec_patrolRead_may hk he hc hl .uncorrectable

theorem exec_patrolRead_lost (hp : physLine (patrolStep (getStack s k)) k channel line = none) :
    exec (.patrolRead k channel line .uncorrectable) s = .next (setStack s k (chanCount channel 1 1 (patrolStep (getStack s k)))) := by
  rw [exec_patrolRead_uncorrectable hk he hc hl, hp, patrolLost]

theorem exec_patrolRead_poisons {l : Nat} (hp : physLine (patrolStep (getStack s k)) k channel line = some l) :
    exec (.patrolRead k channel line .uncorrectable) s
      = .next { setStack s k (chanCount channel 1 1 (patrolStep (getStack s k))) with tags := Cells.set 0 s.tags l (getTag s l ||| 8) } := by
  rw [exec_patrolRead_uncorrectable hk he hc hl, hp, patrolLost]

end

/-- A tag with bit 3 set says that its line is poisoned (R293). -/
theorem tag_or_poisoned (t : BitVec 4) : 8 ≤ (t ||| 8).toNat := by
  revert t
  decide

section
variable {s t : State} {l : Nat} (ht : t.tags = Cells.set 0 s.tags l (getTag s l ||| 8))
include ht

theorem linePoisoned_or : linePoisoned t l = true := by
  have hget : getTag t l = getTag s l ||| 8 := by
    rw [getTag, ht]
    exact Cells.get_set_same 0 _ _ _
  simp only [linePoisoned, hget, tag_or_poisoned, decide_true, Bool.true_or]

theorem getTag_or_ne {m : Nat} (hm : m ≠ l) : getTag t m = getTag s m := by
  rw [getTag, ht]
  exact Cells.get_set_ne 0 _ _ hm

end

theorem exec_ecsCountRead_adds {s : State} {k channel : Nat} {banks : List Nat} (hk : k < 16) (hc : channel ∈ reservedChannels (getStack s k))
    (hb : banks.length ≤ 32) : exec (.ecsCountRead k channel banks) s
      = .next (setStack s k (banks.zipIdx.foldl (fun x b => bankCount channel b.2 b.1 x)
          (chanCount channel 2 (banks.foldl (fun a b => a + b) 0) (getStack s k)))) := by
  have hno : ¬(16 ≤ k ∨ (reservedChannels (getStack s k)).contains channel = false ∨ 32 < banks.length) := by
    rintro (hle | hn | hlt)
    · exact absurd hk (Nat.not_lt.mpr hle)
    · exact ne_true_of_eq_false hn (List.contains_iff_mem.mpr hc)
    · exact absurd hb (Nat.not_le.mpr hlt)
  rw [exec_ecsCountRead]
  exact if_neg hno

/-! ## Dropping a pseudo-channel -/

section
variable {s : State} {k ch : Nat}

theorem startDrop_dead (hl : ¬(getStack s k).live / 2 ^ ch % 2 = 1) :
    startDrop s k ch = setStack s k { getStack s k with dropCh := ch, result := 1 } := by
  have h0 : (getStack s k).live / 2 ^ ch % 2 = 0 := by omega
  exact if_pos h0

variable (hl : (getStack s k).live / 2 ^ ch % 2 = 1)
include hl

theorem startDrop_live : startDrop s k ch = if reservedInUse s k ch then setStack s k { getStack s k with dropCh := ch, result := 2 }
    else if (getStack s k).live = 2 ^ ch then setStack s k { getStack s k with dropCh := ch, result := 3 }
    else setStack s k { getStack s k with dropCh := ch, busy := true, result := 0 } := by
  have h0 : ¬(getStack s k).live / 2 ^ ch % 2 = 0 := by omega
  exact if_neg h0

theorem startDrop_used (hr : reservedInUse s k ch = true) :
    startDrop s k ch = setStack s k { getStack s k with dropCh := ch, result := 2 } :=
  (startDrop_live hl).trans (if_pos hr)

variable (hr : reservedInUse s k ch = false)
include hr

theorem startDrop_last (ho : (getStack s k).live = 2 ^ ch) : startDrop s k ch = setStack s k { getStack s k with dropCh := ch, result := 3 } :=
  (startDrop_live hl).trans ((if_neg (ne_true_of_eq_false hr)).trans (if_pos ho))

theorem startDrop_starts (ho : (getStack s k).live ≠ 2 ^ ch) :
    startDrop s k ch = setStack s k { getStack s k with dropCh := ch, busy := true, result := 0 } :=
  (startDrop_live hl).trans ((if_neg (ne_true_of_eq_false hr)).trans (if_neg ho))

end

section
variable {s : State} {k : Nat} (hk : k < 16)
include hk

theorem exec_pseudoChannelDrop_idle (hb : (getStack s k).busy = false) :
    exec (.pseudoChannelDrop k) s = .next (startDrop s k ((failingChannel s k).getD (getStack s k).dropCh)) := by
  rw [exec_pseudoChannelDrop]
  unfold execPseudoChannelDrop
  dsimp only
  rw [if_neg (Nat.not_le.mpr hk), hb]
  rfl

/-- The teams that a core holds. -/
def unsavedTeams (s : State) : List Nat := (s.teams.filter (fun t => t.2.saved.isNone)).map (fun t => t.1)

variable (hb : (getStack s k).busy = true)
include hb

theorem exec_pseudoChannelDrop_busy : exec (.pseudoChannelDrop k) s
    = match unsavedTeams s with
      | [] => .next (finishDrop s k)
      | ks => match saveTeams ks s with | some t => .next t | none => stall s := by
  rw [exec_pseudoChannelDrop]
  unfold execPseudoChannelDrop
  dsimp only
  rw [if_neg (Nat.not_le.mpr hk), hb]
  rfl

theorem exec_pseudoChannelDrop_ends (ht : ∀ t ∈ s.teams, t.2.saved ≠ none) : exec (.pseudoChannelDrop k) s = .next (finishDrop s k) := by
  have hnil : unsavedTeams s = [] := by
    refine List.map_eq_nil_iff.mpr (List.filter_eq_nil_iff.mpr fun t hmem hn => ht t hmem (Option.isNone_iff_eq_none.mp hn))
  rw [exec_pseudoChannelDrop_busy hk hb, hnil]

theorem exec_pseudoChannelDrop_saves {t : State} (hu : ∃ u ∈ s.teams, u.2.saved = none) (hs : saveTeams (unsavedTeams s) s = some t) :
    exec (.pseudoChannelDrop k) s = .next t := by
  have hne : unsavedTeams s ≠ [] := by
    obtain ⟨u, hmem, hn⟩ := hu
    exact List.ne_nil_of_mem (List.mem_map_of_mem (List.mem_filter.mpr ⟨hmem, Option.isNone_iff_eq_none.mpr hn⟩))
  rw [exec_pseudoChannelDrop_busy hk hb]
  split
  · next hnil => exact absurd hnil hne
  · rw [hs]

end

/-! ## Power, heat and counters -/

theorem thermalAfter_eq (old : Nat) (temps : List Nat) : thermalAfter old temps
    = if old = 2 then 2 else if ∃ d ∈ temps, 105 ≤ d then 1 else if old = 1 ∧ ∃ d ∈ temps, 100 ≤ d then 1 else 0 := by
  have hany (b : Nat) : temps.any (fun t => decide (b ≤ t)) = true ↔ ∃ d ∈ temps, b ≤ d := by
    simp only [List.any_eq_true, decide_eq_true_eq]
  simp only [thermalAfter, hany]

theorem tripEnds_launch (s : State) (p : Nat × Launch) (h : tripEnds p.2 = false) : tripLaunch s p = s := if_neg (ne_true_of_eq_false h)

theorem exec_thermalTrip_trips {s : State} {die : Nat} (hd : die < 8) (hs : s.hub.thermal ≠ 2) :
    exec (.thermalTrip die) s = .next (raiseMsi (s.launches.foldl tripLaunch (modHub s (fun h => { h with thermal := 2 }))) 0) := by
  rw [exec_thermalTrip]
  exact if_neg fun h => h.elim (fun hle => absurd hd (Nat.not_lt.mpr hle)) hs

section
variable {s : State} {i : Nat} {v : Dword} (hi : i < 8)
include hi

theorem exec_counterReprogram_writes (hv : v.toNat < 2 ^ 32) : exec (.counterReprogram i v) s
    = .next (modHub { s with freeCtr := s.freeCtr + 1 } (fun h =>
        { h with csel := Cells.set 0 h.csel i (v &&& ~~~(0x1E : Dword))
                 ccnt := Cells.set 0 h.ccnt i (clearCounter (incrementsMet s i) (Cells.get 0 h.ccnt i)) })) := by
  rw [exec_counterReprogram]
  exact (if_neg (Nat.not_le.mpr hi)).trans (if_neg (not_not_intro (Nat.div_eq_of_lt hv)))

theorem exec_counterReprogram_ignored (hv : 2 ^ 32 ≤ v.toNat) : exec (.counterReprogram i v) s = .next s := by
  have hdiv : v.toNat / 2 ^ 32 ≠ 0 := by omega
  rw [exec_counterReprogram]
  exact (if_neg (Nat.not_le.mpr hi)).trans (if_pos hdiv)

end

theorem clearCounter_toNat (m : Nat) (c : Dword) : (clearCounter m c).toNat = min 0x7FFF (c.toNat / 2 ^ 48 % 2 ^ 15 + m) * 2 ^ 48 := by
  unfold clearCounter
  rw [BitVec.toNat_ofNat, Nat.mod_eq_of_lt]
  have hmin : min 0x7FFF (c.toNat / 2 ^ 48 % 2 ^ 15 + m) ≤ 0x7FFF := Nat.min_le_left _ _
  omega

/-! ## The time series -/

/-- The counters of the units are latched for a frame of `n` entries (R498). -/
def latchedCounters (s : State) (n : Nat) : State := { s with unitCounters := unitsRun s, freeCtr := s.freeCtr + n }

/-- TIME_SERIES_TICK with the number of entries of a frame named, for it is long to evaluate. -/
theorem exec_timeSeriesTick_due {s : State} {n : Nat} (hn : 2 * allUnits.length + 8 = n) (hon : s.hub.tsctl.toNat % 2 = 1)
    (hclock : s.clock % 2 ^ (s.hub.tsctl.toNat / 2 ^ 8 % 32) = 0) : exec .timeSeriesTick s
    = if s.hub.tsWrite + (64 + 16 * n) ≤ readPhysNat s (s.hub.tsbase.toNat + 8) 8 + (2 ^ (s.hub.tsctl.toNat / 2 ^ 3 % 32) - 64) then
        .next (modHub (writePhys (ringWrite (latchedCounters s n) (s.hub.tsbase.toNat + 64) (2 ^ (s.hub.tsctl.toNat / 2 ^ 3 % 32) - 64) s.hub.tsWrite
            (frameHeader s n ++ frameEntries (unitsRun s) s.hub.ccnt)) s.hub.tsbase.toNat (bytesOfNat 8 (s.hub.tsWrite + (64 + 16 * n))))
          (fun h => { h with tsWrite := h.tsWrite + (64 + 16 * n), tsTicks := h.tsTicks + 1, tsDropped := 0 }))
      else .next (modHub (latchedCounters s n) (fun h => { h with tsTicks := h.tsTicks + 1, tsDropped := h.tsDropped + 1 })) := by
  have hno : ¬(s.hub.tsctl.toNat % 2 = 0 ∨ s.clock % 2 ^ (s.hub.tsctl.toNat / 2 ^ 8 % 32) ≠ 0) :=
    fun h => h.elim (fun h0 => by rw [hon] at h0; cases h0) (fun hc => hc hclock)
  rw [exec_timeSeriesTick]
  unfold execTimeSeriesTick
  rw [hn]
  exact if_neg hno

/-- Settles O49: patrol reads, drops of a pseudo-channel, power epochs, trips and counters. -/
theorem memoryServiceAndPower : Obligations.MemoryServiceAndPower := by
  unfold Obligations.MemoryServiceAndPower
  constructor
  · intro s k channel line banks hk x
    refine ⟨fun he hc hl => ?_, exec_ecsCountRead_adds hk, fun hb => ?_, fun hb ht => exec_pseudoChannelDrop_ends hk hb ht,
      fun hb t hu hs => exec_pseudoChannelDrop_saves hk hb hu hs⟩
    · intro total y
      have hy : y = patrolStep (getStack s k) := rfl
      clear_value y
      rw [hy]
      refine ⟨exec_patrolRead_clean hk he hc hl, exec_patrolRead_corrected hk he hc hl, fun l hp => ?_,
        exec_patrolRead_lost hk he hc hl⟩
      exact ⟨_, exec_patrolRead_poisons hk he hc hl hp, getStack_setStack_same s k _, linePoisoned_or rfl, fun m hm => getTag_or_ne rfl hm, rfl⟩
    · have hidle := exec_pseudoChannelDrop_idle hk hb
      exact ⟨fun hl => hidle.trans (congrArg _ (startDrop_dead hl)), fun hl hr => hidle.trans (congrArg _ (startDrop_used hl hr)),
        fun hl hr ho => hidle.trans (congrArg _ (startDrop_last hl hr ho)), fun hl hr ho => hidle.trans (congrArg _ (startDrop_starts hl hr ho))⟩
  · intro s dies hbm temps i v
    refine ⟨?_, fun die hd hs => exec_thermalTrip_trips hd hs, exec_counterReprogram_writes, clearCounter_toNat, exec_counterReprogram_ignored,
      ?_⟩
    rotate_left
    · intro ctl hon hclock
      generalize hn : 2 * allUnits.length + 8 = n
      have hdue := exec_timeSeriesTick_due hn hon hclock
      exact ⟨fun hf => hdue.trans (if_pos hf), fun hf => hdue.trans (if_neg hf)⟩
    refine ⟨_, (exec_powerEpoch dies hbm temps s).trans rfl, ?_⟩
    have hthermal := thermalAfter_eq s.hub.thermal temps
    split <;> refine ⟨rfl, hthermal, fun d => ?_, rfl, rfl⟩ <;>
      exact List.mem_filter.trans (and_congr List.mem_range decide_eq_true_iff)

end Sys2Proof.Machine
end

/-! # Field tests, bring-up, reset and attestation (R484 to R486, R491 to R493, R501 to R503) -/

section
namespace Sys2Proof.Machine

open Sys2Proof.Laws

/-! ## Field tests -/

/-- A control word asks for a test that exists, or sets the registers without one (R501). -/
def TestExists (v : Dword) : Prop := v.toNat < 2 ^ 32 ∧ (testOf v.toNat).kind < 2 ∧ (testOf v.toNat).cls < 10

theorem writeFtctl_ignored {s : State} {v : Dword} (h : ¬TestExists v) : writeFtctl s v = s := by
  refine if_pos ?_
  unfold TestExists at h
  omega

theorem writeFtctl_asks {s : State} {v : Dword} (h : TestExists v) : writeFtctl s v = modHub s (fun h =>
    { h with ftctl := v &&& 0x7FFFFE00, tests := if v.toNat / 2 ^ 31 % 2 = 1 then h.tests ++ [testOf v.toNat] else h.tests }) := by
  refine if_neg ?_
  unfold TestExists at h
  omega

theorem exec_fieldTestInterval_asks {s : State} (h : s.hub.ftint ≠ 0) : exec .fieldTestInterval s = .next (modHub s (fun h =>
    { h with tests := h.tests ++ allUnits.map (fun u => { kind := 1, cls := u.1, die := u.2.1, index := u.2.2, running := false }) })) := by
  rw [exec_fieldTestInterval]
  exact if_neg h

section
variable {s : State} {t : FieldTest} {rest : List FieldTest} (hs : s.hub.tests = t :: rest)
include hs

/-- The first test runs. -/
def testStarted (s : State) (t : FieldTest) (rest : List FieldTest) : State := modHub s (fun h => { h with tests := { t with running := true } :: rest })

section
variable (hr : t.running = false) (hc : needsCore t = true → teamsOn s (testCore t) = [])
include hr hc

theorem exec_fieldTestRun_starts : exec .fieldTestRun s
    = if t.cls = 1 ∧ t.kind = 1 then
        .next (setCore (testStarted s t rest) (testCore t) { getCore s (testCore t) with
          pipesDown := (t.index % 64) :: (getCore s (testCore t)).pipesDown.filter (fun p => p != t.index % 64) })
      else .next (testStarted s t rest) := by
  have hno : ¬(t.running || (needsCore t && !((teamsOn s (testCore t)).isEmpty))) = true := by
    cases hn : needsCore t with
    | false => simp [hr]
    | true => simp [hr, hc hn]
  rw [exec_fieldTestRun, execFieldTestRun, hs]
  exact if_neg hno

theorem exec_fieldTestRun_plain (hne : t.cls ≠ 1 ∨ t.kind ≠ 1) : exec .fieldTestRun s = .next (testStarted s t rest) :=
  (exec_fieldTestRun_starts hs hr hc).trans (if_neg fun ⟨hcls, hkind⟩ => hne.elim (· hcls) (· hkind))

theorem exec_fieldTestRun_pipe (hcls : t.cls = 1) (hkind : t.kind = 1) : exec .fieldTestRun s
    = .next (setCore (testStarted s t rest) (testCore t) { getCore s (testCore t) with
        pipesDown := (t.index % 64) :: (getCore s (testCore t)).pipesDown.filter (fun p => p != t.index % 64) }) :=
  (exec_fieldTestRun_starts hs hr hc).trans (if_pos ⟨hcls, hkind⟩)

end

/-- The record of the first test is written, and the test is over. -/
def testEnded (s : State) (t : FieldTest) (rest : List FieldTest) (failed : Bool) (element : Nat) : State :=
  modHub (writePhys s (s.hub.tbase.toNat + 64 * (s.hub.testsDone % (Config.testRingSlots + 1))) (testRecord s t failed element))
    (fun h => { h with tests := rest, testsDone := h.testsDone + 1 })

variable (hr : t.running = true) (failed : Bool) (element : Nat)
include hr

theorem exec_fieldTestComplete_ends : exec (.fieldTestComplete failed element) s
    = if failed then .next (fenceUnit (testEnded s t rest failed element) (t.cls * 4096 + t.index) 1 t.die)
      else if t.cls = 1 ∧ t.kind = 1 then
        .next (setCore (testEnded s t rest failed element) (testCore t) { getCore (testEnded s t rest failed element) (testCore t) with
          pipesDown := (getCore (testEnded s t rest failed element) (testCore t)).pipesDown.filter
            (fun p => p != t.index % 64 || (getCore (testEnded s t rest failed element) (testCore t)).pipesFenced.contains p) })
      else .next (testEnded s t rest failed element) := by
  have hno : ¬(!t.running) = true := by rw [hr]; exact Bool.false_ne_true
  rw [exec_fieldTestComplete, execFieldTestComplete, hs]
  exact if_neg hno

variable {failed}

theorem exec_fieldTestComplete_fails (hf : failed = true) : exec (.fieldTestComplete failed element) s
    = .next (fenceUnit (testEnded s t rest failed element) (t.cls * 4096 + t.index) 1 t.die) :=
  (exec_fieldTestComplete_ends hs hr failed element).trans (if_pos hf)

theorem exec_fieldTestComplete_plain (hf : failed = false) (hne : t.cls ≠ 1 ∨ t.kind ≠ 1) :
    exec (.fieldTestComplete failed element) s = .next (testEnded s t rest failed element) :=
  (exec_fieldTestComplete_ends hs hr failed element).trans ((if_neg (ne_true_of_eq_false hf)).trans
    (if_neg fun ⟨hcls, hkind⟩ => hne.elim (· hcls) (· hkind)))

theorem exec_fieldTestComplete_pipe (hf : failed = false) (hcls : t.cls = 1) (hkind : t.kind = 1) : exec (.fieldTestComplete failed element) s
    = .next (setCore (testEnded s t rest failed element) (testCore t) { getCore (testEnded s t rest failed element) (testCore t) with
        pipesDown := (getCore (testEnded s t rest failed element) (testCore t)).pipesDown.filter
          (fun p => p != t.index % 64 || (getCore (testEnded s t rest failed element) (testCore t)).pipesFenced.contains p) }) :=
  (exec_fieldTestComplete_ends hs hr failed element).trans ((if_neg (ne_true_of_eq_false hf)).trans (if_pos ⟨hcls, hkind⟩))

end

/-! ## Readiness -/

section
variable {s : State} {d : Nat} (hf : s.hub.fwStatus = 0)
include hf

/-- FUNCTION_READY with firmware that runs. -/
theorem exec_functionReady_runs (f : Function) : exec (.functionReady f) s
    = match f with
      | .domain d => if d < 16 then .next (raiseMsi (modHub s (fun h => { h with domainsReady := setBit h.domainsReady d })) 0) else stall s
      | .stack k =>
        if k < 16 ∧ s.hub.configOk = true ∧ (getStack s k).live ≠ 0 then
          .next (raiseMsi (modHub s (fun h => { h with stacksReady := setBit h.stacksReady k })) 0)
        else stall s
      | .plane p =>
        if p < 8 ∧ planeLive s p = true then .next (raiseMsi (modHub s (fun h => { h with planesReady := setBit h.planesReady p })) 0) else stall s
      | .hub => .next (raiseMsi (modHub s (fun h => { h with hubReady := true })) 0)
      | .queue q => if q < 64 then .next (modHub s (fun h => { h with queuesReady := setBit h.queuesReady q })) else stall s
      | .lanePipe c p =>
        if c < 512 ∧ p < 4 ∧ (getCore s c).pipesFenced.contains p = false then
          .next (setCore s c { getCore s c with pipesDown := (getCore s c).pipesDown.filter (fun q => q != p) })
        else stall s := by
  rw [exec_functionReady]
  refine (if_neg (not_not_intro hf)).trans ?_
  cases f <;> rfl

theorem functionReady_domain (hd : d < 16) : exec (.functionReady (.domain d)) s
    = .next (raiseMsi (modHub s (fun h => { h with domainsReady := Nat.lor h.domainsReady (2 ^ d) })) 0) :=
  (exec_functionReady_runs hf (.domain d)).trans (if_pos hd)

theorem functionReady_stack (hd : d < 16) (hc : s.hub.configOk = true) (hl : (getStack s d).live ≠ 0) : exec (.functionReady (.stack d)) s
    = .next (raiseMsi (modHub s (fun h => { h with stacksReady := Nat.lor h.stacksReady (2 ^ d) })) 0) :=
  (exec_functionReady_runs hf (.stack d)).trans (if_pos ⟨hd, hc, hl⟩)

theorem functionReady_plane (hd : d < 8) (hl : planeLive s d = true) : exec (.functionReady (.plane d)) s
    = .next (raiseMsi (modHub s (fun h => { h with planesReady := Nat.lor h.planesReady (2 ^ d) })) 0) :=
  (exec_functionReady_runs hf (.plane d)).trans (if_pos ⟨hd, hl⟩)

theorem functionReady_queue (hd : d < 64) : exec (.functionReady (.queue d)) s
    = .next (modHub s (fun h => { h with queuesReady := Nat.lor h.queuesReady (2 ^ d) })) :=
  (exec_functionReady_runs hf (.queue d)).trans (if_pos hd)

theorem functionReady_lanePipe {c : Nat} (hc : c < 512) (hd : d < 4) (hp : d ∉ (getCore s c).pipesFenced) :
    exec (.functionReady (.lanePipe c d)) s
      = .next (setCore s c { getCore s c with pipesDown := (getCore s c).pipesDown.filter (fun q => q != d) }) :=
  (exec_functionReady_runs hf (.lanePipe c d)).trans (if_pos ⟨hc, hd, Bool.eq_false_iff.mpr (mt List.contains_iff_mem.mp hp)⟩)

end

/-! ## Firmware and attestation -/

section
variable {s : State} {image : List Byte}

theorem exec_firmwareUpdate_stages (hv : Config.imageVerifies image = true) (hn : s.hub.fwVersion ≤ Config.imageVersion image) :
    exec (.firmwareUpdate image) s = .next (modHub s (fun h => { h with fwStaged := some image })) := by
  have hgood : imageGood image s.hub.fwVersion = true := by rw [imageGood, hv, decide_eq_true hn]; rfl
  rw [exec_firmwareUpdate]
  exact if_pos hgood

theorem exec_firmwareUpdate_refused (h : Config.imageVerifies image = false ∨ Config.imageVersion image < s.hub.fwVersion) :
    exec (.firmwareUpdate image) s = .next s := by
  have hbad : imageGood image s.hub.fwVersion = false := by
    obtain hv | hn := h
    · rw [imageGood, hv, Bool.false_and]
    · rw [imageGood, decide_eq_false (Nat.not_le.mpr hn), Bool.and_false]
  rw [exec_firmwareUpdate]
  exact if_neg (ne_true_of_eq_false hbad)

end

/-- What begins with a nonce still does so when it is cut to 256 bytes and signed (R493). -/
theorem nonce_prefix {nonce : List Byte} (h : nonce.length = 48) (body pad sig : List Byte) :
    nonce <+: ((nonce ++ body).take 256 ++ pad) ++ sig := by
  have hnonce : nonce.take 256 = nonce := List.take_of_length_le (by omega)
  rw [List.take_append, hnonce]
  simp only [List.append_assoc]
  exact List.prefix_append _ _

section
variable {s : State} {nonce : List Byte} (hn : nonce.length = 48)
include hn

theorem exec_attestationRequest_none (hl : s.hub.lmsLeft = 0) : exec (.attestationRequest nonce) s
    = .next (modHub s (fun h => { h with nonce := nonce, attestStatus := 3, report := [] })) := by
  rw [exec_attestationRequest]
  exact (if_neg (not_not_intro hn)).trans (if_pos hl)

theorem exec_attestationRequest_reports (hl : s.hub.lmsLeft ≠ 0) : ∃ t, exec (.attestationRequest nonce) s = .next t ∧ t.hub.nonce = nonce
    ∧ t.hub.attestStatus = 0 ∧ t.hub.lmsLeft = s.hub.lmsLeft - 1 ∧ nonce <+: t.hub.report ∧ { t with hub := s.hub } = s := by
  rw [exec_attestationRequest]
  refine ⟨_, (if_neg (not_not_intro hn)).trans (if_neg hl), rfl, rfl, rfl, ?_, rfl⟩
  simp only [List.append_assoc, modHub]
  simpa only [List.append_assoc] using nonce_prefix hn _ _ _

end

/-- Settles O50: field tests, functions that become ready, firmware, reset and attestation. -/
theorem fieldTestsAndBringUp : Obligations.FieldTestsAndBringUp := by
  unfold Obligations.FieldTestsAndBringUp
  constructor
  · intro s v failed element
    refine ⟨⟨fun h => (exec_fieldTestRequest v s).trans (congrArg _ (writeFtctl_ignored h)),
        fun h => (exec_fieldTestRequest v s).trans (congrArg _ (writeFtctl_asks h))⟩, exec_fieldTestInterval_asks,
      fun t rest hs hr hc => ⟨exec_fieldTestRun_plain hs hr hc, exec_fieldTestRun_pipe hs hr hc⟩,
      fun t rest hs hr => ⟨exec_fieldTestComplete_fails hs hr element, exec_fieldTestComplete_plain hs hr element,
        exec_fieldTestComplete_pipe hs hr element⟩⟩
  · intro s nonce image d
    exact ⟨fun hf => ⟨functionReady_domain hf, functionReady_stack hf, functionReady_plane hf, exec_functionReady_runs hf .hub, functionReady_queue hf,
        fun c => functionReady_lanePipe hf⟩, exec_firmwareUpdate_stages, exec_firmwareUpdate_refused, exec_deviceReset s,
      exec_attestationRequest_none, exec_attestationRequest_reports⟩

end Sys2Proof.Machine
end

/-! # Which of the ready instances a turn serves (R267, R270, R274, R277, R292) -/

section
namespace Sys2Proof.Machine

open Sys2Proof.Laws

/-! ## Instances that are looked at in turn -/

/-- What is looked at is not ready: nothing changes, or it has asked for what it needs. -/
def NotReady (a : Actor) (x y : State) : Prop := (attempt x a = .no ∧ y = x) ∨ attempt x a = .asked y

theorem firstReady_notReady {a : Actor} {x y : State} (h : NotReady a x y) (k : Nat) (r : List (Nat × Actor)) :
    firstReady x ((k, a) :: r) = firstReady y r := by
  obtain ⟨hno, rfl⟩ | hasked := h
  · simp only [firstReady, hno]
  · simp only [firstReady, hasked]

theorem firstReady_skips : ∀ {pre : List (Nat × Actor)} {x y : State}, InTurn NotReady (pre.map (fun p => p.2)) x y →
    ∀ r, firstReady x (pre ++ r) = firstReady y r
  | [], _, _, h, _ => by cases h; rfl
  | (k, _) :: _, _, _, ⟨_, hu, h⟩, r => (firstReady_notReady hu k _).trans (firstReady_skips h r)

theorem firstReady_none {as : List (Nat × Actor)} {x y : State} (h : InTurn NotReady (as.map (fun p => p.2)) x y) : firstReady x as = (y, none) := by
  have hskip := firstReady_skips h []
  rwa [List.append_nil] at hskip

theorem firstReady_serves {pre post : List (Nat × Actor)} {x y : State} {k : Nat} {a : Actor} {o : Out}
    (h : InTurn NotReady (pre.map (fun p => p.2)) x y) (ho : attempt y a = .issued o) :
    firstReady x (pre ++ (k, a) :: post) = (y, some (k, o)) := by
  rw [firstReady_skips h]
  simp only [firstReady, ho]

/-- The instances of some numbers, each with its number. -/
theorem numbered_snd (f : Nat → Actor) (ks : List Nat) : (ks.map (fun k => (k, f k))).map (fun p => p.2) = ks.map f := by
  rw [List.map_map]
  rfl

theorem noneIssued_eq (u v : State) : noneIssued u v = .next (orIdle u v) := by
  unfold noneIssued orIdle
  split <;> rfl

/-! ## The scalar unit and the yard core -/

section
variable {u v t : State} {core : Nat}

theorem runScalar_serves {pre post : List Nat} {k : Nat} (horder : after (getCore u core).scalarPtr 32 = pre ++ k :: post)
    (h : InTurn NotReady (pre.map (fun j => .control (core * 32 + j))) u v) (ho : attempt v (.control (core * 32 + k)) = .issued (.next t)) :
    runScalar u core = .next (setCore t core { getCore t core with scalarPtr := k }) := by
  have hfirst := firstReady_serves (pre := pre.map (fun j => (j, Actor.control (core * 32 + j))))
    (post := post.map (fun j => (j, Actor.control (core * 32 + j)))) (k := k) (by rwa [numbered_snd]) ho
  unfold runScalar
  dsimp only
  rw [horder, List.map_append, List.map_cons, hfirst]
  rfl

theorem runScalar_none (h : InTurn NotReady ((after (getCore u core).scalarPtr 32).map (fun j => .control (core * 32 + j))) u v) :
    runScalar u core = .next (orIdle u v) := by
  have hfirst := firstReady_none (as := (after (getCore u core).scalarPtr 32).map (fun j => (j, Actor.control (core * 32 + j)))) (by rwa [numbered_snd])
  unfold runScalar
  dsimp only
  rw [hfirst]
  exact noneIssued_eq u v

/-- What the yard core may serve, in the order of one turn. -/
def yardOrder (u : State) (core : Nat) : List (Nat × Actor) :=
  (yardActors u core).filter (fun x => decide ((getCore u core).yardPtr < x.1))
    ++ (yardActors u core).filter (fun x => decide (x.1 ≤ (getCore u core).yardPtr))

theorem runYard_serves {pre post : List (Nat × Actor)} {k : Nat} {a : Actor} (horder : yardOrder u core = pre ++ (k, a) :: post)
    (h : InTurn NotReady (pre.map (fun p => p.2)) u v) (ho : attempt v a = .issued (.next t)) :
    runYard u core = .next (noteYard v core k (setCore t core { getCore t core with yardPtr := k })) := by
  have hfirst : firstReady u (yardOrder u core) = (v, some (k, .next t)) := horder ▸ firstReady_serves h ho
  unfold yardOrder at hfirst
  unfold runYard
  dsimp only
  rw [hfirst]
  rfl

theorem runYard_none (h : InTurn NotReady ((yardOrder u core).map (fun p => p.2)) u v) : runYard u core = .next (orIdle u v) := by
  have hfirst := firstReady_none h
  unfold yardOrder at hfirst
  unfold runYard
  dsimp only
  rw [hfirst]
  exact noneIssued_eq u v

end

/-! ## The lane pipes -/

section
variable {x y z : State} {wid : Nat} {w : Wave} {o : Out}

theorem selectPath_pair (hp : w.pair = true) (ho : attempt x (.path wid w.pathPtr) = .issued o) :
    selectPath x wid w = (x, some (w.pathPtr, false, o)) := by
  simp only [selectPath, hp, if_true, firstReady, ho]

/-- The path at the pointer is looked at first where it may go on as the second of a pair. -/
theorem selectPath_after (h : InTurn NotReady (if w.pair then [.path wid w.pathPtr] else []) x y) : selectPath x wid w
    = ((firstReady y ((after w.pathPtr 16).map (fun e => (e, .path wid e)))).1,
        (firstReady y ((after w.pathPtr 16).map (fun e => (e, .path wid e)))).2.map (fun r => (r.1, true, r.2))) := by
  have hfirst : (if w.pair then firstReady x [(w.pathPtr, .path wid w.pathPtr)] else (x, none)) = (y, none) := by
    cases hp : w.pair with
    | false =>
      rw [hp] at h
      cases h
      rfl
    | true =>
      rw [hp] at h
      exact firstReady_none (as := [(w.pathPtr, .path wid w.pathPtr)]) h
  unfold selectPath
  rw [hfirst]

theorem selectPath_serves (h : InTurn NotReady (if w.pair then [.path wid w.pathPtr] else []) x y) {pre post : List Nat} {e : Nat}
    (horder : after w.pathPtr 16 = pre ++ e :: post) (hpre : InTurn NotReady (pre.map (Actor.path wid)) y z)
    (ho : attempt z (.path wid e) = .issued o) : selectPath x wid w = (z, some (e, true, o)) := by
  have hfirst := firstReady_serves (pre := pre.map (fun e => (e, Actor.path wid e))) (post := post.map (fun e => (e, Actor.path wid e))) (k := e)
    (by rwa [numbered_snd]) ho
  rw [selectPath_after h, horder, List.map_append, List.map_cons, hfirst]
  rfl

theorem selectPath_none (h : InTurn NotReady (if w.pair then [.path wid w.pathPtr] else []) x y)
    (hall : InTurn NotReady ((after w.pathPtr 16).map (Actor.path wid)) y z) : selectPath x wid w = (z, none) := by
  have hfirst := firstReady_none (as := (after w.pathPtr 16).map (fun e => (e, Actor.path wid e))) (by rwa [numbered_snd])
  rw [selectPath_after h, hfirst]
  rfl

end

/-- A wave of a lane pipe is looked at, and none of its paths is ready. -/
def NoPathReady (core pipe k : Nat) (x y : State) : Prop :=
  (getWave x (core * 32 + pipe * 8 + k) = none ∧ y = x)
    ∨ ∃ w, getWave x (core * 32 + pipe * 8 + k) = some w ∧ selectPath x (core * 32 + pipe * 8 + k) w = (y, none)

section
variable {core pipe : Nat} {u v z t : State}

theorem selectPipe_noPath {x y : State} {k : Nat} (h : NoPathReady core pipe k x y) (r : List Nat) :
    selectPipe x core pipe (k :: r) = selectPipe y core pipe r := by
  obtain ⟨hw, rfl⟩ | ⟨w, hw, hp⟩ := h
  · simp only [selectPipe, hw]
  · simp only [selectPipe, hw, hp]

theorem selectPipe_skips : ∀ {pre : List Nat} {x y : State}, InTurn (NoPathReady core pipe) pre x y →
    ∀ r, selectPipe x core pipe (pre ++ r) = selectPipe y core pipe r
  | [], _, _, h, _ => by cases h; rfl
  | _ :: _, _, _, ⟨_, hu, h⟩, r => (selectPipe_noPath hu _).trans (selectPipe_skips h r)

theorem runPipe_inService (hp : pipe < 4) (hd : (getCore u core).pipesDown.contains pipe = false) : runPipe u core pipe
    = match selectPipe u core pipe (after (Cells.get 7 (getCore u core).pipePtr pipe) 8) with
      | (t, some o) => thenState (afterSelection t core pipe) o
      | (t, none) => .next (markSamples t core pipe false { t with stalled := decide (t = u) }) := by
  have hno : ¬((getCore u core).pipesDown.contains pipe || decide (4 ≤ pipe)) = true := by
    rw [hd, decide_eq_false (Nat.not_le.mpr hp)]
    exact Bool.false_ne_true
  exact if_neg hno

theorem runPipe_serves (hp : pipe < 4) (hd : (getCore u core).pipesDown.contains pipe = false) {pre post : List Nat} {k e : Nat} {w : Wave} {p : Bool}
    (horder : after (Cells.get 7 (getCore u core).pipePtr pipe) 8 = pre ++ k :: post) (h : InTurn (NoPathReady core pipe) pre u v)
    (hw : getWave v (core * 32 + pipe * 8 + k) = some w) (hs : selectPath v (core * 32 + pipe * 8 + k) w = (z, some (e, p, .next t))) :
    runPipe u core pipe = .next (afterSelection z core pipe (selected core pipe k (core * 32 + pipe * 8 + k) e p t)) := by
  have hsel : selectPipe u core pipe (after (Cells.get 7 (getCore u core).pipePtr pipe) 8)
      = (z, some (.next (selected core pipe k (core * 32 + pipe * 8 + k) e p t))) := by
    rw [horder, selectPipe_skips h]
    simp only [selectPipe, hw, hs, thenState]
  rw [runPipe_inService hp hd, hsel]
  rfl

theorem runPipe_none (hp : pipe < 4) (hd : (getCore u core).pipesDown.contains pipe = false)
    (h : InTurn (NoPathReady core pipe) (after (Cells.get 7 (getCore u core).pipePtr pipe) 8) u v) :
    runPipe u core pipe = .next (markSamples v core pipe false { v with stalled := decide (v = u) }) := by
  have hsel := selectPipe_skips h []
  rw [List.append_nil, selectPipe] at hsel
  rw [runPipe_inService hp hd, hsel]

theorem runPipe_down (hd : (getCore u core).pipesDown.contains pipe = true) : runPipe u core pipe = stall u := by
  refine if_pos ?_
  rw [hd]
  rfl

end

/-! ## The victim of a slice (R292) -/

section
variable {s : State} {c line : Nat} {x : L2Line}

theorem mayLeave_iff {l2 : Tbl L2Line} : mayLeave l2 x = true ↔ ∀ p ∈ l2, victimRank x.retention ≤ victimRank p.2.retention := by
  simp only [mayLeave, List.all_eq_true, decide_eq_true_eq]

theorem evictTurn_leaves (hx : Tbl.find? (getCluster s c).l2 line = some x)
    (h : ∀ p ∈ (getCluster s c).l2, victimRank x.retention ≤ victimRank p.2.retention) : evictTurn s c line = some (evictL2 s c line x) := by
  simp only [evictTurn, hx, mayLeave_iff.mpr h, if_true]

theorem evictTurn_stays (hx : Tbl.find? (getCluster s c).l2 line = some x) {m : Nat} {y : L2Line} (hy : (m, y) ∈ (getCluster s c).l2)
    (h : victimRank y.retention < victimRank x.retention) : evictTurn s c line = none := by
  have hno : ¬mayLeave (getCluster s c).l2 x = true := fun hl => absurd (mayLeave_iff.mp hl (m, y) hy) (Nat.not_le.mpr h)
  simp only [evictTurn, hx, if_neg hno]

theorem evictTurn_absent (hx : Tbl.find? (getCluster s c).l2 line = none) : evictTurn s c line = none := by
  simp only [evictTurn, hx]

theorem byteAt_evictL2 (s : State) (c line : Nat) (x : L2Line) (a : Nat) : byteAt (evictL2 s c line x) a = byteAt s a := by
  simp only [byteAt, evictL2_mem]

end

/-- Settles O53: each unit serves the first of the ready instances in its order. -/
theorem turnSelections : Obligations.TurnSelections := by
  unfold Obligations.TurnSelections
  intro s r core u passes control
  have hstep {t : Turn} (ha : s.agenda = t :: r) : step s = runTurn u t := step_of_agenda ha
  refine ⟨fun ha => ⟨fun pre post k v t horder hpre ho => (hstep ha).trans (runScalar_serves horder hpre ho),
      fun v hall => (hstep ha).trans (runScalar_none hall)⟩,
    fun pipe ha hp hd => ⟨fun pre post k w e p v z t horder hpre hw hs => (hstep ha).trans (runPipe_serves (u := u) hp hd horder hpre hw hs),
      fun v hall => (hstep ha).trans (runPipe_none (u := u) hp hd hall)⟩,
    fun pipe ha hd => (hstep ha).trans (runPipe_down hd), fun x wid w o => selectPath_pair,
    fun x wid w y hfirst => ⟨fun pre post e z o horder hpre ho => selectPath_serves hfirst horder hpre ho, fun z hall => selectPath_none hfirst hall⟩,
    fun ha => ⟨fun pre post k a v t horder hpre ho => (hstep ha).trans (runYard_serves horder hpre ho),
      fun v hall => (hstep ha).trans (runYard_none hall)⟩, fun line ha => ?_⟩
  have hturn : step s = (match evictTurn u core line with | some t => .next t | none => stall u) := hstep ha
  refine ⟨fun x hx hmin => ⟨hturn.trans ?_, fun a => byteAt_evictL2 u core line x a⟩, fun x m y hx hy hlt => hturn.trans ?_, fun hx => hturn.trans ?_⟩
  · rw [evictTurn_leaves (s := u) hx hmin]
  · rw [evictTurn_stays (s := u) hx hy hlt]
    rfl
  · rw [evictTurn_absent (s := u) hx]
    rfl

end Sys2Proof.Machine
end

/-! # Taking a fault (R321, R323 to R327, R334, R335) -/

section
namespace Sys2Proof.Machine

open Sys2Proof.Laws

/-! ## The record as bytes (R323) -/

@[simp] theorem length_bytesOfNat : ∀ n x : Nat, (bytesOfNat n x).length = n
  | 0, _ => rfl
  | n + 1, x => congrArg (· + 1) (length_bytesOfNat n (x / 256))

theorem getElem_bytesOfNat : ∀ (n x k : Nat) (h : k < (bytesOfNat n x).length), (bytesOfNat n x)[k] = BitVec.ofNat 8 (x / 2 ^ (8 * k))
  | _ + 1, x, 0, _ => by
    rw [Nat.mul_zero, Nat.pow_zero, Nat.div_one]
    rfl
  | n + 1, x, k + 1, h => by
    have hpow : 2 ^ (8 * (k + 1)) = 256 * 2 ^ (8 * k) := by
      rw [Nat.mul_add, Nat.add_comm, Nat.pow_add]
    rw [hpow, ← Nat.div_div_eq_div_mul]
    exact getElem_bytesOfNat n (x / 256) k (Nat.lt_of_succ_lt_succ h)

theorem b2n_lt_two (b : Bool) : b2n b < 2 := by cases b <;> decide

/-- The places of the fields of a fault record (R323). -/
theorem faultNat_fields (r : FaultRecord) : let n := faultNat r
    n < 2 ^ 512 ∧ n % 2 ^ 8 = r.code % 2 ^ 8 ∧ n / 2 ^ 8 % 2 = b2n r.stream ∧ n / 2 ^ 9 % 2 ^ 4 = r.path % 2 ^ 4
      ∧ n / 2 ^ 13 % 2 = b2n r.cont ∧ n / 2 ^ 14 % 2 = b2n r.deferred ∧ n / 2 ^ 15 % 2 = b2n r.ends
      ∧ n / 2 ^ 16 % 2 ^ 14 = r.wave % 2 ^ 14 ∧ n / 2 ^ 30 % 2 ^ 2 = 0 ∧ n / 2 ^ 32 % 2 ^ 16 = r.unit % 2 ^ 16
      ∧ n / 2 ^ 48 % 2 ^ 16 = 0 ∧ n / 2 ^ 64 % 2 ^ 64 = r.pc % 2 ^ 64 ∧ n / 2 ^ 128 % 2 ^ 96 = r.mask % 2 ^ 96
      ∧ n / 2 ^ 224 % 2 ^ 32 = r.block % 2 ^ 32 ∧ n / 2 ^ 256 % 2 ^ 128 = r.detail % 2 ^ 128
      ∧ n / 2 ^ 384 % 2 ^ 64 = r.qentry % 2 ^ 64 ∧ n / 2 ^ 448 = r.timebase % 2 ^ 64 := by
  intro n
  have hstream := b2n_lt_two r.stream
  have hcont := b2n_lt_two r.cont
  have hdeferred := b2n_lt_two r.deferred
  have hends := b2n_lt_two r.ends
  simp only [n, faultNat]
  refine ⟨?_, ?_, ?_, ?_, ?_, ?_, ?_, ?_, ?_, ?_, ?_, ?_, ?_, ?_, ?_, ?_, ?_⟩ <;> omega

/-! ## What blaming a unit leaves alone (R464, R472) -/

/-- Memory, waves, teams and contexts are as they were, and so is every launch but for its eligible cores. -/
structure OnlyBlames (s t : State) : Prop where
  mem : t.mem = s.mem
  waves : t.waves = s.waves
  teams : t.teams = s.teams
  contexts : t.contexts = s.contexts
  launch : ∀ lid l, getLaunch s lid = some l → ∃ e, getLaunch t lid = some { l with eligible := e }

theorem OnlyBlames.refl (s : State) : OnlyBlames s s := ⟨rfl, rfl, rfl, rfl, fun _ l h => ⟨l.eligible, h⟩⟩

theorem OnlyBlames.trans {s t u : State} (h : OnlyBlames s t) (g : OnlyBlames t u) : OnlyBlames s u where
  mem := g.mem.trans h.mem
  waves := g.waves.trans h.waves
  teams := g.teams.trans h.teams
  contexts := g.contexts.trans h.contexts
  launch lid l hl := by
    obtain ⟨e, he⟩ := h.launch lid l hl
    obtain ⟨e', he'⟩ := g.launch lid { l with eligible := e } he
    exact ⟨e', he'⟩

/-- A change of nothing but hub, cores, clusters and fabric. -/
theorem onlyBlames_of_rest {s t : State} (hmem : t.mem = s.mem) (hwaves : t.waves = s.waves) (hteams : t.teams = s.teams)
    (hctx : t.contexts = s.contexts) (hlaunch : t.launches = s.launches) : OnlyBlames s t :=
  ⟨hmem, hwaves, hteams, hctx, fun lid l h => ⟨l.eligible, by rwa [getLaunch, hlaunch]⟩⟩

theorem modHub_blames (s : State) (f : Hub → Hub) : OnlyBlames s (modHub s f) := onlyBlames_of_rest rfl rfl rfl rfl rfl

theorem countEvent_blames (s : State) (event unit die n : Nat) : OnlyBlames s (countEvent s event unit die n) := by
  unfold countEvent
  split
  · exact OnlyBlames.refl s
  · exact modHub_blames s _

theorem find?_map_values {α : Type} (f : α → α) (k : Nat) : ∀ t : Tbl α, Tbl.find? (t.map (fun p => (p.1, f p.2))) k = (Tbl.find? t k).map f
  | [] => rfl
  | (m, v) :: r => by
    simp only [List.map_cons, Tbl.find?]
    split
    · rfl
    · exact find?_map_values f k r

theorem fenceCore_blames (s : State) (c : Nat) : OnlyBlames s (fenceCore s c) := by
  refine ⟨rfl, rfl, rfl, rfl, fun lid l h => ⟨l.eligible.filter (fun k => k != c), ?_⟩⟩
  have hfind := find?_map_values (fun l : Launch => { l with eligible := l.eligible.filter (fun k => k != c) }) lid s.launches
  rw [getLaunch] at h ⊢
  rw [h] at hfind
  exact hfind

theorem fenceEffect_blames (s : State) (unit die : Nat) : OnlyBlames s (fenceEffect s unit die) := by
  unfold fenceEffect
  dsimp only
  repeat' split
  · exact onlyBlames_of_rest rfl rfl rfl rfl rfl
  · exact onlyBlames_of_rest rfl rfl rfl rfl rfl
  · exact onlyBlames_of_rest rfl rfl rfl rfl rfl
  · exact fenceCore_blames s _
  · exact OnlyBlames.refl s

theorem raiseMsi_blames (s : State) (b : Nat) : OnlyBlames s (raiseMsi s b) := onlyBlames_of_rest rfl rfl rfl rfl rfl

theorem fenceUnit_blames (s : State) (unit reason die : Nat) : OnlyBlames s (fenceUnit s unit reason die) :=
  (fenceEffect_blames s unit die).trans ((modHub_blames _ _).trans (raiseMsi_blames _ 0))

theorem blameUnit_blames (s : State) (unit die : Nat) : OnlyBlames s (blameUnit s unit die) := by
  unfold blameUnit
  extract_lets key n t
  split
  · exact (modHub_blames s _).trans (fenceUnit_blames t unit 0 die)
  · exact modHub_blames s _

/-! ## The effect of a record (R335, R464, R469) -/

/-- How a record that ends a launch ends it. -/
def endingOf (r : FaultRecord) (l : Launch) : Ending :=
  if faultClass r.code (flagRestartable l) = .rollsBack ∧ l.rollbacks < 3 then
    .rollback (if unitOfCore r.unit then some (coreOfUnit (dieOf r.wave) r.unit) else none)
  else .kill

theorem rollsBack_iff {code : Nat} {b : Bool} : faultClass code b = .rollsBack ↔ (code = 0x14 ∨ code = 0x15 ∨ code = 0x17) ∧ b = true := by
  unfold faultClass
  split
  · exact iff_of_false nofun (fun ⟨hc, _⟩ => by omega)
  · split
    · exact iff_of_false nofun (fun ⟨hc, _⟩ => by omega)
    · split
      · next h => cases b <;> simp [h]
      · next h => exact iff_of_false nofun (fun ⟨hc, _⟩ => h hc)

section
variable (s : State) (r : FaultRecord)

theorem recordTakesEffect_rest : (recordTakesEffect s r).mem = s.mem ∧ (recordTakesEffect s r).waves = s.waves
    ∧ (recordTakesEffect s r).contexts = s.contexts := by
  unfold recordTakesEffect
  repeat' split
  all_goals exact ⟨rfl, rfl, rfl⟩

variable {s r} {lid : Nat} {l : Launch} (hr : r.lid = some lid) (hl : getLaunch s lid = some l)
include hr hl

/-- A record that ends a launch ends one that no earlier record ends. -/
theorem recordTakesEffect_launch (hn : l.ending = none) : getLaunch (recordTakesEffect s r) lid
    = some (if r.ends then { l with ending := some (endingOf r l) } else l) := by
  unfold recordTakesEffect
  simp only [hr, hl]
  cases r.ends with
  | false => exact hl
  | true =>
    have hmod := getLaunch_modLaunch_some (fun x => { x with ending := match x.ending with | some y => some y | none => some (endingOf r l) }) hl
    rw [hn] at hmod
    exact hmod

end

/-! ## The record in the fault queue (R325, R326) -/

/-- The place of the next record of a context. -/
def nextRecord (x : Context) : Nat := x.faultq + 64 * (x.faultProd % 2 ^ x.faultqLog2)

/-- The record is in its place and the queue has advanced: what `recordTakesEffect` finds. -/
def recordPut (s : State) (c : Nat) (x : Context) (r : FaultRecord) : State :=
  let t := countEvent (raiseMsi (modCtx (writePhys s (nextRecord x) (bytesOfNat 64 (faultNat r))) c (fun x => { x with faultProd := x.faultProd + 1 })) c)
    2 r.unit (dieOf r.wave) 1
  if r.code = 0x14 ∨ r.code = 0x15 ∨ r.code = 0x17 then blameUnit t r.unit (dieOf r.wave) else t

theorem putFault_eq (s : State) (c : Nat) (x : Context) (r : FaultRecord) : putFault s c x r = recordTakesEffect (recordPut s c x r) r := rfl

section
variable (s : State) (c : Nat) (x : Context) (r : FaultRecord)

theorem recordPut_blames : OnlyBlames (modCtx (writePhys s (nextRecord x) (bytesOfNat 64 (faultNat r))) c (fun x => { x with faultProd := x.faultProd + 1 }))
    (recordPut s c x r) := by
  have hcount := (modHub_blames _ _).trans (countEvent_blames (raiseMsi (modCtx (writePhys s (nextRecord x) (bytesOfNat 64 (faultNat r))) c
    (fun x => { x with faultProd := x.faultProd + 1 })) c) 2 r.unit (dieOf r.wave) 1)
  unfold recordPut
  extract_lets t
  split
  · exact hcount.trans (blameUnit_blames t _ _)
  · exact hcount

theorem byteAt_putFault (a : Nat) : byteAt (putFault s c x r) a = byteAt (writePhys s (nextRecord x) (bytesOfNat 64 (faultNat r))) a := by
  obtain ⟨hmem, -, -⟩ := recordTakesEffect_rest (recordPut s c x r) r
  rw [putFault_eq, byteAt, hmem, (recordPut_blames s c x r).mem]
  rfl

theorem byteAt_putFault_inside {k : Nat} (hk : k < 64) : byteAt (putFault s c x r) (nextRecord x + k) = BitVec.ofNat 8 (faultNat r / 2 ^ (8 * k)) := by
  rw [byteAt_putFault, writePhys, byteAt_writePhysCls_inside (by rwa [length_bytesOfNat]), getElem_bytesOfNat]

theorem byteAt_putFault_outside {a : Nat} (ha : a < nextRecord x ∨ nextRecord x + 64 ≤ a) : byteAt (putFault s c x r) a = byteAt s a := by
  rw [byteAt_putFault, writePhys, byteAt_writePhysCls_outside (by rwa [length_bytesOfNat])]

theorem writePhys_waves (pa : Nat) (bs : List Byte) : (writePhys s pa bs).waves = s.waves ∧ (writePhys s pa bs).contexts = s.contexts
    ∧ (writePhys s pa bs).launches = s.launches := by
  obtain ⟨ks, ms, ts, cs, rs, h⟩ := writePhysCls_rest s 1 pa bs false
  rw [writePhys, h]
  exact ⟨rfl, rfl, rfl⟩

theorem waves_putFault : (putFault s c x r).waves = s.waves := by
  obtain ⟨-, hwaves, -⟩ := recordTakesEffect_rest (recordPut s c x r) r
  obtain ⟨hw, -, -⟩ := writePhys_waves s (nextRecord x) (bytesOfNat 64 (faultNat r))
  rw [putFault_eq, hwaves, (recordPut_blames s c x r).waves, modCtx_waves, hw]

variable {s c x}

theorem getCtx_putFault (hx : getCtx s c = some x) : getCtx (putFault s c x r) c = some { x with faultProd := x.faultProd + 1 } := by
  obtain ⟨-, -, hctx⟩ := recordTakesEffect_rest (recordPut s c x r) r
  obtain ⟨-, hc, -⟩ := writePhys_waves s (nextRecord x) (bytesOfNat 64 (faultNat r))
  rw [putFault_eq, getCtx, hctx, (recordPut_blames s c x r).contexts]
  simp only [modCtx, hc, Tbl.find?_modify_same]
  rw [getCtx] at hx
  rw [hx, Option.map_some]

/-- Of a launch, a record that is written changes its eligible cores and, where it ends it, its ending. -/
theorem getLaunch_putFault {lid : Nat} {l : Launch} (hr : r.lid = some lid) (hl : getLaunch s lid = some l) (hn : l.ending = none) :
    ∃ e, getLaunch (putFault s c x r) lid
      = some (if r.ends then { l with eligible := e, ending := some (endingOf r { l with eligible := e }) } else { l with eligible := e }) := by
  obtain ⟨-, -, hlaunch⟩ := writePhys_waves s (nextRecord x) (bytesOfNat 64 (faultNat r))
  obtain ⟨e, he⟩ := (recordPut_blames s c x r).launch lid l (by rwa [getLaunch, modCtx_launches, hlaunch])
  exact ⟨e, by rw [putFault_eq]; exact recordTakesEffect_launch hr he hn⟩

end

/-! ## Writing or holding the record -/

section
variable {s : State} {c : Nat} {x : Context} {r : FaultRecord} (hx : getCtx s c = some x)
include hx

theorem writeFault_puts (hroom : faultRoom x = true) (hr : recordReady s r = true) (hold : ∀ h ∈ x.heldFaults, recordReady s h = false) :
    writeFault s c r = putFault s c x r := by
  have hall : x.heldFaults.all (fun h => !(recordReady s h)) = true := List.all_eq_true.mpr fun h hm => by rw [hold h hm, Bool.not_false]
  simp only [writeFault, hx, hroom, hr, hall, Bool.and_self, if_true]

theorem writeFault_holds (h : ¬(faultRoom x = true ∧ recordReady s r = true ∧ ∀ h ∈ x.heldFaults, recordReady s h = false)) :
    writeFault s c r = modCtx s c (fun x => { x with heldFaults := x.heldFaults ++ [r] }) := by
  have hno : (faultRoom x && recordReady s r && x.heldFaults.all (fun h => !(recordReady s h))) = false := by
    refine Bool.eq_false_iff.mpr fun hc => h ?_
    simp only [Bool.and_eq_true, List.all_eq_true, Bool.not_eq_true', and_assoc] at hc
    exact hc
  simp only [writeFault, hx, hno, Bool.false_eq_true, if_false]

end

theorem waves_writeFault (s : State) (c : Nat) (r : FaultRecord) : (writeFault s c r).waves = s.waves := by
  unfold writeFault
  split
  · rfl
  · split
    · exact waves_putFault s c _ r
    · rfl

/-! ## A fault of a control stream -/

/-- What a fault does to the wave of the control stream that it meets: nothing while a page is awaited, a hold of a trap or breakpoint, or the
stop at the instruction (R321, R334). -/
def faultedWave (code : Nat) (w : Wave) : Wave :=
  if code = 0x0A then w else if code = 0x1A ∨ code = 0x1B then { w with held := 0 :: w.held } else { w with faulted := true }

/-- The record of a fault of a control stream. -/
def controlRecord (s : State) (wid code detail : Nat) : FaultRecord :=
  faultRecord s (.control wid) (standing s (.control wid)) (unitFor s (.control wid) code) code detail none false (endsByClass code)

section
variable {s : State} {wid : Nat} {w : Wave} {code detail c : Nat} (hw : getWave s wid = some w) (hc : ctxOf s w = some c)
include hw hc

/-- The fault is the entry of its record, and then what it does to the wave. -/
theorem raiseFault_control : raiseFault s (.control wid) code detail none none
    = if code = 0x0A then writeFault s c (controlRecord s wid code detail)
      else modWave (writeFault s c (controlRecord s wid code detail)) wid (faultedWave code) := by
  unfold raiseFault takeFault
  simp only [actorWave, hw, hc, Option.getD_none]
  split
  · rfl
  · next hne =>
    unfold faultedWave
    simp only [hne, if_false]
    split <;> rfl

theorem raiseFault_rest : (raiseFault s (.control wid) code detail none none).mem = (writeFault s c (controlRecord s wid code detail)).mem
    ∧ (raiseFault s (.control wid) code detail none none).launches = (writeFault s c (controlRecord s wid code detail)).launches
    ∧ (raiseFault s (.control wid) code detail none none).contexts = (writeFault s c (controlRecord s wid code detail)).contexts := by
  rw [raiseFault_control hw hc]
  split <;> exact ⟨rfl, rfl, rfl⟩

theorem getWave_raiseFault : getWave (raiseFault s (.control wid) code detail none none) wid = some (faultedWave code w) := by
  have hwave : getWave (writeFault s c (controlRecord s wid code detail)) wid = some w := by rwa [getWave, waves_writeFault]
  rw [raiseFault_control hw hc]
  split
  · next h => rw [hwave, faultedWave, if_pos h]
  · rw [getWave_modWave_some _ hwave]

theorem getWave_raiseFault_ne {k : Nat} (hk : k ≠ wid) : getWave (raiseFault s (.control wid) code detail none none) k = getWave s k := by
  have hwave : getWave (writeFault s c (controlRecord s wid code detail)) k = getWave s k := by rw [getWave, waves_writeFault, getWave]
  rw [raiseFault_control hw hc]
  split
  · exact hwave
  · exact (Tbl.find?_modify_ne _ hk _).trans hwave

omit hc in
theorem controlRecord_eq {lid : Nat} {l : Launch} (hl : launchOf s w = some (lid, l)) : controlRecord s wid code detail
    = { timebase := s.timebase, qentry := l.qentry, detail := detail, block := 0, mask := 0, pc := w.pc.toNat
        unit := unitFor s (.control wid) code, wave := wid, ends := endsByClass code, deferred := false, cont := false, path := 0, stream := false
        code := code, lid := some lid, after := some (w.uid, w.seq) } := by
  simp only [controlRecord, faultRecord, actorWave, standing, hw, hl, Option.map_some, Bool.false_eq_true, if_false]

end

theorem unitFor_control (s : State) (wid code : Nat) : unitFor s (.control wid) code
    = if code = 0x0A then 0x7000 + wid / 32 % 64 * 64 else if code = 0x0D then 0x4000 + wid / 128 * 8 else wid / 32 % 64 * 64 := by
  simp only [unitFor, actorWave, actorUnit, coreUnit, clusterUnit, coreOf, clusterOf, Nat.zero_mul, Nat.zero_add, Nat.add_zero, Nat.reduceMul]

theorem endsByClass_eq (code : Nat) : endsByClass code = !decide (code = 0x0A ∨ code = 0x1A ∨ code = 0x1B) := by
  simp only [endsByClass, Bool.decide_or, Bool.or_assoc, beq_eq_decide]

/-- How the launch of a control stream ends by a fault that is written. -/
theorem endingOf_eq (r : FaultRecord) (l : Launch) (e : List Nat) : endingOf r { l with eligible := e }
    = if (r.code = 0x14 ∨ r.code = 0x15 ∨ r.code = 0x17) ∧ flagRestartable l = true ∧ l.rollbacks < 3 then
        .rollback (if unitOfCore r.unit then some (coreOfUnit (dieOf r.wave) r.unit) else none)
      else .kill := by
  have hflag : flagRestartable { l with eligible := e } = flagRestartable l := rfl
  simp only [endingOf, rollsBack_iff, hflag, and_assoc]

/-- Settles O58: the entry of a fault of a control stream, its record and what it does to the wave and its launch. -/
theorem faultEntry : Obligations.FaultEntry := by
  unfold Obligations.FaultEntry
  intro s wid w code detail c lid x l hw hc hx hl survives unit rec' t at' room
  have hrec : controlRecord s wid code detail = rec' := by
    rw [controlRecord_eq hw hl, unitFor_control, endsByClass_eq]
  have hlaunch : getLaunch s lid = some l := getLaunch_of_launchOf hl
  obtain ⟨hmem, hlaunches, hctx⟩ := raiseFault_rest (detail := detail) (code := code) hw hc
  rw [hrec] at hmem hlaunches hctx
  have hbyte (a : Nat) : byteAt t a = byteAt (writeFault s c rec') a := by rw [byteAt, hmem, byteAt]
  have hgetCtx : getCtx t c = getCtx (writeFault s c rec') c := by rw [getCtx, hctx, getCtx]
  have hgetLaunch : getLaunch t lid = getLaunch (writeFault s c rec') lid := by rw [getLaunch, hlaunches, getLaunch]
  refine ⟨fun ⟨hroom, hready, hheld⟩ => ?_, fun hno => ?_, getWave_raiseFault hw hc, fun k hk => getWave_raiseFault_ne hw hc hk, faultNat_fields⟩
  · have hput : writeFault s c rec' = putFault s c x rec' := writeFault_puts hx (decide_eq_true hroom) hready hheld
    refine ⟨fun k hk => ?_, fun a ha => ?_, ⟨_, (hgetCtx.trans (congrArg (getCtx · c) hput)).trans (getCtx_putFault rec' hx), rfl, rfl⟩, fun hn => ?_⟩
    · exact (hbyte _).trans ((congrArg (byteAt · _) hput).trans (byteAt_putFault_inside s c x rec' hk))
    · exact (hbyte _).trans ((congrArg (byteAt · _) hput).trans (byteAt_putFault_outside s c x rec' ha))
    · obtain ⟨e, he⟩ := getLaunch_putFault rec' (c := c) (x := x) rfl hlaunch hn
      refine ⟨_, hgetLaunch.trans ((congrArg (getLaunch · lid) hput).trans he), ?_⟩
      cases hs : survives with
      | true => simp [rec', hs, hn]
      | false =>
        have hends : rec'.ends = true := congrArg (! ·) hs
        simp only [hends, if_true, endingOf_eq, Bool.false_eq_true, if_false]
        split <;> rfl
  · have hhold : writeFault s c rec' = modCtx s c (fun x => { x with heldFaults := x.heldFaults ++ [rec'] }) :=
      writeFault_holds hx fun ⟨hroom, hrest⟩ => hno ⟨of_decide_eq_true hroom, hrest⟩
    refine ⟨fun a => (hbyte a).trans ((congrArg (byteAt · a) hhold).trans rfl), hgetLaunch.trans ((congrArg (getLaunch · lid) hhold).trans rfl), ?_⟩
    refine ⟨{ x with heldFaults := x.heldFaults ++ [rec'] }, (hgetCtx.trans (congrArg (getCtx · c) hhold)).trans ?_, rfl, rfl⟩
    rw [getCtx] at hx
    rw [getCtx, modCtx, Tbl.find?_modify_same, hx, Option.map_some]

end Sys2Proof.Machine
end

/-! # The canonical form of memory: the operations of the state (R293)

Device memory, its line tags and the differences of its check values stay in canonical form. The lemmas of this part and the next go
through the operations of the model in their order; each says that one operation keeps the form, and cites the operations it is made of. -/

section
namespace Sys2Proof.Machine

open Sys2Proof.Laws

/-! ## The form, of a state and of what an operation answers -/

/-- Memory, tags and differences of check values in canonical form. -/
def CanonParts (m : List Host.Cell) (tags : Cells (BitVec 4)) (checks : Cells Half) : Prop :=
  Memory.wf m = true ∧ Cells.wf 0 tags = true ∧ Cells.wf 0 checks = true

/-- The state keeps them so. -/
def Canon (s : State) : Prop := CanonParts s.mem s.tags s.checks

theorem canon_iff {s : State} : Canon s ↔ s.memOk := Iff.rfl

/-- So does the next state of an outcome. -/
def CanonOut : Out → Prop
  | .next t => Canon t
  | _ => True

/-- So does the state of a result. -/
def CanonRes {ε : Type} : Except ε State → Prop
  | .ok t => Canon t
  | .error _ => True

/-- So does the state of an answer that there may be. -/
def CanonOpt : Option State → Prop
  | some t => Canon t
  | none => True

/-- So does the state of what an instruction with captured operands applies. -/
def CanonApplied : Res Applied → Prop
  | .ok (.done t _) => Canon t
  | _ => True

theorem canon_of_ok {ε : Type} {r : Except ε State} {t : State} (hr : CanonRes r) (h : r = .ok t) : Canon t := by
  rw [h] at hr
  exact hr

theorem canon_of_some {o : Option State} {t : State} (ho : CanonOpt o) (h : o = some t) : Canon t := by
  rw [h] at ho
  exact ho

theorem canon_of_next {o : Out} {t : State} (ho : CanonOut o) (h : o = .next t) : Canon t := by
  rw [h] at ho
  exact ho

/-- A fold of steps that keep the form keeps it. -/
theorem canon_foldl {α : Type} {f : State → α → State} (hf : ∀ t x, Canon t → Canon (f t x)) : ∀ (xs : List α) {s : State}, Canon s → Canon (xs.foldl f s)
  | [], _, h => h
  | x :: xs, _, h => canon_foldl hf xs (hf _ x h)

/-- What a step that may fail binds: the rest keeps the form for every value. -/
theorem canonRes_bind {ε α : Type} {r : Except ε α} {k : α → Except ε State} (h : ∀ a, r = .ok a → CanonRes (k a)) : CanonRes (r >>= k) := by
  cases r with
  | error e => trivial
  | ok a => exact h a rfl

theorem canonApplied_bind {α : Type} {r : Res α} {k : α → Res Applied} (h : ∀ a, r = .ok a → CanonApplied (k a)) : CanonApplied (r >>= k) := by
  cases r with
  | error e => trivial
  | ok a => exact h a rfl

/-! ## State, memory, faults and packets -/

section
variable {s : State}

theorem canon_freshUid (h : Canon s) : Canon (freshUid s).2 := h

theorem canon_freeByteOf (h : Canon s) : Canon (freeByteOf s).2 := h

theorem canon_freeWordOf (h : Canon s) : Canon (freeWordOf s).2 := h

theorem canon_freeNatOf (h : Canon s) : Canon (freeNatOf s).2 := h

theorem canon_freeBytesOf : ∀ (n : Nat) {s : State}, Canon s → Canon (freeBytesOf s n).2
  | 0, _, h => h
  | n + 1, _, h => canon_freeBytesOf n (canon_freeByteOf h)

theorem canon_retag (h : Canon s) (cls line whole poison) : Canon (retag s cls line whole poison) := retag_memOk h

theorem canon_dropL2 (h : Canon s) (c line) : Canon (dropL2 s c line) := dropL2_memOk h

theorem canon_evictL2 (h : Canon s) (c line r) : Canon (evictL2 s c line r) := evictL2_memOk h

theorem canon_loadL2 (h : Canon s) (c line hint cls m) : Canon (loadL2 s c line hint cls m) := loadL2_memOk h

theorem canon_writeBackRange (h : Canon s) (lo hi) : Canon (writeBackRange s lo hi) := writeBackRange_memOk h

theorem canon_writePhysCls (h : Canon s) (cls pa bs poison) : Canon (writePhysCls s cls pa bs poison) := writePhysCls_memOk h

theorem canon_writePhys (h : Canon s) (pa bs) : Canon (writePhys s pa bs) := writePhys_memOk h

theorem canon_writeFault (h : Canon s) (c r) : Canon (writeFault s c r) := writeFault_memOk h

theorem canon_takeFault (h : Canon s) (a st unit code detail mask deferred) : Canon (takeFault s a st unit code detail mask deferred) := takeFault_memOk h

theorem canon_raiseFault (h : Canon s) (a code detail mask unit) : Canon (raiseFault s a code detail mask unit) := raiseFault_memOk h

theorem canon_stall (h : Canon s) : CanonOut (stall s) := h

theorem canon_setWave (h : Canon s) (wid w) : Canon (setWave s wid w) := h

theorem canon_modWave (h : Canon s) (wid f) : Canon (modWave s wid f) := h

theorem canon_modTeam (h : Canon s) (t f) : Canon (modTeam s t f) := h

theorem canon_modLaunch (h : Canon s) (l f) : Canon (modLaunch s l f) := h

theorem canon_modCtx (h : Canon s) (c f) : Canon (modCtx s c f) := h

theorem canon_setCore (h : Canon s) (c k) : Canon (setCore s c k) := h

theorem canon_setCluster (h : Canon s) (c k) : Canon (setCluster s c k) := h

theorem canon_setStack (h : Canon s) (k x) : Canon (setStack s k x) := h

theorem canon_modHub (h : Canon s) (f) : Canon (modHub s f) := h

theorem canon_modFabric (h : Canon s) (f) : Canon (modFabric s f) := h

theorem canon_setL2 (h : Canon s) (c line r) : Canon (setL2 s c line r) := h

theorem canon_evictTurn (h : Canon s) (c line) : CanonOpt (evictTurn s c line) := by
  unfold evictTurn
  grind [Canon, CanonOpt, canon_evictL2]

theorem canon_traceAppend (h : Canon s) (c x rec) : Canon (traceAppend s c x rec) := by
  unfold traceAppend
  grind [Canon, canon_modCtx, canon_writePhys]

theorem canon_traceLoss (h : Canon s) (c x) : Canon (traceLoss s c x) := by
  unfold traceLoss
  grind [Canon, canon_modCtx, canon_traceAppend]

theorem canon_traceEvent (h : Canon s) (c kind always rec) : Canon (traceEvent s c kind always rec) := by
  unfold traceEvent
  grind [Canon, canon_traceAppend, canon_traceLoss]

theorem canon_raiseMsi (h : Canon s) (v) : Canon (raiseMsi s v) := h

theorem canon_modPort (h : Canon s) (p f) : Canon (modPort s p f) := h

theorem canon_countEvent (h : Canon s) (event unit die n) : Canon (countEvent s event unit die n) := by
  unfold countEvent
  grind [Canon, canon_modHub]

theorem canon_retirePort (h : Canon s) (p) : Canon (retirePort s p) := h

theorem canon_fenceCore (h : Canon s) (c) : Canon (fenceCore s c) := h

theorem canon_fenceEffect (h : Canon s) (unit die) : Canon (fenceEffect s unit die) := by
  unfold fenceEffect
  grind [Canon, canon_setCore, canon_setCluster, canon_retirePort, canon_fenceCore]

theorem canon_fenceUnit (h : Canon s) (unit reason die) : Canon (fenceUnit s unit reason die) := by
  unfold fenceUnit
  grind [Canon, canon_modHub, canon_raiseMsi, canon_fenceEffect]

theorem canon_endLaunch (h : Canon s) (l e) : Canon (endLaunch s l e) := h

theorem canon_putFault (h : Canon s) (c x r) : Canon (putFault s c x r) := putFault_memOk h

theorem canon_modHeld (h : Canon s) (a fw fp fc) : Canon (modHeld s a fw fp fc) := by
  unfold modHeld
  grind [Canon, canon_modWave]

theorem canon_holdActor (h : Canon s) (a) : Canon (holdActor s a) := by
  unfold holdActor
  grind [Canon, canon_modHeld]

theorem canon_releaseActor (h : Canon s) (a) : Canon (releaseActor s a) := by
  unfold releaseActor
  grind [Canon, canon_modHeld]

theorem canon_sendPacket (h : Canon s) (d purpose) : Canon (sendPacket s d purpose) := by
  unfold sendPacket
  grind [Canon]

theorem canon_forward (h : Canon s) (p) : Canon (forward s p) := by
  unfold forward
  grind [Canon]

theorem canon_sendReply (h : Canon s) (p kind poisoned payload) : Canon (sendReply s p kind poisoned payload) := by
  unfold sendReply
  grind [Canon]

theorem canon_badCopy (h : Canon s) (pkg addr) : Canon (badCopy s pkg addr) := h

theorem canon_keepCopy (h : Canon s) (pkg addr hint bs poison) : Canon (keepCopy s pkg addr hint bs poison) := by
  unfold keepCopy
  grind [Canon, canon_modFabric, canon_loadL2]

theorem canon_touchCopy (h : Canon s) (pkg addr hint) : Canon (touchCopy s pkg addr hint) := by
  unfold touchCopy
  grind [Canon, canon_loadL2]

theorem canon_requestLine (h : Canon s) (job pkg addr) : CanonOut (requestLine s job pkg addr) := by
  unfold requestLine
  grind [Canon, CanonOut, canon_stall, canon_sendPacket, canon_badCopy]

theorem canon_dropCopy (h : Canon s) (pkg addr) : Canon (dropCopy s pkg addr) := by
  unfold dropCopy
  grind [Canon, canon_modFabric, canon_dropL2]

theorem canon_tellHolders (h : Canon s) (hs) : Canon (tellHolders s hs) :=
  canon_foldl (fun t x ht => by
    split
    · exact ht
    · exact canon_sendPacket ht _ _) hs h

theorem canon_invalidateHolders (h : Canon s) (line) : Canon (invalidateHolders s line) := by
  unfold invalidateHolders
  grind [Canon, canon_tellHolders]

theorem canon_evictSome (h : Canon s) (hs) : CanonOut (evictSome s hs) := by
  unfold evictSome
  grind [Canon, CanonOut, canon_stall, canon_tellHolders]

theorem canon_evictLine (h : Canon s) (line) : CanonOut (evictLine s line) := by
  unfold evictLine
  grind [Canon, CanonOut, canon_evictSome]

theorem canon_runControl (h : Canon s) {body : Nat → Wave → Res State} (hb : ∀ wid w, AtControl s wid w → CanonRes (body wid w)) :
    CanonOut (runControl s body) := by
  cases ho : runControl s body with
  | fault f => trivial
  | refused r => trivial
  | next t =>
    obtain ⟨wid, w, hat, hbody⟩ := runControl_cases ho
    obtain hok | ⟨-, rfl⟩ | ⟨p, a, -, hask⟩ | ⟨l, -, hevict⟩ | ⟨c, d, m, u, -, rfl⟩ := hbody
    · exact canon_of_ok (hb wid w hat) hok
    · exact h
    · exact canon_of_next (canon_requestLine h _ p a) hask
    · exact canon_of_next (canon_evictLine h l) hevict
    · exact canon_raiseFault h _ c d m u

theorem canon_cacheWalk (h : Canon s) (c va) : Canon (cacheWalk s c va) := by
  unfold cacheWalk
  grind [Canon]

theorem canon_dropTranslations (h : Canon s) (root base len) : Canon (dropTranslations s root base len) := h

theorem canon_evictWalk (h : Canon s) (c va) : Canon (evictWalk s c va) := by
  unfold evictWalk
  grind [Canon, canon_dropTranslations]

theorem canon_dropLeaf (h : Canon s) (root va old) : Canon (dropLeaf s root va old) := h

theorem canon_writeSpad (h : Canon s) (t off bs poison) : Canon (writeSpad s t off bs poison) := by
  unfold writeSpad
  grind [Canon, canon_modTeam]

theorem canon_dropL1 (h : Canon s) (core) : Canon (dropL1 s core) := by
  unfold dropL1
  grind [Canon, canon_setCore]

theorem canon_pageFault (h : Canon s) (a st addr write mask) : Canon (pageFault s a st addr write mask) := by
  unfold pageFault
  grind [Canon, canon_takeFault]

theorem canon_coreL1Write (h : Canon s) (core p bs) : Canon (coreL1Write s core p bs) := coreL1Write_memOk h

theorem canon_acquireAt (h : Canon s) (wid scope) : Canon (acquireAt s wid scope) := acquireAt_memOk h

theorem canon_writePlace (h : Canon s) (p bs poison) : Canon (writePlace s p bs poison) := writePlace_memOk h

theorem canon_atomicAt (h : Canon s) (wid p op n opnd cmp hint) : Canon (atomicAt s wid p op n opnd cmp hint).2 := atomicAt_memOk h

theorem canon_beginReleases (h : Canon s) (p rs) : Canon (beginReleases s p rs) := beginReleases_memOk h

theorem canon_performStore (h : Canon s) (wid b scope) : Canon (performStore s wid b scope) := performStore_memOk h

end

end Sys2Proof.Machine
end

/-! # The canonical form of memory: the instructions -/

section
namespace Sys2Proof.Machine

open Sys2Proof.Laws

section
variable {s : State}

theorem canon_runLane (h : Canon s) {body : LaneCtx → Res State} (hb : ∀ L, AtLane s L → CanonRes (body L)) : CanonOut (runLane s body) := by
  cases ho : runLane s body with
  | fault f => trivial
  | refused r => trivial
  | next t =>
    obtain ⟨L, hat, hbody⟩ := runLane_cases ho
    obtain hok | ⟨-, rfl⟩ | ⟨p, a, -, hask⟩ | ⟨l, -, hevict⟩ | ⟨c, d, m, u, -, rfl⟩ := hbody
    · exact canon_of_ok (hb L hat) hok
    · exact h
    · exact canon_of_next (canon_requestLine h _ p a) hask
    · exact canon_of_next (canon_evictLine h l) hevict
    · exact canon_raiseFault h _ c d m u

/-! ## Shapes of instructions -/

theorem canon_waterfall {issue : Nat → List Nat → State → Res State} (hi : ∀ v ls t, Canon t → CanonRes (issue v ls t)) :
    ∀ (gs : List (Nat × List Nat)) {s : State}, Canon s → Canon (waterfall issue gs s).1
  | [], _, h => h
  | g :: r, s, h => by
    simp only [waterfall]
    split
    · next t ht => exact canon_waterfall hi r (canon_of_ok (hi g.1 g.2 s h) ht)
    · exact h

theorem canon_waterRun (h : Canon s) (i L) {issue : Nat → List Nat → State → Res State} (hi : ∀ v ls t, Canon t → CanonRes (issue v ls t)) (gs) :
    CanonRes (waterRun i L issue gs s) := by
  have hw := canon_waterfall hi gs h
  unfold waterRun
  grind [Canon, CanonRes, canon_modWave, canon_raiseFault]

theorem canon_laneMap (h : Canon s) (i f r g) : CanonOut (laneMap i f r g s) := canon_runLane h fun _ _ => canonRes_bind fun _ _ => h

theorem canon_paletteIssue (h : Canon s) (i f r L g v ls) : CanonRes (paletteIssue i f r L g v ls s) :=
  canonRes_bind fun _ _ => canonRes_bind fun _ _ => canonRes_bind fun _ _ => h

theorem canon_paletteRun (h : Canon s) (i f r g) : CanonOut (paletteRun i f r g s) := by
  have hissue (L v ls) (t : State) (ht : Canon t) := canon_paletteIssue ht i f r L g v ls
  refine canon_runLane h fun L _ => ?_
  split
  · exact canonRes_bind fun _ _ => canonRes_bind fun gs _ => canon_waterRun h i L (hissue L) gs
  · exact canonRes_bind fun _ _ => canonRes_bind fun t ht => canon_modWave (canon_of_ok (hissue L _ _ s h) ht) _ _

theorem canon_qMap (h : Canon s) (i f two g) : CanonOut (qMap i f two g s) := canon_runLane h fun _ _ => canonRes_bind fun _ _ => h

theorem canon_writeBack (h : Canon s) (i wid w d v) : Canon (writeBack i s wid w d v) := h

theorem canon_alu3 (h : Canon s) (i f g) : CanonOut (alu3 i f g s) :=
  canon_runControl h fun _ _ _ => canonRes_bind fun _ _ => canonRes_bind fun _ _ => canonRes_bind fun _ _ => h

theorem canon_alu2 (h : Canon s) (i f g) : CanonOut (alu2 i f g s) :=
  canon_runControl h fun _ _ _ => canonRes_bind fun _ _ => canonRes_bind fun _ _ => h

theorem canon_aluI (h : Canon s) (i f g) : CanonOut (aluI i f g s) :=
  canon_runControl h fun _ _ _ => canonRes_bind fun _ _ => canonRes_bind fun _ _ => h

theorem canon_issueScalar (h : Canon s) (i wid w a addr write r) : CanonRes (issueScalar i s wid w a addr write r) := by
  unfold issueScalar
  simp only [bind, Except.bind]
  grind [Canon, CanonRes, canon_setWave, canon_pageFault]

theorem canon_fillL1 (h : Canon s) (wid p) : Canon (fillL1 s wid p) := by
  unfold fillL1
  grind [Canon, canon_setCore]

theorem canon_prefetchLine (h : Canon s) (wid hint p) : Canon (prefetchLine s wid hint p) := by
  unfold prefetchLine
  grind [Canon, canon_loadL2, canon_fillL1]

theorem canon_prefetchAt (h : Canon s) (wid w hint addr) : Canon (prefetchAt s wid w hint addr) := by
  unfold prefetchAt
  grind [Canon, canon_prefetchLine]

theorem canon_jumpTo (h : Canon s) (f) : CanonOut (jumpTo f s) := by
  refine canon_runControl h fun wid w _ => ?_
  repeat refine canonRes_bind fun _ _ => ?_
  exact h

theorem canon_branch (h : Canon s) (i f c) : CanonOut (branch i f c s) := by
  refine canon_runControl h fun wid w _ => ?_
  repeat refine canonRes_bind fun _ _ => ?_
  exact h

/-! ## Installs and engine operations -/

theorem canon_finishApplied (h : Canon s) (i wid w d srcs) {r : Res Applied} (hr : CanonApplied r) {x : Applied} (hx : r = .ok x) :
    Canon (finishApplied i s wid w d srcs x) := by
  rw [hx] at hr
  cases x with
  | done t v => exact hr
  | absent a e => exact canon_pageFault (canon_setWave h _ _) ..

theorem canon_withImage {wid w addr align n} {k : List Byte → Res Applied} (hk : ∀ bs, CanonApplied (k bs)) : CanonApplied (withImage s wid w addr align n k) := by
  refine canonApplied_bind fun x _ => ?_
  cases x with
  | bytes bs => exact hk bs
  | absent a e => trivial

theorem canon_installTensor (h : Canon s) (c tid addr bs) : CanonRes (installTensor s c tid addr bs) := by
  unfold installTensor raises
  split
  · exact h
  · trivial

theorem canon_installCode (h : Canon s) (c n bs) : CanonRes (installCode s c n bs) := by
  unfold installCode raises
  split
  · exact h
  · trivial

theorem canon_installPalette (h : Canon s) (c n count bs) : Canon (installPalette s c n count bs) := h

theorem canon_applyTdef (h : Canon s) (f wid w addr) : CanonApplied (applyTdef f s wid w addr) :=
  canon_withImage fun bs => canonApplied_bind fun cx _ => canonApplied_bind fun _ ht => canon_of_ok (canon_installTensor h cx.1 _ _ bs) ht

theorem canon_applyCtload (h : Canon s) (f wid w addr) : CanonApplied (applyCtload f s wid w addr) :=
  canon_withImage fun bs => canonApplied_bind fun cx _ => canonApplied_bind fun _ ht => canon_of_ok (canon_installCode h cx.1 _ bs) ht

theorem canon_applyPalld (h : Canon s) (f wid w addr) : CanonApplied (applyPalld f s wid w addr) :=
  canon_withImage fun bs => canonApplied_bind fun cx _ => canon_installPalette h cx.1 _ _ bs

theorem canon_installInstr (h : Canon s) (i f id) {apply : State → Nat → Wave → Dword → Res Applied}
    (ha : ∀ wid w x, CanonApplied (apply s wid w x)) : CanonOut (installInstr i f id apply s) :=
  canon_runControl h fun wid w _ => canonRes_bind fun x _ => canonRes_bind fun _ _ => canonRes_bind fun _ _ => canonRes_bind fun _ hr =>
    canon_finishApplied h i wid w none [x.1] (ha wid w x.1) hr

theorem canon_cancelItem (h : Canon s) (team e) : Canon (cancelItem team s e) := by
  unfold cancelItem
  split
  · exact canon_modTeam h _ _
  · exact h

theorem canon_pushEngine (h : Canon s) (i wid w op) : Canon (pushEngine i s wid w op) := by
  unfold pushEngine
  extract_lets e t
  have ht : Canon t := h
  split
  · exact canon_cancelItem (canon_setWave ht _ _) _ _
  · exact canon_setWave ht _ _

theorem canon_engineIssue (h : Canon s) (i f a b c matrix checks) : CanonOut (engineIssue i f a b c matrix checks s) :=
  canon_runControl h fun wid w _ => canonRes_bind fun _ _ => canonRes_bind fun _ _ => canonRes_bind fun op _ => canonRes_bind fun _ _ =>
    canon_pushEngine h i wid w op

theorem canon_settleHot (h : Canon s) (team) : Canon (settleHot team s) := by
  unfold settleHot
  split
  · exact h
  · exact canon_foldl (fun t _ ht => canon_modTeam (canon_freeWordOf ht) _ _) _ h

theorem canon_finishItem (h : Canon s) (wid id) : Canon (finishItem wid id s) := by
  unfold finishItem
  split
  · exact canon_settleHot (canon_setWave h _ _) _
  · exact h

theorem canon_modItem (h : Canon s) (wid id f) : Canon (modItem wid id f s) := h

theorem canon_cancelUnstarted (h : Canon s) (wid) : Canon (cancelUnstarted s wid) := by
  unfold cancelUnstarted
  split
  · exact h
  · exact canon_modWave (canon_foldl (fun t e ht => canon_cancelItem ht _ e) _ h) _ _

theorem canon_engineFail (h : Canon s) (wid e code detail unit) : Canon (engineFail s wid e code detail unit) := by
  unfold engineFail
  split
  · exact h
  · exact canon_modWave (canon_finishItem (canon_cancelUnstarted (canon_cancelItem h _ _) _) _ _) _ _

theorem canon_settleItem (h : Canon s) (wid w e) {r : Res State} (hr : CanonRes r) : CanonOut (settleItem s wid w e r) := by
  unfold settleItem
  grind [CanonOut, CanonRes, canon_stall, canon_requestLine, canon_evictLine, canon_engineFail]

theorem canonRes_map {ε : Type} {r : Except ε State} {f : State → State} (hr : CanonRes r) (hf : ∀ t, Canon t → Canon (f t)) : CanonRes (r.map f) := by
  cases r with
  | error e => trivial
  | ok t => exact hf t hr

theorem canon_servedAt (h : Canon s) (wid) : Canon (servedAt wid s) := h

theorem canon_runMatrix (h : Canon s) (wid want) {body : Wave → Context → EngineItem → Res State} (hb : ∀ w x e, CanonRes (body w x e)) :
    CanonOut (runMatrix s wid want body) := by
  unfold runMatrix
  split
  · exact h
  · split
    · split
      · exact canon_settleItem h _ _ _ (canonRes_map (hb _ _ _) fun _ ht => canon_servedAt ht wid)
      · exact h
    · exact h

theorem canon_runMatrixWhole (h : Canon s) (wid want) {body : Wave → Context → EngineItem → Res State} (hb : ∀ w x e, CanonRes (body w x e)) :
    CanonOut (runMatrixWhole s wid want body) :=
  canon_runMatrix h wid want fun w x e => canonRes_map (hb w x e) fun _ ht => canon_finishItem (canon_modWave ht _ _) _ _

/-! ## Writes of the engines, and the lane memory -/

theorem canon_allocWritten (h : Canon s) (wid w p addr n hint) : Canon (allocWritten s wid w p addr n hint) := by
  unfold allocWritten
  grind [Canon, canon_loadL2]

theorem canon_engineWriteLine (h : Canon s) (wid w x e addr bs poison) : CanonRes (engineWriteLine s wid w x e addr bs poison) := by
  unfold engineWriteLine
  split
  · trivial
  · split
    · exact h
    · split
      · exact canon_sendPacket (canon_dropCopy h _ _) _ _
      · trivial
  · split
    · trivial
    · split
      · trivial
      · exact canon_coreL1Write (canon_allocWritten (canon_writePlace h _ _ _) ..) _ _ _

theorem canon_engineWrite (wid w x e) : ∀ (n : Nat) {s : State} (addr : Nat) (bs : List (Byte × Bool)), Canon s → CanonRes (engineWrite wid w x e n s addr bs)
  | 0, _, _, _, h => h
  | _ + 1, _, _, [], h => h
  | n + 1, s, addr, b :: bs, h => by
    simp only [engineWrite]
    split
    · trivial
    · next t ht => exact canon_engineWrite wid w x e n _ _ (canon_of_ok (canon_engineWriteLine h ..) ht)

theorem canon_engineWriteAll (h : Canon s) (wid w x e addr bs) : CanonRes (engineWriteAll s wid w x e addr bs) := canon_engineWrite wid w x e _ _ _ h

theorem canon_engineElem (h : Canon s) (wid w x e t row col code poison) : CanonRes (engineElem s wid w x e t row col code poison) :=
  canon_engineWriteAll h ..

theorem canon_engineElems (wid w x e t) : ∀ {s : State} (es : List (Nat × Nat × Nat × Bool)), Canon s → CanonRes (engineElems wid w x e t s es)
  | _, [], h => h
  | s, (r, c, v, p) :: rest, h => by
    simp only [engineElems]
    split
    · trivial
    · next u hu => exact canon_engineElems wid w x e t rest (canon_of_ok (canon_engineElem h ..) hu)

theorem canon_spendFree (h : Canon s) (n) : Canon (spendFree n s) := h

theorem canon_deliverFault (h : Canon s) (wid w) : CanonOpt (deliverFault s wid w) := by
  unfold deliverFault
  grind [Canon, CanonOpt, canon_modWave, canon_takeFault]

theorem canon_issueLanes (h : Canon s) (i L a mark write r) : CanonRes (issueLanes i s L a mark write r) := by
  unfold issueLanes
  simp only [bind, Except.bind]
  grind [Canon, CanonRes, canon_setWave, canon_pageFault]

theorem canon_laneAtomic (h : Canon s) (i f op) : CanonOut (laneAtomic i f op s) := by
  refine canon_runLane h fun L _ => ?_
  repeat refine canonRes_bind fun _ _ => ?_
  exact canon_issueLanes h ..

theorem canon_storeAcc (h : Canon s) (team key v hot) : Canon (storeAcc s team key v hot) := by
  unfold storeAcc
  grind [Canon, canon_modTeam, canon_freeWordOf]

theorem canon_vldaIssue (h : Canon s) (f L tile) : CanonRes (vldaIssue f L tile s) := by
  unfold vldaIssue
  repeat refine canonRes_bind fun _ _ => ?_
  exact h

theorem canon_vstaIssue (h : Canon s) (f L tile) : CanonRes (vstaIssue f L tile s) := by
  refine canonRes_bind fun _ _ => canonRes_bind fun _ _ => ?_
  extract_lets hot t
  have ht : Canon t := canon_foldl (fun u _ hu => canon_modWave (canon_storeAcc hu ..) _ _) _ h
  change Canon (if _ then _ else _)
  split
  · exact canon_modWave ht _ _
  · exact ht

theorem canon_accIssue (f load L tile ls) (t : State) (h : Canon t) : CanonRes (accIssue f load L tile ls t) := by
  unfold accIssue
  simp only [bind, Except.bind]
  grind [Canon, CanonRes, canon_vldaIssue, canon_vstaIssue]

theorem canon_accInstr (h : Canon s) (i f load) : CanonOut (accInstr i f load s) := by
  refine canon_runLane h fun L _ => canonRes_bind fun _ _ => ?_
  split
  · refine canonRes_bind fun gs _ => ?_
    split
    · exact canon_waterRun h i L (canon_accIssue f load L) gs
    · exact canonRes_bind fun _ _ => canon_waterRun h i L (canon_accIssue f load L) gs
  · exact canonRes_bind fun _ _ => canonRes_bind fun t ht => canon_modWave (canon_of_ok (canon_accIssue f load L _ _ s h) ht) _ _

end

end Sys2Proof.Machine
end

/-! # The canonical form of memory: the engines (R293) -/

section
namespace Sys2Proof.Machine

open Sys2Proof.Laws

section
variable {s : State}

/-! ## The matrix unit -/

theorem canon_finishTile (h : Canon s) (wid w e tile flags) : Canon (finishTile wid w e tile flags s) := by
  unfold finishTile
  grind [Canon, canon_modWave, canon_modTeam, canon_finishItem, canon_spendFree]

theorem canon_beginAdd (h : Canon s) (wid w x e tile slot bTid b d) : CanonRes (beginAdd s wid w x e tile slot bTid b d) := by
  refine canonRes_bind fun u _ => canonRes_bind fun _ _ => canonRes_bind fun team _ => ?_
  have ht : Canon (modTeam s w.team (placeTable slot u.1)) := canon_modTeam h _ _
  split
  · exact canon_finishTile ht ..
  · exact canonRes_bind fun _ _ => canon_modItem ht _ _ _

theorem canon_addNext (h : Canon s) (wid w e tile p b z) : Canon (addNext s wid w e tile p b z) := by
  unfold addNext
  grind [Canon, canon_modTeam, canon_modItem, canon_spendFree, canon_finishTile]

theorem canon_failMembers (f) : ∀ (ms : List (Nat × Wave × EngineItem)) {s : State}, Canon s → Canon (failMembers f ms s)
  | [], _, h => h
  | _ :: r, _, h => canon_failMembers f r (canon_engineFail h ..)

theorem canon_memberBegin (h : Canon s) (d m) : CanonRes (memberBegin d s m) := by
  unfold memberBegin
  split
  · exact canon_beginAdd h ..
  · trivial

theorem canon_membersBegin (d) : ∀ {s : State} (ms : List (Nat × Wave × EngineItem)), Canon s → CanonRes (membersBegin d s ms)
  | _, [], h => h
  | s, m :: r, h => by
    simp only [membersBegin]
    split
    · next t ht => exact canon_membersBegin d r (canon_of_ok (canon_memberBegin h d m) ht)
    · trivial

theorem canon_latchBegin (h : Canon s) (ms d) : CanonOut (latchBegin s ms d) := by
  unfold latchBegin
  split
  · exact canon_failMembers _ _ h
  · split
    · exact h
    · split
      · next t ht => exact canon_of_ok (canon_membersBegin d ms h) ht
      · exact canon_failMembers _ _ h
      · exact h

theorem canon_latchRun (h : Canon s) (ms wid w x e) : CanonOut (latchRun s ms wid w x e) := by
  unfold latchRun
  split
  · split
    · exact canon_failMembers _ _ h
    · exact h
    · exact canon_requestLine h ..
    · exact canon_evictLine h _
    · exact canon_latchBegin h ..
  · exact h

theorem canon_latchMeets (h : Canon s) (wid w x e g word us) : CanonOut (latchMeets s wid w x e g word us) := by
  unfold latchMeets
  dsimp only
  split
  · exact canon_engineFail h ..
  · split
    · exact h
    · split
      · exact h
      · split
        · exact canon_failMembers _ _ h
        · exact canon_latchRun h ..

theorem canon_xposeWrite (wid w x e d row col) :
    ∀ {s : State} (bs : List ((Nat × Nat) × Nat × List Nat)), Canon s → CanonRes (xposeWrite wid w x e d row col s bs)
  | _, [], h => h
  | s, ((r, c), b, ys) :: rest, h => by
    simp only [xposeWrite]
    split
    · trivial
    · next t ht =>
      have hcells : Canon t := canon_of_ok (canon_engineElems wid w x e d _ h) ht
      split
      · trivial
      · next u hu => exact canon_xposeWrite wid w x e d row col rest (canon_of_ok (canon_engineWriteAll hcells ..) hu)

/-! ## The copy engine -/

theorem canon_modUid (h : Canon s) (uid f) : Canon (modUid s uid f) := h

theorem canon_recordAsync (h : Canon s) (uid code member) : Canon (recordAsync s uid code member) := h

/-- What an engine's access answers, in the form of the engine's own results. -/
theorem canonRes_orEngine {r : Ranged State} (h : CanonRes r) (b) : CanonRes (orEngine b r) := by
  cases r with
  | error e => trivial
  | ok t => exact h

theorem canon_writeWeights (h : Canon s) (cluster off bs) : Canon (writeWeights s cluster off bs) :=
  canon_foldl (f := fun s _ => setCluster s cluster _) (fun _ _ ht => ht) _ h

theorem canon_windowPiece (h : Canon s) (uid ctx addr bs) : Canon (windowPiece s uid ctx addr bs) := by
  unfold windowPiece
  grind [Canon, canon_modTeam, canon_writeSpad, canon_spendFree, canon_recordAsync]

theorem canon_windowWrite (h : Canon s) (w e ctx addr bs) : Canon (windowWrite s w e ctx addr bs) := by
  unfold windowWrite
  split
  · exact h
  · exact canon_foldl (fun _ _ ht => canon_windowPiece ht ..) _ h

theorem canon_writeWord (h : Canon s) (wid w ctx x e d bs) : CanonRes (writeWord s wid w ctx x e d bs) := by
  unfold writeWord
  split
  · exact canonRes_orEngine (canon_engineWriteAll h ..) _
  · exact canon_writeWeights h ..
  · exact canon_windowWrite h ..

theorem canon_closeLines (wid w x e) : ∀ (ks : List CopyWord) {s : State}, Canon s → CanonRes (closeLines wid w x e ks s)
  | [], _, h => h
  | k :: r, s, h => by
    simp only [closeLines]
    split
    · exact canonRes_bind fun t ht => canon_closeLines wid w x e r (canon_of_ok (canonRes_orEngine (canon_engineWriteAll h ..) _) ht)
    · exact canon_closeLines wid w x e r h

theorem canon_copyTile (h : Canon s) (wid w ctx x e d src row col drow dcol) : CanonRes (copyTile s wid w ctx x e d src row col drow dcol) := by
  refine canonRes_bind fun es _ => ?_
  dsimp only
  split
  · exact canonRes_bind fun _ _ => canon_foldl (fun _ _ ht => canon_windowWrite ht ..) _ (canon_spendFree h _)
  · exact canonRes_orEngine (canon_engineElems wid w x e d _ (canon_spendFree h _)) _

theorem canon_copyDone (h : Canon s) (wid e) : Canon (copyDone wid e s) := by
  unfold copyDone
  grind [Canon, canon_modWave, canon_finishItem, canon_modItem]

theorem canon_beginUnit (h : Canon s) (wid w x e) : CanonRes (beginUnit s wid w x e) := by
  unfold beginUnit
  repeat refine canonRes_bind fun _ _ => ?_
  exact h

theorem canon_streamTurn (h : Canon s) (wid w ctx x e) : CanonRes (streamTurn s wid w ctx x e) := by
  unfold streamTurn
  split
  · exact canonRes_bind fun t ht => canon_modItem (canon_of_ok (canon_writeWord (canon_spendFree h 1) ..) ht) ..
  · refine canonRes_bind fun t ht => ?_
    have hm := canon_modItem (canon_of_ok (canon_closeLines wid w x e _ h) ht) wid e.id (fun e => { e with lines := [] })
    dsimp only
    split
    · exact canon_beginUnit hm ..
    · exact canon_copyDone hm ..

theorem canon_castFails (h : Canon s) (wid e i) : Canon (castFails wid e i s) := h

theorem canon_castOne (h : Canon s) (wid w x e dst bs m) : CanonRes (castOne wid w x e dst bs s m) := by
  unfold castOne
  grind [Canon, CanonRes, canon_sendPacket, canon_dropCopy, canon_engineWriteAll, canon_castFails]

theorem canon_castUnit (wid w x e dst bs) : ∀ {s : State} (ms : List (Nat × Nat)), Canon s → CanonRes (castUnit wid w x e dst bs s ms)
  | _, [], h => h
  | s, m :: r, h => by
    simp only [castUnit]
    split
    · next t ht => exact canon_castUnit wid w x e dst bs r (canon_of_ok (canon_castOne h ..) ht)
    · trivial

theorem canon_castUnits (wid w x e src dst ms) : ∀ (n k : Nat) {s : State}, Canon s → CanonRes (castUnits wid w x e src dst ms n k s)
  | 0, _, _, h => h
  | n + 1, k, s, h => by
    refine canonRes_bind fun bs _ => canonRes_bind fun t ht => ?_
    exact canon_castUnits wid w x e src dst ms n (k + 1) (canon_of_ok (canonRes_orEngine (canon_castUnit wid w x e _ _ ms (canon_spendFree h 32)) _) ht)

theorem canon_copyBody (h : Canon s) (wid w ctx x e0) : CanonRes (copyBody s wid w ctx x e0) := by
  refine canonRes_bind fun e _ => ?_
  have hm := canon_modItem h wid e.id (fun y => { y with members := e.members })
  dsimp only
  split
  · refine canonRes_bind fun t ht => ?_
    have hp := canon_of_ok (canon_castUnits wid w x e _ _ _ _ _ hm) ht
    grind [Canon, CanonRes, canon_modItem, canon_modWave]
  · split
    · exact canonRes_bind fun t ht => canon_copyDone (canon_of_ok (canon_copyTile hm ..) ht) ..
    · exact canon_streamTurn hm ..
  · trivial
  · exact canon_streamTurn hm ..

theorem canon_freeBytesRun (wid w x e) : ∀ (fuel a n : Nat) {s : State}, Canon s → CanonRes (freeBytesRun wid w x e fuel a n s)
  | 0, _, _, _, h => h
  | fuel + 1, a, n, s, h => by
    simp only [freeBytesRun]
    split
    · exact h
    · split
      · next t ht => exact canon_freeBytesRun wid w x e fuel _ _ (canon_of_ok (canon_engineWriteAll (canon_spendFree h _) ..) ht)
      · trivial
      · trivial
      · exact canon_freeBytesRun wid w x e fuel _ _ h

theorem canon_freeDst (h : Canon s) (wid w ctx x e r) : CanonRes (freeDst wid w ctx x e s r) := by
  unfold freeDst
  dsimp only
  split
  · exact canon_freeBytesRun wid w x e _ _ _ h
  · exact canon_writeWeights (canon_spendFree h _) ..
  · exact canon_windowWrite (canon_spendFree h _) ..

theorem canon_freeCast (h : Canon s) (wid w x e dst units) : Canon (freeCast wid w x e dst units s) := by
  refine canon_foldl (fun _ k ht => canon_foldl (fun u m hu => ?_) _ ht) _ h
  split
  · next v hv => exact canon_of_ok (canon_castOne (canon_spendFree hu 32) ..) hv
  · exact hu

/-- A fold of steps that may fail keeps the form of a result. -/
theorem canonRes_foldl {ε α : Type} {f : Except ε State → α → Except ε State} (hf : ∀ r x, CanonRes r → CanonRes (f r x)) :
    ∀ (xs : List α) {r : Except ε State}, CanonRes r → CanonRes (xs.foldl f r)
  | [], _, h => h
  | x :: xs, _, h => canonRes_foldl hf xs (hf _ x h)

theorem canon_scramble (h : Canon s) (wid w ctx x e code) : CanonRes (scramble s wid w ctx x e code) := by
  unfold scramble
  extract_lets y dsts
  split
  · exact h
  · split
    · exact canon_freeCast h ..
    · refine canonRes_foldl (fun r d hr => ?_) _ h
      cases r with
      | ok t => exact canon_freeDst hr ..
      | error z => trivial

theorem canon_copyServedAt (h : Canon s) (wid) : Canon (copyServedAt wid s) := h

theorem canon_sendBody (h : Canon s) (w c x e k cap src len tag wid) : CanonRes (sendBody s w c x e k cap src len tag wid) := by
  unfold sendBody
  simp only [bind, Except.bind]
  grind [Canon, CanonRes, canon_modWave, canon_modCtx, canon_modFabric, canon_sendPacket, canon_finishItem, canon_modItem, canon_spendFree]

theorem canon_windowSettle (h : Canon s) (z) : Canon (windowSettle s z) := by
  unfold windowSettle
  grind [Canon, canon_modUid]

end
end Sys2Proof.Machine
end

/-! # The canonical form of memory: rings, waits and signal boxes (R293) -/

section
namespace Sys2Proof.Machine

open Sys2Proof.Laws

section
variable {s : State}

/-- The state of a message that a ring takes. -/
def CanonPlacing : Placing → Prop
  | .placed t => Canon t
  | _ => True

theorem canon_of_placed {r : Placing} {t : State} (hr : CanonPlacing r) (h : r = .placed t) : Canon t := by
  rw [h] at hr
  exact hr

theorem canon_getD {o : Option State} (ho : CanonOpt o) (h : Canon s) : Canon (o.getD s) := by
  cases o with
  | none => exact h
  | some t => exact ho

/-! ## Writes of device units, and rings -/

theorem canon_deviceLine (h : Canon s) (x addr bs poison) : CanonRes (deviceLine s x addr bs poison) := by
  unfold deviceLine
  grind [Canon, CanonRes, canon_sendPacket, canon_dropCopy, canon_writePlace]

theorem canon_deviceRun (x poison) : ∀ (n : Nat) {s : State} (addr : Nat) (bs : List Byte), Canon s → CanonRes (deviceRun x poison n s addr bs)
  | 0, _, _, _, h => h
  | n + 1, s, addr, bs, h => by
    cases bs with
    | nil => exact h
    | cons b r =>
      simp only [deviceRun]
      split
      · trivial
      · next t ht => exact canon_deviceRun x poison n _ _ (canon_of_ok (canon_deviceLine h ..) ht)

theorem canon_arrivalPort (h : Canon s) (plane) : Canon (arrivalPort s plane).2 := h

theorem canon_leaveAll (level) : ∀ (ps : List (Nat × Wave)) {s : State}, Canon s → Canon (leaveAll level ps s)
  | [], _, h => h
  | _ :: r, _, h => canon_leaveAll level r (canon_acquireAt (canon_modWave h ..) ..)

theorem canon_completeWait (h : Canon s) (wid) {k : Wave → Option State} (hk : ∀ w, CanonOpt (k w)) : CanonOut (completeWait s wid k) := by
  unfold completeWait
  grind [CanonOut, canon_stall, canon_of_some]

theorem canon_deviceWrite (h : Canon s) (x addr bs poison) : CanonRes (deviceWrite s x addr bs poison) := by
  unfold deviceWrite
  grind [Canon, CanonRes, canon_deviceRun]

theorem canon_deviceAtomic (h : Canon s) (x addr op opnd) : CanonRes (deviceAtomic s x addr op opnd) := by
  unfold deviceAtomic
  grind [Canon, CanonRes, canon_sendPacket, canon_dropCopy, canon_writePlace]

theorem canon_countDropped (h : Canon s) (plane) : Canon (countDropped s plane) := h

theorem canon_refusalRecord (h : Canon s) (c code plane addr write) : Canon (refusalRecord s c code plane addr write) := by
  unfold refusalRecord
  grind [Canon, canon_writeFault, canon_arrivalPort]

theorem canon_placeRing (h : Canon s) (c x k src tag data poison) : CanonPlacing (placeRing s c x k src tag data poison) := by
  unfold placeRing
  grind [Canon, CanonPlacing, CanonRes, canon_modCtx, canon_deviceWrite]

theorem canon_answerMessage (h : Canon s) (p ans hint) : Canon (answerMessage s p ans hint) := by
  unfold answerMessage
  grind [Canon, canon_modFabric, canon_sendReply]

theorem canon_holdMessage (h : Canon s) (p left) : Canon (holdMessage s p left) := h

theorem canon_refuseMessage (h : Canon s) (p passed) : Canon (refuseMessage s p passed) := by
  unfold refuseMessage
  grind [Canon, canon_freeNatOf, canon_answerMessage, canon_holdMessage]

theorem canon_placeMessage (h : Canon s) (p passed) : CanonOut (placeMessage s p passed) := by
  unfold placeMessage
  grind [Canon, CanonOut, CanonPlacing, canon_stall, canon_modCtx, canon_modFabric, canon_invalidateHolders, canon_evictLine, canon_refusalRecord,
    canon_placeRing, canon_answerMessage, canon_holdMessage, canon_refuseMessage]

theorem canon_orWait (h : Canon s) {r : Res State} (hr : CanonRes r) : CanonOut (orWait s r) := by
  unfold orWait
  split
  · exact hr
  · exact canon_evictLine h _
  · exact canon_stall h

theorem canon_placeEmitted (h : Canon s) (p) : CanonRes (placeEmitted s p) := by
  unfold placeEmitted
  grind [Canon, CanonPlacing, CanonRes, canon_countDropped, canon_placeRing]

theorem canon_eventRecord (h : Canon s) (job event box reason rec) : Canon (eventRecord s job event box reason rec) := by
  unfold eventRecord
  split
  · exact h
  · extract_lets lose put
    have hput : ∀ u, Canon u → Canon (put u) := by
      intro u hu
      unfold put
      split
      · exact hu
      · split
        · next ht => exact canon_of_placed (canon_placeRing hu ..) ht
        · exact hu
    clear_value put
    split
    · split
      · exact h
      · split
        · exact hput s h
        · split
          · next ht => exact hput _ (canon_modCtx (canon_of_placed (canon_placeRing h ..) ht) ..)
          · exact h
    · exact h

/-! ## Barriers and waits -/

theorem canon_fenceaReport (h : Canon s) (wid w d) : Canon (fenceaReport s wid w d) := by
  unfold fenceaReport
  grind [Canon, canon_setWave, canon_raiseFault]

theorem canon_tryBarrier (h : Canon s) (lid level unit) : CanonOpt (tryBarrier s lid level unit) := by
  unfold tryBarrier
  grind [Canon, CanonOpt, canon_leaveAll]

theorem canon_enterBarrier (h : Canon s) (wid w level) : CanonRes (enterBarrier s wid w level) := by
  refine canonRes_bind fun _ _ => canonRes_bind fun l _ => ?_
  have hw : Canon (setWave s wid { w with ctl := .barrier level }) := h
  show Canon (Option.getD _ _)
  exact canon_getD (canon_tryBarrier hw ..) hw

theorem canon_applyWaitev (h : Canon s) (f wid w addr target) : CanonApplied (applyWaitev f s wid w addr target) := by
  refine canon_withImage fun bs => ?_
  dsimp only
  split
  · exact canon_acquireAt h ..
  · trivial

theorem canon_waitevTry (h : Canon s) (f wid w addr target) : CanonRes (waitevTry f s wid w addr target) := by
  have hA := canon_applyWaitev h f wid w addr target
  unfold waitevTry
  split
  · next r hr =>
    rw [hr] at hA
    cases r with
    | done t v => exact canon_finishApplied h (r := .ok (.done _ v)) _ _ _ _ _ (canon_modWave hA ..) rfl
    | absent a e => exact canon_finishApplied h (r := .ok (.absent a e)) _ _ _ _ _ trivial rfl
  · exact h
  · trivial

theorem canon_trapControl (h : Canon s) (i wid w code detail) : Canon (trapControl i s wid w code detail) := by
  unfold trapControl
  grind [Canon, canon_setWave, canon_takeFault]

theorem canon_closeTiles (h : Canon s) (team) : Canon (closeTiles s team) := by
  unfold closeTiles
  grind [Canon, canon_modTeam]

/-! ## Privileged installs -/

theorem canon_applyDtload (h : Canon s) (f wid w addr ctx) : CanonApplied (applyDtload f s wid w addr ctx) := by
  refine canonApplied_bind fun _ _ => ?_
  split
  · exact canon_modCtx h ..
  · refine canon_withImage fun bs => ?_
    dsimp only
    split
    · trivial
    · exact canon_modCtx h ..

theorem canon_applyCapset (h : Canon s) (f wid w addr ctx) : CanonApplied (applyCapset f s wid w addr ctx) := by
  refine canonApplied_bind fun _ _ => ?_
  dsimp only
  split
  · exact canon_modCtx h ..
  · refine canon_withImage fun bs => ?_
    split
    · trivial
    · exact canon_modCtx h ..

theorem canon_privInstr (h : Canon s) (i f d) {apply : State → Nat → Wave → Dword → Dword → Res Applied}
    (ha : ∀ wid w x y, CanonApplied (apply s wid w x y)) : CanonOut (privInstr i f apply d s) := by
  refine canon_runControl h fun wid w _ => canonRes_bind fun x _ => canonRes_bind fun _ _ => canonRes_bind fun r hr => ?_
  exact canon_finishApplied h i wid w d [x.1, x.2.1] (ha wid w x.1 x.2.1) hr

theorem canon_setBox (h : Canon s) (sel b) : Canon (setBox s sel b) := h

/-! ## Signal boxes -/

theorem canon_offerPacket (h : Canon s) (sel p b stage) : Canon (offerPacket s sel p b stage) := h

theorem canon_leaveDie (h : Canon s) (p stage) : Canon (leaveDie s p stage) := by
  unfold leaveDie
  split
  · exact canon_offerPacket h ..
  · exact canon_forward h _

theorem canon_endRun (h : Canon s) (sel) : Canon (endRun s sel) := h

theorem canon_settleMessage (h : Canon s) (p) : Canon (settleMessage s p) := by
  unfold settleMessage
  split
  · exact canon_answerMessage h ..
  · exact h

theorem canon_trapRun (h : Canon s) (sel r reason code value) : Canon (trapRun s sel r reason code value) :=
  canon_eventRecord (canon_settleMessage (canon_endRun h sel) r.pkt) ..

theorem canon_passRun (h : Canon s) (sel r) : CanonOut (passRun s sel r) := by
  have hend := canon_endRun h sel
  unfold passRun
  extract_lets p t
  split
  · exact canon_placeMessage hend ..
  · split
    · exact canon_orWait h (canon_placeEmitted hend p)
    · exact canon_forward hend p

theorem canon_emitPacket (h : Canon s) (r) : Canon (emitPacket s r) := by
  have hctr : Canon { s with freeCtr := s.freeCtr + 1 } := h
  unfold emitPacket
  dsimp only
  split
  · exact canon_forward hctr _
  · exact canon_leaveDie hctr ..

/-- A word of a signal box changes the box, a ring or the packets, whatever it computes. -/
theorem canon_runWord (h : Canon s) (body) : CanonOut (runWord s body) := by
  unfold runWord
  split
  · dsimp only
    split
    · split
      · exact canon_setBox h ..
      · exact canon_setBox h ..
      · exact canon_trapRun h ..
      · exact canon_passRun h ..
      · exact canon_settleMessage (canon_endRun h _) _
      · exact canon_emitPacket (canon_setBox h ..) _
    · trivial
  · trivial

/-! ## Loads and bindings of signal boxes -/

theorem canon_applySbload (h : Canon s) (f wid w addr sel) : CanonApplied (applySbload f s wid w addr sel) := by
  unfold applySbload
  split
  · exact h
  · refine canonApplied_bind fun _ _ => canon_withImage fun hd => canon_withImage fun bs => ?_
    dsimp only
    split
    · exact h
    · split
      · exact h
      · split
        · trivial
        · exact canon_setBox h ..

theorem canon_copyFails (h : Canon s) (e) : CanonApplied (copyFails s e) := by
  unfold copyFails
  grind [CanonApplied]

theorem canon_bindFlow (h : Canon s) (wid w sel b init addr) : CanonApplied (bindFlow s wid w sel b init addr) := by
  have hset (y : SigBox) : Canon (setBox s sel y) := canon_setBox h sel y
  unfold bindFlow
  dsimp only
  split
  · exact h
  split
  · exact h
  split
  · exact h
  split
  · exact h
  split
  · exact h
  split
  · exact hset _
  · exact hset _
  · refine canonApplied_bind fun cx _ => ?_
    split
    · exact hset _
    · exact canon_copyFails h _

theorem canon_copyLine (h : Canon s) (wid w x addr bs) : CanonRes (copyLine s wid w x addr bs) := by
  unfold copyLine
  grind [Canon, CanonRes, canon_modWave, canon_writePlace, canon_coreL1Write]

theorem canon_copyLines (wid w x) : ∀ (n : Nat) {s : State} (addr : Nat) (bs : List Byte), Canon s → CanonRes (copyLines wid w x n s addr bs)
  | 0, _, _, _, h => h
  | n + 1, s, addr, bs, h => by
    simp only [copyLines]
    split
    · trivial
    · next t ht => exact canon_copyLines wid w x n _ _ (canon_of_ok (canon_copyLine h ..) ht)

theorem canon_unbindFlow (h : Canon s) (wid w sel b copy addr) : CanonApplied (unbindFlow s wid w sel b copy addr) := by
  unfold unbindFlow
  extract_lets x
  split
  · exact h
  · extract_lets busy t
    have ht : Canon t := canon_setBox h ..
    clear_value busy t
    split
    · trivial
    · split
      · refine canonApplied_bind fun cx _ => ?_
        split
        · next u hu => exact canon_modWave (canon_of_ok (canon_copyLines wid w cx.2 _ _ _ ht) hu) ..
        · exact canon_copyFails h _
      · exact ht

theorem canon_applySbflow (h : Canon s) (f wid w addr sel) : CanonApplied (applySbflow f s wid w addr sel) := by
  unfold applySbflow
  split
  · exact h
  · refine canonApplied_bind fun _ _ => canon_withImage fun bs => ?_
    split
    · exact h
    · dsimp only
      split
      · exact canon_bindFlow h ..
      · exact canon_unbindFlow h ..

end
end Sys2Proof.Machine
end

/-! # The canonical form of memory: paths, tiles, loads and stores (R293) -/

section
namespace Sys2Proof.Machine

open Sys2Proof.Laws

section
variable {s : State}

/-! ## Splits, merges and blocks -/

theorem canon_traceActor (h : Canon s) (a st kind aux addr always) : Canon (traceActor s a st kind aux addr always) := by
  unfold traceActor
  grind [canon_traceEvent]

theorem canon_settleMerges (m wid) : ∀ (n : Nat) {s : State} (got : List Nat), Canon s → Canon (settleMerges m wid n s got).1
  | 0, _, _, h => h
  | n + 1, s, got, h => by
    simp only [settleMerges]
    split
    · exact h
    · split
      · exact h
      · split
        · exact canon_settleMerges m wid n _ (canon_traceActor (canon_modWave h ..) ..)
        · exact canon_takeFault h ..

theorem canon_setFetchWait (h : Canon s) (a e) : Canon (setFetchWait s a e) := by
  unfold setFetchWait
  grind [Canon, canon_modWave]

theorem canon_countShunts (h : Canon s) (wid n) : Canon (countShunts s wid n) := canon_countEvent h ..

theorem canon_splitPath (h : Canon s) (L e t n target next sig) : Canon (splitPath s L e t n target next sig) := by
  unfold splitPath
  grind [Canon, canon_setWave, canon_traceActor, canon_countShunts]

theorem canon_endBlock (h : Canon s) (wid) : Canon (endBlock s wid) := by
  unfold endBlock
  grind [Canon, canon_modWave, canon_traceActor]

theorem canon_settle (h : Canon s) (m wid) : Canon (settle m wid s) := by
  unfold settle
  grind [Canon, canon_modWave, canon_settleMerges, canon_endBlock]

theorem canon_trapLane (h : Canon s) (i L code detail mask) : Canon (trapLane i s L code detail mask) := by
  unfold trapLane
  grind [Canon, canon_setWave, canon_takeFault]

/-! ## Tiles -/

theorem canon_stageIssue (h : Canon s) (wid w pc r) : Canon (stageIssue s wid w pc r) := by
  unfold stageIssue
  grind [Canon, canon_modWave, canon_modTeam]

theorem canon_tileApply (h : Canon s) (wid w x a pc block path seq r) : CanonRes (tileApply s wid w x a pc block path seq r) := by
  unfold tileApply
  grind [Canon, CanonRes, canon_setWave, canon_stageIssue]

theorem canon_tileIssue (h : Canon s) (i f op L v ls) : CanonRes (tileIssue i f op L v ls s) := by
  unfold tileIssue
  extract_lets M w mark st issue
  refine canonRes_bind fun _ _ => canonRes_bind fun _ _ => ?_
  have hissue (u) : CanonRes (issue u) := by
    refine canonRes_bind fun t _ => ?_
    extract_lets r enter
    refine canonRes_bind fun _ _ => ?_
    have henter (u) : CanonRes (enter u) := by
      refine canonRes_bind fun _ _ => canonRes_bind fun x _ => ?_
      split
      · next t ht => exact canon_modWave (canon_of_ok (canon_tileApply h ..) ht) ..
      · trivial
      · trivial
      · exact canon_pageFault (canon_setWave h ..) ..
    split <;> exact canonRes_bind fun u _ => henter u
  split <;> exact canonRes_bind fun u _ => hissue u

theorem canon_tileInstr (h : Canon s) (i f op) : CanonOut (tileInstr i f op s) := by
  refine canon_runLane h fun L _ => ?_
  simp only [bind, Except.bind]
  grind [Canon, CanonRes, canon_modWave, canon_waterRun, canon_tileIssue]

/-! ## Loads, stores and atomics -/

theorem canon_laneDone (h : Canon s) (wid a l v) : Canon (laneDone s wid a l v) := h

theorem canon_laneBad (h : Canon s) (wid a l source) : Canon (laneBad s wid a l source) := h

theorem canon_settleAccess (h : Canon s) (wid a) : Canon (settleAccess s wid a) := by
  unfold settleAccess
  grind [Canon, canon_modWave, canon_takeFault, canon_acquireAt]

theorem canon_refreshL1 (h : Canon s) (wid a l) : Canon (refreshL1 s wid a l) := by
  unfold refreshL1
  grind [Canon, canon_loadL2, canon_touchCopy, canon_fillL1]

theorem canon_askLine (h : Canon s) (wid w a q b) : CanonOut (askLine s wid w a q b) := by
  unfold askLine
  grind [Canon, CanonOut, canon_stall, canon_modWave, canon_sendPacket, canon_settleAccess]

theorem canon_noteReads (h : Canon s) (wid rs) : Canon (noteReads wid rs s) := by
  unfold noteReads
  grind [Canon, canon_modWave]

theorem canon_deliverAll (h : Canon s) (wid a src vs) : Canon (deliverAll wid a src s vs) := by
  refine canon_settleAccess (canon_foldl (fun t p ht => ?_) _ (canon_noteReads h ..)) ..
  split
  · exact canon_laneDone ht ..
  · exact canon_laneBad ht ..

theorem canon_sendAtomic (h : Canon s) (w op q addr width order opnd cmp ordered purpose) : Canon (sendAtomic s w op q addr width order opnd cmp ordered purpose) := by
  unfold sendAtomic
  grind [Canon, canon_sendPacket, canon_dropCopy]

theorem canon_atomicLane (h : Canon s) (wid w a op l) : CanonRes (atomicLane wid w a op s l) := by
  unfold atomicLane
  simp only [bind, Except.bind]
  grind [Canon, CanonRes, canon_modWave, canon_atomicAt, canon_beginReleases, canon_laneDone, canon_laneBad, canon_noteReads, canon_sendAtomic]

theorem canon_atomicLanes (wid w a op) : ∀ (ls : List LaneAcc) {s : State}, Canon s → CanonRes (atomicLanes wid w a op ls s)
  | [], _, h => h
  | l :: r, _, h => canonRes_bind fun _ ht => canon_atomicLanes wid w a op r (canon_of_ok (canon_atomicLane h wid w a op l) ht)

theorem canon_atomicPoison (h : Canon s) (wid w b) : Canon (atomicPoison s wid w b) := by
  unfold atomicPoison
  grind [Canon, canon_modWave, canon_takeFault]

theorem canon_performAt (h : Canon s) (wid w b scope) : CanonOut (performAt s wid w b scope) := by
  unfold performAt
  grind [Canon, CanonOut, canon_stall, canon_modWave, canon_evictLine, canon_performStore, canon_atomicPoison]

theorem canon_widenStore (h : Canon s) (owner b) : CanonOut (widenStore s owner b) := by
  unfold widenStore
  grind [Canon, CanonOut, canon_stall, canon_performAt]

theorem canon_dropStores (h : Canon s) (wid q bs) : Canon (dropStores s wid q bs) := h

theorem canon_markSent (h : Canon s) (wid id bs) : Canon (markSent wid id bs s) := h

theorem canon_injectStore (h : Canon s) (wid w b q a) : CanonOut (injectStore s wid w b q a) := by
  have hcopy (d : Draft) (p : SentFor) (id bs) : Canon (markSent wid id bs (sendPacket (dropCopy s q a) d p)) :=
    canon_markSent (canon_sendPacket (canon_dropCopy h ..) ..) ..
  unfold injectStore
  extract_lets ready ordered id
  split
  · exact canon_stall h
  split
  · exact canon_dropStores h ..
  split
  · exact canon_stall h
  split
  · exact hcopy ..
  · split
    · exact canon_requestLine h ..
    · exact hcopy ..
  · split
    · exact canon_markSent (canon_sendAtomic h ..) ..
    · exact canon_stall h

end
end Sys2Proof.Machine
end

/-! # The canonical form of memory: launches, teams and replays (R293) -/

section
namespace Sys2Proof.Machine

open Sys2Proof.Laws

section
variable {s : State}

/-- The state after an install of a launch's list. -/
def CanonInstalled : Installed → Prop
  | .done t => Canon t
  | _ => True

/-- The state after the replay of a logged entry. -/
def CanonReplayed : Replayed → Prop
  | .done t => Canon t
  | _ => True

theorem canon_of_installed {r : Installed} {t : State} (hr : CanonInstalled r) (h : r = .done t) : Canon t := by
  rw [h] at hr
  exact hr

/-- What a search finds keeps the form when each of its candidates does. -/
theorem canon_findSome? {α : Type} {f : α → Option State} (hf : ∀ a, CanonOpt (f a)) (xs : List α) : CanonOpt (xs.findSome? f) := by
  cases hx : xs.findSome? f with
  | none => trivial
  | some t =>
    obtain ⟨a, -, ha⟩ := List.exists_of_findSome?_eq_some hx
    exact canon_of_some (hf a) ha

/-! ## Launches -/

theorem canon_putLaunch (h : Canon s) (lid l) : Canon { s with launches := Tbl.put s.launches lid l } := h

theorem canon_modQueue (h : Canon s) (q f) : Canon (modQueue s q f) := h

theorem canon_applyQput (h : Canon s) (f wid w addr x) : CanonApplied (applyQput f s wid w addr x) := by
  refine canonApplied_bind fun _ _ => canonApplied_bind fun _ _ => canonApplied_bind fun cx _ => canonApplied_bind fun _ _ => canon_withImage fun bs => ?_
  split
  · exact h
  · exact canon_modQueue (canon_writePhys h ..) ..

theorem canon_launchRecord (h : Canon s) (lid l code detail ends) : Canon (launchRecord s lid l code detail ends) := canon_writeFault h ..

theorem canon_advanceHead (h : Canon s) (l) : Canon (advanceHead s l) := by
  unfold advanceHead
  grind [Canon, canon_modHub, canon_modQueue]

theorem canon_refuseLaunch (h : Canon s) (lid l code detail) : Canon (refuseLaunch s lid l code detail) := by
  unfold refuseLaunch
  grind [Canon, canon_modLaunch, canon_launchRecord, canon_advanceHead]

theorem canon_cancelLaunch (h : Canon s) (lid l) : Canon (cancelLaunch s lid l) := by
  unfold cancelLaunch
  grind [Canon, canon_modLaunch, canon_advanceHead]

theorem canon_launchWaits (h : Canon s) (lid l addr entry write) : Canon (launchWaits s lid l addr entry write) := by
  unfold launchWaits
  grind [Canon, canon_modLaunch, canon_launchRecord]

theorem canon_launchStop (h : Canon s) (lid l e off) : CanonOut (launchStop s lid l e off) := by
  unfold launchStop
  grind [Canon, CanonOut, canon_stall, canon_requestLine, canon_evictLine, canon_refuseLaunch, canon_launchWaits]

theorem canon_installBytes (h : Canon s) (c kind idx count addr bs) : CanonInstalled (installBytes s c kind idx count addr bs) := by
  unfold installBytes
  grind [Canon, CanonInstalled, CanonRes, canon_installTensor, canon_installCode, canon_installPalette]

theorem canon_installEntry (h : Canon s) (c x bs) : CanonInstalled (installEntry s c x bs) := by
  unfold installEntry
  grind [Canon, CanonInstalled, canon_installBytes]

theorem canon_startLaunch (h : Canon s) (lid l cs) : Canon (startLaunch s lid l cs) := by
  unfold startLaunch
  grind [Canon, canon_modCtx, canon_advanceHead, canon_freshUid, canon_modLaunch]

theorem canon_readyToStart (h : Canon s) (lid l x) : CanonOut (readyToStart s lid l x) := by
  unfold readyToStart
  grind [CanonOut, canon_stall, canon_refuseLaunch, canon_startLaunch]

theorem canon_runInstall (lid x) : ∀ (n : Nat) {s : State} (l : Launch), Canon s → CanonOut (runInstall lid x n s l)
  | 0, _, _, h => canon_readyToStart h ..
  | n + 1, s, l, h => by
    simp only [runInstall]
    split
    · exact canon_refuseLaunch h ..
    · split
      · exact canon_launchStop h ..
      · split
        · exact canon_launchStop h ..
        · exact canon_refuseLaunch h ..
        · next ht => exact canon_runInstall lid x n _ (canon_putLaunch (canon_of_installed (canon_installEntry h ..) ht) ..)

theorem canon_afterEvent (h : Canon s) (lid l x) : CanonOut (afterEvent s lid l x) := by
  unfold afterEvent
  dsimp only
  split
  · exact canon_stall h
  · split
    · exact canon_refuseLaunch h ..
    · split
      · exact canon_readyToStart (canon_putLaunch h ..) ..
      · exact canon_runInstall lid x _ _ (canon_putLaunch h ..)

theorem canon_advanceLaunch (h : Canon s) (lid l) : CanonOut (advanceLaunch s lid l) := by
  unfold advanceLaunch
  split
  · exact canon_stall h
  split
  · exact canon_stall h
  split
  · split
    · exact canon_launchStop h ..
    · dsimp only
      split
      · exact canon_cancelLaunch h ..
      · split
        · exact canon_stall h
        · exact canon_afterEvent (canon_putLaunch h ..) ..
  · exact canon_afterEvent h ..

theorem canon_keepOr (h : Canon s) {o : Out} (ho : CanonOut o) : CanonOut (keepOr s o) := by
  unfold keepOr
  split
  · split
    · exact h
    · exact ho
  · exact ho

theorem canon_disarm (h : Canon s) (lid l) : Canon (disarm s lid l) := h

theorem canon_writeDone (h : Canon s) (lid l killed final) : CanonOut (writeDone s lid l killed final) := by
  unfold writeDone
  grind [Canon, CanonOut, CanonRes, canon_stall, canon_modLaunch, canon_modCtx, canon_requestLine, canon_evictLine, canon_deviceAtomic,
    canon_launchRecord, canon_launchWaits, canon_disarm]

/-! ## Teams -/

theorem canon_requestSplit (h : Canon s) (ls c) : Canon (requestSplit ls s c) := by
  unfold requestSplit
  grind [Canon, canon_setCore]

theorem canon_requestSplits (h : Canon s) : Canon (requestSplits s) :=
  canon_foldl (fun _ _ ht => canon_requestSplit ht ..) _ h

theorem canon_queueClear (h : Canon s) (wid) : Canon (queueClear s wid) := canon_setCore h ..

theorem canon_placeWaves (e key idx decode stops) :
    ∀ (w : Nat) (wids : List Nat) {s : State}, Canon s → Canon (placeWaves e key idx decode stops w wids s)
  | _, [], _, h => h
  | w, _ :: r, _, h => canon_placeWaves e key idx decode stops (w + 1) r (canon_queueClear (canon_setWave (canon_freshUid h) ..) _)

theorem canon_resetPointers (h : Canon s) (c) : Canon (resetPointers s c) := h

theorem canon_placeFresh (h : Canon s) (lid l idx c z) : Canon (placeFresh s lid l idx c z) := by
  have ht (t : Team) : Canon { (freshUid s).2 with teams := Tbl.put (freshUid s).2.teams (freshUid s).1 t } := h
  exact canon_modLaunch (canon_placeWaves _ _ _ _ _ _ _ (canon_dropL1 (canon_resetPointers (ht _) c) c)) ..

theorem canon_rewriteGangs (h : Canon s) : Canon (rewriteGangs s) := h

theorem canon_restoreWaves (decode) : ∀ (ms : List (Nat × Nat × Wave)) {s : State}, Canon s → Canon (restoreWaves decode ms s)
  | [], _, h => h
  | (_, _, _) :: r, _, h => canon_restoreWaves decode r (canon_setWave h ..)

theorem canon_unspilled (h : Canon s) (spill t k r) : Canon (unspilled spill s t k r).1 := by
  unfold unspilled
  grind [Canon]

theorem canon_unspillTables (h : Canon s) (spill t) : Canon (unspillTables spill t s).1 := by
  have hf : ∀ (ps : List (Nat × SlotRec)) (u : State × Tbl SlotRec), Canon u.1 →
      Canon (ps.foldl (fun u p => let r := unspilled spill u.1 t p.1 p.2; (r.1, u.2 ++ [(p.1, r.2)])) u).1 := by
    intro ps
    induction ps with
    | nil => exact fun u hu => hu
    | cons p r ih => exact fun u hu => ih _ (canon_unspilled hu ..)
  unfold unspillTables
  split
  · exact h
  · exact hf _ _ h

theorem canon_placeSaved (h : Canon s) (lid l key t frame ws c z) : Canon (placeSaved s lid l key t frame ws c z) := by
  unfold placeSaved
  grind [Canon, canon_modLaunch, canon_modCtx, canon_dropL1, canon_rewriteGangs, canon_restoreWaves, canon_unspillTables]

theorem canon_placeOn (h : Canon s) (lid l c) : CanonOpt (placeOn s lid l c) := by
  unfold placeOn
  grind [Canon, CanonOpt, canon_placeFresh, canon_placeSaved]

theorem canon_roundPlace (h : Canon s) {lid l} {r : Nat × State} (hr : roundPlace s lid l = some r) : Canon r.2 := by
  obtain ⟨p, -, hp⟩ := List.exists_of_findSome?_eq_some hr
  obtain ⟨t, ht, rfl⟩ := Option.map_eq_some_iff.mp hp
  exact canon_modLaunch (canon_of_some (canon_placeOn h ..) ht) ..

theorem canon_placeWhole (lid) : ∀ (n : Nat) {s : State}, Canon s → CanonOpt (placeWhole lid n s)
  | 0, s, h => by
    simp only [placeWhole]
    grind [CanonOpt]
  | n + 1, s, h => by
    simp only [placeWhole]
    split
    · trivial
    · split
      · exact h
      · split
        · next hr => exact canon_placeWhole lid n (canon_roundPlace h hr)
        · trivial

theorem canon_moveLaunch (h : Canon s) (p) : CanonOpt (moveLaunch s p) := by
  unfold moveLaunch
  split
  · exact canon_placeWhole _ _ h
  · cases hr : roundPlace s p.1 p.2 with
    | none => trivial
    | some r => exact canon_roundPlace h hr

theorem canon_offerFreed (h : Canon s) : ∀ cs : List Nat, CanonOpt (offerFreed s cs)
  | [] => trivial
  | c :: r => by
    simp only [offerFreed]
    split
    · next t ht =>
      refine canon_modHub (canon_of_some (canon_findSome? (fun p => ?_) _) ht) _
      grind [CanonOpt, canon_placeOn]
    · exact canon_offerFreed h r

theorem canon_moveFirst : ∀ (ps : List (Nat × Launch)) {s : State}, Canon s → Canon (moveFirst ps s).1
  | [], _, h => h
  | p :: r, s, h => by
    simp only [moveFirst]
    split
    · next t ht => exact canon_of_some (canon_moveLaunch h p) ht
    · exact canon_moveFirst r (canon_modLaunch h ..)

theorem canon_nextMove (h : Canon s) : Canon (nextMove s).1 := by
  have hs := canon_requestSplits h
  unfold nextMove
  dsimp only
  split
  · next t ht => exact canon_of_some (canon_offerFreed hs _) ht
  · exact canon_moveFirst _ (canon_modHub hs _)

theorem canon_freeTeam (h : Canon s) (key t) : Canon (freeTeam s key t) := h

theorem canon_writeFrame (h : Canon s) (base t g ws) : Canon (writeFrame s base t g ws) :=
  canon_foldl (fun _ _ ht => canon_writePhys ht ..) _ (canon_writePhys (canon_freeBytesOf _ h) ..)

theorem canon_saveTeam (h : Canon s) (key) : CanonOpt (saveTeam s key) := by
  unfold saveTeam
  split
  · trivial
  split
  · trivial
  split
  · trivial
  split
  · trivial
  split
  · trivial
  split
  · extract_lets ws team kept framed freed
    have hframed : Canon framed := canon_writeFrame h ..
    have hfreed : Canon freed := canon_freeTeam hframed ..
    clear_value framed freed
    exact hfreed
  · trivial

theorem canon_saveTeams : ∀ (ks : List Nat) {s : State}, Canon s → CanonOpt (saveTeams ks s)
  | [], _, h => h
  | k :: r, s, h => by
    have hk := canon_saveTeam h k
    simp only [saveTeams]
    cases ht : saveTeam s k with
    | none => trivial
    | some t => exact canon_saveTeams r (canon_of_some hk ht)

theorem canon_withoutTeams (h : Canon s) (ks) : Canon (withoutTeams s ks) := by
  refine canon_foldl (fun t k ht => ?_) _ h
  split
  · exact canon_freeTeam ht ..
  · exact ht

/-! ## Replays of logged entries -/

theorem canon_dropEntry (h : Canon s) (wid seq) : Canon (dropEntry wid seq s) := h

theorem canon_keepEntry (h : Canon s) (wid seq va entry) : Canon (keepEntry wid seq va entry s) := h

theorem canon_replayAccess (h : Canon s) (wid w seq a) : CanonReplayed (replayAccess s wid w seq a) := by
  unfold replayAccess
  grind [Canon, CanonReplayed, canon_setWave, canon_dropEntry]

theorem canon_replayInstr (h : Canon s) (i srcs wid w) : CanonApplied (replayInstr i srcs s wid w).1 := by
  cases i <;> dsimp only [replayInstr]
  case tdef f => exact canon_applyTdef h ..
  case ctload f => exact canon_applyCtload h ..
  case palld f => exact canon_applyPalld h ..
  case dtload f => exact canon_applyDtload h ..
  case capset f => exact canon_applyCapset h ..
  case waitev f => exact canon_applyWaitev h ..
  case qput f => exact canon_applyQput h ..
  case sbload f => exact canon_applySbload h ..
  case sbflow f => exact canon_applySbflow h ..
  all_goals trivial

theorem canon_replayEntry (h : Canon s) (wid w e) : CanonReplayed (replayEntry s wid w e) := by
  unfold replayEntry
  grind [Canon, CanonReplayed, CanonRes, CanonApplied, canon_modWave, canon_tileApply, canon_dropEntry, canon_replayAccess, canon_replayInstr]

end
end Sys2Proof.Machine
end

/-! # The canonical form of memory: the encoder, launch ends and commands (R293) -/

section
namespace Sys2Proof.Machine

open Sys2Proof.Laws

section
variable {s : State}

/-- The state that a command of a context leaves. -/
def CanonCommanded : Commanded → Prop
  | .done t => Canon t
  | _ => True

/-! ## Snapshots and the encoder -/

theorem canon_copyPhysLines (cls src dst) (h : Canon s) : ∀ n : Nat, Canon (copyPhysLines cls s src dst n)
  | 0 => h
  | n + 1 => canon_writePhysCls (canon_copyPhysLines cls src dst h n) ..

theorem canon_modTile (h : Canon s) (team o f) : Canon (modTile s team o f) := h

theorem canon_closeTile (h : Canon s) (team uid o) : Canon (closeTile s team uid o) := h

theorem canon_discardTile (h : Canon s) (team uid o code member) : Canon (discardTile s team uid o code member) :=
  canon_recordAsync (canon_closeTile h ..) ..

theorem canon_encoderWrite (h : Canon s) (wid w x o addr bs) {k : State → State} (hk : ∀ t, Canon t → Canon (k t)) :
    CanonOut (encoderWrite s wid w x o addr bs k) := by
  unfold encoderWrite
  split
  · exact canon_discardTile h ..
  · split
    · next t ht => exact hk t (canon_of_ok (canon_engineWriteAll h ..) ht)
    · exact canon_evictLine h _
    · split
      · exact canon_discardTile h ..
      · exact canon_stall h

theorem canon_onContext {c} {k : Context → Commanded} (hk : ∀ x, CanonCommanded (k x)) : CanonCommanded (onContext s c k) := by
  unfold onContext
  split
  · exact hk _
  · trivial

theorem canon_tilePhase (h : Canon s) (team o n) : Canon (tilePhase team o n s) := h

theorem canon_encoderPublish (h : Canon s) (wid w x o p) : CanonOut (encoderPublish s wid w x o p) := by
  unfold encoderPublish
  grind [Canon, CanonOut, canon_stall, canon_closeTile, canon_discardTile, canon_encoderWrite, canon_tilePhase]

theorem canon_encoderAppend (h : Canon s) (wid w x o) : CanonOut (encoderAppend s wid w x o) := by
  unfold encoderAppend
  grind [Canon, CanonOut, canon_stall, canon_evictLine, canon_coreL1Write, canon_writePlace, canon_allocWritten, canon_sendAtomic, canon_modTile,
    canon_discardTile]

/-! ## Ends of launches -/

theorem canon_stopLaunch (h : Canon s) (lid) : Canon (stopLaunch s lid) := by
  unfold stopLaunch
  extract_lets t
  have ht : Canon t := canon_foldl (fun _ _ hu => canon_foldl (fun _ _ hv => canon_cancelUnstarted hv _) _ hu) _ h
  exact ht

theorem canon_dropSaved (h : Canon s) (l key) : Canon (dropSaved s l key) := by
  unfold dropSaved
  grind [Canon, canon_modCtx]

theorem canon_freeLaunch (h : Canon s) (lid l) : Canon (freeLaunch s lid l) := by
  have hplaced := canon_withoutTeams h (placedTeams s lid)
  exact canon_foldl (f := fun s k => dropSaved s l k) (fun _ _ ht => canon_dropSaved ht ..) (allTeams _ lid) hplaced

theorem canon_restorePages (h : Canon s) (x) : Canon (restorePages s x) := by
  unfold restorePages
  extract_lets t
  have ht : Canon t := by
    refine canon_foldl (fun u p hu => ?_) _ h
    split
    · exact canon_foldl (fun _ _ hv => canon_copyPhysLines _ _ _ hv _) _ hu
    · exact hu
  exact ht

/-! ## Commands of a context -/

theorem canon_modBlock (h : Canon s) (c f) : Canon (modBlock s c f) := h

theorem canon_commandBlock (h : Canon s) (c code) {r : Commanded} (hr : CanonCommanded r) : CanonOut (commandBlock s c code r) := by
  unfold commandBlock
  dsimp only
  split
  · exact canon_modBlock h ..
  · split
    · exact canon_modBlock hr ..
    · exact canon_modBlock h ..
    · split
      · exact canon_stall h
      · exact canon_modBlock h ..

theorem canon_createContext (h : Canon s) (c) : CanonCommanded (createContext s c) := by
  unfold createContext
  -- the check of the areas is long to evaluate, and nothing here depends on it
  generalize areasOk = ok
  dsimp only
  split
  · trivial
  · split
    · trivial
    · split
      · exact h
      · trivial

theorem canon_destroyContext (h : Canon s) (c) : CanonCommanded (destroyContext s c) := by
  refine canon_onContext fun x => ?_
  split
  · exact h
  · trivial

theorem canon_holdLaunch (h : Canon s) (lid) : Canon (holdLaunch s lid) := h

theorem canon_releaseLaunch (h : Canon s) (lid) : Canon (releaseLaunch s lid) := h

theorem canon_stopTrace (h : Canon s) (c z kind) : Canon (stopTrace s c z kind) := by
  unfold stopTrace
  grind [Canon, canon_traceEvent]

theorem canon_stopCommand (h : Canon s) (c hold) : CanonCommanded (stopCommand s c hold) := by
  refine canon_onContext fun x => ?_
  extract_lets z kind
  split
  · trivial
  · split
    · split
      · split
        · trivial
        · refine canon_stopTrace ?_ ..
          split
          · exact canon_holdActor h _
          · exact canon_releaseActor h _
      · trivial
    · split
      · split
        · trivial
        · exact canon_stopTrace (canon_setWave h ..) ..
      · trivial
    · split
      · trivial
      · refine canon_stopTrace ?_ ..
        split
        · exact canon_holdLaunch h _
        · exact canon_releaseLaunch h _
    · trivial

theorem canon_endUnserviceable (h : Canon s) (lid l wid e) : Canon (endUnserviceable s lid l wid e) := by
  unfold endUnserviceable
  grind [Canon, canon_writeFault]

theorem canon_unserviceableAt (h : Canon s) (c) : CanonCommanded (unserviceableAt s c) := by
  refine canon_onContext fun x => ?_
  split
  · refine canon_foldl (fun t p ht => ?_) _ h
    split
    · exact canon_endUnserviceable ht ..
    · exact ht
  · exact h

theorem canon_invalidateRange (h : Canon s) (c) : CanonCommanded (invalidateRange s c) := by
  refine canon_onContext fun x => ?_
  dsimp only
  split
  · trivial
  · split
    · exact canon_dropTranslations h ..
    · trivial

theorem canon_debugSet (h : Canon s) (c) : CanonCommanded (debugSet s c) := by
  refine canon_onContext fun x => ?_
  dsimp only
  split
  · exact canon_modCtx h ..
  · trivial

theorem canon_replaySet (h : Canon s) (c) : CanonCommanded (replaySet s c) := by
  refine canon_onContext fun x => ?_
  extract_lets b p log2
  split
  · exact canon_modCtx h ..
  · trivial

theorem canon_generationReset (h : Canon s) (c) : CanonCommanded (generationReset s c) :=
  canon_onContext fun _ => canon_modCtx h ..

theorem canon_commandOf (h : Canon s) (c code) : CanonCommanded (commandOf s c code) := by
  unfold commandOf
  split
  · exact canon_createContext h c
  · exact canon_destroyContext h c
  · exact canon_stopCommand h c true
  · exact canon_stopCommand h c false
  · exact canon_unserviceableAt h c
  · exact canon_invalidateRange h c
  · exact canon_debugSet h c
  · exact canon_replaySet h c
  · exact canon_generationReset h c
  · trivial

theorem canon_runCommand (h : Canon s) (c code) : CanonOut (runCommand s c code) := by
  unfold runCommand
  split
  · exact canon_commandBlock h c code (canon_commandOf h c code)
  · exact h

theorem canon_sampleWave (h : Canon s) (c wid w l) : Canon (sampleWave s c wid w l) := by
  unfold sampleWave
  grind [Canon, canon_traceEvent]

end
end Sys2Proof.Machine
end

/-! # The canonical form of memory: packets, links, service and registers (R293) -/

section
namespace Sys2Proof.Machine

open Sys2Proof.Laws

section
variable {s : State}

/-! ## Requests and answers -/

theorem canon_passOn (h : Canon s) (p) : Canon (passOn s p) := by
  unfold passOn
  grind [Canon, canon_modFabric, canon_leaveDie]

theorem canon_arrive (h : Canon s) (p kind) {act : State → Out} (ha : CanonOut (act s)) : CanonOut (arrive s p kind act) := by
  unfold arrive
  grind [CanonOut, canon_stall, canon_countDropped, canon_passOn]

theorem canon_refusePacket (h : Canon s) (p reason) : Canon (refusePacket s p reason) := by
  unfold refusePacket
  grind [Canon, canon_freeNatOf, canon_sendReply]

theorem canon_withHome (h : Canon s) (p want) {k : Nat → Nat → Out} (hk : ∀ pa cls, CanonOut (k pa cls)) : CanonOut (withHome s p want k) := by
  unfold withHome
  grind [CanonOut, canon_stall, canon_refusePacket, canon_refusalRecord]

theorem canon_markReleased (h : Canon s) (p line) : Canon (markReleased p line s) := by
  unfold markReleased
  grind [Canon, canon_modFabric]

theorem canon_homeWrite (h : Canon s) (p) : CanonOut (homeWrite p s) := by
  refine canon_withHome h p .write fun pa cls => ?_
  dsimp only
  split
  · exact canon_sendReply (canon_markReleased (canon_foldl (fun _ _ ht => canon_writePlace ht ..) _ h) ..) ..
  · exact canon_evictLine h _

theorem canon_atomicReply (h : Canon s) (p poisoned old) : Canon (atomicReply s p poisoned old) := h

theorem canon_settled (h : Canon s) (id) : Canon (settled s id) := h

theorem canon_fillLoad (h : Canon s) (x bytes bad uid seq) : Canon (fillLoad x bytes bad uid seq s) := canon_modUid h ..

theorem canon_dropCarried (h : Canon s) (uid id) : Canon (dropCarried s uid id) := h

theorem canon_atomicFlags (h : Canon s) (uid id old) : Canon (atomicFlags s uid id old) := by
  refine canon_foldl (fun t b ht => ?_) _ h
  split
  · exact canon_modUid ht ..
  · exact ht

theorem canon_fillAtomic (h : Canon s) (uid seq lane old bad) : Canon (fillAtomic s uid seq lane old bad) := h

theorem canon_fillAppend (h : Canon s) (team uid tid desc row col old bad) : Canon (fillAppend s team uid tid desc row col old bad) := by
  unfold fillAppend
  grind [Canon, canon_modTile, canon_discardTile]

theorem canon_resultPoisoned (h : Canon s) (b) : Canon (resultPoisoned s b) := by
  unfold resultPoisoned
  grind [Canon, canon_takeFault]

theorem canon_copyFailed (h : Canon s) (uid op member peer) : Canon (copyFailed s uid op member peer) := h

theorem canon_messageOver (h : Canon s) (x failed) : Canon (messageOver s x failed) := by
  unfold messageOver
  grind [Canon, canon_modCtx, canon_modUid]

theorem canon_tileRefused (h : Canon s) (uid peer) : Canon (tileRefused s uid peer) := by
  unfold tileRefused
  grind [Canon, canon_discardTile]

theorem canon_failSent (h : Canon s) (id x) : Canon (failSent s id x) := by
  unfold failSent
  grind [Canon, canon_badCopy, canon_modUid, canon_discardTile, canon_settled, canon_fillLoad, canon_dropCarried, canon_fillAtomic, canon_copyFailed,
    canon_messageOver, canon_tileRefused]

theorem canon_delayed (h : Canon s) (id hint) : Canon (delayed s id hint) := h

/-! ## Links, stacks and launches that end -/

theorem canon_dropBox (h : Canon s) (sel) : Canon (dropBox s sel) :=
  canon_foldl (f := fun s (x : Binding) => eventRecord s x.job x.event sel 6 (trapRecord 0 6 0 sel 0 0 (List.replicate 8 0)))
    (fun _ _ ht => canon_eventRecord ht ..) _ (canon_setBox h ..)

theorem canon_startDrop (h : Canon s) (k channel) : Canon (startDrop s k channel) := by
  unfold startDrop
  grind [Canon, canon_setStack]

theorem canon_finishDrop (h : Canon s) (k) : Canon (finishDrop s k) := by
  unfold finishDrop
  grind [Canon, canon_setStack, canon_writeBackRange, canon_raiseMsi]

theorem canon_tripLaunch (h : Canon s) (p) : Canon (tripLaunch s p) := by
  unfold tripLaunch
  grind [Canon, canon_modLaunch, canon_writeFault]

theorem canon_ringWrite (h : Canon s) (base size off bs) : Canon (ringWrite s base size off bs) := by
  unfold ringWrite
  grind [Canon, canon_writePhys]

/-! ## Writes of the host -/

theorem canon_writeFtctl (h : Canon s) (v) : Canon (writeFtctl s v) := by
  unfold writeFtctl
  grind [Canon, canon_modHub]

theorem canon_performHostWrite (h : Canon s) (pa bs) : CanonOut (performHostWrite s pa bs) := by
  unfold performHostWrite
  grind [Canon, CanonOut, canon_stall, canon_writePhysCls, canon_evictLine]

theorem canon_hostWrite (h : Canon s) : CanonOut (hostWrite s) := by
  unfold hostWrite
  grind [Canon, CanonOut, canon_stall, canon_modHub, canon_performHostWrite]

theorem canon_execQtailWrite (h : Canon s) (q v) : CanonOut (execQtailWrite q v s) := by
  unfold execQtailWrite
  grind [CanonOut, canon_stall, canon_modQueue, canon_modHub]

theorem canon_writeQueueReg (h : Canon s) (q reg v) : CanonOut (writeQueueReg s q reg v) := by
  unfold writeQueueReg
  grind [CanonOut, canon_modQueue, canon_execQtailWrite]

theorem canon_writeContextReg (h : Canon s) (c reg v) : CanonOut (writeContextReg s c reg v) := by
  unfold writeContextReg
  grind [Canon, CanonOut, canon_modBlock, canon_runCommand]

theorem canon_writeStackReg (h : Canon s) (k reg v) : Canon (writeStackReg s k reg v) := by
  unfold writeStackReg
  grind [Canon, canon_setStack, canon_startDrop]

theorem canon_writeSeries (h : Canon s) (reg v) : Canon (writeSeries s reg v) := by
  unfold writeSeries
  grind [Canon, canon_modHub]

theorem canon_execCounterReprogram (h : Canon s) (n v) : CanonOut (execCounterReprogram n v s) := by
  unfold execCounterReprogram
  grind [Canon, CanonOut, canon_stall, canon_modHub]

theorem canon_writeHubReg (h : Canon s) (off v) : CanonOut (writeHubReg s off v) := by
  unfold writeHubReg
  grind [CanonOut, canon_modHub, canon_execCounterReprogram, canon_writeFtctl, canon_writeSeries]

end
end Sys2Proof.Machine
end

/-! # The canonical form of memory: the turns of units and devices (R293) -/

section
namespace Sys2Proof.Machine

open Sys2Proof.Laws

section
variable {s : State}

/-! ## The matrix unit -/

theorem canon_execMclrExecute (h : Canon s) (wid) : CanonOut (execMclrExecute wid s) := by
  refine canon_runMatrixWhole h wid _ fun w x e => ?_
  split
  · exact canon_modTeam h ..
  · trivial

theorem canon_execTbdropExecute (h : Canon s) (wid) : CanonOut (execTbdropExecute wid s) := by
  refine canon_runMatrixWhole h wid _ fun w x e => ?_
  split
  · exact canon_modTeam h ..
  · trivial

theorem canon_execMtabExecute (h : Canon s) (wid) : CanonOut (execMtabExecute wid s) := by
  refine canon_runMatrixWhole h wid _ fun w x e => ?_
  split
  · refine canonRes_bind fun team _ => ?_
    dsimp only
    split
    · exact canon_modTeam h ..
    · exact canonRes_bind fun b _ => canon_modWave (canon_modTeam h ..) ..
  · trivial

theorem canon_execMlutExecute (h : Canon s) (wid) : CanonOut (execMlutExecute wid s) := by
  refine canon_runMatrix h wid _ fun w x e => ?_
  split
  · split
    · exact canon_addNext h ..
    · exact canonRes_bind fun d _ => canon_beginAdd h ..
  · trivial

theorem canon_execMlutgLatchComplete (h : Canon s) (wid) : CanonOut (execMlutgLatchComplete wid s) := by
  unfold execMlutgLatchComplete
  split
  · exact canon_stall h
  · split
    · split
      · split
        · exact canon_addNext h ..
        · split
          · next t ht =>
            have hmet := canon_of_next (canon_latchMeets h ..) ht
            grind [CanonOut, canon_servedAt]
          · exact canon_latchMeets h ..
        · exact canon_stall h
      · exact canon_stall h
    · exact canon_stall h

theorem canon_execMoutExecute (h : Canon s) (wid) : CanonOut (execMoutExecute wid s) := by
  refine canon_runMatrixWhole h wid _ fun w x e => ?_
  split
  · refine canonRes_bind fun team _ => ?_
    split
    · trivial
    · refine canonRes_bind fun t ht => ?_
      have hcells := canon_of_ok (canonRes_orEngine (canon_engineElems wid w x e _ _ h) _) ht
      refine canon_modWave ?_ ..
      split
      · exact canon_spendFree hcells _
      · exact hcells
  · trivial

theorem canon_execMxpqExecute (h : Canon s) (wid) : CanonOut (execMxpqExecute wid s) := by
  refine canon_runMatrixWhole h wid _ fun w x e => ?_
  split
  · refine canonRes_bind fun tile _ => canonRes_bind fun t ht => ?_
    have hcells := canon_of_ok (canonRes_orEngine (canon_xposeWrite wid w x e _ _ _ _ h) _) ht
    refine canon_modWave ?_ ..
    split
    · exact canon_spendFree hcells _
    · exact hcells
  · trivial

/-! ## The copy engine, the encoder and the register window -/

theorem canon_execCopyUnit (h : Canon s) (wid op) : CanonOut (execCopyUnit wid op s) := by
  unfold execCopyUnit
  split
  · exact canon_stall h
  · split
    · split
      · split
        · next ht => exact canon_engineFail (canon_copyServedAt (canon_of_ok (canon_scramble h ..) ht) _) ..
        · exact canon_settleItem (r := .error _) h _ _ _ trivial
      · next ht =>
        split
        · exact canon_copyServedAt (canon_of_ok (canon_copyBody h ..) ht) _
        · exact canon_stall h
      · exact canon_settleItem (r := .error _) h _ _ _ trivial
    · exact canon_stall h

theorem canon_execCpmcComplete (h : Canon s) (wid op) : CanonOut (execCpmcComplete wid op s) := by
  unfold execCpmcComplete
  split
  · exact canon_stall h
  · split
    · split
      · split
        · exact canon_stall h
        · extract_lets ms failed t area words
          have ht : Canon t := canon_foldl (fun _ _ hu => canon_modWave hu ..) _ h
          split
          · next hu => exact canon_finishItem (canon_of_ok (canon_engineWriteAll ht ..) hu) ..
          · exact canon_stall h
          · exact canon_stall h
          · exact canon_evictLine h _
          · exact canon_finishItem ht ..
      · exact canon_stall h
    · exact canon_stall h

theorem canon_execSendInject (h : Canon s) (wid op) : CanonOut (execSendInject wid op s) := by
  unfold execSendInject
  grind [Canon, CanonOut, CanonRes, canon_stall, canon_settleItem, canon_sendBody]

theorem canon_execEncoderTileWrite (h : Canon s) (wid) : CanonOut (execEncoderTileWrite wid s) := by
  unfold execEncoderTileWrite
  split
  · exact canon_stall h
  · split
    · split
      · exact canon_stall h
      · split
        · exact canon_stall h
        · split
          · exact canon_encoderPublish h ..
          · exact canon_encoderAppend h ..
    · exact canon_stall h

theorem canon_execWindowWriteAccept (h : Canon s) (i) : CanonOut (execWindowWriteAccept i s) := by
  unfold execWindowWriteAccept
  grind [Canon, CanonOut, canon_stall, canon_modWave, canon_recordAsync, canon_windowSettle]

/-! ## Waits, loads and queues of a wave -/

theorem canon_execLwaitComplete (h : Canon s) (wid) : CanonOut (execLwaitComplete wid s) := by
  refine canon_completeWait h wid fun w => ?_
  split
  · exact canon_setWave h ..
  · trivial

theorem canon_execMwaitComplete (h : Canon s) (wid) : CanonOut (execMwaitComplete wid s) := by
  refine canon_completeWait h wid fun w => ?_
  grind [Canon, CanonOpt, CanonOut, canon_setWave, canon_acquireAt, canon_deliverFault]

theorem canon_execFenceaComplete (h : Canon s) (wid) : CanonOut (execFenceaComplete wid s) := by
  refine canon_completeWait h wid fun w => ?_
  split
  · split
    · exact canon_fenceaReport h ..
    · trivial
  · trivial

theorem canon_execBarrierComplete (h : Canon s) (lid level unit) : CanonOut (execBarrierComplete lid level unit s) := by
  unfold execBarrierComplete
  grind [Canon, CanonOpt, CanonOut, canon_stall, canon_tryBarrier]

theorem canon_execWaitevWake (h : Canon s) (wid) : CanonOut (execWaitevWake wid s) := by
  unfold execWaitevWake
  grind [Canon, CanonOut, CanonRes, canon_stall, canon_setWave, canon_raiseFault, canon_requestLine, canon_evictLine, canon_waitevTry]

theorem canon_execBoxPacketRun (h : Canon s) (sel) : CanonOut (execBoxPacketRun sel s) := by
  unfold execBoxPacketRun
  grind [Canon, CanonOut, canon_stall, canon_setBox]

theorem canon_execLoadDataReturn (h : Canon s) (wid i lanes fromL1) : CanonOut (execLoadDataReturn wid i lanes fromL1 s) := by
  unfold execLoadDataReturn
  split
  · exact canon_stall h
  split
  · exact canon_stall h
  next a _ =>
  extract_lets first now t
  split
  · exact canon_stall h
  split
  · exact canon_widenStore h ..
  split
  · split
    · next ht =>
      have hsettled := canon_settleAccess (canon_of_ok (canon_atomicLanes _ _ _ _ _ h) ht)
      grind [CanonOut, canon_stall]
    · exact canon_evictLine h _
    · exact canon_stall h
  · split
    · extract_lets u
      have ht : Canon t := by
        unfold t
        split
        · exact h
        · exact canon_foldl (fun _ _ hv => canon_refreshL1 hv ..) _ h
      have hu : Canon u := canon_deliverAll ht ..
      grind [CanonOut, canon_stall]
    · exact canon_askLine h ..
    · exact canon_stall h

theorem canon_execStorePerformed (h : Canon s) (wid i scope) : CanonOut (execStorePerformed wid i scope s) := by
  unfold execStorePerformed
  grind [Canon, CanonOut, canon_stall, canon_performAt, canon_injectStore]

theorem canon_execRecvFill (h : Canon s) (wid) : CanonOut (execRecvFill wid s) := by
  unfold execRecvFill
  grind [Canon, CanonOut, canon_stall, canon_setWave]

theorem canon_execLaneBlockStart (h : Canon s) (wid) : CanonOut (execLaneBlockStart wid s) := by
  unfold execLaneBlockStart
  grind [Canon, CanonOut, canon_stall, canon_setWave, canon_traceActor]

/-! ## Launches and teams -/

theorem canon_execLaunchTake (h : Canon s) : CanonOut (execLaunchTake s) := by
  unfold execLaunchTake
  grind [Canon, CanonOut, canon_stall, canon_freshUid, canon_refuseLaunch, canon_advanceLaunch, canon_keepOr]

theorem canon_execWaitEventSatisfied (h : Canon s) (lid) : CanonOut (execWaitEventSatisfied lid s) := by
  unfold execWaitEventSatisfied
  grind [Canon, CanonOut, canon_stall, canon_advanceLaunch]

theorem canon_execLaunchComplete (h : Canon s) (lid) : CanonOut (execLaunchComplete lid s) := by
  unfold execLaunchComplete
  grind [Canon, CanonOut, canon_stall, canon_writeDone]

theorem canon_execCpMemoryRetry (h : Canon s) (lid) : CanonOut (execCpMemoryRetry lid s) := by
  unfold execCpMemoryRetry
  grind [Canon, CanonOut, canon_stall, canon_advanceLaunch, canon_keepOr, canon_execLaunchComplete]

theorem canon_execSplitChange (h : Canon s) (c) : CanonOut (execSplitChange c s) := by
  unfold execSplitChange
  grind [Canon, CanonOut, canon_stall, canon_setCore]

theorem canon_execWaveClear (h : Canon s) (core pipe) : CanonOut (execWaveClear core pipe s) := by
  unfold execWaveClear
  grind [Canon, CanonOut, canon_stall, canon_modWave, canon_setCore]

theorem canon_execTeamPlace (h : Canon s) : CanonOut (execTeamPlace s) := by
  unfold execTeamPlace
  grind [Canon, CanonOut, canon_stall, canon_nextMove]

theorem canon_execTeamRestore (h : Canon s) (key) : CanonOut (execTeamRestore key s) := by
  unfold execTeamRestore
  grind [Canon, CanonOut, canon_stall, canon_nextMove]

theorem canon_execTeamRetire (h : Canon s) (key) : CanonOut (execTeamRetire key s) := by
  unfold execTeamRetire
  grind [Canon, CanonOut, canon_stall, canon_modLaunch, canon_freeTeam]

theorem canon_execTeamSave (h : Canon s) (key) : CanonOut (execTeamSave key s) := by
  have hs := canon_saveTeams (savedWith s key) h
  unfold execTeamSave
  grind [CanonOut, CanonOpt, canon_stall]

theorem canon_execWatchdogFire (h : Canon s) (lid) : CanonOut (execWatchdogFire lid s) := by
  unfold execWatchdogFire
  split
  · exact canon_stall h
  · split
    · exact canon_stall h
    · exact canon_foldl (fun _ _ ht => canon_writeFault ht ..) _ (canon_endLaunch h ..)

theorem canon_execLaunchKill (h : Canon s) (lid) : CanonOut (execLaunchKill lid s) := by
  unfold execLaunchKill
  grind [Canon, CanonOut, canon_stall, canon_modLaunch, canon_stopLaunch, canon_freeLaunch]

theorem canon_execLaunchRollback (h : Canon s) (lid) : CanonOut (execLaunchRollback lid s) := by
  unfold execLaunchRollback
  grind [Canon, CanonOut, canon_stall, canon_modLaunch, canon_evictLine, canon_disarm, canon_stopLaunch, canon_freeLaunch, canon_restorePages]

/-! ## Logs, records, snapshots, replays and samples -/

theorem canon_execLogReplay (h : Canon s) (wid i) : CanonOut (execLogReplay wid i s) := by
  unfold execLogReplay
  grind [Canon, CanonOut, CanonReplayed, canon_stall, canon_takeFault, canon_requestLine, canon_evictLine, canon_dropEntry, canon_keepEntry,
    canon_replayEntry]

theorem canon_execWalkerMonitorWake (h : Canon s) (line) : CanonOut (execWalkerMonitorWake line s) := by
  unfold execWalkerMonitorWake
  grind [Canon, CanonOut, canon_stall]

theorem canon_execWalkerRewalkTimer (h : Canon s) (wid i) : CanonOut (execWalkerRewalkTimer wid i s) := by
  unfold execWalkerRewalkTimer
  grind [Canon, CanonOut, canon_stall, canon_setWave]

theorem canon_execFaultRecordHeldWrite (h : Canon s) (c) : CanonOut (execFaultRecordHeldWrite c s) := by
  unfold execFaultRecordHeldWrite
  grind [Canon, CanonOut, canon_stall, canon_putFault]

theorem canon_execSnapshotPageCopy (h : Canon s) (c va) : CanonOut (execSnapshotPageCopy c va s) := by
  unfold execSnapshotPageCopy
  split
  · exact canon_stall h
  split
  · split
    · exact canon_stall h
    extract_lets n
    split
    · exact canon_stall h
    split
    · exact canon_stall h
    split
    · exact canon_writeFault h ..
    split
    · exact canon_stall h
    · exact canon_dropLeaf (canon_modCtx (canon_writePhys (canon_foldl (fun _ _ hu => canon_copyPhysLines _ _ _ hu _) _ h) ..) ..) ..
  · exact canon_stall h

theorem canon_execReplayIntervalStart (h : Canon s) (wid) : CanonOut (execReplayIntervalStart wid s) := by
  unfold execReplayIntervalStart
  grind [Canon, CanonOut, canon_stall, canon_modWave, canon_freeBytesOf, canon_writePhys, canon_traceEvent]

theorem canon_execReplayRun (h : Canon s) (lid wave interval out) : CanonOut (execReplayRun lid wave interval out s) := by
  unfold execReplayRun
  split
  · exact canon_stall h
  · split
    · exact canon_stall h
    · exact canon_writePhys h ..

theorem canon_execTraceSampleTick (h : Canon s) (c) : CanonOut (execTraceSampleTick c s) := by
  unfold execTraceSampleTick
  split
  · exact canon_stall h
  split
  · exact canon_stall h
  refine canon_foldl (fun t p ht => ?_) _ h
  split
  · exact canon_sampleWave ht ..
  · exact ht

/-! ## Packets -/

theorem canon_execReadPacket (h : Canon s) (p) : CanonOut (execReadPacket p s) := by
  refine canon_arrive h p _ ?_
  grind [Canon, CanonOut, canon_modFabric, canon_sendReply, canon_evictSome, canon_withHome]

theorem canon_execWritePacket (h : Canon s) (p) : CanonOut (execWritePacket p s) := by
  refine canon_arrive h p _ ?_
  grind [Canon, CanonOut, canon_homeWrite]

theorem canon_execMaskedWrite (h : Canon s) (p) : CanonOut (execMaskedWrite p s) := by
  refine canon_arrive h p _ ?_
  grind [Canon, CanonOut, canon_homeWrite]

theorem canon_execAtomicPacket (h : Canon s) (p) : CanonOut (execAtomicPacket p s) := by
  refine canon_arrive h p _ ?_
  grind [Canon, CanonOut, canon_modFabric, canon_evictLine, canon_writePlace, canon_countDropped, canon_withHome, canon_markReleased,
    canon_atomicReply]

theorem canon_execReadData (h : Canon s) (p) : CanonOut (execReadData p s) := by
  refine canon_arrive h p _ ?_
  grind [Canon, CanonOut, canon_keepCopy, canon_settled, canon_fillLoad]

theorem canon_execAtomicResult (h : Canon s) (p) : CanonOut (execAtomicResult p s) := by
  refine canon_arrive h p _ ?_
  grind [Canon, CanonOut, canon_stall, canon_settled, canon_dropCarried, canon_atomicFlags, canon_fillAtomic, canon_fillAppend, canon_resultPoisoned]

theorem canon_execWriteAcknowledgment (h : Canon s) (p) : CanonOut (execWriteAcknowledgment p s) := by
  refine canon_arrive h p _ ?_
  grind [Canon, CanonOut, canon_settled, canon_dropCarried]

theorem canon_execRefusal (h : Canon s) (p) : CanonOut (execRefusal p s) := by
  refine canon_arrive h p _ ?_
  grind [Canon, CanonOut, canon_failSent, canon_delayed]

theorem canon_execRetryAfterResend (h : Canon s) (id) : CanonOut (execRetryAfterResend id s) := by
  unfold execRetryAfterResend
  grind [Canon, CanonOut, canon_stall, canon_modFabric]

theorem canon_execInvalidatePacket (h : Canon s) (p) : CanonOut (execInvalidatePacket p s) := by
  refine canon_arrive h p _ ?_
  grind [Canon, CanonOut, canon_modFabric, canon_sendReply, canon_dropCopy]

theorem canon_execInvalidateAcknowledgment (h : Canon s) (p) : CanonOut (execInvalidateAcknowledgment p s) := by
  refine canon_arrive h p _ ?_
  grind [Canon, CanonOut, canon_modFabric, canon_settled]

theorem canon_execMessagePacket (h : Canon s) (p) : CanonOut (execMessagePacket p s) := by
  refine canon_arrive h p _ ?_
  extract_lets expected ahead
  clear_value ahead
  split
  · split
    · exact h
    · split
      · exact canon_stall h
      · split
        · exact canon_offerPacket h ..
        · exact canon_placeMessage h ..
  · split
    · split
      · exact canon_sendReply h ..
      · exact h
    · exact canon_stall h

theorem canon_execMessageAcknowledgment (h : Canon s) (p) : CanonOut (execMessageAcknowledgment p s) := by
  refine canon_arrive h p _ ?_
  split
  · exact h
  · dsimp only
    split
    · exact canon_delayed h ..
    · exact canon_messageOver (canon_settled h _) ..

theorem canon_execEmittedPacket (h : Canon s) (p) : CanonOut (execEmittedPacket p s) := by
  refine canon_arrive h p _ ?_
  grind [Canon, CanonOut, CanonRes, canon_orWait, canon_placeEmitted, canon_offerPacket]

theorem canon_execManagementPacket (h : Canon s) (p) : CanonOut (execManagementPacket p s) := by
  refine canon_arrive h p _ ?_
  grind [Canon, CanonOut, canon_modFabric]

theorem canon_execHeldMessageRetry (h : Canon s) (ring job) : CanonOut (execHeldMessageRetry ring job s) := by
  unfold execHeldMessageRetry
  grind [Canon, CanonOut, canon_stall, canon_placeMessage]

/-! ## Links and planes -/

theorem canon_execLinkReplay (h : Canon s) (port flits) : CanonOut (execLinkReplay port flits s) := by
  unfold execLinkReplay
  grind [Canon, CanonOut, canon_stall, canon_modPort]

theorem canon_execLinkEyeUpdate (h : Canon s) (port margin) : CanonOut (execLinkEyeUpdate port margin s) := by
  unfold execLinkEyeUpdate
  grind [Canon, CanonOut, canon_stall, canon_modPort]

theorem canon_execLinkRetrain (h : Canon s) (port lanes margin) : CanonOut (execLinkRetrain port lanes margin s) := by
  unfold execLinkRetrain
  grind [Canon, CanonOut, canon_stall, canon_modPort, canon_retirePort]

theorem canon_execPortRetire (h : Canon s) (port) : CanonOut (execPortRetire port s) := by
  unfold execPortRetire
  grind [Canon, CanonOut, canon_stall, canon_retirePort]

theorem canon_execPlaneDead (h : Canon s) (plane) : CanonOut (execPlaneDead plane s) := by
  unfold execPlaneDead
  split
  · exact canon_raiseMsi (canon_foldl (fun _ _ ht => canon_dropBox ht _) _ (canon_modHub h _)) _
  · exact canon_stall h

theorem canon_execPlaneMapChange (h : Canon s) (map) : CanonOut (execPlaneMapChange map s) := by
  unfold execPlaneMapChange
  grind [Canon, CanonOut, canon_stall, canon_modHub, canon_modFabric]

theorem canon_execLostPacketResend (h : Canon s) (id path) : CanonOut (execLostPacketResend id path s) := by
  unfold execLostPacketResend
  grind [Canon, CanonOut, canon_stall, canon_modFabric]

theorem canon_execPackageUnreachable (h : Canon s) (pkg) : CanonOut (execPackageUnreachable pkg s) := by
  unfold execPackageUnreachable
  split
  · exact canon_stall h
  · exact canon_foldl (fun _ _ ht => canon_failSent ht ..) _ (canon_modFabric h _)

/-! ## Memory service, power and bring-up -/

theorem canon_setTag (h : Canon s) (l v) : Canon { s with tags := Cells.set 0 s.tags l v } :=
  ⟨h.1, Cells.wf_set 0 s.tags l v h.2.1, h.2.2⟩

theorem canon_patrolLost (h : Canon s) (k channel x) : ∀ o : Option Nat, Canon (patrolLost s k channel x o)
  | some l => canon_setTag (canon_setStack h k (chanCount channel 1 1 x)) l _
  | none => canon_setStack h ..

theorem canon_execPatrolRead (h : Canon s) (stack channel line found) : CanonOut (execPatrolRead stack channel line found s) := by
  by_cases hbad : 16 ≤ stack ∨ (getStack s stack).enable = false ∨ (dataChannels (getStack s stack)).contains channel = false ∨ chanLines ≤ line
  · rw [execPatrolRead]
    exact (if_pos hbad).symm ▸ canon_stall h
  · simp only [not_or, Nat.not_le, Bool.not_eq_false, List.contains_iff_mem] at hbad
    obtain ⟨hk, he, hc, hl⟩ := hbad
    rw [← exec_patrolRead, exec_patrolRead_may hk he hc hl]
    cases found with
    | clean => exact canon_setStack h ..
    | corrected row bank => exact canon_setStack h ..
    | uncorrectable => exact canon_patrolLost h ..

theorem canon_execEcsCountRead (h : Canon s) (stack channel banks) : CanonOut (execEcsCountRead stack channel banks s) := by
  unfold execEcsCountRead
  grind [Canon, CanonOut, canon_stall, canon_setStack]

theorem canon_execPseudoChannelDrop (h : Canon s) (stack) : CanonOut (execPseudoChannelDrop stack s) := by
  unfold execPseudoChannelDrop
  dsimp only
  split
  · exact canon_stall h
  split
  · exact canon_startDrop h ..
  split
  · exact canon_finishDrop h _
  · split
    · next ht => exact canon_of_some (canon_saveTeams _ h) ht
    · exact canon_stall h

theorem canon_execPowerEpoch (h : Canon s) (_dies _stacks temps) : CanonOut (execPowerEpoch _dies _stacks temps s) := by
  unfold execPowerEpoch
  grind [Canon, CanonOut, canon_modHub, canon_raiseMsi]

theorem canon_execThermalTrip (h : Canon s) (die) : CanonOut (execThermalTrip die s) := by
  unfold execThermalTrip
  split
  · exact canon_stall h
  · exact canon_raiseMsi (canon_foldl (fun _ _ ht => canon_tripLaunch ht _) _ (canon_modHub h _)) _

theorem canon_execTimeSeriesTick (h : Canon s) : CanonOut (execTimeSeriesTick s) := by
  unfold execTimeSeriesTick
  extract_lets ctl base units n len size read t
  -- the number of counters is long to count, and nothing here depends on it
  clear_value n
  have ht : Canon t := h
  clear_value t
  split
  · exact canon_stall h
  · split
    · exact canon_modHub (canon_writePhys (canon_ringWrite ht ..) ..) _
    · exact canon_modHub ht _

theorem canon_execFieldTestInterval (h : Canon s) : CanonOut (execFieldTestInterval s) := by
  unfold execFieldTestInterval
  grind [Canon, CanonOut, canon_stall, canon_modHub]

theorem canon_execFieldTestRun (h : Canon s) : CanonOut (execFieldTestRun s) := by
  unfold execFieldTestRun
  grind [Canon, CanonOut, canon_stall, canon_setCore, canon_modHub]

theorem canon_execFieldTestComplete (h : Canon s) (failed element) : CanonOut (execFieldTestComplete failed element s) := by
  unfold execFieldTestComplete
  grind [Canon, CanonOut, canon_stall, canon_setCore, canon_modHub, canon_writePhys, canon_fenceUnit]

theorem canon_execFunctionReady (h : Canon s) (f) : CanonOut (execFunctionReady f s) := by
  unfold execFunctionReady
  grind [Canon, CanonOut, canon_stall, canon_setCore, canon_modHub, canon_raiseMsi]

theorem canon_execFirmwareUpdate (h : Canon s) (image) : CanonOut (execFirmwareUpdate image s) := by
  unfold execFirmwareUpdate
  grind [Canon, CanonOut, canon_modHub]

theorem canon_execDeviceReset (h : Canon s) : CanonOut (execDeviceReset s) := h

theorem canon_execAttestationRequest (h : Canon s) (nonce) : CanonOut (execAttestationRequest nonce s) := by
  unfold execAttestationRequest
  grind [Canon, CanonOut, canon_stall, canon_modHub]

theorem canon_execHostWindowAccess (h : Canon s) (off data len) : CanonOut (execHostWindowAccess off data len s) := by
  unfold execHostWindowAccess
  grind [Canon, CanonOut, canon_stall, canon_modHub, canon_performHostWrite]

theorem canon_execRegisterWrite (h : Canon s) (off v) : CanonOut (execRegisterWrite off v s) := by
  unfold execRegisterWrite
  grind [Canon, CanonOut, canon_stall, canon_writeQueueReg, canon_writeContextReg, canon_writeStackReg, canon_writeHubReg]

end
end Sys2Proof.Machine
end

/-! # The canonical form of memory: the instructions (R293) -/

section
namespace Sys2Proof.Machine

open Sys2Proof.Laws

section
variable {s : State}

/-! ## Instructions of the control stream -/

theorem canon_execLane (h : Canon s) (f) : CanonOut (execLane f s) := by
  refine canon_runControl h fun wid w _ => canonRes_bind fun _ _ => ?_
  cases f.e <;> exact canonRes_bind fun _ _ => canonRes_bind fun _ _ => canonRes_bind fun _ _ => h

theorem canon_execMwait (h : Canon s) (f) : CanonOut (execMwait f s) := by
  refine canon_runControl h fun wid w _ => ?_
  grind [Canon, CanonOpt, CanonRes, canon_setWave, canon_acquireAt, canon_deliverFault]

theorem canon_execMtest (h : Canon s) (f) : CanonOut (execMtest f s) := by
  refine canon_runControl h fun wid w _ => ?_
  simp only [bind, Except.bind]
  grind [Canon, CanonOpt, CanonRes, canon_writeBack, canon_deliverFault]

theorem canon_execChpost (h : Canon s) (f) : CanonOut (execChpost f s) := by
  refine canon_runControl h fun wid w _ => ?_
  repeat refine canonRes_bind fun _ _ => ?_
  grind [Canon, CanonRes, canon_modCtx, canon_writeBack]

theorem canon_execChpoll (h : Canon s) (f) : CanonOut (execChpoll f s) := by
  refine canon_runControl h fun wid w _ => ?_
  repeat refine canonRes_bind fun _ _ => ?_
  grind [Canon, CanonRes, canon_modCtx, canon_acquireAt, canon_writeBack]

theorem canon_execFence (h : Canon s) (f) : CanonOut (execFence f s) := by
  refine canon_runControl h fun wid w _ => ?_
  repeat refine canonRes_bind fun _ _ => ?_
  grind [Canon, CanonRes, canon_setWave, canon_modWave, canon_acquireAt]

theorem canon_execFencea (h : Canon s) (f) : CanonOut (execFencea f s) := by
  refine canon_runControl h fun wid w _ => ?_
  repeat refine canonRes_bind fun _ _ => ?_
  grind [Canon, CanonRes, canon_setWave, canon_fenceaReport]

theorem canon_execBar (h : Canon s) (f) : CanonOut (execBar f s) := by
  refine canon_runControl h fun wid w _ => ?_
  simp only [bind, Except.bind]
  grind [Canon, CanonRes, canon_enterBarrier]

theorem canon_execStep (h : Canon s) (f) : CanonOut (execStep f s) := by
  refine canon_runControl h fun wid w _ => ?_
  repeat refine canonRes_bind fun _ _ => ?_
  grind [Canon, CanonOpt, CanonRes, canon_deliverFault, canon_enterBarrier]

theorem canon_execSig (h : Canon s) (f) : CanonOut (execSig f s) := by
  refine canon_runControl h fun wid w _ => ?_
  grind [Canon, CanonRes, canon_setWave, canon_raiseFault]

theorem canon_execHbeat (h : Canon s) (f) : CanonOut (execHbeat f s) := by
  refine canon_runControl h fun wid w _ => ?_
  repeat refine canonRes_bind fun _ _ => ?_
  grind [Canon, CanonRes, canon_setWave, canon_modLaunch]

theorem canon_execExit (h : Canon s) (f) : CanonOut (execExit f s) := by
  refine canon_runControl h fun wid w _ => ?_
  simp only [bind, Except.bind]
  grind [Canon, CanonOpt, CanonRes, canon_setWave, canon_deliverFault, canon_closeTiles]

theorem canon_execQput (h : Canon s) (f) : CanonOut (execQput f s) := by
  refine canon_runControl h fun wid w _ => ?_
  repeat refine canonRes_bind fun _ _ => ?_
  grind [Canon, CanonApplied, CanonRes, canon_finishApplied, canon_applyQput]

/-! ## Instructions of the lane stream -/

theorem canon_execVprf (h : Canon s) (f) : CanonOut (execVprf f s) :=
  canon_runLane h fun _ _ => canonRes_bind fun _ _ => canon_modWave (canon_foldl (fun _ _ ht => canon_prefetchAt ht ..) _ h) ..

theorem canon_execBrv (h : Canon s) (f) : CanonOut (execBrv f s) := by
  refine canon_runLane h fun L _ => canonRes_bind fun _ _ => ?_
  dsimp only
  split
  · exact h
  · split
    · exact h
    · split
      · exact canon_splitPath h ..
      · trivial

theorem canon_execRegang (h : Canon s) (f) : CanonOut (execRegang f s) := by
  refine canon_runLane h fun L _ => ?_
  grind [Canon, CanonRes, canon_setWave, canon_settle]

theorem canon_execLend (h : Canon s) (f) : CanonOut (execLend f s) := by
  refine canon_runLane h fun L _ => ?_
  grind [Canon, CanonRes, canon_setWave, canon_settle]

theorem canon_execSigv (h : Canon s) (f) : CanonOut (execSigv f s) := by
  refine canon_runLane h fun L _ => ?_
  grind [Canon, CanonRes, canon_setWave, canon_raiseFault]

theorem canon_execTrapv (h : Canon s) (f) : CanonOut (execTrapv f s) := by
  refine canon_runLane h fun L _ => ?_
  repeat refine canonRes_bind fun _ _ => ?_
  grind [Canon, CanonRes, canon_setWave, canon_trapLane]

/-! ## The shapes of elementwise instructions -/

theorem canon_elemMap1 (h : Canon s) (i f g) : CanonOut (elemMap1 i f g s) := by
  unfold elemMap1
  exact canon_laneMap h ..

theorem canon_elemMap2 (h : Canon s) (i f g) : CanonOut (elemMap2 i f g s) := by
  unfold elemMap2
  exact canon_laneMap h ..

theorem canon_elemMap3 (h : Canon s) (i f g) : CanonOut (elemMap3 i f g s) := by
  unfold elemMap3
  exact canon_laneMap h ..

theorem canon_fpMap (h : Canon s) (i f u v) : CanonOut (fpMap i f u v s) := by
  unfold fpMap
  exact canon_laneMap h ..

theorem canon_execVdot4 (h : Canon s) (f) : CanonOut (execVdot4 f s) := by
  unfold execVdot4
  exact canon_laneMap h ..

theorem canon_execVcvt (h : Canon s) (f) : CanonOut (execVcvt f s) := by
  unfold execVcvt
  exact canon_laneMap h ..

theorem canon_execVpack (h : Canon s) (f) : CanonOut (execVpack f s) := by
  unfold execVpack
  exact canon_laneMap h ..

theorem canon_execVunpk (h : Canon s) (f) : CanonOut (execVunpk f s) := by
  unfold execVunpk
  exact canon_laneMap h ..

/-! ## Every instruction -/

/-- Whatever the model executes keeps the form: by what each instruction, word and turn is made of. -/
theorem canon_exec (h : Canon s) (i : Instr) : CanonOut (exec i s) := by
  cases i <;> dsimp only [exec]
  -- instructions of the control stream
  case sadd | ssub | smul | smulhs | smulhu | sdivs | sdivu | srems | sremu | sand | sor | sxor | sandn | sshl | sshr | ssra | smins | smaxs | sminu
    | smaxu | sslts | ssltu | sseq =>
    exact canon_alu3 h ..
  case sclz | spopc => exact canon_alu2 h ..
  case sext | zext | saddi | sandi | sori | sxori | sshli | sshri | ssrai | sslti => exact canon_aluI h ..
  case ret | jr => exact canon_jumpTo h ..
  case beq | bne | blts | bges | bltu | bgeu => exact canon_branch h ..
  case sli | slih | saddl | slea | b | call | loop | lwait | recv | srs | sws | tinv | gangset | mbatch | fenceo | yield | nop =>
    refine canon_runControl h fun wid w _ => ?_
    repeat refine canonRes_bind fun _ _ => ?_
    exact h
  case sld | sst | satom | scas =>
    refine canon_runControl h fun wid w _ => ?_
    repeat refine canonRes_bind fun _ _ => ?_
    exact canon_issueScalar h ..
  case sprf =>
    refine canon_runControl h fun wid w _ => ?_
    repeat refine canonRes_bind fun _ _ => ?_
    exact canon_prefetchAt h ..
  case mlutg =>
    refine canon_runControl h fun wid w _ => ?_
    repeat refine canonRes_bind fun _ _ => ?_
    exact canon_pushEngine h ..
  case waitev =>
    refine canon_runControl h fun wid w _ => ?_
    repeat refine canonRes_bind fun _ _ => ?_
    exact canon_waitevTry h ..
  case trap | brk =>
    refine canon_runControl h fun wid w _ => ?_
    repeat refine canonRes_bind fun _ _ => ?_
    exact canon_trapControl h ..
  case lane => exact canon_execLane h ..
  case mwait => exact canon_execMwait h ..
  case mtest => exact canon_execMtest h ..
  case chpost => exact canon_execChpost h ..
  case chpoll => exact canon_execChpoll h ..
  case fence => exact canon_execFence h ..
  case fencea => exact canon_execFencea h ..
  case bar => exact canon_execBar h ..
  case step => exact canon_execStep h ..
  case sig => exact canon_execSig h ..
  case hbeat => exact canon_execHbeat h ..
  case qput => exact canon_execQput h ..
  case exit => exact canon_execExit h ..
  case tdef => exact canon_installInstr h _ _ _ fun _ _ _ => canon_applyTdef h ..
  case ctload => exact canon_installInstr h _ _ _ fun _ _ _ => canon_applyCtload h ..
  case palld => exact canon_installInstr h _ _ _ fun _ _ _ => canon_applyPalld h ..
  case mclr | mtab | mlut | mxpq | mout | tbdrop | cpt | cpg | cps | cpb | cpmc | send => exact canon_engineIssue h ..
  case dtload => exact canon_privInstr h _ _ _ fun _ _ _ _ => canon_applyDtload h ..
  case capset => exact canon_privInstr h _ _ _ fun _ _ _ _ => canon_applyCapset h ..
  case sbload => exact canon_privInstr h _ _ _ fun _ _ _ _ => canon_applySbload h ..
  case sbflow => exact canon_privInstr h _ _ _ fun _ _ _ _ => canon_applySbflow h ..
  -- instructions of the lane stream
  case vabs | vneg | vclz | vpopc | vrcp | vrsq | vexp2 | vlog2 | vsinp | vcosp | vtanh => exact canon_elemMap1 h ..
  case vadd | vsub | vmul | vmulh | vand | vor | vxor | vshl | vshr | vsra | vmin | vmax | vadds | vsubs | vfmin | vfmax => exact canon_elemMap2 h ..
  case vmad => exact canon_elemMap3 h ..
  case vfadd | vfsub | vfmul | vfma => exact canon_fpMap h ..
  case vbfe | vbfi | vsel | vqnt | vmov | vbcast | vidx | vscan | vballot => exact canon_laneMap h ..
  case vdot4 => exact canon_execVdot4 h _
  case vcvt => exact canon_execVcvt h _
  case vpack => exact canon_execVpack h _
  case vunpk => exact canon_execVunpk h _
  case vpal | vunpal => exact canon_paletteRun h ..
  case qmov | qadd | qsub | qand | qor | qxor | qshl | qshr | qli => exact canon_qMap h ..
  case vatom | vcas => exact canon_laneAtomic h ..
  case vldt | vstt | vste => exact canon_tileInstr h ..
  case vlda | vsta => exact canon_accInstr h ..
  case vcmp | clog | vshuf | vtos | ixset | adset | vtoq | jmpv | callv | retv | nopv =>
    refine canon_runLane h fun L _ => ?_
    repeat refine canonRes_bind fun _ _ => ?_
    exact h
  case vld | vst =>
    refine canon_runLane h fun L _ => ?_
    repeat refine canonRes_bind fun _ _ => ?_
    exact canon_issueLanes h ..
  case brkv => exact canon_runLane h fun L _ => canon_trapLane h ..
  case vprf => exact canon_execVprf h ..
  case brv => exact canon_execBrv h ..
  case regang => exact canon_execRegang h ..
  case lend => exact canon_execLend h ..
  case sigv => exact canon_execSigv h ..
  case trapv => exact canon_execTrapv h ..
  -- words of a signal box
  case boxAdd | boxSub | boxMul | boxMin | boxMax | boxAnd | boxOr | boxXor | boxShl | boxShr | boxCmp | boxSel | boxAddi | boxLdi | boxLdiH |
    boxGetl | boxSetl | boxPld | boxPst | boxFldVector | boxFldScalar | boxFstVector | boxFstScalar | boxFinc | boxHrd | boxHwr | boxQordaTrap | boxEmit |
    boxPass | boxDrop | boxBr | boxRep =>
    exact canon_runWord h _
  -- turns of units and devices
  case contextCreate | contextDestroy | contextHold | contextRelease | unserviceable | invalidate | debugWrite | replayEnable | resetGeneration =>
    exact canon_runCommand h ..
  case fieldTestRequest => exact canon_writeFtctl h _
  case waveClear => exact canon_execWaveClear h ..
  case walkerMonitorWake => exact canon_execWalkerMonitorWake h ..
  case teamPlace => exact canon_execTeamPlace h ..
  case splitChange => exact canon_execSplitChange h ..
  case teamSave => exact canon_execTeamSave h ..
  case teamRestore => exact canon_execTeamRestore h ..
  case qtailWrite => exact canon_execQtailWrite h ..
  case planeMapChange => exact canon_execPlaneMapChange h ..
  case boxPacketRun => exact canon_execBoxPacketRun h ..
  case pseudoChannelDrop => exact canon_execPseudoChannelDrop h ..
  case patrolRead => exact canon_execPatrolRead h ..
  case ecsCountRead => exact canon_execEcsCountRead h ..
  case powerEpoch => exact canon_execPowerEpoch h ..
  case timeSeriesTick => exact canon_execTimeSeriesTick h ..
  case deviceReset => exact canon_execDeviceReset h ..
  case hostWindowAccess => exact canon_execHostWindowAccess h ..
  case windowWriteAccept => exact canon_execWindowWriteAccept h ..
  case loadDataReturn => exact canon_execLoadDataReturn h ..
  case recvFill => exact canon_execRecvFill h ..
  case barrierComplete => exact canon_execBarrierComplete h ..
  case waitevWake => exact canon_execWaitevWake h ..
  case laneBlockStart => exact canon_execLaneBlockStart h ..
  case mlutgLatchComplete => exact canon_execMlutgLatchComplete h ..
  case copyUnit => exact canon_execCopyUnit h ..
  case cpmcComplete => exact canon_execCpmcComplete h ..
  case sendInject => exact canon_execSendInject h ..
  case encoderTileWrite => exact canon_execEncoderTileWrite h ..
  case logReplay => exact canon_execLogReplay h ..
  case walkerRewalkTimer => exact canon_execWalkerRewalkTimer h ..
  case faultRecordHeldWrite => exact canon_execFaultRecordHeldWrite h ..
  case snapshotPageCopy => exact canon_execSnapshotPageCopy h ..
  case cpMemoryRetry => exact canon_execCpMemoryRetry h ..
  case waitEventSatisfied => exact canon_execWaitEventSatisfied h ..
  case teamRetire => exact canon_execTeamRetire h ..
  case launchComplete => exact canon_execLaunchComplete h ..
  case watchdogFire => exact canon_execWatchdogFire h ..
  case launchKill => exact canon_execLaunchKill h ..
  case launchRollback => exact canon_execLaunchRollback h ..
  case replayIntervalStart => exact canon_execReplayIntervalStart h ..
  case replayRun => exact canon_execReplayRun h ..
  case traceSampleTick => exact canon_execTraceSampleTick h ..
  case retryAfterResend => exact canon_execRetryAfterResend h ..
  case heldMessageRetry => exact canon_execHeldMessageRetry h ..
  case lostPacketResend => exact canon_execLostPacketResend h ..
  case fieldTestRun => exact canon_execFieldTestRun h ..
  case fieldTestComplete => exact canon_execFieldTestComplete h ..
  case storePerformed => exact canon_execStorePerformed h ..
  case lwaitComplete => exact canon_execLwaitComplete h ..
  case mwaitComplete => exact canon_execMwaitComplete h ..
  case fenceaComplete => exact canon_execFenceaComplete h ..
  case mclrExecute => exact canon_execMclrExecute h ..
  case mtabExecute => exact canon_execMtabExecute h ..
  case mxpqExecute => exact canon_execMxpqExecute h ..
  case moutExecute => exact canon_execMoutExecute h ..
  case tbdropExecute => exact canon_execTbdropExecute h ..
  case mlutExecute => exact canon_execMlutExecute h ..
  case launchTake => exact canon_execLaunchTake h ..
  case linkReplay => exact canon_execLinkReplay h ..
  case portRetire => exact canon_execPortRetire h ..
  case planeDead => exact canon_execPlaneDead h ..
  case packageUnreachable => exact canon_execPackageUnreachable h ..
  case thermalTrip => exact canon_execThermalTrip h ..
  case counterReprogram => exact canon_execCounterReprogram h ..
  case linkEyeUpdate => exact canon_execLinkEyeUpdate h ..
  case fieldTestInterval => exact canon_execFieldTestInterval h ..
  case functionReady => exact canon_execFunctionReady h ..
  case firmwareUpdate => exact canon_execFirmwareUpdate h ..
  case attestationRequest => exact canon_execAttestationRequest h ..
  case registerWrite => exact canon_execRegisterWrite h ..
  case linkRetrain => exact canon_execLinkRetrain h ..
  case readPacket => exact canon_execReadPacket h ..
  case readData => exact canon_execReadData h ..
  case writePacket => exact canon_execWritePacket h ..
  case maskedWrite => exact canon_execMaskedWrite h ..
  case atomicPacket => exact canon_execAtomicPacket h ..
  case atomicResult => exact canon_execAtomicResult h ..
  case writeAcknowledgment => exact canon_execWriteAcknowledgment h ..
  case refusal => exact canon_execRefusal h ..
  case invalidatePacket => exact canon_execInvalidatePacket h ..
  case invalidateAcknowledgment => exact canon_execInvalidateAcknowledgment h ..
  case messagePacket => exact canon_execMessagePacket h ..
  case messageAcknowledgment => exact canon_execMessageAcknowledgment h ..
  case emittedPacket => exact canon_execEmittedPacket h ..
  case managementPacket => exact canon_execManagementPacket h ..

end
end Sys2Proof.Machine
end

/-! # The canonical form of memory: turns and steps (R293) -/

section
namespace Sys2Proof.Machine

open Sys2Proof.Laws

section
variable {s : State}

theorem canon_thenState {f : State → State} (hf : ∀ t, Canon t → Canon (f t)) {o : Out} (ho : CanonOut o) : CanonOut (thenState f o) := by
  cases o with
  | next t => exact hf t ho
  | fault f => trivial
  | refused r => trivial

/-! ## What follows an instruction: the debug unit -/

theorem canon_hitTrace (h : Canon s) (c a st qentry detail) : Canon (hitTrace s c a st qentry detail) := canon_traceEvent h ..

theorem canon_holdOthers (h : Canon s) (a hold) : Canon (holdOthers s a hold) := by
  unfold holdOthers
  grind [canon_modWave, canon_releaseActor, canon_holdLaunch]

theorem canon_takeHit (h : Canon s) (c a st unit qentry hit deferred) : Canon (takeHit s c a st unit qentry hit deferred) :=
  canon_hitTrace (canon_holdOthers (canon_takeFault h ..) ..) ..

theorem canon_takeHits (h : Canon s) (c a st qentry hs) : Canon (takeHits s c a st qentry hs) := by
  have ht : Canon ((hs.filter (fun h => h.traceOnly)).foldl (fun t h => hitTrace t c a st qentry h.detail) s) :=
    canon_foldl (fun _ _ hu => canon_hitTrace hu ..) _ h
  unfold takeHits
  dsimp only
  split
  · exact canon_takeHit ht ..
  · exact ht

theorem canon_deliverHits (h : Canon s) (wid batch) : Canon (deliverHits s wid batch) := by
  unfold deliverHits
  split
  · exact h
  · split
    · exact canon_foldl (fun _ _ ht => canon_takeHit ht ..) _ (canon_modWave h ..)
    · exact h

theorem canon_orphanTrace (h : Canon s) (c wid l pc detail) : Canon (orphanTrace s c wid l pc detail) := canon_traceEvent h ..

theorem canon_engineHit (h : Canon s) (c wid l orphan pc unit op batch hit) : Canon (engineHit s c wid l orphan pc unit op batch hit) := by
  unfold engineHit
  grind [canon_orphanTrace, canon_hitTrace, canon_modWave]

theorem canon_noteTileHits (h : Canon s) (team o ns) : Canon (noteTileHits team o ns s) := h

theorem canon_engineAfter (s : State) {t : State} (ht : Canon t) (wid w) : Canon (engineAfter s t wid w) := by
  unfold engineAfter
  split
  · split
    · exact ht
    · refine canon_foldl (fun _ _ hu => canon_noteTileHits (canon_foldl (fun _ _ hv => canon_engineHit hv ..) _ hu) ..) _ ?_
      exact canon_foldl (fun _ _ hu => canon_modItem (canon_foldl (fun _ _ hv => canon_engineHit hv ..) _ hu) ..) _ ht
  · exact ht

theorem canon_orphanHits (h : Canon s) (wid w) : Canon (orphanHits s wid w) := by
  unfold orphanHits
  split
  · exact canon_foldl (fun _ _ ht => canon_orphanTrace ht ..) _ h
  · exact h

theorem canon_orphansOf (s : State) {t : State} (ht : Canon t) : Canon (orphansOf s t) := by
  have hsaved (ps : List (Nat × Wave)) : Canon (ps.foldl (fun t p => if stoppedNow s t p.2 then orphanHits t p.1 p.2 else t) t) := by
    refine canon_foldl (fun u p hu => ?_) ps ht
    split
    · exact canon_orphanHits hu ..
    · exact hu
  exact hsaved _

/-! ## What follows an instruction: the lines that its accesses bring, and the log of an interval -/

theorem canon_allocLine (h : Canon s) (wid w x hint k line) : Canon (allocLine wid w x hint k s line) := by
  unfold allocLine
  grind [canon_loadL2, canon_touchCopy]

theorem canon_allocTouch (h : Canon s) (wid w x hint k) : Canon (allocTouch wid w x hint s k) := by
  unfold allocTouch
  split
  · exact canon_foldl (fun _ _ ht => canon_allocLine ht ..) _ h
  · exact h

theorem canon_allocFormed (s : State) {t : State} (ht : Canon t) (x wid w w') : Canon (allocFormed s x wid w w' t) :=
  canon_foldl (fun _ _ hu => canon_foldl (fun _ _ hv => canon_allocTouch hv ..) _ hu) _ ht

theorem canon_allocInstr (s : State) {t : State} (ht : Canon t) (a i) : Canon (allocInstr s t a i) := by
  unfold allocInstr
  split
  · split
    · dsimp only
      split
      · exact canon_allocFormed s ht ..
      · exact canon_foldl (fun _ _ hu => canon_allocTouch hu ..) _ (canon_allocFormed s ht ..)
    · exact ht
  · exact ht

theorem canon_allocEvent (s : State) {t : State} (ht : Canon t) (wid w) : Canon (allocEvent s t wid w) := by
  unfold allocEvent
  split
  · split
    · exact ht
    · exact canon_foldl (fun _ _ hu => canon_foldl (fun _ _ hv => canon_allocTouch hv ..) _ hu) _ (canon_allocFormed s ht ..)
  · exact ht

theorem canon_modInterval (h : Canon s) (lid wave number f) : Canon (modInterval s lid wave number f) := h

theorem canon_markDue (h : Canon s) (wid) : Canon (markDue s wid) := h

theorem canon_logInstr (s : State) {t : State} (ht : Canon t) (a i) : Canon (logInstr s t a i) := by
  unfold logInstr
  grind [canon_modInterval, canon_markDue]

theorem canon_afterInstr (s : State) {t : State} (ht : Canon t) (a i) : Canon (afterInstr s t a i) := by
  unfold afterInstr
  grind [canon_allocInstr, canon_logInstr, canon_takeHits, canon_deliverHits]

theorem canon_logEvent (s : State) (i) {t : State} (ht : Canon t) (wid w) : Canon (logEvent s i t wid w) := by
  unfold logEvent
  grind [canon_modInterval, canon_markDue]

theorem canon_waitEnded (s : State) {t : State} (ht : Canon t) (wid w) : Canon (waitEnded s t wid w) := by
  unfold waitEnded
  grind [canon_takeHits, canon_deliverHits]

theorem canon_afterTurn (s : State) (i) {t : State} (ht : Canon t) : Canon (afterTurn s i t) := by
  unfold afterTurn
  split
  · exact ht
  · extract_lets a l
    have ha : Canon a := canon_foldl (fun _ _ hu => canon_allocEvent s hu ..) _ ht
    have hl : Canon l := by
      unfold l
      split
      · exact ha
      · exact canon_foldl (fun _ _ hu => canon_logEvent s i hu ..) _ ha
    split
    · exact hl
    · exact canon_orphansOf s (canon_foldl (fun _ _ hu => canon_waitEnded s (canon_engineAfter s hu ..) ..) _ hl)

theorem canon_logChoice (s : State) {t : State} (ht : Canon t) (w e) : Canon (logChoice s t w e) := by
  unfold logChoice
  grind [Canon]

/-! ## The turn of an actor -/

theorem canon_leaveYield (h : Canon s) (a) : Canon (leaveYield s a) := canon_modWave h ..

theorem canon_runActor (h : Canon s) (a) : CanonOut (runActor s a) := by
  unfold runActor
  split
  · exact canon_stall h
  · split
    · extract_lets u
      have hu : Canon u := canon_leaveYield (s := { s with actor := a }) h a
      split
      · exact canon_stall hu
      · split
        · exact canon_deliverHits hu ..
        · exact canon_thenState (fun _ ht => canon_afterInstr u ht ..) (canon_exec hu _)
      · exact canon_raiseFault hu ..
      · exact canon_setFetchWait (canon_takeFault hu ..) ..
    · exact canon_stall h

/-- The states that looking at an actor leaves. -/
def CanonTried : Tried → Prop
  | .no => True
  | .asked t => Canon t
  | .issued o => CanonOut o

theorem canon_attempt (h : Canon s) (a) : CanonTried (attempt s a) := by
  have hrun := canon_runActor h a
  unfold attempt
  grind [CanonTried, CanonOut]

/-- The state that a search for a ready actor leaves, and the outcome that it finds. -/
def CanonFound {α : Type} (out : α → Out) (r : State × Option α) : Prop :=
  Canon r.1 ∧ ∀ x, r.2 = some x → CanonOut (out x)

theorem canon_firstReady : ∀ (as : List (Nat × Actor)) {s : State}, Canon s → CanonFound (fun r => r.2) (firstReady s as)
  | [], _, h => ⟨h, fun _ hn => nomatch hn⟩
  | (k, a) :: r, s, h => by
    have htry := canon_attempt h a
    simp only [firstReady]
    split
    · next o ho =>
      rw [ho] at htry
      exact ⟨h, fun x hx => by cases hx; exact htry⟩
    · next t ht =>
      rw [ht] at htry
      exact canon_firstReady r htry
    · exact canon_firstReady r h

theorem canon_noneIssued (h : Canon s) {t : State} (ht : Canon t) : CanonOut (noneIssued s t) := by
  unfold noneIssued
  grind [CanonOut, canon_stall]

theorem canon_selectPath (h : Canon s) (wid w) : CanonFound (fun r => r.2.2) (selectPath s wid w) := by
  unfold selectPath
  extract_lets second
  have hsecond : CanonFound (fun r => r.2) second := by
    unfold second
    split
    · exact canon_firstReady _ h
    · exact ⟨h, fun _ hn => nomatch hn⟩
  clear_value second
  obtain ⟨t, o⟩ := second
  obtain ⟨hstate, hout⟩ := hsecond
  cases o with
  | some r => exact ⟨hstate, fun x hx => by cases hx; exact hout r rfl⟩
  | none =>
    obtain ⟨hnext, hothers⟩ := canon_firstReady ((after w.pathPtr 16).map (fun e => (e, .path wid e))) hstate
    refine ⟨hnext, fun x hx => ?_⟩
    obtain ⟨r, hr, rfl⟩ := Option.map_eq_some_iff.mp hx
    exact hothers r hr

theorem canon_selected (h : Canon s) (core pipe k wid p pair) : Canon (selected core pipe k wid p pair s) := h

theorem canon_selectPipe (core pipe) : ∀ (ks : List Nat) {s : State}, Canon s → CanonFound id (selectPipe s core pipe ks)
  | [], _, h => ⟨h, fun _ hn => nomatch hn⟩
  | k :: r, s, h => by
    simp only [selectPipe]
    split
    · exact canon_selectPipe core pipe r h
    · next w _ =>
      obtain ⟨hstate, hout⟩ := canon_selectPath h (core * 32 + pipe * 8 + k) w
      split
      · next ho =>
        rw [ho] at hstate hout
        exact ⟨hstate, fun x hx => by cases hx; exact canon_thenState (fun _ ht => canon_selected ht ..) (hout _ rfl)⟩
      · next ho =>
        rw [ho] at hstate
        exact canon_selectPipe core pipe r hstate

theorem canon_noteSample (s : State) (wid w issued) {t : State} (ht : Canon t) : Canon (noteSample s wid w issued t) := by
  unfold noteSample
  split
  · exact canon_modWave ht ..
  · exact canon_modWave (canon_freeNatOf ht) ..

theorem canon_markSamples (s : State) (core pipe issued) {t : State} (ht : Canon t) : Canon (markSamples s core pipe issued t) :=
  canon_foldl (fun _ _ hu => canon_noteSample s _ _ _ hu) _ ht

theorem canon_noteChoice (s : State) (core pipe) {t : State} (ht : Canon t) : Canon (noteChoice s core pipe t) := by
  unfold noteChoice
  grind [canon_logChoice]

theorem canon_afterSelection (s : State) (core pipe) {t : State} (ht : Canon t) : Canon (afterSelection s core pipe t) :=
  canon_noteChoice s core pipe (canon_markSamples s core pipe true ht)

theorem canon_noteYard (s : State) (core k) {t : State} (ht : Canon t) : Canon (noteYard s core k t) := by
  unfold noteYard
  grind [canon_logChoice]

/-! ## The turns of the issue units -/

theorem canon_runPipe (h : Canon s) (core pipe) : CanonOut (runPipe s core pipe) := by
  unfold runPipe
  extract_lets c
  split
  · exact canon_stall h
  · obtain ⟨hstate, hout⟩ := canon_selectPipe core pipe (after (Cells.get 7 c.pipePtr pipe) 8) h
    split
    · next t o ho =>
      rw [ho] at hout
      exact canon_thenState (fun _ hu => canon_afterSelection t core pipe hu) (hout o rfl)
    · next t ho =>
      rw [ho] at hstate
      exact canon_markSamples t core pipe false (t := { t with stalled := decide (t = s) }) hstate

theorem canon_runYard (h : Canon s) (core) : CanonOut (runYard s core) := by
  unfold runYard
  extract_lets c xs
  obtain ⟨hstate, hout⟩ := canon_firstReady (xs.filter (fun x => decide (c.yardPtr < x.1)) ++ xs.filter (fun x => decide (x.1 ≤ c.yardPtr))) h
  split
  · next u k o ho =>
    rw [ho] at hout
    exact canon_thenState (fun _ ht => canon_noteYard u core k (canon_setCore ht ..)) (hout _ rfl)
  · next t ho =>
    rw [ho] at hstate
    exact canon_noneIssued h hstate

theorem canon_runScalar (h : Canon s) (core) : CanonOut (runScalar s core) := by
  unfold runScalar
  extract_lets c
  obtain ⟨hstate, hout⟩ := canon_firstReady ((after c.scalarPtr 32).map (fun k => (k, Actor.control (core * 32 + k)))) h
  split
  · next ho =>
    rw [ho] at hout
    exact canon_thenState (fun _ ht => canon_setCore ht ..) (hout _ rfl)
  · next ho =>
    rw [ho] at hstate
    exact canon_noneIssued h hstate

theorem canon_runBox (h : Canon s) (sel) : CanonOut (runBox s sel) := by
  unfold runBox
  split
  · split
    · split
      · exact canon_exec (s := { s with actor := .box sel }) h _
      · exact canon_trapRun h ..
    · exact canon_stall h
  · exact canon_stall h

/-! ## Time and errors -/

theorem canon_advanceRings (h : Canon s) : Canon (advanceRings s) := h

theorem canon_advanceCounters (h : Canon s) (cycles) : Canon (advanceCounters s cycles) := by
  unfold advanceCounters
  split
  · exact h
  · exact h

theorem canon_runTick (h : Canon s) (cycles) : CanonOut (runTick s cycles) := canon_advanceCounters (canon_advanceRings h) cycles

theorem canon_lockstepError (h : Canon s) (wid v0 v1) : CanonOut (lockstepError s wid v0 v1) := by
  unfold lockstepError
  split
  · exact canon_raiseFault (s := { s with actor := .control wid }) h ..
  · exact canon_stall h

theorem canon_readError (h : Canon s) (line found) : CanonOut (readError s line found) := by
  unfold readError
  split
  · exact canon_stall h
  · split
    · exact canon_stall h
    · exact canon_setStack h ..
    · exact canon_setTag (canon_setStack h ..) ..

theorem canon_setCheck (h : Canon s) (q d) : Canon { s with checks := Cells.set 0 s.checks q d } :=
  ⟨h.1, h.2.1, Cells.wf_set 0 s.checks q d h.2.2⟩

theorem canon_checkError (h : Canon s) (place d) : CanonOut (checkError s place d) := by
  have hchecks (q) := canon_setCheck h q
  unfold checkError
  grind [CanonOut, canon_stall, canon_setL2, canon_setCore, canon_modTeam, canon_setCluster]

theorem canon_expandError (h : Canon s) (line) : CanonOut (expandError s line) := by
  unfold expandError
  split
  · exact canon_stall h
  · exact canon_setTag h ..

theorem canon_encodeError (h : Canon s) (c line) : CanonOut (encodeError s c line) := by
  unfold encodeError
  grind [CanonOut, canon_stall, canon_retag, canon_evictL2]

/-! ## Every step -/

theorem canon_runTurn (h : Canon s) (t : Turn) : CanonOut (runTurn s t) := by
  cases t with
  | scalar core => exact canon_runScalar h core
  | pipe core pipe => exact canon_runPipe h core pipe
  | yard core => exact canon_runYard h core
  | box sel => exact canon_runBox h sel
  | event i =>
    simp only [runTurn]
    split
    · exact canon_thenState (fun _ ht => canon_afterTurn s i ht) (canon_exec h i)
    · exact canon_stall h
  | tick n => exact canon_runTick h n
  | cacheWalk c va => exact canon_cacheWalk h c va
  | evictWalk c va => exact canon_evictWalk h c va
  | lockstepError wid v0 v1 => exact canon_lockstepError h wid v0 v1
  | readError k found => exact canon_readError h k found
  | checkError a d => exact canon_checkError h a d
  | expandError k => exact canon_expandError h k
  | encodeError c k => exact canon_encodeError h c k
  | hostWrite => exact canon_hostWrite h
  | evictLine c k =>
    simp only [runTurn]
    split
    · next ht => exact canon_of_some (canon_evictTurn h c k) ht
    · exact canon_stall h

theorem canon_nextTurn (h : Canon s) : Canon (nextTurn s).2 := by
  unfold nextTurn
  split
  · exact h
  · exact h

end

/-- Settles O59: a step is one turn, and each turn is made of operations that keep memory, tags and check values canonical. -/
theorem memoryStaysCanonical : Obligations.MemoryStaysCanonical := by
  unfold Obligations.MemoryStaysCanonical
  intro s t h hstep
  exact canon_iff.mp (canon_of_next (canon_runTurn (canon_nextTurn (canon_iff.mpr h)) _) hstep)

end Sys2Proof.Machine
end
